-- ==== Sys2Proof/Word.lean ====
section
/-! DEFINITION. The word types of the module (spec/00_scope.md R17: registers are 64 bits, memory is
addressed by bytes, multi-byte fields are little-endian). -/

namespace Sys2Proof

/-- One byte of memory. -/
abbrev Byte := BitVec 8
/-- A 16-bit field. -/
abbrev W16 := BitVec 16
/-- A thread register, a group instruction word's half, a 32-bit interrupt write. -/
abbrev W32 := BitVec 32
/-- A register of the aperture (R17), a doubleword. -/
abbrev W64 := BitVec 64

end Sys2Proof
end

