-- ==== Sys2Proof/Machine/Bits.lean ====
section
/-! DEFINITION. Bit fields, bytes and little-endian fields (spec/00_scope.md R17). -/

namespace Sys2Proof.Machine

/-- Bits hi..lo of a register, as a number (R17: bit 0 is the least significant). -/
def fld (hi lo : Nat) (x : W64) : Nat := x.toNat / 2 ^ lo % 2 ^ (hi - lo + 1)

/-- Bit n of a register. -/
def bit (n : Nat) (x : W64) : Bool := x.toNat / 2 ^ n % 2 == 1

/-- The register with bits hi..lo replaced by v. -/
def setFld (hi lo : Nat) (x : W64) (v : Nat) : W64 :=
  BitVec.ofNat 64 (x.toNat - fld hi lo x * 2 ^ lo + v % 2 ^ (hi - lo + 1) * 2 ^ lo)

/-- The register with bit n set to b. -/
def setBit (n : Nat) (x : W64) (b : Bool) : W64 := setFld n n x b.toNat

/-- Bits hi..lo of a number. -/
def nfld (hi lo x : Nat) : Nat := x / 2 ^ lo % 2 ^ (hi - lo + 1)

/-- Bit n of a number. -/
def nbit (n x : Nat) : Bool := x / 2 ^ n % 2 == 1

/-- Adds up to a ceiling: the counts of R526 that stay at their field's all-ones value. -/
def satAdd (max a b : Nat) : Nat := if a + b ≤ max then a + b else max

/-- A register field incremented by n, staying at all ones (R526). -/
def satFld (hi lo : Nat) (x : W64) (n : Nat) : W64 :=
  setFld hi lo x (satAdd (2 ^ (hi - lo + 1) - 1) (fld hi lo x) n)

/-- A number as w little-endian bytes (R17). -/
def leBytes : Nat → Nat → List Byte
  | 0, _ => []
  | w + 1, v => BitVec.ofNat 8 v :: leBytes w (v / 256)

/-- The number that little-endian bytes spell (R17). -/
def leNat : List Byte → Nat
  | [] => 0
  | b :: bs => b.toNat + 256 * leNat bs

/-- The w-byte little-endian field at byte offset o of a block of bytes; bytes beyond its end read 0. -/
def fieldAt (bs : List Byte) (o w : Nat) : Nat := leNat ((bs.drop o).take w)

/-- A number of w bits read as two's complement. -/
def toSigned (w v : Nat) : Int :=
  if v % 2 ^ w < 2 ^ (w - 1) then (v % 2 ^ w : Nat) else (v % 2 ^ w : Nat) - (2 ^ w : Nat)

/-- An integer as w bits of two's complement. -/
def ofSigned (w : Nat) (i : Int) : Nat := (i % (2 ^ w : Nat)).toNat

/-- The difference of two 32-bit indices modulo 2^32 (R347). -/
def idxSub (a b : Nat) : Nat := (a + (2 ^ 32 - b % 2 ^ 32)) % 2 ^ 32

/-- Positions below n of the 1 bits of a mask, ascending. -/
def maskBits (n m : Nat) : List Nat := (List.range n).filter (fun i => nbit i m)

/-- The mask whose 1 bits are the listed positions. -/
def maskOf (l : List Nat) : Nat := l.foldl (fun a i => if nbit i a then a else a + 2 ^ i) 0

/-- The number of 1 bits below position n. -/
def popCount (n m : Nat) : Nat := (maskBits n m).length

/-- Round up to a multiple of a (a > 0). -/
def alignUp (a x : Nat) : Nat := (x + a - 1) / a * a

/-- Ceiling division. -/
def ceilDiv (a b : Nat) : Nat := (a + b - 1) / b

/-- Replace element i of a list, when it has one. -/
def setAt {α : Type} (l : List α) (i : Nat) (v : α) : List α := l.set i v

/-- Change the first element that satisfies p. -/
def updFirst {α : Type} (p : α → Bool) (f : α → α) : List α → List α
  | [] => []
  | x :: xs => if p x then f x :: xs else x :: updFirst p f xs

/-- Remove the first element that satisfies p. -/
def dropFirst {α : Type} (p : α → Bool) : List α → List α
  | [] => []
  | x :: xs => if p x then xs else x :: dropFirst p xs

/-- Change every element that satisfies p. -/
def updAll {α : Type} (p : α → Bool) (f : α → α) (l : List α) : List α :=
  l.map (fun x => if p x then f x else x)

end Sys2Proof.Machine
end

