-- ==== Sys2Proof/Machine/Crc.lean ====
section
/-! DEFINITION. The cyclic checks the spec names: CRC-16 (spec/04_compute_units.md R109,
spec/14_holarn_fabric.md R393), CRC-32C (spec/03_stations_and_streams.md R73) and CRC-64 (R395). -/

namespace Sys2Proof.Machine

/-- One bit of a check whose register shifts toward the most significant bit. -/
def crcBitHi (w poly : Nat) (c : Nat) : Nat :=
  if nbit (w - 1) c then (c * 2 % 2 ^ w) ^^^ poly else c * 2 % 2 ^ w

/-- One byte, most significant bit first. -/
def crcByteHi (w poly c : Nat) (b : Byte) : Nat :=
  Nat.repeat (crcBitHi w poly) 8 (c ^^^ b.toNat * 2 ^ (w - 8))

/-- CRC-16, polynomial 0x1021, initial value 0xFFFF, no reflection, no inversion (R109). -/
def crc16 (bs : List Byte) : Nat := bs.foldl (crcByteHi 16 0x1021) 0xFFFF

/-- CRC-64, polynomial 0x42F0_E1EB_A9EA_3693 (R395); initial value 0, no reflection, no inversion (log entry
26). -/
def crc64 (bs : List Byte) : Nat := bs.foldl (crcByteHi 64 0x42F0E1EBA9EA3693) 0

/-- One bit of a check whose register shifts toward the least significant bit. -/
def crcBitLo (poly c : Nat) : Nat := if c % 2 = 1 then c / 2 ^^^ poly else c / 2

/-- The frame check sequence of IEEE 802.3 (spec/14_holarn_fabric.md R382), as IEEE 802.3 defines it (log entry 26). -/
def crc32Eth (bs : List Byte) : Nat :=
  bs.foldl (fun c b => Nat.repeat (crcBitLo 0xEDB88320) 8 (c ^^^ b.toNat)) 0xFFFFFFFF ^^^ 0xFFFFFFFF

/-- CRC-32C, the Castagnoli polynomial 0x1EDC_6F41 in reflected form, initial value and final inversion all
ones (log entry 26). -/
def crc32c (bs : List Byte) : Nat :=
  bs.foldl (fun c b => Nat.repeat (crcBitLo 0x82F63B78) 8 (c ^^^ b.toNat)) 0xFFFFFFFF ^^^ 0xFFFFFFFF

end Sys2Proof.Machine
end

