-- ==== Sys2Proof/Machine/Float.lean ====
section
/-! DEFINITION. Number formats, rounding and binary32 arithmetic (spec/06_arithmetic.md R154 to R165;
spec/07_thread_groups.md R178). A finite value is kept exactly, as a sign, a natural number and a power of
two. -/

namespace Sys2Proof.Machine

/-- A value of a format: NaN, an infinity, or (−1)^neg × m × 2^e exactly; a zero keeps its sign. -/
inductive Num where
  | nan
  | inf (neg : Bool)
  | fin (neg : Bool) (m : Nat) (e : Int)
  deriving DecidableEq, Repr

/-! ### Formats (R154, R155) -/

/-- How a floating-point format spends its top exponent. -/
inductive Special where
  /-- IEEE: all-ones exponents are infinities and NaNs. -/
  | ieee
  /-- OFP8 E4M3: 0x7F and 0xFF are NaN. -/
  | e4m3
  /-- Every pattern is a number. -/
  | none
  deriving DecidableEq, Repr

/-- A format code's kind. -/
inductive FmtKind where
  /-- Floating: exponent bits, fraction bits, bias, specials, MX element. -/
  | fp (eb fb bias : Nat) (sp : Special) (mx : Bool)
  /-- Two's complement of some bits times 2^-frac; MX element. -/
  | int (bits frac : Nat) (mx : Bool)
  deriving DecidableEq, Repr

/-- The format of a code (R74, R154); none for an undefined code. -/
def fmtKind : Nat → Option FmtKind
  | 0x01 => some (.fp 8 23 127 .ieee false)
  | 0x02 => some (.fp 8 7 127 .ieee false)
  | 0x03 => some (.fp 5 10 15 .ieee false)
  | 0x04 => some (.fp 4 3 7 .e4m3 false)
  | 0x05 => some (.fp 5 2 15 .ieee false)
  | 0x06 => some (.fp 4 3 7 .e4m3 true)
  | 0x07 => some (.fp 5 2 15 .ieee true)
  | 0x08 => some (.fp 3 2 3 .none true)
  | 0x09 => some (.fp 2 3 1 .none true)
  | 0x0A => some (.fp 2 1 1 .none true)
  | 0x0B => some (.int 8 6 true)
  | 0x0C => some (.int 8 0 false)
  | 0x0D => some (.int 4 0 false)
  | 0x0E => some (.int 32 0 false)
  | _ => none

/-- Bits of an element. -/
def FmtKind.bits : FmtKind → Nat
  | .fp eb fb _ _ _ => 1 + eb + fb
  | .int b _ _ => b

/-- The value that a bit pattern encodes (R154, R155). -/
def FmtKind.decode (k : FmtKind) (x : Nat) : Num :=
  match k with
  | .fp eb fb bias sp _ =>
    let s := nbit (eb + fb) x
    let e := x / 2 ^ fb % 2 ^ eb
    let f := x % 2 ^ fb
    if sp = .ieee ∧ e = 2 ^ eb - 1 then (if f = 0 then .inf s else .nan)
    else if sp = .e4m3 ∧ e = 15 ∧ f = 7 then .nan
    else if e = 0 then .fin s f (1 - (bias : Int) - fb)
    else .fin s (2 ^ fb + f) (e - (bias : Int) - fb)
  | .int b fr _ =>
    let v := toSigned b x
    .fin (decide (v < 0)) v.natAbs (-(fr : Int))

/-- binary32. -/
def f32k : FmtKind := .fp 8 23 127 .ieee false

/-- Decode a binary32 pattern. -/
def dec32 (x : Nat) : Num := f32k.decode x

/-- The canonical NaN of binary32 (R155). -/
def nan32 : Nat := 0x7FC00000

/-! ### Rounding (R162, R163) -/

/-- Round m × 2^e to a multiple of 2^q: the multiplier, in mode rnd with random value r. -/
def roundTo (rnd r m : Nat) (e q : Int) : Nat :=
  if q ≤ e then m * 2 ^ (e - q).toNat
  else
    let sh := (q - e).toNat
    let k := m / 2 ^ sh
    let rem := m % 2 ^ sh
    if rem = 0 then k
    else match rnd with
      | 0 => if 2 ^ sh < 2 * rem ∨ (2 * rem = 2 ^ sh ∧ k % 2 = 1) then k + 1 else k
      | 1 => k
      | 2 => if k % 2 = 1 then k else k + 1
      | _ => if r < rem * 2 ^ 32 / 2 ^ sh then k + 1 else k

/-- m × 2^e is above k × 2^q: compares exactly. -/
def gtScaled (m : Nat) (e : Int) (k : Nat) (q : Int) : Bool :=
  if q ≤ e then decide (k < m * 2 ^ (e - q).toNat) else decide (k * 2 ^ (q - e).toNat < m)

/-- The largest finite value of a floating format: multiplier and exponent. -/
def maxFinite (eb fb bias : Nat) (sp : Special) : Nat × Int :=
  match sp with
  | .ieee => (2 ^ (fb + 1) - 1, (2 ^ eb - 2 : Int) - bias - fb)
  | .e4m3 => (14, 5)
  | .none => (2 ^ (fb + 1) - 1, (2 ^ eb - 1 : Int) - bias - fb)

/-- What a value beyond the largest finite one becomes: none for overflow, else ±M (R163). -/
def overflows (rnd r m : Nat) (e : Int) (mm : Nat) (qm : Int) : Bool :=
  match rnd with
  | 0 => !gtScaled (2 * mm + 1) (qm - 1) m e
  | 1 => false
  | 2 => false
  | _ =>
    -- |x| − M in units of 2^-32 u, floored
    let f := if qm - 32 ≤ e then m * 2 ^ (e - (qm - 32)).toNat - mm * 2 ^ 32
      else m / 2 ^ (qm - 32 - e).toNat - mm * 2 ^ 32
    decide (r < f)

/-- The pattern of k × 2^q, k < 2^(F+1) or a power of two just above, without its sign. -/
def encFin (fb bias k : Nat) (q : Int) : Nat :=
  (q - (1 - (bias : Int) - fb)).toNat * 2 ^ fb + k

/-- Convert a value to a format's bit pattern under a mode, a random value and SAT (R162, R163). -/
def FmtKind.encode (k : FmtKind) (rnd r : Nat) (sat : Bool) (x : Num) : Nat :=
  match k with
  | .fp eb fb bias sp mx =>
    let sgn (n : Bool) : Nat := if n then 2 ^ (eb + fb) else 0
    let (mm, qm) := maxFinite eb fb bias sp
    let top (n : Bool) : Nat := sgn n + encFin fb bias mm qm
    let ofp8 := decide (eb + fb = 7)
    let past (n : Bool) : Nat :=
      if sp = .none then top n
      else if ofp8 && sat then top n
      else if sp = .e4m3 then 0x7F
      else sgn n + (2 ^ eb - 1) * 2 ^ fb
    match x with
    | .nan =>
      if sp = .none then 0 else if sp = .e4m3 then 0x7F
      else (2 ^ eb - 1) * 2 ^ fb + 2 ^ (fb - 1)
    | .inf n => past n
    | .fin n m e =>
      if m = 0 then (if mx && decide (sp = .none) then 0 else sgn n)
      else if gtScaled m e mm qm then
        (if decide (sp = .none) || overflows rnd r m e mm qm then past n else top n)
      else
        let qmin := 1 - (bias : Int) - fb
        let q := max qmin (m.log2 + e - fb)
        let kk := roundTo rnd r m e q
        if kk = 0 ∧ mx ∧ sp = .none then 0 else sgn n + encFin fb bias kk q
  | .int b fr _ =>
    match x with
    | .nan => 0
    | .inf n => ofSigned b (if n then -(2 ^ (b - 1) : Int) else 2 ^ (b - 1) - 1)
    | .fin n m e =>
      let kk : Int := roundTo rnd r m e (-(fr : Int))
      let v := if n then -kk else kk
      ofSigned b (max (-(2 ^ (b - 1) : Int)) (min (2 ^ (b - 1) - 1) v))

/-- Round a value to binary32. -/
def enc32 (rnd r : Nat) (x : Num) : Nat := f32k.encode rnd r false x

/-! ### Exact sums and products -/

/-- A signed multiplier. -/
def sgnInt (neg : Bool) (m : Nat) : Int := if neg then -(m : Int) else m

/-- The exact sum of two finite values as an integer times 2^e. -/
def addExact (n1 : Bool) (m1 : Nat) (e1 : Int) (n2 : Bool) (m2 : Nat) (e2 : Int) : Int × Int :=
  let e := min e1 e2
  (sgnInt n1 m1 * 2 ^ (e1 - e).toNat + sgnInt n2 m2 * 2 ^ (e2 - e).toNat, e)

/-- The exact product (NaN for zero times infinity). -/
def Num.mul : Num → Num → Num
  | .nan, _ => .nan
  | _, .nan => .nan
  | .inf a, .inf b => .inf (a != b)
  | .inf a, .fin b m _ => if m = 0 then .nan else .inf (a != b)
  | .fin a m _, .inf b => if m = 0 then .nan else .inf (a != b)
  | .fin a m e, .fin b m' e' => .fin (a != b) (m * m') (e + e')

/-- The exact sum, an exact zero being −0 only when both are −0 (IEEE 754 to nearest; R165). -/
def Num.add : Num → Num → Num
  | .nan, _ => .nan
  | _, .nan => .nan
  | .inf a, .inf b => if a = b then .inf a else .nan
  | .inf a, .fin _ _ _ => .inf a
  | .fin _ _ _, .inf b => .inf b
  | .fin a m e, .fin b m' e' =>
    let (v, q) := addExact a m e b m' e'
    if v = 0 then .fin (a && b && decide (m = 0) && decide (m' = 0)) 0 0
    else .fin (decide (v < 0)) v.natAbs q

/-- The value less than another: none where one is NaN; the zeros are equal. -/
def Num.lt : Num → Num → Bool
  | .nan, _ => false
  | _, .nan => false
  | .inf a, .inf b => a && !b
  | .inf a, .fin _ _ _ => a
  | .fin _ _ _, .inf b => !b
  | .fin a m e, .fin b m' e' => decide ((addExact a m e (!b) m' e').1 < 0)

/-! ### Group arithmetic on binary32 patterns (R178) -/

/-- FADD. -/
def f32add (a b : Nat) : Nat := enc32 0 0 ((dec32 a).add (dec32 b))

/-- FMUL. -/
def f32mul (a b : Nat) : Nat := enc32 0 0 ((dec32 a).mul (dec32 b))

/-- FFMA: rounded once. -/
def f32fma (a b c : Nat) : Nat := enc32 0 0 (((dec32 a).mul (dec32 b)).add (dec32 c))

/-- The lesser or greater operand, −0 below +0, NaN if either is NaN (FMIN, FMAX). -/
def f32min (a b : Nat) : Nat :=
  match dec32 a, dec32 b with
  | .nan, _ => nan32
  | _, .nan => nan32
  | x, y => if x.lt y then a else if y.lt x then b else (if nbit 31 a then a else b)
def f32max (a b : Nat) : Nat :=
  match dec32 a, dec32 b with
  | .nan, _ => nan32
  | _, .nan => nan32
  | x, y => if x.lt y then b else if y.lt x then a else (if nbit 31 a then b else a)

/-- FSETLT. -/
def f32lt (a b : Nat) : Nat := if (dec32 a).lt (dec32 b) then 1 else 0

/-- FDIV, correctly rounded: the quotient with a sticky bit below it. -/
def f32div (a b : Nat) : Nat :=
  match dec32 a, dec32 b with
  | .nan, _ => nan32
  | _, .nan => nan32
  | .inf _, .inf _ => nan32
  | .inf s, .fin t _ _ => enc32 0 0 (.inf (s != t))
  | .fin s _ _, .inf t => enc32 0 0 (.fin (s != t) 0 0)
  | .fin s m e, .fin t m' e' =>
    if m' = 0 then (if m = 0 then nan32 else enc32 0 0 (.inf (s != t)))
    else
      let q := m * 2 ^ 64 / m'
      let st := if m * 2 ^ 64 % m' = 0 then 0 else 1
      enc32 0 0 (.fin (s != t) (2 * q + st) (e - e' - 65))

/-- The integer square root below 2^n, bit by bit. -/
def isqrt (x : Nat) : Nat → Nat → Nat
  | 0, r => r
  | n + 1, r => let r' := r + 2 ^ n; isqrt x n (if r' * r' ≤ x then r' else r)

/-- FSQRT, correctly rounded. -/
def f32sqrt (a : Nat) : Nat :=
  match dec32 a with
  | .nan => nan32
  | .inf s => if s then nan32 else a
  | .fin s m e =>
    if m = 0 then a
    else if s then nan32
    else
      -- make the exponent even and the number at least 2^64 wide
      let (m1, e1) := if e % 2 = 0 then (m * 2 ^ 64, e - 64) else (m * 2 ^ 65, e - 65)
      let r := isqrt m1 46 0
      enc32 0 0 (.fin false (2 * r + (if r * r = m1 then 0 else 1)) (e1 / 2 - 1))

/-- CVTIF and CVTFI. -/
def cvtIF (a : Nat) : Nat := enc32 0 0 ((FmtKind.int 32 0 false).decode a)
def cvtFI (a : Nat) : Nat := (FmtKind.int 32 0 false).encode 1 0 false (dec32 a)

/-- CVTFN to a format under RND and SAT, and CVTNF from a format (R178). -/
def cvtFN (k : FmtKind) (rnd : Nat) (sat : Bool) (a : Nat) : Nat := k.encode rnd 0 sat (dec32 a)
def cvtNF (k : FmtKind) (a : Nat) : Nat := enc32 0 0 (k.decode (a % 2 ^ k.bits))

/-! ### Stochastic bits (R164) -/

/-- mix64. -/
def mix64 (z : Nat) : Nat :=
  let z1 := (z ^^^ (z / 2 ^ 30)) * 0xBF58476D1CE4E5B9 % 2 ^ 64
  let z2 := (z1 ^^^ (z1 / 2 ^ 27)) * 0x94D049BB133111EB % 2 ^ 64
  z2 ^^^ (z2 / 2 ^ 31)

/-- sr_bits. -/
def srBits (seed step grow gcol node : Nat) : Nat :=
  let z0 := mix64 (seed ^^^ step)
  let z1 := mix64 (z0 ^^^ (grow % 2 ^ 32 * 2 ^ 32 + gcol % 2 ^ 32))
  mix64 (z1 ^^^ (node % 2 ^ 32)) / 2 ^ 32

/-! ### The canonical tree (R165) -/

/-- pair_add: the binary32 sum of two values, rounded once. -/
def pairAdd (rnd r a b : Nat) : Nat := enc32 rnd r ((dec32 a).add (dec32 b))

/-- A pairing with +0: the other operand, −0 becoming +0, a NaN the canonical NaN. -/
def pairZero (a : Nat) : Nat :=
  match dec32 a with
  | .nan => nan32
  | .fin _ 0 _ => 0
  | _ => a

/-- One level of the tree: the random value of a node's code is given. -/
def treeLevel (add : Nat → Nat → Nat → Nat) (zero : Nat → Nat) (l : Nat) : Nat → List Nat → List Nat
  | _, [] => []
  | _, [a] => [zero a]
  | j, a :: b :: rest => add ((l + 1) * 2 ^ 20 + j) a b :: treeLevel add zero l (j + 1) rest

/-- The root over block sums: n bounds the number of levels (R165). -/
def treeRoot (add : Nat → Nat → Nat → Nat) (zero : Nat → Nat) : Nat → Nat → List Nat → Nat
  | 0, _, xs => xs.headD 0
  | n + 1, l, xs =>
    match xs with
    | [] => 0
    | [a] => a
    | _ => treeRoot add zero n (l + 1) (treeLevel add zero l 0 xs)

/-- The canonical root of binary32 values under round to nearest even. -/
def canonical32 (xs : List Nat) : Nat := treeRoot (fun _ a b => pairAdd 0 0 a b) pairZero 32 0 xs

/-! ### Atomics (R177, R298, R300) -/

/-- The value an atomic stores: operation (ATOMG's and ATOML's codes; 8 and 9 are unsigned minimum and
maximum), width in bytes, old value, operand. -/
def atomApply (op w old v : Nat) : Nat :=
  let n := 8 * w
  let a := old % 2 ^ n
  let b := v % 2 ^ n
  match op with
  | 0 => (a + b) % 2 ^ n
  | 1 => if toSigned n a ≤ toSigned n b then a else b
  | 2 => if toSigned n a ≤ toSigned n b then b else a
  | 3 => a &&& b
  | 4 => a ||| b
  | 5 => a ^^^ b
  | 6 => f32add a b
  | 7 => b
  | 8 => min a b
  | 9 => max a b
  | _ => a

end Sys2Proof.Machine
end

