-- ==== Sys2Proof/Config.lean ====
section
/-! DEFINITION. What an implementation fixes and the model cannot compute from the spec's words: the
values the spec leaves open, each an opaque constant without a body applied to a plain number, and the
cryptographic checks whose algorithms the spec takes from other standards. No proof can see a value. -/

namespace Sys2Proof.Config

/-- ECDSA P-384 verification under FIPS 186-5 (spec/19_boot_and_attestation.md R508): public key,
signature, SHA-384 of the body. -/
opaque ecdsaVerify : List Byte → List Byte → List Byte → Bool

/-- LMS verification under NIST SP 800-208 (R508): public key, signature, body. -/
opaque lmsVerify : List Byte → List Byte → List Byte → Bool

/-- The ECDSA signature that Potemir's device key makes of a transcript digest (R515). -/
opaque deviceSign : List Byte → List Byte

/-- The slot-0 certificate chain in the read-only region of the boot flash (R515). -/
opaque certChain : List Byte

/-- A free byte: the n-th value the spec does not state (log entry 11). -/
opaque freeByte : Nat → Byte

/-- A free number, where the spec states a bound the user of the value reduces it to the bound. -/
opaque freeNat : Nat → Nat

end Sys2Proof.Config
end

