-- ==== Sys2Proof/Machine/Operands.lean ====
section
/-! DEFINITION. The types of the commands' operands beyond numbers and bit vectors. -/

namespace Sys2Proof.Machine

/-- Who makes an access to the register aperture (spec/02_register_pages.md R49). -/
inductive Requester where
  /-- A hart of a host core. -/
  | hart (h : Nat)
  /-- Potemir. -/
  | potemir
  /-- A debug request carried over the die links (spec/20_counters_and_debug.md R529). -/
  | debug
  /-- A compute unit, tile mover, engine, PCIe or CXL device: refused by R49. -/
  | device
  deriving DecidableEq, Repr

/-- The fields of an instruction word but for OP (R176). -/
structure GFields where
  d : Nat
  a : Nat
  b : Nat
  c : Nat
  imm : Nat
  deriving DecidableEq, Repr

/-- How an agent answered a Forward or a Recall (R295, R296): its copy was clean, modified, or gone because
its own eviction crossed the message. -/
inductive FwdAns where
  | clean | dirty | gone
  deriving DecidableEq, Repr

/-- What a line's read from its package finds. -/
inductive LineErr where
  | none | ce | ue
  deriving DecidableEq, Repr

/-- A packet (R393): its header but for HCRC, its payload and its end-to-end check as received. -/
structure Packet where
  type : Nat
  ver : Nat
  hops : Nat
  vc : Nat
  echk : Nat
  len : Nat
  gaddr : Nat
  subop : Nat
  snode : Nat
  dflow : Nat
  psn : Nat
  ackpsn : Nat
  tagid : Nat
  payload : List Byte
  check : List Byte
  deriving DecidableEq, Repr

/-- What a hart does at the host fabric aperture (R388): a load, a store, or an AMO with its operation as the ATOMIC
packet names it (R394). -/
inductive ApAcc where
  | load
  | store (v : Nat)
  | amo (op v : Nat)
  deriving DecidableEq, Repr

/-- What a windlass engine moved (R260, R262): a tile of a window item, or a 64 MiB chunk of a well command. -/
inductive WdlWork where
  | tile (item ord : Nat)
  | chunk (q idx c : Nat)
  deriving DecidableEq, Repr

/-- An engine that fails (R471): a harness engine in a slice of a flow, or a windlass engine. -/
inductive EngineRef where
  | har (x e flow : Nat)
  | wdl (x k : Nat)
  deriving DecidableEq, Repr

/-- What a PCIe or CXL.io device sends to its root port (spec/11_translation.md R320, R321; spec/12_host_cores.md R340,
R341): a read or a write, translated in an address space or by physical address; an INTx message; a device error. -/
inductive PcieReq where
  | read (aspace : Option Nat) (addr len : Nat)
  | write (aspace : Option Nat) (addr : Nat) (data : List Byte)
  | intx
  | devErr
  deriving DecidableEq, Repr

end Sys2Proof.Machine
end

