-- ==== Sys2Proof/Machine/SMap.lean ====
section
/-! DEFINITION. Sparse maps from numbers: lists of (key, value) in one canonical form. An unlisted key
reads as the map's default; keys rise strictly and no listed value equals the default of its key, so that
equal maps are equal lists. Memory, registers and every table of units, jobs and queues are such maps. -/

namespace Sys2Proof.Machine

/-- A sparse map. -/
abbrev SMap (α : Type) := List (Nat × α)

/-- The value at a key; an unlisted key reads the default d. -/
def SMap.get {α : Type} (d : Nat → α) (m : SMap α) (k : Nat) : α :=
  match m.find? (fun p => p.1 == k) with
  | some p => p.2
  | none => d k

/-- The map with a key unlisted. -/
def SMap.erase {α : Type} (m : SMap α) (k : Nat) : SMap α := m.filter (fun p => p.1 != k)

/-- Insert before the first key that is not below k. -/
def SMap.ins {α : Type} (k : Nat) (v : α) : SMap α → SMap α
  | [] => [(k, v)]
  | p :: m => if k < p.1 then (k, v) :: p :: m else p :: SMap.ins k v m

/-- Write a key; writing the default unlists it. -/
def SMap.put {α : Type} [DecidableEq α] (d : Nat → α) (m : SMap α) (k : Nat) (v : α) : SMap α :=
  if v = d k then m.erase k else SMap.ins k v (m.erase k)

/-- The canonical form: strictly rising keys, no value equal to the default of its key. -/
def SMap.wf {α : Type} [DecidableEq α] (d : Nat → α) (m : SMap α) : Bool :=
  decide (m.Pairwise (fun a b => a.1 < b.1)) && m.all (fun p => decide (p.2 ≠ d p.1))

/-- Unlist every key that satisfies p. -/
def SMap.dropKeys {α : Type} (p : Nat → Bool) (m : SMap α) : SMap α := m.filter (fun q => !p q.1)

end Sys2Proof.Machine
end

