-- ==== Sys2Proof/Machine/WorkState.lean ====
section
/-! DEFINITION. The state of work: jobs, stations, conduits, work items (spec/03_stations_and_streams.md,
spec/04_compute_units.md), compute units, groups, CU caches and matrix engines
(spec/05_matrix_engine.md, spec/07_thread_groups.md, spec/08_cu_memory.md), as plain data. -/

namespace Sys2Proof.Machine

/-! ### Translations -/

/-- A cached leaf (spec/11_translation.md R315): address space, level, whether 64 KiB, the first virtual page
number and the number of 4 KiB pages it covers, and the entry. -/
structure TlbEntry where
  aspace : Nat
  level : Nat
  vpn : Nat
  pages : Nat
  pte : W64
  deriving DecidableEq, Repr

/-! ### Jobs -/

/-- A station entry as LOAD read it (R85), with its template's VER (R108). -/
structure StnDef where
  kind : Nat
  placeX : Nat
  placeC : Nat
  cuMin : Nat
  cuMax : Nat
  lsSteps : Nat
  /-- IN0 to IN3 and OUT0 to OUT3; none where unused. -/
  ins : List (Option Nat)
  outs : List (Option Nat)
  codeOff : Nat
  codeLen : Nat
  items : Nat
  stepdep : Bool
  param : List Byte
  ver : Nat
  deriving DecidableEq, Repr

/-- A station of a loaded job: its state under R91 (the encoding of DSTATE), its FAULT flag, the committed
(step, item) pairs of steps not complete, and the window version a WINDLASS station pinned (R262). -/
structure Stn where
  df : StnDef
  dst : Nat
  fault : Bool
  done : List (Nat × Nat)
  pin : Option Nat
  deriving DecidableEq, Repr

/-- A conduit entry (R86). -/
structure CndDef where
  prod : Nat
  cons : Nat
  fmt : Nat
  trows : Nat
  tcols : Nat
  depth : Nat
  deriving DecidableEq, Repr

/-- A conduit (R71, R72): the window base W, ordinals released above it, reserved, and published and not
released, and the tiles published since START. -/
structure Cnd where
  df : CndDef
  w : Nat
  released : List Nat
  reserved : List Nat
  pubs : List Nat
  pub : Nat
  deriving DecidableEq, Repr

/-- A deferred binary32 add (R442): step, key (SID, ORD0, position), physical address, operand. -/
structure DefAdd where
  step : Nat
  sid : Nat
  ord0 : Nat
  pos : Nat
  addr : Nat
  v : Nat
  deriving DecidableEq, Repr

/-- A regeneration under way (R451): its descriptor, step, station, cone and buffer. -/
structure Regen where
  q : Nat
  idx : Nat
  step : Nat
  sid : Nat
  cone : List Nat
  buf : Nat
  bufSpace : Nat
  deriving DecidableEq, Repr

/-- A loaded job (R88). -/
structure Job where
  aspace : Nat
  arena : Nat
  asize : Nat
  /-- The queue that carried START. -/
  queue : Nat
  seed : Nat
  s0 : Nat
  /-- Steps admitted since START: s0 to s0 + admitted − 1. -/
  admitted : Nat
  /-- Lowest step not complete, relative to s0. -/
  low : Nat
  /-- JSTATE of R94: 0 LOADED, 1 RUNNING, 2 DRAINING, 3 STOPPED, 4 ABORTING, 5 FAULTED. -/
  jstate : Nat
  fsid : Option Nat
  detreq : Bool
  steprec : Bool
  cuNeed : Nat
  diemask : Nat
  /-- Steps not complete of which a die has dispatched an item: step, die. -/
  begun : List (Nat × Nat)
  stns : List Stn
  cnds : List Cnd
  /-- The image's DIGEST and VERSION, its size, and its station programs. -/
  digest : List Byte
  version : Nat
  size : Nat
  code : List Byte
  /-- DETM samples (R440): first step of each ADMIT and the sample, newest first. -/
  dets : List (Nat × Bool)
  defers : List DefAdd
  /-- Digest sums of R456 of steps not complete: step, station, sum. -/
  digs : List (Nat × Nat × Nat)
  regen : Option Regen
  deriving DecidableEq, Repr

/-! ### Work items -/

/-- An entry of a commit log (R183): group, thread, operation, virtual address, operand, in issue order. -/
structure LogEnt where
  gid : Nat
  tid : Nat
  op : Nat
  va : Nat
  v : Nat
  deriving DecidableEq, Repr

/-- An output tile written by an engine or mover (R73): output position, grid ordinal, and the ROWS, COLS and
ZPAD of its tag. -/
structure OutTile where
  pos : Nat
  ord : Nat
  rows : Nat
  cols : Nat
  zpad : Bool
  deriving DecidableEq, Repr

/-- A live work item with its journal entry (R107, R119). -/
structure Item where
  job : Nat
  sid : Nat
  step : Nat
  /-- Item number within its invocation (R66). -/
  idx : Nat
  seed : Nat
  ord0 : Nat
  nord : Nat
  kind : Nat
  lsSteps : Nat
  stepdep : Bool
  ver : Nat
  /-- The die it is placed on. -/
  die : Nat
  /-- HOME and OWNER: sites, or the engine of a fixed-function item. -/
  home : Nat
  owner : Nat
  /-- Its running-item slot, when it runs on a unit. -/
  islot : Option Nat
  steals : Nat
  attempt : Nat
  jseq : Nat
  /-- The checks of its input tags are done (R73). -/
  tagsOk : Bool
  /-- Operations of the device's program issued so far (MATRIX, R149). -/
  issued : Nat
  /-- Output tiles written. -/
  wrote : List OutTile
  /-- Grid ordinals whose matrix operation has completed (MATRIX), or whose tile has been sent (FSEND). -/
  computed : List Nat
  log : List LogEnt
  /-- The remote atomics of its commit log have been sent (R184, R300). -/
  atomsSent : Bool
  /-- How it ends in error (R79): status, DETAIL and TAG of its record. -/
  err : Option (Nat × Nat × Nat)
  deriving DecidableEq, Repr

/-! ### Compute units -/

/-- Where an operation of the matrix engine comes from: a 64-byte descriptor in local store (R132), or the
device's own program of a MATRIX station: column, first tile row and tile rows of the run (R149). -/
inductive MxSrc where
  | desc (bytes : List Byte)
  | dev (col row0 n kbase kb : Nat)
  deriving DecidableEq, Repr

/-- An operation in the engine queue (R144): item, resident group, whether it has started. -/
structure MxOp where
  item : Nat
  group : Nat
  src : MxSrc
  started : Bool
  deriving DecidableEq, Repr

/-- Where a word of a load lies: a physical address or an outstanding remote read, with its virtual address. -/
inductive LoadAt where
  | pa (a va : Nat)
  | remote (req off va : Nat)
  deriving DecidableEq, Repr

/-- A load that missed (R211): resident group, destination, width in bytes, threads whose bytes are still
missing and where they lie, and values that have arrived. -/
structure PendLoad where
  group : Nat
  dest : Nat
  width : Nat
  todo : List (Nat × LoadAt)
  got : List (Nat × Nat)
  deriving DecidableEq, Repr

/-- A live miss register (R211): its line, and the instructions merged into it. -/
structure MissReg where
  line : Nat
  merged : Nat
  /-- Sectors requested. -/
  sectors : Nat
  deriving DecidableEq, Repr

/-- A compute unit beyond its registers. -/
structure CuSt where
  /-- LS_STEPS of the split in force (R205). -/
  split : Nat
  /-- Its unit TLB (spec/11_translation.md R315), newest first. -/
  tlb : List TlbEntry
  mxq : List MxOp
  /-- The held slab's tag: item, source address, format (R138). -/
  slab : Option (Nat × Nat × Nat)
  misses : List MissReg
  loads : List PendLoad
  /-- Where the idle unit stands: 0 may make a near round, 1 may make a far attempt, 2 waits (R114). -/
  steal : Nat
  /-- Its supply fell below 0.58 V: it holds its state (R101). -/
  held : Bool
  /-- It has stopped, to be retired: a replayed hardware error was found, or CU_RETIRE was written (R125, R470). -/
  failed : Bool
  /-- Every error that made it fail was injected under NORETIRE: its work is replayed and it stays in service
  (spec/17_faults_and_replay.md R482). -/
  keep : Bool
  /-- A self-test on entering service runs (R125), for the retired site named, or for R106. -/
  testing : Option (Option Nat)
  /-- It entered service inside the current rate window, which is then not a full one (R102). -/
  late : Bool
  /-- Why it is being retired: 0 not, 1 a CU_RETIRE write, 2 a hardware fault (R125). -/
  rcause : Nat
  /-- Its buddy's beats since its last heartbeat (spec/17_faults_and_replay.md R469). -/
  silent : Nat
  deriving DecidableEq, Repr

/-- A unit at reset: no split taken yet, so that every bank is cache (log entry 25). -/
def CuSt.reset : CuSt := ⟨0, [], [], none, [], [], 0, false, false, false, none, false, 0, 0⟩

/-- A reconvergence-stack entry (R188). -/
structure StkEnt where
  join : Bool
  pc : Nat
  mask : Nat
  deriving DecidableEq, Repr

/-- What a group waits for (R172). -/
inductive GWait where
  | none
  | bar (n : Nat)
  | mx (target : Nat)
  /-- MFENCE C = 2 waits for acknowledgements of earlier remote writes (R279). -/
  | ack
  deriving DecidableEq, Repr

/-- A resident group (R170): its item, GID, code base, and state. The pc counts instructions from ENTRY. -/
structure Group where
  item : Nat
  gid : Nat
  regs : Nat
  pc : Nat
  live : Nat
  active : Nat
  stack : List StkEnt
  ctr : Nat
  coll : Bool
  wait : GWait
  deriving DecidableEq, Repr

/-- A sector of a CU-cache line (R207): valid, fetched from the home, dirty bytes, its 32 bytes. -/
structure CcSec where
  valid : Bool
  fetched : Bool
  dirty : Nat
  data : List Byte
  deriving DecidableEq, Repr

/-- An invalid sector. -/
def CcSec.empty : CcSec := ⟨false, false, 0, []⟩

/-- A line of a CU cache: line number, recently-used bit, four sectors. -/
structure CcLine where
  line : Nat
  used : Bool
  secs : List CcSec
  deriving DecidableEq, Repr

/-- An invalid line. -/
def CcLine.empty : CcLine := ⟨0, false, []⟩

/-! ### Cache-maintenance engines -/

/-- A request of a cache-maintenance engine (R226 to R229): operation, range, space, targets; where its
completion goes: a record on a queue with a tag, a CMEOP descriptor, or a descriptor's CFLUSH. -/
structure CmeReq where
  op : Nat
  va : Nat
  len : Nat
  aspace : Nat
  unit : Nat
  tcu : Bool
  tsc : Bool
  /-- Queue of the record and TAG, for a request made by CME_GO. -/
  rec? : Option (Nat × Nat)
  /-- Queue and index of the descriptor that waits for it. -/
  desc : Option (Nat × Nat)
  deriving DecidableEq, Repr

/-- A cache-maintenance engine: accepted requests, oldest first; requests of descriptors that wait for a
place; DONE and LASTSKIP. -/
structure CmeSt where
  reqs : List CmeReq
  backlog : List CmeReq
  done : Nat
  lastSkip : Nat
  deriving DecidableEq, Repr

/-- An engine at reset. -/
def CmeSt.reset : CmeSt := ⟨[], [], 0, 0⟩

end Sys2Proof.Machine
end

