-- ==== Sys2Proof/Machine/FabricState.lean ====
section
/-! DEFINITION. The state of the Holarn fabric (spec/14_holarn_fabric.md): packets, flows, ports and the
router's queues, as plain data. -/

namespace Sys2Proof.Machine

/-- Who waits for a packet's acknowledgement or response. -/
inductive PktSrc where
  /-- Nobody: a posted write of another engine, or a control packet. -/
  | post
  /-- A posted write of a group of a unit for an item of a job (R284). -/
  | group (job item group : Nat)
  /-- A posted write of a requester of virtual memory (an item's mover or engine, a command), by its number. -/
  | rq (rid : Nat)
  /-- A read for a load of a unit, by request number. -/
  | load (unit req : Nat)
  /-- A read for a requester of virtual memory: its number and the global address. -/
  | fetch (rid ga : Nat)
  /-- An atomic of an item's commit log. -/
  | commitAtom (item : Nat)
  /-- A packet of an FPUT or FGET: queue, descriptor index, local address of the data. -/
  | cmd (q idx local_ : Nat)
  /-- A tile packet of an FSEND item. -/
  | tile (item : Nat)
  /-- A host hart's access to the fabric aperture. -/
  | hart (h : Nat)
  /-- A REDUCE packet of a seat (lane group · 16 + channel). -/
  | reduce (seat : Nat)
  /-- Lock-step traffic of the paired job (spec/16_determinism.md R455 to R458). -/
  | lockstep
  deriving DecidableEq, Repr

/-- A packet that waits to be numbered and sent (R399). -/
structure OutPkt where
  type : Nat
  subop : Nat
  gaddr : Nat
  len : Nat
  payload : List Byte
  src : PktSrc
  deriving DecidableEq, Repr

/-- A sent and unacknowledged packet: its send record (R401); a READ or ATOMIC that was answered. -/
structure SentPkt where
  pkt : Packet
  src : PktSrc
  answered : Bool
  deriving DecidableEq, Repr

/-- A tile transfer that arrives (R403): RCID, the PSN of its first packet, and the bytes received as (position,
bytes). -/
structure RxTile where
  rcid : Nat
  first : Nat
  parts : List (Nat × List Byte)
  deriving DecidableEq, Repr

/-- What the device holds of a flow that is not CLOSED (R396, R397). STATE: 1 OPENING, 2 OPEN, 3 CLOSING,
4 FAILED. -/
structure FlowSt where
  st : Nat
  hx : Nat
  echk : Nat
  pri : Nat
  aspace : Nat
  rflow : Nat
  rnode : Nat
  swin : Nat
  rwin : Nat
  rto : Nat
  retrymax : Nat
  nxt : Nat
  una : Nat
  exp : Nat
  retries : Nat
  fcause : Nat
  /-- CREDIT: the last mark received or granted (R403). -/
  credit : Option Nat
  granted : Option Nat
  txb : Nat
  rxb : Nat
  outq : List OutPkt
  sent : List SentPkt
  /-- The PSN from which it sends again, if it does. -/
  resend : Option Nat
  early : List Packet
  ackDue : Bool
  /-- A NACK to send: SUBOP and PSN. -/
  nack : Option (Nat × Nat)
  /-- Control packets to send: FLOWCTL SUBOP and payload number; responses to send. -/
  ctl : List (Nat × Nat)
  resps : List Packet
  /-- Responses to performed atomics, to answer duplicates with. -/
  atomResps : List Packet
  rx : Option RxTile
  /-- The handshake: OPENACK sent for the peer's OPEN, received for our own; digests equal so far. -/
  ackSent : Bool
  ackGot : Bool
  /-- The FOPEN or FCLOSE that waits: queue and index. -/
  cmd : Option (Nat × Nat)
  deriving DecidableEq, Repr

/-- A link frame sent and not acknowledged (spec/17_faults_and_replay.md R477). -/
structure Frame where
  seq : Nat
  bytes : List Byte
  resends : Nat
  deriving DecidableEq, Repr

/-- A port beyond its registers: its replay buffer, sequence numbers, whether a partner is there, and whether
it waits to try training again. -/
structure PortSt where
  frames : List Frame
  txSeq : Nat
  rxSeq : Nat
  retry : Bool
  /-- Lanes retired in service since the last requested retrain: receive and transmit masks (R379). -/
  rxRetired : Nat
  txRetired : Nat
  /-- The training under way is a retrain of a link that was up. -/
  held : Bool
  /-- The far node, and the reference cycle at which the last digest arrived. -/
  peer : Nat
  digAt : Option Nat
  deriving DecidableEq, Repr

/-- A port at reset. -/
def PortSt.reset : PortSt := ⟨[], 0, 0, false, 0, 0, false, 0, none⟩

/-- The fabric. -/
structure FabSt where
  flows : SMap (Option FlowSt)
  /-- Route entries by X-die · 8224 + index (R390). -/
  routes : SMap W64
  /-- Packets at the routers: X-die, packet, and whether it is on an escape channel; in arrival order. -/
  rq : List (Nat × Packet)
  /-- Packets delivered inside the module that a harness engine has not taken in. -/
  arrived : List Packet
  ports : SMap PortSt
  /-- Flows cached by the harness engines of X-die 0 and 1, most recently served first (R398). -/
  fcache0 : List Nat
  fcache1 : List Nat
  /-- Numbers READ and ATOMIC requests, for TAGID. -/
  nextReq : Nat
  /-- Remote reads of requesters of virtual memory: asked (requester, global address), and what has arrived
  (requester, global address, bytes, poisoned), no bytes where the peer refused
  (spec/10_coherence_and_ordering.md R282). -/
  asked : List (Nat × Nat)
  fetched : List (Nat × Nat × List Byte × Bool)
  /-- Harness and windlass engines that failed (R471): X-die · 64 + instance. -/
  harDead : List Nat
  wdlDead : List Nat
  deriving DecidableEq, Repr

/-- The fabric at reset. -/
def FabSt.reset : FabSt := ⟨[], [], [], [], [], [], [], 0, [], [], [], []⟩

/-! ### Reduction seats (spec/15_fabric_reduction.md) -/

/-- An input of a hop (R430): its chunk, canonical level and the first replica of its node, its wire bytes, and
whether it has been combined. The list order is the order in which inputs became ready. -/
structure RedIn where
  chunk : Nat
  level : Nat
  rep : Nat
  data : List Byte
  used : Bool
  deriving DecidableEq, Repr

/-- A node that the seat has formed at a hop level and keeps until the chunk's result arrives (R428); it has been
sent to the parent. -/
structure RedNode where
  chunk : Nat
  level : Nat
  data : List Byte
  sent : Bool
  deriving DecidableEq, Repr

/-- A result chunk (R424): its bytes, the children it is still to be sent to, and whether it is in OUT0. -/
structure RedRes where
  chunk : Nat
  data : List Byte
  todo : List Nat
  written : Bool
  deriving DecidableEq, Repr

/-- The seat of a reduction virtual channel at an LRA page: the job and station it serves while a step is in progress
(ACTIVE); the step, tiles a step and sample of DETM in force for it (R430, R440); the chunks in its window from the
lowest without a result on (R428); inputs, nodes and results; whether its inputs were lost (R436); and the step
completed last with its tiles, its sample and its results (R437). -/
structure Seat where
  owner : Option (Nat × Nat)
  step : Option Nat
  tiles : Option Nat
  det : Bool
  win : Nat
  ins : List RedIn
  nodes : List RedNode
  ress : List RedRes
  lost : Bool
  prev : Option (Nat × Nat × Bool × List RedRes)
  deriving DecidableEq, Repr

/-- A seat at reset. -/
def Seat.reset : Seat := ⟨none, none, none, false, 0, [], [], [], false, none⟩

end Sys2Proof.Machine
end

