-- ==== Sys2Proof/Machine/WellState.lean ====
section
/-! DEFINITION. The state of the well (spec/09_memory_tiers.md R250 to R270) and of a lock-step pairing
(spec/16_determinism.md R453 to R459), as plain data. -/

namespace Sys2Proof.Machine

/-- A committed version (R251, R252): a version that is not current stays until its units are freed (R256). -/
structure WellVer where
  name : Nat
  ver : Nat
  fmt : Nat
  layers : Nat
  lbytes : Nat
  data : List Byte
  current : Bool
  deriving DecidableEq, Repr

/-- A WPUT or WGET under way (R253, R260): its descriptor, the version read or the tensor to be, the memory
range, the first byte within the version, and its 64 MiB chunks: moved, and for a WPUT what they hold. -/
structure WellMove where
  q : Nat
  idx : Nat
  put : Bool
  name : Nat
  ver : Nat
  fmt : Nat
  layers : Nat
  lbytes : Nat
  va : Nat
  first : Nat
  len : Nat
  moved : List Nat
  buf : List (Nat × List Byte)
  deriving DecidableEq, Repr

/-- The power of the well-tier path (R266): the input, the hold-up bank, off. -/
inductive WellPower where
  | input | bank | off
  deriving DecidableEq, Repr

/-- The well. -/
structure WellSt where
  vers : List WellVer
  /-- The next VERSION of the commit sequence, and the tensor bytes committed in all (R257). -/
  nextVer : Nat
  written : Nat
  /-- Read-only (R258). -/
  ro : Bool
  /-- Spare blocks, percent of the initial ones. -/
  spare : Nat
  /-- Last measured hold-up energy in 0.01 J; 0 before the first measurement. -/
  energy : Nat
  ready : Bool
  recov : Bool
  power : WellPower
  /-- Local channels of X-die 0 and 1 with a lost package, and those whose stripes are being re-protected. -/
  lost0 : Nat
  lost1 : Nat
  rebuild : Bool
  /-- X-dies whose channels are limited by a hot package (spec/18_power_and_thermal.md R495). -/
  hot : List Nat
  moves : List WellMove
  deriving DecidableEq, Repr

/-- The well as made: no tensor, its commit sequence at 1. -/
def WellSt.fresh : WellSt := ⟨[], 1, 0, false, 100, 0, false, false, .input, 0, 0, false, [], []⟩

/-- A lock-step pairing: job, lane group, flow, the peer's area and the own one, the LSPAIR descriptor. -/
structure Pair where
  job : Nat
  group : Nat
  flow : Nat
  rbase : Nat
  lbase : Nat
  q : Nat
  idx : Nat
  deriving DecidableEq, Repr

end Sys2Proof.Machine
end

