-- ==== Sys2Proof/Syntax.lean ====
section
/-! DEFINITION. The commands the module takes, one constructor per row of spec/opcode_table.json, each with the
rule it rests on and what the table says of it. Numbers that name a thing (a die, a site, a link, a queue) are
`Nat`; what the spec handles as bits is a bit vector. An operand that only an analogue part of the module or a
partner outside can supply (a voltage, a temperature, a measured energy, the outcome of training) is part of the
command. -/

namespace Sys2Proof

open Sys2Proof.Machine

/-- The commands. -/
inductive Instr where
  /-- MOD_RESET_ASSERT (R34). MOD_RESET_N falls and every die is held in reset; work in flight, registers
  and boot progress are lost. -/
  | modResetAssert
  /-- MOD_RESET_RELEASE (R549). The module leaves reset once MOD_RESET_N, MOD_PWRGD and a valid reference
  have all held together for 1 ms, and boot starts at stage 0. -/
  | modResetRelease
  /-- REF_LOSS_DETECT (R27). No reference edge arrives for 0.7 to 1.3 µs, and the module stops with a fatal
  error. -/
  | refLossDetect (die : Nat)
  /-- RAIL_OUT_OF_REGULATION (R34). A module rail leaves regulation; MOD_PWRGD falls within 10 µs and the
  module stops with a fatal error. -/
  | railOutOfRegulation (die rail : Nat)
  /-- PWRGD_RISE (R539). MOD_PWRGD rises between 20 ms and 60 ms after the first feed enters 40 V to 60 V.
  -/
  | pwrgdRise
  /-- FEED_GOOD (R538). A feed enters 40 V to 60 V and FEEDx_OK becomes 1. -/
  | feedGood (b : Bool) (dv : Nat)
  /-- FEED_OPEN (R37). A feed falls below 36 V or is reversed and reads absent; the module enters one-feed
  mode, or loses its input if it was the second feed. -/
  | feedOpen (b : Bool) (dv : Nat)
  /-- FULL_CAP_RESTORE (R36). After both feeds have been good for 100 ms, the full power cap is restored. -/
  | fullCapRestore
  /-- FEED_OVERVOLTAGE (R538). A feed rises above 62 V and its switch opens within 5 µs without counting as
  a trip. -/
  | feedOvervoltage (b : Bool) (dv : Nat)
  /-- FEED_RECLOSE (R538). A feed opened for overvoltage recloses after it has stayed within 40 V to 60 V
  for 100 ms. -/
  | feedReclose (b : Bool) (dv : Nat)
  /-- FEED_EXTERNAL_SHORT (R37). A feed is shorted to return outside the module; its reverse blocking
  isolates it within 5 µs, and the module enters one-feed mode. -/
  | feedExternalShort (b : Bool)
  /-- HOTSWAP_TRIP (R37). A hot-swap switch carries more than 100 A for 20 µs and latches off until reset;
  when both switches trip, the module loses its input. -/
  | hotswapTrip (b : Bool)
  /-- WELL_POWER_PARKED (R266). After input loss, flash programs and journals complete, the flash is parked
  and the well-tier path powers off within 15 ms. -/
  | wellPowerParked
  /-- I3C_STUCK_LOW (R39). A management line stays low for 25 ms and is declared stuck low, faulting its
  path. -/
  | i3cStuckLow (sec sda : Bool)
  /-- I3C_OPEN_PROBE (R39). Every 10 ms a pull-down probe tests each idle line; the third consecutive
  failure declares the line open. -/
  | i3cOpenProbe (sec sda : Bool) (failed : Bool)
  /-- I3C_LINE_CLEAN (R39). A faulted line that has stayed clean for 1 s is reported clean again. -/
  | i3cLineClean (sec sda : Bool)
  /-- I3C_GETSTATUS (R40). The GETSTATUS common command is answered on either path. -/
  | i3cGetstatus (sec : Bool)
  /-- PRI_RETURN (R41). A write of SEC_MGT_CTRL.PRI_RETURN = 1 on the active path returns management to the
  primary path when PRI_FLT = 0. -/
  | priReturn (sec : Bool)
  /-- REG_WRITE (R53). A register write that has no row of its own is checked for access rules and validity,
  then applied whole or rejected with ERR_STAT.REGWR. -/
  | regWrite (req : Requester) (io : Bool) (addr size : Nat) (v : W64)
  /-- REG_READ_MISALIGNED (R50). A misaligned aperture read returns 0 and sets ERR_STAT.ACCESS. -/
  | regReadMisaligned (req : Requester) (io : Bool) (addr size : Nat)
  /-- CTRL_WRITE (R57). A write to a page CTRL changes EN, GENSEL or EVFRZ under the generation and idle
  rules; for a queue, EN going from 0 to 1 resets its indices. -/
  | ctrlWrite (page : Nat) (v : W64)
  /-- BLOCK_DRAIN (R60). DRAIN.CMD = DRAIN moves a work-carrying block from RUNNING to DRAINING. -/
  | blockDrain (page : Nat)
  /-- BLOCK_ABORT (R62). DRAIN.CMD = ABORT moves a work-carrying block to ABORTING and stops its work in
  flight within 4,096 beats or reference cycles. -/
  | blockAbort (page : Nat)
  /-- BLOCK_RESUME (R60). DRAIN.CMD = RESUME returns a STOPPED block to RUNNING. -/
  | blockResume (page : Nat)
  /-- BLOCK_DRAIN_DONE (R61). PENDING reaches 0 in DRAINING; the block becomes STOPPED and IDLE becomes 1.
  -/
  | blockDrainDone (page : Nat)
  /-- BLOCK_ABORT_DONE (R62). After the last ABORTED record has been written, the aborting block becomes
  STOPPED. -/
  | blockAbortDone (page : Nat)
  /-- ERR_INJ_WRITE (R482). A write to ERR_INJ arms the injected errors while GLB_INJCTL.EN = 1. -/
  | errInjWrite (page : Nat) (v : W64)
  /-- EVCNT_OVERFLOW (R527). An event counter wraps past 2^48 − 1; OVF is set, GLB_EVLAST is updated, and a
  rate-limited interrupt write is sent when OVIE = 1. -/
  | evcntOverflow (page c n : Nat)
  /-- EVSEL_WRITE (R523). A write to EVSEL or EVSELX is checked for its source code and CEN and selects what
  the counter counts. -/
  | evselWrite (page n : Nat) (v : W64)
  /-- DLK_SHARE_WRITE (R30). A write to DLK_SHARE sets the slot shares per round and the lock when the
  shares are valid; otherwise it sets DLK_ERR_STAT bit 0. -/
  | dlkShareWrite (n : Nat) (v : W64)
  /-- DLK_FLIT_RECEIVE (R476). A die-link flit arrives and is checked; a failing flit is resent together
  with every later flit from the replay buffer. -/
  | dlkFlitReceive (n seq round sl : Nat) (ok : Bool)
  /-- LOAD (R89). A LOAD command checks an Ouvord image, copies it into the arena and creates a job in
  LOADED. -/
  | load (q idx : Nat)
  /-- START (R90). A START command resets the conduit windows, makes the stations RUNNING, admits steps s0
  onward and sends the lock-step greeting. -/
  | start (q idx : Nat)
  /-- ADMIT (R88). An ADMIT command admits the next n steps of a job. -/
  | admitSteps (q idx : Nat)
  /-- STNCTL_DRAIN (R91). An STNCTL DRAIN command stops dispatch for one station and lets its items in
  flight commit. -/
  | stnctlDrain (q idx : Nat)
  /-- STNCTL_ABORT (R91). An STNCTL ABORT command aborts one station's items in flight, writing ABORTED
  records and releasing reserved slots unpublished. -/
  | stnctlAbort (q idx : Nat)
  /-- STNCTL_RESUME (R91). An STNCTL RESUME command restarts a STOPPED station, clears FAULT and
  redispatches its failed or aborted items. -/
  | stnctlResume (q idx : Nat)
  /-- STATION_STOPPED (R91). A draining or aborting station's last item in flight ends, and the station
  becomes STOPPED. -/
  | stationStopped (jn sid : Nat)
  /-- JOBCTL_DRAIN (R92). A JOBCTL DRAIN command moves a job to DRAINING; its admitted steps run to
  completion. -/
  | jobctlDrain (q idx : Nat)
  /-- JOBCTL_ABORT (R92). A JOBCTL ABORT command aborts every station, flushes the conduits and returns the
  job to LOADED. -/
  | jobctlAbort (q idx : Nat)
  /-- JOBCTL_RESUME (R92). A JOBCTL RESUME command returns a STOPPED job, or a FAULTED job with no faulted
  station, to RUNNING. -/
  | jobctlResume (q idx : Nat)
  /-- JOB_STOPPED (R92). A draining job's admitted steps all complete, and the job becomes STOPPED. -/
  | jobStopped (jn : Nat)
  /-- QUERY (R94). A QUERY command writes the job's status block into a buffer. -/
  | query (q idx : Nat)
  /-- UNLOAD (R88). An UNLOAD command completes the waiting SYNCs with ABORTED, releases the pins and frees
  the job number. -/
  | unload (q idx : Nat)
  /-- SYNC (R357). A SYNC command completes when the named step of the job is complete, with an optional
  flush. -/
  | sync (q idx : Nat)
  /-- HINT (R358). A HINT command announces a power class for a job step to the power controllers. -/
  | hint (q idx : Nat)
  /-- NOP (R353). A NOP descriptor completes OK. -/
  | nop (q idx : Nat)
  /-- ITEM_DISPATCH (R69). A ready item with credit, an admitted step and a RUNNING station is dispatched;
  it reserves its output slots and is placed on a unit or an engine. -/
  | itemDispatch (jn sid step ix : Nat)
  /-- ITEM_COMMIT (R70). An item commits: it publishes its tiles, writes back its output slots, performs its
  commit log, releases its inputs and closes its journal entry. -/
  | itemCommit (n : Nat)
  /-- ITEM_ERROR (R80). An item ends in error: a record is written, its outputs are dropped, its inputs are
  kept and its station moves to DRAINING with FAULT. -/
  | itemError (n : Nat)
  /-- CU_ITEM_START (R113). A unit starts a queued item: it checks CHK, changes its split if needed, clears
  the slot and invalidates the input slots. -/
  | cuItemStart (u : Nat)
  /-- CU_NEAR_ROUND (R115). An idle unit probes sites at distance 1 to 3 and steals the eligible item that
  the victim would take last. -/
  | cuNearRound (u : Nat)
  /-- CU_FAR_ATTEMPT (R116). An idle unit consults the die load summary and probes the most loaded distant
  unit. -/
  | cuFarAttempt (u : Nat)
  /-- CU_STEAL_WAIT_EXPIRE (R114). An idle unit's 256-beat wait after failed stealing ends, and it tries to
  steal again. -/
  | cuStealWaitExpire (u : Nat)
  /-- CU_RATE_WINDOW (R102). At the end of each 1,024-reference-cycle window, CU_RATE.BEATS is updated. -/
  | cuRateWindow (u beats : Nat)
  /-- CU_RETIRE (R125). A write of 0xA5 to CU_RETIRE retires an in-service unit and re-queues its journal
  entries. -/
  | cuRetire (u : Nat) (v : W64)
  /-- CU_FAULT_RETIRE (R470). A replayed hardware error of a site declares the unit failed, and it is
  retired with RCAUSE 0x02. -/
  | cuFaultRetire (u : Nat)
  /-- SPARE_SELFTEST_DONE (R125). A spare site's self-test ends; it enters service and joins the buddy
  relation, or it is retired with RCAUSE 0x03 and the next spare is tried. -/
  | spareSelftestDone (u : Nat) (pass : Bool)
  /-- DIE_CUCFG_WRITE (R106). A write of DIE_CUCFG.RESERVE moves units between SPARE and INSERVICE toward
  the new target. -/
  | dieCucfgWrite (d : Nat) (v : W64)
  /-- GROUP_NOP (R177). The NOP group instruction does nothing. -/
  | groupNop (u h : Nat) (f : GFields)
  /-- IADD (R177). Integer add modulo 2^32. -/
  | iadd (u h : Nat) (f : GFields)
  /-- ISUB (R177). Integer subtract modulo 2^32. -/
  | isub (u h : Nat) (f : GFields)
  /-- IMUL (R177). Low 32 bits of an integer product. -/
  | imul (u h : Nat) (f : GFields)
  /-- AND (R177). Bitwise AND. -/
  | and (u h : Nat) (f : GFields)
  /-- OR (R177). Bitwise OR. -/
  | or (u h : Nat) (f : GFields)
  /-- XOR (R177). Bitwise XOR. -/
  | xor (u h : Nat) (f : GFields)
  /-- SHL (R177). Shift left. -/
  | shl (u h : Nat) (f : GFields)
  /-- SHR (R177). Logical shift right. -/
  | shr (u h : Nat) (f : GFields)
  /-- SRA (R177). Arithmetic shift right. -/
  | sra (u h : Nat) (f : GFields)
  /-- ISETLT (R177). Signed less-than compare. -/
  | isetlt (u h : Nat) (f : GFields)
  /-- ISETEQ (R177). Equality compare. -/
  | iseteq (u h : Nat) (f : GFields)
  /-- IADDI (R177). Add a sign-extended immediate. -/
  | iaddi (u h : Nat) (f : GFields)
  /-- MOVI (R177). Load a sign-extended immediate. -/
  | movi (u h : Nat) (f : GFields)
  /-- ORHI (R177). OR an immediate into the high half. -/
  | orhi (u h : Nat) (f : GFields)
  /-- FADD (R178). binary32 add. -/
  | fadd (u h : Nat) (f : GFields)
  /-- FMUL (R178). binary32 multiply. -/
  | fmul (u h : Nat) (f : GFields)
  /-- FFMA (R178). binary32 fused multiply-add, rounded once. -/
  | ffma (u h : Nat) (f : GFields)
  /-- FMIN (R178). binary32 minimum, with −0 ordered below +0. -/
  | fmin (u h : Nat) (f : GFields)
  /-- FMAX (R178). binary32 maximum, with −0 ordered below +0. -/
  | fmax (u h : Nat) (f : GFields)
  /-- FSETLT (R178). binary32 less-than compare. -/
  | fsetlt (u h : Nat) (f : GFields)
  /-- FDIV (R178). Correctly rounded binary32 divide. -/
  | fdiv (u h : Nat) (f : GFields)
  /-- FSQRT (R178). Correctly rounded binary32 square root. -/
  | fsqrt (u h : Nat) (f : GFields)
  /-- CVTIF (R178). Convert INT32 to binary32. -/
  | cvtif (u h : Nat) (f : GFields)
  /-- CVTFI (R178). Convert binary32 to INT32, rounding toward zero and clamping. -/
  | cvtfi (u h : Nat) (f : GFields)
  /-- CVTFN (R178). Convert binary32 to a narrow format under R162 and R163. -/
  | cvtfn (u h : Nat) (f : GFields)
  /-- CVTNF (R178). Widen a narrow format to binary32. -/
  | cvtnf (u h : Nat) (f : GFields)
  /-- LDL (R181). Local-store load, costed by sectors and checked against the slot. -/
  | ldl (u h : Nat) (f : GFields)
  /-- STL (R181). Local-store store. -/
  | stl (u h : Nat) (f : GFields)
  /-- LDG (R208). Global load through the CU cache, with misses allocating miss registers. -/
  | ldg (u h : Nat) (f : GFields)
  /-- STG (R208). Global store into the CU cache, without a fetch. -/
  | stg (u h : Nat) (f : GFields)
  /-- ATOMG (R183). Appends global atomics to the item's commit log, to be performed at commit. -/
  | atomg (u h : Nat) (f : GFields)
  /-- ATOML (R185). Performs a local-store atomic at once and returns the old value. -/
  | atoml (u h : Nat) (f : GFields)
  /-- MFENCE_ORDER (R279). Orders the group's later memory instructions after the earlier ones. -/
  | mfenceOrder (u h : Nat) (f : GFields)
  /-- MFENCE_ACQUIRE (R279). Orders, then invalidates the clean sectors of the CU cache. -/
  | mfenceAcquire (u h : Nat) (f : GFields)
  /-- MFENCE_RELEASE (R279). Writes back every dirty sector to its home and waits for remote write
  acknowledgements. -/
  | mfenceRelease (u h : Nat) (f : GFields)
  /-- BRA (R177). Jumps for the whole active set. -/
  | bra (u h : Nat) (f : GFields)
  /-- BRC (R188). Conditional branch, uniform or divergent, pushing reconvergence entries. -/
  | brc (u h : Nat) (f : GFields)
  /-- JOIN (R189). Pops the reconvergence stack at a join point. -/
  | join (u h : Nat) (f : GFields)
  /-- EXIT (R190). The active threads exit, which may complete a barrier or end the group. -/
  | exit (u h : Nat) (f : GFields)
  /-- BAR (R194). Arrive and wait at an item-wide barrier; the last arrival completes it. -/
  | bar (u h : Nat) (f : GFields)
  /-- BARRIER_TIMEOUT (R197). A barrier timer reaches GRP_BARTMO and raises BARTMO for the lowest straggling
  group. -/
  | barrierTimeout (u islot n : Nat)
  /-- COLLB (R192). Opens a collective region. -/
  | collb (u h : Nat) (f : GFields)
  /-- COLLE (R192). Closes a collective region. -/
  | colle (u h : Nat) (f : GFields)
  /-- MXISSUE (R144). Collective issue of a matrix operation descriptor to the engine queue. -/
  | mxissue (u h : Nat) (f : GFields)
  /-- MXWAIT (R177). Waits until the completion counter meets its target, or faults when the target can
  never be met. -/
  | mxwait (u h : Nat) (f : GFields)
  /-- SHFL (R177). Collective read of another thread's register. -/
  | shfl (u h : Nat) (f : GFields)
  /-- SPEC (R179). Reads a special value. -/
  | spec (u h : Nat) (f : GFields)
  /-- TRAP (R177). Raises GRP_FAULT cause TRAP. -/
  | trap (u h : Nat) (f : GFields)
  /-- MXE_OP_START (R135). An operation reaching the head of the engine queue is checked, loads its slabs
  and streams its rows. -/
  | mxeOpStart (u : Nat)
  /-- MXE_OP_COMPLETE (R146). The last sum of an operation is written; the group's completion counter
  advances and a waiting group is released. -/
  | mxeOpComplete (u : Nat)
  /-- CU_CACHE_FILL (R211). A fill arrives for a miss register; data is delivered 8 beats later, the
  register frees and held pipes resume. -/
  | cuCacheFill (u line : Nat)
  /-- MOVER_TILE_DONE (R220). A tile mover finishes moving or transposing a tile. -/
  | moverTileDone (u islot ord : Nat)
  /-- SC_WAYMASK_WRITE (R225). A way-mask write takes effect in every slice of the die within 256 beats. -/
  | scWaymaskWrite (d n : Nat) (v : W64)
  /-- CME_CLEAN (R226). CME_GO with OP = CLEAN enqueues a range clean. -/
  | cmeClean (d : Nat)
  /-- CME_INVAL (R226). CME_GO with OP = INVAL enqueues a range invalidation. -/
  | cmeInval (d : Nat)
  /-- CME_FLUSH (R226). CME_GO with OP = FLUSH enqueues a range flush. -/
  | cmeFlush (d : Nat)
  /-- CME_REQUEST_DONE (R229). Every write-back of a cache-maintenance request has landed; a CME record is
  posted, DONE increments and the next request starts. -/
  | cmeRequestDone (d : Nat)
  /-- CMEOP_CLEAN (R356). A CMEOP descriptor with OP = CLEAN enqueues cleans on the named C-dies. -/
  | cmeopClean (q idx : Nat)
  /-- CMEOP_INVAL (R356). A CMEOP descriptor with OP = INVAL enqueues invalidations on the named C-dies. -/
  | cmeopInval (q idx : Nat)
  /-- CMEOP_FLUSH (R356). A CMEOP descriptor with OP = FLUSH enqueues flushes on the named C-dies. -/
  | cmeopFlush (q idx : Nat)
  /-- NMC_WRITE (R239). A write arrives at a near-memory channel; whole lines are written, and partial lines
  merge into or allocate a write-combining entry. -/
  | nmcWrite (addr mask : Nat) (data : List Byte)
  /-- NMC_READ (R241). A read at a channel merges buffered bytes, corrects or poisons errors and returns the
  line. -/
  | nmcRead (addr : Nat) (e : LineErr)
  /-- WC_AGE_TIMEOUT (R240). A write-combining entry reaches its TMO age and is written out by read-merge-
  write. -/
  | wcAgeTimeout (d ch : Nat)
  /-- PATROL_SCRUB (R241). Every 1,024 beats the scrubber reads one line, correcting or marking it poisoned.
  -/
  | patrolScrub (d ch : Nat) (e : LineErr)
  /-- LPDDR_OVERTEMP (R495). A package temperature report doubles refresh or limits the channel to 25 %
  until it cools. -/
  | lpddrOvertemp (d ch temp : Nat) (hot : Bool)
  /-- FMC_LINK_UP (R246). A far-memory port's link trains, and an enabled port claims its range. -/
  | fmcLinkUp (g devcap width : Nat)
  /-- FMC_LINK_DOWN (R248). A far-memory port's link goes down; the range is withdrawn and incomplete writes
  are lost. -/
  | fmcLinkDown (g : Nat)
  /-- WPUT (R253). A WPUT command reserves units and writes a tensor to the well as a new version. -/
  | wput (q idx : Nat)
  /-- WGET (R253). A WGET command reads layers of a version from the well into memory. -/
  | wget (q idx : Nat)
  /-- WDEL (R253). A WDEL command commits the removal of a name. -/
  | wdel (q idx : Nat)
  /-- WINFO (R254). A WINFO command writes the record of a name. -/
  | winfo (q idx : Nat)
  /-- WELL_COMMIT (R265). A commit record enters the protected buffer, the version becomes current and the
  OK record follows. -/
  | wellCommit (q idx : Nat)
  /-- WDL_CHUNK_DONE (R260). A windlass engine finishes a 64 MiB chunk and takes its next work. -/
  | wdlChunkDone (x k : Nat) (work : WdlWork) (ue : Bool)
  /-- WELL_UNITS_FREED (R256). Units of a version that is no longer current, pinned or read are freed within
  1 s. -/
  | wellUnitsFreed (name ver : Nat)
  /-- HOLDUP_MEASURE (R264). Every 2^32 reference cycles the hold-up energy is measured and HOLDUP_OK is
  updated. -/
  | holdupMeasure (energy : Nat)
  /-- WELL_RECOVERY_DONE (R268). The well finishes recovery after power returns and begins serving commands.
  -/
  | wellRecoveryDone
  /-- NAND_PACKAGE_LOSS (R257). A NAND package is lost, and its stripes are rebuilt from parity in the
  background. -/
  | nandPackageLoss (x ch : Nat)
  /-- WELL_REBUILD_DONE (R257). Re-protection after a package loss ends, and REBUILD clears. -/
  | wellRebuildDone
  /-- NAND_OVERTEMP (R495). A NAND package above 70 °C limits its X-die's well channels to 25 %. -/
  | nandOvertemp (x temp : Nat)
  /-- RDSHARED (R295). A coherent read request for a shared copy reaches the home. -/
  | rdshared (p addr : Nat)
  /-- RDOWN (R295). A request for an owned copy reaches the home. -/
  | rdown (p addr : Nat) (amo : Option (Nat × Nat × Nat))
  /-- RDONCE (R295). A non-caching read reaches the home. -/
  | rdonce (cls addr : Nat)
  /-- WRNC (R295). A non-caching write, full or masked, reaches the home and is performed there. -/
  | wrnc (cls addr mask : Nat) (data : List Byte)
  /-- ATFAR (R300). A far atomic reaches the home and is performed there. -/
  | atfar (op w addr v : Nat)
  /-- EVCLEAN (R295). A clean eviction is reported to the home. -/
  | evclean (p addr : Nat)
  /-- WBDIRTY (R295). A dirty write-back reaches the home. -/
  | wbdirty (p addr : Nat) (data : List Byte)
  /-- FWDSHARED (R295). An owner sends data to a reader and keeps a clean copy. -/
  | fwdshared (agent addr : Nat) (ans : FwdAns) (data : List Byte)
  /-- FWDOWN (R295). An owner passes the line to a new owner and invalidates its own copy. -/
  | fwdown (agent addr : Nat) (ans : FwdAns) (data : List Byte)
  /-- FWDONCE (R295). An owner sends a copy to a requester and keeps its state. -/
  | fwdonce (agent addr : Nat) (ans : FwdAns) (data : List Byte)
  /-- INVAL (R295). An agent invalidates its copy and answers InvAck. -/
  | inval (agent addr : Nat)
  /-- RECALL (R302). An agent returns dirty data and invalidates its copy. -/
  | recall (agent addr : Nat) (ans : FwdAns) (data : List Byte)
  /-- TOKREADY (R303). The token holder resends its request into the reserved way. -/
  | tokready (d h : Nat)
  /-- DATA (R294). A data response is consumed by its requester. -/
  | data (p addr : Nat)
  /-- DATAONCE (R294). A one-time data response is consumed by its requester. -/
  | dataonce (addr : Nat)
  /-- CMP (R294). A completion response is consumed by its requester. -/
  | cmp (agent : Option Nat) (addr : Nat)
  /-- ATRESULT (R298). The old value of a far atomic is returned to its requester. -/
  | atresult (agent : Option Nat) (addr : Nat)
  /-- RETRY (R303). A coherent requester is told to wait for TokReady. -/
  | retry (p addr : Nat)
  /-- INVACK (R294). An invalidation acknowledgement reaches the home. -/
  | invack (agent addr : Nat)
  /-- FWDACK (R296). A forward acknowledgement, with or without data, completes a forwarded transaction. -/
  | fwdack (agent addr : Nat)
  /-- RECALLACK (R302). A recall acknowledgement unpins the victim entry. -/
  | recallack (agent addr : Nat)
  /-- HOME_ACK_TIMEOUT (R305). An Ack is missing after HOME_ACKTMO beats; the line is poisoned and the
  waiting request completes. -/
  | homeAckTimeout (addr : Nat)
  /-- HOME_ATCFG_CLR (R299). A write of HOME_ATCFG.CLR = 1 sets every predictor counter to 0. -/
  | homeAtcfgClr (d h mode : Nat)
  /-- SUMP_RECORD_WRITE (R323). MERGE cycles after a record opens, the sump writes the record to the ring
  and optionally interrupts. -/
  | sumpRecordWrite (slot : Nat)
  /-- SUMP_RESUME_RETRY (R325). SUMP_RESUME with ACT = RETRY invalidates the page and releases every waiter
  to translate again. -/
  | sumpResumeRetry (slot seq : Nat)
  /-- SUMP_RESUME_FAIL (R325). SUMP_RESUME with ACT = FAIL ends every waiter with XLATE. -/
  | sumpResumeFail (slot seq : Nat)
  /-- SUMP_CONS_WRITE (R323). A write of SUMP_CONS frees ring space, and a waiting record is written. -/
  | sumpConsWrite (v : W64)
  /-- MMU_INV_PAGE (R316). MMU_INVCTL with SCOPE = page starts an invalidation of one page. -/
  | mmuInvPage (aspace : Nat)
  /-- MMU_INV_SPACE (R316). MMU_INVCTL with SCOPE = space starts an invalidation of an address space. -/
  | mmuInvSpace (aspace : Nat)
  /-- MMU_INV_ALL (R316). MMU_INVCTL with SCOPE = all starts an invalidation of every address space. -/
  | mmuInvAll (aspace : Nat)
  /-- INVAL_PAGE (R316). An INVAL descriptor invalidates one page. -/
  | invalPage (q idx : Nat)
  /-- INVAL_SPACE (R316). An INVAL descriptor invalidates an address space. -/
  | invalSpace (q idx : Nat)
  /-- INVAL_ALL (R316). An INVAL descriptor invalidates every address space. -/
  | invalAll (q idx : Nat)
  /-- INVALIDATION_DONE (R316). An invalidation completes, stale extents are marked, and DONE counts it. -/
  | invalidationDone
  /-- IMSIC_WRITE (R341). A write to an interrupt file makes an identity pending. -/
  | imsicWrite (addr size v : Nat) (byDevice : Bool)
  /-- MTIMER_EXPIRE (R337). DIE_MTIME reaches DIE_MTIMECMP of a hart, and its machine timer interrupt
  becomes pending. -/
  | mtimerExpire (h : Nat)
  /-- HARTEN_WRITE (R343). A DIE_HARTEN write releases harts, which start at DIE_HBOOT. -/
  | hartenWrite (hi : Bool) (v : W64)
  /-- COREFREQ_WRITE (R339). A DIE_COREFREQ request changes a core's granted frequency. -/
  | corefreqWrite (c : Nat) (v : W64)
  /-- FREQ_CHANGE_DONE (R339). A frequency change takes effect after its pause, and CUR updates. -/
  | freqChangeDone (c : Nat)
  /-- CORE_SUPPLY_DROOP (R491). A core supply falls 30 mV below its set point, and the core stretches its
  clock. -/
  | coreSupplyDroop (c n : Nat) (low : Bool)
  /-- CBO_CLEAN (R332). A host core cleans a block of its cluster caches to the home. -/
  | cboClean (h addr : Nat) (dirty : Option (List Byte))
  /-- CBO_FLUSH (R332). A host core flushes a block of its cluster caches. -/
  | cboFlush (h addr : Nat) (dirty : Option (List Byte))
  /-- CBO_INVAL (R332). A host core's CBO.INVAL is performed as a flush. -/
  | cboInval (h addr : Nat) (dirty : Option (List Byte))
  /-- FABRIC_FENCE_LOAD (R406). A hart loads from the fence page, and the load returns once its aperture
  stores are acknowledged. -/
  | fabricFenceLoad (h : Nat)
  /-- DOORBELL (R349). A QUE_DB write announces descriptors up to PIDX − 1. -/
  | doorbell (q : Nat) (v : W64)
  /-- DESC_FETCH (R350). The queue engine reads the next descriptor, then accepts it, rejects it as
  malformed or schedules a stale re-read. -/
  | descFetch (q : Nat)
  /-- STALE_REREAD (R351). After INTERVAL cycles the engine re-reads a stale descriptor; on the last failure
  the queue stops with a STALE record. -/
  | staleReread (q : Nat)
  /-- QUE_CCONS_WRITE (R362). A write of QUE_CCONS frees ring space, and a waiting record is written. -/
  | queCconsWrite (q : Nat) (v : W64)
  /-- QUE_FETCH_WRITE (R369). A write of QUE_FETCH on a stopped queue skips descriptors without records. -/
  | queFetchWrite (q : Nat) (v : W64)
  /-- HLP_LINKEN_WRITE (R376). A write of LINKEN = 1 starts training of a port. -/
  | hlpLinkenWrite (g : Nat) (v : W64)
  /-- HLP_RETRAIN (R376). A write of HLP_LINKCTL.RETRAIN = 1 retrains the port. -/
  | hlpRetrain (g : Nat)
  /-- PARTNER_DETECT (R376). A partner appears while LINKEN = 1, and training starts. -/
  | partnerDetect (g : Nat)
  /-- LINK_TRAIN_DONE (R376). Training finishes its electrical checks, order and width choice and version
  negotiation, and the port comes up or stays down. -/
  | linkTrainDone (g : Nat) (lanes : List (Nat × Nat × Bool)) (farTx farVers node width : Nat) (dig : List Byte)
  /-- TRAIN_RETRY (R376). A port that failed training tries again every 100 ms while LINKEN = 1. -/
  | trainRetry (g : Nat)
  /-- LANE_FAIL (R379). A lane in service loses signal or errs too often; it is retired and the port
  retrains. -/
  | laneFail (g n : Nat) (tx lost : Bool)
  /-- PORT_DOWN (R402). A port goes down; it is removed from every route, and flows resend from UNAPSN. -/
  | portDown (g : Nat)
  /-- LLR_FRAME_RECEIVE (R477). A Holarn link frame arrives; a bad frame triggers a resend, and repeated
  resends trigger a retrain. -/
  | llrFrameReceive (g seq : Nat) (bytes : List Byte) (good : Bool) (ack : Option Nat) (again : Option Nat)
  /-- LLR_ACK_TIMEOUT (R477). No acknowledgement arrives for 2,000 cycles with frames outstanding, and the
  port retrains. -/
  | llrAckTimeout (g : Nat)
  /-- ETH_FRAME_RECEIVE (R382). An Ethernet-role frame arrives; a Holarn frame is unpacked, and frames of
  another EtherType are discarded and counted. -/
  | ethFrameReceive (g : Nat) (frame : List Byte)
  /-- PACKET_FORWARD (R390). The router forwards a packet adaptively or by escape, or discards it at the hop
  limit. -/
  | packetForward (k : Nat) (credits : List Nat)
  /-- WRITE (R384). A WRITE packet arriving on a flow is checked and performed as WrNC. -/
  | write (p : Packet)
  /-- READ (R384). A READ packet is checked, performed as RdOnce and answered with READRESP. -/
  | read (p : Packet)
  /-- ATOMIC (R384). An ATOMIC packet is checked, performed as AtFar and answered with ATOMRESP. -/
  | atomic (p : Packet)
  /-- READRESP (R394). Read data is delivered to its requester. -/
  | readresp (p : Packet)
  /-- ATOMRESP (R394). The old value of an atomic is delivered to its requester. -/
  | atomresp (p : Packet)
  /-- ACK (R400). A cumulative acknowledgement advances UNAPSN. -/
  | ack (p : Packet)
  /-- NACK (R400). A NACK makes the sender resend from the named PSN, or ends an FSEND item on BADTILE. -/
  | nack (p : Packet)
  /-- ERRRESP (R385). An error response reaches the requester and is handled by its kind. -/
  | errresp (p : Packet)
  /-- TILE (R403). A TILE packet of a tile transfer is written into its slot and, when the transfer is
  whole, checked. -/
  | tile (p : Packet)
  /-- BEACON (R408). A received digest updates HLP_FARDIG and MATCH, and a mismatch is reported. -/
  | beacon (g : Nat) (dig : List Byte)
  /-- FLOWCTL_OPEN (R397). A peer's OPEN is answered with OPENACK. -/
  | flowctlOpen (p : Packet)
  /-- FLOWCTL_OPENACK (R397). An OPENACK opens the local flow. -/
  | flowctlOpenack (p : Packet)
  /-- FLOWCTL_CLOSE (R397). A peer's CLOSE fails an OPEN flow with FCAUSE 0x02. -/
  | flowctlClose (p : Packet)
  /-- FLOWCTL_CREDIT (R403). A tile credit mark allows FSEND to send tiles up to the mark. -/
  | flowctlCredit (p : Packet)
  /-- HAR_SLICE (R399). A harness engine serves one ready flow for one slice, sending or taking in one
  packet. -/
  | harSlice (x e n : Nat)
  /-- HAR_SLICE_TIMEOUT (R471). A slice runs longer than 200 cycles; the engine fails and its flow moves to
  other engines. -/
  | harSliceTimeout (x e n : Nat)
  /-- FLOW_RTO_EXPIRE (R400). RTO passes without progress; the flow retransmits, or fails when RETRIES would
  exceed RETRYMAX. -/
  | flowRtoExpire (n : Nat)
  /-- FLOW_OPEN_TIMEOUT (R397). An OPEN unanswered after 32 RTO periods ends FOPEN with NOPEER. -/
  | flowOpenTimeout (n : Nat)
  /-- FOPEN (R397). An FOPEN command opens a flow with a handshake. -/
  | fopen (q idx : Nat)
  /-- FCLOSE (R397). An FCLOSE command closes a flow after its acknowledgements arrive. -/
  | fclose (q idx : Nat)
  /-- FPUT (R404). An FPUT command writes local bytes to a remote offset over a flow. -/
  | fput (q idx : Nat)
  /-- FGET (R404). An FGET command reads remote bytes into local memory over a flow. -/
  | fget (q idx : Nat)
  /-- FFENCE (R407). An FFENCE command completes when the earlier remote writes are acknowledged. -/
  | ffence (q idx : Nat)
  /-- BEACON_TIMER (R408). Every 2^20 cycles each up port sends a BEACON. -/
  | beaconTimer
  /-- BEACON_LOSS (R408). No beacon arrives for four periods; BEACONLOST is set and the port retrains. -/
  | beaconLoss (g : Nat)
  /-- RTR_RTDATA_WRITE (R390). A write of RTR_RTDATA sets the route entry at RTR_RTIDX. -/
  | rtrRtdataWrite (x : Nat) (v : W64)
  /-- REDUCE_NODE_UP (R430). A REDUCE packet carrying a child's node is accepted into a slot and combined.
  -/
  | reduceNodeUp (p : Packet)
  /-- REDUCE_RESULT_DOWN (R424). A result chunk from the parent is written to OUT0 and forwarded to the
  children. -/
  | reduceResultDown (p : Packet)
  /-- REDUCE_PULL (R430). A pull makes the member resend the nodes it holds for that step. -/
  | reducePull (p : Packet)
  /-- LRA_SEAT_ACTION (R429). A seat performs one action in rotation: read, combine, send up, send down or
  write a result. -/
  | lraSeatAction (g r act : Nat)
  /-- LRA_BIND_WRITE (R434). A write of LRA_BIND or LRA_GTAB binds a group to an RVC and resets LRA_STEP. -/
  | lraBindWrite (g r : Nat) (tab : Bool) (v : W64)
  /-- GLB_DETCTL_WRITE (R439). A write of GLB_DETCTL sets deterministic mode and its lock. -/
  | glbDetctlWrite (v : W64)
  /-- DEFERRED_ADDS_APPLIED (R442). After a step's last item commits, each home combines the deferred
  binary32 adds canonically, completing the step. -/
  | deferredAddsApplied (jn : Nat)
  /-- REGEN (R451). A REGEN command reruns a station's cone for one step and copies its tiles into a buffer.
  -/
  | regen (q idx : Nat)
  /-- LSPAIR (R453). An LSPAIR command pairs a job with a peer for step-by-step comparison. -/
  | lspair (q idx : Nat)
  /-- LSEND (R459). An LSEND command ends a lock-step pairing. -/
  | lsend (q idx : Nat)
  /-- LOCKSTEP_COMPARE (R458). When its own and the peer's step are ready, the module compares station
  digests and locates the first diverging tile. -/
  | lockstepCompare
  /-- ELOG_CFG_WRITE (R463). A write of GLB_ELOGCFG configures the error log and resets its indices when EN
  is set. -/
  | elogCfgWrite (v : W64)
  /-- ELOG_CONS_WRITE (R463). A write of GLB_ELOGCONS frees error-log ring space. -/
  | elogConsWrite (v : W64)
  /-- CU_HEARTBEAT (R469). Every 1,024 of its beats, a unit sends a heartbeat to its buddy. -/
  | cuHeartbeat (u : Nat)
  /-- CU_WATCHDOG_EXPIRE (R469). A buddy counts DIE_CUWDOG.BEATS without a heartbeat, and the watched unit's
  WDOG is set. -/
  | cuWatchdogExpire (u beats : Nat)
  /-- ENGINE_FAULT (R471). A harness or windlass engine fails its internal check; it is removed, and its
  work moves elsewhere or fails with NOENGINE. -/
  | engineFault (e : EngineRef)
  /-- GLB_REDCTL_WRITE (R480). A write of GLB_REDCTL sets the redundancy level and writes RESERVE and
  JDEPTH. -/
  | glbRedctlWrite (v : W64)
  /-- PWR_WINDOW (R487). Every 1,024 cycles each controller compares modelled power with its budget and
  adjusts its set point or step. -/
  | pwrWindow (d : Nat) (acts : List (Nat × Nat × Nat)) (staticMw tmax : Nat) (waiting sideWaiting : Bool)
  /-- PWR_REPORT (R489). Every 1 ms each die reports its energy, temperature and throttle causes to the
  H-die, which updates the energy registers. -/
  | pwrReport (d : Nat) (perQueue : List (Nat × Nat)) (unattr static : Nat) (tmax : Nat) (pinW einUj pmodW : Nat)
  /-- CAPSET (R489). A die applies a newer cap and its shares from its next window. -/
  | capset (d seq : Nat)
  /-- HINT_MSG (R492). A die receives a hint and moves its rails to PWR_CLASSV, or removes its idle slices,
  at the step's first dispatch. -/
  | hintMsg (d : Nat)
  /-- HINT_LAPSE (R492). A hint lapses after BEATS beats, and the rail-0 set point is written to PWR_CLASSV.
  -/
  | hintLapse (d : Nat)
  /-- PACE_CHECK (R500). Each ms with ENERGYPACE = 1, budgets are lowered or raised according to the pace-
  wait share. -/
  | paceCheck (waitCyc : Nat)
  /-- PWR_CAP_WRITE (R490). A write of PWR_CAP changes EFFCAP and sends CAPSET within 50 µs. -/
  | pwrCapWrite (v : W64)
  /-- PWR_SHARE_WRITE (R485). A write of PWR_SHARE sets the shares and their lock. -/
  | pwrShareWrite (v : W64)
  /-- PWR_LATTOL_WRITE (R498). A write of PWR_LATTOL sets the latency tolerance, and wakes the device if its
  rest state is too deep. -/
  | pwrLattolWrite (v : W64)
  /-- THERMAL_TRIP (R494). A die holds 115 °C for 100 µs and declares a fatal thermal trip. -/
  | thermalTrip (d tmax : Nat)
  /-- SENSOR_FAIL (R493). A sensor fails its self-check and is ignored. -/
  | sensorFail (d : Nat)
  /-- CU_SUPPLY_LOW (R101). A unit's supply falls below 0.58 V, and it holds its state. -/
  | cuSupplyLow (u mv : Nat)
  /-- CU_SUPPLY_RESTORE (R101). A unit's supply rises above 0.60 V, and it resumes. -/
  | cuSupplyRestore (u mv : Nat)
  /-- REST_ENTRY (R497). The C-dies have been idle for DWELL µs and enter the deepest allowed rest state. -/
  | restEntry
  /-- REST_WAKE (R498). A request that needs a C-die wakes the device to RS0 within the exit latency. -/
  | restWake
  /-- BOOT_ROM_DONE (R511). The ROM stage verifies the manifest and PFW, measures slot 0, and falls back to
  bank B or stops. -/
  | bootRomDone
  /-- BOOT_PFW_DONE (R511). The PFW stage releases the dies, trains the die links and checks identity. -/
  | bootPfwDone
  /-- BOOT_DIES_DONE (R511). The DIES stage loads and measures CFW and XFW and starts the power controllers.
  -/
  | bootDiesDone
  /-- BOOT_MEMORY_DONE (R511). The MEMORY stage trains near memory, places and measures HFS and releases
  hart 0. -/
  | bootMemoryDone (place entry : Nat)
  /-- MEAS_EXTEND (R514). A write of SEC_MEASCTL.SLOT extends a host measurement slot with SEC_MEASIN. -/
  | measExtend (slot : Nat)
  /-- CFG_DIGEST_RECOMPUTE (R518). Within 100 µs of a change to the record, the configuration digest is
  recomputed and beacons are sent. -/
  | cfgDigestRecompute
  /-- GET_VERSION (R515). An SPDM GET_VERSION request is answered. -/
  | getVersion (pcie : Bool)
  /-- GET_CAPABILITIES (R515). An SPDM GET_CAPABILITIES request is answered. -/
  | getCapabilities (pcie : Bool)
  /-- NEGOTIATE_ALGORITHMS (R515). An SPDM NEGOTIATE_ALGORITHMS request is answered. -/
  | negotiateAlgorithms (pcie offered : Bool)
  /-- GET_DIGESTS (R515). An SPDM GET_DIGESTS request is answered. -/
  | getDigests (pcie : Bool)
  /-- GET_CERTIFICATE (R515). An SPDM GET_CERTIFICATE request returns the slot-0 chain. -/
  | getCertificate (pcie : Bool) (slot off len : Nat)
  /-- CHALLENGE (R515). An SPDM CHALLENGE is answered with a signature by the device key. -/
  | challenge (pcie : Bool) (slot : Nat) (nonce : List Byte)
  /-- GET_MEASUREMENTS (R516). An SPDM GET_MEASUREMENTS request returns signed measurement indices. -/
  | getMeasurements (pcie : Bool) (idx : Nat) (signed : Bool) (nonce : List Byte)
  /-- MAILBOX_READ (R530). A GO write with WR = 0 starts a debug read of an aperture register. -/
  | mailboxRead
  /-- MAILBOX_WRITE (R530). A GO write with WR = 1 starts a debug write of an aperture register. -/
  | mailboxWrite
  /-- MAILBOX_DONE (R530). A debug mailbox request completes, and DONE becomes 1. -/
  | mailboxDone
  /-- DBG_HALT (R532). A HALT command makes a unit HALTING, and its queued items move away. -/
  | dbgHalt (d site : Nat)
  /-- DBG_HALTED (R532). A halting unit's accepted work completes, and it becomes HALTED. -/
  | dbgHalted (d : Nat)
  /-- DBG_RESUME (R532). A RESUME command returns a halted unit to service. -/
  | dbgResume (d site : Nat)
  /-- DBG_STEP (R532). A STEP command lets each ready group issue one instruction, then the unit halts
  again. -/
  | dbgStep (d site : Nat)
  /-- DBG_INSP (R533). A DBG_INSP write selects state of the halted unit to latch. -/
  | dbgInsp (d : Nat) (v : W64)
  /-- DBG_INSP_LATCHED (R533). Within 64 beats the selected doubleword is latched into DBG_DATA, and DVALID
  is set. -/
  | dbgInspLatched (d : Nat)
  /-- FEED_OUT_OF_BAND (R538). A feed leaves 40 V to 60 V into the 36 V to 40 V or 60 V to 62 V band;
  FEEDx_OK becomes 0 while the feed stays connected, and the module enters one-feed mode with its lowered
  cap. -/
  | feedOutOfBand (b : Bool) (dv : Nat)
  /-- BOOT_STAGE_TIMEOUT (R512). A die or near-memory channel fails to start within its stage limit of R511,
  and boot stops with CODE 0x06. -/
  | bootStageTimeout
  /-- BOOT_FLASH_REWRITE (R512). While boot is stopped, the sled rewrites bank A or bank B of the boot flash
  over the management I3C bus. -/
  | bootFlashRewrite (bankB : Bool) (bytes : List Byte)
  /-- DYNAMIC_ADDRESS_ASSIGNMENT (R40). The sled's controller assigns the module a dynamic I3C address on
  one path, as the MIPI I3C Basic target role defines. -/
  | dynamicAddressAssignment (sec : Bool) (addr : Nat)
  /-- PCIE_DEVICE_REQUEST (R321). A memory request or message of a PCIe or CXL.io device reaches its root
  port; it is translated, completes as Unsupported Request or Completer Abort with a sump record, or reports
  a device error (DEVERR). -/
  | pcieDeviceRequest (g : Nat) (r : PcieReq)
  /-- HOST_FABRIC_APERTURE_ACCESS (R388). A hart's load, store or AMO to the host fabric aperture is checked
  against its window descriptor, then sent as a remote packet on the window's flow or refused with an access
  fault. -/
  | hostFabricApertureAccess (h : Nat) (a : ApAcc) (addr size : Nat)
  /-- EVMSI_HOLDOFF_EXPIRE (R527). The 1,024-reference-cycle holdoff between counter-overflow interrupt
  writes ends, and the deferred write that announces the overflows recorded in GLB_EVLAST meanwhile is sent.
  -/
  | evmsiHoldoffExpire
  deriving DecidableEq, Repr

end Sys2Proof
end

