-- ==== Sys2Proof/Machine/State.lean ====
section
/-! DEFINITION. The state of the module: every register, memory, queue, table and pin the spec gives it,
as plain data, and the queue of commands that wait. Tables of many like things (registers, units, jobs,
queues, memory) are sparse maps in canonical form. -/

namespace Sys2Proof.Machine

/-! ### What is fixed at manufacture -/

/-- The four ordering numbers (spec/00_scope.md R2). -/
inductive Variant where
  | v2C128W | v2C000W | v1C064W | v1C000W
  deriving DecidableEq, Repr

/-- Fuses: what Abentit programs (R5, spec/01_module_and_dies.md R23). They never change. -/
structure Fuses where
  variant : Variant
  /-- For each die its PKG_SERIAL, DIE_NUM and VALID (R23), in the order of DIE_NUM. -/
  serials : List Nat
  dieNums : List Nat
  valids : List Bool
  /-- The die each end of each die link is wired to, as reported at boot (R24): link, far die. -/
  farDies : List (Nat × Nat)
  /-- Sites (die · 576 + site) that failed manufacturing test (R48). -/
  failed : List Nat
  /-- Fused RATE_MAX and VMAX of a site, fused FMAX and VMAX of a core, fused energy coefficients. -/
  rateMax : Nat
  siteVmax : Nat
  coreFmax : Nat
  coreVmax : Nat
  coefsC : List Nat
  coefsH : List Nat
  coefsX : List Nat
  deriving DecidableEq, Repr

/-- The fuses that firmware signing uses, which boot may blow further (spec/19_boot_and_attestation.md
R508, R510). -/
structure KeyFuses where
  /-- SHA-384 of the keys accepted, slots 0 to 3, and the revoked slots as masks. -/
  ecKeys : List (List Byte)
  lmsKeys : List (List Byte)
  ecRev : Nat
  lmsRev : Nat
  /-- The fused minimum security version. -/
  svnMin : Nat
  deriving DecidableEq, Repr

/-! ### Pins, feeds and management lines -/

/-- The band a feed's voltage lies in (R37, R538). -/
inductive FeedCond where
  /-- Below 36 V, reversed, or isolated after an external short. -/
  | absent
  /-- 36 V to 40 V, or 60 V to 62 V: connected, not OK. -/
  | margin
  /-- 40 V to 60 V. -/
  | good
  /-- Opened for overvoltage, until it recloses. -/
  | overOpen
  deriving DecidableEq, Repr

/-- One 48 V feed: its band, its voltage in 0.1 V, its hot-swap latch (R37). -/
structure Feed where
  cond : FeedCond
  dv : Nat
  latched : Bool
  deriving DecidableEq, Repr

/-- The connector's shared signals (R33, R34). -/
structure Pins where
  feedA : Feed
  feedB : Feed
  /-- MOD_PWRGD. -/
  pwrgd : Bool
  /-- MOD_RESET_N. -/
  resetN : Bool
  /-- The 100 MHz reference meets R550. -/
  refOk : Bool
  deriving DecidableEq, Repr

/-- The state of one management line (R39). -/
inductive LineFault where
  | clean | stuckLow | openLine
  deriving DecidableEq, Repr

/-- One management path (R39, R40): its two lines and how many open probes each failed in a row. -/
structure MgmtPath where
  scl : LineFault
  sda : LineFault
  sclProbes : Nat
  sdaProbes : Nat
  /-- The dynamic address the sled's controller assigned, if it has. -/
  dynAddr : Option Nat
  deriving DecidableEq, Repr

/-- The management I3C target (R40 to R44). -/
structure Mgmt where
  pri : MgmtPath
  sec : MgmtPath
  /-- SEC_MGT_STAT.ACTIVE: the secondary path is active. -/
  secActive : Bool
  /-- SEC_MGT_STAT.SW_CNT. -/
  swCnt : Nat
  deriving DecidableEq, Repr

/-- What the module as a whole does (R27, R34, R37, R467). -/
inductive Phase where
  /-- MOD_RESET_N is low, or the release is still held (R549). -/
  | inReset
  | running
  /-- Stopped by a FATAL error (R467): only Potemir runs. -/
  | fatal
  /-- Neither feed carries load (R37). -/
  | noInput
  deriving DecidableEq, Repr

/-- What Potemir holds beyond its registers (spec/19_boot_and_attestation.md). -/
structure Boot where
  /-- Boot stopped (R512). -/
  stopped : Bool
  /-- The bytes of boot-flash banks A and B (R507). -/
  bankA : List Byte
  bankB : List Byte
  /-- A field of the digest's record was written since the last digest (R518). -/
  digestDue : Bool
  /-- The stage-3 digest was formed (R518). -/
  digestFormed : Bool
  deriving DecidableEq, Repr

/-! ### Die links -/

/-- What a die link's receiver holds beyond DLK_STAT (spec/17_faults_and_replay.md R476). -/
structure DieLink where
  /-- Slices in service. -/
  slices : Nat
  /-- Sequence number of the next flit expected. -/
  rxSeq : Nat
  /-- Resends of that flit so far. -/
  resends : Nat
  /-- Failed checks: the slice and the round of each, newest first. -/
  fails : List (Nat × Nat)
  /-- Flits delivered. -/
  delivered : Nat
  deriving DecidableEq, Repr

/-! ### The error log, injected errors, event counters -/

/-- The error log's own state (R463 to R466) and the armed injected errors (R482). -/
structure Elog where
  prod : Nat
  cons : Nat
  lost : Nat
  supp : Nat
  /-- Suppression spans: page, bit, and the reference cycle at which the last record was written. -/
  spans : List (Nat × Nat × Nat)
  /-- Armed injected errors: page and bit. -/
  armed : List (Nat × Nat)
  deriving DecidableEq, Repr

/-- Event counters (R55, spec/20_counters_and_debug.md): EVCNT registers by address, GLB_EVLAST, and the
rate limit of R527. -/
structure Events where
  cnt : SMap W64
  last : W64
  /-- An interrupt write was sent less than 1,024 reference cycles ago. -/
  holdoff : Bool
  /-- An overflow happened within the hold-off. -/
  owed : Bool
  deriving DecidableEq, Repr

/-! ### Translation and the sump -/

/-- A cached non-leaf entry: the table that serves a level for a prefix of virtual addresses. -/
structure WalkEntry where
  aspace : Nat
  level : Nat
  vprefix : Nat
  table : Nat
  deriving DecidableEq, Repr

/-- The translation caches of one die's MMU (R315), newest first. -/
structure MmuSt where
  tlb : List TlbEntry
  walk : List WalkEntry
  deriving DecidableEq, Repr

/-- Where an invalidation came from: a register write, or an INVAL descriptor (R316). -/
inductive InvSrc where
  | reg
  | desc (q idx : Nat)
  deriving DecidableEq, Repr

/-- A pending invalidation: SCOPE 1 page, 2 space, 3 all (R327). -/
structure InvReq where
  scope : Nat
  aspace : Nat
  vpn : Nat
  src : InvSrc
  deriving DecidableEq, Repr

/-- Who waits on a translation fault: the REQMAP bit of R320, its die, its unit (site, engine, queue, lane
group) and what within it (item slot · 64 + group, item number, descriptor index, flow). -/
structure Waiter where
  kind : Nat
  die : Nat
  unit : Nat
  sub : Nat
  deriving DecidableEq, Repr

/-- A fault as a requester presents it (R322, R323). ACCESS: 1 read, 2 write, 4 atomic. -/
structure SFault where
  aspace : Nat
  va : Nat
  kind : Nat
  level : Nat
  pte : W64
  access : Nat
  who : Waiter
  /-- Job, station and step of the work item, if one. -/
  work : Option (Nat × Nat × Nat)
  deriving DecidableEq, Repr

/-- A record of the sump: open, or a NORESUME one that waits for ring space (R321 to R323). -/
structure SRec where
  /-- 0 to 4,095; 4,096 in a NORESUME record. -/
  slot : Nat
  first : SFault
  access : Nat
  reqmap : Nat
  waiters : List Waiter
  /-- The merge window has ended and the record waits for ring space. -/
  due : Bool
  /-- SEQ, once it is written. -/
  seq : Option Nat
  deriving DecidableEq, Repr

/-- The sump (R320 to R326). -/
structure Sump where
  prod : Nat
  cons : Nat
  nextSeq : Nat
  recs : List SRec
  /-- Faults that wait for a free slot. -/
  noslot : List SFault
  deriving DecidableEq, Repr

/-! ### Shared cache, near-memory channels, home slices -/

/-- A line of the shared cache (spec/08_cu_memory.md R222): its line number, its valid and dirty sectors as
masks of four, its recently-used bit. The bytes are those performed at the home. -/
structure ScLine where
  line : Nat
  valid : Nat
  dirty : Nat
  used : Bool
  deriving DecidableEq, Repr

/-- An empty way. -/
def ScLine.empty : ScLine := ⟨0, 0, 0, false⟩

/-- A near-memory channel (spec/09_memory_tiers.md R239 to R241, spec/18 R495): its write-combining entries
(line number and 128-bit mask), oldest first; the next line the scrubber reads; its rate limit. -/
structure NmcSt where
  wc : List (Nat × Nat)
  scrub : Nat
  limited : Bool
  deriving DecidableEq, Repr

/-- A channel at reset. -/
def NmcSt.reset : NmcSt := ⟨[], 0, false⟩

/-- A directory entry (spec/10_coherence_and_ordering.md R291, R293): line number, X or S, sharer vector, pin,
the order in which its way was allocated. An entry is valid while its vector is not 0 or it is pinned. -/
structure DirEnt where
  line : Nat
  excl : Bool
  vec : Nat
  pin : Bool
  seq : Nat
  deriving DecidableEq, Repr

/-- An empty way. -/
def DirEnt.empty : DirEnt := ⟨0, false, 0, false, 0⟩

/-- A request at a home (R294, R295): its kind, line, requester's vector bit (none for a non-caching agent),
and for a write its class, mask and bytes, for an atomic its operation, width, address and operand. -/
inductive HReq where
  | rdShared (line p : Nat)
  | rdOwn (line p : Nat)
  /-- A host AMO that its cluster could not perform; its place is not decided yet (R298). -/
  | hostAmo (line p op w addr v : Nat)
  | rdOnce (line cls : Nat)
  | wrNc (line cls mask : Nat) (data : List Byte)
  /-- An atomic performed at the home: the coherent agent that asked, if one. -/
  | atFar (agent : Option Nat) (line op w addr v : Nat)
  deriving DecidableEq, Repr

/-- The line a request names. -/
def HReq.line : HReq → Nat
  | .rdShared l _ => l
  | .rdOwn l _ => l
  | .hostAmo l _ _ _ _ _ => l
  | .rdOnce l _ => l
  | .wrNc l _ _ _ => l
  | .atFar _ l _ _ _ _ => l

/-- An open transaction of a home slice (R301, R302): the line of the pinned entry; the message sent (0 Inval,
1 FwdShared, 2 FwdOwn, 3 FwdOnce, 4 Recall); the request that waits, with the way it takes if that way was a
victim's; the agents that have not taken the message and those whose Ack is missing; the holder's answer;
whether the eviction that crossed the message has arrived. -/
structure Txn where
  line : Nat
  fwd : Nat
  req : HReq
  way : Option Nat
  unsent : Nat
  await : Nat
  ans : FwdAns
  evicted : Bool
  deriving DecidableEq, Repr

/-- A response on its way to its requester (R294): kind 0 Data, 1 DataOnce, 2 Cmp, 3 AtResult, 4 Retry;
agent (none: non-caching), line, data or old value, poisoned. -/
structure HResp where
  kind : Nat
  agent : Option Nat
  line : Nat
  data : List Byte
  poison : Bool
  deriving DecidableEq, Repr

/-- A home slice (R291 to R306). -/
structure HomeSt where
  /-- Directory entries by set · 16 + way. -/
  dir : SMap DirEnt
  txns : List Txn
  /-- Requests that wait for a transaction slot or behind a pinned entry, in arrival order. -/
  inq : List HReq
  /-- The token queue (R303): requests answered Retry, in arrival order; the head holds the age token. -/
  tokq : List HReq
  /-- The way reserved for the token holder, once TokReady was sent. -/
  reserved : Option Nat
  /-- The 1,024 placement counters (R299). -/
  pred : SMap Nat
  resps : List HResp
  /-- Counts allocations, to find the least recently allocated way (R302). -/
  allocs : Nat
  deriving DecidableEq, Repr

/-- A home slice at reset. -/
def HomeSt.reset : HomeSt := ⟨[], [], [], [], none, [], [], 0⟩

/-! ### Queues -/

/-- How far an accepted descriptor has come (spec/13_queues.md R356, R364). -/
inductive DescStage where
  /-- Accepted, not started. -/
  | accepted
  /-- Started, not yet in effect: a LOAD whose image waits for a translation. -/
  | stalled
  /-- A QUERY in effect: its status block, still to be written to the buffer. -/
  | writing (block : List Byte)
  /-- In effect, its work under way or waiting (SYNC, CMEOP, INVAL, well and fabric commands). -/
  | started
  /-- Its own work is done with status OK and VALUE; the CFLUSH flushes on the C-dies run (R364). -/
  | flushing (value : Nat)
  /-- One of its requests was aborted (spec/08_cu_memory.md R231): its record follows the others, with this status. -/
  | failing (status : Nat)
  deriving DecidableEq, Repr

/-- An accepted descriptor (R350): its index, its bytes and its stage. -/
structure Desc where
  idx : Nat
  bytes : List Byte
  /-- Its place in the order of acceptance over all queues (R356). -/
  ord : Nat
  stage : DescStage
  /-- Requests on cache-maintenance engines or elsewhere that it still waits for. -/
  waits : Nat
  /-- 4 KiB pages skipped so far (R360). -/
  skips : Nat
  /-- Pretranslated extents, leaf by leaf (spec/11_translation.md R317); an invalidation removes them. -/
  exts : List TlbEntry
  deriving DecidableEq, Repr

/-- A completion record that waits for ring space (R362): its 32 bytes but for PHASE and VER, its kind, IRQ. -/
structure Rec where
  kind : Nat
  bytes : List Byte
  irq : Bool
  deriving DecidableEq, Repr

/-- One command queue (R347 to R369). -/
structure QueueSt where
  fetch : Nat
  pidx : Nat
  cprod : Nat
  ccons : Nat
  /-- Re-reads made of the descriptor at fetch (R351). -/
  rereads : Nat
  stale : Bool
  haltMem : Bool
  inflight : List Desc
  waiting : List Rec
  deriving DecidableEq, Repr

/-- A queue at reset. -/
def QueueSt.idle : QueueSt := ⟨0, 0, 0, 0, 0, false, false, [], []⟩

/-! ### Host cores -/

/-- What the module holds of a hart (spec/12_host_cores.md R337, R339, R343). -/
structure Hart where
  /-- Started, with the pc it started at, in M-mode. -/
  startPc : Option Nat
  /-- Machine timer interrupt pending. -/
  mtip : Bool
  /-- The granted frequency it is changing to, if a change is under way (25 MHz units). -/
  freqTo : Option Nat
  /-- Its clock is stretched for a supply droop (spec/18_power_and_thermal.md R491). -/
  stretched : Bool
  /-- Stores to the host fabric aperture not yet acknowledged (spec/14_holarn_fabric.md R406). -/
  apStores : Nat
  deriving DecidableEq, Repr

/-- A hart in reset. -/
def Hart.reset : Hart := ⟨none, false, none, false, 0⟩

/-! ### Debug -/

/-- The mailbox and the halted units (spec/20_counters_and_debug.md R530, R531). -/
structure Dbg where
  /-- The outstanding mailbox request: whether it is a write, its address and data. -/
  mbox : Option (Bool × Nat × W64)
  /-- For C-die 0 and 1: the site halting or halted, and whether it is HALTED. -/
  halt0 : Option (Nat × Bool)
  halt1 : Option (Nat × Bool)
  /-- An inspection's selection not latched yet, per C-die: SPACE and INDEX. -/
  insp0 : Option (Nat × Nat)
  insp1 : Option (Nat × Nat)
  /-- Groups of a halted unit that may still issue one instruction (STEP). -/
  steps : List Nat
  deriving DecidableEq, Repr

/-! ### Power -/

/-- A power hint (spec/18_power_and_thermal.md R492): job, class, step, beats. -/
structure PHint where
  job : Nat
  pclass : Nat
  step : Nat
  beats : Nat
  deriving DecidableEq, Repr

/-- What a die's power controller holds (R484 to R500). -/
structure PwrDie where
  /-- Sequence number, EFFCAP and PWR_SHARE of the last CAPSET applied (R489). -/
  capSeq : Nat
  cap : Nat
  shares : Nat
  /-- Percent taken off the budget by thermal throttling (R493) and by pacing (R500). -/
  thermDown : Nat
  paceDown : Nat
  /-- Sensors that failed their self-check (R493). -/
  sensorsBad : Nat
  /-- Steps of 5 % below full rate of the die's own means (X-die) and of the second one (near memory on a
  C-die, the well on an X-die); on the H-die the core frequency limit in units of 25 MHz (R486). -/
  mainStep : Nat
  sideStep : Nat
  /-- The hint in force, and hints received whose step has not been dispatched here. -/
  hint : Option PHint
  hints : List PHint
  deriving DecidableEq, Repr

/-- A controller before it starts: nothing lowered, H-die cores at 2.00 GHz (R487). -/
def PwrDie.reset : PwrDie := ⟨0, 0, 0, 0, 0, 0, 0, 0, none, []⟩

/-- Power control of the module. -/
structure Pwr where
  dies : SMap PwrDie
  /-- Sequence number of the last CAPSET sent (R489). -/
  capSeq : Nat
  /-- CAPSET messages on their way: die, sequence number, EFFCAP, PWR_SHARE. -/
  capsets : List (Nat × Nat × Nat × Nat)
  /-- HINT messages on their way: die, hint, and the descriptor (queue and index) that sent it. -/
  hintMsgs : List (Nat × PHint × Nat × Nat)
  /-- Set points of the C-die rails before the rest state, to return to on waking (R498). -/
  railSave : List Nat
  deriving DecidableEq, Repr

/-! ### What the module shows to the outside -/

/-- An SPDM response, by its contents (spec/19_boot_and_attestation.md R515, R516). -/
inductive SpdmReply where
  | version
  | capabilities
  /-- The algorithms selected: ECDSA P-384 with SHA-384. -/
  | algorithms
  /-- SHA-384 of the slot-0 chain. -/
  | digests (d : List Byte)
  /-- A portion of the slot-0 chain and how many bytes remain. -/
  | certificate (portion : List Byte) (remainder : Nat)
  | challengeAuth (chainHash nonce summary sig : List Byte)
  | measurements (items : List (Nat × List Byte)) (nonce sig : List Byte)
  /-- A request of a kind, slot, index or algorithm that the module does not support. -/
  | error
  deriving DecidableEq, Repr

/-- One thing the module has shown to the outside: the model's own list (log entry 9). -/
inductive Shown where
  /-- An in-band interrupt on the primary (false) or secondary path. -/
  | ibi (secondary : Bool)
  /-- The GETSTATUS answer on a path: active, any line of it faulted. -/
  | i3cStatus (secondary active : Bool)
  /-- A dynamic address accepted on a path. -/
  | i3cAddr (secondary : Bool) (addr : Nat)
  /-- An SPDM response, over PCIe or over I3C. -/
  | spdm (pcie : Bool) (r : SpdmReply)
  /-- A read of the register aperture answered with a value. -/
  | readResult (addr : Nat) (v : W64)
  /-- An access refused to its requester (R49). -/
  | refusedAccess (addr : Nat)
  /-- A line returned by a near-memory channel to its requester, poisoned or not (R241). -/
  | line (addr : Nat) (data : List Byte) (poison : Bool)
  /-- A link frame, or a frame of the ETH role, sent by a lane group (R477, R382). -/
  | frame (g seq : Nat) (bytes : List Byte)
  | ethFrame (g : Nat) (bytes : List Byte)
  /-- An interrupt write performed at an address that is no interrupt file. -/
  | msi (addr : Nat) (v : Nat)
  /-- The completion of a device's request at a lane group: 0 successful, 1 Unsupported Request, 2 Completer Abort;
  the bytes read, and whether any is poisoned. -/
  | pcie (g status : Nat) (data : List Byte) (poison : Bool)
  deriving DecidableEq, Repr

/-! ### The whole state -/

/-- The machine. -/
structure State where
  fuses : Fuses
  keys : KeyFuses
  pins : Pins
  phase : Phase
  boot : Boot
  mgmt : Mgmt
  /-- The registers of the aperture by address (R45); an unlisted one holds its reset value. -/
  regs : SMap W64
  /-- ERR_STAT of each page, by page number region · 8192 + index (R55). -/
  errs : SMap W64
  /-- DSTATE of each work-carrying page, by page number: 0 RUNNING, 1 DRAINING, 2 STOPPED, 3 ABORTING (R60). -/
  dstates : SMap Nat
  /-- The byte performed at the home of each physical address. -/
  mem : SMap Byte
  /-- Poisoned lines, by line number (address / 128): spec/09_memory_tiers.md R241. -/
  poison : SMap Bool
  /-- Shared-cache ways by ((die · 32 + slice) · 4096 + set) · 16 + way. -/
  sc : SMap ScLine
  /-- Near-memory channels by die · 16 + channel. -/
  nmcs : SMap NmcSt
  /-- Far-memory ports (lane groups) whose link went down: they claim no range until CTRL.EN = 1 is written
  again (spec/09_memory_tiers.md R248). -/
  fmcHeld : List Nat
  /-- Home slices by die · 16 + slice. -/
  homes : SMap HomeSt
  dlinks : SMap DieLink
  elog : Elog
  ev : Events
  /-- The MMU of C-die 0 and 1 (0, 1) and of X-die 0 and 1 (3, 4). -/
  mmus : SMap MmuSt
  /-- Pending invalidations, oldest first, and how many have completed (MMU_INVSTAT). -/
  invs : List InvReq
  invDone : Nat
  sump : Sump
  queues : SMap QueueSt
  /-- Descriptors accepted so far, over all queues. -/
  accepted : Nat
  /-- Loaded jobs by job number; live work items by the number they got at dispatch, and the next number
  (the model's own names for them); dispatch sequence numbers of the C-dies (R120). -/
  jobs : SMap (Option Job)
  items : SMap (Option Item)
  nextItem : Nat
  jseqs : SMap Nat
  /-- Compute units by die · 576 + site; their groups by unit · 64 + resident number; thread registers by
  ((group · 256) + register) · 32 + thread; local-store bytes by unit · 2^23 + address, unwritten ones 0
  (R206), and written sectors by unit · 2^18 + sector; CU-cache lines by (unit · 4096 + set) · 16 + way. -/
  units : SMap CuSt
  groups : SMap (Option Group)
  vregs : SMap W32
  ls : SMap Byte
  lsWritten : SMap Bool
  cc : SMap CcLine
  /-- The cache-maintenance engines of the C-dies. -/
  cmes : SMap CmeSt
  fab : FabSt
  /-- Reduction seats by lane group · 16 + channel. -/
  seats : SMap Seat
  well : WellSt
  /-- The lock-step pairing in progress. -/
  pair : Option Pair
  harts : SMap Hart
  /-- Pending identities of the interrupt files (R340): key (file · 2048 + identity), file = hart for
  supervisor level, 128 + hart for machine level. -/
  imsic : SMap Bool
  dbg : Dbg
  pwr : Pwr
  /-- Numbers the free values given out (the model's own field; log entry 11). -/
  free : Nat
  /-- Reference cycles that have passed on an empty queue (the model's own field; log entry 1). -/
  now : Nat
  /-- What was shown to the outside, newest first (the model's own field; log entry 9). -/
  outs : List Shown
  /-- The commands that wait, first in, first out. -/
  pending : List Instr
  deriving DecidableEq, Repr

/-- A feed within its band. -/
def Feed.reset : Feed := ⟨.good, 480, false⟩

/-- A clean management path. -/
def MgmtPath.reset : MgmtPath := ⟨.clean, .clean, 0, 0, none⟩

/-- The flagship's fuses (log entry 4). -/
def Fuses.flagship : Fuses where
  variant := .v2C128W
  serials := [0, 0, 0, 0, 0]
  dieNums := [0, 1, 2, 3, 4]
  valids := [true, true, true, true, true]
  farDies := [(0, 1), (1, 2), (2, 2), (3, 3), (4, 4), (5, 3), (6, 4), (7, 3), (8, 4), (9, 4)]
  failed := []
  rateMax := 0xE7
  siteVmax := 0xB2
  coreFmax := 0x94
  coreVmax := 0xB4
  coefsC := [4800, 9000, 18000, 60000, 800000, 25000, 6000, 15000, 4100000, 0, 0, 0, 0, 0, 0, 150000]
  coefsH := [2000000, 0, 0, 0, 0, 0, 0, 0, 0, 0, 0, 0, 0, 0, 0, 40000]
  coefsX := [40000, 30000, 1000, 400000, 1200000, 0, 0, 0, 0, 0, 0, 0, 0, 0, 0, 60000]

/-- No key slot holds a key, none is revoked (log entry 4). -/
def KeyFuses.blank : KeyFuses := ⟨[], [], 0, 0, 0⟩

/-- The machine right after module reset: released from reset with both feeds good, boot at stage 0 (R549),
every register and table at its reset value, nothing waiting (log entries 3 to 5). -/
def State.reset : State where
  fuses := Fuses.flagship
  keys := KeyFuses.blank
  pins := ⟨Feed.reset, Feed.reset, true, true, true⟩
  phase := .running
  boot := ⟨false, [], [], false, false⟩
  mgmt := ⟨MgmtPath.reset, MgmtPath.reset, false, 0⟩
  regs := []
  errs := []
  dstates := []
  mem := []
  poison := []
  sc := []
  nmcs := []
  fmcHeld := []
  homes := []
  dlinks := []
  elog := ⟨0, 0, 0, 0, [], []⟩
  ev := ⟨[], 0, false, false⟩
  mmus := []
  invs := []
  invDone := 0
  sump := ⟨0, 0, 0, [], []⟩
  queues := []
  accepted := 0
  jobs := []
  items := []
  nextItem := 0
  jseqs := []
  units := []
  groups := []
  vregs := []
  ls := []
  lsWritten := []
  cc := []
  cmes := []
  fab := FabSt.reset
  seats := []
  well := WellSt.fresh
  pair := none
  harts := []
  imsic := []
  dbg := ⟨none, none, none, none, none, []⟩
  pwr := ⟨[], 0, [], [], []⟩
  free := 0
  now := 0
  outs := []
  pending := []

/-- No fault stops this block: every error the spec gives the module is an effect on its state (an error
bit, a record, a status, a stop of the module), so this type has no constructor. -/
inductive Fault where
  deriving DecidableEq, Repr

/-- Why a step can be refused. -/
inductive Refusal where
  /-- Raised by an arm of exec whose command has no meaning yet; safe: nothing is claimed of it. -/
  | notModelled (mnemonic : String)
  deriving DecidableEq, Repr

end Sys2Proof.Machine
end

