-- ==== Sys2Proof/Machine/Pages.lean ====
section
/-! DEFINITION. The page map of the register aperture (spec/02_register_pages.md R45 to R48), block types
(R56), and which pages a variant has (spec/00_scope.md R2, R8). -/

namespace Sys2Proof.Machine

/-- The block types of R56. -/
inductive Block where
  | glb | die | cu | mxe | grp | pmp | sc | cme | home | nmc | fmc | wel | wdl | mmu | sump | que
  | hlp | har | lra | rtr | pwr | sec | dbg | dlk
  deriving DecidableEq, Repr

/-- TYPE of R56. -/
def Block.code : Block → Nat
  | .glb => 0x01 | .die => 0x02 | .cu => 0x03 | .mxe => 0x04 | .grp => 0x05 | .pmp => 0x06
  | .sc => 0x07 | .cme => 0x08 | .home => 0x09 | .nmc => 0x0A | .fmc => 0x0B | .wel => 0x0C
  | .wdl => 0x0D | .mmu => 0x0E | .sump => 0x0F | .que => 0x10 | .hlp => 0x11 | .har => 0x12
  | .lra => 0x13 | .rtr => 0x14 | .pwr => 0x15 | .sec => 0x16 | .dbg => 0x17 | .dlk => 0x18

/-- BLK_VER of R56; its bits 2:0 are COMPAT. -/
def Block.ver : Block → Nat
  | .glb | .die | .pmp | .sc | .mmu | .que | .hlp | .sec | .dbg => 0x30007
  | .cu | .mxe | .grp | .cme | .fmc | .sump | .har | .rtr | .pwr => 0x30006
  | .home | .nmc | .wel | .wdl | .lra | .dlk => 0x30004

/-- The block accepts a format version (R59): not 0, and its COMPAT bit is set. -/
def verOk (b : Block) (v : Nat) : Bool := decide (1 ≤ v ∧ v ≤ 3) && nbit (v - 1) b.ver

/-- The work-carrying blocks of R56. -/
def Block.workCarrying : Block → Bool
  | .cu | .pmp | .cme | .wel | .wdl | .que | .har | .lra => true
  | _ => false

/-! ### Variants -/

/-- C-dies fitted (R2). -/
def Variant.cdies : Variant → Nat
  | .v2C128W | .v2C000W => 2
  | .v1C064W | .v1C000W => 1

/-- The well tier is fitted (R2, R3). -/
def Variant.well : Variant → Bool
  | .v2C128W | .v1C064W => true
  | .v2C000W | .v1C000W => false

/-- GLB_CAP0 of R6. -/
def Variant.cap0 : Variant → Nat
  | .v2C128W => 0x0FFFFF07 | .v2C000W => 0x0FFFFF03 | .v1C064W => 0x00FC3F05 | .v1C000W => 0x00FC3F01

/-- GLB_CAP1 of R6. -/
def Variant.cap1 : Variant → Nat
  | .v2C128W => 0x0000681000220220 | .v2C000W => 0x0000001000220220
  | .v1C064W => 0x0000340800000220 | .v1C000W => 0x0000000800000220

/-- Lane group g is bonded: bit g of GLB_CAP0.LGRP (R5). -/
def Variant.bonded (v : Variant) (g : Nat) : Bool := decide (g < 20) && nbit (8 + g) v.cap0

/-- The C-die is fitted. -/
def hasCdie (s : State) (d : Nat) : Bool := decide (d < s.fuses.variant.cdies)

/-- The die is fitted: dies 2 to 4 are on every variant (R2). -/
def hasDie (s : State) (d : Nat) : Bool := hasCdie s d || decide (d = 2 ∨ d = 3 ∨ d = 4)

/-- The module has a well (R250). -/
def hasWell (s : State) : Bool := s.fuses.variant.well

/-- The die links and the dies they join (R28): the page belongs to the lower DIE_NUM. -/
def dlkEnds : List (Nat × Nat) :=
  [(0, 1), (0, 2), (1, 2), (0, 3), (0, 4), (1, 3), (1, 4), (2, 3), (2, 4), (3, 4)]

/-- Link n is fitted: both its dies are. -/
def hasDlk (s : State) (n : Nat) : Bool :=
  match dlkEnds[n]? with
  | some (a, b) => hasDie s a && hasDie s b
  | none => false

/-- The page of a link belongs to the die with the lower DIE_NUM (R28). -/
def dlkOwner (n : Nat) : Nat :=
  match dlkEnds[n]? with
  | some (a, _) => a
  | none => 0

/-! ### Addresses -/

/-- First address of the aperture (R45). -/
def apertureBase : Nat := 0x7F0000000000

/-- The page number of a region and a page index. -/
def pageNo (region index : Nat) : Nat := region * 8192 + index

/-- The address of a register (R45). -/
def regAddr (page off : Nat) : Nat := apertureBase + page * 0x10000 + off

/-- The address lies in the aperture. -/
def inAperture (a : Nat) : Bool := decide (apertureBase ≤ a ∧ a < apertureBase + 0x100000000)

/-- The page number and the offset of an address of the aperture. -/
def pageOf (a : Nat) : Nat := a / 0x10000 % 0x10000
def offOf (a : Nat) : Nat := a % 0x10000

/-- The page numbers of R46. -/
def pgDie (d : Nat) : Nat := pageNo d 0
def pgPwr (d : Nat) : Nat := pageNo d 1
def pgDbg (d : Nat) : Nat := pageNo d 2
def pgCme (d : Nat) : Nat := pageNo d 3
def pgMmu (d : Nat) : Nat := pageNo d 4
def pgDlk (n : Nat) : Nat := pageNo (dlkOwner n) (0x10 + n)
def pgSc (d i : Nat) : Nat := pageNo d (0x20 + i)
def pgHome (d i : Nat) : Nat := pageNo d (0x40 + i)
def pgNmc (d i : Nat) : Nat := pageNo d (0x50 + i)
def pgCu (d site : Nat) : Nat := pageNo d (0x1000 + 4 * site)
def pgMxe (d site : Nat) : Nat := pageNo d (0x1001 + 4 * site)
def pgGrp (d site : Nat) : Nat := pageNo d (0x1002 + 4 * site)
def pgPmp (d site : Nat) : Nat := pageNo d (0x1003 + 4 * site)
def pgSec : Nat := pageNo 2 3
def pgSump : Nat := pageNo 2 5
def pgQue (q : Nat) : Nat := pageNo 2 (0x1000 + q)
def pgRtr (x : Nat) : Nat := pageNo (3 + x) 3
def pgWel (x : Nat) : Nat := pageNo (3 + x) 5
def pgWdl (x i : Nat) : Nat := pageNo (3 + x) (8 + i)
def pgHar (x i : Nat) : Nat := pageNo (3 + x) (0x20 + i)
/-- The X-die of a lane group (R46). -/
def lgX (g : Nat) : Nat := g / 10
def pgHlp (g : Nat) : Nat := pageNo (3 + lgX g) (0x100 + g)
def pgFmc (g : Nat) : Nat := pageNo (3 + lgX g) (0x200 + g)
def pgLra (g : Nat) : Nat := pageNo (3 + lgX g) (0x300 + g)
def pgGlb : Nat := pageNo 7 0

/-- The block and instance that a page number names on a fully fitted module (R46, R47). -/
def blockAt (page : Nat) : Option (Block × Nat) :=
  let r := page / 8192
  let i := page % 8192
  if 8 ≤ r then none
  else if r = 7 then (if i = 0 then some (.glb, 0) else none)
  else if r = 5 ∨ r = 6 then none
  else if i = 0 then some (.die, 0)
  else if i = 1 then some (.pwr, 0)
  else if i = 2 then some (.dbg, 0)
  else if 0x10 ≤ i ∧ i < 0x1A ∧ dlkOwner (i - 0x10) = r then some (.dlk, i - 0x10)
  else if r < 2 then
    if i = 3 then some (.cme, 0)
    else if i = 4 then some (.mmu, 0)
    else if 0x20 ≤ i ∧ i < 0x40 then some (.sc, i - 0x20)
    else if 0x40 ≤ i ∧ i < 0x50 then some (.home, i - 0x40)
    else if 0x50 ≤ i ∧ i < 0x60 then some (.nmc, i - 0x50)
    else if 0x1000 ≤ i ∧ i < 0x1000 + 4 * 576 then
      some (if i % 4 = 0 then .cu else if i % 4 = 1 then .mxe else if i % 4 = 2 then .grp else .pmp,
        (i - 0x1000) / 4)
    else none
  else if r = 2 then
    if i = 3 then some (.sec, 0)
    else if i = 5 then some (.sump, 0)
    else if 0x1000 ≤ i then some (.que, i - 0x1000)
    else none
  else
    if i = 3 then some (.rtr, 0)
    else if i = 4 then some (.mmu, 0)
    else if i = 5 then some (.wel, 0)
    else if i = 8 ∨ i = 9 then some (.wdl, i - 8)
    else if 0x20 ≤ i ∧ i < 0x30 then some (.har, i - 0x20)
    else if 0x100 ≤ i ∧ i < 0x114 ∧ 3 + lgX (i - 0x100) = r then some (.hlp, i - 0x100)
    else if 0x200 ≤ i ∧ i < 0x214 ∧ 3 + lgX (i - 0x200) = r then some (.fmc, i - 0x200)
    else if 0x300 ≤ i ∧ i < 0x314 ∧ 3 + lgX (i - 0x300) = r then some (.lra, i - 0x300)
    else none

/-- The block and instance of a page that is present on this module (R8, R48); none for an absent page. -/
def presentPage (s : State) (page : Nat) : Option (Block × Nat) :=
  let r := page / 8192
  match blockAt page with
  | none => none
  | some (b, i) =>
    let ok := (decide (r = 7) || hasDie s r) &&
      (match b with
       | .cu | .mxe | .grp | .pmp => !s.fuses.failed.contains (r * 576 + i)
       | .dlk => hasDlk s i
       | .wel | .wdl => hasWell s
       | .hlp | .fmc | .lra => s.fuses.variant.bonded i
       | _ => true)
    if ok then some (b, i) else none

/-- BLK_ID of a present page (R55). -/
def blkId (page : Nat) (b : Block) (inst : Nat) : Nat :=
  page / 8192 * 2 ^ 29 + inst * 2 ^ 16 + b.code

end Sys2Proof.Machine
end

