-- ==== Sys2Proof/Machine/RegTable.lean ====
section
/-! DEFINITION. The registers of each block's page with their access and reset values, copied from the
register and field tables of the chapters, and the event sources each block has
(spec/20_counters_and_debug.md R525 and the chapters). -/

namespace Sys2Proof.Machine

/-- A register, or an array of them: offset, distance and number of elements, the masks of the RW, W1C and
RO fields (a WO or reserved field reads 0), the reset value, and the regions that have it as a mask. -/
structure RegInfo where
  off : Nat
  stride : Nat
  count : Nat
  rw : Nat
  w1c : Nat
  ro : Nat
  reset : Nat
  regions : Nat
  deriving DecidableEq, Repr

/-- The registers of a GLB page from offset 0x0100 (spec/00_scope.md R5, spec/16_determinism.md R438, spec/17_faults_and_replay.md R463, spec/17_faults_and_replay.md R480, spec/17_faults_and_replay.md R482, spec/20_counters_and_debug.md R527). -/
def regsGlb : List RegInfo := [
  ⟨0x0010, 8, 1, 0x0, 0x0, 0xFFFFF07, 0x0, 0xFF⟩ /- GLB_CAP0 -/,
  ⟨0x0018, 8, 1, 0x0, 0x0, 0xFFFFFFFFFFFFFF, 0x0, 0xFF⟩ /- GLB_CAP1 -/,
  ⟨0x0100, 8, 1, 0x3, 0x0, 0x0, 0x0, 0xFF⟩ /- GLB_DETCTL -/,
  ⟨0x0108, 8, 1, 0xFFFFFFFF, 0xF00000000, 0x0, 0x0, 0xFF⟩ /- GLB_TDCCNT -/,
  ⟨0x0110, 8, 1, 0xFFFFFFFF00FFF, 0x0, 0x0, 0x0, 0xFF⟩ /- GLB_DETSPILL -/,
  ⟨0x0118, 8, 1, 0x0, 0x0, 0x3F07, 0x0, 0xFF⟩ /- GLB_LSSTAT -/,
  ⟨0x0120, 8, 1, 0x0, 0x0, 0xFFFFFFFFFFFFFFFF, 0xFFFFFFFFFFFFFFFF, 0xFF⟩ /- GLB_LSCMP -/,
  ⟨0x0128, 8, 1, 0x0, 0x0, 0xFFFFFFFFFFFFFFFF, 0x0, 0xFF⟩ /- GLB_LSDIV -/,
  ⟨0x0130, 8, 1, 0x3, 0x0, 0x0, 0x1, 0xFF⟩ /- GLB_REDCTL -/,
  ⟨0x0138, 8, 1, 0x7, 0x0, 0x0, 0x0, 0xFF⟩ /- GLB_INJCTL -/,
  ⟨0x0180, 8, 1, 0xFFFFFFFFFFC1F, 0x0, 0x0, 0xA, 0xFF⟩ /- GLB_ELOGCFG -/,
  ⟨0x0188, 8, 1, 0x0, 0x0, 0xFFFFFFFF, 0x0, 0xFF⟩ /- GLB_ELOGPROD -/,
  ⟨0x0190, 8, 1, 0xFFFFFFFF, 0x0, 0x0, 0x0, 0xFF⟩ /- GLB_ELOGCONS -/,
  ⟨0x0198, 8, 1, 0xFFFFFFFFFFFFC, 0x0, 0x0, 0x0, 0xFF⟩ /- GLB_ELOGMSIADDR -/,
  ⟨0x01A0, 8, 1, 0xFFFFFFFF, 0x0, 0x0, 0x0, 0xFF⟩ /- GLB_ELOGMSIDATA -/,
  ⟨0x01A8, 8, 1, 0x0, 0x0, 0xFFFFFFFFFFFFFFFF, 0x0, 0xFF⟩ /- GLB_ELOGSTAT -/,
  ⟨0x01C0, 8, 1, 0xFFFFFFFFFFFFD, 0x0, 0x0, 0x0, 0xFF⟩ /- GLB_EVMSIADDR -/,
  ⟨0x01C8, 8, 1, 0xFFFFFFFF, 0x0, 0x0, 0x0, 0xFF⟩ /- GLB_EVMSIDATA -/,
  ⟨0x01D0, 8, 1, 0x0, 0x0, 0xFFFFFFFF00FF003F, 0x0, 0xFF⟩ /- GLB_EVLAST -/,
  ⟨0x0400, 32, 64, 0x0, 0x0, 0xFFFFFFFFFFFFFFFF, 0x0, 0xFF⟩ /- GLB_JPSC[j] -/,
  ⟨0x0408, 32, 64, 0x0, 0x0, 0xFFFFFFFFFFFFFFFF, 0x0, 0xFF⟩ /- GLB_JS0[j] -/,
  ⟨0x0410, 32, 64, 0x0, 0x0, 0xFFFFFFFFFFFFFFFF, 0x0, 0xFF⟩ /- GLB_JSEED[j] -/]

/-- The registers of a DIE page from offset 0x0100 (spec/01_module_and_dies.md R23, spec/04_compute_units.md R105, spec/12_host_cores.md R345, spec/17_faults_and_replay.md R469). -/
def regsDie : List RegInfo := [
  ⟨0x0100, 8, 1, 0x0, 0x0, 0xFFFFFFFF000F, 0x0, 0xFF⟩ /- DIE_ID -/,
  ⟨0x0108, 8, 1, 0x0, 0x10, 0xF, 0x0, 0xFF⟩ /- DIE_CLKSTAT -/,
  ⟨0x0110, 8, 1, 0x0, 0x0, 0xFFFFFFFFFFFF, 0x0, 0b00011⟩ /- DIE_CUSVC -/,
  ⟨0x0118, 8, 1, 0x3F, 0x0, 0x0, 0x0, 0b00011⟩ /- DIE_CUCFG -/,
  ⟨0x0120, 8, 1, 0x0, 0x0, 0xFFFFFFFFFFFFC, 0x0, 0b00100⟩ /- DIE_HBOOT -/,
  ⟨0x0128, 8, 1, 0xFFFFFFFFFFFFFFFF, 0x0, 0x0, 0x0, 0b00100⟩ /- DIE_HARTEN0 -/,
  ⟨0x0130, 8, 1, 0xFFFFFFFFFFFFFFFF, 0x0, 0x0, 0x0, 0b00100⟩ /- DIE_HARTEN1 -/,
  ⟨0x0140, 8, 1, 0xFFFFFFFF, 0x0, 0x0, 0x40000, 0b00011⟩ /- DIE_CUWDOG -/,
  ⟨0x0300, 8, 1, 0xFFFFFFFFFFFFFFFF, 0x0, 0x0, 0x0, 0b00100⟩ /- DIE_MTIME -/,
  ⟨0x0400, 8, 128, 0x0, 0x0, 0xFF00FF, 0x0, 0b00100⟩ /- DIE_CORECAP[c] -/,
  ⟨0x0800, 8, 128, 0xFFFFFFFFFFFFFFFF, 0x0, 0x0, 0xFFFFFFFFFFFFFFFF, 0b00100⟩ /- DIE_MTIMECMP[h] -/,
  ⟨0x0C00, 8, 128, 0xFF, 0x0, 0xFF00000000, 0xFF, 0b00100⟩ /- DIE_COREFREQ[c] -/]

/-- The registers of a CU page from offset 0x0100 (spec/04_compute_units.md R103). -/
def regsCu : List RegInfo := [
  ⟨0x0100, 8, 1, 0x0, 0x0, 0xFFFF03FF1F1F, 0x0, 0xFF⟩ /- CU_SITE -/,
  ⟨0x0108, 8, 1, 0xFF303, 0x0, 0x0, 0x42103, 0xFF⟩ /- CU_CFG -/,
  ⟨0x0110, 8, 1, 0x0, 0x0, 0x701FF01FF, 0x0, 0xFF⟩ /- CU_QSTAT -/,
  ⟨0x0118, 8, 1, 0x0, 0x0, 0x1FFFF, 0x0, 0xFF⟩ /- CU_RATE -/,
  ⟨0x0120, 8, 1, 0x0, 0x0, 0x0, 0x0, 0xFF⟩ /- CU_RETIRE -/]

/-- The registers of a MXE page from offset 0x0100 (spec/05_matrix_engine.md R151). -/
def regsMxe : List RegInfo := [
  ⟨0x0100, 8, 1, 0x0, 0x0, 0xF3F, 0x0, 0xFF⟩ /- MXE_STAT -/,
  ⟨0x0108, 8, 1, 0x0, 0x0, 0x3FFFFFFFFFF, 0x0, 0xFF⟩ /- MXE_SLAB -/,
  ⟨0x0110, 8, 1, 0x1, 0x0, 0x0, 0x1, 0xFF⟩ /- MXE_CFG -/,
  ⟨0x0118, 8, 1, 0x0, 0x0, 0xFF3F, 0x0, 0xFF⟩ /- MXE_LASTERR -/]

/-- The registers of a GRP page from offset 0x0100 (spec/07_thread_groups.md R201). -/
def regsGrp : List RegInfo := [
  ⟨0x0100, 8, 1, 0x0, 0x0, 0xF0FFF007F, 0x0, 0xFF⟩ /- GRP_OCC -/,
  ⟨0x0108, 8, 1, 0xFFFFFFFF, 0x0, 0x0, 0x400000, 0xFF⟩ /- GRP_BARTMO -/,
  ⟨0x0110, 8, 1, 0x0, 0x8000000000000000, 0xFFFF00FFFFFFFF, 0x0, 0xFF⟩ /- GRP_FAULT -/]

/-- The registers of a PMP page from offset 0x0100 (spec/08_cu_memory.md R221). -/
def regsPmp : List RegInfo := [
  ⟨0x0100, 8, 1, 0x0, 0x0, 0x1FF03, 0x0, 0xFF⟩ /- PMP_STAT -/]

/-- The registers of a SC page from offset 0x0100 (spec/08_cu_memory.md R225). -/
def regsSc : List RegInfo := [
  ⟨0x0100, 8, 1, 0xFFFFFFFFFFFFFFFF, 0x0, 0x0, 0xFFFFFFFFFFFFFFFF, 0xFF⟩ /- SC_WAYMASK0 -/,
  ⟨0x0108, 8, 1, 0xFFFFFFFFFFFFFFFF, 0x0, 0x0, 0xFFFFFFFFFFFFFFFF, 0xFF⟩ /- SC_WAYMASK1 -/]

/-- The registers of a CME page from offset 0x0100 (spec/08_cu_memory.md R227). -/
def regsCme : List RegInfo := [
  ⟨0x0100, 8, 1, 0x1FFFFFFFFFFFFFF, 0x0, 0x0, 0x0, 0xFF⟩ /- CME_VA -/,
  ⟨0x0108, 8, 1, 0x1FFFFFFFFFF, 0x0, 0x0, 0x0, 0xFF⟩ /- CME_LEN -/,
  ⟨0x0110, 8, 1, 0xFFFFFFF3FFFF, 0x0, 0x0, 0x0, 0xFF⟩ /- CME_OP -/,
  ⟨0x0118, 8, 1, 0x0, 0x0, 0x0, 0x0, 0xFF⟩ /- CME_GO -/,
  ⟨0x0120, 8, 1, 0x0, 0x0, 0xFFFFFFFFFFFF001F, 0x0, 0xFF⟩ /- CME_STAT -/]

/-- The registers of a HOME page from offset 0x0100 (spec/10_coherence_and_ordering.md R307). -/
def regsHome : List RegInfo := [
  ⟨0x0100, 8, 1, 0x3, 0x0, 0x0, 0x0, 0xFF⟩ /- HOME_ATCFG -/,
  ⟨0x0108, 8, 1, 0x0, 0x0, 0x7F01FF0003FFFF, 0x0, 0xFF⟩ /- HOME_DIRSTAT -/,
  ⟨0x0110, 8, 1, 0x0, 0x0, 0x80001FFF0000003F, 0x0, 0xFF⟩ /- HOME_TOKEN -/,
  ⟨0x0118, 8, 1, 0xFFFFFFFF, 0x0, 0x0, 0x100000, 0xFF⟩ /- HOME_ACKTMO -/]

/-- The registers of a NMC page from offset 0x0100 (spec/09_memory_tiers.md R242). -/
def regsNmc : List RegInfo := [
  ⟨0x0100, 8, 1, 0x0, 0x0, 0x7F03, 0x0, 0xFF⟩ /- NMC_STAT -/,
  ⟨0x0108, 8, 1, 0x1FFFFFFFF, 0x0, 0x0, 0x100001000, 0xFF⟩ /- NMC_WCCFG -/,
  ⟨0x0110, 8, 1, 0x0, 0x0, 0xFFFFFFFFFFFF, 0x0, 0xFF⟩ /- NMC_ECC -/,
  ⟨0x0118, 8, 1, 0x0, 0x0, 0xFFFFFFFFFFF81, 0x0, 0xFF⟩ /- NMC_ECCADDR -/]

/-- The registers of a FMC page from offset 0x0100 (spec/09_memory_tiers.md R249). -/
def regsFmc : List RegInfo := [
  ⟨0x0100, 8, 1, 0xFFFF0000FFFF, 0x0, 0x0, 0x0, 0xFF⟩ /- FMC_CFG -/,
  ⟨0x0108, 8, 1, 0x0, 0x0, 0xFFFFFFFF00001F07, 0x0, 0xFF⟩ /- FMC_STAT -/]

/-- The registers of a WEL page from offset 0x0100 (spec/09_memory_tiers.md R269). -/
def regsWel : List RegInfo := [
  ⟨0x0100, 8, 1, 0x0, 0x0, 0x1F, 0x0, 0xFF⟩ /- WEL_STAT -/,
  ⟨0x0108, 8, 1, 0x0, 0x0, 0xFFFFFFFFFFFFFFFF, 0x0, 0xFF⟩ /- WEL_SPACE -/,
  ⟨0x0110, 8, 1, 0x0, 0x0, 0xFFFF, 0x0, 0xFF⟩ /- WEL_LIFE -/,
  ⟨0x0118, 8, 1, 0x0, 0x0, 0x7FFFF, 0x0, 0xFF⟩ /- WEL_NAMES -/,
  ⟨0x0120, 8, 1, 0x0, 0x0, 0xFFFF, 0x0, 0xFF⟩ /- WEL_HOLDUP -/,
  ⟨0x0128, 8, 1, 0x0, 0x0, 0xFFFF0000FFFF, 0x0, 0xFF⟩ /- WEL_CHAN -/]

/-- The registers of a WDL page from offset 0x0100 (spec/09_memory_tiers.md R270). -/
def regsWdl : List RegInfo := [
  ⟨0x0100, 8, 1, 0x0, 0x0, 0x7, 0x0, 0xFF⟩ /- WDL_STAT -/,
  ⟨0x0108, 8, 1, 0x0, 0x0, 0xFFFFFFFFFFFFFFFF, 0x0, 0xFF⟩ /- WDL_NAME -/,
  ⟨0x0110, 8, 1, 0x0, 0x0, 0xFFFFFFFFFFFF, 0x0, 0xFF⟩ /- WDL_BYTES -/]

/-- The registers of a MMU page from offset 0x0100 (spec/11_translation.md R327). -/
def regsMmu : List RegInfo := [
  ⟨0x0100, 8, 1, 0xF, 0x0, 0x0, 0x4, 0xFF⟩ /- MMU_CFG -/,
  ⟨0x0108, 8, 1, 0x0, 0x0, 0xFFFF003F, 0x0, 0xFF⟩ /- MMU_STAT -/,
  ⟨0x0110, 8, 1, 0x1FFFFFFFFFFF000, 0x0, 0x0, 0x0, 0b00001⟩ /- MMU_INVVA -/,
  ⟨0x0118, 8, 1, 0x0, 0x0, 0x0, 0x0, 0b00001⟩ /- MMU_INVCTL -/,
  ⟨0x0120, 8, 1, 0x0, 0x0, 0xFFFFFFFF0000000F, 0x0, 0b00001⟩ /- MMU_INVSTAT -/,
  ⟨0x0200, 8, 16, 0x800000FFFFFFFFFF, 0x0, 0x0, 0x0, 0b00001⟩ /- MMU_ROOT[a] -/]

/-- The registers of a SUMP page from offset 0x0100 (spec/11_translation.md R328). -/
def regsSump : List RegInfo := [
  ⟨0x0100, 8, 1, 0xFFF01, 0x0, 0x0, 0xA4000, 0xFF⟩ /- SUMP_CFG -/,
  ⟨0x0108, 8, 1, 0xFFFFFFFFFF000, 0x0, 0x0, 0x0, 0xFF⟩ /- SUMP_BASE -/,
  ⟨0x0110, 8, 1, 0x0, 0x0, 0xFFFFFFFF, 0x0, 0xFF⟩ /- SUMP_PROD -/,
  ⟨0x0118, 8, 1, 0xFFFFFFFF, 0x0, 0x0, 0x0, 0xFF⟩ /- SUMP_CONS -/,
  ⟨0x0120, 8, 1, 0x0, 0x0, 0x0, 0x0, 0xFF⟩ /- SUMP_RESUME -/,
  ⟨0x0128, 8, 1, 0x0, 0x0, 0x31FFF, 0x0, 0xFF⟩ /- SUMP_STAT -/,
  ⟨0x0130, 8, 1, 0xFFFFFFFFFFFFC, 0x0, 0x0, 0x0, 0xFF⟩ /- SUMP_MSIADDR -/,
  ⟨0x0138, 8, 1, 0xFFFFFFFF, 0x0, 0x0, 0x0, 0xFF⟩ /- SUMP_MSIDATA -/]

/-- The registers of a QUE page from offset 0x0100 (spec/13_queues.md R368). -/
def regsQue : List RegInfo := [
  ⟨0x0100, 8, 1, 0x3FFF, 0x0, 0x0, 0x86, 0xFF⟩ /- QUE_CFG -/,
  ⟨0x0108, 8, 1, 0xFFFFFFFFFF000, 0x0, 0x0, 0x0, 0xFF⟩ /- QUE_SQBASE -/,
  ⟨0x0110, 8, 1, 0xFFFFFFFFFF000, 0x0, 0x0, 0x0, 0xFF⟩ /- QUE_CCBASE -/,
  ⟨0x0118, 8, 1, 0x0, 0x0, 0x0, 0x0, 0xFF⟩ /- QUE_DB -/,
  ⟨0x0120, 8, 1, 0xFFFFFFFF, 0x0, 0x0, 0x0, 0xFF⟩ /- QUE_FETCH -/,
  ⟨0x0128, 8, 1, 0x0, 0x0, 0xFFFFFFFF, 0x0, 0xFF⟩ /- QUE_CPROD -/,
  ⟨0x0130, 8, 1, 0xFFFFFFFF, 0x0, 0x0, 0x0, 0xFF⟩ /- QUE_CCONS -/,
  ⟨0x0138, 8, 1, 0xFFFFFF, 0x0, 0x0, 0x4010, 0xFF⟩ /- QUE_STALE_RETRY -/,
  ⟨0x0140, 8, 1, 0x0, 0x0, 0x77FFFFFFFFF, 0x0, 0xFF⟩ /- QUE_STAT -/,
  ⟨0x0148, 8, 1, 0xFFFFFFFFFFFFC, 0x0, 0x0, 0x0, 0xFF⟩ /- QUE_MSIADDR -/,
  ⟨0x0150, 8, 1, 0xFFFFFFFF, 0x0, 0x0, 0x0, 0xFF⟩ /- QUE_MSIDATA -/,
  ⟨0x0158, 8, 1, 0x0, 0x0, 0xFFFFFFFFFFFFFFFF, 0x0, 0xFF⟩ /- QUE_ENERGY -/]

/-- The registers of a HLP page from offset 0x0100 (spec/14_holarn_fabric.md R411). -/
def regsHlp : List RegInfo := [
  ⟨0x0100, 8, 1, 0x117, 0x0, 0x0, 0x0, 0xFF⟩ /- HLP_ROLE -/,
  ⟨0x0108, 8, 1, 0x5, 0x0, 0x0, 0x0, 0xFF⟩ /- HLP_LINKCTL -/,
  ⟨0x0110, 8, 1, 0x0, 0x0, 0x7FFFF00001F7F, 0x0, 0xFF⟩ /- HLP_STAT -/,
  ⟨0x0118, 8, 1, 0x0, 0x0, 0xFFFF01FFFFFFFFFF, 0x0, 0xFF⟩ /- HLP_LANE -/,
  ⟨0x0120, 8, 1, 0x0, 0x0, 0xFFFFFFFFFFFF0001, 0x0, 0xFF⟩ /- HLP_DIGSTAT -/,
  ⟨0x0128, 8, 1, 0x0, 0x0, 0xFFFFFFFFFFFFFFFF, 0x0, 0xFF⟩ /- HLP_FARDIG -/]

/-- The registers of a HAR page from offset 0x0100 (spec/14_holarn_fabric.md R415). -/
def regsHar : List RegInfo := [
  ⟨0x0100, 8, 1, 0x0, 0x0, 0xFFFFF00000001, 0x0, 0xFF⟩ /- HAR_STAT -/]

/-- The registers of a LRA page from offset 0x0100 (spec/15_fabric_reduction.md R433). -/
def regsLra : List RegInfo := [
  ⟨0x0100, 8, 1, 0x0, 0x0, 0xFFF0000FFFF, 0x0, 0xFF⟩ /- LRA_STAT -/,
  ⟨0x0200, 16, 16, 0xFFFFFFFFFFFCFFFF, 0x0, 0x0, 0x0, 0xFF⟩ /- LRA_BIND[r] -/,
  ⟨0x0208, 16, 16, 0xFFFFFFFFFF000, 0x0, 0x0, 0x0, 0xFF⟩ /- LRA_GTAB[r] -/,
  ⟨0x0300, 8, 16, 0x0, 0x0, 0xFFFFFFFFFFFFFFFF, 0xFFFFFFFFFFFFFFFF, 0xFF⟩ /- LRA_STEP[r] -/]

/-- The registers of a RTR page from offset 0x0100 (spec/14_holarn_fabric.md R413). -/
def regsRtr : List RegInfo := [
  ⟨0x0100, 8, 1, 0x10003FFFF, 0x0, 0x0, 0x3FFFF, 0b01000⟩ /- RTR_NODE -/,
  ⟨0x0108, 8, 1, 0x1F01, 0x0, 0x0, 0x1401, 0b01000⟩ /- RTR_CFG -/,
  ⟨0x0110, 8, 1, 0xFFFFFFFFFF000, 0x0, 0x0, 0x0, 0b01000⟩ /- RTR_FLOWBASE -/,
  ⟨0x0118, 8, 1, 0xFFFFFFFF80001, 0x0, 0x0, 0x0, 0b01000⟩ /- RTR_WINBASE -/,
  ⟨0x0120, 8, 1, 0xFFFFFFFF007FF, 0x0, 0x0, 0x0, 0xFF⟩ /- RTR_RTRING -/,
  ⟨0x0128, 8, 1, 0x3FFF, 0x0, 0x0, 0x0, 0xFF⟩ /- RTR_RTIDX -/,
  ⟨0x0130, 8, 1, 0x800000001F0FFFFF, 0x0, 0x0, 0x0, 0xFF⟩ /- RTR_RTDATA -/,
  ⟨0x0138, 8, 1, 0x0, 0x0, 0xFFFFFFFFFFFFFFFF, 0x0, 0xFF⟩ /- RTR_ERRLOG -/,
  ⟨0x0140, 8, 1, 0x0, 0x0, 0xFFFFFFFF000000FF, 0x0, 0xFF⟩ /- RTR_ERRCODE -/,
  ⟨0x0148, 8, 1, 0x0, 0x0, 0xFF1FFFFF7FFF, 0x0, 0xFF⟩ /- RTR_STAT -/,
  ⟨0x0200, 8, 16, 0xE000FFFF0000FFFF, 0x0, 0x0, 0x0, 0b01000⟩ /- RTR_EXPORT[e] -/]

/-- The registers of a PWR page from offset 0x0100 (spec/01_module_and_dies.md R38, spec/18_power_and_thermal.md R503, spec/18_power_and_thermal.md R504). -/
def regsPwr : List RegInfo := [
  ⟨0x0100, 8, 1, 0xFFFF, 0x0, 0x0, 0xE10, 0b00100⟩ /- PWR_CAP -/,
  ⟨0x0108, 8, 1, 0x1FFFFFFFFFFFFFF, 0x0, 0x0, 0x20606060A1C1C, 0b00100⟩ /- PWR_SHARE -/,
  ⟨0x0110, 8, 1, 0x0, 0x0, 0xFFFFFFFF0000FFFF, 0x0, 0b00100⟩ /- PWR_MODSTAT -/,
  ⟨0x0118, 8, 1, 0xFFFFFFFF, 0x0, 0x0, 0x0, 0b00100⟩ /- PWR_LATTOL -/,
  ⟨0x0120, 8, 1, 0x7FFFFFFFF, 0x0, 0x0, 0x400000064, 0b00100⟩ /- PWR_RSCTL -/,
  ⟨0x0128, 8, 1, 0x0, 0x0, 0xFFFFFFFF00000007, 0x0, 0b00100⟩ /- PWR_RSSTAT -/,
  ⟨0x0130, 8, 1, 0x0, 0x0, 0xFFFFFFFFFFFFFFFF, 0x0, 0b00100⟩ /- PWR_PACEWAIT -/,
  ⟨0x0138, 8, 1, 0x1FF, 0x0, 0x0, 0xA, 0b00100⟩ /- PWR_PACECTL -/,
  ⟨0x0140, 8, 1, 0x0, 0x0, 0xFFFFFFFFFFFFFFFF, 0x0, 0b00100⟩ /- PWR_EUNATTR -/,
  ⟨0x0148, 8, 1, 0x0, 0x0, 0xFFFFFFFFFFFFFFFF, 0x0, 0b00100⟩ /- PWR_EIN -/,
  ⟨0x0180, 8, 1, 0x0, 0x0, 0xFF07FFFFFFFFFFFF, 0x0, 0xFF⟩ /- PWR_DSTAT -/,
  ⟨0x0188, 8, 1, 0xFF, 0x0, 0x0, 0x5F, 0xFF⟩ /- PWR_THERM -/,
  ⟨0x0200, 8, 1, 0x0, 0x4, 0xFFFF000B, 0x0, 0b00100⟩ /- PWR_IN_STAT -/,
  ⟨0x0300, 8, 16, 0x0, 0x0, 0xFFFFFFFF, 0x0, 0xFF⟩ /- PWR_COEF[k] -/,
  ⟨0x0400, 8, 16, 0x0, 0x0, 0xFFFFFF, 0x0, 0b00011⟩ /- PWR_RAIL[r] -/,
  ⟨0x0500, 8, 8, 0x0, 0x0, 0xFF, 0xA0, 0b00011⟩ /- PWR_CLASSV[c] -/]

/-- The registers of a SEC page from offset 0x0100 (spec/01_module_and_dies.md R44, spec/17_faults_and_replay.md R467, spec/19_boot_and_attestation.md R520). -/
def regsSec : List RegInfo := [
  ⟨0x0100, 8, 1, 0x0, 0x0, 0xFF0F03, 0x0, 0xFF⟩ /- SEC_BOOTSTAT -/,
  ⟨0x0108, 8, 1, 0x0, 0x0, 0x3F3F, 0x0, 0xFF⟩ /- SEC_SVN -/,
  ⟨0x0110, 8, 1, 0x0, 0x0, 0xF0FF, 0x0, 0xFF⟩ /- SEC_KEYSTAT -/,
  ⟨0x0118, 8, 1, 0x0, 0x0, 0x0, 0x0, 0xFF⟩ /- SEC_MEASCTL -/,
  ⟨0x0120, 8, 6, 0xFFFFFFFFFFFFFFFF, 0x0, 0x0, 0x0, 0xFF⟩ /- SEC_MEASIN[w] -/,
  ⟨0x0200, 8, 1, 0x0, 0x0, 0xFF0177, 0x0, 0xFF⟩ /- SEC_MGT_STAT -/,
  ⟨0x0208, 8, 1, 0x0, 0x0, 0x0, 0x0, 0xFF⟩ /- SEC_MGT_CTRL -/,
  ⟨0x0210, 8, 1, 0x0, 0x0, 0x8000000000FFFF07, 0x0, 0xFF⟩ /- SEC_FATAL -/,
  ⟨0x0218, 8, 1, 0x0, 0x0, 0xFFFF0000000FFFFF, 0x0, 0xFF⟩ /- SEC_CFGSTAT -/,
  ⟨0x0300, 8, 48, 0x0, 0x0, 0xFFFFFFFFFFFFFFFF, 0x0, 0xFF⟩ /- SEC_MEAS[n] -/,
  ⟨0x0480, 8, 6, 0x0, 0x0, 0xFFFFFFFFFFFFFFFF, 0x0, 0xFF⟩ /- SEC_CFGDIG[w] -/,
  ⟨0x04C0, 8, 6, 0xFFFFFFFFFFFFFFFF, 0x0, 0x0, 0x0, 0xFF⟩ /- SEC_CFGUSR[w] -/]

/-- The registers of a DBG page from offset 0x0100 (spec/20_counters_and_debug.md R529, spec/20_counters_and_debug.md R531). -/
def regsDbg : List RegInfo := [
  ⟨0x0100, 8, 1, 0x0, 0x0, 0x0, 0x0, 0b00011⟩ /- DBG_HALT -/,
  ⟨0x0100, 8, 1, 0x3, 0x0, 0x0, 0x0, 0b00100⟩ /- DBG_EXTCTL -/,
  ⟨0x0108, 8, 1, 0x0, 0x0, 0x7FF03, 0x0, 0b00011⟩ /- DBG_HSTAT -/,
  ⟨0x0108, 8, 1, 0xFFFFFFFFFFFFFFFF, 0x0, 0x0, 0x0, 0b00100⟩ /- DBG_MBADDR -/,
  ⟨0x0110, 8, 1, 0x0, 0x0, 0x0, 0x0, 0b00011⟩ /- DBG_INSP -/,
  ⟨0x0110, 8, 1, 0xFFFFFFFFFFFFFFFF, 0x0, 0x0, 0x0, 0b00100⟩ /- DBG_MBDATA -/,
  ⟨0x0118, 8, 1, 0x0, 0x0, 0xFFFFFFFFFFFFFFFF, 0x0, 0b00011⟩ /- DBG_DATA -/,
  ⟨0x0118, 8, 1, 0x3, 0x0, 0x4, 0x0, 0b00100⟩ /- DBG_MBCTL -/]

/-- The registers of a DLK page from offset 0x0100 (spec/01_module_and_dies.md R29). -/
def regsDlk : List RegInfo := [
  ⟨0x0100, 8, 1, 0x1FFFF, 0x0, 0x0, 0x1348, 0xFF⟩ /- DLK_SHARE -/,
  ⟨0x0108, 8, 1, 0x0, 0x0, 0xFF00E3, 0x0, 0xFF⟩ /- DLK_STAT -/]
/-- The registers of a page from offset 0x0100. -/
def Block.regs : Block → List RegInfo
  | .glb => regsGlb | .die => regsDie | .cu => regsCu | .mxe => regsMxe | .grp => regsGrp
  | .pmp => regsPmp | .sc => regsSc | .cme => regsCme | .home => regsHome | .nmc => regsNmc
  | .fmc => regsFmc | .wel => regsWel | .wdl => regsWdl | .mmu => regsMmu | .sump => regsSump
  | .que => regsQue | .hlp => regsHlp | .har => regsHar | .lra => regsLra | .rtr => regsRtr
  | .pwr => regsPwr | .sec => regsSec | .dbg => regsDbg | .dlk => regsDlk

/-- The element of an array that lies at an offset. -/
def RegInfo.at? (r : RegInfo) (off : Nat) : Option Nat :=
  if off < r.off then none
  else if (off - r.off) % r.stride = 0 ∧ (off - r.off) / r.stride < r.count then
    some ((off - r.off) / r.stride)
  else none

/-- The register at an offset of a block's page in a region, with its element number. -/
def findReg (b : Block) (region off : Nat) : Option (RegInfo × Nat) :=
  b.regs.findSome? (fun r =>
    if nbit region r.regions then (r.at? off).map (fun i => (r, i)) else none)

/-- The nonzero event source codes of a block in a region (R525; spec/05 R153, spec/07 R203, spec/08 R233,
spec/09 R243, spec/10 R308, spec/13 R370, spec/14 R412, spec/15 R435, spec/18 R505). -/
def Block.sources (b : Block) (region : Nat) : List Nat :=
  match b with
  | .glb => [1, 2]
  | .die => if region < 2 then [1, 2] else [1]
  | .cu => [1, 2, 3, 4, 5, 6, 0x20, 0x21, 0x22, 0x23, 0x24, 0x25, 0x26]
  | .mxe => [1, 2, 3, 4, 5, 6, 7] | .grp => [1, 2, 3, 4, 5, 6, 7]
  | .pmp => [1, 2, 3, 4] | .sc => [1, 2, 3, 4] | .cme => [1, 2, 3]
  | .home => [1, 2, 3, 4, 5, 6, 7, 8, 9] | .nmc => [1, 2, 3, 4, 5]
  | .fmc => [1, 2, 3] | .wel => [1, 2, 3, 4] | .wdl => [1, 2, 3]
  | .mmu => if region = 0 then [1, 2, 3, 4] else [1, 2, 3]
  | .sump => [1, 2, 3] | .que => [1, 2, 3, 4, 5] | .hlp => [1, 2, 3, 4, 5, 6, 7, 8]
  | .har => [1, 2, 3] | .lra => [1, 2, 3, 4, 5, 6, 7] | .rtr => [1, 2, 3]
  | .pwr => if region = 2 then [1, 2, 3, 4, 5] else [1, 2, 4]
  | .sec => [] | .dbg => [] | .dlk => [1, 2, 3]

end Sys2Proof.Machine
end

