-- ==== Sys2Proof/Machine/Ops.lean ====
section
/-! DEFINITION. The named operations on the state that every family of commands shares: registers, the
physical memory map, error reporting, event counters, interrupt writes and completion records. -/

namespace Sys2Proof.Machine

/-- What a command answers. -/
abbrev Out := Host.Outcome State Fault Refusal

/-! ### When the module serves -/

/-- The clocked and self-timed domains run: the module is out of reset with input power, no FATAL error
stopped it (spec/17_faults_and_replay.md R467) and boot has not stopped (spec/19 R512). -/
def live (s : State) : Bool := decide (s.phase = .running) && !s.boot.stopped

/-- Potemir runs on its own oscillator (R27, R467): also after a FATAL error and while boot is stopped. -/
def potemirRuns (s : State) : Bool := decide (s.phase = .running) || decide (s.phase = .fatal)

/-- The effect of a command on a module that serves; otherwise nothing happens (log entry 2). -/
def whenLive (s : State) (t : State) : Out := .next (if live s then t else s)

/-! ### Registers -/

/-- HLP_ROLE at reset: roles of R373 with X16 for the x16 pairs. -/
def roleReset (v : Variant) (g : Nat) : Nat :=
  if v.bonded g then
    match v with
    | .v2C128W | .v2C000W =>
      if g = 6 ∨ g = 7 then 0x14 else if g = 8 ∨ g = 9 ∨ g = 18 ∨ g = 19 then 0x13 else 1
    | .v1C064W | .v1C000W => if g = 4 ∨ g = 5 then 0x13 else if g = 14 ∨ g = 15 then 0x14 else 1
  else 0

/-- The good sites of a die below one site, to place the enabled ones (R98). -/
def goodBelow (f : Fuses) (d site : Nat) : Nat :=
  site - (f.failed.filter (fun k => decide (k / 576 = d ∧ k % 576 < site))).length

/-- CU_SITE as fuses load it: the first CU_EN good sites of a C-die INSERVICE, the others SPARE (R98,
R103; log entry 4). -/
def siteReset (f : Fuses) (d site : Nat) : Nat :=
  let en := nfld (if d = 0 then 11 else 23) (if d = 0 then 0 else 12) f.variant.cap1
  f.siteVmax * 2 ^ 40 + f.rateMax * 2 ^ 32 + (if goodBelow f d site < en then 2 ^ 24 else 0)
    + site / 24 * 2 ^ 8 + site % 24

/-- The reset value of a register at an address, fuse-loaded ones included (R54). -/
def regReset (f : Fuses) (a : Nat) : W64 :=
  if inAperture a then
    let page := pageOf a
    let off := offOf a
    let r := page / 8192
    match blockAt page with
    | none => 0
    | some (b, i) =>
      if off < 0x100 then
        (if off = 0x30 then (if b.workCarrying then 0x300 else 0x301)
         else if b = .glb ∧ off = 0x10 then BitVec.ofNat 64 f.variant.cap0
         else if b = .glb ∧ off = 0x18 then BitVec.ofNat 64 f.variant.cap1
         else 0)
      else
        match findReg b r off with
        | none => 0
        | some (ri, e) =>
          match b, off with
          | .die, 0x100 =>
            BitVec.ofNat 64 (f.serials.getD r 0 % 2 ^ 32 * 2 ^ 16
              + (if f.valids.getD r false then 8 else 0) + f.dieNums.getD r 0 % 8)
          | .cu, 0x100 => BitVec.ofNat 64 (siteReset f r i)
          | .hlp, 0x100 => BitVec.ofNat 64 (roleReset f.variant i)
          | .die, _ =>
            if 0x400 ≤ off ∧ off < 0x800 then BitVec.ofNat 64 (f.coreVmax * 2 ^ 16 + f.coreFmax)
            else BitVec.ofNat 64 ri.reset
          | .pwr, _ =>
            if 0x300 ≤ off ∧ off < 0x380 then BitVec.ofNat 64 ((if r < 2 then f.coefsC else if r = 2 then f.coefsH else f.coefsX).getD e 0)
            else BitVec.ofNat 64 ri.reset
          | _, _ => BitVec.ofNat 64 ri.reset
  else 0

/-- The stored value of the register at an address. -/
def State.reg (s : State) (a : Nat) : W64 := SMap.get (regReset s.fuses) s.regs a

/-- Store a register. -/
def State.setReg (s : State) (a : Nat) (v : W64) : State :=
  { s with regs := SMap.put (regReset s.fuses) s.regs a v }

/-- A field of the register at an offset of a page. -/
def State.regF (s : State) (page off hi lo : Nat) : Nat := fld hi lo (s.reg (regAddr page off))

/-- Write a field of a register. -/
def State.setRegF (s : State) (page off hi lo v : Nat) : State :=
  s.setReg (regAddr page off) (setFld hi lo (s.reg (regAddr page off)) v)

/-- ERR_STAT of a page. -/
def State.err (s : State) (page : Nat) : W64 := SMap.get (fun _ => 0) s.errs page

/-- DSTATE of a page. -/
def State.dst (s : State) (page : Nat) : Nat := SMap.get (fun _ => 0) s.dstates page

/-- Store DSTATE. -/
def State.setDst (s : State) (page v : Nat) : State :=
  { s with dstates := SMap.put (fun _ => 0) s.dstates page v }

/-- CTRL.EN of a page. -/
def State.en (s : State) (page : Nat) : Bool := bit 0 (s.reg (regAddr page 0x30))

/-- CTRL.GENSEL of a page. -/
def State.gensel (s : State) (page : Nat) : Nat := fld 9 8 (s.reg (regAddr page 0x30))

/-- A work-carrying page takes new work: EN = 1 and DSTATE = RUNNING (R60). -/
def State.accepts (s : State) (page : Nat) : Bool := s.en page && decide (s.dst page = 0)

/-- Add to a register that counts, modulo 2^64 (the totals of R526). -/
def State.addReg (s : State) (a n : Nat) : State :=
  s.setReg a (BitVec.ofNat 64 ((s.reg a).toNat + n))

/-! ### The physical map (spec/09_memory_tiers.md R234 to R236) -/

/-- HLP_ROLE.ROLE of a lane group. -/
def roleOf (s : State) (g : Nat) : Nat := s.regF (pgHlp g) 0x100 2 0

/-- HLP_ROLE.X16 of a lane group. -/
def x16Of (s : State) (g : Nat) : Bool := bit 4 (s.reg (regAddr (pgHlp g) 0x100))

/-- The FMC page of a lane group is in force: role CXL, and not the second group of a x16 port (R245). -/
def fmcInForce (s : State) (g : Nat) : Bool :=
  s.fuses.variant.bonded g && decide (roleOf s g = 3) && !(x16Of s g && decide (g % 2 = 1))

/-- The range [start, end) that the far-memory port of a lane group claims, if it claims one (R246). -/
def farRange (s : State) (g : Nat) : Option (Nat × Nat) :=
  let page := pgFmc g
  if fmcInForce s g && s.en page && bit 0 (s.reg (regAddr page 0x108)) && !s.fmcHeld.contains g then
    let base := 0x100000000000 + s.regF page 0x100 15 0 * 2 ^ 30
    some (base, base + s.regF page 0x100 47 32 * 2 ^ 30)
  else none

/-- The lane group whose port claims a far address. -/
def farPort (s : State) (a : Nat) : Option Nat :=
  (List.range 20).find? (fun g =>
    match farRange s g with
    | some (b, e) => decide (b ≤ a ∧ a < e)
    | none => false)

/-- What lies at a physical address (R234). -/
inductive Place where
  | near | far (g : Nat) | window | aperture | nothing
  deriving DecidableEq, Repr

/-- The physical map of R234. -/
def placeOf (s : State) (a : Nat) : Place :=
  if a < 2 ^ 41 * s.fuses.variant.cdies then .near
  else if 0x100000000000 ≤ a ∧ a < 0x200000000000 then
    match farPort s a with
    | some g => .far g
    | none => .nothing
  else if 0x7E0000000000 ≤ a ∧ a < 0x7F0000000000 then .window
  else if inAperture a then .aperture
  else .nothing

/-- Near memory, populated. -/
def isNear (s : State) (a : Nat) : Bool := decide (placeOf s a = .near)

/-- Near or far memory, populated. -/
def isMem (s : State) (a : Nat) : Bool :=
  match placeOf s a with
  | .near | .far _ => true
  | _ => false

/-- Bit n of an address as a number. -/
def abit (a n : Nat) : Nat := a / 2 ^ n % 2

/-- The home die of a line (R236). -/
def homeDie (s : State) (a : Nat) : Nat :=
  if s.fuses.variant.cdies = 1 then 0
  else if a < 0x40000000000 then abit a 41
  else (abit a 24 + abit a 32 + abit a 40) % 2

/-- The near-memory channel of a near address on its home die (R237). -/
def nmcOf (a : Nat) : Nat :=
  (List.range 7).foldl (fun x i => x ^^^ nfld (13 + 4 * i) (10 + 4 * i) a) (nfld 40 38 a)

/-! ### Memory as performed at its home -/

/-- What an unlisted byte reads as (log entry 5). -/
def memDflt : Nat → Byte := fun _ => 0

/-- One byte at its home. -/
def State.byte (s : State) (a : Nat) : Byte := SMap.get memDflt s.mem a

/-- Store one byte at its home. -/
def State.setByte (s : State) (a : Nat) (b : Byte) : State :=
  { s with mem := SMap.put memDflt s.mem a b }

/-- The bytes from an address on. -/
def State.bytes (s : State) (a : Nat) : Nat → List Byte
  | 0 => []
  | n + 1 => s.byte a :: s.bytes (a + 1) n

/-- Store bytes from an address on. -/
def memPut (m : SMap Byte) (a : Nat) : List Byte → SMap Byte
  | [] => m
  | b :: bs => memPut (SMap.put memDflt m a b) (a + 1) bs

/-- Store bytes at their homes. -/
def State.putBytes (s : State) (a : Nat) (bs : List Byte) : State := { s with mem := memPut s.mem a bs }

/-- Store the bytes of a line whose mask bit is 1 (a masked write). -/
def memPutMask (m : SMap Byte) (a mask : Nat) : List Byte → SMap Byte
  | [] => m
  | b :: bs =>
    memPutMask (if mask % 2 = 1 then SMap.put memDflt m a b else m) (a + 1) (mask / 2) bs

/-- The line of an address is poisoned (R241). -/
def State.poisoned (s : State) (a : Nat) : Bool := SMap.get (fun _ => false) s.poison (a / 128)

/-- Mark or clear the poison of a line. -/
def State.setPoison (s : State) (a : Nat) (b : Bool) : State :=
  { s with poison := SMap.put (fun _ => false) s.poison (a / 128) b }

/-- Some line of a range is poisoned. -/
def State.poisonIn (s : State) (a n : Nat) : Bool :=
  s.poison.any (fun p => decide (a / 128 ≤ p.1 ∧ p.1 < ceilDiv (a + n) 128) && p.2)

/-- A range lies in populated memory: its first and last byte do, and a range crosses no hole (near memory
is one range per variant, a far range one port's). -/
def memRange (s : State) (a n : Nat) : Bool :=
  if n = 0 then true
  else match placeOf s a, placeOf s (a + n - 1) with
    | .near, .near => true
    | .far g, .far h => decide (g = h)
    | _, _ => false

/-! ### Interrupt writes (spec/12_host_cores.md R340, R341) -/

/-- The interrupt file and identity a 32-bit write names, if it is a write that has an effect. -/
def imsicTarget (a v : Nat) : Option Nat :=
  let be (x : Nat) : Nat := x % 256 * 2 ^ 24 + x / 2 ^ 8 % 256 * 2 ^ 16 + x / 2 ^ 16 % 256 * 2 ^ 8 + x / 2 ^ 24 % 256
  let off := a % 0x1000
  let id := if off = 0 then v % 2 ^ 32 else be v
  if off ≠ 0 ∧ off ≠ 4 then none
  else if 0x7E0000000000 ≤ a ∧ a < 0x7E0000080000 then
    (if 1 ≤ id ∧ id ≤ 2047 then some (a % 0x1000000 / 0x1000 * 2048 + id) else none)
  else if 0x7E0000100000 ≤ a ∧ a < 0x7E0000180000 then
    (if 1 ≤ id ∧ id ≤ 63 then some ((128 + a % 0x100000 / 0x1000) * 2048 + id) else none)
  else none

/-- An interrupt identity is pending. -/
def State.irqPending (s : State) (key : Nat) : Bool := SMap.get (fun _ => false) s.imsic key

/-- A 32-bit interrupt write to a physical address: it makes an identity of an interrupt file pending; at an
address that is no file it is a write that leaves the module's model, shown to the outside. -/
def msiWrite (s : State) (a v : Nat) : State :=
  if 0x7E0000000000 ≤ a ∧ a < 0x7E0001000000 then
    match imsicTarget a v with
    | some k => { s with imsic := SMap.put (fun _ => false) s.imsic k true }
    | none => s
  else if isMem s a then s.putBytes a (leBytes 4 v)
  else { s with outs := .msi a v :: s.outs }

/-! ### Event counters (spec/20_counters_and_debug.md R522 to R527) -/

/-- EVCNT by address. -/
def State.evcnt (s : State) (a : Nat) : W64 := SMap.get (fun _ => 0) s.ev.cnt a

/-- Store EVCNT. -/
def State.setEvcnt (s : State) (a : Nat) (v : W64) : State :=
  { s with ev := { s.ev with cnt := SMap.put (fun _ => 0) s.ev.cnt a v } }

/-- The addresses of counter n of a page: its select and its count register (R55, R524). -/
def evselAddr (page n : Nat) : Nat :=
  if n < 4 then regAddr page (0x60 + 8 * n) else regAddr page (0x2000 + 16 * (n - 4))
def evcntAddr (page n : Nat) : Nat :=
  if n < 4 then regAddr page (0x80 + 8 * n) else regAddr page (0x2008 + 16 * (n - 4))

/-- How many counters a block's page has (R55, R524). -/
def Block.counters : Block → Nat
  | .die => 64
  | .hlp => 16
  | _ => 4

/-- Send the counter interrupt write of R527, or owe it while the hold-off lasts. -/
def evInterrupt (s : State) : State :=
  let a := s.reg (regAddr pgGlb 0x1C0)
  if bit 0 a then
    if s.ev.holdoff then { s with ev := { s.ev with owed := true } }
    else
      msiWrite { s with ev := { s.ev with holdoff := true } } (fld 51 2 a * 4)
         (s.reg (regAddr pgGlb 0x1C8)).toNat
  else s

/-- A counter's OVF changes from 0 to 1 with OVIE = 1: GLB_EVLAST first, then the interrupt (R527). -/
def evOverflowed (s : State) (page n : Nat) : State :=
  match blockAt page with
  | none => s
  | some (b, i) =>
    let c := satAdd 0xFFFF (fld 63 48 s.ev.last) 1
    let v := BitVec.ofNat 64 (c * 2 ^ 48 + page / 8192 * 2 ^ 45 + i * 2 ^ 32 + b.code * 2 ^ 16 + n)
    evInterrupt { s with ev := { s.ev with last := v } }

/-- Add n events to one counter that counts: COUNT wraps past 2^48 − 1 and sets OVF (R526). -/
def evAdd (s : State) (page c n : Nat) : State :=
  let old := s.evcnt (evcntAddr page c)
  let sum := fld 47 0 old + n
  let ovf := bit 63 old
  let wraps := decide (2 ^ 48 ≤ sum)
  let s' := s.setEvcnt (evcntAddr page c)
    (BitVec.ofNat 64 ((if ovf || wraps then 2 ^ 63 else 0) + sum % 2 ^ 48))
  if wraps && !ovf && bit 17 (s.reg (evselAddr page c)) then evOverflowed s' page c else s'

/-- Counter c of a page counts the source src of the page's own block (R522). -/
def counts (s : State) (page c src : Nat) : Bool :=
  let sel := s.reg (evselAddr page c)
  bit 16 sel && decide (fld 15 0 sel = src) && !bit 4 (s.reg (regAddr page 0x30))

/-- Extended counter c of a die's DIE page counts source src of a page of the die (R524). -/
def countsX (s : State) (d page c src : Nat) : Bool :=
  let sel := s.reg (evselAddr (pgDie d) c)
  let named := pageNo d (fld 47 35 sel)
  bit 16 sel && decide (fld 15 0 sel = src) && !bit 4 (s.reg (regAddr (pgDie d) 0x30)) &&
    (decide (named = page) ||
      (bit 34 sel && decide ((blockAt named).map Prod.fst = (blockAt page).map Prod.fst)))

/-- n events of source src occur at a page (R522, R524): its own four counters and, on a HLP page, its
extended ones; then the extended counters of the die's DIE page. -/
def countEv (s : State) (page src n : Nat) : State :=
  if n = 0 then s
  else
    let own := if (blockAt page).map Prod.fst = some .hlp then 16 else 4
    let s1 := (List.range own).foldl (fun t c => if counts t page c src then evAdd t page c n else t) s
    let d := page / 8192
    if d < 5 then
      (List.range 60).foldl (fun t c =>
        if countsX t d page (c + 4) src then evAdd t (pgDie d) (c + 4) n else t) s1
    else s1

/-! ### Errors (spec/17_faults_and_replay.md R461 to R466) -/

/-- CLASS and ACTION of an ERR_STAT bit (R462). -/
def errClass (b : Block) (n : Nat) : Nat × Nat :=
  if n < 2 then (0, 0)
  else match b, n with
    | .mxe, 8 => (0, 0) | .mxe, 9 => (1, 1) | .mxe, 10 => (1, 1)
    | .grp, _ => (1, 1)
    | .cu, 12 => (0, 0) | .cu, 13 => (2, 5) | .cu, _ => (1, 1)
    | .sc, 10 => (2, 5) | .sc, _ => (0, 0)
    | .nmc, 8 => (0, 0) | .nmc, _ => (2, 5)
    | .fmc, 8 => (2, 8) | .fmc, 9 => (2, 5) | .fmc, _ => (0, 0)
    | .wel, _ => (0, 0)
    | .home, 8 => (0, 0) | .home, _ => (2, 5)
    | .que, 8 => (0, 0xB) | .que, 9 => (0, 0) | .que, _ => (2, 0xB)
    | .hlp, 8 => (1, 3) | .hlp, 9 => (1, 4) | .hlp, _ => (0, 0)
    | .rtr, 8 => (2, 0xA) | .rtr, 9 => (1, 9) | .rtr, 10 => (0, 0) | .rtr, _ => (2, 0xA)
    | .lra, 8 => (0, 0) | .lra, _ => (1, 0xC)
    | .har, _ => (1, 2) | .wdl, _ => (1, 2)
    | .dlk, 8 => (0, 0) | .dlk, 9 => (1, 3) | .dlk, _ => (3, 0)
    | _, _ => (0, 0)

/-- What a record says beyond the bit: the action if it differs from R462's, INFO, the first work
affected, injected. -/
structure ErrInfo where
  action : Option Nat
  info : Nat
  job : Option (Nat × Nat)
  inj : Bool
  deriving DecidableEq, Repr

/-- A plain error. -/
def ErrInfo.plain : ErrInfo := ⟨none, 0, none, false⟩

/-- The 32 bytes of error-log record i (R464). -/
def elogRecord (size i page : Nat) (b : Block) (inst n : Nat) (e : ErrInfo) : List Byte :=
  let (cls, act) := errClass b n
  leBytes 4 i ++ leBytes 1 ((if e.inj then 128 else 0) + cls) ++ leBytes 1 n ++ leBytes 1 b.code
    ++ leBytes 1 (page / 8192) ++ leBytes 2 inst ++ leBytes 1 (e.action.getD act)
    ++ leBytes 1 (match e.job with | some (j, _) => 128 + j % 64 | none => 0)
    ++ leBytes 8 e.info ++ leBytes 8 (match e.job with | some (_, st) => st | none => 0)
    ++ leBytes 3 0 ++ leBytes 1 (i / 2 ^ size % 2)

/-- A page wrote a record for one of its bits less than 16,384 reference cycles ago (R466). -/
def suppressed (s : State) (page n : Nat) : Bool :=
  s.elog.spans.any (fun (p, b, t) => decide (p = page ∧ b = n ∧ s.now < t + 16384))

/-- Report one occurrence of an error in the error log (R466). -/
def logError (s : State) (page : Nat) (b : Block) (inst n : Nat) (e : ErrInfo) : State :=
  let cfg := s.reg (regAddr pgGlb 0x180)
  let size := fld 4 0 cfg
  let i := s.elog.prod
  if !bit 11 cfg then s
  else if suppressed s page n then
    { s with elog := { s.elog with supp := satAdd 0xFFFFFFFF s.elog.supp 1 } }
  else if 2 ^ size ≤ idxSub i s.elog.cons then
    { s with elog := { s.elog with lost := satAdd 0xFFFFFFFF s.elog.lost 1 } }
  else
    let s1 := s.putBytes (fld 51 12 cfg * 4096 + i % 2 ^ size * 32) (elogRecord size i page b inst n e)
    let spans := (page, n, s.now) :: s1.elog.spans.filter (fun (p, c, _) => !(p == page && c == n))
    let s2 := { s1 with elog := { s1.elog with prod := (i + 1) % 2 ^ 32, spans := spans } }
    if bit 10 cfg then
      msiWrite s2 (fld 51 2 (s.reg (regAddr pgGlb 0x198)) * 4) (s.reg (regAddr pgGlb 0x1A0)).toNat
    else s2

/-- An error occurs at a page: its ERR_STAT bit is set, and it is reported unless its ERR_MASK bit is 1
or its class is FATAL (R462, R466, R467). -/
def raiseWith (s : State) (page n : Nat) (e : ErrInfo) : State :=
  match blockAt page with
  | none => s
  | some (b, i) =>
    let s1 := { s with errs := SMap.put (fun _ => 0) s.errs page (setBit n (s.err page) true) }
    if bit n (s.reg (regAddr page 0x48)) || decide ((errClass b n).1 = 3) then s1
    else logError s1 page b i n e

/-- A die link's state. -/
def State.dlink (s : State) (n : Nat) : DieLink := SMap.get (fun _ => ⟨0xFFFF, 0, 0, [], 0⟩) s.dlinks n

/-- Store a die link. -/
def State.setDlink (s : State) (n : Nat) (v : DieLink) : State :=
  { s with dlinks := SMap.put (fun _ => ⟨0xFFFF, 0, 0, [], 0⟩) s.dlinks n v }

/-- INFO of an error that concerns no line, flow or channel: the site of a unit's page, the lanes of a port, the
slices of a die link (R465). -/
def pageInfo (s : State) (page : Nat) : Nat :=
  match blockAt page with
  | some (.cu, i) | some (.mxe, i) | some (.grp, i) | some (.pmp, i) => i
  | some (.hlp, _) => (s.reg (regAddr page 0x118)).toNat
  | some (.dlk, n) => (s.dlink n).slices
  | _ => 0

/-- An error with no more to say than its page. -/
def raise (s : State) (page n : Nat) : State := raiseWith s page n { ErrInfo.plain with info := pageInfo s page }

/-- An error with an address or a number as INFO. -/
def raiseInfo (s : State) (page n info : Nat) : State := raiseWith s page n { ErrInfo.plain with info := info }

/-- A rejected register write (R53). -/
def reject (s : State) (page : Nat) : State := raise s page 0

/-- An armed injected error of a page and bit (R482). -/
def armedAt (s : State) (page n : Nat) : Bool := s.elog.armed.contains (page, n)

/-- The injected error fires: it is armed no more. -/
def disarm (s : State) (page n : Nat) : State :=
  { s with elog := { s.elog with armed := s.elog.armed.filter (fun p => p != (page, n)) } }

/-- GLB_INJCTL.NORETIRE (R482). -/
def noRetire (s : State) : Bool := bit 1 (s.reg (regAddr pgGlb 0x138))

/-! ### Completion records (spec/13_queues.md R359 to R363) -/

/-- The state of a queue. -/
def State.queue (s : State) (q : Nat) : QueueSt := SMap.get (fun _ => QueueSt.idle) s.queues q

/-- Store a queue. -/
def State.setQueue (s : State) (q : Nat) (v : QueueSt) : State :=
  { s with queues := SMap.put (fun _ => QueueSt.idle) s.queues q v }

/-- QUE_CFG.CQLOG, SQLOG, ASPACE of a queue. -/
def cqlog (s : State) (q : Nat) : Nat := s.regF (pgQue q) 0x100 7 4
def sqlog (s : State) (q : Nat) : Nat := s.regF (pgQue q) 0x100 3 0
def qaspace (s : State) (q : Nat) : Nat := s.regF (pgQue q) 0x100 11 8

/-- Status codes (R361). -/
def stOk : Nat := 0x00
def stAborted : Nat := 0x01
def stMalformed : Nat := 0x02
def stStale : Nat := 0x03
def stBadState : Nat := 0x04
def stNotPresent : Nat := 0x05
def stNoResource : Nat := 0x06
def stBadImage : Nat := 0x07
def stStepRange : Nat := 0x08
def stDetMode : Nat := 0x09
def stMemErr : Nat := 0x0A
def stNoEngine : Nat := 0x0B
def stGrpFault : Nat := 0x10
def stTagErr : Nat := 0x11
def stShape : Nat := 0x12
def stOob : Nat := 0x13
def stXlate : Nat := 0x14
def stFlowErr : Nat := 0x15
def stRedErr : Nat := 0x16
def stWellErr : Nat := 0x20
def stNoTensor : Nat := 0x21
def stVersion : Nat := 0x22
def stWellFull : Nat := 0x23
def stWellRo : Nat := 0x24
def stHoldup : Nat := 0x25

/-- The fields of a completion record (R359) but for PHASE and VER. -/
structure RecF where
  kind : Nat
  status : Nat
  detail : Nat := 0
  didx : Nat := 0
  tag : Nat := 0
  value : Nat := 0
  sid : Nat := 0
  job : Nat := 0
  ord : Nat := 0
  irq : Bool := false

/-- The 32 bytes of a record, byte 1 left 0 until it is written. -/
def RecF.bytes (r : RecF) : List Byte :=
  leBytes 1 r.kind ++ leBytes 1 0 ++ leBytes 1 r.status ++ leBytes 1 r.detail ++ leBytes 4 r.didx
    ++ leBytes 4 r.tag ++ leBytes 8 r.value ++ leBytes 2 r.sid ++ leBytes 1 r.job ++ leBytes 1 0
    ++ leBytes 4 r.ord ++ leBytes 4 0

/-- The record as a waiting one. -/
def RecF.toRec (r : RecF) : Rec := ⟨r.kind, r.bytes, r.irq⟩

/-- The ring has room for record QUE_CPROD (R362). -/
def cqRoom (s : State) (q : Nat) : Bool :=
  decide (idxSub (s.queue q).cprod (s.queue q).ccons < 2 ^ cqlog s q)

/-- Write a record at QUE_CPROD, then pass it, then interrupt (R347, R359, R362, R363). -/
def writeRec (s : State) (q : Nat) (r : Rec) : State :=
  let c := s.queue q
  let j := c.cprod
  let byte1 := (if j / 2 ^ cqlog s q % 2 = 1 then 4 else 0) + s.gensel (pgQue q)
  let s1 := s.putBytes (s.regF (pgQue q) 0x110 51 12 * 4096 + j % 2 ^ cqlog s q * 32)
    (setAt r.bytes 1 (BitVec.ofNat 8 byte1))
  let s2 := s1.setQueue q { c with cprod := (j + 1) % 2 ^ 32 }
  let s3 := countEv s2 (pgQue q) 3 1
  let cfg := s.reg (regAddr (pgQue q) 0x100)
  if bit 12 cfg && (if r.kind = 1 then r.irq else bit 13 cfg) then
    countEv (msiWrite s3 (s.regF (pgQue q) 0x148 51 2 * 4) (s.reg (regAddr (pgQue q) 0x150)).toNat)
      (pgQue q) 5 1
  else s3

/-- A record is due for a queue: it is written, or waits behind the records that wait (R362). -/
def postRec (s : State) (q : Nat) (f : RecF) : State :=
  let c := s.queue q
  if c.waiting.isEmpty && cqRoom s q then writeRec s q f.toRec
  else s.setQueue q { c with waiting := c.waiting ++ [f.toRec] }

/-- Write the first waiting record while the ring has room: at most n records (R362). -/
def flushRecs (q : Nat) : Nat → State → State
  | 0, s => s
  | n + 1, s =>
    match (s.queue q).waiting with
    | [] => s
    | r :: rs =>
      if cqRoom s q then
        flushRecs q n (writeRec (s.setQueue q { s.queue q with waiting := rs }) q r)
      else s

/-! ### In-band interrupts and fatal stops -/

/-- An in-band interrupt on the active management path (spec/01_module_and_dies.md R42). -/
def ibi (s : State) : State := { s with outs := .ibi s.mgmt.secActive :: s.outs }

/-- A FATAL error (R467): the module stops, the first cause is latched in SEC_FATAL, an in-band interrupt
is raised; nothing is logged. -/
def fatalStop (s : State) (cause info die : Nat) : State :=
  let a := regAddr pgSec 0x210
  let s1 := if bit 63 (s.reg a) then s
    else s.setReg a (BitVec.ofNat 64 (2 ^ 63 + info % 256 * 2 ^ 16 + cause * 2 ^ 8 + die % 8))
  ibi { s1 with phase := .fatal }

/-! ### Free values -/

/-- The number of the next free value, and the state that has given it out. -/
def State.takeFree (s : State) : Nat × State := (s.free, { s with free := s.free + 1 })

end Sys2Proof.Machine
end

