-- ==== Sys2Proof/Machine/PowerOps.lean ====
section
/-! DEFINITION. Power control (spec/18_power_and_thermal.md): budgets, the effective cap, rails, core
frequencies, hints. Voltages are in units of 5 mV, frequencies in units of 25 MHz. -/

namespace Sys2Proof.Machine

/-- A die's controller. -/
def State.pdie (s : State) (d : Nat) : PwrDie := SMap.get (fun _ => PwrDie.reset) s.pwr.dies d

/-- Store a controller. -/
def State.setPdie (s : State) (d : Nat) (p : PwrDie) : State :=
  { s with pwr := { s.pwr with dies := SMap.put (fun _ => PwrDie.reset) s.pwr.dies d p } }

/-- The dies fitted. -/
def diesOf (s : State) : List Nat := (List.range 5).filter (hasDie s)

/-- The C-dies fitted. -/
def cdiesOf (s : State) : List Nat := List.range s.fuses.variant.cdies

/-- EFFCAP: the lower of PWR_CAP and, in one-feed mode, 1,800 W (R490). -/
def effCap (s : State) : Nat :=
  let w := s.regF (pgPwr 2) 0x100 15 0
  if bit 3 (s.reg (regAddr (pgPwr 2) 0x200)) then min w 1800 else w

/-- Send CAPSET to every die (R489). -/
def sendCapset (s : State) : State :=
  let q := (s.pwr.capSeq + 1) % 2 ^ 16
  let msg := (diesOf s).map (fun d => (d, q, effCap s, (s.reg (regAddr (pgPwr 2) 0x108)).toNat % 2 ^ 56))
  { s with pwr := { s.pwr with capSeq := q, capsets := s.pwr.capsets ++ msg } }

/-- Bring PWR_MODSTAT.EFFCAP up to date; a change sends CAPSET (R490). -/
def capRefresh (s : State) : State :=
  if s.regF (pgPwr 2) 0x110 15 0 = effCap s then s
  else sendCapset (s.setRegF (pgPwr 2) 0x110 15 0 (effCap s))

/-- The share, in percent, that a controller's own consumer has of the cap (R484). -/
def dieShare (shares d : Nat) : Nat :=
  match d with
  | 0 => nfld 7 0 shares
  | 1 => nfld 15 8 shares
  | 2 => nfld 23 16 shares
  | 3 => nfld 31 24 shares
  | _ => nfld 39 32 shares

/-- The budget a controller enforces, lowered by throttling or pacing, whichever is lower (R484, R493,
R500, R506). -/
def dieBudget (p : PwrDie) (d : Nat) : Nat :=
  p.cap * dieShare p.shares d / 100 * (100 - max p.thermDown p.paceDown) / 100

/-- The budget of near memory enforced by a C-die, or of the well by an X-die (R486). -/
def sideBudget (s : State) (p : PwrDie) (d : Nat) : Nat :=
  if d < 2 then p.cap * nfld 47 40 p.shares / 100 / s.fuses.variant.cdies
  else if d = 2 then 0
  else if hasWell s then p.cap * nfld 55 48 p.shares / 100 / 2
  else 0

/-- The limit of a rail: the least VMAX of the INSERVICE and SPARE sites on it; one fused value serves every
site (R486, log entry 4). -/
def railLimit (s : State) : Nat := s.fuses.siteVmax

/-- VSET of a rail. -/
def railSet (s : State) (d r : Nat) : Nat := s.regF (pgPwr d) (0x400 + 8 * r) 7 0

/-- Store VSET of a rail, held between the floor and the rail limit. -/
def setRail (s : State) (d r v : Nat) : State :=
  s.setRegF (pgPwr d) (0x400 + 8 * r) 7 0 (min v (railLimit s))

/-- Change every rail of a C-die. -/
def mapRails (s : State) (d : Nat) (f : Nat → Nat) : State :=
  (List.range 16).foldl (fun t r => setRail t d r (f (railSet t d r))) s

/-- What R487 does with modelled power P (mW) against a budget B (W). -/
inductive Regulate where
  | lower4 | lower1 | raise | hold
  deriving DecidableEq, Repr

/-- The table of R487. -/
def regulate (pmw b : Nat) (waiting : Bool) : Regulate :=
  if b * 1050 < pmw then .lower4
  else if b * 1000 < pmw then .lower1
  else if pmw < b * 970 && waiting then .raise
  else .hold

/-- A rail's next set point: 20 mV or 5 mV down to 0.62 V, 5 mV up (R486, R487). -/
def railStep (g : Regulate) (v : Nat) : Nat :=
  match g with
  | .lower4 => max 124 (v - 4)
  | .lower1 => max 124 (v - 1)
  | .raise => v + 1
  | .hold => v

/-- Steps of 5 % below full rate: at most 15, which is 25 % of the rate (R486, R487). -/
def rateStep (g : Regulate) (n : Nat) : Nat :=
  match g with
  | .lower4 => min 15 (n + 4)
  | .lower1 => min 15 (n + 1)
  | .raise => n - 1
  | .hold => n

/-- The core frequency limit: steps of 5 % of FMAX between 1.00 GHz and FMAX (R339, R486; log entry 21). -/
def freqStep (fmax : Nat) (g : Regulate) (n : Nat) : Nat :=
  let st := fmax * 5 / 100
  match g with
  | .lower4 => max 40 (n - 4 * st)
  | .lower1 => max 40 (n - st)
  | .raise => min fmax (n + st)
  | .hold => n

/-- A hart. -/
def State.hart (s : State) (h : Nat) : Hart := SMap.get (fun _ => Hart.reset) s.harts h

/-- Store a hart. -/
def State.setHart (s : State) (h : Nat) (v : Hart) : State :=
  { s with harts := SMap.put (fun _ => Hart.reset) s.harts h v }

/-- The frequency limit of the H-die's controller; 0 stands for the 2.00 GHz it starts at (R487). -/
def hLimit (s : State) : Nat := if (s.pdie 2).mainStep = 0 then 80 else (s.pdie 2).mainStep

/-- The granted frequency of a core: min(REQ, FMAX, limit), never below 1.00 GHz (R339). -/
def granted (s : State) (c : Nat) : Nat :=
  max 40 (min (s.regF (pgDie 2) (0xC00 + 8 * c) 7 0) (min s.fuses.coreFmax (hLimit s)))

/-- A core that runs at another frequency than granted begins to change (R339). -/
def freqUpdate (s : State) (c : Nat) : State :=
  let h := s.hart c
  if h.startPc.isNone then s
  else if s.regF (pgDie 2) (0xC00 + 8 * c) 39 32 = granted s c then s.setHart c { h with freqTo := none }
  else s.setHart c { h with freqTo := some (granted s c) }

/-- Every core's frequency follows the limit. -/
def freqUpdateAll (s : State) : State := (List.range 128).foldl freqUpdate s

/-- The voltage of a class (PWR_CLASSV). -/
def classV (s : State) (d c : Nat) : Nat := s.regF (pgPwr d) (0x500 + 8 * c) 7 0

/-- The hint in force lapses: a C-die writes the set point of rail 0 into PWR_CLASSV (R492). -/
def hintLapse (s : State) (d : Nat) : State :=
  match (s.pdie d).hint with
  | none => s
  | some h =>
    let s1 := s.setPdie d { s.pdie d with hint := none }
    if d < 2 then s1.setRegF (pgPwr d) (0x500 + 8 * h.pclass) 7 0 (railSet s1 d 0) else s1

/-- A hint is applied: the one in force lapses, rails move to PWR_CLASSV, or an X-die removes its idle
slices (R492). -/
def hintApply (s : State) (d : Nat) (h : PHint) : State :=
  let s1 := hintLapse s d
  let s2 := if d < 2 then mapRails s1 d (fun _ => classV s1 d h.pclass)
    else s1.setPdie d { s1.pdie d with mainStep := 0 }
  countEv (s2.setPdie d { s2.pdie d with hint := some h }) (pgPwr d) 4 1

/-- The first item of a step of a job is dispatched at a die: hints that wait for it are applied (R492). -/
def hintsAtDispatch (s : State) (d job step : Nat) : State :=
  let due := (s.pdie d).hints.filter (fun h => h.job == job && h.step == step)
  let s1 := if due.isEmpty then s else
    s.setPdie d { s.pdie d with hints := (s.pdie d).hints.filter (fun h => !(h.job == job && h.step == step)) }
  due.foldl (fun t h => hintApply t d h) s1

end Sys2Proof.Machine
end

