-- ==== Sys2Proof/Machine/Translate.lean ====
section
/-! DEFINITION. Address translation: the Sv57 walk, permissions, fabric windows, the translation caches and
the sump (spec/11_translation.md). -/

namespace Sys2Proof.Machine

/-- What an access does: read, write or atomic. -/
inductive Acc where
  | rd | wr | at
  deriving DecidableEq, Repr

/-- ACCESS of R323. -/
def Acc.bits : Acc → Nat
  | .rd => 1 | .wr => 2 | .at => 4

/-- KIND of R323. -/
inductive XKind where
  | notMapped | perm | ad | badPte | noMem | fabric | noSpace | badVa
  deriving DecidableEq, Repr

/-- The code of a KIND. -/
def XKind.code : XKind → Nat
  | .notMapped => 1 | .perm => 2 | .ad => 3 | .badPte => 4 | .noMem => 5 | .fabric => 6
  | .noSpace => 7 | .badVa => 8

/-- What a translation gives: a physical address, a place in a fabric window (descriptor, byte offset), or a
fault with the level it was found at and the entry there. -/
inductive Xlat where
  | pa (a : Nat)
  | win (w off level : Nat) (pte : W64)
  | fault (k : XKind) (level : Nat) (pte : W64)
  deriving DecidableEq, Repr

/-- A leaf, or why there is none. -/
inductive Leaf where
  | leaf (e : TlbEntry)
  | fault (k : XKind) (level : Nat) (pte : W64)
  deriving DecidableEq, Repr

/-- The 9-bit index of a level (R310). -/
def vpnAt (va l : Nat) : Nat := va / 2 ^ (12 + 9 * l) % 512

/-- The doubleword at a physical address, read at its home (R311). -/
def State.dword (s : State) (a : Nat) : W64 := BitVec.ofNat 64 (leNat (s.bytes a 8))

/-- A leaf entry found at a level: accepted sizes of R312 and R314. -/
def leafAt (aspace va l : Nat) (pte : W64) : Leaf :=
  let ppn := fld 53 10 pte
  let n := bit 63 pte
  if 3 ≤ l then .fault .badPte l pte
  else if n then
    if l = 0 ∧ ppn % 16 = 8 ∧ fld 62 61 pte ≠ 3 then
      .leaf ⟨aspace, 0, va / 2 ^ 16 % 2 ^ 41 * 16, 16, pte⟩
    else .fault .badPte l pte
  else if ppn % 2 ^ (9 * l) ≠ 0 then .fault .badPte l pte
  else .leaf ⟨aspace, l, va / 2 ^ (12 + 9 * l) % 2 ^ (45 - 9 * l) * 2 ^ (9 * l), 2 ^ (9 * l), pte⟩

/-- The walk from a table at level l downward (R310 to R312). -/
def walkFrom (s : State) (aspace va : Nat) : Nat → Nat → Leaf × List WalkEntry
  | 0, table => stepAt 0 table (fun pte => (.fault .badPte 0 pte, []))
  | l + 1, table => stepAt (l + 1) table (fun pte =>
      let next := fld 53 10 pte * 4096
      let (r, ws) := walkFrom s aspace va l next
      (r, ⟨aspace, l, va / 2 ^ (21 + 9 * l) % 2 ^ (36 - 9 * l), next⟩ :: ws))
where
  stepAt (l table : Nat) (nonLeaf : W64 → Leaf × List WalkEntry) : Leaf × List WalkEntry :=
    if !memRange s table 4096 then (.fault .badPte l 0, [])
    else
      let pte := s.dword (table + 8 * vpnAt va l)
      if !bit 0 pte then (.fault .notMapped l pte, [])
      else if fld 60 54 pte ≠ 0 ∨ fld 2 1 pte = 2 then (.fault .badPte l pte, [])
      else if fld 3 1 pte = 0 then
        if bit 63 pte || decide (fld 62 61 pte ≠ 0) || bit 4 pte || bit 6 pte || bit 7 pte then
          (.fault .badPte l pte, [])
        else nonLeaf pte
      else (leafAt aspace va l pte, [])

/-- The deepest table that the walk cache holds for an address, or the root (R315). -/
def walkStart (m : MmuSt) (aspace va root : Nat) : Nat × Nat :=
  match [0, 1, 2, 3].findSome? (fun l =>
      (m.walk.find? (fun w => w.aspace == aspace && w.level == l
        && w.vprefix == va / 2 ^ (21 + 9 * l) % 2 ^ (36 - 9 * l))).map (fun w => (l, w.table))) with
  | some p => p
  | none => (4, root)

/-- A cached leaf covers an address of a space. -/
def TlbEntry.covers (e : TlbEntry) (aspace va : Nat) : Bool :=
  e.aspace == aspace && decide (e.vpn ≤ va / 4096 % 2 ^ 45 ∧ va / 4096 % 2 ^ 45 < e.vpn + e.pages)

/-- Permissions of a leaf in the order of R313, without check 4. -/
def leafPerm (e : TlbEntry) (acc : Acc) : Option XKind :=
  let p := e.pte
  let w := decide (acc ≠ .rd)
  if !bit 4 p then some .perm
  else if (acc ≠ .wr ∧ !bit 1 p) ∨ (w ∧ !bit 2 p) then some .perm
  else if !bit 6 p || (w && !bit 7 p) then some .ad
  else none

/-- The physical address that a leaf gives. -/
def leafPa (e : TlbEntry) (va : Nat) : Nat :=
  let ppn := fld 53 10 e.pte
  let base := if e.pages = 16 ∧ e.level = 0 then ppn / 16 * 16 else ppn
  (base + (va / 4096 % 2 ^ 45 - e.vpn)) * 4096 + va % 4096

/-- The place that a leaf gives an access, permissions checked unless acc is none (R226 checks none). -/
def leafAccess (s : State) (e : TlbEntry) (va : Nat) (acc : Option Acc) : Xlat :=
  match acc.bind (leafPerm e) with
  | some k => .fault k e.level e.pte
  | none =>
    if fld 62 61 e.pte = 3 then
      .win (fld 53 40 e.pte) ((fld 39 10 e.pte + (va / 4096 % 2 ^ 45 - e.vpn)) * 4096 + va % 4096) e.level e.pte
    else
      let pa := leafPa e va
      if isMem s pa then .pa pa else .fault .noMem e.level e.pte

/-- The MMU of a die. -/
def State.mmu (s : State) (d : Nat) : MmuSt := SMap.get (fun _ => ⟨[], []⟩) s.mmus d

/-- Store an MMU. -/
def State.setMmu (s : State) (d : Nat) (m : MmuSt) : State :=
  { s with mmus := SMap.put (fun _ => ⟨[], []⟩) s.mmus d m }

/-- MMU_ROOT of an address space. -/
def rootOf (s : State) (a : Nat) : W64 := s.reg (regAddr (pgMmu 0) (0x200 + 8 * a))

/-- The leaf for an address: from the die TLB, or by a walk that begins where the walk cache allows; a walk
that finds a leaf is cached (R315). -/
def findLeaf (s : State) (d aspace va : Nat) : Leaf × State :=
  if va / 2 ^ 56 ≠ 0 ∧ va / 2 ^ 56 ≠ 0xFF then (.fault .badVa 0xF 0, s)
  else
    let m := s.mmu d
    match m.tlb.find? (fun e => e.covers aspace va) with
    | some e => (.leaf e, s)
    | none =>
      let root := rootOf s aspace
      if 16 ≤ aspace ∨ !bit 63 root then (.fault .noSpace 0xF 0, s)
      else
        let (l, table) := walkStart m aspace va (fld 39 0 root * 4096)
        let (r, ws) := walkFrom s aspace va l table
        let reads := match r with
          | .leaf e => l + 1 - e.level
          | .fault k lv p => if k = .badPte ∧ p = 0 then l - lv else l + 1 - lv
        let s1 := countEv (countEv (countEv s (pgMmu d) 1 1) (pgMmu d) 2 1) (pgMmu d) 3 reads
        match r with
        | .leaf e =>
          (r, s1.setMmu d { tlb := (e :: m.tlb).take 16384, walk := (ws ++ m.walk).take 1024 })
        | .fault _ _ _ => (r, s1)

/-- Translate an access of a die's requester. -/
def translate (s : State) (d aspace va : Nat) (acc : Option Acc) : Xlat × State :=
  let (r, s1) := findLeaf s d aspace va
  match r with
  | .leaf e => (leafAccess s1 e va acc, s1)
  | .fault k l p => (.fault k l p, s1)

/-! ### Invalidation (R316) -/

/-- A cached leaf lies in the scope of an invalidation. -/
def TlbEntry.inScope (e : TlbEntry) (r : InvReq) : Bool :=
  if r.scope = 3 then true
  else if r.scope = 2 then e.aspace == r.aspace
  else e.aspace == r.aspace && decide (e.vpn ≤ r.vpn ∧ r.vpn < e.vpn + e.pages)

/-- A cached non-leaf entry lies in the scope of an invalidation. -/
def WalkEntry.inScope (w : WalkEntry) (r : InvReq) : Bool :=
  if r.scope = 3 then true
  else if r.scope = 2 then w.aspace == r.aspace
  else w.aspace == r.aspace && w.vprefix == r.vpn / 2 ^ (9 + 9 * w.level)

/-- Remove the translations of a scope from the MMUs and from the extents of accepted descriptors (R316,
R318). The unit TLBs are the compute units' own (see Units). -/
def dropTranslations (s : State) (r : InvReq) : State :=
  let s1 := [0, 1, 3, 4].foldl (fun t d =>
    let m := t.mmu d
    t.setMmu d { tlb := m.tlb.filter (fun e => !e.inScope r), walk := m.walk.filter (fun w => !w.inScope r) }) s
  (s1.queues.map Prod.fst).foldl (fun t q =>
    let c := t.queue q
    t.setQueue q { c with inflight := c.inflight.map (fun x =>
      { x with exts := x.exts.filter (fun e => !e.inScope r) }) }) s1

/-! ### The sump -/

/-- SUMP_CFG.SIZE. -/
def sumpSize (s : State) : Nat := s.regF pgSump 0x100 19 16

/-- The ring has room (R323). -/
def sumpRoom (s : State) : Bool := decide (idxSub s.sump.prod s.sump.cons < 2 ^ sumpSize s)

/-- The number in place of a slot in a NORESUME record, whose SLOT reads 0xFFF (R321); slots are 0 to 4,095. -/
def noSlot : Nat := 4096

/-- The 64 bytes of a record at ring index i (R323). -/
def sumpBytes (size i seq : Nat) (r : SRec) : List Byte :=
  let f := r.first
  let nores := decide (r.slot = noSlot)
  let (job, sid, step) := match f.work with
    | some (j, d, st) => (j, d, st)
    | none => (0, 0xFFFF, 0)
  leBytes 8 f.va ++ leBytes 4 seq ++ leBytes 2 (min r.slot 0xFFF) ++ leBytes 1 f.kind
    ++ leBytes 1 ((if nores then 128 else 0) + r.access) ++ leBytes 2 r.reqmap
    ++ leBytes 1 (f.level * 16 + f.aspace) ++ leBytes 1 0 ++ leBytes 4 r.waiters.length
    ++ leBytes 8 f.pte.toNat ++ leBytes 8 step ++ leBytes 2 sid ++ leBytes 1 job ++ leBytes 1 f.who.die
    ++ leBytes 2 f.who.unit ++ leBytes 17 0 ++ leBytes 1 (i / 2 ^ size % 2)

/-- Write a record to the ring, then pass it, then interrupt (R323). A NORESUME record is done with. -/
def sumpWrite (s : State) (r : SRec) : State :=
  let size := sumpSize s
  let i := s.sump.prod
  let q := s.sump.nextSeq
  let s1 := s.putBytes (s.regF pgSump 0x108 51 12 * 4096 + i % 2 ^ size * 64) (sumpBytes size i q r)
  let isIt (x : SRec) : Bool := x.slot == r.slot && x.seq.isNone && x.first == r.first
  let recs := if r.slot = noSlot then dropFirst isIt s1.sump.recs
    else updFirst isIt (fun x => { x with due := false, seq := some q }) s1.sump.recs
  let s2 := { s1 with sump := { s1.sump with
    prod := (i + 1) % 2 ^ 32, nextSeq := (q + 1) % 2 ^ 32, recs := recs } }
  let s3 := countEv s2 pgSump 1 1
  if bit 0 (s.reg (regAddr pgSump 0x100)) then
    msiWrite s3 (s.regF pgSump 0x130 51 2 * 4) (s.reg (regAddr pgSump 0x138)).toNat
  else s3

/-- Write the records that are due, oldest first, while the ring has room: at most n. -/
def sumpDrain : Nat → State → State
  | 0, s => s
  | n + 1, s =>
    match s.sump.recs.find? (fun r => r.due) with
    | none => s
    | some r => if sumpRoom s then sumpDrain n (sumpWrite s r) else s

/-- The open record of a fault's space and 4 KiB page (R322). -/
def sameKey (f : SFault) (r : SRec) : Bool :=
  r.slot != noSlot && r.first.aspace == f.aspace && r.first.va / 4096 == f.va / 4096

/-- The lowest free slot (log entry 23). -/
def freeSlot (s : State) : Option Nat :=
  (List.range 4096).find? (fun n => s.sump.recs.all (fun r => r.slot != n))

/-- Open a record at a slot. -/
def openRec (s : State) (n : Nat) (f : SFault) : State :=
  let r : SRec := ⟨n, f, f.access, 2 ^ f.who.kind, [f.who], false, none⟩
  { s with sump := { s.sump with recs := s.sump.recs ++ [r] } }

/-- A fault opens a record, joins one, or waits for a slot (R322). -/
def sumpFault (s : State) (f : SFault) : State :=
  if s.sump.recs.any (sameKey f) then
    let join (r : SRec) : SRec :=
      let w := if r.waiters.contains f.who then r.waiters else r.waiters ++ [f.who]
      if r.seq.isNone then { r with waiters := w, access := r.access ||| f.access, reqmap := r.reqmap ||| 2 ^ f.who.kind }
      else { r with waiters := w }
    countEv { s with sump := { s.sump with recs := updFirst (sameKey f) join s.sump.recs } } pgSump 2 1
  else match freeSlot s with
    | some n => openRec s n f
    | none => { s with sump := { s.sump with noslot := s.sump.noslot ++ [f] } }

/-- A fault of a PCIe or CXL.io device: a NORESUME record (R321). -/
def sumpNoResume (s : State) (f : SFault) : State :=
  let r : SRec := ⟨noSlot, f, f.access, 2 ^ f.who.kind, [f.who], true, none⟩
  sumpDrain 1 { s with sump := { s.sump with recs := s.sump.recs ++ [r] } }

/-- A requester waits in the sump. -/
def inSump (s : State) (w : Waiter) : Bool :=
  s.sump.recs.any (fun r => r.waiters.contains w) || s.sump.noslot.any (fun f => f.who == w)

/-- Withdraw the waiters that satisfy p (R326): records stay open. -/
def withdraw (s : State) (p : Waiter → Bool) : State :=
  { s with sump := { s.sump with
      recs := s.sump.recs.map (fun r => { r with waiters := r.waiters.filter (fun w => !p w) })
      noslot := s.sump.noslot.filter (fun f => !p f.who) } }

/-- Close an open slot; the faults that wait for one, oldest first, join an open record or take a slot (R322, R325). -/
def closeSlot (s : State) (n : Nat) : State :=
  let recs := s.sump.recs.filter (fun r => r.slot != n)
  s.sump.noslot.foldl sumpFault { s with sump := { s.sump with recs := recs, noslot := [] } }

/-- The open record that a SUMP_RESUME value names, if it is valid (R328). -/
def resumeTarget (s : State) (v : W64) : Option SRec :=
  s.sump.recs.find? (fun r => r.slot == fld 27 16 v && r.seq == some (fld 63 32 v))

end Sys2Proof.Machine
end

