-- ==== Sys2Proof/Machine/Memory.lean ====
section
/-! DEFINITION. The home side of memory: shared-cache slices and way masks (spec/08_cu_memory.md R222 to
R225), near-memory channels (spec/09_memory_tiers.md R237 to R243), and the reads and writes of non-caching
agents at a line's home (spec/10_coherence_and_ordering.md R274, R295). The bytes of `State.mem` are those
performed at the home; the caches and buffers of the home hold which lines, sectors and bytes lie where
(log entry 5). -/

namespace Sys2Proof.Machine

/-! ### The shared cache -/

/-- The shared-cache slice of an address on its home die (R222). -/
def scSlice (a : Nat) : Nat :=
  (List.range 9).foldl (fun x i => x ^^^ nfld (11 + 5 * i) (7 + 5 * i) a) 0

/-- The set of an address (R222). -/
def scSet (a : Nat) : Nat := nfld 23 12 a

/-- The home slice of an address on its home die (R273). -/
def homeSlice (a : Nat) : Nat := scSlice a / 2

/-- The key of a way. -/
def scKey (d a way : Nat) : Nat := ((d * 32 + scSlice a) * 4096 + scSet a) * 16 + way

/-- The line in a way. -/
def State.scWay (s : State) (k : Nat) : ScLine := SMap.get (fun _ => ScLine.empty) s.sc k

/-- Store a way. -/
def State.setScWay (s : State) (k : Nat) (v : ScLine) : State :=
  { s with sc := SMap.put (fun _ => ScLine.empty) s.sc k v }

/-- The way that holds the line of an address. -/
def scFind (s : State) (a : Nat) : Option Nat :=
  let d := homeDie s a
  (List.range 16).find? (fun w =>
    let l := s.scWay (scKey d a w)
    decide (l.valid ≠ 0 ∧ l.line = a / 128))

/-- The way mask of a requester class, from SC[0] of the die (R223, R225). -/
def wayMask (s : State) (d cls : Nat) : Nat :=
  nfld (16 * (cls % 4) + 15) (16 * (cls % 4))
    (s.reg (regAddr (pgSc d 0) (if cls < 4 then 0x100 else 0x108))).toNat

/-- An access sets the recently-used bit of its line; when every bit of the set is 1, the others clear
(R209). -/
def scTouch (s : State) (d a way : Nat) : State :=
  let s1 := s.setScWay (scKey d a way) { s.scWay (scKey d a way) with used := true }
  if (List.range 16).all (fun w => (s1.scWay (scKey d a w)).used) then
    (List.range 16).foldl (fun t w =>
      if w = way then t else t.setScWay (scKey d a w) { t.scWay (scKey d a w) with used := false }) s1
  else s1

/-! ### Near-memory channels -/

/-- A channel. -/
def State.nmc (s : State) (d ch : Nat) : NmcSt := SMap.get (fun _ => NmcSt.reset) s.nmcs (d * 16 + ch)

/-- Store a channel. -/
def State.setNmc (s : State) (d ch : Nat) (v : NmcSt) : State :=
  { s with nmcs := SMap.put (fun _ => NmcSt.reset) s.nmcs (d * 16 + ch) v }

/-- A mask of all 128 bytes. -/
def fullMask : Nat := 2 ^ 128 - 1

/-- An armed CE or UE marks the next line read (R243). -/
def armedNmc (s : State) (page : Nat) (e : LineErr) : LineErr × Bool × State :=
  if armedAt s page 9 then (.ue, true, disarm s page 9)
  else if armedAt s page 8 then (.ce, true, disarm s page 8)
  else (e, false, s)

/-- Read a line from its package (R241): correctable errors are corrected and counted, an uncorrectable one
marks the line poisoned. -/
def packageRead (s : State) (d ch line : Nat) (e : LineErr) : State :=
  let page := pgNmc d ch
  let s1 := countEv s page 1 1
  let (err, inj, s2) := armedNmc s1 page e
  let info : ErrInfo := ⟨none, line * 128, none, inj⟩
  match err with
  | .none => s2
  | .ce =>
    let s3 := s2.setReg (regAddr page 0x110) (satFld 31 0 (s2.reg (regAddr page 0x110)) 1)
    raiseWith (countEv (s3.setReg (regAddr page 0x118) (BitVec.ofNat 64 (line * 128))) page 2 1) page 8 info
  | .ue =>
    let s3 := s2.setReg (regAddr page 0x110) (satFld 47 32 (s2.reg (regAddr page 0x110)) 1)
    let s4 := s3.setReg (regAddr page 0x118) (BitVec.ofNat 64 (line * 128 + 1))
    raiseWith (s4.setPoison (line * 128) true) page 9 info

/-- Write out one write-combining entry (R240): whole without a read, or by read-merge-write. -/
def wcWriteOut (s : State) (d ch line mask : Nat) : State :=
  let page := pgNmc d ch
  let c := s.nmc d ch
  let s1 := s.setNmc d ch { c with wc := c.wc.filter (fun p => p.1 != line) }
  if mask = fullMask then countEv (countEv s1 page 2 1) page 5 1
  else countEv (countEv (packageRead s1 d ch line .none) page 4 1) page 2 1

/-- Write-combining is on (NMC_WCCFG.WCEN). -/
def wcen (s : State) (d ch : Nat) : Bool := bit 32 (s.reg (regAddr (pgNmc d ch) 0x108))

/-- A write of the masked bytes of a line arrives at its channel (R239): a whole line supersedes an entry and
clears poison (R241); a partial one merges into an entry or takes one, the oldest being written out when all
64 are in use. -/
def channelWrite (s : State) (a mask : Nat) : State :=
  let d := homeDie s a
  let ch := nmcOf a
  let page := pgNmc d ch
  let line := a / 128
  let c := s.nmc d ch
  if mask % 2 ^ 128 = 0 then s
  else if mask % 2 ^ 128 = fullMask then
    countEv ((s.setNmc d ch { c with wc := c.wc.filter (fun p => p.1 != line) }).setPoison a false) page 2 1
  else if !wcen s d ch then
    countEv (countEv (packageRead s d ch line .none) page 4 1) page 2 1
  else
    match c.wc.find? (fun p => p.1 == line) with
    | some (_, m) =>
      let m' := m ||| mask % 2 ^ 128
      let s1 := countEv (s.setNmc d ch { c with wc := updFirst (fun p => p.1 == line) (fun p => (p.1, m')) c.wc }) page 3 1
      if m' = fullMask then (wcWriteOut s1 d ch line m').setPoison a false else s1
    | none =>
      let s1 := match c.wc with
        | (l, m) :: _ => if 64 ≤ c.wc.length then wcWriteOut s d ch l m else s
        | [] => s
      let c1 := s1.nmc d ch
      s1.setNmc d ch { c1 with wc := c1.wc ++ [(line, mask % 2 ^ 128)] }

/-- The masked bytes of a line reach near memory's channel or the far-memory port (R239, R247). -/
def memoryWrite (s : State) (a mask : Nat) : State :=
  match placeOf s a with
  | .near => channelWrite s a mask
  | .far g =>
    let s1 := if mask % 2 ^ 128 = fullMask then s.setPoison a false else s
    if mask % 2 ^ 128 = fullMask then s1 else countEv s1 (pgFmc g) 2 1
  | _ => s

/-- The device's address of a line of far memory. -/
def farOffset (s : State) (a g : Nat) : Nat := a / 128 * 128 - ((farRange s g).map Prod.fst).getD 0

/-- A line is read from near memory's package or from the far-memory port, whose armed POISON marks it (R249). -/
def memoryRead (s : State) (a : Nat) : State :=
  match placeOf s a with
  | .near => packageRead s (homeDie s a) (nmcOf a) (a / 128) .none
  | .far g =>
    let s1 := countEv s (pgFmc g) 1 1
    if armedAt s1 (pgFmc g) 9 then
      raiseWith ((disarm s1 (pgFmc g) 9).setPoison a true) (pgFmc g) 9 ⟨none, farOffset s a g, none, true⟩
    else s1
  | _ => s

/-- The injected poison of a far-memory port fired between two states (R249): it has been reported. -/
def farFired (s s1 : State) (a : Nat) : Bool :=
  match placeOf s a with
  | .far g => armedAt s (pgFmc g) 9 && !armedAt s1 (pgFmc g) 9
  | _ => false

/-- Poison of a line is delivered to a requester (R241, R462). -/
def deliverPoison (s : State) (a : Nat) : State :=
  match placeOf s a with
  | .near => raiseInfo s (pgNmc (homeDie s a) (nmcOf a)) 10 (a / 128 * 128)
  | .far g => raiseInfo s (pgFmc g) 9 (farOffset s a g)
  | _ => s

/-! ### Shared-cache accesses -/

/-- The 128-bit byte mask of a mask of four sectors. -/
def sectorBytes (m : Nat) : Nat :=
  (maskBits 4 m).foldl (fun x i => x + (2 ^ 32 - 1) * 2 ^ (32 * i)) 0

/-- The sectors that a byte mask touches, and those it covers whole. -/
def touchedSectors (mask : Nat) : Nat :=
  maskOf ((List.range 4).filter (fun i => decide (mask / 2 ^ (32 * i) % 2 ^ 32 ≠ 0)))
def wholeSectors (mask : Nat) : Nat :=
  maskOf ((List.range 4).filter (fun i => decide (mask / 2 ^ (32 * i) % 2 ^ 32 = 2 ^ 32 - 1)))

/-- Dirty sectors of a line of the shared cache are written to memory; a poisoned line stays poisoned, since no requester
wrote it whole (R241). An armed UEDIRTY fires at the write (R555). -/
def writeBack (s : State) (a mask : Nat) : State :=
  let page := pgSc (homeDie s a) (scSlice a)
  let s1 := if armedAt s page 10 then
      raiseWith ((disarm s page 10).setPoison a true) page 10 ⟨none, a / 128 * 128, none, true⟩
    else s
  if s1.poisoned a then (memoryWrite s1 a mask).setPoison a true else memoryWrite s1 a mask

/-- A line leaves a way: its dirty sectors are written to memory (R224, EVICT of R525). -/
def scEvict (s : State) (d k : Nat) : State :=
  let l := s.scWay k
  let s1 := s.setScWay k ScLine.empty
  if l.valid ≠ 0 ∧ l.dirty ≠ 0 then
    countEv (writeBack s1 (l.line * 128) (sectorBytes l.dirty)) (pgSc d (scSlice (l.line * 128))) 3 1
  else s1

/-- The way in which a class allocates a line (R209, R224), if its mask allows one. -/
def scVictim (s : State) (d a cls : Nat) : Option Nat :=
  let ways := maskBits 16 (wayMask s d cls)
  match ways.find? (fun w => (s.scWay (scKey d a w)).valid == 0) with
  | some w => some w
  | none =>
    match ways.find? (fun w => !(s.scWay (scKey d a w)).used) with
    | some w => some w
    | none => ways.head?

/-- An injected error of a slice fires at a line it reads (R555): corrected, refetched, or poisoned. -/
def scInjected (s : State) (d a : Nat) (dirty : Bool) : State :=
  let page := pgSc d (scSlice a)
  let info : ErrInfo := ⟨none, a / 128 * 128, none, true⟩
  let s1 := if armedAt s page 8 then raiseWith (disarm s page 8) page 8 info else s
  let s2 := if armedAt s1 page 9 && !dirty then memoryRead (raiseWith (disarm s1 page 9) page 9 info) a else s1
  if armedAt s2 page 10 && dirty then raiseWith ((disarm s2 page 10).setPoison a true) page 10 info else s2

/-- A read of sectors of a line by a class: hits, or fetches the sectors requested and allocates where the
class's mask allows (R222 to R224). -/
def scRead (s : State) (cls a sectors : Nat) : State :=
  let d := homeDie s a
  let page := pgSc d (scSlice a)
  match scFind s a with
  | some w =>
    let l := s.scWay (scKey d a w)
    let miss := sectors - (sectors &&& l.valid)
    let s1 := scInjected s d a (decide (l.dirty ≠ 0))
    let s2 := countEv (countEv s1 page 1 (popCount 4 (sectors &&& l.valid))) page 2 (popCount 4 miss)
    let s3 := if miss = 0 then s2 else memoryRead s2 a
    scTouch (s3.setScWay (scKey d a w) { l with valid := l.valid ||| sectors }) d a w
  | none =>
    let s1 := memoryRead (countEv s page 2 (popCount 4 sectors)) a
    match scVictim s1 d a cls with
    | none => countEv s1 page 4 1
    | some w =>
      let s2 := scEvict s1 d (scKey d a w)
      scTouch (s2.setScWay (scKey d a w) ⟨a / 128, sectors, 0, false⟩) d a w

/-- A write of masked bytes of a line by a class: into a resident line, into a newly allocated one, or past
the shared cache to memory where the class may not allocate (R224, R274). Sectors written in part are
fetched. -/
def scWrite (s : State) (cls a mask : Nat) : State :=
  let d := homeDie s a
  let page := pgSc d (scSlice a)
  let t := touchedSectors mask
  let part := t - (t &&& wholeSectors mask)
  match scFind s a with
  | some w =>
    let l := s.scWay (scKey d a w)
    let fetch := part - (part &&& l.valid)
    let s1 := if fetch = 0 then s else memoryRead s a
    scTouch (s1.setScWay (scKey d a w) { l with valid := l.valid ||| t, dirty := l.dirty ||| t }) d a w
  | none =>
    match scVictim s d a cls with
    | none => memoryWrite (countEv s page 4 1) a mask
    | some w =>
      let s1 := scEvict s d (scKey d a w)
      let s2 := if part = 0 then s1 else memoryRead s1 a
      scTouch (s2.setScWay (scKey d a w) ⟨a / 128, t, t, false⟩) d a w

/-- Write the dirty sectors of a resident line to memory; it stays valid and clean (CLEAN of R226). -/
def scClean (s : State) (a : Nat) : State :=
  match scFind s a with
  | none => s
  | some w =>
    let d := homeDie s a
    let l := s.scWay (scKey d a w)
    if l.dirty = 0 then s
    else writeBack (s.setScWay (scKey d a w) { l with dirty := 0 }) a (sectorBytes l.dirty)

/-- As CLEAN, then the line is invalid (INVAL and FLUSH of R226: no performed write is discarded). -/
def scFlush (s : State) (a : Nat) : State :=
  let s1 := scClean s a
  match scFind s1 a with
  | none => s1
  | some w => s1.setScWay (scKey (homeDie s1 a) a w) ScLine.empty

/-! ### The directory, as non-caching requests use it -/

/-- A home slice. -/
def State.home (s : State) (d h : Nat) : HomeSt := SMap.get (fun _ => HomeSt.reset) s.homes (d * 16 + h)

/-- Store a home slice. -/
def State.setHome (s : State) (d h : Nat) (v : HomeSt) : State :=
  { s with homes := SMap.put (fun _ => HomeSt.reset) s.homes (d * 16 + h) v }

/-- The directory set of a line (R291). -/
def dirSet (a : Nat) : Nat := nfld 19 7 a

/-- A way of the directory. -/
def HomeSt.ent (h : HomeSt) (k : Nat) : DirEnt := SMap.get (fun _ => DirEnt.empty) h.dir k

/-- Store a way. -/
def HomeSt.setEnt (h : HomeSt) (k : Nat) (e : DirEnt) : HomeSt :=
  { h with dir := SMap.put (fun _ => DirEnt.empty) h.dir k e }

/-- The entry is valid. -/
def DirEnt.isValid (e : DirEnt) : Bool := e.pin || decide (e.vec ≠ 0)

/-- The key of the entry of a line, if it has one. -/
def HomeSt.find (h : HomeSt) (a : Nat) : Option Nat :=
  ((List.range 16).map (fun w => dirSet a * 16 + w)).find? (fun k =>
    (h.ent k).isValid && decide ((h.ent k).line = a / 128))

/-- A non-caching write takes every copy of the line: Inval of the sharers or Recall of the holder; the line
goes to I (R295). A transaction in progress keeps its pinned entry (log entry 24). -/
def dropCopies (s : State) (a : Nat) : State :=
  let d := homeDie s a
  let h := s.home d (homeSlice a)
  match h.find a with
  | none => s
  | some k =>
    if (h.ent k).pin then s
    else
      let n := popCount 40 (h.ent k).vec
      let s1 := s.setHome d (homeSlice a) (h.setEnt k DirEnt.empty)
      if (h.ent k).excl then s1 else countEv s1 (pgHome d (homeSlice a)) 3 n

/-- A line is held with write permission by an agent: a read at the home is forwarded (R295). -/
def heldX (s : State) (a : Nat) : Bool :=
  let h := s.home (homeDie s a) (homeSlice a)
  match h.find a with
  | some k => (h.ent k).excl
  | none => false

/-- Masked bytes of one line are performed at its home (R274): the home's caches take them, a whole line
clears poison. -/
def performWrite (s : State) (cls a mask : Nat) (data : List Byte) : State :=
  let s1 := scWrite s cls a mask
  let s2 := { s1 with mem := memPutMask s1.mem (a / 128 * 128) mask data }
  if mask % 2 ^ 128 = fullMask then s2.setPoison a false else s2

/-- Sectors of one line are served at its home; it tells whether poison is delivered. -/
def performRead (s : State) (cls a sectors : Nat) : Bool × State :=
  let s1 := scRead s cls a sectors
  if s1.poisoned a then (true, if farFired s s1 a then s1 else deliverPoison s1 a) else (false, s1)

/-- A write request of a non-caching agent of the module for one line (WrNC of R295). -/
def homeWriteLine (s : State) (cls a mask : Nat) (data : List Byte) : State :=
  if mask = 0 then s
  else performWrite (dropCopies (countEv s (pgHome (homeDie s a) (homeSlice a)) 1 1) a) cls a mask data

/-- A read request of a non-caching agent of the module for sectors of one line (RdOnce of R295). -/
def homeReadLine (s : State) (cls a sectors : Nat) : Bool × State :=
  let page := pgHome (homeDie s a) (homeSlice a)
  let s1 := countEv s page 1 1
  performRead (if heldX s a then countEv s1 page 2 1 else s1) cls a sectors

/-- Bytes placed at their offsets of a line, for a masked write. -/
def lineData (off : Nat) (bs : List Byte) : List Byte := List.replicate off 0 ++ bs

/-- A write of consecutive bytes by a class, line by line (n bounds the number of lines). -/
def homeWriteN (cls : Nat) : Nat → State → Nat → List Byte → State
  | 0, s, _, _ => s
  | n + 1, s, a, bs =>
    if bs.isEmpty then s
    else
      let off := a % 128
      let k := min (128 - off) bs.length
      homeWriteN cls n (homeWriteLine s cls a ((2 ^ k - 1) * 2 ^ off) (lineData off (bs.take k))) (a + k) (bs.drop k)

/-- A write of consecutive bytes at their homes. -/
def homeWrite (s : State) (cls a : Nat) (bs : List Byte) : State := homeWriteN cls (bs.length / 128 + 2) s a bs

/-- The sectors of a line that a range [a, a + k) within it touches. -/
def sectorsOf (a k : Nat) : Nat :=
  maskOf ((List.range 4).filter (fun i => decide (a % 128 / 32 ≤ i ∧ i ≤ (a % 128 + k - 1) / 32)))

/-- A read of n consecutive bytes, line by line: the bytes, and whether any line delivered poison. -/
def homeReadN (cls : Nat) : Nat → State → Nat → Nat → List Byte × Bool × State
  | 0, s, _, _ => ([], false, s)
  | f + 1, s, a, n =>
    if n = 0 then ([], false, s)
    else
      let k := min (128 - a % 128) n
      let (p, s1) := homeReadLine s cls a (sectorsOf a k)
      let (bs, q, s2) := homeReadN cls f s1 (a + k) (n - k)
      (s1.bytes a k ++ bs, p || q, s2)

/-- A read of n consecutive bytes at their homes. -/
def homeRead (s : State) (cls a n : Nat) : List Byte × Bool × State := homeReadN cls (n / 128 + 2) s a n

end Sys2Proof.Machine
end

