-- ==== Sys2Proof/Machine/Home.lean ====
section
/-! DEFINITION. The home slices' protocol (spec/10_coherence_and_ordering.md R291 to R309): requests of
coherent and non-caching agents, forwards and their acknowledgements, victims, retry and the age token. -/

namespace Sys2Proof.Machine

/-! ### Helpers -/

/-- The requester class of a coherent agent's requests (R223): a cluster's is 0; of the X-die agents the
flow-entry cache belongs to the harness engines. -/
def agentClass (p : Nat) : Nat := if p < 32 then 0 else 3

/-- A bit is a produced coherent agent of this module (R292). -/
def isAgent (p : Nat) : Bool := decide (p < 34 ∨ p = 36 ∨ p = 37)

/-- Vector bits set, cleared, tested. -/
def vecAdd (v p : Nat) : Nat := if nbit p v then v else v + 2 ^ p
def vecDel (v p : Nat) : Nat := if nbit p v then v - 2 ^ p else v

/-- A slice queues a response. -/
def respond (s : State) (d h : Nat) (r : HResp) : State :=
  s.setHome d h { s.home d h with resps := (s.home d h).resps ++ [r] }

/-- Answer with the line's data, poison with it (R295, R305). -/
def answerData (s : State) (d h : Nat) (agent : Option Nat) (cls line : Nat) : State :=
  let (p, s1) := performRead s cls (line * 128) 0xF
  respond s1 d h ⟨if agent.isSome then 0 else 1, agent, line, s1.bytes (line * 128) 128, p⟩

/-- Change a directory entry. -/
def setDir (s : State) (d h k : Nat) (e : DirEnt) : State := s.setHome d h ((s.home d h).setEnt k e)

/-- The old value of an atomic's operand. -/
def atomOld (s : State) (addr w : Nat) : Nat := leNat (s.bytes addr w)

/-- An atomic performed at the home (R300): the masked write of its result, its old value. -/
def performAtomic (s : State) (cls op w addr v : Nat) : Nat × State :=
  let (_, s1) := performRead s cls addr (sectorsOf addr w)
  let old := atomOld s1 addr w
  let s2 := performWrite s1 cls addr ((2 ^ w - 1) * 2 ^ (addr % 128))
    (lineData (addr % 128) (leBytes w (atomApply op w old v)))
  (old, countEv s2 (pgHome (homeDie s addr) (homeSlice addr)) 8 1)

/-! ### Placement of host AMOs (R298, R299) -/

/-- The predictor counter of a line. -/
def predIdx (line : Nat) : Nat := nfld 21 12 (line * 128) ^^^ nfld 31 22 (line * 128)

/-- Count a predictor counter up or down within 0 to 3. -/
def predStep (s : State) (d h line : Nat) (up : Bool) : State :=
  let c := s.home d h
  let i := predIdx line
  let v := SMap.get (fun _ => 0) c.pred i
  s.setHome d h { c with pred := SMap.put (fun _ => 0) c.pred i (if up then min 3 (v + 1) else v - 1) }

/-- The counter's change for an accepted request (R299). -/
def predict (s : State) (d h : Nat) (r : HReq) : State :=
  let c := s.home d h
  match r with
  | .hostAmo l p _ _ _ _ =>
    match c.find (l * 128) with
    | none => predStep s d h l false
    | some k =>
      let e := c.ent k
      if e.vec = 2 ^ p then predStep s d h l false
      else predStep s d h l true
  | .atFar none l _ _ _ _ => predStep s d h l true
  | _ => s

/-- A host AMO goes far. -/
def placeFar (s : State) (d h line : Nat) : Bool :=
  match s.regF (pgHome d h) 0x100 1 0 with
  | 1 => false
  | 2 => true
  | _ => decide (2 ≤ SMap.get (fun _ => 0) (s.home d h).pred (predIdx line))

/-- The request a host AMO becomes at its acceptance. -/
def placed (s : State) (d h : Nat) (r : HReq) : HReq × State :=
  match r with
  | .hostAmo l p op w a v =>
    let far := placeFar s d h l
    let s1 := predict s d h r
    if far then (.atFar (some p) l op w a v, s1)
    else (.rdOwn l p, countEv s1 (pgHome d h) 7 1)
  | .atFar none _ _ _ _ _ => (r, predict s d h r)
  | _ => (r, s)

/-! ### The age token (R303) -/

/-- The unpinned ways of a set, ascending. -/
def unpinned (c : HomeSt) (set : Nat) : List Nat :=
  ((List.range 16).map (fun w => set * 16 + w)).filter (fun k => !(c.ent k).pin)

/-- The set that the token holder waits for. -/
def tokenSet (c : HomeSt) : Option Nat := c.tokq.head?.map (fun r => dirSet (r.line * 128))

/-- Reserve the first unpinned way for the token holder and send TokReady. -/
def reserveWay (s : State) (d h : Nat) : State :=
  let c := s.home d h
  match c.reserved, tokenSet c with
  | none, some set =>
    match unpinned c set with
    | k :: _ => countEv (s.setHome d h { c with reserved := some k }) (pgHome d h) 6 1
    | [] => s
  | _, _ => s

/-! ### Accepting a request (R295, R301, R302) -/

/-- Open a transaction: its entry is pinned and its messages leave. -/
def openTxn (s : State) (d h k fwd vec : Nat) (req : HReq) (way : Option Nat) : State :=
  let c := s.home d h
  let e := c.ent k
  let c1 := c.setEnt k { e with pin := true }
  let s1 := s.setHome d h { c1 with txns := c1.txns ++ [⟨e.line, fwd, req, way, vec, vec, .clean, false⟩] }
  let page := pgHome d h
  if fwd = 0 then countEv s1 page 3 (popCount 40 vec)
  else if fwd < 4 then countEv s1 page 2 1
  else s1

/-- The way that a coherent request for a line in I takes: the lowest invalid one, else the least recently
allocated, among the unpinned ways (R302). -/
def victimWay (c : HomeSt) (set : Nat) : Option Nat :=
  let ws := unpinned c set
  match ws.find? (fun k => !(c.ent k).isValid) with
  | some k => some k
  | none => ws.foldl (fun best k =>
      match best with
      | none => some k
      | some b => if (c.ent k).seq < (c.ent b).seq then some k else some b) none

/-- A coherent request takes an invalid way: the line becomes X of the requester (R295, column I). -/
def fillWay (s : State) (d h k line p : Nat) : State :=
  let c := s.home d h
  let s1 := s.setHome d h { c.setEnt k ⟨line, true, 2 ^ p, false, c.allocs + 1⟩ with allocs := c.allocs + 1 }
  answerData s1 d h (some p) (agentClass p) line

/-- A coherent request for a line in I at a chosen way: taken at once, or after the victim's recall. -/
def takeWay (s : State) (d h k line p : Nat) (r : HReq) : State :=
  let e := (s.home d h).ent k
  if e.isValid then countEv (openTxn s d h k 4 e.vec r (some k)) (pgHome d h) 4 1
  else fillWay s d h k line p

/-- A coherent request for a line in I (R302, R303). -/
def allocate (s : State) (d h line p : Nat) (r : HReq) (way : Option Nat) : State :=
  match way with
  | some k => fillWay s d h k line p
  | none =>
    let c := s.home d h
    let set := dirSet (line * 128)
    let retry : State :=
      let s1 := s.setHome d h { c with tokq := c.tokq ++ [r] }
      reserveWay (countEv (respond s1 d h ⟨4, some p, line, [], false⟩) (pgHome d h) 5 1) d h
    if tokenSet c = some set then retry
    else match victimWay c set with
      | some k => takeWay s d h k line p r
      | none => retry

/-- A request that needs no message is served; one that does opens its transaction (R295). The way, if any,
is the one that a victim's recall freed for it. -/
def serve (s : State) (d h : Nat) (r : HReq) (way : Option Nat) : State :=
  let c := s.home d h
  let found := c.find (r.line * 128)
  match r with
  | .rdShared l p =>
    match found with
    | none => allocate s d h l p r way
    | some k =>
      let e := c.ent k
      if e.excl then openTxn s d h k 1 e.vec r none
      else answerData (setDir s d h k { e with vec := vecAdd e.vec p }) d h (some p) (agentClass p) l
  | .rdOwn l p =>
    match found with
    | none => allocate s d h l p r way
    | some k =>
      let e := c.ent k
      if e.excl then openTxn s d h k 2 e.vec r none
      else if vecDel e.vec p = 0 then
        respond (setDir s d h k { e with excl := true }) d h ⟨2, some p, l, [], false⟩
      else openTxn s d h k 0 (vecDel e.vec p) r none
  | .rdOnce l cls =>
    match found with
    | some k =>
      let e := c.ent k
      if e.excl then openTxn s d h k 3 e.vec r none else answerData s d h none cls l
    | none => answerData s d h none cls l
  | .wrNc l cls mask data =>
    match found with
    | some k =>
      let e := c.ent k
      openTxn s d h k (if e.excl then 4 else 0) e.vec r none
    | none => respond (performWrite s cls (l * 128) mask data) d h ⟨2, none, l, [], false⟩
  | .atFar ag l op w a v =>
    match found with
    | some k =>
      let e := c.ent k
      openTxn s d h k (if e.excl then 4 else 0) e.vec r none
    | none =>
      let (old, s1) := performAtomic s (match ag with | some p => agentClass p | none => 1) op w a v
      respond s1 d h ⟨3, ag, l, leBytes w old, false⟩
  | .hostAmo _ _ _ _ _ _ => s

/-- Accept a request: an armed parity error makes the entry it looks up X with every defined bit (R306,
R308). -/
def accept (s : State) (d h : Nat) (r : HReq) : State :=
  let page := pgHome d h
  let s1 := countEv s page 1 1
  let c := s1.home d h
  match c.find (r.line * 128) with
  | some k =>
    if armedAt s1 page 8 then
      let all := 2 ^ 32 - 1 + 3 * 2 ^ 32 + 3 * 2 ^ 36
      let s2 := raiseWith (disarm s1 page 8) page 8 ⟨none, r.line * 128, none, true⟩
      let (r', s3) := placed s2 d h r
      openTxn (setDir s3 d h k { c.ent k with excl := true, vec := all }) d h k 4 all r' none
    else
      let (r', s2) := placed s1 d h r
      serve s2 d h r' none
  | none =>
    let (r', s2) := placed s1 d h r
    serve s2 d h r' none

/-- A request would open a transaction (R295, R301, R302). -/
def opensTxn (c : HomeSt) (r : HReq) : Bool :=
  let others (k p : Nat) : Bool := (c.ent k).excl || decide (vecDel (c.ent k).vec p ≠ 0)
  let victim : Bool := match victimWay c (dirSet (r.line * 128)) with
    | some k => (c.ent k).isValid
    | none => false
  match c.find (r.line * 128), r with
  | some k, .rdShared _ _ => (c.ent k).excl
  | some k, .rdOnce _ _ => (c.ent k).excl
  | some k, .rdOwn _ p => others k p
  | some k, .hostAmo _ p _ _ _ _ => others k p
  | some _, _ => true
  | none, .rdShared _ _ => victim
  | none, .rdOwn _ _ => victim
  | none, .hostAmo _ _ _ _ _ _ => victim
  | none, _ => false

/-- A request must wait (R291, R301): its line is pinned, or an earlier request for the line waits, or it
would open a transaction and all 256 are open. -/
def mustWait (c : HomeSt) (r : HReq) : Bool :=
  c.txns.any (fun t => decide (t.line = r.line) || decide (t.req.line = r.line))
    || c.inq.any (fun q => decide (q.line = r.line))
    || (decide (256 ≤ c.txns.length) && opensTxn c r)

/-- A request arrives at its home. -/
def arrive (s : State) (r : HReq) : State :=
  let a := r.line * 128
  let d := homeDie s a
  let h := homeSlice a
  let c := s.home d h
  if mustWait c r then
    let s1 := s.setHome d h { c with inq := c.inq ++ [r] }
    if c.txns.any (fun t => decide (t.line = r.line) || decide (t.req.line = r.line)) then countEv s1 (pgHome d h) 9 1 else s1
  else accept s d h r

/-- After a transaction ends, the requests that waited are taken up again in arrival order. -/
def drainInq (s : State) (d h : Nat) : State :=
  let c := s.home d h
  c.inq.foldl (fun t r =>
    let c' := t.home d h
    if mustWait c' r then t.setHome d h { c' with inq := c'.inq ++ [r] } else accept t d h r)
    (s.setHome d h { c with inq := [] })

/-! ### Ending a transaction -/

/-- The entry of a transaction's line, whatever its state. -/
def pinnedEnt (c : HomeSt) (line : Nat) : Option Nat := c.find (line * 128)

/-- Every Ack has arrived, and the eviction that crossed the message too (R296, R301). -/
def Txn.done (t : Txn) : Bool := decide (t.await = 0) && (decide (t.ans ≠ .gone) || t.evicted)

/-- The waiting request of a transaction completes (R295 to R302). -/
def completeTxn (s : State) (d h : Nat) (t : Txn) : State :=
  let c := s.home d h
  let c1 := { c with txns := dropFirst (fun x => decide (x = t)) c.txns }
  let s0 := s.setHome d h c1
  match pinnedEnt c t.line with
  | none => drainInq (reserveWay (serve s0 d h t.req t.way) d h) d h
  | some k =>
    let e := c.ent k
    let gone := decide (t.ans = .gone)
    let unpin (e' : DirEnt) : State := setDir s0 d h k { e' with pin := false }
    let s1 :=
      match t.fwd, t.req with
      | 0, .rdOwn l p =>
        let s2 := unpin { e with excl := true, vec := 2 ^ p }
        if nbit p e.vec then respond s2 d h ⟨2, some p, l, [], false⟩
        else answerData s2 d h (some p) (agentClass p) l
      | 1, .rdShared l p =>
        let s2 := unpin { e with excl := false, vec := vecAdd (if gone then 0 else e.vec) p }
        if gone then answerData s2 d h (some p) (agentClass p) l
        else if t.ans = .dirty then scWrite s2 (agentClass p) (l * 128) fullMask else s2
      | 2, .rdOwn l p =>
        let s2 := unpin { e with vec := 2 ^ p }
        if gone then answerData s2 d h (some p) (agentClass p) l else s2
      | 3, .rdOnce l cls =>
        if gone then answerData (setDir s0 d h k DirEnt.empty) d h none cls l else unpin e
      | _, r =>
        -- every copy is gone: the line is in I, and the request is served
        let s2 := setDir s0 d h k DirEnt.empty
        let s3 := if t.ans = .dirty then scWrite s2 0 (t.line * 128) fullMask else s2
        serve s3 d h r t.way
    drainInq (reserveWay s1 d h) d h

/-- The first transaction on a line at its home slice. -/
def findTxn (c : HomeSt) (line : Nat) : Option Txn := c.txns.find? (fun t => decide (t.line = line))

/-- Change the transaction on a line; complete it when it is done. -/
def updTxn (s : State) (d h : Nat) (t t' : Txn) : State :=
  let c := s.home d h
  let s1 := s.setHome d h { c with txns := updFirst (fun x => decide (x = t)) (fun _ => t') c.txns }
  if t'.done then completeTxn s1 d h t' else s1

/-! ### Commands: requests -/

/-- The address lies in near or far memory, so that it has a home (R273). -/
def homed (s : State) (addr : Nat) : Bool := isMem s addr

/-- A cluster has one request outstanding for a line that was answered Retry: it resends only on TokReady
(R303). -/
def waitsToken (s : State) (addr p : Nat) : Bool :=
  (s.home (homeDie s addr) (homeSlice addr)).tokq.any (fun r =>
    match r with
    | .rdShared _ q => decide (q = p)
    | .rdOwn _ q => decide (q = p)
    | _ => false)

/-- The agent holds the line with write permission: it needs no request. -/
def holdsX (s : State) (addr p : Nat) : Bool :=
  let c := s.home (homeDie s addr) (homeSlice addr)
  match c.find addr with
  | some k => (c.ent k).excl && decide ((c.ent k).vec = 2 ^ p)
  | none => false

/-- RDSHARED. -/
def execRdShared (p addr : Nat) (s : State) : Out :=
  whenLive s (if homed s addr && isAgent p && !waitsToken s addr p && !holdsX s addr p then
    arrive s (.rdShared (addr / 128) p) else s)

/-- RDOWN, for a store (op none) or for a host AMO that missed (R298): op, width, operand. -/
def execRdOwn (p addr : Nat) (amo : Option (Nat × Nat × Nat)) (s : State) : Out :=
  whenLive s (if homed s addr && isAgent p && !waitsToken s addr p && !holdsX s addr p then
    match amo with
    | none => arrive s (.rdOwn (addr / 128) p)
    | some (op, w, v) =>
      if (w = 4 ∨ w = 8) ∧ addr % w = 0 ∧ op ≤ 9 ∧ op ≠ 6 then arrive s (.hostAmo (addr / 128) p op w addr v) else s
    else s)

/-- RDONCE. -/
def execRdOnce (cls addr : Nat) (s : State) : Out :=
  whenLive s (if homed s addr then arrive s (.rdOnce (addr / 128) (cls % 8)) else s)

/-- WRNC: the bytes of the line whose mask bit is 1. -/
def execWrNc (cls addr mask : Nat) (data : List Byte) (s : State) : Out :=
  whenLive s (if homed s addr && decide (mask % 2 ^ 128 ≠ 0) then
    arrive s (.wrNc (addr / 128) (cls % 8) (mask % 2 ^ 128) data) else s)

/-- ATFAR, from a non-caching agent: 32 or 64 bits, naturally aligned; binary32 add is 32 bits (R300). -/
def execAtFar (op w addr v : Nat) (s : State) : Out :=
  whenLive s (if homed s addr && decide ((w = 4 ∨ w = 8) ∧ addr % w = 0 ∧ op ≤ 9 ∧ (op = 6 → w = 4)) then
    arrive s (.atFar none (addr / 128) op w addr v) else s)

/-- The entry's vector loses an agent; an unpinned entry left empty is in I. -/
def evictAgent (s : State) (d h k p : Nat) : State :=
  let e := (s.home d h).ent k
  let v := vecDel e.vec p
  if e.pin then s
  else reserveWay (setDir s d h k (if v = 0 then DirEnt.empty else { e with vec := v })) d h

/-- An eviction that crosses a message to the agent (R296, R309). -/
def crossed (s : State) (d h line p : Nat) : State :=
  match findTxn (s.home d h) line with
  | some t => if t.fwd ≠ 0 ∧ nbit p t.await then updTxn s d h t { t with evicted := true } else s
  | none => s

/-- EVCLEAN. -/
def execEvClean (p addr : Nat) (s : State) : Out :=
  let d := homeDie s addr
  let h := homeSlice addr
  let c := s.home d h
  whenLive s (match c.find addr with
    | some k => if nbit p (c.ent k).vec then crossed (evictAgent s d h k p) d h (addr / 128) p else s
    | none => s)

/-- WBDIRTY: the whole line is performed at the home (R274); the holder gives the line up. -/
def execWbDirty (p addr : Nat) (data : List Byte) (s : State) : Out :=
  let d := homeDie s addr
  let h := homeSlice addr
  let c := s.home d h
  whenLive s (match c.find addr with
    | some k =>
      if (c.ent k).excl && nbit p (c.ent k).vec && decide (data.length = 128) then
        crossed (evictAgent (performWrite s (agentClass p) addr fullMask data) d h k p) d h (addr / 128) p
      else s
    | none => s)

/-! ### Commands: forwards -/

/-- An agent takes the message of a transaction; a modified line's bytes become known to the model, which
holds what is performed at the home (R276). -/
def takeForward (s : State) (fwd agent addr : Nat) (ans : FwdAns) (data : List Byte) : State :=
  let d := homeDie s addr
  let h := homeSlice addr
  match findTxn (s.home d h) (addr / 128) with
  | none => s
  | some t =>
    if t.fwd = fwd ∧ nbit agent t.unsent then
      let dirty := decide (ans = .dirty) && decide (fwd ≠ 0)
      if dirty && decide (data.length ≠ 128) then s
      else
        let s1 := if dirty then { s with mem := memPut s.mem (addr / 128 * 128) data } else s
        let ans' := if fwd = 0 then .clean else if t.ans = .clean then ans else t.ans
        let s2 := updTxn s1 d h t { t with unsent := vecDel t.unsent agent, ans := ans' }
        -- the owner sends the line to the requester (R296)
        if ans = .gone then s2
        else
          let line := addr / 128
          let out (k : Nat) (p : Option Nat) : State :=
            respond s2 d h ⟨k, p, line, s2.bytes (line * 128) 128, s2.poisoned addr⟩
          match fwd, t.req with
          | 1, .rdShared _ p => out 0 (some p)
          | 2, .rdOwn _ p => out 0 (some p)
          | 3, .rdOnce _ _ => out 1 none
          | _, _ => s2
    else s

/-- FWDSHARED, FWDOWN, FWDONCE: with the line's bytes when the owner had modified it. -/
def execFwdShared (agent addr : Nat) (ans : FwdAns) (data : List Byte) (s : State) : Out :=
  whenLive s (takeForward s 1 agent addr ans data)
def execFwdOwn (agent addr : Nat) (ans : FwdAns) (data : List Byte) (s : State) : Out :=
  whenLive s (takeForward s 2 agent addr ans data)
def execFwdOnce (agent addr : Nat) (ans : FwdAns) (data : List Byte) (s : State) : Out :=
  whenLive s (takeForward s 3 agent addr ans data)

/-- INVAL: the agent drops its read-only copy. -/
def execInval (agent addr : Nat) (s : State) : Out := whenLive s (takeForward s 0 agent addr .clean [])

/-- RECALL: the agent drops its copy and returns it if modified. -/
def execRecall (agent addr : Nat) (ans : FwdAns) (data : List Byte) (s : State) : Out :=
  whenLive s (takeForward s 4 agent addr ans data)

/-- TOKREADY: the token holder resends its request, which is accepted into the reserved way; the token
passes on (R303). -/
def execTokReady (d h : Nat) (s : State) : Out :=
  let c := s.home d h
  whenLive s (match c.reserved, c.tokq with
    | some k, r :: rs =>
      if (c.ent k).pin || mustWait c r then s
      else
        let s1 := countEv (s.setHome d h { c with reserved := none, tokq := rs }) (pgHome d h) 1 1
        let s2 :=
          match c.find (r.line * 128), r with
          | none, .rdShared l p => takeWay s1 d h k l p r
          | none, .rdOwn l p => takeWay s1 d h k l p r
          | _, _ => serve s1 d h r none
        reserveWay s2 d h
    | _, _ => s)

/-! ### Commands: responses, which are always consumed (R294) -/

/-- A response of a kind for an agent and line leaves the slice. -/
def consume (s : State) (kind : Nat) (agent : Option Nat) (addr : Nat) : State :=
  let d := homeDie s addr
  let h := homeSlice addr
  let c := s.home d h
  s.setHome d h { c with resps := dropFirst (fun r =>
    r.kind == kind && r.agent == agent && r.line == addr / 128) c.resps }

/-- DATA, DATAONCE, CMP, ATRESULT, RETRY. -/
def execData (p addr : Nat) (s : State) : Out := whenLive s (consume s 0 (some p) addr)
def execDataOnce (addr : Nat) (s : State) : Out := whenLive s (consume s 1 none addr)
def execCmp (agent : Option Nat) (addr : Nat) (s : State) : Out := whenLive s (consume s 2 agent addr)
def execAtResult (agent : Option Nat) (addr : Nat) (s : State) : Out := whenLive s (consume s 3 agent addr)
def execRetry (p addr : Nat) (s : State) : Out := whenLive s (consume s 4 (some p) addr)

/-! ### Commands: acknowledgements -/

/-- An Ack of an agent that has taken its message arrives; a late one is discarded (R305). -/
def takeAck (s : State) (kinds : List Nat) (agent addr : Nat) : State :=
  let d := homeDie s addr
  let h := homeSlice addr
  match findTxn (s.home d h) (addr / 128) with
  | none => s
  | some t =>
    if kinds.contains t.fwd && nbit agent t.await && !nbit agent t.unsent then
      updTxn s d h t { t with await := vecDel t.await agent }
    else s

/-- INVACK, FWDACK, RECALLACK. -/
def execInvAck (agent addr : Nat) (s : State) : Out := whenLive s (takeAck s [0] agent addr)
def execFwdAck (agent addr : Nat) (s : State) : Out := whenLive s (takeAck s [1, 2, 3] agent addr)
def execRecallAck (agent addr : Nat) (s : State) : Out := whenLive s (takeAck s [4] agent addr)

/-- HOME_ACK_TIMEOUT (R305): the line is poisoned, its entry freed, the waiting request completes. -/
def execHomeAckTimeout (addr : Nat) (s : State) : Out :=
  let d := homeDie s addr
  let h := homeSlice addr
  let c := s.home d h
  whenLive s (match findTxn c (addr / 128) with
    | none => s
    | some t =>
      let s1 := (raiseInfo s (pgHome d h) 9 (addr / 128 * 128)).setPoison addr true
      let c1 := s1.home d h
      let c2 := { c1 with txns := dropFirst (fun x => decide (x = t)) c1.txns }
      let c3 := match c1.find (t.line * 128) with
        | some k => c2.setEnt k DirEnt.empty
        | none => c2
      drainInq (reserveWay (serve (s1.setHome d h c3) d h t.req t.way) d h) d h)

/-! ### Registers -/

/-- A write of HOME_ATCFG (R299, R307): MODE 0b11 is invalid; CLR = 1 clears every predictor counter. -/
def homeAtcfgWrite (s : State) (d h : Nat) (v : W64) : State :=
  if fld 1 0 v = 3 then reject s (pgHome d h)
  else
    let s1 := s.setRegF (pgHome d h) 0x100 1 0 (fld 1 0 v)
    if bit 8 v then s1.setHome d h { s1.home d h with pred := [] } else s1

/-- HOME_ATCFG_CLR: a write with CLR = 1. -/
def execHomeAtcfgClr (d h mode : Nat) (s : State) : Out :=
  whenLive s (if hasCdie s d && decide (h < 16) then
    homeAtcfgWrite s d h (BitVec.ofNat 64 (256 + mode % 4)) else s)

end Sys2Proof.Machine
end

