-- ==== Sys2Proof/Machine/NearFar.lean ====
section
/-! DEFINITION. Near-memory channels and far-memory ports as commands (spec/09_memory_tiers.md R237 to R249;
spec/18_power_and_thermal.md R495), and the way masks of the shared cache (spec/08_cu_memory.md R225). -/

namespace Sys2Proof.Machine

/-- SC_WAYMASK_WRITE: register n of SC[0] of a die takes a value (R225). -/
def execScWaymaskWrite (d n : Nat) (v : W64) (s : State) : Out :=
  whenLive s (if hasCdie s d && decide (n < 2) then s.setReg (regAddr (pgSc d 0) (0x100 + 8 * n)) v else s)

/-- NMC_WRITE: a write that passes the shared cache by reaches its channel (R239, R241). -/
def execNmcWrite (addr mask : Nat) (data : List Byte) (s : State) : Out :=
  whenLive s (if isNear s addr && (scFind s addr).isNone then
    let s1 := { s with mem := memPutMask s.mem (addr / 128 * 128) (mask % 2 ^ 128) data }
    channelWrite s1 addr mask else s)

/-- NMC_READ: a line is read for a requester: errors are corrected or poison the line, poison is delivered
(R241). -/
def execNmcRead (addr : Nat) (e : LineErr) (s : State) : Out :=
  whenLive s (if isNear s addr then
    let s1 := packageRead s (homeDie s addr) (nmcOf addr) (addr / 128) e
    let p := s1.poisoned addr
    let s2 := if p then deliverPoison s1 addr else s1
    { s2 with outs := .line (addr / 128 * 128) (s2.bytes (addr / 128 * 128) 128) p :: s2.outs } else s)

/-- WC_AGE_TIMEOUT: the oldest entry of a channel reaches its age and is written out (R240). -/
def execWcAgeTimeout (d ch : Nat) (s : State) : Out :=
  whenLive s (if hasCdie s d then
    match (s.nmc d ch).wc with
    | (l, m) :: _ => wcWriteOut s d ch l m
    | [] => s
    else s)

/-- The address of line i of a package (R237). -/
def packageLine (d ch i : Nat) : Nat :=
  let hi := i / 8 % 2 ^ 27 * 2 ^ 14 + i % 8 * 128
  d * 2 ^ 41 + hi + (nmcOf hi ^^^ ch % 16) * 2 ^ 10

/-- PATROL_SCRUB: the scrubber reads the next line; nothing is delivered (R241). -/
def execPatrolScrub (d ch : Nat) (e : LineErr) (s : State) : Out :=
  whenLive s (if hasCdie s d && decide (ch < 16) then
    let c := s.nmc d ch
    packageRead (s.setNmc d ch { c with scrub := (c.scrub + 1) % 2 ^ 30 }) d ch
      (packageLine d ch c.scrub / 128) e
    else s)

/-- LPDDR_OVERTEMP: a package reports its case temperature in degrees and whether it is above its refresh
limit (R238): above 95 the channel is limited until it is below 90 (R495). -/
def execLpddrOvertemp (d ch temp : Nat) (hot : Bool) (s : State) : Out :=
  whenLive s (if hasCdie s d && decide (ch < 16) then
    let c := s.nmc d ch
    let lim := decide (95 < temp) || (c.limited && decide (90 ≤ temp))
    let a := regAddr (pgNmc d ch) 0x100
    let s1 := s.setNmc d ch { c with limited := lim }
    s1.setReg a (setBit 1 (s1.reg a) hot)
    else s)

/-- FMC_LINK_UP: a far-memory port's link trains with a device of some GiB over some lanes (R246, R249). -/
def execFmcLinkUp (g devcap width : Nat) (s : State) : Out :=
  whenLive s (if fmcInForce s g then
    s.setReg (regAddr (pgFmc g) 0x108) (BitVec.ofNat 64
      (devcap % 2 ^ 32 * 2 ^ 32 + width % 32 * 2 ^ 8 + (if x16Of s g then 4 else 0) + 3))
    else s)

/-- A far-memory port's link goes down: its range is withdrawn until it retrains and CTRL.EN = 1 is written
again; LINKDN if the port was enabled (R248, R249). -/
def fmcDown (s : State) (g : Nat) : State :=
  let page := pgFmc g
  let a := regAddr page 0x108
  if bit 0 (s.reg a) then
    let s1 := s.setReg a (BitVec.ofNat 64 (if x16Of s g then 4 else 0))
    if s.en page then
      raise { s1 with fmcHeld := if s1.fmcHeld.contains g then s1.fmcHeld else g :: s1.fmcHeld } page 8
    else s1
  else s

/-- FMC_LINK_DOWN. -/
def execFmcLinkDown (g : Nat) (s : State) : Out := whenLive s (if fmcInForce s g then fmcDown s g else s)

/-- A write of NMC_WCCFG (R242): the age limit is 256 to 0x10_0000. -/
def wccfgWrite (s : State) (d ch : Nat) (v : W64) : State :=
  let t := fld 31 0 v
  if t < 256 ∨ 0x100000 < t then reject s (pgNmc d ch)
  else s.setReg (regAddr (pgNmc d ch) 0x108) (v &&& 0x1FFFFFFFF)

/-- Ranges of the far window, in GiB, overlap. -/
def rangesMeet (b n b' n' : Nat) : Bool := decide (b < b' + n' ∧ b' < b + n ∧ 0 < n ∧ 0 < n')

/-- BASE and SIZE of FMC_CFG. -/
def fmcSpan (s : State) (g : Nat) : Nat × Nat :=
  (s.regF (pgFmc g) 0x100 15 0, s.regF (pgFmc g) 0x100 47 32)

/-- A range of a port overlaps that of another enabled one. -/
def fmcOverlaps (s : State) (g base size : Nat) : Bool :=
  (List.range 20).any (fun k => k != g && fmcInForce s k && s.en (pgFmc k)
    && rangesMeet base size (fmcSpan s k).1 (fmcSpan s k).2)

/-- A write of FMC_CFG (R246). -/
def fmcCfgWrite (s : State) (g : Nat) (v : W64) : State :=
  let base := fld 15 0 v
  let size := fld 47 32 v
  let page := pgFmc g
  if !fmcInForce s g then s
  else if s.en page ∨ 16384 < base + size ∨ s.regF page 0x108 63 32 < size ∨ fmcOverlaps s g base size then
    reject s page
  else s.setReg (regAddr page 0x100) (v &&& 0xFFFF0000FFFF)

end Sys2Proof.Machine
end

