-- ==== Sys2Proof/Machine/FabricOps.lean ====
section
/-! DEFINITION. What the rest of the module uses of the fabric: packets as bytes, flow entries, fabric windows
and posted packets (spec/14_holarn_fabric.md R383 to R400). -/

namespace Sys2Proof.Machine

/-! ### Packets as bytes (R393 to R395) -/

/-- The header but for HCRC. -/
def Packet.header (p : Packet) : List Byte :=
  leBytes 1 (p.type % 16 * 16 + p.ver % 4) ++ leBytes 1 (p.hops % 32 * 8 + p.vc % 8)
    ++ leBytes 2 (p.echk % 4 * 2 ^ 13 + p.len % 2 ^ 13) ++ leBytes 8 p.gaddr
    ++ leBytes 4 (p.subop % 256 * 2 ^ 24 + p.snode % 2 ^ 18) ++ leBytes 4 (p.dflow % 2 ^ 20)
    ++ leBytes 4 p.psn ++ leBytes 4 p.ackpsn ++ leBytes 2 p.tagid

/-- The end-to-end check of a packet's own ECHK (R395): over byte 0, bytes 2 to 29 and the payload. -/
def Packet.checkBytes (p : Packet) : List Byte :=
  let covered := p.header.take 1 ++ p.header.drop 2 ++ p.payload
  if p.echk = 0 then leBytes 4 (crc32c covered) else leBytes 8 (crc64 covered)

/-- The whole packet. -/
def Packet.bytes (p : Packet) : List Byte :=
  p.header ++ leBytes 2 (crc16 p.header) ++ p.payload ++ p.check

/-- TYPEs of R394 are defined from 1 to 12. -/
def Packet.defined (t : Nat) : Bool := decide (1 ≤ t ∧ t ≤ 12)

/-- Read a packet: none if its HCRC fails, a reserved bit is 1, its TYPE is undefined or its VC is 6 or 7
(R391, R393). -/
def parsePacket (bs : List Byte) : Option Packet :=
  let b0 := fieldAt bs 0 1
  let w := fieldAt bs 2 2
  let sub := fieldAt bs 12 4
  let fl := fieldAt bs 16 4
  let type := b0 / 16
  let len := w % 2 ^ 13
  let echk := w / 2 ^ 13 % 4
  let plen := if type = 2 then 0 else len
  let clen := if echk = 0 then 4 else 8
  if bs.length ≠ 32 + plen + clen then none
  else if fieldAt bs 30 2 ≠ crc16 (bs.take 30) then none
  else if b0 / 4 % 4 ≠ 0 ∨ w / 2 ^ 15 ≠ 0 ∨ sub / 2 ^ 18 % 64 ≠ 0 ∨ fl / 2 ^ 20 ≠ 0 then none
  else if !Packet.defined type then none
  else if 6 ≤ fieldAt bs 1 1 % 8 then none
  else some ⟨type, b0 % 4, fieldAt bs 1 1 / 8, fieldAt bs 1 1 % 8, echk, len, fieldAt bs 4 8, sub / 2 ^ 24,
    sub % 2 ^ 18, fl % 2 ^ 20, fieldAt bs 20 4, fieldAt bs 24 4, fieldAt bs 28 2, (bs.drop 32).take plen,
    bs.drop (32 + plen)⟩

/-! ### Registers of the fabric -/

/-- RTR_NODE.NODE; 0x3_FFFF is no node (R383). -/
def myNode (s : State) : Nat := s.regF (pgRtr 0) 0x100 17 0

/-- RTR_CFG.FLOWLOG and the address of a flow entry (R396). -/
def flowLog (s : State) : Nat := s.regF (pgRtr 0) 0x108 12 8
def flowAddr (s : State) (n : Nat) : Nat := s.regF (pgRtr 0) 0x110 51 12 * 4096 + 256 * n

/-- A flow of this module that is not CLOSED. -/
def State.flow (s : State) (n : Nat) : Option FlowSt := SMap.get (fun _ => none) s.fab.flows n

/-- The device's bytes of a flow entry: STATE, and bytes 32 to 63 with the transmit and receive counts. -/
def FlowSt.kept (f : FlowSt) : List Byte :=
  leBytes 4 f.nxt ++ leBytes 4 f.una ++ leBytes 4 f.exp ++ leBytes 1 f.retries ++ leBytes 1 f.fcause
    ++ leBytes 2 0 ++ leBytes 8 (match f.credit with | some c => c | none => f.granted.getD 0)
    ++ leBytes 8 f.txb ++ leBytes 8 f.rxb

/-- Store a flow: the device's copy, and the bytes of its entry, which a host load returns (R398). -/
def State.setFlow (s : State) (n : Nat) (f : FlowSt) : State :=
  let s1 := { s with fab := { s.fab with flows := SMap.put (fun _ => none) s.fab.flows n (some f) } }
  (s1.setByte (flowAddr s n) (BitVec.ofNat 8 f.st)).putBytes (flowAddr s n + 32) f.kept

/-- A flow becomes CLOSED: its entry keeps what it last held, with STATE 0 and a cause. -/
def State.closeFlow (s : State) (n fcause : Nat) : State :=
  let s1 := { s with fab := { s.fab with flows := SMap.put (fun _ => none) s.fab.flows n none } }
  (s1.setByte (flowAddr s n) 0).putBytes (flowAddr s n + 45) (leBytes 1 fcause)

/-- The flow is OPEN. -/
def flowOpen (s : State) (n : Nat) : Bool :=
  match s.flow n with
  | some f => decide (f.st = 2)
  | none => false

/-! ### Windows (R314, R386, R387) -/

/-- An access of n bytes through window w at an offset: the flow that carries it and its global address, or
none if it faults with kind FABRIC. -/
def windowTarget (s : State) (w off n : Nat) (isWrite : Bool) : Option (Nat × Nat) :=
  let base := s.reg (regAddr (pgRtr 0) 0x118)
  let a := fld 51 19 base * 2 ^ 19 + 32 * w
  let e := s.bytes a 32
  let d0 := fieldAt e 0 4
  let flow := fieldAt e 4 4
  let node := fieldAt e 8 4
  let b := fieldAt e 16 8
  let len := fieldAt e 24 8
  if !bit 0 base || d0 % 2 == 0 then none
  else if d0 / 4 ≠ 0 ∨ flow / 2 ^ 20 ≠ 0 ∨ node / 2 ^ 18 ≠ 0 ∨ fieldAt e 12 4 ≠ 0 ∨ b / 2 ^ 46 ≠ 0
      ∨ len / 2 ^ 46 ≠ 0 then none
  else if 2 ^ 46 < b + len ∨ b % 4096 ≠ 0 ∨ len % 4096 ≠ 0 ∨ len = 0 then none
  else match s.flow flow with
    | none => none
    | some f =>
      if f.st ≠ 2 ∨ f.rnode ≠ node then none
      else if isWrite && nbit 1 d0 then none
      else if len < off + n then none
      else some (flow, node * 2 ^ 46 + b + off)

/-! ### Sending on a flow -/

/-- Queue a packet on a flow; a harness engine will number and send it (R399, R400). -/
def enqueue (s : State) (flow : Nat) (p : OutPkt) : State :=
  match s.flow flow with
  | none => s
  | some f => s.setFlow flow { f with outq := f.outq ++ [p] }

/-- Contiguous runs of an access, one for each aligned 32-byte sector it touches (R387): fuel bounds their
number. -/
def sectorRuns : Nat → Nat → Nat → List (Nat × Nat)
  | 0, _, _ => []
  | f + 1, a, n =>
    if n = 0 then []
    else
      let k := min (32 - a % 32) n
      (a, k) :: sectorRuns f (a + k) (n - k)

/-- Queue the writes of bytes at a global address. -/
def enqueueWrites (s : State) (flow ga : Nat) (bs : List Byte) (src : PktSrc) : State :=
  (sectorRuns (bs.length / 32 + 2) ga bs.length).foldl (fun t r =>
    enqueue t flow ⟨1, 0, r.1, r.2, (bs.drop (r.1 - ga)).take r.2, src⟩) s

/-- The remote writes of some sources that a flow has not seen acknowledged. -/
def unackedOn (f : FlowSt) (p : PktSrc → Bool) : Bool :=
  f.outq.any (fun x => decide (x.type = 1) && p x.src)
    || f.sent.any (fun x => decide (x.pkt.type = 1) && p x.src)

/-- Some remote write of some sources is not acknowledged (R285). -/
def unacked (s : State) (p : PktSrc → Bool) : Bool :=
  s.fab.flows.any (fun (_, f) => match f with
    | some fl => unackedOn fl p
    | none => false)

end Sys2Proof.Machine
end

