-- ==== Sys2Proof/Machine/CuMem.lean ====
section
/-! DEFINITION. Compute-unit memory (spec/08_cu_memory.md R204 to R219): local store, the CU cache, miss
registers, and a unit's translations (spec/11_translation.md R315). A unit is named by die · 576 + site. -/

namespace Sys2Proof.Machine

/-! ### Units -/

/-- A unit. -/
def State.cu (s : State) (u : Nat) : CuSt := SMap.get (fun _ => CuSt.reset) s.units u

/-- Store a unit. -/
def State.setCu (s : State) (u : Nat) (c : CuSt) : State :=
  { s with units := SMap.put (fun _ => CuSt.reset) s.units u c }

/-- Its die, site and pages. -/
def uDie (u : Nat) : Nat := u / 576
def uSite (u : Nat) : Nat := u % 576
def uCu (u : Nat) : Nat := pgCu (uDie u) (uSite u)
def uGrp (u : Nat) : Nat := pgGrp (uDie u) (uSite u)
def uMxe (u : Nat) : Nat := pgMxe (uDie u) (uSite u)
def uPmp (u : Nat) : Nat := pgPmp (uDie u) (uSite u)

/-- SSTATE of a site (R103): 0 SPARE, 1 INSERVICE, 2 RETIRED. -/
def sstate (s : State) (u : Nat) : Nat := s.regF (uCu u) 0x100 25 24

/-- The site is present (R48). -/
def siteHere (s : State) (u : Nat) : Bool := hasCdie s (uDie u) && !s.fuses.failed.contains u

/-- The unit is in service (R98). -/
def inService (s : State) (u : Nat) : Bool := siteHere s u && decide (sstate s u = 1)

/-- The unit is halted by a debugger (spec/20_counters_and_debug.md R532). -/
def unitHalted (s : State) (u : Nat) : Bool :=
  (if uDie u = 0 then s.dbg.halt0 else s.dbg.halt1) == some (uSite u, true)

/-- The unit is HALTING or HALTED (spec/20_counters_and_debug.md R532). -/
def unitHalting (s : State) (u : Nat) : Bool :=
  ((if uDie u = 0 then s.dbg.halt0 else s.dbg.halt1).map Prod.fst) == some (uSite u)

/-- The unit advances: in service, not failed, its supply up, not halted. -/
def advances (s : State) (u : Nat) : Bool :=
  inService s u && !(s.cu u).failed && !(s.cu u).held && !unitHalted s u

/-- The C-dies are in no rest state (spec/18_power_and_thermal.md R496). -/
def awake (s : State) : Bool := decide (s.regF (pgPwr 2) 0x128 2 0 = 0)

/-! ### A unit's translations -/

/-- Where an access of a unit lies. -/
inductive Where where
  | pa (a : Nat)
  | win (flow ga : Nat)
  | fault (k : XKind) (level : Nat) (pte : W64)
  deriving DecidableEq, Repr

/-- A translation's place, with the check of a window descriptor (R314, R387). -/
def windowed (s : State) (x : Xlat) (n : Nat) (isWrite : Bool) : Where :=
  match x with
  | .pa a => .pa a
  | .fault k l p => .fault k l p
  | .win w off l p =>
    match windowTarget s w off n isWrite with
    | some (f, ga) => .win f ga
    | none => .fault .fabric l p

/-- Translate an access of n bytes of a unit: the unit TLB, then the die's caches and tables (R315). -/
def unitXlat (s : State) (u aspace va n : Nat) (acc : Acc) : Where × State :=
  let c := s.cu u
  let w := decide (acc ≠ .rd)
  if va / 2 ^ 56 ≠ 0 ∧ va / 2 ^ 56 ≠ 0xFF then (.fault .badVa 0xF 0, s)
  else match c.tlb.find? (fun e => e.covers aspace va) with
  | some e => (windowed s (leafAccess s e va (some acc)) n w, s)
  | none =>
    let (r, s1) := findLeaf s (uDie u) aspace va
    match r with
    | .leaf e =>
      (windowed s1 (leafAccess s1 e va (some acc)) n w, s1.setCu u { c with tlb := (e :: c.tlb).take 128 })
    | .fault k l p => (.fault k l p, s1)

/-- Remove the unit TLBs' translations of an invalidation (R316). -/
def dropUnitTlbs (s : State) (r : InvReq) : State :=
  (s.units.map Prod.fst).foldl (fun t u =>
    t.setCu u { t.cu u with tlb := (t.cu u).tlb.filter (fun e => !e.inScope r) }) s

/-! ### Local store (R204, R206) -/

/-- A byte of local store; one not written reads 0. -/
def lsByte (s : State) (u a : Nat) : Byte := SMap.get (fun _ => 0) s.ls (u * 2 ^ 23 + a)

/-- Bytes of local store. -/
def lsBytes (s : State) (u a : Nat) : Nat → List Byte
  | 0 => []
  | n + 1 => lsByte s u a :: lsBytes s u (a + 1) n

/-- A sector has been written since its slot was cleared. -/
def lsSector (s : State) (u sec : Nat) : Bool := SMap.get (fun _ => false) s.lsWritten (u * 2 ^ 18 + sec)

/-- Store a byte of local store; its sector counts as written. -/
def lsPut (s : State) (u a : Nat) (b : Byte) : State :=
  { s with
    ls := SMap.put (fun _ => 0) s.ls (u * 2 ^ 23 + a) b
    lsWritten := SMap.put (fun _ => false) s.lsWritten (u * 2 ^ 18 + a / 32) true }

/-- Store bytes of local store. -/
def lsPuts (s : State) (u a : Nat) : List Byte → State
  | [] => s
  | b :: bs => lsPuts (lsPut s u a b) u (a + 1) bs

/-- Clear a slot: every sector reads as unwritten (R206). -/
def lsClear (s : State) (u a n : Nat) : State :=
  let lo := u * 2 ^ 23 + a
  let slo := u * 2 ^ 18 + a / 32
  { s with
    ls := SMap.dropKeys (fun k => decide (lo ≤ k ∧ k < lo + n)) s.ls
    lsWritten := SMap.dropKeys (fun k => decide (slo ≤ k ∧ k < slo + n / 32)) s.lsWritten }

/-! ### The CU cache (R207 to R213) -/

/-- Key of a way; the set of a line. -/
def ccKey (u line way : Nat) : Nat := (u * 4096 + line % 4096) * 16 + way

/-- The line in a way. -/
def State.ccWay (s : State) (k : Nat) : CcLine := SMap.get (fun _ => CcLine.empty) s.cc k

/-- Store a way. -/
def State.setCcWay (s : State) (k : Nat) (l : CcLine) : State :=
  { s with cc := SMap.put (fun _ => CcLine.empty) s.cc k l }

/-- Cache ways of a unit (R204). -/
def ccWays (s : State) (u : Nat) : Nat := 12 - (s.cu u).split

/-- The way that holds a line. -/
def ccFind (s : State) (u line : Nat) : Option Nat :=
  (List.range (ccWays s u)).find? (fun w =>
    let l := s.ccWay (ccKey u line w)
    decide (l.secs ≠ [] ∧ l.line = line))

/-- A line has a live miss register (R211). -/
def hasMiss (c : CuSt) (line : Nat) : Bool := c.misses.any (fun m => m.line == line)

/-- The recently-used bits of R209. -/
def ccTouch (s : State) (u line way : Nat) : State :=
  let s1 := s.setCcWay (ccKey u line way) { s.ccWay (ccKey u line way) with used := true }
  let ws := List.range (ccWays s u)
  if ws.all (fun w => (s1.ccWay (ccKey u line w)).used) then
    ws.foldl (fun t w => if w = way then t
      else t.setCcWay (ccKey u line w) { t.ccWay (ccKey u line w) with used := false }) s1
  else s1

/-- The 128-bit mask and the bytes of a line's dirty sectors. -/
def CcLine.dirtyMask (l : CcLine) : Nat :=
  (l.secs.zipIdx).foldl (fun m (x, i) => m + x.dirty % 2 ^ 32 * 2 ^ (32 * i)) 0
def CcLine.bytes (l : CcLine) : List Byte :=
  l.secs.flatMap (fun x => (x.data ++ List.replicate 32 0).take 32)

/-- Dirty sectors of a line. -/
def CcLine.dirtyCount (l : CcLine) : Nat := (l.secs.filter (fun x => decide (x.dirty ≠ 0))).length

/-- After its write-back a sector is clean; its bytes are all there if they were before. -/
def CcSec.cleaned (x : CcSec) : CcSec :=
  { x with dirty := 0, fetched := x.fetched || decide (x.dirty = 2 ^ 32 - 1) }

/-- The dirty sectors of a line, as the unit's cache holds it, are performed at their home (R278); an armed CCUE
poisons the line there (R555). -/
def ccSend (s : State) (u : Nat) (l : CcLine) : State :=
  if l.dirtyCount = 0 then s
  else
    let s1 := countEv (homeWriteLine s 1 (l.line * 128) l.dirtyMask l.bytes) (uCu u) 0x24 l.dirtyCount
    if armedAt s1 (uCu u) 13 then
      (raiseWith (disarm s1 (uCu u) 13) (uCu u) 13 ⟨none, uSite u, none, true⟩).setPoison (l.line * 128) true
    else s1

/-- Write back a line's dirty sectors. -/
def ccWriteBack (s : State) (u k : Nat) : State :=
  let l := s.ccWay k
  if l.dirtyCount = 0 then s else ccSend (s.setCcWay k { l with secs := l.secs.map CcSec.cleaned }) u l

/-- Write back, then invalidate a way. -/
def ccEvict (s : State) (u k : Nat) : State := (ccWriteBack s u k).setCcWay k CcLine.empty

/-- The way in which a line may be allocated (R209): never one with a live miss register. -/
def ccVictim (s : State) (u line : Nat) : Option Nat :=
  let ws := (List.range (ccWays s u)).filter (fun w => !hasMiss (s.cu u) (s.ccWay (ccKey u line w)).line
    || decide ((s.ccWay (ccKey u line w)).secs = []))
  match ws.find? (fun w => decide ((s.ccWay (ccKey u line w)).secs = [])) with
  | some w => some w
  | none =>
    match ws.find? (fun w => !(s.ccWay (ccKey u line w)).used) with
    | some w => some w
    | none => ws.head?

/-- Allocate a line with every sector invalid; none when the set has no candidate. -/
def ccAlloc (s : State) (u line : Nat) : Option (Nat × State) :=
  match ccVictim s u line with
  | none => none
  | some w =>
    let k := ccKey u line w
    some (w, ccTouch ((ccEvict s u k).setCcWay k ⟨line, false, List.replicate 4 CcSec.empty⟩) u line w)

/-- Sector i of a line. -/
def CcLine.sec (l : CcLine) (i : Nat) : CcSec := l.secs.getD i CcSec.empty

/-- A load hits a sector (R208). -/
def CcSec.hits (x : CcSec) : Bool := x.valid && (x.fetched || decide (x.dirty = 2 ^ 32 - 1))

/-- Bytes of a sector, and byte i of them. -/
def CcSec.byteAt (x : CcSec) (i : Nat) : Byte := x.data.getD i 0

/-- Merge fetched bytes into a sector under its dirty mask (R208). -/
def CcSec.fill (x : CcSec) (bs : List Byte) : CcSec :=
  ⟨true, true, x.dirty, (List.range 32).map (fun i => if nbit i x.dirty then x.byteAt i else bs.getD i 0)⟩

/-- Store one byte into a sector (R208): it becomes dirty, the sector valid. -/
def CcSec.store (x : CcSec) (i : Nat) (b : Byte) : CcSec :=
  { valid := true, fetched := x.valid && x.fetched,
    dirty := if nbit i x.dirty then x.dirty else x.dirty + 2 ^ i,
    data := setAt ((x.data ++ List.replicate 32 0).take 32) i b }

/-- Change a sector of a way. -/
def setSec (s : State) (k i : Nat) (x : CcSec) : State :=
  let l := s.ccWay k
  s.setCcWay k { l with secs := setAt l.secs i x }

/-- A store of bytes at one place of a sector: the line is allocated if absent (R208); with no ways, the bytes
are written at the home with their mask (R210). None when the set has no candidate way. -/
def ccStore (s : State) (u a : Nat) (bs : List Byte) : Option State :=
  let line := a / 128
  if ccWays s u = 0 then
    some (homeWriteLine s 1 a ((2 ^ bs.length - 1) * 2 ^ (a % 128)) (lineData (a % 128) bs))
  else
    let go (w : Nat) (t : State) : State :=
      let k := ccKey u line w
      let i := a % 128 / 32
      let x := (t.ccWay k).sec i
      let x' := (bs.zipIdx).foldl (fun y (b, j) => y.store (a % 32 + j) b) x
      ccTouch (setSec t k i x') u line w
    match ccFind s u line with
    | some w => some (go w s)
    | none => (ccAlloc s u line).map (fun (w, t) => go w t)

/-- The lines of a unit's cache, by key. -/
def ccKeys (s : State) (u : Nat) : List Nat :=
  (s.cc.map Prod.fst).filter (fun k => decide (k / 65536 = u))

/-- Write back every dirty sector of the unit (release of R215, R217). -/
def ccRelease (s : State) (u : Nat) : State := (ccKeys s u).foldl (fun t k => ccWriteBack t u k) s

/-- Invalidate every sector without a dirty byte; in a dirty one, the bytes that are not dirty count as never
fetched (acquire of R215, R279). A line with a live miss register keeps its place. -/
def ccAcquire (s : State) (u : Nat) : State :=
  (ccKeys s u).foldl (fun t k =>
    let l := t.ccWay k
    let secs := l.secs.map (fun x => if x.dirty = 0 then CcSec.empty else { x with fetched := false })
    if secs.all (fun x => !x.valid) && !hasMiss (t.cu u) l.line then t.setCcWay k CcLine.empty
    else t.setCcWay k { l with secs := secs }) s

/-- Write back the dirty sectors of the lines that touch a physical range. -/
def ccCleanRange (s : State) (u a n : Nat) : State :=
  (ccKeys s u).foldl (fun t k =>
    let l := t.ccWay k
    if a / 128 ≤ l.line ∧ l.line * 128 < a + n ∧ l.secs ≠ [] then ccWriteBack t u k else t) s

/-- Discard the lines that touch a physical range, dirty bytes with them (INVAL of R226). -/
def ccDropRange (s : State) (u a n : Nat) : State :=
  (ccKeys s u).foldl (fun t k =>
    let l := t.ccWay k
    if a / 128 ≤ l.line ∧ l.line * 128 < a + n ∧ l.secs ≠ [] then
      (if hasMiss (t.cu u) l.line then t.setCcWay k { l with secs := List.replicate 4 CcSec.empty }
       else t.setCcWay k CcLine.empty)
    else t) s

/-- Some sectors of a line leave the unit's cache: those that hold dirty bytes are written back, and all of them
are invalid (R208, R218). -/
def ccSectorsOut (s : State) (u line sectors : Nat) : State :=
  match ccFind s u line with
  | none => s
  | some w =>
    let k := ccKey u line w
    let l := s.ccWay k
    let out : CcLine := { l with secs := (l.secs.zipIdx).map (fun (x, i) => if nbit i sectors then x else CcSec.empty) }
    let kept : CcLine := { l with secs := (l.secs.zipIdx).map (fun (x, i) => if nbit i sectors then CcSec.empty else x) }
    let gone := kept.secs.all (fun x => !x.valid) && !hasMiss (s.cu u) line
    ccSend (s.setCcWay k (if gone then CcLine.empty else kept)) u out

/-- A mover's write of masked bytes of one line at its home: the sectors that it writes leave the unit's own cache
first (R218). -/
def moverWriteLine (s : State) (u a mask : Nat) (data : List Byte) : State :=
  homeWriteLine (ccSectorsOut s u (a / 128) (touchedSectors mask)) 2 a mask data

/-- A mover's write of consecutive physical bytes. -/
def moverWriteN (u : Nat) : Nat → State → Nat → List Byte → State
  | 0, s, _, _ => s
  | n + 1, s, a, bs =>
    if bs.isEmpty then s
    else
      let off := a % 128
      let k := min (128 - off) bs.length
      moverWriteN u n (moverWriteLine s u a ((2 ^ k - 1) * 2 ^ off) (lineData off (bs.take k))) (a + k) (bs.drop k)

/-- An armed CCUE fires at a dirty sector that is read (R555): its line is poisoned at its home and leaves the unit's
cache. -/
def ccueFires (s : State) (u line sectors : Nat) : State :=
  if !armedAt s (uCu u) 13 then s
  else match ccFind s u line with
    | none => s
    | some w =>
      let l := s.ccWay (ccKey u line w)
      if (maskBits 4 sectors).any (fun i => decide ((l.sec i).dirty ≠ 0)) then ccSectorsOut s u line 15 else s

/-- The same over a range of bytes. -/
def ccueFiresOver (s : State) (u a n : Nat) : State :=
  (List.range (n / 128 + 2)).foldl (fun t i =>
    let lo := max a ((a / 128 + i) * 128)
    let hi := min (a + n) ((a / 128 + i) * 128 + 128)
    if lo < hi then ccueFires t u (a / 128 + i) (sectorsOf lo (hi - lo)) else t) s

/-- A mover's read of consecutive physical bytes: dirty sectors of the unit's own cache give theirs, the others
come from the home (R218); poison is told. -/
def moverRead (s : State) (u a n : Nat) : List Byte × Bool × State :=
  let (bs, p, s1) := homeRead (ccueFiresOver s u a n) 2 a n
  let at_ (i : Nat) (b : Byte) : Byte :=
    match ccFind s1 u ((a + i) / 128) with
    | none => b
    | some w =>
      let x := (s1.ccWay (ccKey u ((a + i) / 128) w)).sec ((a + i) % 128 / 32)
      if x.dirty ≠ 0 ∧ (x.fetched ∨ nbit ((a + i) % 32) x.dirty) then x.byteAt ((a + i) % 32) else b
  ((bs.zipIdx).map (fun (b, i) => at_ i b), p, s1)

/-- Take a new split (R205): banks that become local store write back and invalidate their lines; banks that
become cache enter it invalid. A way is named by its bank, so that a bank that stays cache keeps its lines. -/
def takeSplit (s : State) (u split : Nat) : State :=
  let c := s.cu u
  if c.split = split then s
  else
    let old := c.split
    -- ways are renumbered: bank b is way b - split
    let keys := ccKeys s u
    let s1 := keys.foldl (fun t k => if k % 16 + old < split then ccEvict t u k else t) s
    let moved := (ccKeys s1 u).map (fun k => (k, s1.ccWay k))
    let s2 := moved.foldl (fun t (k, _) => t.setCcWay k CcLine.empty) s1
    let s3 := moved.foldl (fun t (k, l) => t.setCcWay (k / 16 * 16 + (k % 16 + old - split)) l) s2
    countEv (s3.setCu u { s3.cu u with split := split }) (uCu u) 0x25 1

end Sys2Proof.Machine
end

