-- ==== Sys2Proof/Machine/Stations.lean ====
section
/-! DEFINITION. Jobs, stations and conduits (spec/03_stations_and_streams.md R65 to R83): grids, read sets,
ordinals and credit, slots and tags, seeds. -/

namespace Sys2Proof.Machine

/-! ### Tables -/

/-- A loaded job. -/
def State.job (s : State) (j : Nat) : Option Job := SMap.get (fun _ => none) s.jobs j

/-- Store or remove a job. -/
def State.setJob (s : State) (j : Nat) (v : Option Job) : State :=
  { s with jobs := SMap.put (fun _ => none) s.jobs j v }

/-- A live work item. -/
def State.item (s : State) (n : Nat) : Option Item := SMap.get (fun _ => none) s.items n

/-- Store or remove an item. -/
def State.setItem (s : State) (n : Nat) (v : Option Item) : State :=
  { s with items := SMap.put (fun _ => none) s.items n v }

/-- The live items, in ascending number. -/
def State.liveItems (s : State) : List (Nat × Item) :=
  s.items.filterMap (fun (n, i) => i.map (fun x => (n, x)))

/-- A station and a conduit of a job. -/
def Job.stn (j : Job) (sid : Nat) : Option Stn := j.stns[sid]?
def Job.cnd (j : Job) (cid : Nat) : Option Cnd := j.cnds[cid]?

/-- Change a station, a conduit. -/
def Job.setStn (j : Job) (sid : Nat) (v : Stn) : Job := { j with stns := j.stns.set sid v }
def Job.setCnd (j : Job) (cid : Nat) (v : Cnd) : Job := { j with cnds := j.cnds.set cid v }

/-! ### Kinds and formats -/

/-- The CU-hosted kinds (R67). -/
def cuHosted (k : Nat) : Bool := decide (1 ≤ k ∧ k ≤ 4)

/-- Kinds whose items run on a compute unit: CU-hosted ones and COPY (R67). -/
def onUnit (k : Nat) : Bool := cuHosted k || decide (k = 0x14)

/-- The item is held by a unit. -/
def Item.onU (it : Item) (u : Nat) : Bool := onUnit it.kind && it.die * 576 + it.owner == u

/-- The live items of a unit: its journal; those queued, those running. -/
def unitItems (s : State) (u : Nat) : List (Nat × Item) := s.liveItems.filter (fun p => p.2.onU u)

/-- The job and step of the first item of a unit, for the error log. -/
def firstWork (s : State) (u : Nat) : Option (Nat × Nat) := (unitItems s u).head?.map (fun p => (p.2.job, p.2.step))

/-- The units in service of a die, by ascending site. -/
def dieUnits (s : State) (d : Nat) : List Nat :=
  ((List.range 576).map (fun i => d * 576 + i)).filter (inService s)

/-- The buddy of a unit in service (R123). -/
def buddy (s : State) (u : Nat) : Option Nat :=
  let us := (dieUnits s (uDie u)).filter (· != u)
  match us.find? (fun v => decide (u < v)) with
  | some v => some v
  | none => us.head?

/-- A unit was stopped by a hardware fault and awaits its retirement. -/
def downByFault (s : State) (u : Nat) : Bool := (s.cu u).failed && !(s.cu u).keep && decide ((s.cu u).rcause = 2)

/-- The failure of a unit loses entries: both copies of its own are gone, or both of those whose mirror it held
(R126). -/
def losesEntries (s : State) (u : Nat) : Bool :=
  let own := !(unitItems s u).isEmpty && (match buddy s u with | some b => downByFault s b | none => false)
  own || (dieUnits s (uDie u)).any (fun v => v != u && downByFault s v && buddy s v == some u
    && !(unitItems s v).isEmpty)

/-- A replayed hardware error of one of the unit's pages (R470): reported; the unit stops until it is
retired. A failure that loses entries carries ACTION 0x06 (R462). -/
def unitError (s : State) (u page bitNo : Nat) (inj : Bool) (job : Option (Nat × Nat)) : State :=
  let act := if inj && noRetire s then some 7 else if losesEntries s u then some 6 else none
  let s1 := raiseWith s page bitNo ⟨act, uSite u, job, inj⟩
  let c := s1.cu u
  let kept := inj && noRetire s && (c.keep || !c.failed)
  s1.setCu u { c with failed := true, keep := kept, rcause := if c.rcause = 0 then 2 else c.rcause }

/-- The kinds of R67. -/
def kindDefined (k : Nat) : Bool := cuHosted k || decide (0x10 ≤ k ∧ k ≤ 0x14)

/-- An MX format. -/
def isMx (f : Nat) : Bool := decide (6 ≤ f ∧ f ≤ 11)

/-- Bits of an element of a format code; 0 for an undefined code. -/
def elemBits (f : Nat) : Nat := match fmtKind f with | some k => k.bits | none => 0

/-- Slot bytes of a format (R74). -/
def slotBytes (f : Nat) : Nat :=
  alignUp 128 (elemBits f * 4096 / 8) + (if isMx f then 128 else 0)

/-! ### Grids, items, ordinals (R65, R66, R71) -/

/-- The conduit that gives a station its work grid: OUT0, or IN0 of a station without outputs. -/
def StnDef.gridCnd (d : StnDef) : Option Nat :=
  match d.outs.getD 0 none with
  | some c => some c
  | none => d.ins.getD 0 none

/-- Rows and columns of a station's work grid. -/
def gridOf (j : Job) (d : StnDef) : Nat × Nat :=
  match d.gridCnd.bind j.cnd with
  | some c => (c.df.trows, c.df.tcols)
  | none => (0, 0)

/-- Tiles of an invocation. -/
def tilesOf (j : Job) (d : StnDef) : Nat := (gridOf j d).1 * (gridOf j d).2

/-- First ordinal and count of item i (R66). -/
def itemSpan (t items i : Nat) : Nat × Nat :=
  (i * t / items, (i + 1) * t / items - i * t / items)

/-- Grid ordinals that an item covers. -/
def Item.ords (it : Item) : List Nat := (List.range it.nord).map (· + it.ord0)

/-- The ordinal of tile (r, c) of a step (R71). -/
def Cnd.ordinal (c : Cnd) (s0 step r col : Nat) : Nat :=
  (step - s0) * (c.df.trows * c.df.tcols) + r * c.df.tcols + col

/-- Steps admitted: s0 to s0 + admitted − 1. -/
def Job.highOr (j : Job) : Nat := j.s0 + j.admitted

/-! ### Slots and tags (R71, R73, R74, R87) -/

/-- Size of a conduit's area, rounded to 64 KiB (R87). -/
def CndDef.area (c : CndDef) : Nat := alignUp 65536 (c.depth * slotBytes c.fmt + c.depth * 32)

/-- Where conduit cid's area begins in the arena. -/
def Job.cndBase (j : Job) (cid : Nat) : Nat :=
  j.arena + alignUp 65536 j.size + ((j.cnds.take cid).map (fun c => c.df.area)).foldl (· + ·) 0

/-- Virtual addresses of the slot and of the tag of an ordinal. -/
def Job.slotVa (j : Job) (cid : Nat) (c : Cnd) (o : Nat) : Nat :=
  j.cndBase cid + o % c.df.depth * slotBytes c.df.fmt
def Job.tagVa (j : Job) (cid : Nat) (c : Cnd) (o : Nat) : Nat :=
  j.cndBase cid + c.df.depth * slotBytes c.df.fmt + o % c.df.depth * 32

/-- A tile tag (R73). -/
structure Tag where
  step : Nat
  trow : Nat
  tcol : Nat
  rows : Nat
  cols : Nat
  fmt : Nat
  last : Bool
  zpad : Bool
  valid : Bool
  digest : Nat
  cid : Nat
  deriving DecidableEq, Repr

/-- The 32 bytes of a tag. -/
def Tag.bytes (t : Tag) : List Byte :=
  leBytes 8 t.step ++ leBytes 2 t.trow ++ leBytes 2 t.tcol ++ leBytes 1 t.rows ++ leBytes 1 t.cols
    ++ leBytes 1 t.fmt ++ leBytes 1 ((if t.last then 4 else 0) + (if t.zpad then 2 else 0) + t.valid.toNat)
    ++ leBytes 4 t.digest ++ leBytes 2 t.cid ++ leBytes 10 0

/-- Read a tag; its reserved bits. -/
def tagOf (bs : List Byte) : Tag :=
  let f := fieldAt bs 15 1
  ⟨fieldAt bs 0 8, fieldAt bs 8 2, fieldAt bs 10 2, fieldAt bs 12 1, fieldAt bs 13 1, fieldAt bs 14 1,
    nbit 2 f, nbit 1 f, nbit 0 f, fieldAt bs 16 4, fieldAt bs 20 2⟩
def tagReserved (bs : List Byte) : Bool :=
  decide (fieldAt bs 15 1 / 8 = 0) && (bs.drop 22).all (fun b => b == 0)

/-- The consumer's checks of a tag (R73, R79). -/
def tagFits (bs : List Byte) (step r c fmt cid : Nat) : Bool :=
  let t := tagOf bs
  t.valid && tagReserved bs && decide (t.step = step ∧ t.trow = r ∧ t.tcol = c ∧ t.fmt = fmt ∧ t.cid = cid
    ∧ 1 ≤ t.rows ∧ t.rows ≤ 64 ∧ 1 ≤ t.cols ∧ t.cols ≤ 64)

/-! ### Read sets (R68) -/

/-- A byte parameter, and wider ones. -/
def par (d : StnDef) (o w : Nat) : Nat := fieldAt d.param o w

/-- The tiles of a whole conduit, of one row, of one column. -/
def gridTiles (c : Cnd) : List (Nat × Nat) :=
  (List.range c.df.trows).flatMap (fun r => (List.range c.df.tcols).map (fun k => (r, k)))
def rowTiles (c : Cnd) (r : Nat) : List (Nat × Nat) := (List.range c.df.tcols).map (fun k => (r, k))
def colTiles (c : Cnd) (k : Nat) : List (Nat × Nat) := (List.range c.df.trows).map (fun r => (r, k))

/-- The tiles that one work-grid tile (r, c) of a station reads: conduit and position (R68). -/
def readTile (j : Job) (d : StnDef) (r c : Nat) : List (Nat × (Nat × Nat)) :=
  let inp (i : Nat) (f : Cnd → List (Nat × Nat)) : List (Nat × (Nat × Nat)) :=
    match d.ins.getD i none with
    | none => []
    | some cid => match j.cnd cid with
      | none => []
      | some cd => (f cd).map (fun p => (cid, p))
  match d.kind with
  | 0x01 => inp 0 (fun cd => rowTiles cd r) ++ inp 1 (fun cd => colTiles cd c) ++ inp 2 (fun _ => [(r, c)])
  | 0x02 => (List.range 4).flatMap (fun i =>
      if par d 1 1 = 0 then inp i (fun _ => [(r, c)])
      else if par d 1 1 = 1 then inp i (fun cd => rowTiles cd r)
      else inp i gridTiles)
  | 0x03 => inp 0 (fun _ => [(r, 0)])
  | 0x04 => inp 0 (fun _ => [(c, r)])
  | 0x11 | 0x13 => inp 0 (fun _ => [(r, c)])
  | 0x14 => if par d 0 1 = 0 then [] else inp 0 (fun _ => [(r, c)])
  | _ => []

/-- The read set of grid ordinals o (R68), without repeats. -/
def readSet (j : Job) (d : StnDef) (ords : List Nat) : List (Nat × (Nat × Nat)) :=
  let cols := (gridOf j d).2
  (ords.flatMap (fun o => readTile j d (o / cols) (o % cols))).eraseDups

/-! ### Credit (R72) -/

/-- The producer may reserve an ordinal. -/
def Cnd.inWindow (c : Cnd) (o : Nat) : Bool := decide (c.w ≤ o ∧ o < c.w + c.df.depth)

/-- Reserve an ordinal; publish one; drop a reservation. -/
def Cnd.reserve (c : Cnd) (o : Nat) : Cnd := { c with reserved := if c.reserved.contains o then c.reserved else o :: c.reserved }
def Cnd.publish (c : Cnd) (o : Nat) : Cnd :=
  { c with reserved := c.reserved.filter (· != o), pubs := o :: c.pubs, pub := c.pub + 1 }
def Cnd.unreserve (c : Cnd) (o : Nat) : Cnd := { c with reserved := c.reserved.filter (· != o) }

/-- W advances past the released ordinals: fuel bounds the number. -/
def Cnd.advance : Nat → Cnd → Cnd
  | 0, c => c
  | n + 1, c =>
    if c.released.contains c.w then
      Cnd.advance n { c with w := c.w + 1, released := c.released.filter (· != c.w) }
    else c

/-- Release a published ordinal. -/
def Cnd.release (c : Cnd) (o : Nat) : Cnd :=
  let c1 := { c with pubs := c.pubs.filter (· != o), released := o :: c.released }
  Cnd.advance c1.released.length c1

/-- An empty conduit (R90, R92). -/
def Cnd.flush (c : Cnd) : Cnd := { c with w := 0, released := [], reserved := [], pubs := [], pub := 0 }

/-! ### Seeds (R83) -/

/-- station_seed. -/
def stationSeed (jobSeed sid : Nat) : Nat :=
  let z := jobSeed ^^^ (sid * 0x9E3779B97F4A7C15 % 2 ^ 64)
  mix64 z

/-! ### Deterministic mode -/

/-- GLB_DETCTL.DETM. -/
def detm (s : State) : Bool := bit 0 (s.reg (regAddr pgGlb 0x100))

/-- The job's sample of DETM for a step (R440). -/
def Job.sample (j : Job) (step : Nat) : Bool :=
  match j.dets.find? (fun p => decide (p.1 ≤ step)) with
  | some (_, b) => b
  | none => false

/-- A timing-dependent choice is counted (R447): the bit of GLB_TDCCNT. -/
def countTdc (s : State) (bitNo n : Nat) : State :=
  if n = 0 then s
  else
    let a := regAddr pgGlb 0x108
    s.setReg a (setBit bitNo (satFld 31 0 (s.reg a) n) true)

/-! ### The work item's bytes (R107, R109) -/

/-- Bytes 0 to 29 of an item. -/
def Item.body (it : Item) : List Byte :=
  leBytes 8 it.step ++ leBytes 8 it.seed ++ leBytes 4 it.ord0 ++ leBytes 4 it.nord ++ leBytes 2 it.sid
    ++ leBytes 1 (it.job % 64) ++ leBytes 1 it.kind ++ leBytes 1 (it.lsSteps % 16)
    ++ leBytes 1 ((if it.stepdep then 4 else 0) + it.ver % 4)

/-- The 32 bytes of an item. -/
def Item.bytes (it : Item) : List Byte := it.body ++ leBytes 2 (crc16 it.body)

end Sys2Proof.Machine
end

