-- ==== Sys2Proof/Machine/Matrix.lean ====
section
/-! DEFINITION. The arithmetic of the matrix engine: tile elements, exact block sums, the partial stack, and
the operation descriptor with its checks (spec/05_matrix_engine.md R129 to R143; spec/06_arithmetic.md R154 to
R165). -/

namespace Sys2Proof.Machine

/-! ### Elements of a tile (R74, R154 to R157) -/

/-- Bits of a stream: w bits from stream bit o. -/
def streamBits (bs : List Byte) (o w : Nat) : Nat := fieldAt bs (o / 8) 5 / 2 ^ (o % 8) % 2 ^ w

/-- Replace w bits of a stream from stream bit o, w at most 32. -/
def putStream (bs : List Byte) (o w v : Nat) : List Byte :=
  let n := (o % 8 + w + 7) / 8
  let old := fieldAt bs (o / 8) n
  let field := old / 2 ^ (o % 8) % 2 ^ w
  let new := old - field * 2 ^ (o % 8) + v % 2 ^ w * 2 ^ (o % 8)
  bs.take (o / 8) ++ leBytes n new ++ bs.drop (o / 8 + n)

/-- The raw pattern of element (i, j) of a slot. -/
def elemRaw (fmt : Nat) (slot : List Byte) (i j : Nat) : Nat :=
  streamBits slot ((i * 64 + j) * elemBits fmt) (elemBits fmt)

/-- The block scale byte of element (i, j) (R156). -/
def scaleByte (fmt : Nat) (slot : List Byte) (i j : Nat) : Nat :=
  fieldAt slot (elemBits fmt * 512 + 2 * i + j / 32) 1

/-- A value times the E8M0 scale x (R156). -/
def scaled (x : Nat) (v : Num) : Num :=
  if x = 0xFF then .nan
  else match v with
    | .fin s m e => .fin s m (e + x - 127)
    | v => v

/-- The value of element (i, j) of a slot. -/
def elemNum (fmt : Nat) (slot : List Byte) (i j : Nat) : Num :=
  match fmtKind fmt with
  | none => .nan
  | some k =>
    let v := k.decode (elemRaw fmt slot i j)
    if isMx fmt then scaled (scaleByte fmt slot i j) v else v

/-- An integer format. -/
def isIntFmt (f : Nat) : Bool := decide (f = 0x0C ∨ f = 0x0D)

/-! ### Block sums (R158 to R161) -/

/-- The rounding of an operation: RND, SAT, seed and step of the item. -/
structure Rounding where
  rnd : Nat
  sat : Bool
  seed : Nat
  step : Nat
  deriving DecidableEq, Repr

/-- The random value of a rounding at a node for an element (R164). -/
def Rounding.bitsAt (r : Rounding) (grow gcol node : Nat) : Nat := srBits r.seed r.step grow gcol node

/-- Clamp to INT32. -/
def clamp32 (i : Int) : Int := max (-(2 ^ 31)) (min (2 ^ 31 - 1) i)

/-- The integer that a value of an integer format is. -/
def Num.toInt : Num → Int
  | .fin n m e => if 0 ≤ e then sgnInt n (m * 2 ^ e.toNat) else sgnInt n (m / 2 ^ (-e).toNat)
  | _ => 0

/-- An incoming accumulator of an integer operation (R161). -/
def intC (fmt : Nat) (v : Num) : Int :=
  if fmt = 0x0E then v.toInt
  else toSigned 32 ((FmtKind.int 32 0 false).encode 0 0 false v)

/-- A block sum from its terms: the products, and C if it enters. Integer operands give INT32 bits, the others
binary32 bits. -/
def blockSum (r : Rounding) (isInt : Bool) (fmtC : Nat) (grow gcol g : Nat) (prods : List Num)
    (c : Option Num) : Nat :=
  if isInt then
    ofSigned 32 (clamp32 (prods.foldl (fun a p => a + p.toInt) 0 + ((c.map (intC fmtC)).getD 0)))
  else
    match (match c with | some v => v :: prods | none => prods).foldl Num.add (.fin false 0 0) with
    | .fin _ 0 _ => 0
    | v => enc32 r.rnd (r.bitsAt grow gcol g) v

/-- A pair-sum at node (l, j) (R137, R161, R165). -/
def pairAt (r : Rounding) (isInt : Bool) (grow gcol l j a b : Nat) : Nat :=
  if isInt then ofSigned 32 (clamp32 (toSigned 32 a + toSigned 32 b))
  else pairAdd r.rnd (r.bitsAt grow gcol (l * 2 ^ 20 + j)) a b

/-- A pairing with +0. -/
def zeroAt (isInt : Bool) (a : Nat) : Nat := if isInt then a else pairZero a

/-- The root written as FMT_D (R161 to R163). -/
def rootTo (r : Rounding) (isInt : Bool) (fmtD grow gcol root : Nat) : Nat :=
  if (isInt && decide (fmtD = 0x0E)) || (!isInt && decide (fmtD = 1)) then root
  else match fmtKind fmtD with
    | none => 0
    | some k => k.encode r.rnd (r.bitsAt grow gcol 0xFFF00000) r.sat
        (if isInt then (FmtKind.int 32 0 false).decode root else dec32 root)

/-- tree_push (R137): fuel bounds the levels. -/
def treePush (r : Rounding) (isInt : Bool) (grow gcol : Nat) : Nat → Nat → Nat → Nat → List Nat → List Nat
  | 0, _, _, _, st => st
  | f + 1, lvl, idx, v, st =>
    if idx % 2 = 1 then
      treePush r isInt grow gcol f (lvl + 1) (idx / 2)
        (pairAt r isInt grow gcol (lvl + 1) (idx / 2) (st.getD lvl 0) v) st
    else st.set lvl v

/-- tree_flush (R137). -/
def treeFlush (r : Rounding) (isInt : Bool) (grow gcol : Nat) (st : List Nat) : Nat → Nat → Nat → Bool → Nat → Nat
  | 0, lvl, _, carry, v => if carry then v else st.getD lvl 0
  | f + 1, lvl, cnt, carry, v =>
    if cnt ≤ 1 then (if carry then v else st.getD lvl 0)
    else
      let last := cnt - 1
      let v' := if carry then
          (if last % 2 = 1 then pairAt r isInt grow gcol (lvl + 1) (last / 2) (st.getD lvl 0) v else zeroAt isInt v)
        else if last % 2 = 0 then zeroAt isInt (st.getD lvl 0) else v
      let carry' := carry || decide (last % 2 = 0)
      treeFlush r isInt grow gcol st f (lvl + 1) ((cnt + 1) / 2) carry' v'

/-- The root over all blocks at once: the canonical tree (R165). -/
def rootOfBlocks (r : Rounding) (isInt : Bool) (grow gcol : Nat) (xs : List Nat) : Nat :=
  treeRoot (fun node a b => pairAt r isInt grow gcol (node / 2 ^ 20) (node % 2 ^ 20) a b) (zeroAt isInt) 17 0 xs

/-! ### The operation descriptor (R132, R135) -/

/-- An operation descriptor. -/
structure MxDesc where
  addrA : Nat
  addrB : Nat
  addrC : Nat
  addrD : Nat
  addrP : Nat
  kstrA : Nat
  rstrA : Nat
  kstrB : Nat
  rstrCD : Nat
  rows : Nat
  cols : Nat
  klast : Nat
  kb : Nat
  kbase : Nat
  ktot : Nat
  fmtA : Nat
  fmtB : Nat
  fmtC : Nat
  fmtD : Nat
  rnd : Nat
  flags : Nat
  ver : Nat
  rsv : Nat
  grow0 : Nat
  gcol0 : Nat
  deriving DecidableEq, Repr

/-- Read a descriptor. -/
def mxDesc (b : List Byte) : MxDesc :=
  { addrA := fieldAt b 0 4, addrB := fieldAt b 4 4, addrC := fieldAt b 8 4, addrD := fieldAt b 12 4,
    addrP := fieldAt b 16 4, kstrA := fieldAt b 20 4, rstrA := fieldAt b 24 4, kstrB := fieldAt b 28 4,
    rstrCD := fieldAt b 32 4, rows := fieldAt b 36 2, cols := fieldAt b 38 1, klast := fieldAt b 39 1,
    kb := fieldAt b 40 2, kbase := fieldAt b 42 2, ktot := fieldAt b 44 2, fmtA := fieldAt b 46 1,
    fmtB := fieldAt b 47 1, fmtC := fieldAt b 48 1, fmtD := fieldAt b 49 1, rnd := fieldAt b 50 1,
    flags := fieldAt b 51 1, ver := fieldAt b 52 1 % 4, rsv := fieldAt b 52 1 / 4 + fieldAt b 53 3,
    grow0 := fieldAt b 56 4, gcol0 := fieldAt b 60 4 }

/-- Integer operands. -/
def MxDesc.isInt (d : MxDesc) : Bool := isIntFmt d.fmtA
def MxDesc.sat (d : MxDesc) : Bool := nbit 0 d.flags
def MxDesc.keep (d : MxDesc) : Bool := nbit 1 d.flags

/-- The operation contains global block 0, or the last one. -/
def MxDesc.first (d : MxDesc) : Bool := decide (d.kbase = 0)
def MxDesc.final (d : MxDesc) : Bool := decide (d.kbase + d.kb = d.ktot)

/-- LEV of R134. -/
def levels (ktot : Nat) : Nat := ktot.log2 + 1

/-- Check 3 of R135: formats, pairing and SAT. -/
def mxFormatsOk (fa fb fc fd : Nat) (sat : Bool) : Bool :=
  let floatOrMx (f : Nat) : Bool := decide (1 ≤ f ∧ f ≤ 0x0B)
  let int := isIntFmt fa && isIntFmt fb
  (int || (floatOrMx fa && floatOrMx fb))
    && (decide (fc ≤ 5) || (int && decide (fc = 0x0E)))
    && (decide (1 ≤ fd ∧ fd ≤ 5) || (int && decide (fd = 0x0E)))
    && (!sat || decide (fd = 4 ∨ fd = 5))

/-- Byte ranges of the tiles that an operation reads from local store. -/
def MxDesc.reads (d : MxDesc) : List (Nat × Nat) :=
  let qs := List.range ((d.rows + 63) / 64)
  let ks := List.range d.kb
  ks.flatMap (fun k => qs.map (fun q => (d.addrA + k * d.kstrA + q * d.rstrA, slotBytes d.fmtA)))
    ++ ks.map (fun k => (d.addrB + k * d.kstrB, slotBytes d.fmtB))
    ++ (if d.fmtC ≠ 0 ∧ d.first then qs.map (fun q => (d.addrC + q * d.rstrCD, slotBytes d.fmtC)) else [])

/-- Byte ranges of local store that an operation touches (check 7 of R135). -/
def MxDesc.touches (d : MxDesc) : List (Nat × Nat) :=
  d.reads
    ++ (if d.final then (List.range ((d.rows + 63) / 64)).map (fun q => (d.addrD + q * d.rstrCD, slotBytes d.fmtD)) else [])
    ++ [(d.addrP, d.rows * 256 * levels d.ktot)]

/-- The sectors of the tiles that an operation reads. -/
def MxDesc.readSectors (d : MxDesc) : List Nat :=
  d.reads.flatMap (fun (a, n) => (List.range (n / 32)).map (fun i => a / 32 + i))

/-- The cause of the first check that fails (R135); lo and hi bound the item's slot. -/
def mxCheck (d : MxDesc) (lo hi : Nat) : Option Nat :=
  if !verOk .cu d.ver then some 1
  else if d.rsv ≠ 0 ∨ d.flags / 4 ≠ 0 then some 2
  else if !mxFormatsOk d.fmtA d.fmtB d.fmtC d.fmtD d.sat then some 3
  else if 3 < d.rnd then some 7
  else if d.rows = 0 ∨ 256 < d.rows ∨ d.cols = 0 ∨ 64 < d.cols ∨ d.klast = 0 ∨ 64 < d.klast ∨ d.kb = 0
      ∨ 256 < d.kb ∨ d.ktot = 0 ∨ d.ktot < d.kbase + d.kb then some 4
  else if [d.addrA, d.addrB, d.addrC, d.addrD, d.addrP, d.kstrA, d.rstrA, d.kstrB, d.rstrCD].any
      (fun a => decide (a % 128 ≠ 0)) then some 5
  else if d.touches.any (fun (a, n) => decide (a < lo ∨ hi < a + n)) then some 6
  else none

/-! ### Beat counts (R130, R136, R141) -/

/-- The rate class: 0 4-bit, 1 8-bit, 2 16-bit, 3 FP32. -/
def rateOf (f : Nat) : Nat :=
  if f = 1 then 3 else if f = 2 ∨ f = 3 then 2 else if f = 0x0A ∨ f = 0x0D then 0 else 1
def rateClass (fa fb : Nat) : Nat := max (rateOf fa) (rateOf fb)

/-- Beats in which rows of one block enter. -/
def rowBeats (cls rows : Nat) : Nat :=
  match cls with
  | 0 => (rows + 1) / 2
  | 1 => rows
  | 2 => 2 * rows
  | _ => 8 * rows

/-- floor(log2 |v|) of a nonzero finite term. -/
def Num.expo : Num → Option Int
  | .fin _ m e => if m = 0 then none else some (m.log2 + e)
  | _ => none

/-- Terms span more than the window of 160 bits (R141). -/
def wideSpan (terms : List Num) : Bool :=
  let es := terms.filterMap Num.expo
  match es with
  | [] => false
  | e :: rest => decide (128 < (rest.foldl max e) - (rest.foldl min e))

/-! ### One element of an operation -/

/-- The products of one row and lane in one block: A's row i, B's column n, the K positions below lim. -/
def products (fmtA : Nat) (ta : List Byte) (i : Nat) (fmtB : Nat) (tb : List Byte) (n lim : Nat) : List Num :=
  (List.range (min 64 lim)).map (fun k => (elemNum fmtA ta i k).mul (elemNum fmtB tb k n))

end Sys2Proof.Machine
end

