-- ==== Sys2Proof/Machine/GroupOps.lean ====
section
/-! DEFINITION. What every group instruction shares (spec/07_thread_groups.md R170 to R199): fields of an
instruction word, registers of threads, slots, faults, reconvergence, barriers. -/

namespace Sys2Proof.Machine

/-! ### Groups and thread registers -/

/-- The key of resident group h of a unit. -/
def gKey (u h : Nat) : Nat := u * 64 + h

/-- A resident group. -/
def State.grp (s : State) (u h : Nat) : Option Group := SMap.get (fun _ => none) s.groups (gKey u h)

/-- Store or remove a resident group. -/
def State.setGrp (s : State) (u h : Nat) (g : Option Group) : State :=
  { s with groups := SMap.put (fun _ => none) s.groups (gKey u h) g }

/-- The resident groups of a unit: number and group. -/
def residents (s : State) (u : Nat) : List (Nat × Group) :=
  s.groups.filterMap (fun (k, g) => if k / 64 = u then g.map (fun x => (k % 64, x)) else none)

/-- The resident groups of an item on a unit, by ascending resident number. -/
def itemGroups (s : State) (u item : Nat) : List (Nat × Group) :=
  (residents s u).filter (fun p => p.2.item == item)

/-- Key of a thread register. -/
def vKey (u h r t : Nat) : Nat := (gKey u h * 256 + r) * 32 + t

/-- A thread register. -/
def State.vreg (s : State) (u h r t : Nat) : Nat := (SMap.get (fun _ => 0) s.vregs (vKey u h r t)).toNat

/-- Write a thread register. -/
def State.setVreg (s : State) (u h r t v : Nat) : State :=
  { s with vregs := SMap.put (fun _ => 0) s.vregs (vKey u h r t) (BitVec.ofNat 32 v) }

/-- Write register r of the listed threads. -/
def writeThreads (s : State) (u h r : Nat) (f : Nat → Nat) (ts : List Nat) : State :=
  ts.foldl (fun t k => t.setVreg u h r k (f k)) s

/-- All registers of a resident group become 0 (R171). -/
def clearRegs (s : State) (u h : Nat) : State :=
  { s with vregs := SMap.dropKeys (fun k => k / 8192 == gKey u h) s.vregs }

/-- The active threads, ascending. -/
def Group.threads (g : Group) : List Nat := maskBits 32 g.active

/-! ### Slots (R175) -/

/-- Size and base of an item's local-store slot. -/
def slotSize (it : Item) : Nat := it.lsSteps * 131072
def slotBase (it : Item) : Nat := it.islot.getD 0 * slotSize it

/-- A range lies inside the item's slot. -/
def inSlot (it : Item) (a n : Nat) : Bool := decide (slotBase it ≤ a ∧ a + n ≤ slotBase it + slotSize it)

/-- A write of local store by a group, mover or engine: it also clears the held slab's tag if it touches the
slab's source tile (R138). -/
def lsStore (s : State) (u a : Nat) (bs : List Byte) : State :=
  let s1 := lsPuts s u a bs
  let c := s1.cu u
  match c.slab with
  | some (_, sa, f) => if a < sa + slotBytes f ∧ sa < a + bs.length then s1.setCu u { c with slab := none } else s1
  | none => s1

/-! ### Programs (R173, R176) -/

/-- The word of an instruction. -/
def gWord (op : Nat) (f : GFields) : Nat :=
  f.imm * 2 ^ 40 + f.c * 2 ^ 32 + f.b * 2 ^ 24 + f.a * 2 ^ 16 + f.d * 2 ^ 8 + op

/-- OP and fields of a word. -/
def gOp (w : Nat) : Nat := w % 256
def gFields (w : Nat) : GFields :=
  ⟨w / 2 ^ 8 % 256, w / 2 ^ 16 % 256, w / 2 ^ 24 % 256, w / 2 ^ 32 % 256, w / 2 ^ 40⟩

/-- The program of a group: its station's code from CODE_OFF. -/
def programOf (s : State) (it : Item) : List Byte :=
  match s.job it.job with
  | none => []
  | some j => match j.stn it.sid with
    | none => []
    | some st => (j.code.drop st.df.codeOff).take st.df.codeLen

/-- ENTRY and NINSTR of a program header. -/
def progEntry (p : List Byte) : Nat := fieldAt p 8 4
def progCount (p : List Byte) : Nat := fieldAt p 12 4

/-- The instruction at a pc; none outside the NINSTR instructions. -/
def wordAt (p : List Byte) (pc : Nat) : Option Nat :=
  if pc < progCount p then some (fieldAt p (progEntry p + 8 * pc) 8) else none

/-- Byte offset of an instruction from the header, modulo 2^32. -/
def pcByte (p : List Byte) (pc : Nat) : Nat := (progEntry p + 8 * pc) % 2 ^ 32

/-- A pc moved by a signed number of instructions, modulo 2^32. -/
def pcMove (pc : Nat) (by_ : Int) : Nat := ofSigned 32 ((pc : Int) + by_)

/-- Every OP of R177. -/
def opListed (op : Nat) : Bool :=
  decide (op ≤ 0x0E) || decide (0x10 ≤ op ∧ op ≤ 0x1B) || decide (0x20 ≤ op ∧ op ≤ 0x26)
    || decide (0x30 ≤ op ∧ op ≤ 0x3B)

/-! ### Faults (R198, R199) -/

/-- A group fault: GRP_FAULT latches the first, the item will end with GRPFAULT, its log is discarded. -/
def groupFault (s : State) (u h cause tag : Nat) : State :=
  match s.grp u h with
  | none => s
  | some g =>
    match s.item g.item with
    | none => s
    | some it =>
      let a := regAddr (uGrp u) 0x110
      let pc := if it.kind = 2 then pcByte (programOf s it) g.pc else 0
      let s1 := if bit 63 (s.reg a) then s
        else s.setReg a (BitVec.ofNat 64 (2 ^ 63 + cause % 256 * 2 ^ 48 + it.islot.getD 0 % 4 * 2 ^ 46
          + h % 64 * 2 ^ 40 + pc))
      let s2 := countEv s1 (uGrp u) 7 1
      s2.setItem g.item (some { it with log := [], err := some (it.err.getD (stGrpFault, cause, tag)) })

/-! ### Waiting in the sump -/

/-- The waiter of a group, of an item's mover or engine. -/
def groupWaiter (u item h : Nat) : Waiter := ⟨0, uDie u, uSite u, item * 64 + h⟩
def itemWaiter (kind die unit item : Nat) : Waiter := ⟨kind, die, unit, item * 64⟩

/-- A waiter belongs to an item. -/
def Waiter.ofItem (w : Waiter) (item : Nat) : Bool := decide (w.kind ≤ 4 ∧ w.sub / 64 = item)

/-- Some requester of the item waits: its journal entry is WAITX (R121, R181). -/
def itemWaits (s : State) (item : Nat) : Bool :=
  s.sump.recs.any (fun r => r.waiters.any (fun w => w.ofItem item)) || s.sump.noslot.any (fun f => f.who.ofItem item)

/-- A fault of an item's requester goes to the sump. -/
def itemFault (s : State) (n : Nat) (it : Item) (aspace va : Nat) (k : XKind) (level : Nat) (pte : W64)
    (acc : Acc) (w : Waiter) : State :=
  let _ := n
  sumpFault s ⟨aspace, va, k.code, level, pte, acc.bits, w, some (it.job, it.sid, it.step)⟩

/-! ### Reconvergence (R188 to R190) -/

/-- The group continues where its stack says (R189): pops until a subset with threads is found; with the
stack empty the active mask is what is left. -/
def popStack (live : Nat) : List StkEnt → Nat → Nat × Nat × List StkEnt
  | [], pc => (0, pc, [])
  | e :: rest, pc =>
    let m := e.mask &&& live
    if m = 0 then popStack live rest pc
    else if e.join then (m, (e.pc + 1) % 2 ^ 32, rest)
    else (m, e.pc, rest)

/-- The group after an instruction that leaves its active mask empty. -/
def Group.resume (g : Group) : Group :=
  let (m, pc, st) := popStack g.live g.stack g.pc
  { g with active := m, pc := pc, stack := st }

/-- The group has ended. -/
def Group.ended (g : Group) : Bool := decide (g.live = 0)

/-! ### Barriers (R194) -/

/-- Every live thread of a group waits at barrier n. -/
def Group.atBar (g : Group) (n : Nat) : Bool := g.ended || (decide (g.wait = .bar n) && decide (g.active = g.live))

/-- A group that waited at its instruction goes on after it. -/
def Group.release (g : Group) : Group := { g with wait := .none, pc := (g.pc + 1) % 2 ^ 32 }

/-- Complete barrier n of an item if every live thread waits there. -/
def tryBarrier (s : State) (u item n : Nat) : State :=
  let gs := itemGroups s u item
  if gs.all (fun p => p.2.atBar n) && gs.any (fun p => decide (p.2.wait = .bar n)) then
    gs.foldl (fun t p => if p.2.wait = .bar n then t.setGrp u p.1 (some p.2.release) else t) s
  else s

/-- After an exit, every barrier of the item is looked at. -/
def tryBarriers (s : State) (u item : Nat) : State :=
  (List.range 16).foldl (fun t n => tryBarrier t u item n) s

/-! ### Issue (R172, R176) -/

/-- Registers that a pending load will write. -/
def awaits (c : CuSt) (h r : Nat) : Bool := c.loads.any (fun l => l.group == h && l.dest == r)

/-- The group may issue its next instruction. -/
def canIssue (s : State) (u h : Nat) (g : Group) (it : Item) : Bool :=
  let stepping := s.dbg.steps.contains (gKey u h)
  inService s u && !(s.cu u).failed && !(s.cu u).held
    && (!unitHalting s u || stepping)
    && decide (it.err = none) && it.tagsOk && decide (g.wait = .none) && decide (g.active ≠ 0)
    && !inSump s (groupWaiter u g.item h)

/-- How an instruction uses its fields: destination, sources as registers, pairs in A, the sub-operation codes
it allows in C, whether it uses IMM. -/
structure GUse where
  d : Bool := false
  a : Bool := false
  b : Bool := false
  c : Bool := false
  pairA : Bool := false
  /-- C is a sub-operation code below this bound. -/
  codes : Option Nat := none
  imm : Bool := false
  /-- B and C hold a join offset (BRC). -/
  bc : Bool := false

/-- The fields break a rule of R176. -/
def GUse.illegal (use : GUse) (regs : Nat) (f : GFields) : Bool :=
  let bad (used : Bool) (r : Nat) : Bool := if used then decide (regs ≤ r) else decide (r ≠ 0)
  bad use.d f.d
    || (if use.pairA then decide (regs ≤ f.a + 1 ∨ f.a % 2 = 1) else bad use.a f.a)
    || (!use.bc && bad use.b f.b)
    || (!use.bc && (match use.codes with
        | some n => decide (n ≤ f.c)
        | none => bad use.c f.c))
    || (!use.imm && decide (f.imm ≠ 0))

/-- A register that the instruction reads or writes awaits a load. -/
def GUse.waits (use : GUse) (c : CuSt) (h : Nat) (f : GFields) : Bool :=
  (use.d && awaits c h f.d) || ((use.a || use.pairA) && awaits c h f.a) || (use.pairA && awaits c h (f.a + 1))
    || (use.b && awaits c h f.b) || (use.c && awaits c h f.c)

/-- An instruction issues: its scheduler's choice among the ready groups is the command's. The word at the
group's pc is the instruction; one that breaks R176 raises ILLEGAL; otherwise the body runs, and answers none
where the instruction cannot issue yet. -/
def issue (u h op : Nat) (f : GFields) (use : GUse) (body : Group → Item → State → Option State) (s : State) : Out :=
  whenLive s <|
    match s.grp u h with
    | none => s
    | some g =>
      match s.item g.item with
      | none => s
      | some it =>
        if !canIssue s u h g it || decide (it.kind ≠ 2) then s
        else if wordAt (programOf s it) g.pc ≠ some (gWord op f) then s
        else
          let done (t : State) : State :=
            countEv { t with dbg := { t.dbg with steps := t.dbg.steps.filter (· != gKey u h) } } (uGrp u) 1 1
          if use.illegal g.regs f then done (groupFault s u h 4 0)
          else if use.waits (s.cu u) h f then s
          else match body g it s with
            | none => s
            | some t => done t

/-- The group moves to the next instruction. -/
def nextPc (u h : Nat) (g : Group) (s : State) : State :=
  s.setGrp u h (some { g with pc := (g.pc + 1) % 2 ^ 32 })

/-- An instruction whose result in D depends on each active thread's own registers. -/
def issueAlu (u h op : Nat) (f : GFields) (use : GUse) (val : State → Nat → Nat) (s : State) : Out :=
  issue u h op f use (fun g _ t => some (nextPc u h g (writeThreads t u h f.d (val t) g.threads))) s

/-- Field uses of the common shapes. -/
def useDab : GUse := { d := true, a := true, b := true }
def useDa : GUse := { d := true, a := true }
def useDai : GUse := { d := true, a := true, imm := true }

/-- The sign-extended immediate. -/
def simm (f : GFields) : Int := toSigned 24 f.imm

/-- An instruction of A and B. -/
def alu2 (u h op : Nat) (f : GFields) (g : Nat → Nat → Nat) (s : State) : Out :=
  issueAlu u h op f useDab (fun t k => g (t.vreg u h f.a k) (t.vreg u h f.b k)) s

/-- An instruction of A alone. -/
def alu1 (u h op : Nat) (f : GFields) (g : Nat → Nat) (s : State) : Out :=
  issueAlu u h op f useDa (fun t k => g (t.vreg u h f.a k)) s

/-! ### Memory accesses -/

/-- Bytes of a width code (R177). -/
def widthOf (c : Nat) : Nat := if c = 0 then 1 else if c = 1 then 2 else 4

/-- Distinct aligned 32-byte sectors of a list of addresses (R180): naturally aligned accesses lie in one. -/
def sectorCount (as : List Nat) : Nat := ((as.map (· / 32)).eraseDups).length

/-- Bytes stored by several threads: where two threads store different bytes at one place, what stands there
is a free value, for the spec states no order among them (log entry 27). -/
def mergeStores (free : Nat) (l : List (Nat × Byte)) : List (Nat × Byte) :=
  (l.map Prod.fst).eraseDups.map (fun a =>
    let vs := (l.filter (fun p => p.1 == a)).map Prod.snd
    let v := vs.headD 0
    (a, if vs.all (· == v) then v else Config.freeByte (free * 2 ^ 64 + a)))

/-- The 64-bit address of a pair A:A+1 of a thread plus the immediate. -/
def pairAddr (s : State) (u h : Nat) (f : GFields) (t : Nat) : Nat :=
  ofSigned 64 ((s.vreg u h f.a t + s.vreg u h (f.a + 1) t * 2 ^ 32 : Nat) + simm f)

end Sys2Proof.Machine
end

