-- ==== Sys2Proof/Machine/GroupAlu.lean ====
section
/-! DEFINITION. Group instructions on registers (spec/07_thread_groups.md R177 to R179): integer, floating
point, conversions, shuffle, special values, trap. Operands: unit, resident group, instruction fields. -/

namespace Sys2Proof.Machine

/-- A word modulo 2^32. -/
def w32 (x : Nat) : Nat := x % 2 ^ 32

/-- GROUP_NOP: NOP; and any word that is no instruction of another row (an unlisted OP, an undefined MFENCE,
an address outside the program), which raises ILLEGAL (R176; log entry 28). -/
def execGroupNop (u h : Nat) (f : GFields) (s : State) : Out :=
  match s.grp u h with
  | none => .next s
  | some g =>
    match s.item g.item with
    | none => .next s
    | some it =>
      let w := wordAt (programOf s it) g.pc
      let other := match w with
        | none => true
        | some x => !opListed (gOp x) || (decide (gOp x = 0x26) && decide (2 < (gFields x).c))
      if other && canIssue s u h g it && decide (it.kind = 2) then
        whenLive s (countEv (groupFault s u h 4 0) (uGrp u) 1 1)
      else issue u h 0x00 f {} (fun g _ t => some (nextPc u h g t)) s

/-- IADD to ISETEQ. -/
def execIadd (u h : Nat) (f : GFields) (s : State) : Out := alu2 u h 0x01 f (fun a b => w32 (a + b)) s
def execIsub (u h : Nat) (f : GFields) (s : State) : Out := alu2 u h 0x02 f (fun a b => w32 (a + 2 ^ 32 - b)) s
def execImul (u h : Nat) (f : GFields) (s : State) : Out := alu2 u h 0x03 f (fun a b => w32 (a * b)) s
def execAnd (u h : Nat) (f : GFields) (s : State) : Out := alu2 u h 0x04 f (fun a b => a &&& b) s
def execOr (u h : Nat) (f : GFields) (s : State) : Out := alu2 u h 0x05 f (fun a b => a ||| b) s
def execXor (u h : Nat) (f : GFields) (s : State) : Out := alu2 u h 0x06 f (fun a b => a ^^^ b) s
def execShl (u h : Nat) (f : GFields) (s : State) : Out := alu2 u h 0x07 f (fun a b => w32 (a * 2 ^ (b % 32))) s
def execShr (u h : Nat) (f : GFields) (s : State) : Out := alu2 u h 0x08 f (fun a b => a / 2 ^ (b % 32)) s
def execSra (u h : Nat) (f : GFields) (s : State) : Out :=
  alu2 u h 0x09 f (fun a b => ofSigned 32 (Int.fdiv (toSigned 32 a) (2 ^ (b % 32)))) s
def execIsetlt (u h : Nat) (f : GFields) (s : State) : Out :=
  alu2 u h 0x0A f (fun a b => if toSigned 32 a < toSigned 32 b then 1 else 0) s
def execIseteq (u h : Nat) (f : GFields) (s : State) : Out := alu2 u h 0x0B f (fun a b => if a = b then 1 else 0) s

/-- IADDI, MOVI, ORHI. -/
def execIaddi (u h : Nat) (f : GFields) (s : State) : Out :=
  issueAlu u h 0x0C f useDai (fun t k => ofSigned 32 ((t.vreg u h f.a k : Int) + simm f)) s
def execMovi (u h : Nat) (f : GFields) (s : State) : Out :=
  issueAlu u h 0x0D f { d := true, imm := true } (fun _ _ => ofSigned 32 (simm f)) s
def execOrhi (u h : Nat) (f : GFields) (s : State) : Out :=
  issueAlu u h 0x0E f useDai (fun t k => t.vreg u h f.a k ||| (f.imm % 2 ^ 16 * 2 ^ 16)) s

/-- FADD to FSQRT (R178). -/
def execFadd (u h : Nat) (f : GFields) (s : State) : Out := alu2 u h 0x10 f f32add s
def execFmul (u h : Nat) (f : GFields) (s : State) : Out := alu2 u h 0x11 f f32mul s
def execFfma (u h : Nat) (f : GFields) (s : State) : Out :=
  issueAlu u h 0x12 f { d := true, a := true, b := true, c := true }
    (fun t k => f32fma (t.vreg u h f.a k) (t.vreg u h f.b k) (t.vreg u h f.c k)) s
def execFmin (u h : Nat) (f : GFields) (s : State) : Out := alu2 u h 0x13 f f32min s
def execFmax (u h : Nat) (f : GFields) (s : State) : Out := alu2 u h 0x14 f f32max s
def execFsetlt (u h : Nat) (f : GFields) (s : State) : Out := alu2 u h 0x15 f f32lt s
def execFdiv (u h : Nat) (f : GFields) (s : State) : Out := alu2 u h 0x16 f f32div s
def execFsqrt (u h : Nat) (f : GFields) (s : State) : Out := alu1 u h 0x17 f f32sqrt s
def execCvtif (u h : Nat) (f : GFields) (s : State) : Out := alu1 u h 0x18 f cvtIF s
def execCvtfi (u h : Nat) (f : GFields) (s : State) : Out := alu1 u h 0x19 f cvtFI s

/-- CVTFN and CVTNF: an undefined format or mode 0b11 raises ILLEGAL (R178). -/
def execCvtfn (u h : Nat) (f : GFields) (s : State) : Out :=
  issue u h 0x1A f useDai (fun g _ t =>
    match fmtKind (f.imm % 256) with
    | none => some (groupFault t u h 4 0)
    | some k =>
      if f.imm / 256 % 4 = 3 then some (groupFault t u h 4 0)
      else some (nextPc u h g (writeThreads t u h f.d
        (fun i => cvtFN k (f.imm / 256 % 4) (nbit 10 f.imm) (t.vreg u h f.a i)) g.threads))) s
def execCvtnf (u h : Nat) (f : GFields) (s : State) : Out :=
  issue u h 0x1B f useDai (fun g _ t =>
    match fmtKind (f.imm % 256) with
    | none => some (groupFault t u h 4 0)
    | some k => some (nextPc u h g (writeThreads t u h f.d (fun i => cvtNF k (t.vreg u h f.a i)) g.threads))) s

/-- SHFL: collective (R191); the source thread is B mod 32. -/
def execShfl (u h : Nat) (f : GFields) (s : State) : Out :=
  issue u h 0x39 f useDab (fun g _ t =>
    if g.active ≠ 0xFFFFFFFF then some (groupFault t u h 1 0)
    else some (nextPc u h g (writeThreads t u h f.d (fun i => t.vreg u h f.a (t.vreg u h f.b i % 32)) g.threads))) s

/-- The special values of R179; none for an undefined code. -/
def specValue (s : State) (u h : Nat) (g : Group) (it : Item) (code t : Nat) : Option Nat :=
  match code with
  | 0 => some t
  | 1 => some g.gid
  | 2 => some (match s.job it.job with
      | some j => (match j.stn it.sid with | some st => par st.df 0 1 | none => 0)
      | none => 0)
  | 3 => some (slotBase it)
  | 4 => some (slotSize it)
  | 5 => some (slotBase it + slotSize it - (g.gid + 1) * (fieldAt (programOf s it) 4 2 * 1024))
  | 6 => some g.ctr
  | 7 => some g.live
  | 8 => some g.active
  | 9 => some (h + u * 0)
  | _ => none

/-- SPEC: an undefined code raises ILLEGAL. -/
def execSpec (u h : Nat) (f : GFields) (s : State) : Out :=
  issue u h 0x3A f { d := true, imm := true } (fun g it t =>
    if f.imm % 256 ≤ 9 then
      some (nextPc u h g (writeThreads t u h f.d (fun i => (specValue t u h g it (f.imm % 256) i).getD 0) g.threads))
    else some (groupFault t u h 4 0)) s

/-- TRAP: IMM is recorded (R198). -/
def execTrap (u h : Nat) (f : GFields) (s : State) : Out :=
  issue u h 0x3B f { imm := true } (fun _ _ t => some (groupFault t u h 9 f.imm)) s

end Sys2Proof.Machine
end

