-- ==== Sys2Proof/Machine/GroupMem.lean ====
section
/-! DEFINITION. Group memory instructions (spec/07_thread_groups.md R180 to R185; spec/08_cu_memory.md R206 to
R215; spec/10_coherence_and_ordering.md R278, R279). -/

namespace Sys2Proof.Machine

/-! ### Local store -/

/-- Local-store addresses of the active threads. -/
def lsAddrs (s : State) (u h : Nat) (f : GFields) (g : Group) : List (Nat × Nat) :=
  g.threads.map (fun t => (t, ofSigned 32 ((s.vreg u h f.a t : Int) + simm f)))

/-- The fault of a local-store access, if one: MISALIGN before LSRANGE (R181). -/
def lsFault (it : Item) (w : Nat) (as : List (Nat × Nat)) : Option Nat :=
  if as.any (fun p => decide (p.2 % w ≠ 0)) then some 6
  else if as.any (fun p => !inSlot it p.2 w) then some 5
  else none

/-- A read of local store by the unit: sectors not written count in LSZERO; an armed LSUE fires (R206, R555).
None where it fires: the unit has failed. -/
def lsRead (s : State) (u : Nat) (sectors : List Nat) : Bool × State :=
  if armedAt s (uCu u) 9 then (false, unitError (disarm s (uCu u) 9) u (uCu u) 9 true (firstWork s u))
  else (true, countEv s (uCu u) 0x26 (sectors.filter (fun x => !lsSector s u x)).length)

/-- LDL. -/
def execLdl (u h : Nat) (f : GFields) (s : State) : Out :=
  issue u h 0x20 f { d := true, a := true, codes := some 3, imm := true } (fun g it t =>
    let w := widthOf f.c
    let as := lsAddrs t u h f g
    match lsFault it w as with
    | some c => some (groupFault t u h c 0)
    | none =>
      let secs := ((as.map (fun p => p.2 / 32)).eraseDups)
      let (ok, t1) := lsRead t u secs
      if !ok then some t1
      else some (nextPc u h g (countEv (as.foldl (fun x p => x.setVreg u h f.d p.1 (leNat (lsBytes t u p.2 w))) t1)
        (uGrp u) 2 secs.length))) s

/-- Store merged bytes into local store. -/
def lsMerge (s : State) (u : Nat) (l : List (Nat × Byte)) : State :=
  let (n, s1) := s.takeFree
  (mergeStores n l).foldl (fun t p => lsStore t u p.1 [p.2]) s1

/-- STL. -/
def execStl (u h : Nat) (f : GFields) (s : State) : Out :=
  issue u h 0x21 f { a := true, b := true, codes := some 3, imm := true } (fun g it t =>
    let w := widthOf f.c
    let as := lsAddrs t u h f g
    match lsFault it w as with
    | some c => some (groupFault t u h c 0)
    | none =>
      let bytes := as.flatMap (fun p => (leBytes w (t.vreg u h f.b p.1)).zipIdx.map (fun (b, i) => (p.2 + i, b)))
      some (nextPc u h g (countEv (lsMerge t u bytes) (uGrp u) 2 (sectorCount (as.map Prod.snd))))) s

/-- ATOML: the threads' operations are applied in ascending TID; each receives the value it replaced (R185). -/
def execAtoml (u h : Nat) (f : GFields) (s : State) : Out :=
  issue u h 0x25 f { d := true, a := true, b := true, codes := some 8, imm := true } (fun g it t =>
    let as := lsAddrs t u h f g
    match lsFault it 4 as with
    | some c => some (groupFault t u h c 0)
    | none =>
      let secs := ((as.map (fun p => p.2 / 32)).eraseDups)
      let (ok, t1) := lsRead t u secs
      if !ok then some t1
      else
        let t2 := as.foldl (fun x p =>
          let old := leNat (lsBytes x u p.2 4)
          (lsStore x u p.2 (leBytes 4 (atomApply f.c 4 old (t.vreg u h f.b p.1)))).setVreg u h f.d p.1 old) t1
        some (nextPc u h g (countEv t2 (uGrp u) 2 secs.length))) s

/-! ### Memory through the CU cache -/

/-- The address space of an item's job. -/
def itemSpace (s : State) (it : Item) : Nat := ((s.job it.job).map (·.aspace)).getD 0

/-- Translate the threads' addresses in ascending address order: the places, or the first fault. -/
def placesOf (s : State) (u aspace w : Nat) (acc : Acc) :
    List (Nat × Nat) → List (Nat × Where) × Option (Nat × XKind × Nat × W64) × State
  | [] => ([], none, s)
  | (t, va) :: rest =>
    let (x, s1) := unitXlat s u aspace va w acc
    match x with
    | .fault k l p => ([], some (va, k, l, p), s1)
    | _ =>
      let (xs, e, s2) := placesOf s1 u aspace w acc rest
      ((t, x) :: xs, e, s2)

/-- Threads in ascending order of address. -/
def byAddress (l : List (Nat × Nat)) : List (Nat × Nat) := l.mergeSort (fun a b => decide (a.2 ≤ b.2))

/-- The value of w bytes at an address of a line held by the unit's cache. -/
def ccValue (s : State) (u a w : Nat) : Nat :=
  match ccFind s u (a / 128) with
  | none => 0
  | some way =>
    let x := (s.ccWay (ccKey u (a / 128) way)).sec (a % 128 / 32)
    leNat ((List.range w).map (fun i => x.byteAt (a % 32 + i)))

/-- The sector of an address hits in the unit's cache. -/
def ccHits (s : State) (u a : Nat) : Bool :=
  match ccFind s u (a / 128) with
  | none => false
  | some way => ((s.ccWay (ccKey u (a / 128) way)).sec (a % 128 / 32)).hits

/-- Take a miss register for a line, or merge into the live one (R211); none while none is free, nine
instructions would merge, or the set has no way to give (R212). -/
def takeMiss (s : State) (u line sectors : Nat) : Option State :=
  let c := s.cu u
  match c.misses.find? (fun m => m.line == line) with
  | some m =>
    if 8 ≤ m.merged then none
    else
      let more (x : MissReg) : MissReg := { x with merged := x.merged + 1, sectors := x.sectors ||| sectors }
      let ms := updFirst (fun x => x.line == line) more c.misses
      some (countEv (s.setCu u { c with misses := ms }) (uCu u) 0x22 1)
  | none =>
    if 32 ≤ c.misses.length then none
    else
      let place : Option State :=
        if ccWays s u = 0 then some s
        else match ccFind s u line with
          | some _ => some s
          | none => (ccAlloc s u line).map Prod.snd
      place.map (fun t => countEv (t.setCu u { t.cu u with misses := (t.cu u).misses ++ [⟨line, 1, sectors⟩] })
        (uCu u) 0x21 1)

/-- Take miss registers for every line of a list of sector addresses. -/
def takeMisses (s : State) (u : Nat) : List Nat → Option State
  | [] => some s
  | line :: rest => match takeMiss s u (line / 16) (line % 16) with
    | none => none
    | some t => takeMisses t u rest

/-- Lines of sector addresses with the masks of their sectors, as line · 16 + mask. -/
def linesOf (as : List Nat) : List Nat :=
  ((as.map (· / 128)).eraseDups).map (fun l =>
    l * 16 + maskOf ((as.filter (fun a => a / 128 == l)).map (fun a => a % 128 / 32)))

/-- An armed CCCE fires at a sector that a load hits (R555). -/
def ccceFires (s : State) (u : Nat) (hit : Bool) : State :=
  if hit && armedAt s (uCu u) 12 then raiseWith (disarm s (uCu u) 12) (uCu u) 12 ⟨none, uSite u, none, true⟩ else s

/-- LDG (R208, R211). -/
def execLdg (u h : Nat) (f : GFields) (s : State) : Out :=
  issue u h 0x22 f { d := true, pairA := true, codes := some 3, imm := true } (fun g it t =>
    let w := widthOf f.c
    let as := g.threads.map (fun k => (k, pairAddr t u h f k))
    if as.any (fun p => decide (p.2 % w ≠ 0)) then some (groupFault t u h 6 0)
    else
      let (ps, e, t1) := placesOf t u (itemSpace t it) w .rd (byAddress as)
      match e with
      | some (va, k, l, p) =>
        some (itemFault t1 g.item it (itemSpace t it) va k l p .rd (groupWaiter u g.item h))
      | none =>
        let pas := ps.filterMap (fun (k, x) => match x with | .pa a => some (k, a) | _ => none)
        let wins := ps.filterMap (fun (k, x) => match x with | .win fl ga => some (k, fl, ga) | _ => none)
        let t1 := (linesOf (pas.map Prod.snd)).foldl (fun x l => ccueFires x u (l / 16) (l % 16)) t1
        let hits := pas.filter (fun p => ccHits t1 u p.2)
        let miss := pas.filter (fun p => !ccHits t1 u p.2)
        match takeMisses t1 u (linesOf (miss.map Prod.snd)) with
        | none => none
        | some t2 =>
          let t3 := hits.foldl (fun x p => match ccFind x u (p.2 / 128) with
            | some way => ccTouch x u (p.2 / 128) way
            | none => x) (ccceFires t2 u (!hits.isEmpty))
          let t4 := countEv (countEv t3 (uCu u) 0x20 (sectorCount (hits.map Prod.snd))) (uGrp u) 2 (sectorCount (as.map Prod.snd))
          let got := hits.map (fun p => (p.1, ccValue t1 u p.2 w))
          if miss.isEmpty && wins.isEmpty then
            some (nextPc u h g (got.foldl (fun x p => x.setVreg u h f.d p.1 p.2) t4))
          else
            -- one remote read for each run of window addresses; the request number names it
            let runs := (wins.map (fun p => (p.2.1, p.2.2 / 32))).eraseDups
            let req0 := t4.fab.nextReq
            let t5 := (runs.zipIdx).foldl (fun x (r, i) =>
              let inRun := wins.filter (fun p => p.2.1 == r.1 && p.2.2 / 32 == r.2)
              let lo := (inRun.map (fun p => p.2.2)).foldl min (r.2 * 32 + 31)
              let hi := (inRun.map (fun p => p.2.2 + w)).foldl max 0
              enqueue x r.1 ⟨2, 0, lo, hi - lo, [], .load u (req0 + i)⟩) t4
            let t6 := { t5 with fab := { t5.fab with nextReq := req0 + runs.length } }
            let todoWin := wins.map (fun p =>
              let i := (runs.findIdx (fun r => r.1 == p.2.1 && r.2 == p.2.2 / 32))
              let lo := ((wins.filter (fun q => q.2.1 == p.2.1 && q.2.2 / 32 == p.2.2 / 32)).map (fun q => q.2.2)).foldl min (p.2.2 / 32 * 32 + 31)
              (p.1, LoadAt.remote (req0 + i) (p.2.2 - lo) (pairAddr t u h f p.1)))
            let pl : PendLoad := ⟨h, f.d, w, miss.map (fun p => (p.1, LoadAt.pa p.2 (pairAddr t u h f p.1))) ++ todoWin, got⟩
            some (nextPc u h g (t6.setCu u { t6.cu u with loads := (t6.cu u).loads ++ [pl] }))) s

/-- Stores of merged bytes at physical places; none while a set has no way to give. -/
def ccStores (s : State) (u : Nat) : List (Nat × Byte) → Option State
  | [] => some s
  | (a, b) :: rest => match ccStore s u a [b] with
    | none => none
    | some t => ccStores t u rest

/-- STG (R208, R284). -/
def execStg (u h : Nat) (f : GFields) (s : State) : Out :=
  issue u h 0x23 f { pairA := true, b := true, codes := some 3, imm := true } (fun g it t =>
    let w := widthOf f.c
    let as := g.threads.map (fun k => (k, pairAddr t u h f k))
    if as.any (fun p => decide (p.2 % w ≠ 0)) then some (groupFault t u h 6 0)
    else
      let (ps, e, t1) := placesOf t u (itemSpace t it) w .wr (byAddress as)
      match e with
      | some (va, k, l, p) =>
        some (itemFault t1 g.item it (itemSpace t it) va k l p .wr (groupWaiter u g.item h))
      | none =>
        let (n, t2) := t1.takeFree
        let val (k : Nat) : List (Byte × Nat) := (leBytes w (t.vreg u h f.b k)).zipIdx
        let near := mergeStores n (ps.flatMap (fun (k, x) => match x with
          | .pa a => (val k).map (fun (b, i) => (a + i, b)) | _ => []))
        match ccStores t2 u near with
        | none => none
        | some t3 =>
          let flows := (ps.filterMap (fun (_, x) => match x with | .win fl _ => some fl | _ => none)).eraseDups
          let t4 := flows.foldl (fun x fl =>
            let far := mergeStores n (ps.flatMap (fun (k, y) => match y with
              | .win fl' ga => if fl' = fl then (val k).map (fun (b, i) => (ga + i, b)) else []
              | _ => []))
            let secs := ((far.map (fun p => p.1 / 32)).eraseDups)
            secs.foldl (fun z sec =>
              let bs := far.filter (fun p => p.1 / 32 == sec)
              -- one packet for each contiguous run of a sector (R387)
              let starts := (bs.map Prod.fst).filter (fun a => !(bs.any (fun q => q.1 + 1 == a)))
              starts.foldl (fun y a =>
                let run := (List.range 32).filterMap (fun i => (bs.find? (fun q => q.1 == a + i)).map (fun q => (i, q.2)))
                let bytes := ((run.zipIdx).filter (fun (p, i) => p.1 == i)).map (fun (p, _) => p.2)
                enqueue y fl ⟨1, 0, a, bytes.length, bytes, .group it.job g.item h⟩) z) x) t3
          some (nextPc u h g (countEv t4 (uGrp u) 2 (sectorCount (as.map Prod.snd))))) s

/-- ATOMG: one log entry for each active thread, all or none (R183); the address registers are thread 0's. -/
def execAtomg (u h : Nat) (f : GFields) (s : State) : Out :=
  issue u h 0x24 f { pairA := true, b := true, codes := some 7, imm := true } (fun g it t =>
    let va := pairAddr t u h f 0
    if va % 4 ≠ 0 then some (groupFault t u h 6 0)
    else if 1024 < it.log.length + g.threads.length then some (groupFault t u h 8 0)
    else
      let (x, t1) := unitXlat t u (itemSpace t it) va 4 .at
      match x with
      | .fault k l p => some (itemFault t1 g.item it (itemSpace t it) va k l p .at (groupWaiter u g.item h))
      | _ =>
        let es := g.threads.map (fun k => LogEnt.mk g.gid k f.c va (t.vreg u h f.b k))
        some (nextPc u h g (countEv (t1.setItem g.item (some { it with log := it.log ++ es })) (uGrp u) 2 1))) s

/-! ### Fences (R215, R279) -/

/-- No load of the group is outstanding. -/
def loadsDone (s : State) (u h : Nat) : Bool := (s.cu u).loads.all (fun l => l.group != h)

/-- MFENCE_ORDER, MFENCE_ACQUIRE, MFENCE_RELEASE. -/
def execMfenceOrder (u h : Nat) (f : GFields) (s : State) : Out :=
  if f.c ≠ 0 then .next s
  else issue u h 0x26 f { codes := some 3 } (fun g _ t =>
    if !loadsDone t u h then none else some (nextPc u h g t)) s
def execMfenceAcquire (u h : Nat) (f : GFields) (s : State) : Out :=
  if f.c ≠ 1 then .next s
  else issue u h 0x26 f { codes := some 3 } (fun g _ t =>
    if !loadsDone t u h then none else some (nextPc u h g (ccAcquire t u))) s
def execMfenceRelease (u h : Nat) (f : GFields) (s : State) : Out :=
  if f.c ≠ 2 then .next s
  else issue u h 0x26 f { codes := some 3 } (fun g it t =>
    if !loadsDone t u h then none
    else
      let t1 := ccRelease t u
      let owed := unacked t1 (fun p => p == .group it.job g.item h)
      some (t1.setGrp u h (some (if owed then { g with wait := .ack } else g.release)))) s

/-- Groups whose release waited for acknowledgements that have all come go on (R279, R285). -/
def wakeAcks (s : State) : State :=
  s.groups.foldl (fun t (k, g) => match g with
    | some x =>
      let job := ((t.item x.item).map (fun it => it.job)).getD 0
      if x.wait = .ack ∧ !unacked t (fun p => p == .group job x.item (k % 64)) then
        t.setGrp (k / 64) (k % 64) (some x.release)
      else t
    | none => t) s

/-! ### Fills (R211) -/

/-- A load delivers what arrived for some of its threads; with none left it writes its register. -/
def deliverLoad (s : State) (u : Nat) (l : PendLoad) : State :=
  if l.todo.isEmpty then l.got.foldl (fun t p => t.setVreg u l.group l.dest p.1 p.2) s
  else s.setCu u { s.cu u with loads := (s.cu u).loads ++ [l] }

/-- Every pending load of a unit takes the words that `val` gives. -/
def deliverAll (s : State) (u : Nat) (val : LoadAt → Nat → Option Nat) : State :=
  let ls := (s.cu u).loads
  ls.foldl (fun t l =>
    let got := l.todo.filterMap (fun p => (val p.2 l.width).map (fun v => (p.1, v)))
    let todo := l.todo.filter (fun p => (val p.2 l.width).isNone)
    deliverLoad t u { l with todo := todo, got := l.got ++ got }) (s.setCu u { s.cu u with loads := [] })

/-- The items whose groups wait on a line end with MEMERR when its fill delivers poison (R475). -/
def poisonLoads (s : State) (u line : Nat) : State :=
  let hs := ((s.cu u).loads.filter (fun l => l.todo.any (fun p => match p.2 with
    | .pa a _ => a / 128 == line | _ => false))).map (·.group)
  hs.foldl (fun t h => match t.grp u h with
    | none => t
    | some g => match t.item g.item with
      | none => t
      | some it => t.setItem g.item (some { it with err := some (it.err.getD (stMemErr, 0, 0)), log := [] })) s

/-- CU_CACHE_FILL: the fill of a miss register arrives: sectors are merged under their dirty masks, loads take
their words, the register frees. -/
def execCuCacheFill (u line : Nat) (s : State) : Out :=
  whenLive s (match (s.cu u).misses.find? (fun m => m.line == line) with
    | none => s
    | some m =>
      let a := line * 128
      let (p, s1) := homeReadLine s 1 a m.sectors
      let s2 := if p then poisonLoads s1 u line else s1
      let bs := s2.bytes a 128
      let s3 :=
        match ccFind s2 u line with
        | none => s2
        | some way =>
          let k := ccKey u line way
          let t := (maskBits 4 m.sectors).foldl (fun t i =>
            setSec t k i (((t.ccWay k).sec i).fill ((bs.drop (32 * i)).take 32))) s2
          ccTouch t u line way
      let c := s3.cu u
      let s4 := s3.setCu u { c with misses := c.misses.filter (fun x => x.line != line) }
      let held := (ccFind s4 u line).isSome
      deliverAll s4 u (fun x w => match x with
        | .pa b _ =>
          if b / 128 = line ∧ nbit (b % 128 / 32) m.sectors then
            some (if held then ccValue s4 u b w else leNat (s4.bytes b w))
          else none
        | _ => none))

end Sys2Proof.Machine
end

