-- ==== Sys2Proof/Machine/GroupFlow.lean ====
section
/-! DEFINITION. Group control flow: branches, reconvergence, barriers, collective regions, and the issue of
matrix operations (spec/07_thread_groups.md R177, R188 to R197; spec/05_matrix_engine.md R144, R146). -/

namespace Sys2Proof.Machine

/-- BRA: a jump for the whole active set. -/
def execBra (u h : Nat) (f : GFields) (s : State) : Out :=
  issue u h 0x30 f { imm := true } (fun g _ t => some (t.setGrp u h (some { g with pc := pcMove g.pc (simm f) }))) s

/-- The join address of a BRC: B:C as 16 bits, B high, from the branch. -/
def joinPc (g : Group) (f : GFields) : Nat := pcMove g.pc (toSigned 16 (f.b * 256 + f.c))

/-- BRC (R188): uniform, or divergent with a JOIN entry under a PEND entry; in a collective region a divergent
one raises COLLDIV (R192). -/
def execBrc (u h : Nat) (f : GFields) (s : State) : Out :=
  issue u h 0x31 f { a := true, imm := true, bc := true } (fun g _ t =>
    let taken := maskOf (g.threads.filter (fun k => decide (t.vreg u h f.a k ≠ 0)))
    let target := pcMove g.pc (simm f)
    let fall := (g.pc + 1) % 2 ^ 32
    if taken = 0 then some (nextPc u h g t)
    else if taken = g.active then some (t.setGrp u h (some { g with pc := target }))
    else if g.coll then some (groupFault t u h 1 0)
    else if 32 < g.stack.length + 2 then some (groupFault t u h 7 0)
    else
      let pend : StkEnt := ⟨false, fall, g.active - taken⟩
      let join : StkEnt := ⟨true, joinPc g f, g.active⟩
      let g1 := { g with pc := target, active := taken, stack := pend :: join :: g.stack }
      some (countEv (t.setGrp u h (some g1)) (uGrp u) 3 1)) s

/-- JOIN (R189): with the stack empty it does nothing. -/
def execJoin (u h : Nat) (f : GFields) (s : State) : Out :=
  issue u h 0x32 f {} (fun g _ t =>
    if g.stack.isEmpty then some (nextPc u h g t) else some (t.setGrp u h (some g.resume))) s

/-- EXIT (R190): it may complete a barrier or end the group; in a collective region it raises COLLDIV. -/
def execExit (u h : Nat) (f : GFields) (s : State) : Out :=
  issue u h 0x33 f {} (fun g _ t =>
    if g.coll then some (groupFault t u h 1 0)
    else
      let less (m : Nat) : Nat := m - (m &&& g.active)
      let st := g.stack.map (fun e => { e with mask := less e.mask })
      let g1 : Group := { g with live := less g.live, stack := st }
      some (tryBarriers (t.setGrp u h (some g1.resume)) u g.item)) s

/-- BAR (R194): the active threads wait at the barrier; the last arrival completes it. -/
def execBar (u h : Nat) (f : GFields) (s : State) : Out :=
  issue u h 0x34 f { imm := true } (fun g _ t =>
    let n := f.imm % 16
    some (tryBarrier (t.setGrp u h (some { g with wait := .bar n })) u g.item n)) s

/-- BARRIER_TIMEOUT: the timer of barrier n of the item in a running slot reaches GRP_BARTMO; it runs while some
thread waits there, and not while the item waits in the sump or the unit holds its state (R197). The lowest
resident group with a live thread not waiting there faults. -/
def execBarrierTimeout (u islot n : Nat) (s : State) : Out :=
  whenLive s (match s.liveItems.find? (fun p => p.2.islot == some islot && p.2.owner == uSite u && p.2.die == uDie u
      && onUnit p.2.kind) with
    | none => s
    | some (k, it) =>
      let gs := itemGroups s u k
      if !advances s u || decide (it.err ≠ none) || itemWaits s k
          || !(gs.any (fun p => decide (p.2.wait = .bar n))) then s
      else match gs.find? (fun p => !p.2.atBar n) with
        | some (h, _) => groupFault s u h 2 0
        | none => s)

/-- COLLB and COLLE (R192). -/
def execCollb (u h : Nat) (f : GFields) (s : State) : Out :=
  issue u h 0x35 f {} (fun g _ t =>
    if g.active ≠ 0xFFFFFFFF then some (groupFault t u h 1 0)
    else if g.coll then some (groupFault t u h 4 0)
    else some (nextPc u h { g with coll := true } t)) s
def execColle (u h : Nat) (f : GFields) (s : State) : Out :=
  issue u h 0x36 f {} (fun g _ t =>
    if !g.coll then some (groupFault t u h 4 0) else some (nextPc u h { g with coll := false } t)) s

/-- Operations of a group that the engine accepted and has not completed. -/
def opsOf (c : CuSt) (item h : Nat) : Nat := (c.mxq.filter (fun o => o.item == item && o.group == h)).length

/-- MXISSUE (R144, R191): the descriptor at thread 0's A is copied into the engine queue; the group stalls while
16 of its operations or 32 of the unit are outstanding. -/
def execMxissue (u h : Nat) (f : GFields) (s : State) : Out :=
  issue u h 0x37 f { a := true } (fun g it t =>
    let a := t.vreg u h f.a 0
    if g.active ≠ 0xFFFFFFFF then some (groupFault t u h 1 0)
    else if a % 64 ≠ 0 then some (groupFault t u h 6 0)
    else if !inSlot it a 64 then some (groupFault t u h 5 0)
    else
      let c := t.cu u
      if 16 ≤ opsOf c g.item h ∨ 32 ≤ c.mxq.length then none
      else
        let (ok, t1) := lsRead t u [a / 32, a / 32 + 1]
        if !ok then some t1
        else
          let op : MxOp := ⟨g.item, h, .desc (lsBytes t u a 64), false⟩
          some (nextPc u h g (t1.setCu u { t1.cu u with mxq := (t1.cu u).mxq ++ [op] }))) s

/-- A wait for target t is satisfied by a counter (R146). -/
def ctrMet (ctr t : Nat) : Bool := decide ((ctr + 65536 - t % 65536) % 65536 < 32768)

/-- MXWAIT (R146, R177). -/
def execMxwait (u h : Nat) (f : GFields) (s : State) : Out :=
  issue u h 0x38 f { a := true } (fun g _ t =>
    let tgt := t.vreg u h f.a 0 % 65536
    if ctrMet g.ctr tgt then some (nextPc u h g t)
    else if opsOf (t.cu u) g.item h < (tgt + 65536 - g.ctr) % 65536 then some (groupFault t u h 4 0)
    else some (t.setGrp u h (some { g with wait := .mx tgt }))) s

end Sys2Proof.Machine
end

