-- ==== Sys2Proof/Machine/Access.lean ====
section
/-! DEFINITION. Accesses of movers, engines and commands to virtual memory: translation page by page, memory and
fabric windows, faults into the sump (spec/11_translation.md R313 to R324; spec/10_coherence_and_ordering.md
R282, R284). -/

namespace Sys2Proof.Machine

/-- Through what a requester reaches memory: a tile mover of a unit, or an engine of a die with its
shared-cache class. -/
inductive Port where
  | mover (u : Nat)
  | engine (d cls : Nat)
  deriving DecidableEq, Repr

/-- A requester of virtual memory: its port and address space, its name in the sump, the number by which remote
reads and writes are known, the work item it serves, and the extents of its descriptor (R317). -/
structure Rq where
  port : Port
  aspace : Nat
  waiter : Waiter
  rid : Nat
  work : Option (Nat × Nat × Nat)
  exts : List TlbEntry

/-- Translate an access of at most a page. -/
def rqXlat (s : State) (r : Rq) (va n : Nat) (acc : Acc) : Where × State :=
  match r.exts.find? (fun e => e.covers r.aspace va) with
  | some e => (windowed s (leafAccess s e va (some acc)) n (decide (acc ≠ .rd)), s)
  | none =>
    match r.port with
    | .mover u => unitXlat s u r.aspace va n acc
    | .engine d _ =>
      let (x, s1) := translate s d r.aspace va (some acc)
      (windowed s1 x n (decide (acc ≠ .rd)), s1)

/-- Where a virtual range lies: runs, or the first fault (kind, level, entry, address). -/
structure Span where
  runs : List (Where × Nat)
  bad : Option (XKind × Nat × W64 × Nat)

/-- Translate a virtual range page by page: fuel bounds the number of pages. -/
def rqSpanN (r : Rq) (acc : Acc) : Nat → State → Nat → Nat → Span × State
  | 0, s, _, _ => (⟨[], none⟩, s)
  | f + 1, s, va, n =>
    if n = 0 then (⟨[], none⟩, s)
    else
      let k := min (4096 - va % 4096) n
      let (w, s1) := rqXlat s r va k acc
      match w with
      | .fault kd l p => (⟨[], some (kd, l, p, va)⟩, s1)
      | _ =>
        let (sp, s2) := rqSpanN r acc f s1 (va + k) (n - k)
        (⟨(w, k) :: sp.runs, sp.bad⟩, s2)

/-- Translate a virtual range. -/
def rqSpan (s : State) (r : Rq) (va n : Nat) (acc : Acc) : Span × State := rqSpanN r acc (n / 4096 + 2) s va n

/-- A fault of the requester goes to the sump. -/
def rqFault (s : State) (r : Rq) (acc : Acc) (k : XKind) (level : Nat) (pte : W64) (va : Nat) : State :=
  sumpFault s ⟨r.aspace, va, k.code, level, pte, acc.bits, r.waiter, r.work⟩

/-- Read physical bytes. -/
def portRead (s : State) (p : Port) (a n : Nat) : List Byte × Bool × State :=
  match p with
  | .mover u => moverRead s u a n
  | .engine _ cls => homeRead s cls a n

/-- Write physical bytes. -/
def portWrite (s : State) (p : Port) (a : Nat) (bs : List Byte) : State :=
  match p with
  | .mover u => moverWriteN u (bs.length / 128 + 2) s a bs
  | .engine _ cls => homeWrite s cls a bs

/-- What arrived for a remote read of the requester. -/
def fetchedAt (s : State) (rid ga : Nat) : Option (List Byte × Bool) :=
  (s.fab.fetched.find? (fun (r, a, _) => r == rid && a == ga)).map (fun (_, _, bs, p) => (bs, p))

/-- Ask for the sector runs of a window range that were not asked for; none of them is missing if all arrived. A run
that the peer refused has no bytes. -/
def askRuns (s : State) (rid flow ga n : Nat) : Option (List (List Byte) × Bool) × State :=
  let runs := sectorRuns (n / 32 + 2) ga n
  let got := runs.map (fun r => fetchedAt s rid r.1)
  if got.all Option.isSome then
    (some (got.map (fun x => (x.map Prod.fst).getD []), got.any (fun x => (x.map Prod.snd).getD false)), s)
  else
    (none, runs.foldl (fun t r =>
      if t.fab.asked.contains (rid, r.1) then t
      else
        let t1 := enqueue t flow ⟨2, 0, r.1, r.2, [], .fetch rid r.1⟩
        { t1 with fab := { t1.fab with asked := (rid, r.1) :: t1.fab.asked } }) s)

/-- The level and the entry of an address's leaf, for the sump's record. -/
def leafInfo (s : State) (d aspace va : Nat) : Nat × W64 :=
  match (findLeaf s d aspace va).1 with
  | .leaf e => (e.level, e.pte)
  | .fault _ l p => (l, p)

/-- The die through which a requester translates. -/
def Rq.die (r : Rq) : Nat := match r.port with | .mover u => uDie u | .engine d _ => d

/-- The peer refused a read of the requester: the answers are forgotten, and the access faults with kind FABRIC
(spec/14_holarn_fabric.md R385). -/
def rqRefused (s : State) (r : Rq) (va ga n : Nat) : State :=
  let here (a : Nat) : Bool := decide (ga ≤ a ∧ a < ga + n)
  let s1 := { s with fab := { s.fab with
    asked := s.fab.asked.filter (fun p => !(p.1 == r.rid && here p.2))
    fetched := s.fab.fetched.filter (fun p => !(p.1 == r.rid && here p.2.1)) } }
  let (l, p) := leafInfo s1 r.die r.aspace va
  rqFault s1 r .rd .fabric l p va

/-- Read the runs of a span from a virtual address on: the bytes and whether any is poisoned, or none while remote data
is awaited or a fault waits. -/
def readRuns (r : Rq) : List (Where × Nat) → State → Nat → Option (List Byte × Bool) × State
  | [], s, _ => (some ([], false), s)
  | (w, n) :: rest, s, va =>
    let (x, s1) :=
      match w with
      | .pa a =>
        let (bs, p, t) := portRead s r.port a n
        (some (bs, p), t)
      | .win f ga =>
        match askRuns s r.rid f ga n with
        | (none, t) => (none, t)
        | (some (l, p), t) =>
          if l.any List.isEmpty then (none, rqRefused t r va ga n) else (some (l.flatten, p), t)
      | .fault _ _ _ => (none, s)
    let (y, s2) := readRuns r rest s1 (va + n)
    (match x, y with
      | some (a, p), some (b, q) => some (a ++ b, p || q)
      | _, _ => none, s2)

/-- Read virtual bytes: none while a fault or remote data is awaited. -/
def rqRead (s : State) (r : Rq) (va n : Nat) : Option (List Byte × Bool) × State :=
  let (sp, s1) := rqSpan s r va n .rd
  match sp.bad with
  | some (k, l, p, a) => (none, rqFault s1 r .rd k l p a)
  | none => readRuns r sp.runs s1 va

/-- Write the runs of a span. -/
def writeRuns (r : Rq) : List (Where × Nat) → State → List Byte → State
  | [], s, _ => s
  | (w, n) :: rest, s, bs =>
    let s1 := match w with
      | .pa a => portWrite s r.port a (bs.take n)
      | .win f ga => enqueueWrites s f ga (bs.take n) (.rq r.rid)
      | .fault _ _ _ => s
    writeRuns r rest s1 (bs.drop n)

/-- Write virtual bytes; false when a fault goes to the sump, and nothing is written. -/
def rqWrite (s : State) (r : Rq) (va : Nat) (bs : List Byte) : Bool × State :=
  let (sp, s1) := rqSpan s r va bs.length .wr
  match sp.bad with
  | some (k, l, p, a) => (false, rqFault s1 r .wr k l p a)
  | none => (true, writeRuns r sp.runs s1 bs)

/-- Read several virtual ranges. -/
def rqReads (r : Rq) : List (Nat × Nat) → State → Option (List (List Byte) × Bool) × State
  | [], s => (some ([], false), s)
  | (va, n) :: rest, s =>
    match rqRead s r va n with
    | (none, s1) => (none, s1)
    | (some (bs, p), s1) =>
      match rqReads r rest s1 with
      | (none, s2) => (none, s2)
      | (some (l, q), s2) => (some (bs :: l, p || q), s2)

/-- Translate several ranges for writing: false, and the fault in the sump, if one does not translate. -/
def rqProbe (r : Rq) : List (Nat × Nat) → State → Bool × State
  | [], s => (true, s)
  | (va, n) :: rest, s =>
    let (sp, s1) := rqSpan s r va n .wr
    match sp.bad with
    | some (k, l, p, a) => (false, rqFault s1 r .wr k l p a)
    | none => rqProbe r rest s1

/-- Write several ranges: all or none. -/
def rqWrites (s : State) (r : Rq) (l : List (Nat × List Byte)) : Bool × State :=
  match rqProbe r (l.map (fun p => (p.1, p.2.length))) s with
  | (false, s1) => (false, s1)
  | (true, s1) => (true, l.foldl (fun t p => (rqWrite t r p.1 p.2).2) s1)

/-- Translate ranges ahead; a walk that would fault has no effect (R317, R319). -/
def rqPrefetch (r : Rq) (pages : List Nat) (s : State) : State :=
  pages.foldl (fun t va => (rqXlat t r va 1 .rd).2) s

/-- The requester has finished: what was fetched for it is dropped. -/
def dropFetched (s : State) (rid : Nat) : State :=
  { s with fab := { s.fab with
      asked := s.fab.asked.filter (fun p => p.1 != rid)
      fetched := s.fab.fetched.filter (fun p => p.1 != rid) } }

/-- Requester numbers of items, of descriptors. -/
def ridItem (n : Nat) : Nat := 4 * n
def ridDesc (q idx : Nat) : Nat := 4 * (q * 2 ^ 32 + idx) + 1

end Sys2Proof.Machine
end

