-- ==== Sys2Proof/Machine/Cme.lean ====
section
/-! DEFINITION. The cache-maintenance engines (spec/08_cu_memory.md R226 to R231) and the completion of
command descriptors, whose flush they serve (spec/13_queues.md R356, R359, R364). -/

namespace Sys2Proof.Machine

/-- The engine of a C-die. -/
def State.cme (s : State) (d : Nat) : CmeSt := SMap.get (fun _ => CmeSt.reset) s.cmes d

/-- Store an engine. -/
def State.setCme (s : State) (d : Nat) (c : CmeSt) : State :=
  { s with cmes := SMap.put (fun _ => CmeSt.reset) s.cmes d c }

/-! ### Descriptors -/

/-- Fields of a descriptor's header (R352). -/
def Desc.opc (d : Desc) : Nat := fieldAt d.bytes 0 1
def Desc.cflush (d : Desc) : Bool := nbit 5 (fieldAt d.bytes 1 1)
def Desc.fence (d : Desc) : Bool := nbit 4 (fieldAt d.bytes 1 1)
def Desc.irq (d : Desc) : Bool := nbit 3 (fieldAt d.bytes 1 1)
def Desc.tag (d : Desc) : Nat := fieldAt d.bytes 8 4
def Desc.rlen (d : Desc) : Nat := fieldAt d.bytes 12 4
def Desc.rva (d : Desc) : Nat := fieldAt d.bytes 16 8
/-- An operand at its offset. -/
def Desc.op (d : Desc) (o w : Nat) : Nat := fieldAt d.bytes o w

/-- A command with a JOB operand at byte 24. -/
def hasJob (opc : Nat) : Bool := decide ((2 ≤ opc ∧ opc ≤ 8) ∨ opc = 0x1F ∨ (0x60 ≤ opc ∧ opc ≤ 0x62))

/-- The accepted descriptor of a queue with an index. -/
def descAt (s : State) (q idx : Nat) : Option Desc := (s.queue q).inflight.find? (fun d => d.idx == idx)

/-- Change an accepted descriptor. -/
def updDesc (s : State) (q idx : Nat) (f : Desc → Desc) : State :=
  s.setQueue q { s.queue q with inflight := updFirst (fun d => d.idx == idx) f (s.queue q).inflight }

/-- The CMD record of a descriptor, which is in flight no more (R359, R360). -/
def recordDesc (s : State) (q : Nat) (d : Desc) (status value : Nat) : State :=
  let s1 := s.setQueue q { s.queue q with inflight := (s.queue q).inflight.filter (fun x => x.idx != d.idx) }
  let job := if d.opc = 1 then (if status = stOk then value % 64 else 0)
    else if hasJob d.opc then d.op 24 1 % 64 else 0
  dropFetched (postRec s1 q { kind := 1, status := status, didx := d.idx, tag := d.tag, value := value,
                              job := job, irq := d.irq }) (ridDesc q d.idx)

/-! ### Requests -/

/-- A virtual address of 57 bits, sign-extended (R310). -/
def sext57 (va : Nat) : Nat := if 2 ^ 56 ≤ va then va + (2 ^ 64 - 2 ^ 57) else va

/-- Requests of descriptors enter the engine as places free, while it accepts new work (R356, R231;
spec/02_register_pages.md R60, R63). -/
def cmeFeed : Nat → State → Nat → State
  | 0, s, _ => s
  | n + 1, s, d =>
    let c := s.cme d
    match c.backlog with
    | [] => s
    | r :: rest =>
      if c.reqs.length < 8 ∧ s.accepts (pgCme d) then
        cmeFeed n (s.setCme d { c with reqs := c.reqs ++ [r], backlog := rest }) d
      else s

/-- A descriptor's request on an engine. -/
def cmeAsk (s : State) (d : Nat) (r : CmeReq) : State :=
  let c := s.cme d
  cmeFeed 8 (s.setCme d { c with backlog := c.backlog ++ [r] }) d

/-- A descriptor's own work is done. With status OK and CFLUSH = 1, FLUSH requests run on every present C-die
before the record is written; otherwise it is written (R364). -/
def finishDesc (s : State) (q idx status value : Nat) : State :=
  match descAt s q idx with
  | none => s
  | some d =>
    if d.cflush && decide (status = stOk) then
      let ds := cdiesOf s
      let s1 := updDesc s q idx (fun x => { x with stage := .flushing value, waits := ds.length })
      ds.foldl (fun t c => cmeAsk t c ⟨3, d.rva, d.rlen * 128, qaspace s q, 0x3FF, true, false, none, some (q, idx)⟩) s1
    else recordDesc s q d status value

/-- A descriptor's request has ended: its record follows the last one. -/
def descRequestDone (s : State) (q idx skipped : Nat) : State :=
  match descAt s q idx with
  | none => s
  | some d =>
    if 1 < d.waits then updDesc s q idx (fun x => { x with waits := x.waits - 1, skips := x.skips + skipped })
    else match d.stage with
      | .flushing v => recordDesc s q d stOk v
      | .failing st => recordDesc s q d st 0
      | _ =>
        let s1 := updDesc s q idx (fun x => { x with waits := 0, skips := x.skips + skipped })
        finishDesc s1 q idx stOk (min (d.skips + skipped) (2 ^ 64 - 1))

/-! ### The work of a request (R226) -/

/-- Compute units of a die whose cache holds a line, among the targets of UNIT that are in service. -/
def cmeUnits (s : State) (d unit : Nat) : List Nat :=
  ((s.cc.map (fun p => p.1 / 65536)).eraseDups).filter (fun u =>
    decide (uDie u = d) && inService s u && (decide (unit = 0x3FF) || decide (uSite u = unit)))

/-- One operation on a physical range within a page, in the target caches of a die. -/
def cmeRange (s : State) (d : Nat) (r : CmeReq) (a n : Nat) : State :=
  let s1 :=
    if r.tcu then
      (cmeUnits s d r.unit).foldl (fun t u =>
        let t1 := if r.op = 2 then t else ccCleanRange t u a n
        if r.op = 1 then t1 else ccDropRange t1 u a n) s
    else s
  if r.tsc then
    (List.range ((a + n + 127) / 128 - a / 128)).foldl (fun t i =>
      let l := (a / 128 + i) * 128
      if homeDie t l = d then (if r.op = 1 then scClean t l else scFlush t l) else t) s1
  else s1

/-- Dirty sectors that an operation on a physical range writes back. -/
def cmeDirty (s : State) (d : Nat) (r : CmeReq) (a n : Nat) : Nat :=
  let inRange (line : Nat) : Bool := decide (a / 128 ≤ line ∧ line * 128 < a + n)
  let us := if r.tcu ∧ r.op ≠ 2 then cmeUnits s d r.unit else []
  let cu := s.cc.map (fun (k, l) => if us.contains (k / 65536) ∧ inRange l.line then l.dirtyCount else 0)
  let sc := if r.tsc then s.sc.map (fun (_, l) =>
      if inRange l.line ∧ homeDie s (l.line * 128) = d then popCount 4 l.dirty else 0) else []
  (cu ++ sc).foldl (· + ·) 0

/-- The range page by page: the pages skipped and the state. -/
def cmePages (d : Nat) (r : CmeReq) : Nat → State → Nat → Nat → Nat × State
  | 0, s, _, _ => (0, s)
  | f + 1, s, va, n =>
    if n = 0 then (0, s)
    else
      let k := min (4096 - va % 4096) n
      let (x, s1) := translate s d r.aspace (sext57 va) none
      let (skip, s2) :=
        match x with
        | .pa a =>
          if isMem s1 a then
            (0, countEv (countEv (cmeRange s1 d r a k) (pgCme d) 1 (ceilDiv k 128)) (pgCme d) 2 (cmeDirty s1 d r a k))
          else (1, s1)
        | _ => (1, s1)
      let (m, s3) := cmePages d r f s2 (va + k) (n - k)
      (skip + m, s3)

/-- CME_REQUEST_DONE: the request at the head has reached its destinations: its completion is reported, DONE
counts it, LASTSKIP is set (R229). -/
def execCmeRequestDone (d : Nat) (s : State) : Out :=
  whenLive s (match (s.cme d).reqs with
    | [] => s
    | r :: rest =>
      if !hasCdie s d || decide (s.dst (pgCme d) = 3) || !awake s then s
      else
        let (skip, s0) := cmePages d r (r.len / 4096 + 2) s r.va r.len
        let s1 := countEv s0 (pgCme d) 3 skip
        let c := s1.cme d
        let s2 := s1.setCme d { c with reqs := rest, done := (c.done + 1) % 2 ^ 32, lastSkip := min skip 0xFFFF }
        let s3 := match r.rec?, r.desc with
          | some (q, tag), _ => postRec s2 q { kind := 5, status := stOk, detail := d, tag := tag, value := min skip 0xFFFF }
          | none, some (q, idx) => descRequestDone s2 q idx skip
          | none, none => s2
        cmeFeed 8 s3 d)

/-! ### CME_GO (R227, R228) -/

/-- A write of CME_GO with GO = v. -/
def cmeGo (s : State) (d : Nat) (v : W64) : State :=
  let page := pgCme d
  let va := (s.reg (regAddr page 0x100)).toNat
  let len := (s.reg (regAddr page 0x108)).toNat
  let op := s.reg (regAddr page 0x110)
  let unit := fld 17 8 op
  let q := fld 31 20 op
  if !bit 0 v then s
  else if fld 1 0 op = 0 ∨ (!bit 2 op ∧ !bit 3 op) ∨ (unit ≠ 0x3FF ∧ !(decide (unit < 576) && inService s (d * 576 + unit)))
      ∨ !s.en (pgQue q) ∨ 2 ^ 57 < va + len ∨ va % 128 ≠ 0 ∨ len % 128 ≠ 0 ∨ len = 0 ∨ 2 ^ 41 ≤ len
      ∨ 8 ≤ (s.cme d).reqs.length ∨ s.dst page ≠ 0 ∨ !s.en page then
    reject s page
  else
    let c := s.cme d
    s.setCme d { c with reqs := c.reqs ++ [⟨fld 1 0 op, va, len, fld 7 4 op, unit, bit 2 op, bit 3 op,
      some (q, fld 47 32 op), none⟩] }

/-- CME_CLEAN, CME_INVAL, CME_FLUSH: a write of GO = 1 with that operation in CME_OP. -/
def cmeOpGo (s : State) (d op : Nat) : State :=
  if hasCdie s d && decide (s.regF (pgCme d) 0x110 1 0 = op) then cmeGo s d 1 else s
def execCmeClean (d : Nat) (s : State) : Out := whenLive s (cmeOpGo s d 1)
def execCmeInval (d : Nat) (s : State) : Out := whenLive s (cmeOpGo s d 2)
def execCmeFlush (d : Nat) (s : State) : Out := whenLive s (cmeOpGo s d 3)

end Sys2Proof.Machine
end

