-- ==== Sys2Proof/Machine/Queue.lean ====
section
/-! DEFINITION. Command queues: doorbells, fetching, acceptance, the order in which descriptors start
(spec/13_queues.md R347 to R358, R362), with NOP, CMEOP and HINT. -/

namespace Sys2Proof.Machine

/-! ### Acceptance (R352 to R355) -/

/-- Operands of an opcode: byte offset and size; none for an invalid opcode (R353, R354;
spec/14_holarn_fabric.md R404; spec/16_determinism.md R450, R453). -/
def operands (opc : Nat) : Option (List (Nat × Nat)) :=
  match opc with
  | 0x00 => some []
  | 0x01 => some [(24, 8), (32, 8), (40, 8)]
  | 0x02 => some [(24, 1), (32, 8), (40, 8), (48, 8)]
  | 0x03 => some [(24, 1), (32, 8)]
  | 0x04 => some [(24, 1), (26, 2), (28, 1)]
  | 0x05 => some [(24, 1), (28, 1)]
  | 0x06 => some [(24, 1), (32, 8)]
  | 0x07 => some [(24, 1)]
  | 0x08 => some [(24, 1), (32, 8)]
  | 0x10 => some [(24, 8), (32, 8), (40, 8), (48, 8), (56, 4), (60, 1)]
  | 0x11 => some [(24, 8), (32, 8), (40, 8), (48, 4), (52, 4)]
  | 0x12 => some [(32, 8), (40, 8)]
  | 0x13 => some [(24, 8), (32, 8)]
  | 0x18 => some [(24, 8), (32, 8), (40, 1), (42, 2), (44, 1)]
  | 0x19 => some [(24, 8), (32, 1), (33, 1)]
  | 0x1F => some [(24, 1), (25, 1), (32, 8), (40, 8)]
  | 0x40 => some [(24, 4)]
  | 0x41 => some [(24, 4)]
  | 0x42 => some [(24, 4), (32, 8), (40, 8), (48, 8)]
  | 0x43 => some [(24, 4), (32, 8), (40, 8), (48, 8)]
  | 0x44 => some [(24, 1), (25, 1)]
  | 0x60 => some [(24, 1), (26, 2), (32, 8), (40, 8), (48, 8), (56, 8)]
  | 0x61 => some [(24, 1), (25, 1), (28, 4), (32, 8), (40, 8)]
  | 0x62 => some [(24, 1)]
  | _ => none

/-- Reserved bits inside the operands of an opcode are 0. -/
def operandBits (opc : Nat) (b : List Byte) : Bool :=
  (!hasJob opc || decide (fieldAt b 24 1 / 64 = 0))
    && (match opc with
      | 0x18 => decide (fieldAt b 40 1 / 16 = 0)
      | 0x19 => decide (fieldAt b 33 1 / 16 = 0)
      | 0x1F => decide (fieldAt b 25 1 / 8 = 0 ∧ fieldAt b 46 2 = 0)
      | 0x44 => decide (fieldAt b 25 1 / 2 = 0) && (nbit 0 (fieldAt b 25 1) || decide (fieldAt b 24 1 = 0))
          && decide (fieldAt b 24 1 / 64 = 0)
      | _ => true)

/-- Values, alignments and counts that R355 requires of an opcode's operands. -/
def operandValues (opc : Nat) (b : List Byte) : Bool :=
  match opc with
  | 0x01 => decide (fieldAt b 24 8 % 64 = 0 ∧ fieldAt b 32 8 % 65536 = 0)
  | 0x02 => decide (fieldAt b 40 8 ≠ 0)
  | 0x03 => decide (fieldAt b 32 8 ≠ 0)
  | 0x04 | 0x05 => decide (1 ≤ fieldAt b 28 1 ∧ fieldAt b 28 1 ≤ 3)
  | 0x10 => decide (fieldAt b 60 1 = 0) || (fmtKind (fieldAt b 60 1)).isSome
  | 0x18 =>
    let x := fieldAt b 40 1
    let len := fieldAt b 32 8
    decide (x % 4 ≠ 0 ∧ x / 4 % 4 ≠ 0 ∧ fieldAt b 44 1 ≠ 0 ∧ fieldAt b 24 8 % 128 = 0 ∧ fieldAt b 24 8 < 2 ^ 57
      ∧ len % 128 = 0 ∧ len ≠ 0 ∧ len < 2 ^ 41)
  | 0x19 => decide (1 ≤ fieldAt b 32 1 ∧ fieldAt b 32 1 ≤ 3)
  | 0x42 | 0x43 => decide (1 ≤ fieldAt b 48 8 ∧ fieldAt b 48 8 ≤ 2 ^ 40 ∧ fieldAt b 40 8 + fieldAt b 48 8 ≤ 2 ^ 46)
  | 0x60 => decide (fieldAt b 56 8 % 128 = 0)
  | 0x61 => decide (fieldAt b 32 8 % 4096 = 0 ∧ fieldAt b 40 8 % 4096 = 0)
  | _ => true

/-- A current descriptor passes R355. -/
def descOk (b : List Byte) : Bool :=
  let opc := fieldAt b 0 1
  let f := fieldAt b 1 1
  let rva := fieldAt b 16 8
  let rlen := fieldAt b 12 4
  match operands opc with
  | none => false
  | some os =>
    verOk .que (f % 4) && decide (f / 64 = 0 ∧ fieldAt b 4 4 = 0)
      && (List.range 40).all (fun i =>
        os.any (fun (o, n) => decide (o ≤ i + 24 ∧ i + 24 < o + n)) || decide (fieldAt b (i + 24) 1 = 0))
      && operandBits opc b && operandValues opc b
      && (if nbit 5 f then decide (rlen ≠ 0 ∧ rva % 128 = 0 ∧ rva < 2 ^ 57) else decide (rlen = 0 ∧ rva = 0))

/-- The descriptor at index i is current (R348). -/
def descCurrent (s : State) (q i : Nat) (b : List Byte) : Bool :=
  decide ((fieldAt b 1 1 / 4 % 2 = i / 2 ^ sqlog s q % 2) ∧ fieldAt b 2 2 = i % 65536)

/-! ### Pretranslation (R317) -/

/-- Virtual ranges that a descriptor names. -/
def descRanges (b : List Byte) : List (Nat × Nat) :=
  match fieldAt b 0 1 with
  | 0x01 => [(fieldAt b 24 8, 256), (fieldAt b 32 8, fieldAt b 40 8)]
  | 0x06 => [(fieldAt b 32 8, 64)]
  | 0x10 => [(fieldAt b 24 8, fieldAt b 56 4 * fieldAt b 48 8)]
  | 0x11 => [(fieldAt b 24 8, 4096)]
  | 0x13 => [(fieldAt b 24 8, 64)]
  | 0x60 => [(fieldAt b 56 8, 4096)]
  | _ => []

/-- Leaves of a range from its first page on, at most n, ending at a page that does not translate. -/
def pretranslate (aspace : Nat) : Nat → State → Nat → Nat → List TlbEntry × State
  | 0, s, _, _ => ([], s)
  | n + 1, s, va, len =>
    if len = 0 then ([], s)
    else
      let (r, s1) := findLeaf s 0 aspace va
      match r with
      | .fault _ _ _ => ([], s1)
      | .leaf e =>
        let k := min ((e.vpn + e.pages - va / 4096 % 2 ^ 45) * 4096 - va % 4096) len
        let (es, s2) := pretranslate aspace n s1 (va + k) (len - k)
        (e :: es, s2)

/-! ### Fetching (R350, R351) -/

/-- Descriptors in flight over all queues. -/
def totalInflight (s : State) : Nat := (s.queues.map (fun p => p.2.inflight.length)).foldl (· + ·) 0

/-- The queue engine may read the next descriptor of a queue. -/
def mayFetch (s : State) (q : Nat) : Bool :=
  let c := s.queue q
  s.accepts (pgQue q) && decide (c.fetch ≠ c.pidx) && decide (c.inflight.length < 64) && decide (totalInflight s < 8192)

/-- Where descriptor i of a queue lies (R347). -/
def descPa (s : State) (q i : Nat) : Nat := s.regF (pgQue q) 0x108 51 12 * 4096 + i % 2 ^ sqlog s q * 64

/-- Fetching stops at a descriptor: its error bit, the halt, a record, and the queue drains (R351). -/
def fetchHalt (s : State) (q : Nat) (mem : Bool) : State :=
  let c := s.queue q
  let s1 := raise s (pgQue q) (if mem then 10 else 8)
  let s2 := s1.setQueue q { c with stale := !mem || c.stale, haltMem := mem || c.haltMem, rereads := 0 }
  (postRec s2 q { kind := 1, status := if mem then stMemErr else stStale, didx := c.fetch }).setDst (pgQue q) 1

/-- A read of the descriptor at the fetch index: accepted, malformed, poisoned, or not current. -/
def readDesc (s : State) (q : Nat) : State :=
  let c := s.queue q
  let i := c.fetch
  let inj := armedAt s (pgQue q) 8
  let (b, poison, s1) := homeRead (disarm s (pgQue q) 8) 7 (descPa s q i) 64
  if poison then fetchHalt (deliverPoison s1 (descPa s q i)) q true
  else if inj || !descCurrent s q i b then
    if c.rereads = 0 then s1.setQueue q { c with rereads := 1 }
    else if s.regF (pgQue q) 0x138 7 0 ≤ c.rereads then fetchHalt s1 q false
    else s1.setQueue q { c with rereads := c.rereads + 1 }
  else
    let s2 := s1.setQueue q { c with fetch := (i + 1) % 2 ^ 32, rereads := 0 }
    if !descOk b then postRec s2 q { kind := 1, status := stMalformed, didx := i, tag := fieldAt b 8 4,
                                     irq := nbit 3 (fieldAt b 1 1) }
    else
      let (exts, s3) := (descRanges b).foldl (fun (es, t) r =>
        let (e, t1) := pretranslate (qaspace t q) (16 - es.length) t r.1 r.2
        (es ++ e, t1)) ([], s2)
      let d : Desc := ⟨i, b, s3.accepted, .accepted, 0, 0, exts⟩
      let s4 := s3.setQueue q { s3.queue q with inflight := (s3.queue q).inflight ++ [d] }
      countEv { s4 with accepted := s4.accepted + 1 } (pgQue q) 1 1

/-- DESC_FETCH: the queue engine serves a queue (R350); one that owes a re-read makes that instead. -/
def execDescFetch (q : Nat) (s : State) : Out :=
  whenLive s (if q < 4096 ∧ mayFetch s q ∧ (s.queue q).rereads = 0 then readDesc s q else s)

/-- STALE_REREAD: the interval has passed; the descriptor is read again (R351). -/
def execStaleReread (q : Nat) (s : State) : Out :=
  whenLive s (if q < 4096 ∧ mayFetch s q ∧ (s.queue q).rereads ≠ 0 then readDesc (countEv s (pgQue q) 2 1) q else s)

/-! ### Registers of a queue (R349, R362, R369) -/

/-- A doorbell. -/
def doorbellWrite (s : State) (q : Nat) (v : W64) : State :=
  let c := s.queue q
  let p := fld 31 0 v
  if 2 ^ sqlog s q < idxSub p c.fetch ∨ 2 ^ 31 ≤ idxSub p c.pidx ∨ !s.en (pgQue q) then
    raise (reject s (pgQue q)) (pgQue q) 9
  else s.setQueue q { c with pidx := p }

/-- DOORBELL. -/
def execDoorbell (q : Nat) (v : W64) (s : State) : Out := whenLive s (if q < 4096 then doorbellWrite s q v else s)

/-- QUE_CCONS: waiting records are written as room comes. -/
def cconsWrite (s : State) (q : Nat) (v : W64) : State :=
  let c := s.queue q
  if 2 ^ cqlog s q < idxSub c.cprod (fld 31 0 v) then reject s (pgQue q)
  else flushRecs q c.waiting.length (s.setQueue q { c with ccons := fld 31 0 v })

/-- QUE_CCONS_WRITE. -/
def execQueCconsWrite (q : Nat) (v : W64) (s : State) : Out := whenLive s (if q < 4096 then cconsWrite s q v else s)

/-- QUE_FETCH: only while STOPPED, and not past PIDX. -/
def fetchWrite (s : State) (q : Nat) (v : W64) : State :=
  let c := s.queue q
  if s.dst (pgQue q) ≠ 2 ∨ idxSub c.pidx c.fetch < idxSub (fld 31 0 v) c.fetch then reject s (pgQue q)
  else s.setQueue q { c with fetch := fld 31 0 v }

/-- QUE_FETCH_WRITE. -/
def execQueFetchWrite (q : Nat) (v : W64) (s : State) : Out := whenLive s (if q < 4096 then fetchWrite s q v else s)

/-! ### The start of accepted descriptors (R356) -/

/-- Two descriptors act on one job, one well name or one cache-maintenance engine, or are invalidations. -/
def conflicting (d e : Desc) : Bool :=
  let well (o : Nat) : Bool := decide (0x10 ≤ o ∧ o ≤ 0x13)
  (hasJob d.opc && hasJob e.opc && decide (d.op 24 1 = e.op 24 1))
    || (well d.opc && well e.opc && decide (d.op 32 8 = e.op 32 8))
    || (decide (d.opc = 0x18 ∧ e.opc = 0x18) && decide (d.op 44 1 &&& e.op 44 1 ≠ 0))
    || decide (d.opc = 0x19 ∧ e.opc = 0x19)

/-- A descriptor that was accepted earlier and has not taken effect holds this one back. -/
def heldBack (s : State) (d : Desc) : Bool :=
  s.queues.any (fun (_, c) => c.inflight.any (fun e =>
    decide (e.ord < d.ord) && (e.stage == .accepted || e.stage == .stalled) && conflicting d e))

/-- INVAL, HINT and NOP complete normally when their queue is aborted (R366). -/
def opensOnAbort (opc : Nat) : Bool := decide (opc = 0x00 ∨ opc = 0x19 ∨ opc = 0x1F)

/-- Started, and held up by a translation. -/
def Desc.waitsXlat (d : Desc) : Bool := match d.stage with | .stalled | .writing _ => true | _ => false

/-- An accepted descriptor may start, or one that a translation held up goes on. -/
def mayStart (s : State) (q : Nat) (d : Desc) : Bool :=
  let earlier := (s.queue q).inflight.takeWhile (fun e => e.idx != d.idx)
  d.waitsXlat || d.stage == .accepted && (decide (s.dst (pgQue q) ≠ 3) || opensOnAbort d.opc) && earlier.all (fun e => e.stage != .accepted)
    && (!d.fence || (earlier.isEmpty && (s.queue q).waiting.all (fun w => w.kind != 1))) && !heldBack s d

/-- The requester of virtual memory that a descriptor's command is; it translates through C-die 0 (log entry
29). -/
def descRq (s : State) (q : Nat) (d : Desc) : Rq :=
  { port := .engine 0 7, aspace := qaspace s q, waiter := ⟨5, 2, q, d.idx⟩, rid := ridDesc q d.idx,
    work := none, exts := d.exts }

/-- A command's row: the accepted descriptor with that opcode starts. -/
def descRow (q idx opc : Nat) (body : Desc → State → State) (s : State) : Out :=
  whenLive s (match descAt s q idx with
    | none => s
    | some d =>
      if d.opc = opc ∧ mayStart s q d ∧ !inSump s (descRq s q d).waiter then body d s else s)

/-- The descriptor has started and waits for its end. -/
def startDesc (s : State) (q idx waits : Nat) : State :=
  updDesc s q idx (fun d => { d with stage := .started, waits := waits })

/-- NOP. -/
def execNop (q idx : Nat) (s : State) : Out := descRow q idx 0x00 (fun _ t => finishDesc t q idx stOk 0) s

/-- CMEOP: one request on each C-die that DIEMASK names (R356). -/
def cmeOpDesc (q idx : Nat) (d : Desc) (s : State) : State :=
  let mask := d.op 44 1
  let unit := d.op 42 2
  let x := d.op 40 1
  let ds := maskBits 8 mask
  if ds.any (fun c => !hasCdie s c) then finishDesc s q idx stNotPresent 0
  else if unit ≠ 0x3FF ∧ ds.any (fun c => !(decide (unit < 576) && inService s (c * 576 + unit))) then
    finishDesc s q idx stBadState 0
  else
    let s1 := startDesc s q idx ds.length
    ds.foldl (fun t c => cmeAsk t c ⟨x % 4, d.op 24 8, d.op 32 8, qaspace s q, unit, nbit 2 x, nbit 3 x, none,
      some (q, idx)⟩) s1

/-- The rows of CMEOP by operation. -/
def cmeOpRow (q idx op : Nat) (s : State) : Out :=
  match descAt s q idx with
  | none => .next s
  | some d => if d.op 40 1 % 4 = op then descRow q idx 0x18 (cmeOpDesc q idx) s else .next s
def execCmeopClean (q idx : Nat) (s : State) : Out := cmeOpRow q idx 1 s
def execCmeopInval (q idx : Nat) (s : State) : Out := cmeOpRow q idx 2 s
def execCmeopFlush (q idx : Nat) (s : State) : Out := cmeOpRow q idx 3 s

/-- HINT: sent to the C-dies of the job's DIEMASK, and for classes 2 and 7 to both X-dies; it completes once they
have received it (R358; spec/18_power_and_thermal.md R492). -/
def execHint (q idx : Nat) (s : State) : Out :=
  descRow q idx 0x1F (fun d t =>
    let h : PHint := ⟨d.op 24 1 % 64, d.op 25 1 % 8, d.op 32 8, d.op 40 8 % 2 ^ 48⟩
    match t.job h.job with
    | none => finishDesc t q idx stBadState 0
    | some j =>
      let ds := (maskBits 2 j.diemask).filter (hasCdie t) ++ (if h.pclass = 2 ∨ h.pclass = 7 then [3, 4] else [])
      if ds.isEmpty then finishDesc t q idx stOk 0
      else
        let t1 := startDesc t q idx ds.length
        { t1 with pwr := { t1.pwr with hintMsgs := t1.pwr.hintMsgs ++ ds.map (fun c => (c, h, q, idx)) } }) s

/-- A die takes a hint: an X-die applies it at once; a C-die at the first dispatch of its step, at once if that
was, and not at all if the step is complete (R492). -/
def hintTaken (s : State) (d : Nat) (h : PHint) : State :=
  if 3 ≤ d then hintApply s d h
  else match s.job h.job with
    | none => s
    | some j =>
      if h.step < j.s0 + j.low ∧ j.s0 ≤ h.step then s
      else if j.begun.contains (h.step, d) then hintApply s d h
      else s.setPdie d { s.pdie d with hints := (s.pdie d).hints ++ [h] }

/-- HINT_MSG: the oldest message on its way to a die arrives. -/
def execHintMsg (d : Nat) (s : State) : Out :=
  whenLive s (match s.pwr.hintMsgs.find? (fun m => m.1 == d) with
    | none => s
    | some (_, h, q, idx) =>
      let s1 := { s with pwr := { s.pwr with hintMsgs := dropFirst (fun m => m.1 == d) s.pwr.hintMsgs } }
      let s2 := hintTaken s1 d h
      match descAt s2 q idx with
      | none => s2
      | some x => if x.opc = 0x1F ∧ x.stage = .started then descRequestDone s2 q idx 0 else s2)

end Sys2Proof.Machine
end

