-- ==== Sys2Proof/Machine/Units.lean ====
section
/-! DEFINITION. Work items on compute units: queues and journals, placement, failing and re-queuing
(spec/04_compute_units.md R96 to R127; spec/03_stations_and_streams.md R79, R80). A queued item has no running-item
slot; the journal and its mirror are the live items themselves. -/

namespace Sys2Proof.Machine

/-! ### Items of a unit -/

/-- The items of a unit that wait in its queue, and those that run. -/
def queuedOn (s : State) (u : Nat) : List (Nat × Item) := (unitItems s u).filter (fun p => p.2.islot.isNone)
def runningOn (s : State) (u : Nat) : List (Nat × Item) := (unitItems s u).filter (fun p => p.2.islot.isSome)

/-- Journal depth (R103). -/
def jdepth (s : State) (u : Nat) : Nat := 64 * 2 ^ s.regF (uCu u) 0x108 9 8

/-- The unit has a free journal entry. -/
def jroom (s : State) (u : Nat) : Bool := decide ((unitItems s u).length < jdepth s u)

/-- The unit is in service and RUNNING, with a free entry (R111). -/
def canPlace (s : State) (u : Nat) : Bool :=
  inService s u && !(s.cu u).failed && s.accepts (uCu u) && !unitHalting s u && jroom s u && awake s

/-- a is an earlier dispatch than b (R120). -/
def jEarlier (a b : Nat) : Bool := decide (1 ≤ (b + 2 ^ 64 - a) % 2 ^ 64 ∧ (b + 2 ^ 64 - a) % 2 ^ 64 < 2 ^ 63)

/-- The order in which a unit takes queued items (R113): lowest STEP, then earliest JSEQ. -/
def takenBefore (a b : Nat × Item) : Bool :=
  decide (a.2.step < b.2.step) || (decide (a.2.step = b.2.step) && jEarlier a.2.jseq b.2.jseq)

/-- The item taken first; the item taken last. -/
def takenFirst (l : List (Nat × Item)) : Option (Nat × Item) :=
  l.foldl (fun best x => match best with
    | none => some x
    | some b => if takenBefore x b then some x else some b) none
def takenLast (l : List (Nat × Item)) : Option (Nat × Item) :=
  l.foldl (fun best x => match best with
    | none => some x
    | some b => if takenBefore b x then some x else some b) none

/-- Groups, registers a thread and frame of an item (R187). -/
def itemFoot (s : State) (it : Item) : Nat × Nat × Nat :=
  match (s.job it.job).bind (fun j => j.stn it.sid) with
  | none => (0, 0, 0)
  | some st =>
    let prog := programOf s it
    match it.kind with
    | 0x01 => (1, 32, 0)
    | 0x02 => (par st.df 0 1, 32 * 2 ^ (fieldAt prog 3 1 % 4), fieldAt prog 4 2)
    | 0x03 => (4, 64, 0)
    | 0x04 => (1, 32, 0)
    | _ => (0, 0, 0)

/-- The group unit has room for g groups of r registers a thread (R186). -/
def groupRoom (s : State) (u g r : Nat) : Bool :=
  let rs := residents s u
  decide (rs.length + g ≤ 64 ∧ (rs.map (fun p => p.2.regs)).foldl (· + ·) 0 + g * r ≤ 2048)

/-- The unit could start the item (R96, R113, R186). -/
def couldStart (s : State) (u : Nat) (it : Item) : Bool :=
  let run := runningOn s u
  let (g, r, _) := itemFoot s it
  decide (run.length < 4) && run.all (fun p => p.2.lsSteps == it.lsSteps) && groupRoom s u g r

/-! ### Sites (R97, R115) -/

/-- Distance of two sites of a die. -/
def siteDist (a b : Nat) : Nat :=
  let d (x y : Nat) : Nat := (x - y) + (y - x)
  d (a / 24) (b / 24) + d (a % 24) (b % 24)

/-- The sites at a distance, clockwise from the one above; those off the die are left out. -/
def ring (site d : Nat) : List Nat :=
  let r : Int := (site / 24 : Nat)
  let c : Int := (site % 24 : Nat)
  let at_ (dr dc : Int) : Option Nat :=
    if 0 ≤ r + dr ∧ r + dr < 24 ∧ 0 ≤ c + dc ∧ c + dc < 24 then some ((r + dr).toNat * 24 + (c + dc).toNat) else none
  (List.range d).filterMap (fun (k : Nat) => at_ ((k : Int) - d) k)
    ++ (List.range d).filterMap (fun (k : Nat) => at_ k ((d : Int) - k))
    ++ (List.range d).filterMap (fun (k : Nat) => at_ ((d : Int) - k) (-(k : Int)))
    ++ (List.range d).filterMap (fun (k : Nat) => at_ (-(k : Int)) ((k : Int) - d))

/-- The units in service of a near round, in its order. -/
def nearUnits (s : State) (u : Nat) : List Nat :=
  ((ring (uSite u) 1 ++ ring (uSite u) 2 ++ ring (uSite u) 3).map (fun x => uDie u * 576 + x)).filter (inService s)

/-- Units by ascending distance from a site, ties by site number. -/
def byDistance (u : Nat) (l : List Nat) : List Nat :=
  l.mergeSort (fun a b => decide (siteDist (uSite u) (uSite a) < siteDist (uSite u) (uSite b))
    || decide (siteDist (uSite u) (uSite a) = siteDist (uSite u) (uSite b) ∧ uSite a ≤ uSite b))

/-! ### Placement (R110, R111) -/

/-- The home set of a station on a die: units by their positions. -/
def homeSet (s : State) (d sid cuMax dies : Nat) : List Nat :=
  let us := dieUnits s d
  let n := us.length
  let h := if cuMax = 0 then n else min n (ceilDiv cuMax dies)
  (List.range h).filterMap (fun j => us[(17 * sid + j) % n]?)

/-- The unit on which an item is placed, if one qualifies, and its home unit. -/
def placeOn (s : State) (d sid cuMax dies item : Nat) : Option Nat :=
  let hs := homeSet s d sid cuMax dies
  if hs.isEmpty then none
  else
    let k := item / dies % hs.length
    let order := hs.drop k ++ hs.take k
    match order.find? (canPlace s) with
    | some u => some u
    | none => (byDistance (order.headD 0) (dieUnits s d)).find? (canPlace s)

/-! ### An item leaves its unit -/

/-- What an item holds on its unit is given up: groups and registers, engine operations, the slab, loads. -/
def leaveUnit (s : State) (u n : Nat) : State :=
  let hs := (itemGroups s u n).map Prod.fst
  let s1 := hs.foldl (fun t h => (clearRegs t u h).setGrp u h none) s
  let c := s1.cu u
  let slab := match c.slab with
    | some (i, a, f) => if i = n then none else some (i, a, f)
    | none => none
  let s2 := s1.setCu u { c with
    mxq := c.mxq.filter (fun o => o.item != n), slab := slab,
    loads := c.loads.filter (fun l => !hs.contains l.group) }
  { s2 with dbg := { s2.dbg with steps := s2.dbg.steps.filter (fun k => !(hs.map (gKey u)).contains k) } }

/-- Packets of an item that are not numbered yet are dropped. -/
def dropPackets (s : State) (n : Nat) : State :=
  (s.fab.flows.filterMap (fun p => p.2.map (fun f => (p.1, f)))).foldl (fun t (k, f) =>
    if f.outq.any (fun p => p.src == .tile n) then
      t.setFlow k { f with outq := f.outq.filter (fun p => p.src != .tile n) }
    else t) s

/-- The item is live no more. -/
def dropItem (s : State) (n : Nat) : State :=
  match s.item n with
  | none => s
  | some it =>
    let s1 := if onUnit it.kind && it.islot.isSome then leaveUnit s (it.die * 576 + it.owner) n else s
    let s2 := dropFetched (withdraw (dropPackets s1 n) (fun w => w.ofItem n)) (ridItem n)
    s2.setItem n none

/-! ### Outputs of an item -/

/-- The output conduits of a station: position and number. -/
def StnDef.outList (d : StnDef) : List (Nat × Nat) :=
  (d.outs.zipIdx).filterMap (fun (c, i) => c.map (fun x => (i, x)))

/-- Change the conduits of a job at the output ordinals of an item. -/
def Job.overOutputs (j : Job) (d : StnDef) (step : Nat) (ords : List Nat) (f : Cnd → Nat → Cnd) : Job :=
  d.outList.foldl (fun jj (_, cid) => match jj.cnd cid with
    | none => jj
    | some c =>
      let t := c.df.trows * c.df.tcols
      jj.setCnd cid (ords.foldl (fun cc o => f cc ((step - j.s0) * t + o)) c)) j

/-- The reserved slots of an item are released without publishing (R80). -/
def unreserveItem (s : State) (it : Item) : State :=
  match s.job it.job with
  | none => s
  | some j => match j.stn it.sid with
    | none => s
    | some st => s.setJob it.job (some (j.overOutputs st.df it.step it.ords Cnd.unreserve))

/-! ### Jobs that fault -/

/-- A job moves to FAULTED; the first fault writes one FAULT record that names a station and step (R80, R475), and
the GRP_FAULT cause where the status is GRPFAULT (spec/13_queues.md R359). -/
def faultJob (s : State) (jn sid step status detail : Nat) : State :=
  match s.job jn with
  | none => s
  | some j =>
    if j.jstate = 5 ∨ j.jstate = 0 ∨ j.jstate = 4 then s
    else
      let s1 := s.setJob jn (some { j with jstate := 5, fsid := some (j.fsid.getD sid) })
      postRec s1 j.queue { kind := 4, status := status, detail := detail, value := step, sid := sid, job := jn }

/-- The ITEM record of an item. -/
def itemRecord (s : State) (it : Item) (status detail tag : Nat) : State :=
  match s.job it.job with
  | none => s
  | some j => postRec s j.queue { kind := 2, status := status, detail := detail, tag := tag, value := it.step,
                                  sid := it.sid, job := it.job, ord := it.ord0 }

/-- A job's tags are VALID no more: the tags of every published tile (R92). -/
def clearTags (s : State) (r : Rq) (j : Job) : State :=
  (j.cnds.zipIdx).foldl (fun t (c, cid) =>
    c.pubs.foldl (fun t1 o =>
      let a := j.tagVa cid c o + 15
      match rqRead t1 r a 1 with
      | (some (b, _), t2) => (rqWrite t2 r a (leBytes 1 (leNat b / 2 * 2))).2
      | (none, t2) => t2) t) s

/-- The requester of a job's own tag writes outside an item: the queue engine (log entry 29). -/
def jobRq (s : State) (jn : Nat) : Rq :=
  let a := ((s.job jn).map (·.aspace)).getD 0
  let q := ((s.job jn).map (·.queue)).getD 0
  { port := .engine 0 7, aspace := a, waiter := ⟨5, 2, q, 2 ^ 32 + jn⟩, rid := 4 * jn + 2, work := none, exts := [] }

/-- Every conduit of a job is flushed: tags VALID = 0, reservations dropped, windows cleared (R92). -/
def flushConduits (s : State) (jn : Nat) : State :=
  match s.job jn with
  | none => s
  | some j =>
    let s1 := clearTags s (jobRq s jn) j
    s1.setJob jn (some { j with cnds := j.cnds.map Cnd.flush })

/-- A regeneration ends: the job is LOADED again, its conduits flushed, and REGEN completes (R451). -/
def endRegen (s : State) (jn status value : Nat) : State :=
  match s.job jn with
  | none => s
  | some j => match j.regen with
    | none => s
    | some r =>
      let ns := (s.liveItems.filter (fun p => p.2.job == jn)).map Prod.fst
      let s1 := flushConduits (ns.foldl dropItem s) jn
      let s2 := match s1.job jn with
        | none => s1
        | some j1 =>
          let idle (x : Stn) : Stn := { x with dst := 0, fault := false, done := [], pin := none }
          let j2 := { j1 with jstate := 0, regen := none, admitted := 0, low := 0, begun := [] }
          s1.setJob jn (some { j2 with dets := [], digs := [], stns := j1.stns.map idle })
      match descAt s2 r.q r.idx with
      | none => s2
      | some _ => finishDesc s2 r.q r.idx status value

/-- An item ends in error (R80). -/
def failItem (s : State) (n status detail tag : Nat) : State :=
  match s.item n with
  | none => s
  | some it =>
    let s1 := itemRecord s it status detail tag
    let s2 := dropItem (unreserveItem s1 it) n
    match s2.job it.job with
    | none => s2
    | some j =>
      if j.regen.isSome then endRegen s2 it.job status 0
      else
        let s3 := match j.stn it.sid with
          | none => s2
          | some st => s2.setJob it.job (some (j.setStn it.sid { st with dst := if st.dst = 0 then 1 else st.dst, fault := true }))
        faultJob s3 it.job it.sid it.step status detail

/-- An item is aborted (R62, R91, R127): an ABORTED record, its outputs unpublished. -/
def abortItem (s : State) (n : Nat) : State :=
  match s.item n with
  | none => s
  | some it => dropItem (unreserveItem (itemRecord s it stAborted 0 0) it) n

/-! ### Re-queuing (R125) -/

/-- The item as it starts from its first beat on another unit (R124): what its first attempt did is forgotten,
but for remote atomics already sent, which are not sent again. -/
def Item.restarted (it : Item) (site : Nat) : Item :=
  { it with owner := site, islot := none, tagsOk := false, issued := 0, wrote := [], computed := [], log := [], err := none }

/-- An entry is re-queued on a unit. -/
def requeueOn (s : State) (n v : Nat) (it : Item) : State :=
  let s1 := dropFetched (withdraw s (fun w => w.ofItem n)) (ridItem n)
  let s2 := s1.setItem n (some (it.restarted (uSite v)))
  countEv (s2.setCu v { s2.cu v with steal := 0 }) (uCu v) 4 1

/-- The order in which units receive entries of a unit: its near round, then the others by distance. -/
def dealOrder (s : State) (u : Nat) : List Nat :=
  let near := nearUnits s u
  near ++ (byDistance u (dieUnits s (uDie u))).filter (fun v => v != u && !near.contains v)

/-- Deal entries over a rotation of units: each goes to the next unit that can take it. The list gives the units
still to be tried in order. -/
def dealOne (s : State) (order : List Nat) (n : Nat) : Option (State × List Nat) :=
  match order.find? (canPlace s) with
  | none => none
  | some v =>
    let k := order.findIdx (· == v)
    match s.item n with
    | none => some (s, order)
    | some it => some (requeueOn s n v it, order.drop (k + 1) ++ order.take (k + 1))

/-- Entries of a unit that no unit of its die can take: another C-die that the station names, or the job faults
(R126); while units are in service but full, the entry waits where it is. -/
def dealAway (s : State) (u n : Nat) : State :=
  match s.item n with
  | none => s
  | some it =>
    let placeC := (((s.job it.job).bind (fun j => j.stn it.sid)).map (fun st => st.df.placeC)).getD 0
    let other := 1 - uDie u
    if !((dieUnits s (uDie u)).filter (· != u)).isEmpty then s
    else if nbit other placeC && hasCdie s other && !(dieUnits s other).isEmpty then
      match (dieUnits s other).find? (canPlace s) with
      | some v => requeueOn (s.setItem n (some { it with die := other })) n v { it with die := other }
      | none => s
    else
      faultJob (dropItem (unreserveItem s it) n) it.job it.sid it.step stMemErr 0

/-- Deal entries, given in ascending JSEQ. -/
def dealAll (s : State) (u : Nat) : List Nat → List Nat → State
  | _, [] => s
  | order, n :: rest =>
    match dealOne s order n with
    | some (t, order') => dealAll t u order' rest
    | none => dealAll (dealAway s u n) u order rest

/-- Items in ascending JSEQ. -/
def inJseq (l : List (Nat × Item)) : List Nat :=
  (l.mergeSort (fun a b => a.2.jseq == b.2.jseq || jEarlier a.2.jseq b.2.jseq)).map Prod.fst

/-- Every queued entry of a unit is dealt out (R127). -/
def dealQueued (s : State) (u : Nat) : State := dealAll s u (dealOrder s u) (inJseq (queuedOn s u))

end Sys2Proof.Machine
end

