-- ==== Sys2Proof/Machine/CuWork.lean ====
section
/-! DEFINITION. What compute units do with their items: starting, stealing, rates, retirement, spares, heartbeats
(spec/04_compute_units.md R96, R101 to R106, R109, R113 to R117, R125 to R127;
spec/17_faults_and_replay.md R469, R470, R474). -/

namespace Sys2Proof.Machine

/-! ### Starting an item (R113, R171, R174, R206, R216) -/

/-- The requester that an item's mover is: its tags and its tiles. -/
def moverRq (s : State) (u n : Nat) (it : Item) : Rq :=
  { port := .mover u, aspace := itemSpace s it, waiter := itemWaiter 1 (uDie u) (uSite u) n, rid := ridItem n,
    work := some (it.job, it.sid, it.step), exts := [] }

/-- One conduit's part of the context block. -/
def ctxConduit (j : Job) (c : Option Nat) : List Byte :=
  match c with
  | none => leBytes 24 0
  | some cid => match j.cnd cid with
    | none => leBytes 24 0
    | some x => leBytes 8 (j.cndBase cid) ++ leBytes 4 (slotBytes x.df.fmt) ++ leBytes 2 x.df.trows ++ leBytes 2 x.df.tcols
        ++ leBytes 1 x.df.fmt ++ leBytes 1 x.df.depth.log2 ++ leBytes 6 0

/-- The context block of an item (R174). -/
def ctxBlock (j : Job) (d : StnDef) (it : Item) : List Byte :=
  let args := if d.kind = 2 then (d.param.drop 8).take 56 else []
  let body := it.bytes ++ (args ++ leBytes 56 0).take 56 ++ leBytes 8 j.s0
    ++ ((d.ins ++ d.outs).flatMap (ctxConduit j))
  (body ++ leBytes 512 0).take 512

/-- The lowest free resident numbers. -/
def freeResidents (s : State) (u n : Nat) : List Nat :=
  ((List.range 64).filter (fun h => (s.grp u h).isNone)).take n

/-- The groups of an item take their places (R171). -/
def startGroups (s : State) (u n g regs : Nat) : State :=
  ((freeResidents s u g).zipIdx).foldl (fun t (h, i) =>
    (clearRegs t u h).setGrp u h (some ⟨n, i, regs, 0, 0xFFFFFFFF, 0xFFFFFFFF, [], 0, false, .none⟩)) s

/-- The read set of an item as (conduit, ordinal, row, column). -/
def readOrds (j : Job) (d : StnDef) (it : Item) : List (Nat × Nat × Nat × Nat) :=
  (readSet j d it.ords).filterMap (fun (cid, r, c) => (j.cnd cid).map (fun x => (cid, x.ordinal j.s0 it.step r c, r, c)))

/-- Lines of the unit's cache that lie in a virtual range are invalidated, page by page: fuel bounds the pages. -/
def dropVirtual (u aspace : Nat) : Nat → State → Nat → Nat → State
  | 0, s, _, _ => s
  | f + 1, s, va, n =>
    if n = 0 then s
    else
      let k := min (4096 - va % 4096) n
      let (w, s1) := unitXlat s u aspace va 1 .rd
      let s2 := match w with
        | .pa a => ccDropRange s1 u a k
        | _ => s1
      dropVirtual u aspace f s2 (va + k) (n - k)

/-- The slots of the read set are invalidated in the unit's cache (R216). -/
def dropReadSlots (s : State) (u : Nat) (j : Job) (d : StnDef) (it : Item) : State :=
  (readOrds j d it).foldl (fun t (cid, o, _, _) => match j.cnd cid with
    | none => t
    | some x => dropVirtual u j.aspace (slotBytes x.df.fmt / 4096 + 2) t (j.slotVa cid x o) (slotBytes x.df.fmt)) s

/-- The tag of a tile of the read set among those read. -/
def tagAt (l : List (Nat × Nat × Nat × Nat)) (tags : List (List Byte)) (cid r c : Nat) : Tag :=
  match (l.zip tags).find? (fun p => p.1.1 == cid && p.1.2.2.1 == r && p.1.2.2.2 == c) with
  | some (_, b) => tagOf b
  | none => tagOf []

/-- Edge shapes of MATRIX agree (R77): a resident B never fails. -/
def shapesOk (j : Job) (d : StnDef) (it : Item) (l : List (Nat × Nat × Nat × Nat)) (tags : List (List Byte)) : Bool :=
  match d.ins.getD 0 none, d.ins.getD 1 none with
  | some a, some b =>
    let cols := (gridOf j d).2
    it.ords.all (fun o => (List.range (par d 0xC 2)).all (fun k =>
      (tagAt l tags a (o / cols) k).cols == (tagAt l tags b k (o % cols)).rows))
  | _, _ => true

/-- The consumer's checks of the input tags (R73, R77, R79): none while the requester waits. -/
def checkTags (s : State) (r : Rq) (j : Job) (d : StnDef) (it : Item) : Option (Option Nat) × State :=
  let l := readOrds j d it
  let rs := l.map (fun (cid, o, _, _) => match j.cnd cid with
    | some x => (j.tagVa cid x o, 32)
    | none => (0, 0))
  match rqReads r rs s with
  | (none, s1) => (none, s1)
  | (some (tags, poison), s1) =>
    let fits := (l.zip tags).all (fun ((cid, _, rr, c), b) =>
      tagFits b it.step rr c (((j.cnd cid).map (fun x => x.df.fmt)).getD 0) cid)
    (some (if poison then some stMemErr else if !fits then some stTagErr
      else if d.kind = 1 ∧ !shapesOk j d it l tags then some stShape else none), s1)

/-! ### The operations of a MATRIX item (R149) -/

/-- Local-store bytes that n tile rows touch over kb blocks, with the context block. -/
def matrixNeed (j : Job) (d : StnDef) (n kb : Nat) : Nat :=
  let f (c : Option Nat) : Nat := match c.bind j.cnd with | some x => slotBytes x.df.fmt | none => 0
  let sa := f (d.ins.getD 0 none)
  let sb := match d.ins.getD 1 none with | some c => f (some c) | none => slotBytes (par d 8 1)
  512 + n * kb * sa + kb * sb + n * (f (d.ins.getD 2 none) + f (d.outs.getD 0 none)) + 64 * n * 256 * levels (par d 0xC 2)

/-- Cut a column's rows into runs of at most n: fuel bounds them. -/
def cutRuns (n : Nat) : Nat → List Nat → List (Nat × Nat)
  | 0, _ => []
  | f + 1, l => match l with
    | [] => []
    | r :: _ => (r, (l.take n).length) :: cutRuns n f (l.drop n)

/-- The operations of an item in order. -/
def matrixOps (j : Job) (d : StnDef) (it : Item) : List MxSrc :=
  let kt := par d 0xC 2
  let slot := it.lsSteps * 131072
  let cols := (gridOf j d).2
  let n := ((List.range 5).filter (fun k => decide (k ≠ 0 ∧ matrixNeed j d k kt ≤ slot))).getLastD 0
  let kb := if n ≠ 0 then kt else ((List.range 257).filter (fun k => decide (k ≠ 0 ∧ matrixNeed j d 1 k ≤ slot))).getLastD 1
  (List.range cols).flatMap (fun c =>
    let rows := (it.ords.filter (fun o => o % cols == c)).map (· / cols)
    (cutRuns (max n 1) rows.length rows).flatMap (fun (r, m) =>
      (List.range (ceilDiv kt kb)).map (fun i => MxSrc.dev c r m (i * kb) (min kb (kt - i * kb)))))

/-- The device's program issues operations of a MATRIX item while the group and the engine queue have room
(R144, R149): fuel bounds them. -/
def feedMatrix : Nat → State → Nat → Nat → State
  | 0, s, _, _ => s
  | f + 1, s, u, n =>
    match s.item n with
    | none => s
    | some it =>
      match s.job it.job with
      | none => s
      | some j => match j.stn it.sid with
        | none => s
        | some st =>
          let c := s.cu u
          let h := ((itemGroups s u n).head?.map Prod.fst).getD 0
          if it.kind ≠ 1 ∨ unitHalting s u ∨ !it.tagsOk ∨ it.err ≠ none ∨ 16 ≤ opsOf c n h ∨ 32 ≤ c.mxq.length then s
          else match (matrixOps j st.df it)[it.issued]? with
            | none => s
            | some op =>
              let s1 := s.setCu u { c with mxq := c.mxq ++ [⟨n, h, op, false⟩] }
              feedMatrix f (s1.setItem n (some { it with issued := it.issued + 1 })) u n

/-- Feed every MATRIX item of a unit. -/
def feedAll (s : State) (u : Nat) : State := (runningOn s u).foldl (fun t p => feedMatrix 16 t u p.1) s

/-- The checks of a started item's tags; it then runs, or ends in error. -/
def startChecks (s : State) (u n : Nat) (it : Item) : State :=
  match s.job it.job with
  | none => s
  | some j => match j.stn it.sid with
    | none => s
    | some st =>
      match checkTags s (moverRq s u n it) j st.df it with
      | (none, s1) => s1
      | (some e, s1) =>
        let s2 := s1.setItem n (some { it with tagsOk := e.isNone, err := e.map (fun x => (x, 0, 0)) })
        if e.isSome then s2 else feedAll s2 u

/-- A queued item starts. -/
def beginItem (s : State) (u n : Nat) (it : Item) : State :=
  if armedAt s (uCu u) 8 then unitError (disarm s (uCu u) 8) u (uCu u) 8 true (some (it.job, it.step))
  else if armedAt s (uCu u) 11 then unitError (disarm s (uCu u) 11) u (uCu u) 11 true (some (it.job, it.step))
  else
    match s.job it.job with
    | none => s
    | some j => match j.stn it.sid with
      | none => s
      | some st =>
        let s1 := if (runningOn s u).isEmpty then takeSplit s u it.lsSteps else s
        let slots := (runningOn s u).filterMap (fun p => p.2.islot)
        let k := ((List.range 4).find? (fun i => !slots.contains i)).getD 0
        let it1 := { it with islot := some k }
        let s2 := (s1.setItem n (some it1)).setCu u { s1.cu u with steal := 0 }
        let (g, regs, _) := itemFoot s it
        let s3 := if cuHosted it.kind then
            startGroups (lsPuts (lsClear s2 u (slotBase it1) (slotSize it1)) u (slotBase it1) (ctxBlock j st.df it1)) u n g regs
          else s2
        let s4 := countEv (dropReadSlots s3 u j st.df it1) (uCu u) 1 1
        startChecks s4 u n it1

/-- CU_ITEM_START: a unit checks the tags of an item that waited for that, or starts the queued item that it takes
first among those it can start. -/
def execCuItemStart (u : Nat) (s : State) : Out :=
  whenLive s (if !advances s u then s
    else
      let due (p : Nat × Item) : Bool := !p.2.tagsOk && p.2.err == none && !itemWaits s p.1
      match (runningOn s u).find? due with
      | some (n, it) => startChecks s u n it
      | none =>
        if !s.accepts (uCu u) || unitHalting s u then s
        else match takenFirst ((queuedOn s u).filter (fun p => couldStart s u p.2)) with
          | some (n, it) => beginItem s u n it
          | none => s)

/-! ### Stealing (R114 to R117, R121, R122) -/

/-- STEAL_EN, FAR_EN, STEAL_MIN and FAR_MIN of CU_CFG. -/
def stealEn (s : State) (u : Nat) : Bool := bit 0 (s.reg (regAddr (uCu u) 0x108))
def farEn (s : State) (u : Nat) : Bool := bit 1 (s.reg (regAddr (uCu u) 0x108))
def stealMin (s : State) (u : Nat) : Nat := s.regF (uCu u) 0x108 15 12
def farMin (s : State) (u : Nat) : Nat := s.regF (uCu u) 0x108 19 16

/-- The unit is idle (R114), and its journal has room for a stolen entry (R115). -/
def isIdle (s : State) (u : Nat) : Bool :=
  advances s u && s.accepts (uCu u) && !unitHalting s u && (queuedOn s u).all (fun p => !couldStart s u p.2)
    && decide ((runningOn s u).length < 4) && groupRoom s u 1 32 && jroom s u

/-- A victim that is not RUNNING, halting, or being retired, exempts its items (R117). -/
def exempt (s : State) (v : Nat) : Bool := decide (s.dst (uCu v) ≠ 0) || unitHalting s v || (s.cu v).failed

/-- What a thief takes from a victim that must hold a least number of queued items. -/
def stealFrom (s : State) (u v least : Nat) : Option (Nat × Item) :=
  let q := queuedOn s v
  if !exempt s v && decide (q.length < least) then none
  else takenLast (q.filter (fun p => (exempt s v || decide (p.2.steals < 4)) && couldStart s u p.2))

/-- The entry passes to the thief (R121, R122); an injected parity error of the victim's entry fires. -/
def steal (s : State) (u v n : Nat) (it : Item) : State :=
  let s0 := if armedAt s (uCu v) 11 then unitError (disarm s (uCu v) 11) v (uCu v) 11 true (some (it.job, it.step)) else s
  let s1 := s0.setItem n (some { it with owner := uSite u, steals := min 4 (it.steals + 1) })
  countEv (s1.setCu u { s1.cu u with steal := 0 }) (uCu u) 2 1

/-- Probe victims in order: each probe that finds nothing is counted; the first that succeeds ends the round. -/
def probe (u least : Nat) : List Nat → State → Bool × State
  | [], s => (false, s)
  | v :: vs, s =>
    match stealFrom s u v least with
    | some (n, it) => (true, steal s u v n it)
    | none => probe u least vs (countEv s (uCu u) 3 1)

/-- CU_NEAR_ROUND. -/
def execCuNearRound (u : Nat) (s : State) : Out :=
  whenLive s (if !isIdle s u || !stealEn s u || decide ((s.cu u).steal ≠ 0) then s
    else
      let (won, s1) := probe u (stealMin s u) (nearUnits s u) s
      if won then s1 else s1.setCu u { s1.cu u with steal := if farEn s u then 1 else 2 })

/-- The victim that the load summary gives (R116): the highest number of queued items, the lowest site. -/
def farVictim (s : State) (u : Nat) : Option Nat :=
  let ok (v : Nat) : Bool := v != u && decide (3 < siteDist (uSite u) (uSite v))
    && decide ((if exempt s v then 1 else farMin s u) ≤ (queuedOn s v).length)
  ((dieUnits s (uDie u)).filter ok).foldl (fun best v => match best with
    | none => some v
    | some b => if (queuedOn s b).length < (queuedOn s v).length then some v else some b) none

/-- CU_FAR_ATTEMPT. -/
def execCuFarAttempt (u : Nat) (s : State) : Out :=
  whenLive s (if !isIdle s u || !stealEn s u || !farEn s u || decide ((s.cu u).steal ≠ 1) then s
    else
      let (won, s1) := match farVictim s u with
        | some v => probe u (farMin s u) [v] s
        | none => (false, s)
      if won then s1 else s1.setCu u { s1.cu u with steal := 2 })

/-- CU_STEAL_WAIT_EXPIRE: 256 beats have passed. -/
def execCuStealWaitExpire (u : Nat) (s : State) : Out :=
  whenLive s (if advances s u ∧ (s.cu u).steal = 2 then s.setCu u { s.cu u with steal := 0 } else s)

/-! ### Rates and supplies (R100 to R102) -/

/-- CU_RATE_WINDOW: a window of 1,024 reference cycles ends in which the unit advanced a number of beats, which its
RATE_MAX bounds; VALID becomes 1 once the window was full. -/
def execCuRateWindow (u beats : Nat) (s : State) : Out :=
  whenLive s (if !inService s u || decide (s.regF (uCu u) 0x100 39 32 * 1024 < beats * 10) then s
    else
      let a := regAddr (uCu u) 0x118
      let c := s.cu u
      let valid := bit 16 (s.reg a) || !c.late
      let s1 := s.setReg a (BitVec.ofNat 64 (valid.toNat * 65536 + beats % 65536))
      if c.late then s1.setCu u { c with late := false } else s1)

/-- CU_SUPPLY_LOW and CU_SUPPLY_RESTORE: the unit's supply, in mV. -/
def execCuSupplyLow (u mv : Nat) (s : State) : Out :=
  whenLive s (if siteHere s u ∧ mv < 580 then s.setCu u { s.cu u with held := true } else s)
def execCuSupplyRestore (u mv : Nat) (s : State) : Out :=
  whenLive s (if siteHere s u ∧ 600 < mv then s.setCu u { s.cu u with held := false } else s)

/-! ### Site counts, spares (R105, R106, R125) -/

/-- Sites of a die in a state. -/
def sitesIn (s : State) (d st : Nat) : List Nat :=
  ((List.range 576).map (fun i => d * 576 + i)).filter (fun u => siteHere s u && decide (sstate s u = st))

/-- CU_EN of a die (R5). -/
def cuEn (s : State) (d : Nat) : Nat :=
  nfld (if d = 0 then 11 else 23) (if d = 0 then 0 else 12) s.fuses.variant.cap1

/-- DIE_CUCFG.RESERVE; the count that the die keeps in service (R106). -/
def reserve (s : State) (d : Nat) : Nat := s.regF (pgDie d) 0x118 5 0
def serviceTarget (s : State) (d : Nat) : Nat :=
  min (cuEn s d - reserve s d) ((sitesIn s d 1).length + (sitesIn s d 0).length)

/-- Set SSTATE and RCAUSE of a site. -/
def setSite (s : State) (u st cause : Nat) : State := (s.setRegF (uCu u) 0x100 25 24 st).setRegF (uCu u) 0x100 23 16 cause

/-- Spare sites not under test. -/
def freeSpares (s : State) (d : Nat) : List Nat := (sitesIn s d 0).filter (fun u => (s.cu u).testing.isNone)

/-- Start the self-test of a spare if the die is below its target: the nearest to a retired site, or the lowest
site. Sites already under test count toward the target. -/
def startSpare (s : State) (d : Nat) (centre : Option Nat) : State :=
  let inTest := (sitesIn s d 0).length - (freeSpares s d).length
  if serviceTarget s d ≤ (sitesIn s d 1).length + inTest then s
  else
    let order := match centre with
      | some u => byDistance u (freeSpares s d)
      | none => freeSpares s d
    match order.head? with
    | none => s
    | some v => s.setCu v { s.cu v with testing := some (centre.map uSite) }

/-- Start as many self-tests as the target asks for. -/
def startSpares : Nat → State → Nat → State
  | 0, s, _ => s
  | n + 1, s, d => startSpares n (startSpare s d none) d

/-- A unit with no journal entry moves to SPARE. -/
def toSpare (s : State) (u : Nat) : State := (setSite s u 0 0).setCu u CuSt.reset

/-- A write of DIE_CUCFG (R106). -/
def cucfgWrite (s : State) (d : Nat) (v : W64) : State :=
  let page := pgDie d
  let r := fld 5 0 v
  if 32 < r ∨ s.jobs ≠ [] then reject s page
  else
    let s1 := s.setRegF page 0x118 5 0 r
    let extra := (sitesIn s1 d 1).length - serviceTarget s1 d
    let out := (((sitesIn s1 d 1).filter (fun u => (unitItems s1 u).isEmpty)).reverse).take extra
    startSpares 32 (out.foldl toSpare s1) d

/-- DIE_CUCFG_WRITE. -/
def execDieCucfgWrite (d : Nat) (v : W64) (s : State) : Out := whenLive s (if hasCdie s d then cucfgWrite s d v else s)

/-- SPARE_SELFTEST_DONE: the site enters service, or is retired and the next spare is tried (R125). -/
def execSpareSelftestDone (u : Nat) (pass : Bool) (s : State) : Out :=
  whenLive s (match (s.cu u).testing with
    | none => s
    | some centre =>
      if !siteHere s u || decide (sstate s u ≠ 0) then s
      else if pass then (setSite s u 1 0).setCu u { CuSt.reset with late := true }
      else
        let s1 := (setSite s u 2 3).setCu u CuSt.reset
        startSpare s1 (uDie u) (centre.map (fun c => uDie u * 576 + c)))

/-! ### Retirement (R123, R125, R126, R217, R470, R474) -/

/-- A running item stops and becomes queued; after a hardware fault its ATTEMPT rises, and an item that restarted
three times ends with MEMERR. -/
def stopRunning (s : State) (u n : Nat) (it : Item) (fault : Bool) : State :=
  if fault && decide (3 ≤ it.attempt) then failItem s n stMemErr 0 0
  else
    let s1 := dropFetched (withdraw (leaveUnit s u n) (fun w => w.ofItem n)) (ridItem n)
    s1.setItem n (some { it.restarted it.owner with attempt := it.attempt + (if fault then 1 else 0) })

/-- Both copies of the entries of a unit are lost: its buddy failed too (R126). -/
def losePair (s : State) (u : Nat) : State :=
  (unitItems s u).foldl (fun t (n, it) => faultJob (dropItem (unreserveItem t it) n) it.job it.sid it.step stMemErr 0) s

/-- A halt of a unit ends when the unit is retired (spec/20_counters_and_debug.md R534). -/
def unhalt (s : State) (u : Nat) : State :=
  if !unitHalting s u then s
  else if uDie u = 0 then { s with dbg := { s.dbg with halt0 := none, insp0 := none } }
  else { s with dbg := { s.dbg with halt1 := none, insp1 := none } }

/-- Retire a stopped unit: steps 1 to 7 of R125. With NORETIRE it stays in service (R482). While other units have no
free entry for its items, it stays stopped with them, and a later event goes on. -/
def retire (s : State) (u : Nat) : State :=
  let c := s.cu u
  let s0 := if armedAt s (uCu u) 11 then raiseWith (disarm s (uCu u) 11) (uCu u) 11 ⟨none, uSite u, none, true⟩ else s
  let s1 := ccRelease (if c.keep then s0 else unhalt s0 u) u
  let lost := decide (c.rcause = 2) && (match buddy s u with
    | some b => downByFault s b
    | none => false)
  let s2 := if lost then losePair s1 u
    else (runningOn s1 u).foldl (fun t p => stopRunning t u p.1 p.2 (decide (c.rcause = 2))) s1
  let s3 := dealQueued s2 u
  if !(unitItems s3 u).isEmpty then s3
  else if c.keep then s3.setCu u { s3.cu u with failed := false, keep := false, rcause := 0 }
  else startSpare ((setSite s3 u 2 c.rcause).setCu u CuSt.reset) (uDie u) (some u)

/-- A write of CU_RETIRE (R104). -/
def cuRetireWrite (s : State) (u : Nat) (v : W64) : State :=
  if v.toNat % 256 ≠ 0xA5 ∨ sstate s u ≠ 1 then reject s (uCu u)
  else
    let c := s.cu u
    retire (s.setCu u { c with failed := true, keep := false, rcause := if c.rcause = 0 then 1 else c.rcause }) u

/-- CU_RETIRE. -/
def execCuRetire (u : Nat) (v : W64) (s : State) : Out := whenLive s (if siteHere s u then cuRetireWrite s u v else s)

/-- CU_FAULT_RETIRE: a unit that has stopped is retired. -/
def execCuFaultRetire (u : Nat) (s : State) : Out :=
  whenLive s (if inService s u ∧ (s.cu u).failed then retire s u else s)

/-! ### Heartbeats (R469) -/

/-- The watchdog of a unit expires. -/
def watchdog (s : State) (u : Nat) (inj : Bool) : State :=
  (unitError s u (uCu u) 10 inj (firstWork s u)).setCu u { (unitError s u (uCu u) 10 inj (firstWork s u)).cu u with silent := 0 }

/-- CU_HEARTBEAT: the buddy's count of the unit starts anew; an injected expiry fires at its next count. -/
def execCuHeartbeat (u : Nat) (s : State) : Out :=
  whenLive s (if !inService s u || (s.cu u).failed || (s.cu u).held then s
    else if armedAt s (uCu u) 10 then watchdog (disarm s (uCu u) 10) u true
    else s.setCu u { s.cu u with silent := 0 })

/-- CU_WATCHDOG_EXPIRE: some beats of the buddy pass without a heartbeat of the unit; at DIE_CUWDOG.BEATS the unit's
WDOG is set. The count pauses while the unit holds its state. -/
def execCuWatchdogExpire (u beats : Nat) (s : State) : Out :=
  whenLive s (if !inService s u || (s.cu u).failed || (s.cu u).held then s
    else if armedAt s (uCu u) 10 then watchdog (disarm s (uCu u) 10) u true
    else
      let n := (s.cu u).silent + beats
      if s.regF (pgDie (uDie u)) 0x140 31 0 ≤ n then watchdog s u false else s.setCu u { s.cu u with silent := n })

end Sys2Proof.Machine
end

