-- ==== Sys2Proof/Machine/Mxe.lean ====
section
/-! DEFINITION. The matrix engine's operations: the check at the head of the queue, slab loads, and the results
(spec/05_matrix_engine.md R133 to R148). An operation's operands are read when it completes (log entry 31). -/

namespace Sys2Proof.Machine

/-! ### Packing elements -/

/-- Elements of w bits packed from bit 0 upward (R157). -/
def packElems (w : Nat) (vs : List Nat) : List Byte :=
  leBytes (ceilDiv (vs.length * w) 8) (vs.foldr (fun v acc => v % 2 ^ w + 2 ^ w * acc) 0)

/-- The element bytes of a tile, row-major, zero outside rows × cols, rounded up to 128 bytes (R74). -/
def tileElems (fmt rows cols : Nat) (f : Nat → Nat → Nat) : List Byte :=
  let b := packElems (elemBits fmt) ((List.range 4096).map (fun k =>
    if k / 64 < rows ∧ k % 64 < cols then f (k / 64) (k % 64) else 0))
  b ++ List.replicate (alignUp 128 b.length - b.length) 0

/-! ### The head of the queue (R135, R138) -/

/-- The first operation that has not started. -/
def nextOp (c : CuSt) : Option MxOp := c.mxq.find? (fun o => !o.started)

/-- The cause that rejects an operation, if one. -/
def opCheck (s : State) (it : Item) (o : MxOp) : Option Nat :=
  match o.src with
  | .desc b => mxCheck (mxDesc b) (slotBase it) (slotBase it + slotSize it)
  | .dev _ _ _ _ _ =>
    match (s.job it.job).bind (fun j => (j.stn it.sid).map (fun st => (j, st.df))) with
    | none => none
    | some (j, d) =>
      let f (c : Option Nat) : Nat := match c.bind j.cnd with | some x => x.df.fmt | none => 0
      let fb := match d.ins.getD 1 none with | some c => f (some c) | none => par d 8 1
      if !mxFormatsOk (f (d.ins.getD 0 none)) fb (f (d.ins.getD 2 none)) (f (d.outs.getD 0 none)) (nbit 0 (par d 0xA 1)) then some 3
      else none

/-- A descriptor is rejected: this operation and every later one of the group leave the queue (R135). -/
def rejectOp (s : State) (u : Nat) (it : Item) (o : MxOp) (cause : Nat) : State :=
  let s1 := s.setReg (regAddr (uMxe u) 0x118) (BitVec.ofNat 64 (cause * 256 + o.group % 64))
  let s2 := raiseWith s1 (uMxe u) 8 ⟨none, uSite u, some (it.job, it.step), false⟩
  let c := s2.cu u
  let q := c.mxq.filter (fun x => x.started || !(x.item == o.item && x.group == o.group))
  groupFault (s2.setCu u { c with mxq := q }) u o.group 3 0

/-- Slab loads of an operation in local store: how many are made and skipped, and the tag that is left (R138). -/
def slabLoads (keepEn : Bool) (item : Nat) (d : MxDesc) (slab : Option (Nat × Nat × Nat)) :
    Nat × Nat × Option (Nat × Nat × Nat) :=
  (List.range d.kb).foldl (fun (l, h, t) k =>
    let tag := (item, d.addrB + k * d.kstrB, d.fmtB)
    if d.keep && keepEn && t == some tag then (l, h + 1, t) else (l + 1, h, some tag)) (0, 0, slab)

/-- MXE_OP_START: the operation at the head of the queue is checked and its slabs are loaded. -/
def execMxeOpStart (u : Nat) (s : State) : Out :=
  whenLive s (if !advances s u then s
    else match nextOp (s.cu u) with
    | none => s
    | some o => match s.item o.item with
      | none => s
      | some it =>
        match opCheck s it o with
        | some cause => rejectOp s u it o cause
        | none =>
          let c := s.cu u
          let keepEn := bit 0 (s.reg (regAddr (uMxe u) 0x110))
          let (loads, hits, slab) := match o.src with
            | .desc b => slabLoads keepEn o.item (mxDesc b) c.slab
            | .dev _ _ _ _ kb => (kb, 0, none)
          let q := updFirst (fun x => !x.started) (fun x => { x with started := true }) c.mxq
          let s1 := s.setCu u { c with mxq := q, slab := slab }
          countEv (countEv s1 (uMxe u) 2 (64 * loads)) (uMxe u) 5 hits)

/-! ### Results (R133, R134, R137 to R139, R143) -/

/-- The level that block g's push writes: its trailing 1 bits. -/
def pushLevel : Nat → Nat → Nat
  | 0, _ => 0
  | f + 1, g => if g % 2 = 1 then pushLevel f (g / 2) + 1 else 0

/-- A tile of local store. -/
def lsTile (s : State) (u a fmt : Nat) : List Byte := lsBytes s u a (slotBytes fmt)

/-- The local-store tiles of an operation: A by block and 64-row group, slabs by block, C by 64-row group. -/
structure MxTiles where
  a : List (List (List Byte))
  b : List (List Byte)
  c : List (List Byte)

/-- Read an operation's tiles. -/
def mxTiles (s : State) (u : Nat) (d : MxDesc) : MxTiles :=
  let qs := List.range ((d.rows + 63) / 64)
  { a := (List.range d.kb).map (fun k => qs.map (fun q => lsTile s u (d.addrA + k * d.kstrA + q * d.rstrA) d.fmtA))
    b := (List.range d.kb).map (fun k => lsTile s u (d.addrB + k * d.kstrB) d.fmtB)
    c := if d.fmtC ≠ 0 ∧ d.first then qs.map (fun q => lsTile s u (d.addrC + q * d.rstrCD) d.fmtC) else [] }

/-- Valid reduction positions of global block g (R142). -/
def MxDesc.lim (d : MxDesc) (g : Nat) : Nat := if g + 1 = d.ktot then d.klast else 64

/-- The terms of row m, lane n in block k of the operation: products, and C if it enters. -/
def mxTerms (d : MxDesc) (t : MxTiles) (m n k : Nat) : List Num × Option Num :=
  let g := d.kbase + k
  let ps := products d.fmtA ((t.a.getD k []).getD (m / 64) []) (m % 64) d.fmtB (t.b.getD k []) n (d.lim g)
  (ps, if g = 0 ∧ d.fmtC ≠ 0 then some (elemNum d.fmtC (t.c.getD (m / 64) []) (m % 64) n) else none)

/-- Rounding of an item's operation. -/
def MxDesc.rounding (d : MxDesc) (it : Item) : Rounding := ⟨d.rnd, d.sat, it.seed, it.step⟩

/-- Address of a partial entry (R134). -/
def MxDesc.partAt (d : MxDesc) (l m n : Nat) : Nat := d.addrP + ((l * d.rows + m) * 64 + n) * 4

/-- The partial stack of row m, lane n after the operation's blocks. -/
def mxStack (s : State) (u : Nat) (it : Item) (d : MxDesc) (t : MxTiles) (m n : Nat) : List Nat :=
  let r := d.rounding it
  let grow := (d.grow0 + m) % 2 ^ 32
  let gcol := (d.gcol0 + n) % 2 ^ 32
  let st0 := (List.range (levels d.ktot)).map (fun l => if d.kbase = 0 then 0 else leNat (lsBytes s u (d.partAt l m n) 4))
  (List.range d.kb).foldl (fun st k =>
    let g := d.kbase + k
    let (ps, c) := mxTerms d t m n k
    treePush r d.isInt grow gcol 17 0 g (blockSum r d.isInt d.fmtC grow gcol g ps c) st) st0

/-- Levels that the operation's blocks write. -/
def MxDesc.written (d : MxDesc) : List Nat := ((List.range d.kb).map (fun k => pushLevel 17 (d.kbase + k))).eraseDups

/-- Some lane of row m spans more than the window in block k (R141). -/
def mxWide (d : MxDesc) (t : MxTiles) (m k : Nat) : Bool :=
  decide (rateClass d.fmtA d.fmtB = 2) && (List.range d.cols).any (fun n =>
    let (ps, c) := mxTerms d t m n k
    wideSpan (c.toList ++ ps))

/-- Write the partial area and, with the last block, the D tiles in full. -/
def mxWrite (s : State) (u : Nat) (it : Item) (d : MxDesc) (t : MxTiles) : State :=
  let r := d.rounding it
  let grid := (List.range d.rows).map (fun m => (List.range d.cols).map (fun n => mxStack s u it d t m n))
  let at_ (m n : Nat) : List Nat := (grid.getD m []).getD n []
  let s1 := d.written.foldl (fun x l => (List.range d.rows).foldl (fun y m => (List.range d.cols).foldl (fun z n =>
    lsStore z u (d.partAt l m n) (leBytes 4 ((at_ m n).getD l 0))) y) x) s
  if d.final then
    (List.range ((d.rows + 63) / 64)).foldl (fun x q =>
      lsStore x u (d.addrD + q * d.rstrCD) (tileElems d.fmtD (d.rows - 64 * q) d.cols (fun i n =>
        let m := 64 * q + i
        let grow := (d.grow0 + m) % 2 ^ 32
        let gcol := (d.gcol0 + n) % 2 ^ 32
        rootTo r d.isInt d.fmtD grow gcol (treeFlush r d.isInt grow gcol (at_ m n) 17 0 d.ktot false 0)))) s1
  else s1

/-- An operation in local store writes its results and its events are counted (R153). -/
def mxExecute (s : State) (u : Nat) (it : Item) (d : MxDesc) : State :=
  let t := mxTiles s u d
  let cls := rateClass d.fmtA d.fmtB
  let wide := ((List.range d.kb).map (fun k => ((List.range d.rows).filter (fun m => mxWide d t m k)).length)).foldl (· + ·) 0
  let s1 := mxWrite s u it d t
  countEv (countEv (countEv s1 (uMxe u) 1 (rowBeats cls d.rows * d.kb)) (uMxe u) 3 wide) (uMxe u) 4 (d.cols * d.rows * d.kb)

/-! ### Completion (R146) -/

/-- The completion counter of the group advances; a group that waits for it is released. -/
def opCounted (s : State) (u h : Nat) : State :=
  match s.grp u h with
  | none => s
  | some g =>
    let g1 := { g with ctr := (g.ctr + 1) % 65536 }
    match g1.wait with
    | .mx t => s.setGrp u h (some (if ctrMet g1.ctr t then g1.release else g1))
    | _ => s.setGrp u h (some g1)

/-- The grid ordinals that an operation of the device's program completes: with its last block, the tiles of its
run. -/
def devDone (s : State) (it : Item) (col row0 n last : Nat) : List Nat :=
  match (s.job it.job).bind (fun j => (j.stn it.sid).map (fun st => (j, st.df))) with
  | none => []
  | some (j, d) => if last = par d 0xC 2 then (List.range n).map (fun i => (row0 + i) * (gridOf j d).2 + col) else []

/-- MXE_OP_COMPLETE: the last sum of the operation at the head is written; an injected local-store error fires at
its reads. -/
def execMxeOpComplete (u : Nat) (s : State) : Out :=
  whenLive s (if !advances s u then s
    else match (s.cu u).mxq with
    | [] => s
    | o :: rest =>
      match s.item o.item with
      | none => s
      | some it =>
        if !o.started then s
        else
          let (ok, s0) := match o.src with
            | .desc b => lsRead s u (mxDesc b).readSectors
            | .dev _ _ _ _ _ => lsRead s u []
          if !ok then s0
          else
            let s1 := s0.setCu u { s0.cu u with mxq := rest }
            let s2 := match o.src with
              | .desc b => mxExecute s1 u it (mxDesc b)
              | .dev c r n kb0 kb =>
                s1.setItem o.item (some { it with computed := it.computed ++ devDone s1 it c r n (kb0 + kb) })
            feedAll (opCounted (countEv s2 (uMxe u) 6 1) u o.group) u)

end Sys2Proof.Machine
end

