-- ==== Sys2Proof/Machine/Movers.lean ====
section
/-! DEFINITION. Tile movers and the device's programs of MATRIX, GATHER, TRANSPOSE and COPY items, one output tile at
a time (spec/03_stations_and_streams.md R74, R76 to R78, R553, R554; spec/05_matrix_engine.md R149;
spec/08_cu_memory.md R218 to R220). -/

namespace Sys2Proof.Machine

/-- What a tile's work yields: bytes of the output slot with the ROWS, COLS and ZPAD of its tag; bytes for memory;
or the status of an item in error. -/
inductive Made where
  | tile (bytes : List Byte) (rows cols : Nat) (zpad : Bool)
  | mem (writes : List (Nat × List Byte))
  | bad (status : Nat)

/-- A tile with its padding flag. -/
def madeTile (bytes : List Byte) (rows cols : Nat) : Made := .tile bytes rows cols (decide (rows < 64 ∨ cols < 64))

/-- What one output tile needs of its item: the job, station, item, grid row and column, a free number. -/
structure TileJob where
  j : Job
  d : StnDef
  it : Item
  r : Nat
  c : Nat
  free : Nat

/-- The slot and tag ranges of an input tile. -/
def TileJob.inRanges (t : TileJob) (i r c : Nat) : List (Nat × Nat) :=
  match t.d.ins.getD i none with
  | none => []
  | some cid => match t.j.cnd cid with
    | none => []
    | some x =>
      let o := x.ordinal t.j.s0 t.it.step r c
      [(t.j.tagVa cid x o, 32), (t.j.slotVa cid x o, slotBytes x.df.fmt)]

/-- Format of an input, of the first output. -/
def TileJob.inFmt (t : TileJob) (i : Nat) : Nat := (((t.d.ins.getD i none).bind t.j.cnd).map (fun x => x.df.fmt)).getD 0
def TileJob.outFmt (t : TileJob) : Nat := (((t.d.outs.getD 0 none).bind t.j.cnd).map (fun x => x.df.fmt)).getD 0

/-- The n-th block of what was read. -/
def nth (l : List (List Byte)) (n : Nat) : List Byte := l.getD n []

/-! ### MATRIX (R77, R149, R554) -/

/-- K in tiles; B is resident. -/
def TileJob.kt (t : TileJob) : Nat := par t.d 0xC 2
def TileJob.resident (t : TileJob) : Bool := (t.d.ins.getD 1 none).isNone
def TileJob.fmtB (t : TileJob) : Nat := if t.resident then par t.d 8 1 else t.inFmt 1

/-- The base of the resident tensor of the step; bytes of one of its rows. -/
def TileJob.wBase (t : TileJob) : Nat := (par t.d 0 8 + (t.it.step - t.j.s0) * par t.d 0x10 8) % 2 ^ 64
def TileJob.wRow (t : TileJob) : Nat := par t.d 0xE 2 * 64 * elemBits t.fmtB / 8

/-- Ranges of slab (k, c) of a resident B: 64 rows of elements, then 64 pairs of scale bytes for an MX format. -/
def TileJob.slabRanges (t : TileJob) (k : Nat) : List (Nat × Nat) :=
  let w := elemBits t.fmtB
  (List.range 64).map (fun i => (t.wBase + (64 * k + i) * t.wRow + 8 * w * t.c, 8 * w))
    ++ (if isMx t.fmtB then
        (List.range 64).map (fun i => (t.wBase + 64 * t.kt * t.wRow + (64 * k + i) * 2 * par t.d 0xE 2 + 2 * t.c, 2))
      else [])

/-- Ranges that a MATRIX tile reads: A tiles, B tiles or slabs, C. -/
def TileJob.matrixRanges (t : TileJob) : List (Nat × Nat) :=
  let ks := List.range t.kt
  ks.flatMap (fun k => t.inRanges 0 t.r k)
    ++ ks.flatMap (fun k => if t.resident then t.slabRanges k else t.inRanges 1 k t.c)
    ++ t.inRanges 2 t.r t.c

/-- The slab's tile bytes from its parts: elements, padding to 128 bytes, scales. -/
def slabTile (fmt : Nat) (parts : List (List Byte)) : List Byte :=
  let e := (parts.take 64).flatten
  e ++ List.replicate (alignUp 128 e.length - e.length) 0 ++ (if isMx fmt then (parts.drop 64).flatten else [])

/-- The operands of a MATRIX tile from what was read: A payloads, B payloads, C payload; ROWS, COLS, KLAST. -/
structure MatrixIn where
  a : List (List Byte)
  b : List (List Byte)
  c : Option (List Byte)
  rows : Nat
  cols : Nat
  klast : Nat

/-- Sort what was read. -/
def TileJob.matrixIn (t : TileJob) (l : List (List Byte)) : MatrixIn :=
  let ks := List.range t.kt
  let per := if t.resident then (t.slabRanges 0).length else 2
  let b0 := 2 * t.kt
  { a := ks.map (fun k => nth l (2 * k + 1))
    b := ks.map (fun k =>
      if t.resident then slabTile t.fmtB ((l.drop (b0 + per * k)).take per) else nth l (b0 + 2 * k + 1))
    c := if (t.d.ins.getD 2 none).isSome then some (nth l (b0 + per * t.kt + 1)) else none
    rows := (tagOf (nth l 0)).rows
    cols := if t.resident then 64 else (tagOf (nth l b0)).cols
    klast := (tagOf (nth l (2 * t.kt - 2))).cols }

/-- The terms of element (m, n) in block k. -/
def TileJob.terms (t : TileJob) (x : MatrixIn) (m n k : Nat) : List Num × Option Num :=
  (products (t.inFmt 0) (nth x.a k) m t.fmtB (nth x.b k) n (if k + 1 = t.kt then x.klast else 64),
    if k = 0 then x.c.map (fun b => elemNum (t.inFmt 2) b m n) else none)

/-- One element of D: the canonical tree over all blocks. -/
def TileJob.element (t : TileJob) (x : MatrixIn) (m n : Nat) : Nat :=
  let r : Rounding := ⟨par t.d 9 1, nbit 0 (par t.d 0xA 1), t.it.seed, t.it.step⟩
  let isInt := isIntFmt (t.inFmt 0)
  let grow := 64 * t.r + m
  let gcol := 64 * t.c + n
  let xs := (List.range t.kt).map (fun k =>
    let (ps, c) := t.terms x m n k
    blockSum r isInt (t.inFmt 2) grow gcol k ps c)
  rootTo r isInt t.outFmt grow gcol (rootOfBlocks r isInt grow gcol xs)

/-- A MATRIX tile. -/
def TileJob.matrix (t : TileJob) (l : List (List Byte)) : Made :=
  let x := t.matrixIn l
  madeTile (tileElems t.outFmt x.rows x.cols (t.element x)) x.rows x.cols

/-- Rows of the tile that take a second pass, over all blocks (R141). -/
def TileJob.wideRows (t : TileJob) (l : List (List Byte)) : Nat :=
  let x := t.matrixIn l
  if rateClass (t.inFmt 0) t.fmtB ≠ 2 then 0
  else ((List.range t.kt).map (fun k => ((List.range x.rows).filter (fun m => (List.range x.cols).any (fun n =>
    let (ps, c) := t.terms x m n k
    wideSpan (c.toList ++ ps)))).length)).foldl (· + ·) 0

/-- Engine events of a MATRIX tile, counted when its tile is moved (R153; log entry 31). -/
def countMatrix (s : State) (u : Nat) (t : TileJob) (l : List (List Byte)) : State :=
  let x := t.matrixIn l
  let cls := rateClass (t.inFmt 0) t.fmtB
  countEv (countEv (countEv s (uMxe u) 1 (rowBeats cls x.rows * t.kt)) (uMxe u) 3 (t.wideRows l)) (uMxe u) 4 (x.cols * x.rows * t.kt)

/-! ### GATHER (R78) -/

/-- The indices of row i of the index tile: columns beyond COLS or of padding rows hold −1. -/
def gatherIdx (tag : Tag) (payload : List Byte) (bag i : Nat) : List Int :=
  (List.range bag).map (fun j => if j < tag.cols then toSigned 32 (elemRaw 0x0E payload i j) else -1)

/-- An index lies outside the table. -/
def outOfTable (trows : Nat) (x : Int) : Bool := decide (x < -1 ∨ (trows : Int) ≤ x)

/-- Ranges of the 64 elements of table rows that the valid indices of a tile name, row by row. -/
def TileJob.gatherRanges (t : TileJob) (tag : Tag) (payload : List Byte) : List (Nat × Nat) :=
  let w := elemBits (par t.d 0x12 1) / 8
  let one (x : Int) : List (Nat × Nat) :=
    if 0 ≤ x ∧ !outOfTable (par t.d 8 8) x then
      [((par t.d 0 8 + x.toNat * par t.d 0x10 2 * w + 64 * t.c * w) % 2 ^ 64, 64 * w)]
    else []
  (List.range tag.rows).flatMap (fun i => (gatherIdx tag payload (par t.d 0x14 1) i).flatMap one)

/-- Hand the table rows read to the indices that named them: none for padding. -/
def dealRows (trows : Nat) : List Int → List (List Byte) → List (Option (List Byte)) × List (List Byte)
  | [], l => ([], l)
  | x :: xs, l =>
    if 0 ≤ x ∧ !outOfTable trows x then
      let (r, rest) := dealRows trows xs (l.drop 1)
      (some (nth l 0) :: r, rest)
    else
      let (r, rest) := dealRows trows xs l
      (none :: r, rest)

/-- The table rows of each output row. -/
def gatherRows (trows : Nat) : List (List Int) → List (List Byte) → List (List (Option (List Byte)))
  | [], _ => []
  | xs :: more, l =>
    let (r, rest) := dealRows trows xs l
    r :: gatherRows trows more rest

/-- An output element from the bag's table rows: n counts the indices that are not −1. -/
def TileJob.pooled (t : TileJob) (rows : List (Option (List Byte))) (k : Nat) : Nat :=
  match fmtKind (par t.d 0x12 1), fmtKind t.outFmt with
  | some tk, some ok =>
    let w := tk.bits / 8
    let raw (b : List Byte) : Nat := fieldAt b (k * w) w
    let n := (rows.filter Option.isSome).length
    let wide := rows.map (fun b => match b with | some x => cvtNF tk (raw x) | none => 0)
    let pool := par t.d 0x13 1
    if pool = 0 then (match rows.headD none with | some x => ok.encode 0 0 false (tk.decode (raw x)) | none => 0)
    else if pool = 1 then cvtFN ok 0 false (canonical32 wide)
    else if n = 0 then 0
    else cvtFN ok 0 false (f32div (canonical32 wide) (cvtIF n))
  | _, _ => 0

/-- A GATHER tile. The elements of an MX output are encoded as if their block scale were 1; the scale bytes, which the
conversion does not write (spec/06_arithmetic.md R163), are free (log entry 32). -/
def TileJob.gather (t : TileJob) (tag : Tag) (payload : List Byte) (table : List (List Byte)) : Made :=
  let bag := par t.d 0x14 1
  let idx := (List.range tag.rows).map (gatherIdx tag payload bag)
  if par t.d 0x15 1 = 0 ∧ idx.any (fun xs => xs.any (outOfTable (par t.d 8 8))) then .bad stOob
  else
    let rows := gatherRows (par t.d 8 8) idx table
    let scales := if isMx t.outFmt then (List.range 128).map (fun i => Config.freeByte (t.free * 2 ^ 64 + i)) else []
    madeTile (tileElems t.outFmt tag.rows 64 (fun i k => t.pooled (rows.getD i []) k) ++ scales) tag.rows 64

/-! ### TRANSPOSE (R219) -/

/-- A TRANSPOSE tile: bits are copied, ROWS and COLS exchanged. -/
def TileJob.transpose (t : TileJob) (tag : Tag) (payload : List Byte) : Made :=
  madeTile (tileElems t.outFmt tag.cols tag.rows (fun i k => elemRaw t.outFmt payload k i)) tag.cols tag.rows

/-! ### COPY (R76, R553, R554) -/

/-- base(s) of a COPY station. -/
def TileJob.copyBase (t : TileJob) : Nat :=
  let n := t.it.step - t.j.s0
  let ring := par t.d 0x18 4
  (par t.d 8 8 + (if ring = 0 then n else n % ring) * par t.d 0x10 8) % 2 ^ 64

/-- ROWS and COLS of the clipped tile. -/
def TileJob.clip (t : TileJob) : Nat × Nat :=
  (min 64 (par t.d 0x20 4 - 64 * t.r), min 64 (par t.d 0x24 4 - 64 * t.c))

/-- The format of the tensor: that of the station's conduit. -/
def TileJob.copyFmt (t : TileJob) : Nat := if par t.d 0 1 = 0 then t.outFmt else t.inFmt 0

/-- The bytes of row i's clipped elements, and the scale bytes of its blocks. -/
def TileJob.rowRange (t : TileJob) (i : Nat) : Nat × Nat :=
  (t.copyBase + (64 * t.r + i) * par t.d 0x1C 4 + 8 * elemBits t.copyFmt * t.c, ceilDiv (t.clip.2 * elemBits t.copyFmt) 8)
def TileJob.scaleRange (t : TileJob) (i : Nat) : Nat × Nat :=
  (t.copyBase + par t.d 0x20 4 * par t.d 0x1C 4 + (64 * t.r + i) * ceilDiv (par t.d 0x24 4) 32 + 2 * t.c, ceilDiv t.clip.2 32)

/-- Ranges of the clipped tile in memory. -/
def TileJob.copyRanges (t : TileJob) : List (Nat × Nat) :=
  let rows := List.range t.clip.1
  rows.map t.rowRange ++ (if isMx t.copyFmt then rows.map t.scaleRange else [])

/-- COPY LOAD: zeros beyond the clip; scale bytes of no clipped element are 0x7F. -/
def TileJob.copyLoad (t : TileJob) (l : List (List Byte)) : Made :=
  let w := elemBits t.copyFmt
  let (rows, cols) := t.clip
  let elems := tileElems t.copyFmt rows cols (fun i k => streamBits (nth l i) (k * w) w)
  let scales := (List.range 128).map (fun b =>
    if b / 2 < rows ∧ b % 2 < ceilDiv cols 32 then (nth l (rows + b / 2)).getD (b % 2) 0x7F else 0x7F)
  madeTile (elems ++ (if isMx t.copyFmt then scales else [])) rows cols

/-- COPY STORE: the clipped elements of each row, with the other bits of a shared byte as they were read (the last
parts of what was read), and the scale bytes of blocks that hold a clipped element. -/
def TileJob.copyStore (t : TileJob) (payload : List Byte) (old : List (List Byte)) : Made :=
  let w := elemBits t.copyFmt
  let (rows, cols) := t.clip
  let row (i : Nat) : List Byte :=
    let part := cols * w % 8
    let bs := packElems w ((List.range cols).map (fun k => elemRaw t.copyFmt payload i k))
    if part = 0 then bs
    else
      let last := (bs.getLastD 0).toNat % 2 ^ part + leNat (nth old i) / 2 ^ part * 2 ^ part
      bs.dropLast ++ leBytes 1 last
  .mem ((List.range rows).map (fun i => ((t.rowRange i).1, row i))
    ++ (if isMx t.copyFmt then (List.range rows).map (fun i =>
        ((t.scaleRange i).1, (List.range (ceilDiv cols 32)).map (fun b => BitVec.ofNat 8 (scaleByte t.copyFmt payload i (32 * b)))))
      else []))

/-- The last byte of each row of a store that shares a byte with other elements. -/
def TileJob.sharedBytes (t : TileJob) : List (Nat × Nat) :=
  if t.clip.2 * elemBits t.copyFmt % 8 = 0 then []
  else (List.range t.clip.1).map (fun i => ((t.rowRange i).1 + (t.rowRange i).2 - 1, 1))

/-! ### One tile -/

/-- The ranges a tile reads that do not depend on data. -/
def TileJob.ranges (t : TileJob) : List (Nat × Nat) :=
  match t.d.kind with
  | 0x01 => t.matrixRanges
  | 0x03 => t.inRanges 0 t.r 0
  | 0x04 => t.inRanges 0 t.c t.r
  | 0x14 =>
    if par t.d 0 1 = 0 then t.copyRanges
    else if par t.d 0 1 = 1 then t.inRanges 0 t.r t.c ++ t.sharedBytes else t.inRanges 0 t.r t.c
  | _ => []

/-- What a tile yields from what was read, the table rows of a GATHER tile read after its indices. -/
def TileJob.make (t : TileJob) (l table : List (List Byte)) : Made :=
  let tag := tagOf (nth l 0)
  match t.d.kind with
  | 0x01 => t.matrix l
  | 0x03 => t.gather tag (nth l 1) table
  | 0x04 => t.transpose tag (nth l 1)
  | _ =>
    if par t.d 0 1 = 0 then t.copyLoad l
    else if par t.d 0 1 = 1 then t.copyStore (nth l 1) (l.drop 2)
    else .tile (nth l 1) tag.rows tag.cols tag.zpad

/-- The pages of a virtual range. -/
def pagesOf (r : Nat × Nat) : List Nat :=
  if r.2 = 0 then [] else (List.range ((r.1 + r.2 - 1) / 4096 - r.1 / 4096 + 1)).map (fun i => (r.1 / 4096 + i) * 4096)

/-- Prefetch of the next tiles' translations (spec/11_translation.md R319): slots and tensor rows. -/
def prefetchTiles (s : State) (u : Nat) (r : Rq) (t : TileJob) : State :=
  if t.d.kind ≠ 3 ∧ t.d.kind ≠ 0x14 then s
  else
    let dist := s.regF (pgMmu (uDie u)) 0x100 3 0
    let cols := (gridOf t.j t.d).2
    let o := t.r * cols + t.c
    let next := (List.range dist).map (· + o + 1) |>.filter (fun x => t.it.ords.contains x)
    let pages := (next.flatMap (fun x =>
      let t1 := { t with r := x / cols, c := x % cols }
      let out := match t.d.outs.getD 0 none with
        | some cid => match t.j.cnd cid with
          | some k => [(t.j.slotVa cid k (k.ordinal t.j.s0 t.it.step t1.r t1.c), slotBytes k.df.fmt)]
          | none => []
        | none => []
      (t1.ranges ++ out).flatMap pagesOf)).eraseDups
    countEv (rqPrefetch r pages s) (uPmp u) 4 pages.length

/-- An item ends in error for a tile. -/
def tileError (s : State) (n status : Nat) (it : Item) : State :=
  s.setItem n (some { it with err := some (it.err.getD (status, 0, 0)), log := [] })

/-- The work of one tile, once nothing stands against it. -/
def moveTile (s : State) (u n ord : Nat) (it : Item) (j : Job) (d : StnDef) : State :=
  let r := moverRq s u n it
  let (free, s0) := if d.kind = 3 then s.takeFree else (0, s)
  let cols := (gridOf j d).2
  let t : TileJob := ⟨j, d, it, ord / cols, ord % cols, free⟩
  match rqReads r t.ranges (prefetchTiles s0 u r t) with
  | (none, s1) => s1
  | (some (l, p), s1) =>
    let tr := if d.kind = 3 then t.gatherRanges (tagOf (nth l 0)) (nth l 1) else []
    match rqReads r tr s1 with
    | (none, s2) => s2
    | (some (table, p2), s2) =>
      if p || p2 then tileError s2 n stMemErr it
      else
        let sectors := ((t.ranges ++ tr).map (fun x => ceilDiv (x.1 % 32 + x.2) 32)).foldl (· + ·) 0
        let counted (x : State) : State :=
          let x1 := countEv (countEv x (uPmp u) 1 1) (uPmp u) 3 sectors
          let x2 := if d.kind = 4 then countEv x1 (uPmp u) 2 1 else x1
          dropFetched (if d.kind = 1 then countMatrix x2 u t l else x2) r.rid
        match t.make l table with
        | .bad st => tileError s2 n st it
        | .mem ws =>
          let (ok, s3) := rqWrites s2 r ws
          if ok then counted (s3.setItem n (some { it with computed := it.computed ++ [ord] })) else s3
        | .tile bytes rows cs zpad =>
          match (d.outs.getD 0 none).bind (fun cid => (j.cnd cid).map (fun x => (cid, x))) with
          | none => s2
          | some (cid, x) =>
            let (ok, s3) := rqWrites s2 r [(j.slotVa cid x (x.ordinal j.s0 it.step t.r t.c), bytes)]
            if ok then counted (s3.setItem n (some { it with wrote := it.wrote ++ [⟨0, ord, rows, cs, zpad⟩] })) else s3

/-- MOVER_TILE_DONE: a mover of a unit moves one tile of the item in a running slot. A MATRIX tile is moved once its
operations have completed. -/
def execMoverTileDone (u islot ord : Nat) (s : State) : Out :=
  whenLive s (match (runningOn s u).find? (fun p => p.2.islot == some islot) with
    | none => s
    | some (n, it) =>
      match (s.job it.job).bind (fun j => (j.stn it.sid).map (fun st => (j, st.df))) with
      | none => s
      | some (j, d) =>
        if !advances s u || !s.accepts (uPmp u) || !it.tagsOk || it.err.isSome || itemWaits s n || !it.ords.contains ord
            || it.wrote.any (fun w => w.ord == ord) || decide (it.kind = 2)
            || (decide (it.kind = 1) && !it.computed.contains ord)
            || (decide (it.kind ≠ 1) && it.computed.contains ord) then s
        else moveTile s u n ord it j d)

end Sys2Proof.Machine
end

