-- ==== Sys2Proof/Machine/Lockstep.lean ====
section
/-! DEFINITION. Lock-step pairs (spec/16_determinism.md R453 to R459): the areas, greetings, records and logs, and the
commands LSPAIR and LSEND. -/

namespace Sys2Proof.Machine

/-! ### The pairing -/

/-- GLB_LSSTAT.STATE: 0 IDLE, 1 WAITSTART, 2 COMPARING, 3 DIVERGED, 4 MISMATCH, 5 LOST. -/
def lsState (s : State) : Nat := s.regF pgGlb 0x118 2 0

/-- GLB_LSCMP. -/
def lsCmp (s : State) : Nat := (s.reg (regAddr pgGlb 0x120)).toNat

/-- The pairing of a job, while it is in progress. -/
def pairOf (s : State) (jn : Nat) : Option Pair :=
  match s.pair with
  | some p => if p.job = jn then some p else none
  | none => none

/-- The pairing ends in a state, and LSPAIR completes (R459). -/
def endPair (s : State) (st status value : Nat) : State :=
  match s.pair with
  | none => s
  | some p =>
    let s1 := ({ s with pair := none }).setRegF pgGlb 0x118 2 0 st
    finishDesc s1 p.q p.idx status value

/-! ### The areas (R454) -/

/-- SR, TOUT and the offset of a conduit's entries in a step's log. -/
def lsSr (j : Job) : Nat := alignUp 4096 (64 + 8 * j.stns.length)
def lsTout (j : Job) : Nat := (j.cnds.map (fun c => c.df.trows * c.df.tcols)).foldl (· + ·) 0
def lsOff (j : Job) (cid : Nat) : Nat := ((j.cnds.take cid).map (fun c => c.df.trows * c.df.tcols)).foldl (· + ·) 0

/-- Bytes of the own area. -/
def lsAreaSize (j : Job) : Nat := 0x1000 + 16 * lsSr j + alignUp 4096 (128 * lsTout j)

/-- Offset of a tile's entry in an area. -/
def lsEntry (j : Job) (step cid ord : Nat) : Nat :=
  0x1000 + 16 * lsSr j + (step % 16 * lsTout j + lsOff j cid + ord) * 8

/-- Cut bytes for packets of at most 4,096 bytes: fuel bounds their number. -/
def cutPackets : Nat → Nat → List Byte → List (Nat × List Byte)
  | 0, _, _ => []
  | f + 1, a, bs => if bs.isEmpty then [] else (a, bs.take 4096) :: cutPackets f (a + 4096) (bs.drop 4096)

/-- Write bytes at an offset of the peer's area. -/
def peerWrite (s : State) (p : Pair) (off : Nat) (bs : List Byte) : State :=
  match s.flow p.flow with
  | none => s
  | some f =>
    (cutPackets (bs.length / 4096 + 1) (f.rnode * 2 ^ 46 + p.rbase + off) bs).foldl (fun t (a, x) =>
      enqueue t p.flow ⟨1, 0, a, x.length, x, .lockstep⟩) s

/-! ### Greetings, records, logs (R455 to R457) -/

/-- A greeting but for its last byte. -/
def greeting (j : Job) : List Byte :=
  j.digest ++ leBytes 8 j.seed ++ leBytes 8 j.s0 ++ leBytes 2 j.stns.length ++ leBytes 4 (lsTout j)

/-- Byte 1 of an image header: of its MAGIC. -/
def greetingEnd : List Byte := [0x55]

/-- START takes effect: the greeting is written to the peer's area, its last byte last. -/
def greet (s : State) (jn : Nat) : State :=
  match pairOf s jn, s.job jn with
  | some p, some j => peerWrite (peerWrite s p 0 (greeting j)) p 70 greetingEnd
  | _, _ => s

/-- tile_term. -/
def tileTerm (cid ord dig : Nat) : Nat := mix64 (mix64 (cid * 2 ^ 32 ||| ord) ^^^ dig)

/-- The digest of a station for a step, of what has been published so far. -/
def stationDigest (j : Job) (step sid : Nat) : Nat :=
  match j.digs.find? (fun x => x.1 == step && x.2.1 == sid) with
  | some (_, _, v) => v
  | none => 0

/-- Add a tile's term to its station's digest. -/
def addDigest (j : Job) (step sid cid ord dig : Nat) : Job :=
  let v := (stationDigest j step sid + tileTerm cid ord dig) % 2 ^ 64
  { j with digs := (step, sid, v) :: j.digs.filter (fun x => !(x.1 == step && x.2.1 == sid)) }

/-- Enter a published tile in the own tile log. -/
def logTile (s : State) (jn : Nat) (j : Job) (step cid ord dig : Nat) : State :=
  match pairOf s jn with
  | none => s
  | some p => homeWrite s 7 (p.lbase + lsEntry j step cid ord) (leBytes 4 step ++ leBytes 4 dig)

/-- A step is complete: its record goes to the peer's area, its header last. -/
def lsRecord (s : State) (jn : Nat) (j : Job) (step : Nat) : State :=
  match pairOf s jn with
  | none => s
  | some p =>
    let slot := 0x1000 + step % 16 * lsSr j
    let body := (List.range j.stns.length).flatMap (fun n => leBytes 8 (stationDigest j step n))
    peerWrite (peerWrite s p (slot + 64) body) p slot (leBytes 8 step ++ leBytes 56 0)

/-- The own records of completed steps stay in the job until both sides have compared them: 16 steps at most. -/
def lsKeep (j : Job) (step : Nat) : Bool := decide (j.s0 + j.low ≤ step + 17)

/-- The last step the peer has compared; none before the first. -/
def peerCmp (s : State) (p : Pair) : Nat := leNat (s.bytes (p.lbase + 0x80) 8)

/-- The pacing of R459: the job may dispatch items of a step. -/
def paceOk (s : State) (jn : Nat) (j : Job) (step : Nat) : Bool :=
  match pairOf s jn with
  | none => true
  | some p =>
    if lsState s ≠ 2 then true
    else
      let least (c : Nat) : Bool := decide (step < j.s0 + 16) || (decide (c ≠ 2 ^ 64 - 1) && decide (step ≤ c + 16))
      least (lsCmp s) && least (peerCmp s p)

/-! ### Comparing (R455, R458) -/

/-- The two greetings: compared once the peer's last byte has arrived. -/
def compareGreetings (s : State) (p : Pair) (j : Job) : State :=
  let got := s.bytes p.lbase 71
  if got.drop 70 ≠ greetingEnd then s
  else if got.take 70 = greeting j then s.setRegF pgGlb 0x118 2 0 2
  else endPair s 4 0x35 0

/-- The next step to compare. -/
def nextCompare (s : State) (j : Job) : Nat := if lsCmp s = 2 ^ 64 - 1 then j.s0 else lsCmp s + 1

/-- The first differing entry of a station's conduits, in ascending (CID, ord), given the peer's entries as bytes by
area offset. -/
def firstDiff (s : State) (p : Pair) (j : Job) (step : Nat) (d : StnDef) (peer : Nat → List Byte) : Nat × Nat :=
  let cids := (d.outList.map Prod.snd).mergeSort (fun a b => decide (a ≤ b))
  let places := cids.flatMap (fun cid => match j.cnd cid with
    | none => []
    | some c => (List.range (c.df.trows * c.df.tcols)).map (fun o => (cid, o)))
  match places.find? (fun (cid, o) =>
      s.bytes (p.lbase + lsEntry j step cid o) 8 != peer (lsEntry j step cid o)) with
  | some x => x
  | none => (0xFFFF, 0xFFFFFFFF)

/-- Ask for the peer's log entries of a station's conduits, 8 bytes an entry. -/
def askLog (s : State) (p : Pair) (j : Job) (step : Nat) (d : StnDef) : Option (Nat → List Byte) × State :=
  match s.flow p.flow with
  | none => (none, s)
  | some f =>
    let places := d.outList.flatMap (fun (_, cid) => match j.cnd cid with
      | none => []
      | some c => (List.range (c.df.trows * c.df.tcols)).map (fun o => lsEntry j step cid o))
    let ga (off : Nat) : Nat := f.rnode * 2 ^ 46 + p.rbase + off
    if places.all (fun o => (fetchedAt s 3 (ga o)).isSome) then
      (some (fun o => ((fetchedAt s 3 (ga o)).map Prod.fst).getD []), s)
    else
      (none, places.foldl (fun t o =>
        if t.fab.asked.contains (3, ga o) then t
        else
          let t1 := enqueue t p.flow ⟨2, 0, ga o, 8, [], .fetch 3 (ga o)⟩
          { t1 with fab := { t1.fab with asked := (3, ga o) :: t1.fab.asked } }) s)

/-- LOCKSTEP_COMPARE: the greetings, or the next step that both sides have completed. -/
def execLockstepCompare (s : State) : Out :=
  whenLive s (match s.pair with
    | none => s
    | some p => match s.job p.job with
      | none => s
      | some j =>
        if lsState s = 1 then (if j.jstate = 0 ∨ j.regen.isSome then s else compareGreetings s p j)
        else
          let step := nextCompare s j
          let slot := p.lbase + 0x1000 + step % 16 * lsSr j
          if j.s0 + j.low ≤ step ∨ step < j.s0 ∨ leNat (s.bytes slot 8) ≠ step then s
          else
            let theirs (n : Nat) : Nat := leNat (s.bytes (slot + 64 + 8 * n) 8)
            match (List.range j.stns.length).find? (fun n => stationDigest j step n != theirs n) with
            | none => peerWrite (s.setReg (regAddr pgGlb 0x120) (BitVec.ofNat 64 step)) p 0x80 (leBytes 8 step)
            | some n =>
              match j.stn n with
              | none => s
              | some st =>
                match askLog s p j step st.df with
                | (none, s1) => s1
                | (some peer, s1) =>
                  let (cid, o) := firstDiff s1 p j step st.df peer
                  let s2 := s1.setReg (regAddr pgGlb 0x128) (BitVec.ofNat 64 (n * 2 ^ 48 + cid * 2 ^ 32 + o))
                  let s3 := s2.setReg (regAddr pgGlb 0x120) (BitVec.ofNat 64 step)
                  endPair (dropFetched s3 3) 3 0x36 step)

end Sys2Proof.Machine
end

