-- ==== Sys2Proof/Machine/Seats.lean ====
section
/-! DEFINITION. Reduction seats: bindings, the tree, hops, slots and windows, and what an LREDUCE item does to its seat
when it is dispatched, committed or aborted (spec/15_fabric_reduction.md R417 to R437). -/

namespace Sys2Proof.Machine

/-! ### Bindings (R417, R418, R433) -/

/-- A binding of a reduction virtual channel: LRA_BIND. -/
structure Binding where
  v : Bool
  wire : Nat
  flog : Nat
  span : Nat
  myrep : Nat
  nrep : Nat
  grpid : Nat
  deriving DecidableEq, Repr

/-- The fields of an LRA_BIND value. -/
def bindingOf (w : W64) : Binding :=
  ⟨bit 63 w, fld 62 62 w, fld 61 60 w, fld 59 55 w, fld 54 37 w, fld 36 18 w, fld 15 0 w⟩

/-- LRA_BIND[r] of a page; LRA_GTAB[r].BASE; LRA_STEP[r]. -/
def binding (s : State) (g r : Nat) : Binding := bindingOf (s.reg (regAddr (pgLra g) (0x200 + 16 * r)))
def gtabBase (s : State) (g r : Nat) : Nat := s.regF (pgLra g) (0x208 + 16 * r) 51 12 * 4096
def lraStep (s : State) (g r : Nat) : Nat := (s.reg (regAddr (pgLra g) (0x300 + 8 * r))).toNat
def setLraStep (s : State) (g r v : Nat) : State := s.setReg (regAddr (pgLra g) (0x300 + 8 * r)) (BitVec.ofNat 64 v)

/-- All ones: no step. -/
def noStep : Nat := 2 ^ 64 - 1

/-- The LRA page is in force: role HOLARN or ETH (R372). -/
def lraInForce (s : State) (g : Nat) : Bool :=
  s.fuses.variant.bonded g && decide (roleOf s g = 1 ∨ roleOf s g = 2)

/-- The page that binds a channel. -/
def seatPage (s : State) (r : Nat) : Option Nat := (List.range 20).find? (fun g => lraInForce s g && (binding s g r).v)

/-- A seat. -/
def seatKey (g r : Nat) : Nat := g * 16 + r
def State.seat (s : State) (g r : Nat) : Seat := SMap.get (fun _ => Seat.reset) s.seats (seatKey g r)
def State.setSeat (s : State) (g r : Nat) (v : Seat) : State :=
  { s with seats := SMap.put (fun _ => Seat.reset) s.seats (seatKey g r) v }

/-- Entry i of the group table (R419): V, SPAN, FLOW, NODE. -/
def tableEntry (s : State) (g r i : Nat) : Bool × Nat × Nat × Nat :=
  let e := s.dword (gtabBase s g r + 8 * i)
  (bit 63 e, fld 42 38 e, fld 37 18 e, fld 17 0 e)

/-- The entry of the module itself agrees with its binding. -/
def tableOk (s : State) (g r : Nat) : Bool :=
  let b := binding s g r
  let (v, sp, _, node) := tableEntry s g r b.myrep
  v && decide (sp = b.span ∧ node = myNode s)

/-! ### The tree (R420) -/

/-- L: levels of the padded tree. -/
def treeLevels (nrep : Nat) : Nat := if nrep ≤ 1 then 0 else (nrep - 1).log2 + 1

/-- The hop levels, ascending. -/
def hopLevels (flog nrep : Nat) : List Nat :=
  ((List.range (treeLevels nrep + 1)).map (fun k => min (k * flog) (treeLevels nrep))).eraseDups

/-- The hop level of the node that a member sends, or of the root's node. -/
def sendLevel (levels : List Nat) (m : Nat) : Nat := (levels.filter (fun l => decide (m % 2 ^ l = 0))).getLastD 0

/-- The parent of a member; none for the root. -/
def parentOf (levels : List Nat) (m : Nat) : Option Nat :=
  (levels.find? (fun l => decide (m % 2 ^ l ≠ 0))).map (fun l => m / 2 ^ l * 2 ^ l)

/-- The hops that a member takes part in, as (level below, level formed). -/
def hopsOf (levels : List Nat) (span m : Nat) : List (Nat × Nat) :=
  (levels.zip levels.tail).filter (fun (a, b) => decide (span ≤ a ∧ b ≤ sendLevel levels m))

/-- The replicas whose nodes a hop combines, padding left out; the first is the member's own. -/
def hopReps (nrep m a b : Nat) : List Nat :=
  ((List.range (2 ^ (b - a))).map (fun t => m + t * 2 ^ a)).filter (fun x => decide (x < nrep))

/-- The tree of a binding. -/
def Binding.levels (b : Binding) : List Nat := hopLevels b.flog b.nrep
def Binding.hops (b : Binding) : List (Nat × Nat) := hopsOf b.levels b.span b.myrep
def Binding.top (b : Binding) : Nat := sendLevel b.levels b.myrep
def Binding.parent (b : Binding) : Option Nat := parentOf b.levels b.myrep

/-- The children of a member: the level of the node each sends, and its replica. -/
def Binding.children (b : Binding) : List (Nat × Nat) :=
  b.hops.flatMap (fun (a, c) => ((hopReps b.nrep b.myrep a c).drop 1).map (fun x => (a, x)))

/-! ### Arithmetic (R422, R423) -/

/-- The wire format. -/
def wireKind (w : Nat) : FmtKind := (fmtKind (if w = 0 then 2 else 3)).getD f32k

/-- widen and to_wire. -/
def widen (w x : Nat) : Nat := cvtNF (wireKind w) x
def toWire (w x : Nat) : Nat := cvtFN (wireKind w) 0 false x

/-- 16-bit values as bytes, and back. -/
def wireWords : List Byte → List Nat
  | a :: b :: rest => (a.toNat + 256 * b.toNat) :: wireWords rest
  | _ => []
def wireBytes (l : List Nat) : List Byte := l.flatMap (leBytes 2)

/-- One hop's element in normal mode: inputs in the order in which they became ready, one rounding. -/
def hopNormal (w : Nat) (xs : List Nat) : Nat :=
  match xs with
  | [] => 0
  | x :: rest => toWire w (rest.foldl (fun acc y => pairAdd 0 0 acc (widen w y)) (widen w x))

/-- A canonical node: padding is none and enters as +0; two paddings make padding. -/
def nodeDet (w : Nat) (a b : Option Nat) : Option Nat :=
  match a, b with
  | none, none => none
  | some x, none => some (toWire w (pairZero (widen w x)))
  | none, some y => some (toWire w (pairZero (widen w y)))
  | some x, some y => some (toWire w (pairAdd 0 0 (widen w x) (widen w y)))

/-- One level of canonical nodes. -/
def detLevel (w : Nat) : List (Option Nat) → List (Option Nat)
  | a :: b :: rest => nodeDet w a b :: detLevel w rest
  | l => l

/-- n levels of canonical nodes. -/
def detHop (w : Nat) : Nat → List (Option Nat) → List (Option Nat)
  | 0, l => l
  | n + 1, l => detHop w n (detLevel w l)

/-- One hop's element in deterministic mode. -/
def hopDet (w k : Nat) (xs : List (Option Nat)) : Nat := ((detHop w k xs).headD none).getD 0

/-- Element i of several chunks, position by position. -/
def columns (l : List (List Nat)) : List (List Nat) :=
  match l with
  | [] => []
  | x :: _ => (List.range x.length).map (fun i => l.map (fun y => y.getD i 0))

/-- Additions of a deterministic hop over n present nodes of 2^k. -/
def detAdds : Nat → Nat → Nat
  | 0, _ => 0
  | k + 1, n => (n + 1) / 2 + detAdds k ((n + 1) / 2)

/-! ### Windows and slots (R428) -/

/-- The lowest chunk whose result has not arrived. -/
def Seat.base (x : Seat) : Nat :=
  ((List.range (x.ress.length + 1)).find? (fun c => x.ress.all (fun e => e.chunk != c))).getD 0

/-- Slots a chunk takes; slots the seat holds. -/
def Seat.per (x : Seat) : Nat := if x.det then 2 else 1
def Seat.slots (x : Seat) : Nat := x.win * x.per

/-- The channel is in use. -/
def Seat.busy (x : Seat) : Bool := x.owner.isSome || x.step.isSome

/-- Slots in use at a page. -/
def slotUse (s : State) (g : Nat) : Nat := ((List.range 16).map (fun r => (s.seat g r).slots)).foldl (· + ·) 0

/-- The window may grow to n chunks: within the 64 guaranteed slots, or within what the other channels leave. -/
def mayHold (s : State) (g r n : Nat) : Bool :=
  let x := s.seat g r
  let others := ((List.range 16).filter (· != r)).map (fun q =>
    let y := s.seat g q
    if y.busy then max y.slots 64 else 0)
  decide (n * x.per ≤ 64 ∨ n * x.per + others.foldl (· + ·) 0 ≤ 2048)

/-- The chunk lies in the window, or the window is extended to it; none without slots. -/
def reach (s : State) (g r c : Nat) : Option State :=
  let x := s.seat g r
  let n := c + 1 - x.base
  if c < x.base then none
  else if n ≤ x.win then some s
  else if mayHold s g r n then some (s.setSeat g r { x with win := n })
  else none

/-! ### Sending (R427) -/

/-- A REDUCE packet to a member. -/
def sendReduce (s : State) (g r rep level chunk dir : Nat) (det : Bool) (step tiles : Nat) (data : List Byte) : State :=
  let b := binding s g r
  let (_, _, flow, node) := tableEntry s g r rep
  let payload := leBytes 8 step ++ leBytes 4 b.nrep ++ leBytes 2 b.grpid ++ leBytes 2 tiles ++ data
  enqueue s flow ⟨0xA, b.wire * 128 + level * 4 + det.toNat * 2 + dir,
    node * 2 ^ 46 + r * 2 ^ 42 + b.myrep * 2 ^ 24 + chunk, payload.length, payload, .reduce (seatKey g r)⟩

/-- Pulls for a step go to every member whose node, or result, the seat lacks (R430, R437). -/
def sendPulls (s : State) (g r : Nat) : State :=
  let b := binding s g r
  let x := s.seat g r
  let whom := b.children.map Prod.snd ++ b.parent.toList
  countEv (whom.foldl (fun t rep => sendReduce t g r rep 0 0 1 x.det (x.step.getD 0) (x.tiles.getD 0) []) s)
    (pgLra g) 7 whom.length

/-! ### Results (R424) -/

/-- The result of a chunk has arrived: its slots and nodes are given up, and it is to be forwarded to the children. -/
def resultIn (s : State) (g r chunk : Nat) (data : List Byte) : State :=
  let x := s.seat g r
  if x.ress.any (fun e => e.chunk == chunk) then s
  else
    let new : RedRes := ⟨chunk, data, (binding s g r).children.map Prod.snd, false⟩
    let y : Seat := { x with
      ins := x.ins.filter (fun e => e.chunk != chunk), nodes := x.nodes.filter (fun e => e.chunk != chunk),
      ress := x.ress ++ [new] }
    s.setSeat g r { y with win := x.base + x.win - y.base }

/-- The node of a chunk at the member's own level is formed: it is kept to be sent, or is the result at the root. -/
def nodeFormed (s : State) (g r chunk level : Nat) (data : List Byte) : State :=
  let b := binding s g r
  let x := s.seat g r
  if level ≠ b.top then s
  else if b.parent.isNone then resultIn s g r chunk data
  else s.setSeat g r { x with nodes := x.nodes ++ [⟨chunk, level, data, false⟩] }

/-- One hop of a chunk: once every input is there and combined, its node is formed and is an input of the next. -/
def tryHop (g r chunk : Nat) (s : State) (hop : Nat × Nat) : State :=
  let (a, b) := hop
  let bd := binding s g r
  let x := s.seat g r
  let reps := hopReps bd.nrep bd.myrep a b
  let here := x.ins.filter (fun e => e.chunk == chunk && e.level == a && e.used && reps.contains e.rep)
  let done := x.ins.any (fun e => e.chunk == chunk && e.level == b && e.rep == bd.myrep)
  if done || here.length < reps.length then s
  else
    let data :=
      if x.det then
        let slots := (List.range (2 ^ (b - a))).map (fun t =>
          (here.find? (fun e => e.rep == bd.myrep + t * 2 ^ a)).map (fun e => wireWords e.data))
        let n := ((here.head?.map (fun e => e.data.length)).getD 0) / 2
        wireBytes ((List.range n).map (fun i => hopDet bd.wire (b - a) (slots.map (fun o => o.map (fun l => l.getD i 0)))))
      else wireBytes ((columns (here.map (fun e => wireWords e.data))).map (hopNormal bd.wire))
    let formed : RedIn := ⟨chunk, b, bd.myrep, data, true⟩
    let s1 := s.setSeat g r { x with ins := x.ins ++ [formed] }
    let adds := if x.det then detAdds (b - a) here.length else here.length - 1
    let s2 := countEv s1 (pgLra g) 3 adds
    let s3 := if !x.det && decide (3 ≤ here.length) then countTdc s2 32 1 else s2
    nodeFormed s3 g r chunk b data

/-- Form what can be formed of a chunk. -/
def formNodes (s : State) (g r chunk : Nat) : State :=
  let b := binding s g r
  let x := s.seat g r
  let own := x.ins.find? (fun e => e.chunk == chunk && e.level == b.span && e.rep == b.myrep)
  match own with
  | some e =>
    if b.hops.isEmpty then (if x.nodes.any (fun n => n.chunk == chunk) then s else nodeFormed s g r chunk b.span e.data)
    else b.hops.foldl (tryHop g r chunk) s
  | none => b.hops.foldl (tryHop g r chunk) s

/-! ### The items of a seat (R418, R425, R432, R436) -/

/-- RVC of a station. -/
def rvcOf (d : StnDef) : Nat := par d 0 1 % 16

/-- The live items of a seat. -/
def seatItems (s : State) (g r : Nat) : List (Nat × Item) :=
  s.liveItems.filter (fun (_, it) => decide (it.kind = 0x13 ∧ it.owner = g)
    && (match (s.job it.job).bind (fun j => j.stn it.sid) with
      | some st => decide (rvcOf st.df = r)
      | none => false))

/-- Every IN0 tile of a step is published. -/
def in0Published (j : Job) (d : StnDef) (step : Nat) : Bool :=
  match (d.ins.getD 0 none).bind j.cnd with
  | none => false
  | some c =>
    let t := c.df.trows * c.df.tcols
    (List.range t).all (fun o => c.pubs.contains ((step - j.s0) * t + o) || c.released.contains ((step - j.s0) * t + o)
      || decide ((step - j.s0) * t + o < c.w))

/-- What R425 asks before an item of a step is dispatched. -/
def seatReady (s : State) (j : Job) (d : StnDef) (step : Nat) : Bool :=
  in0Published j d step && (match seatPage s (rvcOf d) with
    | none => true
    | some g => s.accepts (pgLra g) && decide (lraStep s g (rvcOf d) = noStep ∨ lraStep s g (rvcOf d) + 1 = step))

/-- The binding a station asks for is there (R432). -/
def seatFits (s : State) (g jn sid : Nat) (d : StnDef) : Bool :=
  let b := binding s g (rvcOf d)
  let x := s.seat g (rvcOf d)
  nbit (lgX g) d.placeX && decide (b.nrep = par d 4 4 ∧ b.wire = par d 1 1) && tableOk s g (rvcOf d)
    && (x.owner.isNone || x.owner == some (jn, sid))

/-- A dispatched item takes its seat: the seat's lane group and whether the item ends with REDERR. The first item of a
step makes the channel active, and after a loss of inputs the seat sends its pulls. -/
def takeSeat (s : State) (jn sid : Nat) (j : Job) (d : StnDef) (step : Nat) : Nat × Bool × State :=
  let r := rvcOf d
  match seatPage s r with
  | none => (0, true, s)
  | some g =>
    if !seatFits s g jn sid d then (g, true, raiseInfo s (pgLra g) 8 r)
    else
      let x := s.seat g r
      let adopted := x.step.isSome
      let det := if adopted then x.det else detm s
      let agrees := decide (x.step.getD step = step ∧ x.tiles.getD (tilesOf j d) = tilesOf j d) && (det == j.sample step)
      let s1 := s.setSeat g r { x with owner := some (jn, sid), step := some (x.step.getD step), tiles := some (tilesOf j d), det := det, lost := false }
      let s2 := if x.lost then sendPulls s1 g r else s1
      if agrees then (g, false, s2) else (g, true, raiseInfo s2 (pgLra g) 8 r)

/-- The items of a step on a seat end in error. -/
def failSeat (s : State) (g r status : Nat) : State :=
  (seatItems s g r).foldl (fun t (n, it) => t.setItem n (some { it with err := some (it.err.getD (status, 0, 0)) })) s

/-- A seat gives up its slots and the nodes combined so far; results of tiles that have committed stay, and all of them
at the root, which has no parent to send them again. -/
def clearSeat (s : State) (g r : Nat) (committed : Nat → Bool) : State :=
  let x := s.seat g r
  if x.step.isNone then s
  else
    let keep := x.ress.filterMap (fun e =>
      if committed (e.chunk / 4) then some e
      else if (binding s g r).parent.isNone then some { e with written := false } else none)
    s.setSeat g r { x with owner := none, win := 0, ins := [], nodes := [], ress := keep, lost := true }

/-- The seat of a station is cleared when its items are aborted. -/
def clearStationSeat (s : State) (jn sid : Nat) : State :=
  match s.job jn with
  | none => s
  | some j => match j.stn sid with
    | none => s
    | some st =>
      if st.df.kind ≠ 0x13 then s
      else match seatPage s (rvcOf st.df) with
        | none => s
        | some g =>
          let r := rvcOf st.df
          let x := s.seat g r
          if x.owner != some (jn, sid) then s
          else
            let t := tilesOf j st.df
            let itemOf (o : Nat) : Nat := ((List.range st.df.items).find? (fun i =>
              let (o0, n) := itemSpan t st.df.items i
              decide (o0 ≤ o ∧ o < o0 + n))).getD 0
            clearSeat s g r (fun o => st.done.contains (x.step.getD 0, itemOf o))

/-- An item of a seat has committed: once every item of the step has, LRA_STEP takes the step, and the channel is no
longer active. -/
def seatCommitted (s : State) (it : Item) : State :=
  if it.kind ≠ 0x13 then s
  else match s.job it.job with
    | none => s
    | some j => match j.stn it.sid with
      | none => s
      | some st =>
        if !(List.range st.df.items).all (fun i => st.done.contains (it.step, i)) then s
        else
          let g := it.owner
          let r := rvcOf st.df
          let x := s.seat g r
          (setLraStep s g r it.step).setSeat g r { Seat.reset with prev := some (it.step, x.tiles.getD 0, x.det, x.ress) }

/-- START of a job: LRA_STEP of its channels returns to all ones (R433). -/
def startSeats (s : State) (j : Job) : State :=
  j.stns.foldl (fun t st =>
    if st.df.kind ≠ 0x13 then t
    else match seatPage t (rvcOf st.df) with
      | none => t
      | some g => setLraStep t g (rvcOf st.df) noStep) s

end Sys2Proof.Machine
end

