-- ==== Sys2Proof/Machine/Cycle.lean ====
section
/-! DEFINITION. What a reference cycle does when no command waits (log entry 1): time passes, DIE_MTIME counts, and so
do the event sources that count reference cycles (spec/20_counters_and_debug.md R522, R525). -/

namespace Sys2Proof.Machine

/-- In deterministic mode a slot of a seat holds a node whose partner is not there: no hop has taken it up
(spec/15_fabric_reduction.md R428). -/
def awaitsPartner (s : State) (g r : Nat) : Bool :=
  let x := s.seat g r
  x.det && x.ins.any (fun e => e.used && decide (e.level < (binding s g r).top)
    && x.ins.all (fun y => decide (y.chunk ≠ e.chunk ∨ y.level ≤ e.level)))

/-- A reference cycle of the clocked blocks, counted by the event counters that sample it: the H-die, each fitted die,
the sump while a fault waits for a slot, the queues whose records wait for ring space, the link adders whose nodes
wait for partners. -/
def countCycle (s : State) : State :=
  let s1 := countEv s pgGlb 1 1
  let s2 := (List.range 5).foldl (fun t d => if (presentPage t (pgDie d)).isSome then countEv t (pgDie d) 1 1 else t) s1
  let s3 := if s2.sump.noslot = [] then s2 else countEv s2 pgSump 3 1
  let s4 := s3.queues.foldl (fun t (q, c) => if c.waiting.isEmpty then t else countEv t (pgQue q) 4 1) s3
  (List.range 20).foldl (fun t g => if (List.range 16).any (awaitsPartner t g) then countEv t (pgLra g) 6 1 else t) s4

/-- One cycle of the reference clock with no command waiting: the model's time advances, and DIE_MTIME counts
while the H-die's clocks run (spec/12_host_cores.md R337; log entry 1). -/
def tick (s : State) : State :=
  let s1 := { s with now := s.now + 1 }
  if live s then countCycle (s1.addReg (regAddr (pgDie 2) 0x300) 1) else s1

end Sys2Proof.Machine
end

