-- ==== Sys2Proof/Machine/Module.lean ====
section
/-! DEFINITION. The module as a whole: reset, reference, rails, the two 48 V feeds and the management I3C
paths (spec/01_module_and_dies.md R25 to R44, spec/22_ratings.md R537 to R552). -/

namespace Sys2Proof.Machine

/-- The machine after module reset: every register and every table at its reset value; fuses, pins, memory
while power stays (log entry 5), the well, the boot flash and the model's own fields keep theirs (R34, R54). -/
def moduleReset (s : State) : State :=
  { State.reset with
    fuses := s.fuses
    keys := s.keys
    pins := { s.pins with feedA := { s.pins.feedA with latched := false }, feedB := { s.pins.feedB with latched := false } }
    boot := { State.reset.boot with bankA := s.boot.bankA, bankB := s.boot.bankB }
    mem := s.mem
    poison := s.poison
    well := { s.well with energy := 0, ready := false, recov := false, hot := [], moves := [] }
    free := s.free
    now := s.now
    outs := s.outs
    pending := s.pending }

/-- A feed carries load: within 36 V to 62 V and not latched off (R37, R538). -/
def Feed.carries (f : Feed) : Bool := (decide (f.cond = .good) || decide (f.cond = .margin)) && !f.latched

/-- FEEDx_OK: within 40 V to 60 V and connected (R38). -/
def Feed.ok (f : Feed) : Bool := decide (f.cond = .good) && !f.latched

/-- Some feed carries load. -/
def Pins.supplied (p : Pins) : Bool := p.feedA.carries || p.feedB.carries

/-- ONEFEED of PWR_IN_STAT (R38). -/
def oneFeed (s : State) : Bool := bit 3 (s.reg (regAddr (pgPwr 2) 0x200))

/-- Change ONEFEED: a change raises the power-input event and brings the cap up to date (R36, R38, R490). -/
def setOneFeed (s : State) (b : Bool) : State :=
  if oneFeed s = b then s
  else capRefresh (raise (s.setRegF (pgPwr 2) 0x200 3 3 b.toNat) (pgPwr 2) 8)

/-- Input is lost (R37, spec/09_memory_tiers.md R266): everything but the well, the boot flash and the fuses
is lost; the hold-up bank feeds the well-tier path until it is parked. -/
def inputLost (s : State) : State :=
  let t := moduleReset s
  { t with
    pins := { s.pins with pwrgd := false }
    phase := .noInput
    mem := []
    poison := []
    well := { t.well with power := .bank } }

/-- The module after a feed changed: one-feed mode while fewer than two feeds are OK and one carries load;
loss of input when none does (R37, R538). -/
def afterFeed (s : State) : State :=
  if s.phase = .noInput then s
  else if !s.pins.supplied then inputLost s
  else if s.pins.feedA.ok && s.pins.feedB.ok then s
  else if s.phase = .running then setOneFeed s true
  else s

/-- Power returns: the module comes up held in reset, the well-tier path on its input. -/
def powerUp (t : State) : State := { t with phase := .inReset, well := { t.well with power := .input } }

/-- MOD_RESET_N low, and the hot-swap switches' latches ended by it (R37). -/
def resetPins (s : State) : State :=
  { s with
    pins :=
      { s.pins with
        feedA := { s.pins.feedA with latched := false }
        feedB := { s.pins.feedB with latched := false }
        resetN := false } }

/-- MOD_RESET_ASSERT (R34): every die is held in reset; work in flight, registers and boot progress are lost. Without
input it ends the latches of the hot-swap switches, and a feed within its band powers the module up (R37). -/
def execModResetAssert (s : State) : Out :=
  let t := resetPins s
  if s.phase ≠ .noInput then .next { moduleReset t with phase := .inReset }
  else if t.pins.feedA.ok || t.pins.feedB.ok then .next (powerUp t)
  else .next t

/-- MOD_RESET_RELEASE (R549): MOD_RESET_N, MOD_PWRGD and a valid reference have held together for 1 ms, and
boot starts at stage 0. With MOD_PWRGD low the release stays held. -/
def execModResetRelease (s : State) : Out :=
  if s.phase = .inReset ∧ s.pins.pwrgd then
    .next (afterFeed { s with pins := { s.pins with resetN := true, refOk := true }, phase := .running })
  else .next s

/-- REF_LOSS_DETECT (R27): the die declares the reference lost, which is FATAL cause 0x01. -/
def execRefLossDetect (die : Nat) (s : State) : Out :=
  if s.phase = .running ∧ hasDie s die then
    let s1 := { s with pins := { s.pins with refOk := false } }
    .next (fatalStop (s1.setRegF (pgDie die) 0x108 4 4 1) 1 0 die)
  else .next s

/-- RAIL_OUT_OF_REGULATION (R34): MOD_PWRGD falls; on a running module FATAL cause 0x03 with the rail. -/
def execRailOutOfRegulation (die rail : Nat) (s : State) : Out :=
  if s.phase = .noInput then .next s
  else
    let s1 := { s with pins := { s.pins with pwrgd := false } }
    if s.phase = .running ∧ hasDie s die then .next (fatalStop s1 3 rail die) else .next s1

/-- PWRGD_RISE (R539): every rail is in regulation after the first feed came good. -/
def execPwrgdRise (s : State) : Out :=
  .next (if s.phase ≠ .noInput ∧ s.pins.supplied then { s with pins := { s.pins with pwrgd := true } } else s)

/-- Change feed A (false) or B. -/
def updFeed (s : State) (b : Bool) (f : Feed → Feed) : State :=
  { s with pins := if b then { s.pins with feedB := f s.pins.feedB } else { s.pins with feedA := f s.pins.feedA } }

/-- The feed A (false) or B. -/
def feedOf (s : State) (b : Bool) : Feed := if b then s.pins.feedB else s.pins.feedA

/-- WELL_POWER_PARKED (spec/09_memory_tiers.md R266): after a loss of input the flash is parked and the well-tier
path powers off. -/
def execWellPowerParked (s : State) : Out :=
  .next (if hasWell s ∧ s.phase = .noInput ∧ s.well.power = .bank then
    { s with well := { s.well with power := .off } } else s)

/-- FEED_GOOD (R538): a feed enters 40 V to 60 V (dv in 0.1 V). A feed opened for overvoltage waits for
FEED_RECLOSE. On a module without input it powers the module up, held in reset. -/
def execFeedGood (b : Bool) (dv : Nat) (s : State) : Out :=
  if dv < 400 ∨ 600 < dv then .next s
  else if (feedOf s b).cond = .overOpen then .next (updFeed s b (fun f => { f with dv := dv }))
  else
    let t := updFeed s b (fun f => { f with cond := .good, dv := dv })
    .next (if t.phase = .noInput ∧ (feedOf t b).ok then powerUp t else t)

/-- FEED_OPEN (R37): a feed falls below 36 V or is reversed, and reads absent. -/
def execFeedOpen (b : Bool) (dv : Nat) (s : State) : Out :=
  if 360 ≤ dv then .next s
  else .next (afterFeed (updFeed s b (fun f => { f with cond := .absent, dv := dv })))

/-- FEED_OUT_OF_BAND (R538): a feed in 36 V to 40 V or 60 V to 62 V stays connected and is not OK. -/
def execFeedOutOfBand (b : Bool) (dv : Nat) (s : State) : Out :=
  if (360 ≤ dv ∧ dv < 400) ∨ (600 < dv ∧ dv ≤ 620) then
    if (feedOf s b).cond = .overOpen then .next (updFeed s b (fun f => { f with dv := dv }))
    else .next (afterFeed (updFeed s b (fun f => { f with cond := .margin, dv := dv })))
  else .next s

/-- FEED_OVERVOLTAGE (R538): above 62 V the feed's switch opens; this is no trip. -/
def execFeedOvervoltage (b : Bool) (dv : Nat) (s : State) : Out :=
  if dv ≤ 620 then .next s
  else .next (afterFeed (updFeed s b (fun f => { f with cond := .overOpen, dv := dv })))

/-- FEED_RECLOSE (R538): an opened feed stayed within 40 V to 60 V for 100 ms. -/
def execFeedReclose (b : Bool) (dv : Nat) (s : State) : Out :=
  if (feedOf s b).cond = .overOpen ∧ 400 ≤ dv ∧ dv ≤ 600 then
    let t := updFeed s b (fun f => { f with cond := .good, dv := dv })
    .next (if t.phase = .noInput ∧ (feedOf t b).ok then powerUp t else t)
  else .next s

/-- FEED_EXTERNAL_SHORT (R37): the feed is isolated and the other is not loaded. -/
def execFeedExternalShort (b : Bool) (s : State) : Out :=
  .next (afterFeed (updFeed s b (fun f => { f with cond := .absent, dv := 0 })))

/-- HOTSWAP_TRIP (R37): the feed latches off until the next module reset; TRIP records a single trip. -/
def execHotswapTrip (b : Bool) (s : State) : Out :=
  if (feedOf s b).carries then
    let t := updFeed s b (fun f => { f with latched := true })
    .next (afterFeed (if t.pins.supplied then t.setRegF (pgPwr 2) 0x200 2 2 1 else t))
  else .next s

/-- FULL_CAP_RESTORE (R36): both feeds have been good for 100 ms. -/
def execFullCapRestore (s : State) : Out :=
  .next (if live s && s.pins.feedA.ok && s.pins.feedB.ok then setOneFeed s false else s)

/-! ### The management paths -/

/-- A path with any faulted line is faulted (R39). -/
def MgmtPath.faulted (p : MgmtPath) : Bool := decide (p.scl ≠ .clean) || decide (p.sda ≠ .clean)

/-- PRI_FLT and SEC_FLT of SEC_MGT_STAT (R44). -/
def MgmtPath.code (p : MgmtPath) : Nat :=
  match p.scl, p.sda with
  | .clean, .clean => 0
  | .stuckLow, .clean => 1
  | .clean, .stuckLow => 2
  | .openLine, .clean => 3
  | .clean, .openLine => 4
  | _, _ => 5

/-- The primary (false) or secondary path. -/
def pathOf (s : State) (sec : Bool) : MgmtPath := if sec then s.mgmt.sec else s.mgmt.pri

/-- Change a path. -/
def updPath (s : State) (sec : Bool) (f : MgmtPath → MgmtPath) : State :=
  { s with mgmt := if sec then { s.mgmt with sec := f s.mgmt.sec } else { s.mgmt with pri := f s.mgmt.pri } }

/-- Make a path active: SW_CNT counts and saturates (R44). -/
def switchPath (s : State) (sec : Bool) : State :=
  { s with mgmt := { s.mgmt with secActive := sec, swCnt := satAdd 0xFF s.mgmt.swCnt 1 } }

/-- Whenever the active path is faulted and the other is clean, the other becomes active, with an in-band interrupt on
it (R42). -/
def pathRule (s : State) : State :=
  if (pathOf s s.mgmt.secActive).faulted && !(pathOf s (!s.mgmt.secActive)).faulted then
    ibi (switchPath s (!s.mgmt.secActive))
  else s

/-- Set the fault of a line. -/
def MgmtPath.setLine (p : MgmtPath) (sda : Bool) (f : LineFault) : MgmtPath :=
  if sda then { p with sda := f } else { p with scl := f }

/-- Set the count of failed open probes of a line. -/
def MgmtPath.setProbes (p : MgmtPath) (sda : Bool) (n : Nat) : MgmtPath :=
  if sda then { p with sdaProbes := n } else { p with sclProbes := n }

/-- I3C_STUCK_LOW (R39): a line has stayed low for 25 ms. -/
def execI3cStuckLow (sec sda : Bool) (s : State) : Out :=
  .next (if potemirRuns s then pathRule (updPath s sec (fun p => p.setLine sda .stuckLow)) else s)

/-- I3C_OPEN_PROBE (R39): one pull-down probe of an idle line; the third failure in a row declares it open. -/
def execI3cOpenProbe (sec sda : Bool) (failed : Bool) (s : State) : Out :=
  if potemirRuns s then
    let p := pathOf s sec
    let n := if failed then (if sda then p.sdaProbes else p.sclProbes) + 1 else 0
    let t := updPath s sec (fun p => p.setProbes sda (min n 3))
    .next (if 3 ≤ n then pathRule (updPath t sec (fun p => p.setLine sda .openLine)) else t)
  else .next s

/-- I3C_LINE_CLEAN (R39): a faulted line stayed clean for 1 s. -/
def execI3cLineClean (sec sda : Bool) (s : State) : Out :=
  .next (if potemirRuns s then
    pathRule (updPath s sec (fun p => (p.setLine sda .clean).setProbes sda 0)) else s)

/-- I3C_GETSTATUS (R40): answered on either path that works. -/
def execI3cGetstatus (sec : Bool) (s : State) : Out :=
  .next (if potemirRuns s && !(pathOf s sec).faulted then
    { s with outs := .i3cStatus sec (decide (s.mgmt.secActive = sec)) :: s.outs } else s)

/-- PRI_RETURN (R41): written over a path; only the active path serves it, the primary path is not active
already and has no fault. -/
def execPriReturn (sec : Bool) (s : State) : Out :=
  .next (if potemirRuns s && decide (s.mgmt.secActive = sec) && sec && !(pathOf s sec).faulted
      && !s.mgmt.pri.faulted then switchPath s false else s)

/-- DYNAMIC_ADDRESS_ASSIGNMENT (R40): the sled's controller assigns an address on one path. -/
def execDynamicAddressAssignment (sec : Bool) (addr : Nat) (s : State) : Out :=
  if potemirRuns s && !(pathOf s sec).faulted then
    let t := updPath s sec (fun p => { p with dynAddr := some (addr % 128) })
    .next { t with outs := .i3cAddr sec (addr % 128) :: t.outs }
  else .next s

end Sys2Proof.Machine
end

