-- ==== Sys2Proof/Machine/Power.lean ====
section
/-! DEFINITION. The commands of the power controllers (spec/18_power_and_thermal.md R484 to R506) and of
the host cores' frequency (spec/12_host_cores.md R339). -/

namespace Sys2Proof.Machine

/-- The coefficient of an event of a die (R501). -/
def coefOf (s : State) (d k : Nat) : Nat := s.regF (pgPwr d) (0x300 + 8 * k) 31 0

/-- The energy, in fJ, of n events k of a die in a window; an event on a compute-unit rail is scaled by
(V / 0.80)² with the rail's set point (R501). -/
def eventFj (s : State) (d : Nat) (e : Nat × Nat × Nat) : Nat :=
  let (k, rail, n) := e
  let c := n * coefOf s d k
  if d < 2 ∧ k < 7 then c * railSet s d rail * railSet s d rail / 25600 else c

/-- The events of the side consumer: near memory on a C-die (k = 8), flash on an X-die (k = 3, 4). -/
def isSide (d k : Nat) : Bool := if d < 2 then decide (k = 8) else decide (3 ≤ d ∧ (k = 3 ∨ k = 4))

/-- Modelled power in mW of a window of 10.24 µs: 10,240,000 fJ over the window are 1 mW (R487, R501). -/
def windowMw (s : State) (d : Nat) (side : Bool) (acts : List (Nat × Nat × Nat)) : Nat :=
  ((acts.filter (fun e => isSide d e.1 == side)).map (eventFj s d)).foldl (· + ·) 0 / 10240000

/-- How many sensors a die has (R493). -/
def sensorsOf (d : Nat) : Nat := if d < 2 then 64 else if d = 2 then 32 else 16

/-- TMAX as the controller treats it: with fewer than half of its sensors working, TLIM + 1 (R493). -/
def effTmax (s : State) (d tmax : Nat) : Nat :=
  if (s.pdie d).sensorsBad * 2 ≤ sensorsOf d then tmax else s.regF (pgPwr d) 0x188 7 0 + 1

/-- The C-dies are in a rest state (R497). -/
def resting (s : State) : Bool := decide (s.regF (pgPwr 2) 0x128 2 0 ≠ 0)

/-- Thermal throttling of one window (R493): the budget falls by 2 % while TMAX exceeds TLIM and rises by
2 % once it is at or below TLIM − 2. Entry sets THERM. -/
def thermStep (s : State) (d tmax : Nat) : State :=
  let p := s.pdie d
  let tlim := s.regF (pgPwr d) 0x188 7 0
  let inj := armedAt s (pgPwr d) 9
  let s0 := if inj then disarm s (pgPwr d) 9 else s
  let t := effTmax s d tmax
  let s1 :=
    if inj || decide (tlim < t) then
      let s2 := s0.setPdie d { p with thermDown := min 100 (p.thermDown + 2) }
      if p.thermDown = 0 then raiseWith s2 (pgPwr d) 9 { ErrInfo.plain with inj := inj } else s2
    else if t + 2 ≤ tlim then s0.setPdie d { p with thermDown := p.thermDown - 2 }
    else s0
  let on := decide (0 < (s1.pdie d).thermDown)
  let s3 := (s1.setRegF (pgPwr d) 0x180 63 56 t).setRegF (pgPwr d) 0x180 49 49 on.toNat
  if on then countEv s3 (pgPwr d) 2 1 else s3

/-- PWR_WINDOW (R487): at the end of a window of 1,024 reference cycles a controller takes the window's
events (coefficient number, rail, count), its static power in mW and TMAX, and adjusts its means. The rails of a
rest state stay where it put them (R496). -/
def execPwrWindow (d : Nat) (acts : List (Nat × Nat × Nat)) (staticMw tmax : Nat) (waiting sideWaiting : Bool)
    (s : State) : Out :=
  whenLive s <|
    if !hasDie s d then s else
    let s1 := thermStep s d tmax
    let p := s1.pdie d
    let b := dieBudget p d
    let pw := windowMw s1 d false acts + staticMw
    let g := regulate pw b waiting
    let sb := sideBudget s1 p d
    let sg := regulate (windowMw s1 d true acts) sb sideWaiting
    let p' : PwrDie := { p with
      mainStep := (if d < 2 then p.mainStep
        else if d = 2 then freqStep s1.fuses.coreFmax g (hLimit s1)
        else if p.hint.isSome then p.mainStep else rateStep g p.mainStep)
      sideStep := (if d = 2 then p.sideStep else rateStep sg p.sideStep) }
    let s2 := s1.setPdie d p'
    let s3 := if d < 2 then (if resting s then s2 else mapRails s2 d (railStep g)) else if d = 2 then freqUpdateAll s2 else s2
    let lowered := decide (g = .lower4) || decide (g = .lower1)
    let s4 := (((s3.setRegF (pgPwr d) 0x180 15 0 b).setRegF (pgPwr d) 0x180 31 16 sb).setRegF
      (pgPwr d) 0x180 47 32 (pw / 1000)).setRegF (pgPwr d) 0x180 48 48 lowered.toNat
    if lowered then countEv s4 (pgPwr d) 1 1 else s4

/-- Static energy divided among queues in proportion to their dynamic energy (R502): the parts and what is
left over. -/
def shareStatic (static : Nat) (dyn : List (Nat × Nat)) : List (Nat × Nat) × Nat :=
  let tot := (dyn.map Prod.snd).foldl (· + ·) 0
  if tot = 0 then (dyn, static)
  else
    let parts := dyn.map (fun (q, e) => (q, e + static * e / tot))
    let given := (dyn.map (fun (_, e) => static * e / tot)).foldl (· + ·) 0
    (parts, static - given)

/-- PWR_REPORT (R489, R502): a die's report of the last 1 ms: dynamic energy per queue, unattributed dynamic
energy, static energy (all µJ), TMAX, and on the H-die the input measured (W, µJ) and module power. -/
def execPwrReport (d : Nat) (perQueue : List (Nat × Nat)) (unattr static : Nat) (tmax : Nat)
    (pinW einUj pmodW : Nat) (s : State) : Out :=
  whenLive s <|
    if !hasDie s d then s else
    let (parts, rest) := shareStatic static perQueue
    let s1 := parts.foldl (fun t (q, e) => t.addReg (regAddr (pgQue q) 0x158) e) s
    let s2 := s1.addReg (regAddr (pgPwr 2) 0x140) (unattr + rest)
    let s3 := s2.setRegF (pgPwr d) 0x180 63 56 tmax
    if d = 2 then
      ((s3.addReg (regAddr (pgPwr 2) 0x148) einUj).setRegF (pgPwr 2) 0x110 63 48 pinW).setRegF
        (pgPwr 2) 0x110 47 32 pmodW
    else s3

/-- CAPSET (R489): a die receives a CAPSET message on its way and applies it if it is later than the last. -/
def execCapset (d seq : Nat) (s : State) : Out :=
  whenLive s <|
    match s.pwr.capsets.find? (fun m => m.1 == d && m.2.1 == seq) with
    | none => s
    | some (_, q, cap, shares) =>
      let s1 := { s with pwr := { s.pwr with
        capsets := s.pwr.capsets.filter (fun m => !(m.1 == d && m.2.1 == seq)) } }
      let p := s1.pdie d
      let ahead := (q + 2 ^ 16 - p.capSeq) % 2 ^ 16
      if 0 < ahead ∧ ahead < 2 ^ 15 then s1.setPdie d { p with capSeq := q, cap := cap, shares := shares } else s1

/-- HINT_LAPSE (R492): BEATS beats have passed. -/
def execHintLapse (d : Nat) (s : State) : Out := whenLive s (hintLapse s d)

/-- PACE_CHECK (R499, R500): of the last 1 ms (100,000 reference cycles), seats waited for results in
waitCyc of them; the C-die controllers follow SLACK. -/
def execPaceCheck (waitCyc : Nat) (s : State) : Out :=
  whenLive s <|
    let s1 := s.addReg (regAddr (pgPwr 2) 0x130) waitCyc
    let ctl := s.reg (regAddr (pgPwr 2) 0x138)
    let slack := fld 7 0 ctl
    if !bit 8 ctl then s1
    else
      (cdiesOf s).foldl (fun t d =>
        let p := t.pdie d
        let n :=
          if slack * 1000 < waitCyc then min 100 (p.paceDown + 2)
          else if waitCyc * 2 < slack * 1000 then p.paceDown - 2
          else p.paceDown
        (t.setPdie d { p with paceDown := n }).setRegF (pgPwr d) 0x180 50 50 (decide (0 < n)).toNat) s1

/-- A write of PWR_CAP (R490, R503). -/
def pwrCapWrite (s : State) (v : W64) : State :=
  let w := fld 15 0 v
  if w < 1000 ∨ 3600 < w then reject s (pgPwr 2)
  else capRefresh (s.setReg (regAddr (pgPwr 2) 0x100) (BitVec.ofNat 64 w))

/-- PWR_CAP_WRITE (R490). -/
def execPwrCapWrite (v : W64) (s : State) : Out := whenLive s (pwrCapWrite s v)

/-- A write of PWR_SHARE is valid: not locked, at most 100 in sum, and CD0, CD1 and HD at least 5 where the
consumer is present (R485). -/
def shareOk (s : State) (v : W64) : Bool :=
  let f (i : Nat) := fld (8 * i + 7) (8 * i) v
  !bit 56 (s.reg (regAddr (pgPwr 2) 0x108)) && decide (f 0 + f 1 + f 2 + f 3 + f 4 + f 5 + f 6 ≤ 100)
    && decide (5 ≤ f 0) && decide (5 ≤ f 2) && (!hasCdie s 1 || decide (5 ≤ f 1))

/-- A write of PWR_SHARE; setting LOCK sends CAPSET (R485, R489). -/
def pwrShareWrite (s : State) (v : W64) : State :=
  if shareOk s v then
    let s1 := s.setReg (regAddr (pgPwr 2) 0x108) (BitVec.ofNat 64 (fld 56 0 v))
    if bit 56 v then sendCapset s1 else s1
  else reject s (pgPwr 2)

/-- PWR_SHARE_WRITE (R485). -/
def execPwrShareWrite (v : W64) (s : State) : Out := whenLive s (pwrShareWrite s v)

/-- THERMAL_TRIP (R494): a die's TMAX of at least 115 °C has stayed for 100 µs: FATAL cause 0x04. -/
def execThermalTrip (d tmax : Nat) (s : State) : Out :=
  if s.phase = .running ∧ hasDie s d ∧ 115 ≤ tmax then
    .next (fatalStop (s.setRegF (pgPwr d) 0x180 63 56 tmax) 4 0 d)
  else .next s

/-- SENSOR_FAIL (R493): the sensor is ignored and SENSOR set. -/
def execSensorFail (d : Nat) (s : State) : Out :=
  whenLive s <|
    if !hasDie s d ∨ sensorsOf d ≤ (s.pdie d).sensorsBad then s
    else raise (s.setPdie d { s.pdie d with sensorsBad := (s.pdie d).sensorsBad + 1 }) (pgPwr d) 10

/-- A write of DIE_COREFREQ[c] (spec/12 R339, R345): REQ below 0x28 is invalid. -/
def corefreqWrite (s : State) (c : Nat) (v : W64) : State :=
  if fld 7 0 v < 0x28 then reject s (pgDie 2)
  else freqUpdate (s.setRegF (pgDie 2) (0xC00 + 8 * c) 7 0 (fld 7 0 v)) c

/-- COREFREQ_WRITE (R339). -/
def execCorefreqWrite (c : Nat) (v : W64) (s : State) : Out :=
  whenLive s (if c < 128 then corefreqWrite s c v else s)

/-- FREQ_CHANGE_DONE (R339): the pause is over and CUR reports the granted frequency. -/
def execFreqChangeDone (c : Nat) (s : State) : Out :=
  whenLive s <|
    match (s.hart c).freqTo with
    | none => s
    | some f => (s.setHart c { s.hart c with freqTo := none }).setRegF (pgDie 2) (0xC00 + 8 * c) 39 32 f

/-- CORE_SUPPLY_DROOP (R491): the core stretches its clock for n of its cycles while its supply is 30 mV
below its set point; raises no error. -/
def execCoreSupplyDroop (c n : Nat) (low : Bool) (s : State) : Out :=
  whenLive s <|
    if (s.hart c).startPc.isNone then s
    else
      let s1 := s.setHart c { s.hart c with stretched := low }
      if low then countEv s1 (pgPwr 2) 5 n else s1

end Sys2Proof.Machine
end

