-- ==== Sys2Proof/Machine/Boot.lean ====
section
/-! DEFINITION. Boot, firmware signing, measurements, the configuration digest and SPDM
(spec/19_boot_and_attestation.md R507 to R521). -/

namespace Sys2Proof.Machine

/-! ### Manifests (R507, R508) -/

/-- Bytes o to o + n − 1 of a bank; bytes it does not hold read as erased flash, 0. -/
def slice (bs : List Byte) (o n : Nat) : List Byte :=
  let t := (bs.drop o).take n
  t ++ List.replicate (n - t.length) 0

/-- NIMG. -/
def nimg (bank : List Byte) : Nat := fieldAt bank 5 1

/-- The signed body, bytes 0x000 to 0x29F. -/
def manifestBody (bank : List Byte) : List Byte := slice bank 0 0x2A0

/-- The image entries of a TYPE: OFFSET, LENGTH and hash. -/
def imgEntries (bank : List Byte) (ty : Nat) : List (Nat × Nat × List Byte) :=
  ((List.range (min (nimg bank) 8)).filter (fun i => fieldAt bank (8 + 64 * i) 1 == ty)).map (fun i =>
    (fieldAt bank (8 + 64 * i + 8) 4, fieldAt bank (8 + 64 * i + 12) 4, slice bank (8 + 64 * i + 16) 48))

/-- The bytes of the image of a TYPE. -/
def imageOf (bank : List Byte) (ty : Nat) : List Byte :=
  match imgEntries bank ty with
  | (o, n, _) :: _ => (bank.drop o).take n
  | [] => []

/-- The fields that R507 fixes: MAGIC, NIMG, and every reserved byte and FLAGS bit 0. -/
def manifestFieldsOk (bank : List Byte) : Bool :=
  decide (fieldAt bank 0 4 = 0x54464D50) && decide (1 ≤ nimg bank ∧ nimg bank ≤ 8)
    && decide (fieldAt bank 4 1 < 64) && decide (nfld 7 1 (fieldAt bank 6 2) = 0)
    && (List.range (min (nimg bank) 8)).all (fun i =>
      (slice bank (8 + 64 * i + 1) 7).all (· == 0))
    && (slice bank (8 + 64 * nimg bank) (0x200 - 64 * nimg bank)).all (· == 0)

/-- Exactly one entry of each TYPE 0x01 to 0x04, each image matching its hash. -/
def imagesOk (bank : List Byte) : Bool :=
  [1, 2, 3, 4].all (fun ty =>
    match imgEntries bank ty with
    | [(o, n, h)] => decide (o + n ≤ bank.length) && decide (sha384 ((bank.drop o).take n) = h)
    | _ => false)
    && decide (nimg bank = 4)

/-- The key-hash slot, not revoked, that a key matches (R508). -/
def keySlot (slots : List (List Byte)) (rev : Nat) (key : List Byte) : Option Nat :=
  (List.range 4).find? (fun i => !nbit i rev && decide (slots[i]? = some (sha384 key)))

/-- The failure CODE of a bank's manifest (R508, R512), 0 when it is valid. The checks are taken in the
order in which R508 lists them, the fields first (log entry 22). -/
def manifestCode (k : KeyFuses) (bank : List Byte) : Nat :=
  let body := manifestBody bank
  if !manifestFieldsOk bank then 5
  else if !Config.ecdsaVerify (slice bank 0x208 96) (slice bank 0x2A0 96) (sha384 body) then 2
  else if !Config.lmsVerify (slice bank 0x268 56) (slice bank 0x300 1772) body then 2
  else if (keySlot k.ecKeys k.ecRev (slice bank 0x208 96)).isNone then 3
  else if (keySlot k.lmsKeys k.lmsRev (slice bank 0x268 56)).isNone then 3
  else if fieldAt bank 4 1 < k.svnMin then 4
  else if !imagesOk bank then 5
  else 0

/-! ### Stages (R511, R512) -/

/-- STAGE of SEC_BOOTSTAT. -/
def bootStage (s : State) : Nat := s.regF pgSec 0x100 11 8

/-- The bank that was booted: BANK of SEC_BOOTSTAT. -/
def bootBank (s : State) : List Byte := if bit 1 (s.reg (regAddr pgSec 0x100)) then s.boot.bankB else s.boot.bankA

/-- Boot stops: CODE is written and an in-band interrupt raised (R512). -/
def bootStop (s : State) (code : Nat) : State :=
  let s1 := s.setRegF pgSec 0x100 23 16 code
  ibi { s1 with boot := { s1.boot with stopped := true } }

/-- Slot s of the measurements as 48 bytes (R513, R520). -/
def measSlot (s : State) (n : Nat) : List Byte :=
  (List.range 6).flatMap (fun w => leBytes 8 (s.reg (regAddr pgSec (0x300 + 8 * (6 * n + w)))).toNat)

/-- Store a measurement slot. -/
def setMeasSlot (s : State) (n : Nat) (d : List Byte) : State :=
  (List.range 6).foldl (fun t w =>
    t.setReg (regAddr pgSec (0x300 + 8 * (6 * n + w))) (BitVec.ofNat 64 (fieldAt d (8 * w) 8))) s

/-- Extend slot n with a 48-byte value (R514). -/
def extend (s : State) (n : Nat) (d : List Byte) : State := setMeasSlot s n (sha384 (measSlot s n ++ d))

/-- BOOT_ROM_DONE (R509, R511): bank A is tried first, then bank B; the manifest body and PFW are measured
into slot 0. -/
def execBootRomDone (s : State) : Out :=
  if s.phase = .running ∧ !s.boot.stopped ∧ bootStage s = 0 then
    let ca := manifestCode s.keys s.boot.bankA
    let useB := decide (ca ≠ 0)
    let s1 := if useB then s.setRegF pgSec 0x100 0 0 1 else s
    let bank := if useB then s.boot.bankB else s.boot.bankA
    let cb := manifestCode s.keys bank
    if cb ≠ 0 then .next (bootStop (s1.setRegF pgSec 0x100 1 1 1) cb)
    else
      let s2 := s1.setRegF pgSec 0x100 1 1 useB.toNat
      let s3 := s2.setRegF pgSec 0x108 13 8 (fieldAt bank 4 1)
      let s4 := (s3.setRegF pgSec 0x110 13 12 ((keySlot s.keys.ecKeys s.keys.ecRev (slice bank 0x208 96)).getD 0)).setRegF
        pgSec 0x110 15 14 ((keySlot s.keys.lmsKeys s.keys.lmsRev (slice bank 0x268 56)).getD 0)
      let s5 := extend (extend s4 0 (sha384 (manifestBody bank))) 0 (sha384 (imageOf bank 1))
      .next (s5.setRegF pgSec 0x100 11 8 1)
  else .next s

/-- The identity check of R24 over the fitted dies and links. -/
def identityOk (s : State) : Bool :=
  let ds := diesOf s
  let f := s.fuses
  ds.all (fun d => f.valids.getD d false)
    && ds.all (fun d => ds.all (fun e => d == e || f.dieNums.getD d 0 != f.dieNums.getD e 0))
    && ds.all (fun d => f.serials.getD d 0 == f.serials.getD 2 0)
    && (List.range 10).all (fun n => !hasDlk s n ||
      decide ((dlkEnds[n]?).map Prod.snd = (f.farDies.find? (fun p => p.1 == n)).map Prod.snd))

/-- DLK_STAT after the slices in service change (R29). -/
def dlkStat (s : State) (n : Nat) (up : Bool) : State :=
  let g := popCount 16 (s.dlink n).slices
  let far := ((s.fuses.farDies.find? (fun p => p.1 == n)).map Prod.snd).getD 0
  s.setReg (regAddr (pgDlk n) 0x108)
    (BitVec.ofNat 64 (g * 2 ^ 16 + far * 2 ^ 5 + (if g < 16 then 2 else 0) + up.toNat))

/-- BOOT_PFW_DONE (R511, R24): the dies are released, the die links trained and identities checked. -/
def execBootPfwDone (s : State) : Out :=
  if s.phase = .running ∧ !s.boot.stopped ∧ bootStage s = 1 then
    let s1 := ((List.range 10).filter (hasDlk s)).foldl (fun t n => dlkStat t n true) s
    if identityOk s then .next (s1.setRegF pgSec 0x100 11 8 2) else .next (bootStop s1 1)
  else .next s

/-- The power controllers start with reset budgets (R487): rails at 0.70 V, and CAPSET sent (R489). -/
def powerStart (s : State) : State :=
  let s1 := (cdiesOf s).foldl (fun t d =>
    (List.range 16).foldl (fun u r =>
      (u.setRegF (pgPwr d) (0x400 + 8 * r) 23 16 (railLimit u)).setRegF (pgPwr d) (0x400 + 8 * r) 7 0 140) t) s
  let s2 := s1.setRegF (pgPwr 2) 0x110 15 0 (effCap s1)
  let sh := (s2.reg (regAddr (pgPwr 2) 0x108)).toNat % 2 ^ 56
  let s3 := (diesOf s2).foldl (fun t d => t.setPdie d { t.pdie d with cap := effCap s2, shares := sh }) s2
  sendCapset s3

/-- BOOT_DIES_DONE (R511): CFW and XFW are loaded and measured into slot 1; the power controllers start. Well
recovery begins (spec/09_memory_tiers.md R268). -/
def execBootDiesDone (s : State) : Out :=
  if s.phase = .running ∧ !s.boot.stopped ∧ bootStage s = 2 then
    let bank := bootBank s
    let s1 := extend (extend s 1 (sha384 (imageOf bank 2))) 1 (sha384 (imageOf bank 3))
    let s2 := powerStart s1
    let s3 := if hasWell s2 then { s2 with well := { s2.well with recov := true } } else s2
    .next (s3.setRegF pgSec 0x100 11 8 3)
  else .next s

/-- The 256-byte record of the configuration digest (R517). -/
def cfgRecord (s : State) : List Byte :=
  let roles := (List.range 20).foldl (fun a g =>
    if s.fuses.variant.bonded g then
      a + ((if x16Of s g then 8 else 0) + roleOf s g) * 2 ^ (4 * g)
    else a) 0
  measSlot s 0 ++ measSlot s 1
    ++ (List.range 6).flatMap (fun w => leBytes 8 (s.reg (regAddr pgSec (0x4C0 + 8 * w))).toNat)
    ++ leBytes 8 (s.reg (regAddr pgGlb 0x100)).toNat ++ leBytes 8 (s.reg (regAddr pgGlb 0x130)).toNat
    ++ leBytes 8 (s.reg (regAddr (pgRtr 0) 0x108)).toNat ++ leBytes 10 roles ++ leBytes 78 0

/-- Form the digest: SEC_CFGDIG and SEQ (R518). -/
def formDigest (s : State) : State :=
  let d := sha384 (cfgRecord s)
  let s1 := (List.range 6).foldl (fun t w =>
    t.setReg (regAddr pgSec (0x480 + 8 * w)) (BitVec.ofNat 64 (fieldAt d (8 * w) 8))) s
  let s2 := s1.setRegF pgSec 0x218 63 48 (s1.regF pgSec 0x218 63 48 + 1)
  { s2 with boot := { s2.boot with digestDue := false, digestFormed := true } }

/-- A change of the digest's record makes a recomputation due (R518). -/
def noteDigest (before after : State) : State :=
  if after.boot.digestFormed && decide (cfgRecord before ≠ cfgRecord after) then
    { after with boot := { after.boot with digestDue := true } }
  else after

/-- Blow the fuses that the booted manifest names (R510): SVN minimum with COMMIT, and the key slots of ECREV
and LMSREV but for those that verified it. -/
def fuseCommit (s : State) : State :=
  let bank := bootBank s
  let fl := fieldAt bank 6 2
  let k := s.keys
  let ecs := s.regF pgSec 0x110 13 12
  let lms := s.regF pgSec 0x110 15 14
  let names (hi lo keep : Nat) : Nat := maskOf ((maskBits 4 (nfld hi lo fl)).filter (· != keep))
  { s with keys := { k with
      svnMin := (if nbit 0 fl then max k.svnMin (fieldAt bank 4 1) else k.svnMin)
      ecRev := (k.ecRev ||| names 11 8 ecs)
      lmsRev := (k.lmsRev ||| names 15 12 lms) } }

/-- Release harts whose bit is newly 1: they start at DIE_HBOOT in M-mode (spec/12_host_cores.md R343). -/
def releaseHarts (s : State) (base mask : Nat) : State :=
  (maskBits 64 mask).foldl (fun t i =>
    if (t.hart (base + i)).startPc.isSome then t
    else
      let t1 := t.setHart (base + i) { Hart.reset with startPc := some (t.regF (pgDie 2) 0x120 51 2 * 4) }
      t1.setRegF (pgDie 2) (0xC00 + 8 * (base + i)) 39 32 (granted t1 (base + i))) s

/-- BOOT_MEMORY_DONE (R511, R343, R510, R518): near-memory channels are trained; HFS is placed in near memory
at an address of the firmware's choice and measured into slot 2; DIE_HBOOT is written, hart 0 released, the
digest formed and the manifest's fuses blown. -/
def execBootMemoryDone (place entry : Nat) (s : State) : Out :=
  if s.phase = .running ∧ !s.boot.stopped ∧ bootStage s = 3 ∧ isNear s place then
    let img := imageOf (bootBank s) 4
    let s1 := (cdiesOf s).foldl (fun t d =>
      (List.range 16).foldl (fun u i => u.setRegF (pgNmc d i) 0x100 0 0 1) t) s
    let s2 := extend (s1.putBytes place img) 2 (sha384 img)
    let s3 := s2.setRegF (pgDie 2) 0x120 51 2 (entry / 4)
    let s4 := releaseHarts (s3.setReg (regAddr (pgDie 2) 0x128) 1) 0 1
    .next (fuseCommit ((formDigest s4).setRegF pgSec 0x100 11 8 4))
  else .next s

/-- BOOT_STAGE_TIMEOUT (R511, R512): the stage in progress passed its limit, CODE 0x06. -/
def execBootStageTimeout (s : State) : Out :=
  if s.phase = .running ∧ !s.boot.stopped ∧ bootStage s < 4 then .next (bootStop s 6) else .next s

/-- BOOT_FLASH_REWRITE (R512): while boot is stopped the sled rewrites a bank over I3C. -/
def execBootFlashRewrite (bankB : Bool) (bytes : List Byte) (s : State) : Out :=
  if s.phase = .running ∧ s.boot.stopped ∧ !(pathOf s s.mgmt.secActive).faulted then
    .next { s with boot := if bankB then { s.boot with bankB := bytes } else { s.boot with bankA := bytes } }
  else .next s

/-- A write of SEC_MEASCTL (R514, R520): slots 0 to 2 are invalid. -/
def measWrite (s : State) (slot : Nat) : State :=
  if slot < 3 then reject s pgSec
  else
    extend s slot ((List.range 6).flatMap (fun w => leBytes 8 (s.reg (regAddr pgSec (0x120 + 8 * w))).toNat))

/-- MEAS_EXTEND (R514). -/
def execMeasExtend (slot : Nat) (s : State) : Out := whenLive s (if slot < 8 then measWrite s slot else s)

/-! ### SPDM (R515, R516) -/

/-- A transport that is running: PCIe stops with the clocked domains, I3C runs with Potemir on a path that
works (R467, R516). -/
def spdmServed (s : State) (pcie : Bool) : Bool :=
  if pcie then live s || (decide (s.phase = .running) && s.boot.stopped)
  else potemirRuns s && !(pathOf s s.mgmt.secActive).faulted

/-- Answer a request on its own transport. -/
def spdmAnswer (s : State) (pcie : Bool) (r : SpdmReply) : Out :=
  .next (if spdmServed s pcie then { s with outs := .spdm pcie r :: s.outs } else s)

/-- GET_VERSION. -/
def execGetVersion (pcie : Bool) (s : State) : Out := spdmAnswer s pcie .version

/-- GET_CAPABILITIES. -/
def execGetCapabilities (pcie : Bool) (s : State) : Out := spdmAnswer s pcie .capabilities

/-- NEGOTIATE_ALGORITHMS: the requester offers ECDSA P-384 with SHA-384 or it does not. -/
def execNegotiateAlgorithms (pcie offered : Bool) (s : State) : Out :=
  spdmAnswer s pcie (if offered then .algorithms else .error)

/-- GET_DIGESTS: certificate slot 0. -/
def execGetDigests (pcie : Bool) (s : State) : Out := spdmAnswer s pcie (.digests (sha384 Config.certChain))

/-- GET_CERTIFICATE: a portion of the slot-0 chain; other slots are not supported. -/
def execGetCertificate (pcie : Bool) (slot off len : Nat) (s : State) : Out :=
  spdmAnswer s pcie (if slot = 0 then
    .certificate ((Config.certChain.drop off).take len) (Config.certChain.length - (off + len)) else .error)

/-- The value of a measurement index (R515, R516). -/
def measValue (s : State) (idx : Nat) : List Byte :=
  if idx < 9 then measSlot s (idx - 1)
  else if idx = 9 then
    (List.range 6).flatMap (fun w => leBytes 8 (s.reg (regAddr pgSec (0x480 + 8 * w))).toNat)
  else leBytes 8 (s.reg (regAddr pgSec 0x210)).toNat ++ leBytes 8 (s.reg (regAddr pgSec 0x100)).toNat

/-- The measurements an index names: 1 to 10, or all. -/
def measItems (s : State) (idx : Nat) : List (Nat × List Byte) :=
  if idx = 0xFF then (List.range 10).map (fun i => (i + 1, measValue s (i + 1)))
  else if 1 ≤ idx ∧ idx ≤ 10 then [(idx, measValue s idx)]
  else []

/-- CHALLENGE: slot 0, with the requester's nonce; signed with the device key. -/
def execChallenge (pcie : Bool) (slot : Nat) (nonce : List Byte) (s : State) : Out :=
  let summary := sha384 ((measItems s 0xFF).flatMap Prod.snd)
  let h := sha384 Config.certChain
  spdmAnswer s pcie (if slot = 0 then
    .challengeAuth h nonce summary (Config.deviceSign (sha384 (h ++ nonce ++ summary))) else .error)

/-- GET_MEASUREMENTS: the values held now, signed when asked. -/
def execGetMeasurements (pcie : Bool) (idx : Nat) (signed : Bool) (nonce : List Byte) (s : State) : Out :=
  let items := measItems s idx
  spdmAnswer s pcie (if items.isEmpty then .error
    else .measurements items nonce
      (if signed then Config.deviceSign (sha384 (nonce ++ items.flatMap Prod.snd)) else []))

end Sys2Proof.Machine
end

