-- ==== Sys2Proof/Machine/Commit.lean ====
section
/-! DEFINITION. Commit, completion of steps, deferred adds (spec/03_stations_and_streams.md R70, R72, R73, R80, R82;
spec/07_thread_groups.md R184; spec/16_determinism.md R442, R443, R447, R449, R451). -/

namespace Sys2Proof.Machine

/-! ### Who reads and writes for an item -/

/-- The shared-cache class, REMAP bit and engine die of a fixed-function kind. -/
def engineClass (k : Nat) : Nat := if k = 0x10 then 4 else if k = 0x13 then 6 else 3
def engineBit (k : Nat) : Nat := if k = 0x10 then 2 else if k = 0x13 then 4 else 3

/-- The instance of an item's engine, for the sump: of an X-die's windlass engines, its lane group, none named. -/
def engineInst (it : Item) : Nat := if it.kind = 0x10 then it.owner % 2 else if it.kind = 0x13 then it.owner else 0

/-- The requester that an item is: its unit's mover, or its engine. -/
def itemRq (s : State) (n : Nat) (it : Item) : Rq :=
  if onUnit it.kind then moverRq s (it.die * 576 + it.owner) n it
  else { port := .engine it.die (engineClass it.kind), aspace := itemSpace s it,
         waiter := itemWaiter (engineBit it.kind) it.die (engineInst it) n, rid := ridItem n,
         work := some (it.job, it.sid, it.step), exts := [] }

/-! ### The commit log (R184, R300, R442, R443) -/

/-- The entries in the order in which they are performed: by GID; a group's entries keep their order. -/
def Item.logOrder (it : Item) : List LogEnt := it.log.mergeSort (fun a b => decide (a.gid ≤ b.gid))

/-- Translate the log's addresses: the places, or the first fault. -/
def logPlaces (u aspace : Nat) : List LogEnt → State → List (LogEnt × Where) × Option (Nat × XKind × Nat × W64) × State
  | [], s => ([], none, s)
  | e :: es, s =>
    let (w, s1) := unitXlat s u aspace e.va 4 .at
    match w with
    | .fault k l p => ([], some (e.va, k, l, p), s1)
    | _ =>
      let (ps, bad, s2) := logPlaces u aspace es s1
      ((e, w) :: ps, bad, s2)

/-- SUBOP of an ATOMIC packet for an operation of ATOMG (R394). -/
def subopOf (op : Nat) : Nat := [1, 2, 3, 6, 7, 8, 0x0A].getD op 0

/-- The home slice of an address, over both dies. -/
def sliceOf (s : State) (a : Nat) : Nat := homeDie s a * 16 + homeSlice a

/-- Deferred adds of all jobs. -/
def allDefers (s : State) : List DefAdd := s.jobs.flatMap (fun (_, j) => match j with | some x => x.defers | none => [])

/-- The adds fit: 4,096 entries in each slice, the others in the spill area at 32 bytes each (R443). -/
def defersFit (s : State) (more : List DefAdd) : Bool :=
  let l := allDefers s ++ more
  let excess := ((List.range 32).map (fun i => (l.filter (fun e => sliceOf s e.addr == i)).length - 4096)).foldl (· + ·) 0
  decide (excess ≤ s.regF pgGlb 0x110 11 0 * 32768)

/-- An entry performed at its home at once; an undeferred binary32 add is counted (R447). -/
def performEntry (s : State) (e : LogEnt × Where) : State :=
  match e.2 with
  | .pa a =>
    let (_, s1) := performAtomic (dropCopies s a) 1 e.1.op 4 a e.1.v
    if e.1.op = 6 then countTdc s1 33 1 else s1
  | _ => if e.1.op = 6 then countTdc s 33 1 else s

/-- The sector of an entry leaves the unit's own cache before the entry is performed (spec/08_cu_memory.md R208). -/
def entrySectorOut (u : Nat) (s : State) (e : LogEnt × Where) : State :=
  match e.2 with
  | .pa a => ccSectorsOut s u (a / 128) (2 ^ (a % 128 / 32))
  | _ => s

/-- The adds of an item that are deferred. -/
def newDefers (it : Item) (det : Bool) (ps : List (LogEnt × Where)) : List DefAdd :=
  if !det then []
  else (ps.zipIdx).filterMap (fun ((e, w), i) => match w with
    | .pa a => if e.op = 6 then some ⟨it.step, it.sid, it.ord0, i, a, e.v⟩ else none
    | _ => none)

/-! ### Readiness -/

/-- The item has produced everything: output tiles written; stores, sends done; the groups of a VECTOR item ended and
its engine operations complete. -/
def itemDone (s : State) (n : Nat) (it : Item) (d : StnDef) : Bool :=
  if it.kind = 2 then
    let u := it.die * 576 + it.owner
    let gs := itemGroups s u n
    gs.all (fun p => p.2.ended) && (s.cu u).mxq.all (fun o => o.item != n)
      && (s.cu u).loads.all (fun l => !(gs.map Prod.fst).contains l.group)
  else if d.outList.isEmpty then it.ords.all it.computed.contains
  else it.ords.all (fun o => it.wrote.any (fun w => w.ord == o))

/-! ### Publication and release -/

/-- An output tile at commit: its position, conduit, ordinal, grid ordinal and shape. -/
structure PubTile where
  pos : Nat
  cid : Nat
  c : Cnd
  o : Nat
  ord : Nat
  rows : Nat
  cols : Nat
  zpad : Bool

/-- The output tiles of an item; a VECTOR tile takes the shape of IN0's tile where IN0 has the work grid (R174). -/
def pubTiles (j : Job) (d : StnDef) (it : Item) (shape : Nat → Nat × Nat × Bool) : List PubTile :=
  it.ords.flatMap (fun ord => d.outList.filterMap (fun (pos, cid) => (j.cnd cid).map (fun c =>
    let o := (it.step - j.s0) * (c.df.trows * c.df.tcols) + ord
    let (r, k, z) := if d.kind = 2 then shape ord else
      match it.wrote.find? (fun w => w.ord == ord) with
      | some w => (w.rows, w.cols, w.zpad)
      | none => (64, 64, false)
    ⟨pos, cid, c, o, ord, r, k, z⟩)))

/-- IN0 has the work grid. -/
def in0OnGrid (j : Job) (d : StnDef) : Bool :=
  match (d.ins.getD 0 none).bind j.cnd with
  | some c => decide ((c.df.trows, c.df.tcols) = gridOf j d)
  | none => false

/-- The tag of an output tile with its DIGEST (R73). -/
def PubTile.tag (p : PubTile) (it : Item) (slot : List Byte) : List Byte :=
  let cols := p.c.df.tcols
  Tag.bytes ⟨it.step, p.ord / cols, p.ord % cols, p.rows, p.cols, p.c.df.fmt,
    decide (p.ord + 1 = p.c.df.trows * cols), p.zpad, true, crc32c slot, p.cid⟩

/-- Write back the dirty sectors of the unit's cache in a virtual range (R216): fuel bounds the pages. -/
def cleanVirtual (u aspace : Nat) : Nat → State → Nat → Nat → State
  | 0, s, _, _ => s
  | f + 1, s, va, n =>
    if n = 0 then s
    else
      let k := min (4096 - va % 4096) n
      let (w, s1) := unitXlat s u aspace va 1 .rd
      let s2 := match w with
        | .pa a => ccCleanRange s1 u a k
        | _ => s1
      cleanVirtual u aspace f s2 (va + k) (n - k)

/-- The input tiles that the item is the last reader of: all other items that read them have committed. -/
def lastRead (j : Job) (st : Stn) (it : Item) : List (Nat × Nat × Nat × Nat) :=
  let t := tilesOf j st.df
  let others := (List.range st.df.items).filter (fun i => i != it.idx && !st.done.contains (it.step, i))
  let sets := others.map (fun i =>
    let (o0, n) := itemSpan t st.df.items i
    readSet j st.df ((List.range n).map (· + o0)))
  (readOrds j st.df it).filter (fun (cid, _, r, c) => sets.all (fun l => !l.contains (cid, (r, c))))

/-! ### Steps (R82, R357, R449) -/

/-- Stations that run: all, or the cone of a regeneration. -/
def activeStns (j : Job) : List (Nat × Stn) :=
  (j.stns.zipIdx).filterMap (fun (st, n) => match j.regen with
    | some r => if r.cone.contains n then some (n, st) else none
    | none => some (n, st))

/-- Every item of a step has committed. -/
def allCommitted (j : Job) (step : Nat) : Bool :=
  (activeStns j).all (fun (_, st) => (List.range st.df.items).all (fun i => st.done.contains (step, i)))

/-- Step is complete under R82 and R442. -/
def stepDone (j : Job) (step : Nat) : Bool := allCommitted j step && j.defers.all (fun e => e.step != step)

/-- Wake the SYNC descriptors of a job whose step is complete, while it is not FAULTED (R357). -/
def wakeSyncs (s : State) (jn : Nat) : State :=
  match s.job jn with
  | none => s
  | some j =>
    if j.jstate = 5 then s
    else
      let due := s.queues.flatMap (fun (q, c) => (c.inflight.filter (fun d =>
        decide (d.opc = 8 ∧ d.stage = .started ∧ d.op 24 1 % 64 = jn ∧ d.op 32 8 < j.s0 + j.low))).map (fun d => (q, d)))
      due.foldl (fun t (q, d) => finishDesc t q d.idx stOk (d.op 32 8)) s

/-- Records and counters of the steps that have become complete, in order: fuel bounds them. A job that is being
aborted completes none (R92, R93). -/
def advanceSteps : Nat → State → Nat → State
  | 0, s, _ => s
  | f + 1, s, jn =>
    match s.job jn with
    | none => s
    | some j =>
      let step := j.s0 + j.low
      if j.regen.isSome ∨ j.jstate = 4 ∨ j.admitted ≤ j.low ∨ !stepDone j step then s
      else
        let s1 := lsRecord s jn j step
        let trim (x : Stn) : Stn := { x with done := x.done.filter (fun p => p.1 != step) }
        let j1 := { j with low := j.low + 1, stns := j.stns.map trim }
        let j2 := { j1 with begun := j1.begun.filter (fun p => p.1 != step), digs := j1.digs.filter (fun x => lsKeep j1 x.1) }
        let s2 := (s1.setJob jn (some j2)).setReg (regAddr pgGlb (0x400 + 32 * jn)) (BitVec.ofNat 64 (step + 1))
        let s3 := countEv s2 pgGlb 2 1
        let s4 := if j.steprec then postRec s3 j.queue { kind := 3, status := stOk, value := step, job := jn } else s3
        advanceSteps f (wakeSyncs s4 jn) jn

/-- A regeneration whose cone has committed ends with the station's digest (R451). -/
def advanceRegen (s : State) (jn : Nat) : State :=
  match s.job jn with
  | none => s
  | some j => match j.regen with
    | none => s
    | some r => if stepDone j r.step then endRegen s jn stOk (stationDigest j r.step r.sid) else s

/-- After a commit, or after deferred adds were applied. -/
def afterCommit (s : State) (jn : Nat) : State :=
  let n := ((s.job jn).map (fun j => j.admitted)).getD 0
  advanceRegen (advanceSteps (n + 1) s jn) jn

/-! ### Commit -/

/-- The buffer addresses of a regenerated tile: its slot and tag (R451). -/
def bufAt (j : Job) (d : StnDef) (buf : Nat) (p : PubTile) : Nat × Nat :=
  let area (cid : Nat) : Nat := match j.cnd cid with
    | some c => c.df.trows * c.df.tcols * (slotBytes c.df.fmt + 32)
    | none => 0
  let base := buf + ((d.outList.filter (fun x => decide (x.1 < p.pos))).map (fun x => area x.2)).foldl (· + ·) 0
  (base + p.ord * slotBytes p.c.df.fmt, base + p.c.df.trows * p.c.df.tcols * slotBytes p.c.df.fmt + p.ord * 32)

/-- The regeneration's copy of a job's station, if the item belongs to it. -/
def regenOf (j : Job) (it : Item) : Option Regen :=
  match j.regen with
  | some r => if r.sid = it.sid then some r else none
  | none => none

/-- The requester that copies regenerated tiles: the queue engine for REGEN's descriptor. -/
def regenRq (s : State) (r : Regen) : Rq :=
  match descAt s r.q r.idx with
  | some d => descRq s r.q d
  | none => { port := .engine 0 7, aspace := r.bufSpace, waiter := ⟨5, 2, r.q, r.idx⟩, rid := ridDesc r.q r.idx, work := none, exts := [] }

/-- The effect of a commit once every access of it translates: tags, publication, release, deferral, the log. -/
def commitNow (s : State) (n : Nat) (it : Item) (j : Job) (st : Stn) (ps : List (LogEnt × Where)) (defs : List DefAdd)
    (tiles : List (PubTile × List Byte)) (frees : List (Nat × Nat × List Byte)) : State :=
  let r := itemRq s n it
  let rg := regenOf j it
  let det := j.sample it.step
  -- the log: undeferred entries in order
  let s1 := (ps.filter (fun e => !(det && decide (e.1.op = 6)))).foldl performEntry
    (ps.foldl (entrySectorOut (it.die * 576 + it.owner)) s)
  -- tags of the outputs, VALID last; regenerated tiles are copied and released at once
  let s2 := tiles.foldl (fun t (p, slot) =>
    let tag := p.tag it slot
    let t1 := (rqWrite t r (j.tagVa p.cid p.c p.o) (if rg.isSome then tag.set 15 (tag.getD 15 0 &&& 0xFE) else tag)).2
    let t2 := logTile t1 it.job j it.step p.cid p.ord (crc32c slot)
    match rg with
    | none => t2
    | some g =>
      let (sa, ta) := bufAt j st.df g.buf p
      let q := regenRq t2 g
      (rqWrite (rqWrite t2 q sa slot).2 q ta tag).2) s1
  -- inputs that this item was the last to read
  let s3 := frees.foldl (fun t (cid, o, tag) => match j.cnd cid with
    | none => t
    | some c => (rqWrite t r (j.tagVa cid c o + 15) [tag.getD 15 0 &&& 0xFE]).2) s2
  let j1 := tiles.foldl (fun jj (p, slot) =>
    let j2 := match jj.cnd p.cid with
      | none => jj
      | some c => jj.setCnd p.cid (if rg.isSome then (c.publish p.o).release p.o else c.publish p.o)
    addDigest j2 it.step it.sid p.cid p.ord (crc32c slot)) j
  let j2 := frees.foldl (fun jj (cid, o, _) => match jj.cnd cid with
    | none => jj
    | some c => jj.setCnd cid (c.release o)) j1
  let j3 := { j2 with defers := j2.defers ++ defs }
  let j4 := j3.setStn it.sid { st with done := (it.step, it.idx) :: st.done }
  afterCommit (dropItem (seatCommitted (s3.setJob it.job (some j4)) it) n) it.job

/-- Read what the commit needs and see that every write of it translates; then commit. A fault waits in the sump with
nothing done. -/
def commitReady (s : State) (n : Nat) (it : Item) (j : Job) (st : Stn) (ps : List (LogEnt × Where)) (defs : List DefAdd) :
    State :=
  let d := st.df
  let r := itemRq s n it
  let s0 := if it.kind = 2 then
      (pubTiles j d it (fun _ => (64, 64, false))).foldl (fun t p =>
        cleanVirtual (it.die * 576 + it.owner) r.aspace (slotBytes p.c.df.fmt / 4096 + 2) t (j.slotVa p.cid p.c p.o) (slotBytes p.c.df.fmt)) s
    else s
  let freeing := lastRead j st it
  let in0 := (d.ins.getD 0 none).bind (fun cid => (j.cnd cid).map (fun c => (cid, c)))
  let shapes := if it.kind = 2 ∧ in0OnGrid j d then it.ords else []
  let shapeTags := shapes.map (fun o => match in0 with
    | some (cid, c) => (j.tagVa cid c ((it.step - j.s0) * (c.df.trows * c.df.tcols) + o), 32)
    | none => (0, 0))
  let freeTags := freeing.map (fun (cid, o, _, _) => match j.cnd cid with
    | some c => (j.tagVa cid c o, 32)
    | none => (0, 0))
  match rqReads r (shapeTags ++ freeTags) s0 with
  | (none, s1) => s1
  | (some (tags, _), s1) =>
    let shape (o : Nat) : Nat × Nat × Bool := match (shapes.zip tags).find? (fun p => p.1 == o) with
      | some (_, b) => ((tagOf b).rows, (tagOf b).cols, (tagOf b).zpad)
      | none => (64, 64, false)
    let pubs := pubTiles j d it shape
    match rqReads r (pubs.map (fun p => (j.slotVa p.cid p.c p.o, slotBytes p.c.df.fmt))) s1 with
    | (none, s2) => s2
    | (some (slots, _), s2) =>
      let writes := pubs.map (fun p => (j.tagVa p.cid p.c p.o, 32)) ++ freeTags
      let (ok, s3) := rqProbe r writes s2
      let copies := match regenOf j it with
        | some g => pubs.flatMap (fun p =>
            let (sa, ta) := bufAt j d g.buf p
            [(sa, slotBytes p.c.df.fmt), (ta, 32)])
        | none => []
      let (ok2, s4) := match regenOf j it with
        | some g => if ok then rqProbe (regenRq s3 g) copies s3 else (false, s3)
        | none => (true, s3)
      if ok && ok2 then
        commitNow s4 n it j st ps defs (pubs.zip slots)
          ((freeing.zip (tags.drop shapes.length)).map (fun ((cid, o, _, _), b) => (cid, o, b)))
      else s4

/-- The commit of an item that has produced everything: the log's places first; remote atomics are sent and answered
before the rest; adds that do not fit the spill area stop the job (R443). -/
def commitItem (s : State) (n : Nat) (it : Item) (j : Job) (st : Stn) : State :=
  let u := it.die * 576 + it.owner
  let (ps, bad, s1) := logPlaces u j.aspace it.logOrder s
  match bad with
  | some (va, k, l, p) => itemFault s1 n it j.aspace va k l p .at (itemWaiter 0 (uDie u) (uSite u) n)
  | none =>
    let far := ps.filterMap (fun (e, w) => match w with | .win f ga => some (e, f, ga) | _ => none)
    if !far.isEmpty && !it.atomsSent then
      let s2 := far.foldl (fun t (e, f, ga) =>
        enqueue t f ⟨3, subopOf e.op, ga, 4, leBytes 4 e.v, .commitAtom n⟩) s1
      s2.setItem n (some { it with atomsSent := true })
    else if s1.fab.flows.any (fun (_, f) => match f with
        | some x => x.outq.any (fun p => p.src == .commitAtom n) || x.sent.any (fun p => p.src == .commitAtom n && !p.answered)
        | none => false) then s1
    else
      let defs := newDefers it (j.sample it.step) ps
      if !defersFit s1 defs then
        faultJob (s1.setItem n (some { it with err := some (stNoResource, 0, 0) })) it.job it.sid it.step stNoResource 0
      else commitReady s1 n it j st ps defs

/-- Some tile packet of an item is not acknowledged (spec/14_holarn_fabric.md R403). -/
def tilesOut (s : State) (n : Nat) : Bool :=
  s.fab.flows.any (fun (_, f) => match f with
    | some x => x.outq.any (fun p => p.src == .tile n) || x.sent.any (fun p => p.src == .tile n && !p.answered)
    | none => false)

/-- ITEM_COMMIT. -/
def execItemCommit (n : Nat) (s : State) : Out :=
  whenLive s (match s.item n with
    | none => s
    | some it => match s.job it.job with
      | none => s
      | some j => match j.stn it.sid with
        | none => s
        | some st =>
          let onCu := onUnit it.kind
          if (onCu && !(it.islot.isSome && advances s (it.die * 576 + it.owner) && !unitHalting s (it.die * 576 + it.owner))) || !it.tagsOk || it.err.isSome
              || itemWaits s n || !itemDone s n it st.df || unacked s (fun p => p == .rq (ridItem n))
              || tilesOut s n then s
          else commitItem s n it j st)

/-- ITEM_ERROR: an item that met an error ends once the engine operations it had accepted are complete (R79, R80,
R199). One whose deferred adds found no room waits for JOBCTL RESUME (R443). -/
def execItemError (n : Nat) (s : State) : Out :=
  whenLive s (match s.item n with
    | none => s
    | some it => match it.err with
      | none => s
      | some (status, detail, tag) =>
        if status = stNoResource then s
        else if onUnit it.kind && it.islot.isSome && (s.cu (it.die * 576 + it.owner)).mxq.any (fun o => o.item == n) then s
        else failItem s n status detail tag)

/-! ### Deferred adds (R442) -/

/-- Ascending key order: SID, ORD0, position. -/
def DefAdd.before (a b : DefAdd) : Bool :=
  decide (a.sid < b.sid) || (decide (a.sid = b.sid) && (decide (a.ord0 < b.ord0)
    || (decide (a.ord0 = b.ord0) && decide (a.pos ≤ b.pos))))

/-- Apply the adds of one address. -/
def applyAdds (s : State) (addr : Nat) (l : List DefAdd) : State :=
  let root := canonical32 ((l.mergeSort DefAdd.before).map (fun e => e.v))
  (performAtomic (dropCopies s addr) 1 6 4 addr root).2

/-- DEFERRED_ADDS_APPLIED: after the last item of the lowest step with deferred adds commits, the homes apply them,
one address at a time. -/
def execDeferredAddsApplied (jn : Nat) (s : State) : Out :=
  whenLive s (match s.job jn with
    | none => s
    | some j =>
      let step := (j.defers.map (fun e => e.step)).foldl min (((j.defers.head?).map (fun e => e.step)).getD 0)
      let l := j.defers.filter (fun e => e.step == step)
      if l.isEmpty || decide (j.jstate = 4) || !allCommitted j step then s
      else
        let s1 := ((l.map (fun e => e.addr)).eraseDups).foldl (fun t a => applyAdds t a (l.filter (fun e => e.addr == a))) s
        afterCommit (s1.setJob jn (some { j with defers := j.defers.filter (fun e => e.step != step) })) jn)

end Sys2Proof.Machine
end

