-- ==== Sys2Proof/Machine/Work.lean ====
section
/-! DEFINITION. The dispatch of work items and the control of jobs and stations
(spec/03_stations_and_streams.md R66 to R69, R80, R88 to R94; spec/04_compute_units.md R110, R111, R120;
spec/09_memory_tiers.md R262, R263; spec/13_queues.md R357). -/

namespace Sys2Proof.Machine

/-! ### Stopping and starting anew -/

/-- A station as START leaves it. -/
def Stn.fresh (x : Stn) : Stn := { x with dst := 0, fault := false, done := [], pin := none }

/-- The stations of a job are changed one by one. -/
def Job.mapStns (j : Job) (f : Stn → Stn) : Job := { j with stns := j.stns.map f }

/-- The live items of a station, of a job. -/
def stnItems (s : State) (jn sid : Nat) : List (Nat × Item) :=
  s.liveItems.filter (fun p => p.2.job == jn && p.2.sid == sid)
def jobItems (s : State) (jn : Nat) : List (Nat × Item) := s.liveItems.filter (fun p => p.2.job == jn)

/-- The started descriptors of an opcode set that name a job, with their queues. -/
def startedOn (s : State) (opcs : List Nat) (jn : Nat) : List (Nat × Desc) :=
  s.queues.flatMap (fun (q, c) => (c.inflight.filter (fun d =>
    d.stage == .started && opcs.contains d.opc && d.op 24 1 % 64 == jn)).map (fun d => (q, d)))

/-- Finish descriptors with one status. -/
def finishAll (s : State) (l : List (Nat × Desc)) (status : Nat) : State :=
  l.foldl (fun t (q, d) => finishDesc t q d.idx status 0) s

/-- The STNCTL descriptors that wait for a station. -/
def stnWaiters (s : State) (jn sid : Nat) : List (Nat × Desc) :=
  (startedOn s [4] jn).filter (fun p => decide (p.2.op 26 2 = sid))

/-- Items are aborted, but those whose remote atomics were sent (R184). -/
def abortItems (s : State) (l : List (Nat × Item)) : State :=
  l.foldl (fun t (n, it) => if it.atomsSent then t else abortItem t n) s

/-! ### Fixed-function engines (R262, R436, R471, R472) -/

/-- Windlass engines of a set of X-dies, in order. -/
def wdlOf (mask : Nat) : List (Nat × Nat) :=
  (maskBits 2 mask).flatMap (fun x => [(x, 0), (x, 1)])

/-- A windlass engine has failed. -/
def wdlFailed (s : State) (e : Nat × Nat) : Bool := s.fab.wdlDead.contains (e.1 * 64 + e.2)

/-- The engine that takes an item which belongs to engine e: itself, else one of the same X-die, else one of another
X-die that the station names. -/
def wdlFor (s : State) (mask : Nat) (e : Nat × Nat) : Option (Nat × Nat) :=
  let l := wdlOf mask
  (e :: l.filter (fun x => x.1 == e.1) ++ l).find? (fun x => !wdlFailed s x)

/-- The parameters of a WINDLASS station (R75). -/
def wdTensor (d : StnDef) : Nat := par d 0 8
def wdLayers (d : StnDef) : Nat := par d 8 4
def wdPrefetch (d : StnDef) : Nat := par d 0xC 1

/-- The version that a name has. -/
def currentVer (s : State) (name : Nat) : Option WellVer := s.well.vers.find? (fun v => v.current && v.name == name)

/-- A version of a tensor. -/
def wellVer (s : State) (name ver : Nat) : Option WellVer := s.well.vers.find? (fun v => v.name == name && v.ver == ver)

/-- The pinned version fits the station (R262). -/
def wdFits (j : Job) (d : StnDef) (v : WellVer) : Bool :=
  let t := tilesOf j d
  let fmt := (((d.outs.getD 0 none).bind j.cnd).map (fun c => c.df.fmt)).getD 0
  decide (v.fmt = fmt ∧ wdLayers d ≠ 0 ∧ t % wdLayers d = 0 ∧ v.lbytes = t / wdLayers d * slotBytes fmt)

/-- R263: the stream layer of the item's first tile lies within the window. -/
def wdWindow (j : Job) (d : StnDef) (step ord0 : Nat) : Bool :=
  let per := tilesOf j d / wdLayers d
  let w := (((d.outs.getD 0 none).bind j.cnd).map (fun c => c.w)).getD 0
  if wdLayers d = 0 ∨ tilesOf j d % wdLayers d ≠ 0 ∨ per = 0 then true
  else decide ((step - j.s0) * wdLayers d + ord0 / per ≤ w / per + wdPrefetch d)

/-! ### Dispatch (R68, R69) -/

/-- The grid ordinals of item i. -/
def itemOrds (j : Job) (d : StnDef) (i : Nat) : List Nat :=
  let (o0, n) := itemSpan (tilesOf j d) d.items i
  (List.range n).map (· + o0)

/-- Every output of the item lies in the window and is free. -/
def outputsFree (j : Job) (d : StnDef) (step i : Nat) : Bool :=
  d.outList.all (fun (_, cid) => match j.cnd cid with
    | none => false
    | some c => (itemOrds j d i).all (fun o =>
        let x := (step - j.s0) * (c.df.trows * c.df.tcols) + o
        c.inWindow x && !c.reserved.contains x && !c.pubs.contains x))

/-- Every input tile of the item is published. -/
def inputsReady (j : Job) (d : StnDef) (step i : Nat) : Bool :=
  (readSet j d (itemOrds j d i)).all (fun (cid, r, c) => match j.cnd cid with
    | none => false
    | some x => x.pubs.contains (x.ordinal j.s0 step r c))

/-- What R69 asks, and the pacing of a lock-step pair. -/
def mayDispatch (s : State) (jn : Nat) (j : Job) (sid : Nat) (st : Stn) (step i : Nat) : Bool :=
  decide (j.jstate = 1 ∨ j.jstate = 2 ∨ j.jstate = 5) && (activeStns j).any (fun p => p.1 == sid) && decide (st.dst = 0)
    && decide (i < st.df.items ∧ j.s0 + j.low ≤ step ∧ step < j.s0 + j.admitted)
    && !st.done.contains (step, i) && !(stnItems s jn sid).any (fun p => p.2.step == step && p.2.idx == i)
    && (!st.df.stepdep || decide (step ≤ j.s0 + j.low))
    && inputsReady j st.df step i && outputsFree j st.df step i && paceOk s jn j step

/-- A new item, with its place. -/
def newItem (jn sid step i : Nat) (j : Job) (d : StnDef) (die owner : Nat) (err : Option Nat) : Item :=
  let (o0, n) := itemSpan (tilesOf j d) d.items i
  { job := jn, sid := sid, step := step, idx := i, seed := stationSeed j.seed sid, ord0 := o0, nord := n, kind := d.kind,
    lsSteps := d.lsSteps, stepdep := d.stepdep, ver := d.ver, die := die, home := owner, owner := owner, islot := none,
    steals := 0, attempt := 0, jseq := 0, tagsOk := decide (d.kind = 0x10 ∨ d.kind = 0x12), issued := 0, wrote := [], computed := [], log := [],
    atomsSent := false, err := err.map (fun e => (e, 0, 0)) }

/-- The item exists and holds its output slots. -/
def enterItem (s : State) (it : Item) (d : StnDef) : State :=
  match s.job it.job with
  | none => s
  | some j =>
    let s1 := s.setJob it.job (some (j.overOutputs d it.step it.ords Cnd.reserve))
    { s1.setItem s1.nextItem (some it) with nextItem := s1.nextItem + 1 }

/-- The rest state keeps C-dies from taking work until they wake (spec/18_power_and_thermal.md R498). -/
def cdieAwake (s : State) : Bool := decide (s.regF (pgPwr 2) 0x128 2 0 = 0)

/-- The first item of a step on a die tells its power controller (spec/18_power_and_thermal.md R492). -/
def beginOn (s : State) (jn d step : Nat) : State :=
  match s.job jn with
  | none => s
  | some j =>
    if j.begun.contains (step, d) then s
    else hintsAtDispatch (s.setJob jn (some { j with begun := (step, d) :: j.begun })) d jn step

/-- The dies of a station's items on compute units: those named in PLACE_C that have a unit in service. -/
def unitDie (s : State) (d : StnDef) (i : Nat) : Option (Nat × Nat) :=
  let ds := maskBits 2 d.placeC
  let first := ds.getD (i % max 1 ds.length) 0
  ((first :: ds).find? (fun x => hasCdie s x && !(dieUnits s x).isEmpty)).map (fun x => (x, ds.length))

/-- An item of a CU-hosted kind or COPY enters a unit's queue (R110, R111, R120). -/
def dispatchUnit (s : State) (jn sid step i : Nat) (j : Job) (d : StnDef) : State :=
  match unitDie s d i with
  | none => s
  | some (die, dies) =>
    match placeOn s die sid d.cuMax dies i with
    | none => s
    | some u =>
      if !cdieAwake s then s
      else
        let n := SMap.get (fun _ => 0) s.jseqs die
        let it := { newItem jn sid step i j d die (uSite u) none with jseq := n }
        let s1 := { s with jseqs := SMap.put (fun _ => 0) s.jseqs die ((n + 1) % 2 ^ 64) }
        let s2 := countEv (enterItem s1 it d) (pgDie die) 2 1
        let s3 := s2.setCu u { s2.cu u with steal := 0 }
        beginOn s3 jn die step

/-- The station pins the version that its items read: at START, in deterministic mode, or at the first dispatch. The
answer is the status of its items if they end with an error, and the state. -/
def pinTensor (s : State) (jn sid : Nat) (j : Job) (st : Stn) : Option Nat × State :=
  match st.pin with
  | some v => match wellVer s (wdTensor st.df) v with
    | some w => (if wdFits j st.df w then none else some stNoTensor, s)
    | none => (some stNoTensor, s)
  | none =>
    if j.sample j.s0 then (some stNoTensor, s)
    else match currentVer s (wdTensor st.df) with
      | none => (some stNoTensor, s)
      | some w =>
        let s1 := countTdc (s.setJob jn (some (j.setStn sid { st with pin := some w.ver }))) 34 1
        (if wdFits j st.df w then none else some stNoTensor, s1)

/-- A window item goes to its windlass engine (R262, R263, R472). -/
def dispatchWindlass (s : State) (jn sid step i : Nat) (j : Job) (st : Stn) : State :=
  let d := st.df
  let l := wdlOf d.placeX
  let e := l.getD (i % max 1 l.length) (0, 0)
  if !s.well.ready || !wdWindow j d step (itemSpan (tilesOf j d) d.items i).1 then s
  else
    let (bad, s1) := pinTensor s jn sid j st
    match wdlFor s1 d.placeX e with
    | none => enterItem s1 (newItem jn sid step i j d (3 + e.1) (e.1 * 2 + e.2) (some stNoEngine)) d
    | some (x, k) =>
      if !s.accepts (pgWdl x k) then s
      else enterItem s1 (newItem jn sid step i j d (3 + x) (x * 2 + k) bad) d

/-- The mark of a tile (spec/14_holarn_fabric.md R396): step in bits 63:24, grid ordinal in bits 23:0. -/
def tileMark (step ord : Nat) : Nat := step % 2 ^ 40 * 2 ^ 24 + ord % 2 ^ 24

/-- A receiver's item grants credit up to the highest tile for which a slot is reserved (R403). -/
def grantCredit (s : State) (n mark : Nat) : State :=
  match s.flow n with
  | none => s
  | some f => match f.granted with
    | some g => if mark ≤ g then s else s.setFlow n { f with granted := some mark, ctl := f.ctl ++ [(4, mark)] }
    | none => s.setFlow n { f with granted := some mark, ctl := f.ctl ++ [(4, mark)] }

/-- A tile sender or receiver: its flow is OPEN, or its items end with FLOWERR (R79). -/
def dispatchFlow (s : State) (jn sid step i : Nat) (j : Job) (d : StnDef) : State :=
  match s.flow (par d 0 4) with
  | some f =>
    if f.st = 2 then
      let it := newItem jn sid step i j d (3 + f.hx) f.hx none
      let s1 := enterItem s it d
      if d.kind = 0x12 then grantCredit s1 (par d 0 4) (tileMark step (it.ord0 + it.nord - 1)) else s1
    else enterItem s (newItem jn sid step i j d (3 + f.hx) f.hx (some stFlowErr)) d
  | none => enterItem s (newItem jn sid step i j d 3 0 (some stFlowErr)) d

/-- An item of a reduction takes its seat (spec/15_fabric_reduction.md R425, R432). -/
def dispatchReduce (s : State) (jn sid step i : Nat) (j : Job) (d : StnDef) : State :=
  if !seatReady s j d step then s
  else
    let (g, bad, s1) := takeSeat s jn sid j d step
    enterItem s1 (newItem jn sid step i j d (3 + lgX g) g (if bad then some stRedErr else none)) d

/-- ITEM_DISPATCH. -/
def execItemDispatch (jn sid step ix : Nat) (s : State) : Out :=
  whenLive s (match s.job jn with
    | none => s
    | some j => match j.stn sid with
      | none => s
      | some st =>
        if !mayDispatch s jn j sid st step ix then s
        else if onUnit st.df.kind then dispatchUnit s jn sid step ix j st.df
        else if st.df.kind = 0x10 then dispatchWindlass s jn sid step ix j st
        else if st.df.kind = 0x13 then dispatchReduce s jn sid step ix j st.df
        else dispatchFlow s jn sid step ix j st.df)

/-! ### START and ADMIT (R81, R88, R90) -/

/-- The registers of a job (spec/16_determinism.md R448): next step, first step, seed. -/
def setJobRegs (s : State) (jn psc s0 seed : Nat) : State :=
  let a := regAddr pgGlb (0x400 + 32 * jn)
  ((s.setReg a (BitVec.ofNat 64 psc)).setReg (a + 8) (BitVec.ofNat 64 s0)).setReg (a + 16) (BitVec.ofNat 64 seed)

/-- The job requires deterministic mode and it is off. -/
def wantsDetm (s : State) (j : Job) : Bool := j.detreq && !detm s

/-- A WINDLASS station as START leaves it: in deterministic mode it pins the version current now (R447). -/
def startStn (s : State) (det : Bool) (x : Stn) : Stn :=
  let y := x.fresh
  if det && decide (x.df.kind = 0x10) then { y with pin := (currentVer s (wdTensor x.df)).map (·.ver) } else y

/-- The effect of START. -/
def startJob (s : State) (jn : Nat) (j : Job) (q s0 n seed : Nat) : State :=
  let det := detm s
  let j1 := { j with queue := q, seed := seed, s0 := s0, admitted := n, low := 0, jstate := 1, fsid := none }
  let j2 := { j1 with begun := [], dets := [(s0, det)], defers := [], digs := [] }
  let j3 := { j2 with stns := j2.stns.map (startStn s det), cnds := j2.cnds.map Cnd.flush }
  greet (startSeats (setJobRegs (s.setJob jn (some j3)) jn s0 s0 seed) j3) jn

/-- START. -/
def execStart (q idx : Nat) (s : State) : Out :=
  descRow q idx 2 (fun d t =>
    let jn := d.op 24 1 % 64
    let (s0, n, seed) := (d.op 32 8, d.op 40 8, d.op 48 8)
    match t.job jn with
    | none => finishDesc t q idx stBadState 0
    | some j =>
      if j.jstate ≠ 0 then finishDesc t q idx stBadState 0
      else if wantsDetm t j then finishDesc t q idx stDetMode 0
      else if 2 ^ 64 - 1 < s0 + n then finishDesc t q idx stStepRange 0
      else finishDesc (startJob t jn j q s0 n seed) q idx stOk 0) s

/-- ADMIT: the sample of DETM covers the steps that it admits (spec/16_determinism.md R440). -/
def execAdmit (q idx : Nat) (s : State) : Out :=
  descRow q idx 3 (fun d t =>
    let jn := d.op 24 1 % 64
    let n := d.op 32 8
    match t.job jn with
    | none => finishDesc t q idx stBadState 0
    | some j =>
      if !decide (j.jstate = 1 ∨ j.jstate = 3) || j.regen.isSome then finishDesc t q idx stBadState 0
      else if wantsDetm t j then finishDesc t q idx stDetMode 0
      else if 2 ^ 64 - 1 < j.highOr + n then finishDesc t q idx stStepRange 0
      else
        let j1 := { j with admitted := j.admitted + n, dets := (j.highOr, detm t) :: j.dets }
        finishDesc (t.setJob jn (some j1)) q idx stOk 0) s

/-! ### STNCTL (R91) -/

/-- The rows of STNCTL: the job states that accept it, the station's existence, and R60's table. The body gets the job,
the station and its number. -/
def stnRow (q idx ctl : Nat) (body : State → Nat → Job → Nat → Stn → State) (s : State) : Out :=
  match descAt s q idx with
  | none => .next s
  | some x =>
    if x.op 28 1 ≠ ctl then .next s
    else descRow q idx 4 (fun d t =>
      let jn := d.op 24 1 % 64
      let sid := d.op 26 2
      match t.job jn with
      | none => finishDesc t q idx stBadState 0
      | some j => match j.stn sid with
        | none => finishDesc t q idx stBadState 0
        | some st =>
          if !decide (j.jstate = 1 ∨ j.jstate = 2 ∨ j.jstate = 3 ∨ j.jstate = 5) then finishDesc t q idx stBadState 0
          else body t jn j sid st) s

/-- STNCTL DRAIN: its record is written when the station is STOPPED. -/
def execStnctlDrain (q idx : Nat) (s : State) : Out :=
  stnRow q idx 1 (fun t jn j sid st =>
    if st.dst = 0 then startDesc (t.setJob jn (some (j.setStn sid { st with dst := 1 }))) q idx 0
    else if st.dst = 3 then finishDesc t q idx stBadState 0
    else finishDesc t q idx stOk 0) s

/-- The items of a station are aborted, and its seat is cleared. -/
def abortStation (s : State) (jn sid : Nat) : State := clearStationSeat (abortItems s (stnItems s jn sid)) jn sid

/-- STNCTL ABORT. -/
def execStnctlAbort (q idx : Nat) (s : State) : Out :=
  stnRow q idx 2 (fun t jn j sid st =>
    if st.dst = 0 ∨ st.dst = 1 then
      startDesc (abortStation (t.setJob jn (some (j.setStn sid { st with dst := 3 }))) jn sid) q idx 0
    else finishDesc t q idx stOk 0) s

/-- STNCTL RESUME. -/
def execStnctlResume (q idx : Nat) (s : State) : Out :=
  stnRow q idx 3 (fun t jn j sid st =>
    if st.dst = 2 then finishDesc (t.setJob jn (some (j.setStn sid { st with dst := 0, fault := false }))) q idx stOk 0
    else if st.dst = 0 then finishDesc t q idx stOk 0
    else finishDesc t q idx stBadState 0) s

/-- STATION_STOPPED: no item of a draining or aborting station is in flight; the STNCTLs that wait for it complete. -/
def execStationStopped (jn sid : Nat) (s : State) : Out :=
  whenLive s (match s.job jn with
    | none => s
    | some j => match j.stn sid with
      | none => s
      | some st =>
        if !decide (st.dst = 1 ∨ st.dst = 3) || !(stnItems s jn sid).isEmpty then s
        else
          let s1 := s.setJob jn (some (j.setStn sid { st with dst := 2 }))
          finishAll s1 (stnWaiters s1 jn sid) stOk)

/-! ### JOBCTL (R92) -/

/-- The rows of JOBCTL. -/
def jobRow (q idx ctl : Nat) (body : State → Nat → Job → State) (s : State) : Out :=
  match descAt s q idx with
  | none => .next s
  | some x =>
    if x.op 28 1 ≠ ctl then .next s
    else descRow q idx 5 (fun d t =>
      let jn := d.op 24 1 % 64
      match t.job jn with
      | none => finishDesc t q idx stBadState 0
      | some j => body t jn j) s

/-- JOBCTL DRAIN. -/
def execJobctlDrain (q idx : Nat) (s : State) : Out :=
  jobRow q idx 1 (fun t jn j =>
    if j.jstate ≠ 1 ∨ j.regen.isSome then finishDesc t q idx stBadState 0
    else startDesc (t.setJob jn (some { j with jstate := 2 })) q idx 0) s

/-- An aborted job is LOADED once none of its items is left. -/
def abortDone (s : State) (jn : Nat) : State :=
  match s.job jn with
  | none => s
  | some j =>
    if j.jstate ≠ 4 ∨ !(jobItems s jn).isEmpty then s
    else
      let s1 := flushConduits s jn
      let s2 := match s1.job jn with
        | none => s1
        | some k =>
          let k1 := { k.mapStns (fun x => { x.fresh with dst := 2 }) with jstate := 0, fsid := none, admitted := k.low }
          s1.setJob jn (some { k1 with begun := [], defers := [], digs := [], regen := none })
      finishAll s2 (startedOn s2 [4, 5] jn) stOk

/-- The effect of JOBCTL ABORT: waiting SYNCs, a regeneration and a pairing end ABORTED (spec/13_queues.md R357;
spec/16_determinism.md R451, R459); every station is aborted. -/
def abortJob (s : State) (jn : Nat) (j : Job) : State :=
  let s1 := s.setJob jn (some ({ j with jstate := 4 }.mapStns (fun x => { x with dst := if x.dst = 2 then 2 else 3 })))
  let s2 := finishAll s1 (startedOn s1 [8] jn) stAborted
  let s3 := match j.regen with
    | some r => finishDesc s2 r.q r.idx stAborted 0
    | none => s2
  let s4 := if (pairOf s3 jn).isSome then endPair s3 0 stAborted 0 else s3
  (List.range j.stns.length).foldl (fun t sid => clearStationSeat t jn sid) (abortItems s4 (jobItems s4 jn))

/-- JOBCTL ABORT. -/
def execJobctlAbort (q idx : Nat) (s : State) : Out :=
  jobRow q idx 2 (fun t jn j =>
    if j.jstate = 0 ∨ j.jstate = 4 then finishDesc t q idx stBadState 0
    else abortDone (startDesc (abortJob t jn j) q idx 0) jn) s

/-- Items whose deferred adds found no room are dropped: their steps run them anew (spec/16_determinism.md R443). -/
def dropStuck (s : State) (jn : Nat) : State :=
  (jobItems s jn).foldl (fun t (n, it) =>
    if it.err.any (fun e => e.1 == stNoResource) then dropItem (unreserveItem t it) n else t) s

/-- JOBCTL RESUME. -/
def execJobctlResume (q idx : Nat) (s : State) : Out :=
  jobRow q idx 3 (fun t jn j =>
    if !decide (j.jstate = 3 ∨ (j.jstate = 5 ∧ j.stns.all (fun x => !x.fault))) then finishDesc t q idx stBadState 0
    else if wantsDetm t j then finishDesc t q idx stDetMode 0
    else
      let t1 := dropStuck t jn
      let t2 := match t1.job jn with
        | none => t1
        | some k => t1.setJob jn (some { k with jstate := 1, fsid := none })
      finishDesc (wakeSyncs t2 jn) q idx stOk 0) s

/-- JOB_STOPPED: every admitted step of a draining job is complete, or the last item of an aborted one has ended. -/
def execJobStopped (jn : Nat) (s : State) : Out :=
  whenLive s (match s.job jn with
    | none => s
    | some j =>
      if j.jstate = 4 then abortDone s jn
      else if j.jstate ≠ 2 ∨ j.low < j.admitted then s
      else
        let s1 := s.setJob jn (some { j with jstate := 3 })
        finishAll s1 (startedOn s1 [5] jn) stOk)

/-! ### QUERY, UNLOAD, SYNC (R88, R94, R357) -/

/-- The lowest step of a station with an uncommitted item. -/
def slowStep (j : Job) (st : Stn) : Nat :=
  let all (step : Nat) : Bool := (List.range st.df.items).all (fun i => st.done.contains (step, i))
  match (List.range (j.admitted - j.low)).find? (fun k => !all (j.s0 + j.low + k)) with
  | some k => j.s0 + j.low + k
  | none => j.highOr

/-- The status block. -/
def statusBlock (s : State) (jn : Nat) (j : Job) : List Byte :=
  leBytes 1 j.jstate ++ leBytes 7 0 ++ leBytes 8 (j.s0 + j.low) ++ leBytes 8 (j.highOr + (2 ^ 64 - 1))
    ++ leBytes 2 (j.fsid.getD 0xFFFF) ++ leBytes 38 0
    ++ (j.stns.zipIdx).flatMap (fun (x, sid) => leBytes 1 (x.dst % 4 + 128 * x.fault.toNat) ++ leBytes 3 0
      ++ leBytes 4 (stnItems s jn sid).length ++ leBytes 8 (slowStep j x))
    ++ j.cnds.flatMap (fun c => leBytes 8 c.w ++ leBytes 8 c.pub)

/-- The status block of a QUERY is written to its buffer; where the write waits for a translation, the block is
kept. -/
def queryWrite (s : State) (q idx : Nat) (d : Desc) (block : List Byte) : State :=
  let (ok, t) := rqWrite s (descRq s q d) (d.op 32 8) block
  if ok then finishDesc t q idx stOk 0 else updDesc t q idx (fun x => { x with stage := .writing block })

/-- QUERY: the status block is taken when it starts. -/
def execQuery (q idx : Nat) (s : State) : Out :=
  descRow q idx 6 (fun d t =>
    let jn := d.op 24 1 % 64
    match d.stage, t.job jn with
    | .writing b, _ => queryWrite t q idx d b
    | _, none => finishDesc t q idx stBadState 0
    | _, some j => queryWrite t q idx d (statusBlock t jn j)) s

/-- UNLOAD. -/
def execUnload (q idx : Nat) (s : State) : Out :=
  descRow q idx 7 (fun d t =>
    let jn := d.op 24 1 % 64
    match t.job jn with
    | none => finishDesc t q idx stBadState 0
    | some j =>
      if !decide (j.jstate = 0 ∨ j.jstate = 3) then finishDesc t q idx stBadState 0
      else
        let t1 := finishAll t (startedOn t [8] jn) stAborted
        let t2 := if (pairOf t1 jn).isSome then endPair t1 0 stAborted 0 else t1
        let t3 := finishAll t2 (startedOn t2 [4] jn) stOk
        finishDesc (setJobRegs (t3.setJob jn none) jn 0 0 0) q idx stOk 0) s

/-- SYNC. -/
def execSync (q idx : Nat) (s : State) : Out :=
  descRow q idx 8 (fun d t =>
    let jn := d.op 24 1 % 64
    let step := d.op 32 8
    match t.job jn with
    | none => finishDesc t q idx stBadState 0
    | some j =>
      if step < j.s0 + j.low then finishDesc t q idx stOk step
      else if j.highOr ≤ step then finishDesc t q idx stBadState 0
      else startDesc t q idx 0) s

end Sys2Proof.Machine
end

