-- ==== Sys2Proof/Machine/Regen.lean ====
section
/-! DEFINITION. The commands REGEN, LSPAIR and LSEND (spec/16_determinism.md R450 to R459). -/

namespace Sys2Proof.Machine

/-! ### Regenerate (R450, R451) -/

/-- Stations that feed one of a set: n rounds add all that lead to it. -/
def coneFrom (j : Job) : Nat → List Nat → List Nat
  | 0, l => l
  | n + 1, l =>
    let feeds := (j.cnds.filter (fun c => l.contains c.df.cons && !l.contains c.df.prod)).map (fun c => c.df.prod)
    coneFrom j n (l ++ feeds.eraseDups)

/-- The cone of a station. -/
def coneOf (j : Job) (sid : Nat) : List Nat := coneFrom j j.stns.length [sid]

/-- The station can be regenerated. -/
def regenOk (j : Job) (sid : Nat) : Bool :=
  match j.stn sid with
  | none => false
  | some st => !st.df.outList.isEmpty && (coneOf j sid).all (fun n => match j.stn n with
      | some x => decide (x.df.kind ≠ 0x12 ∧ x.df.kind ≠ 0x13)
      | none => true)

/-- A conduit of a regeneration: empty, with its window at the first ordinal of the step, the only one admitted
(log entry 40). -/
def Cnd.atStep (c : Cnd) (n : Nat) : Cnd := { c.flush with w := n * (c.df.trows * c.df.tcols) }

/-- The regeneration begins. -/
def beginRegen (s : State) (q idx jn sid step s0 seed buf : Nat) (j : Job) : State :=
  let r : Regen := ⟨q, idx, step, sid, coneOf j sid, buf, qaspace s q⟩
  let j1 := { j with queue := q, seed := seed, s0 := s0, admitted := step - s0 + 1, low := step - s0, jstate := 1 }
  let j2 := { j1 with fsid := none, begun := [], dets := [(s0, true)], defers := [], digs := [], regen := some r }
  let j3 := { j2 with stns := j2.stns.map (startStn s true), cnds := j2.cnds.map (fun c => c.atStep (step - s0)) }
  startDesc (s.setJob jn (some j3)) q idx 0

/-- REGEN. -/
def execRegen (q idx : Nat) (s : State) : Out :=
  descRow q idx 0x60 (fun d t =>
    let jn := d.op 24 1 % 64
    let sid := d.op 26 2
    let (step, s0, seed, buf) := (d.op 32 8, d.op 40 8, d.op 48 8, d.op 56 8)
    match t.job jn with
    | none => finishDesc t q idx stBadState 0
    | some j =>
      if j.jstate ≠ 0 then finishDesc t q idx stBadState 0
      else if !detm t then finishDesc t q idx stDetMode 0
      else if step < s0 ∨ step = 2 ^ 64 - 1 then finishDesc t q idx stStepRange 0
      else if !regenOk j sid then finishDesc t q idx 0x34 0
      else beginRegen t q idx jn sid step s0 seed buf j) s

/-! ### Lock-step pairs (R453, R459) -/

/-- A range of offsets lies inside one export range that permits reads, writes (spec/14_holarn_fabric.md R384). -/
def exported (s : State) (a n : Nat) (rd wr : Bool) : Bool :=
  (List.range 16).any (fun e =>
    let v := s.reg (regAddr (pgRtr 0) (0x200 + 8 * e))
    bit 63 v && (!wr || bit 62 v) && (!rd || bit 61 v)
      && decide (fld 15 0 v * 2 ^ 30 ≤ a ∧ a + n ≤ (fld 15 0 v + fld 47 32 v) * 2 ^ 30))

/-- The port of a lane group is up (HLP_STAT.UP). -/
def portUp (s : State) (g : Nat) : Bool := bit 0 (s.reg (regAddr (pgHlp g) 0x110))

/-- The flow can carry the pair's traffic over the lane group. -/
def pairFlowOk (s : State) (g flow : Nat) : Bool :=
  let st := s.reg (regAddr (pgHlp g) 0x110)
  match s.flow flow with
  | none => false
  | some f => s.fuses.variant.bonded g && decide (roleOf s g = 1) && portUp s g && decide (f.st = 2)
      && bit 50 st && decide (fld 49 32 st = f.rnode)

/-- The own area is usable. -/
def pairAreaOk (s : State) (j : Job) (lbase : Nat) : Bool :=
  let n := lsAreaSize j
  isNear s lbase && isNear s (lbase + n - 1) && exported s lbase n true true

/-- LSPAIR. -/
def execLspair (q idx : Nat) (s : State) : Out :=
  descRow q idx 0x61 (fun d t =>
    let jn := d.op 24 1 % 64
    let g := d.op 25 1
    let flow := d.op 28 4
    let (rbase, lbase) := (d.op 32 8, d.op 40 8)
    match t.job jn with
    | none => finishDesc t q idx stBadState 0
    | some j =>
      if t.pair.isSome ∨ j.jstate ≠ 0 then finishDesc t q idx stBadState 0
      else if !pairFlowOk t g flow then finishDesc t q idx 0x32 0
      else if !pairAreaOk t j lbase then finishDesc t q idx stNoResource 0
      else
        let t1 := t.setReg (regAddr pgGlb 0x118) (BitVec.ofNat 64 (jn * 256 + 1))
        let t2 := (t1.setReg (regAddr pgGlb 0x120) (BitVec.ofNat 64 (2 ^ 64 - 1))).setReg (regAddr pgGlb 0x128) 0
        startDesc { t2 with pair := some ⟨jn, g, flow, rbase, lbase, q, idx⟩ } q idx 0) s

/-- LSEND: the pairing of the job ends; without one the command has nothing to end. -/
def execLsend (q idx : Nat) (s : State) : Out :=
  descRow q idx 0x62 (fun d t =>
    let t1 := if (pairOf t (d.op 24 1 % 64)).isSome then endPair t 0 stOk (lsCmp t) else t
    finishDesc t1 q idx stOk 0) s

end Sys2Proof.Machine
end

