-- ==== Sys2Proof/Machine/Ports.lean ====
section
/-! DEFINITION. Holarn ports: roles, training, lanes, link frames, Ethernet frames and configuration digests
(spec/14_holarn_fabric.md R372 to R382, R408 to R412; spec/17_faults_and_replay.md R477;
spec/19_boot_and_attestation.md R518, R519). -/

namespace Sys2Proof.Machine

/-! ### Tables -/

/-- A port. -/
def State.port (s : State) (g : Nat) : PortSt := SMap.get (fun _ => PortSt.reset) s.fab.ports g
def State.setPort (s : State) (g : Nat) (p : PortSt) : State :=
  { s with fab := { s.fab with ports := SMap.put (fun _ => PortSt.reset) s.fab.ports g p } }

/-- HLP_STAT, HLP_LANE and HLP_LINKCTL of a group. -/
def hlpStat (g : Nat) : Nat := regAddr (pgHlp g) 0x110
def hlpLane (s : State) (g : Nat) : W64 := s.reg (regAddr (pgHlp g) 0x118)
def linkEn (s : State) (g : Nat) : Bool := bit 0 (s.reg (regAddr (pgHlp g) 0x108))
def digStrict (s : State) (g : Nat) : Bool := bit 2 (s.reg (regAddr (pgHlp g) 0x108))

/-- The port trains; the port is isolated. -/
def training (s : State) (g : Nat) : Bool := bit 1 (s.reg (hlpStat g))
def isolated (s : State) (g : Nat) : Bool := bit 2 (s.reg (hlpStat g))

/-- The role carries router traffic. -/
def isRouterPort (s : State) (g : Nat) : Bool := s.fuses.variant.bonded g && decide (roleOf s g = 1 ∨ roleOf s g = 2)

/-- An error of a port, with HLP_LANE as INFO. -/
def hlpError (s : State) (g n : Nat) (inj : Bool) : State :=
  raiseWith s (pgHlp g) n ⟨none, (hlpLane s g).toNat, none, inj⟩

/-! ### Digests (R408 to R410, R519) -/

/-- The module's own digest. -/
def ownDigest (s : State) : List Byte :=
  (List.range 6).flatMap (fun w => leBytes 8 (s.reg (regAddr pgSec (0x480 + 8 * w))).toNat)

/-- The mismatch bit of a port in SEC_CFGSTAT. -/
def setMisport (s : State) (g : Nat) (b : Bool) : State :=
  let a := regAddr pgSec 0x218
  s.setReg a (setBit g (s.reg a) b)

/-- A port follows DIGSTRICT: isolated while its digests differ. -/
def isolate (s : State) (g : Nat) : State :=
  let iso := digStrict s g && portUp s g && !bit 0 (s.reg (regAddr (pgHlp g) 0x120))
  s.setReg (hlpStat g) (setBit 2 (s.reg (hlpStat g)) iso)

/-- A digest arrives from the far end: a change to mismatch is reported; at a training that brings the port up, a
mismatch is one. -/
def digestIn (s : State) (g : Nat) (dig : List Byte) (fresh : Bool) : State :=
  let page := pgHlp g
  let inj := armedAt s page 11
  let s0 := (disarm s page 11).setReg (regAddr page 0x128) (BitVec.ofNat 64 (fieldAt dig 0 8))
  let s1 := s0.setPort g { s0.port g with digAt := some s.now }
  let a := regAddr page 0x120
  let old := s1.reg a
  if dig = ownDigest s ∧ !inj then isolate (setMisport (s1.setReg a (setBit 0 old true)) g false) g
  else if bit 0 old || fresh then
    let s2 := s1.setReg a (setBit 0 (satFld 31 16 old 1) false)
    isolate (ibi (setMisport (countEv (hlpError s2 g 11 inj) page 7 1) g true)) g
  else isolate s1 g

/-! ### Frames out (R382, R477) -/

/-- Bytes held in a replay buffer. -/
def heldBytes (p : PortSt) : Nat := (p.frames.map (fun f => f.bytes.length + 6)).foldl (· + ·) 0

/-- An Ethernet frame of a packet: addresses, tag, type, packet, check. -/
def ethFrameOf (s : State) (p : Packet) : List Byte :=
  let mac (n : Nat) : List Byte := (leBytes 6 (0x020000000000 + n)).reverse
  let body := mac (p.gaddr / 2 ^ 46) ++ mac (myNode s) ++ (leBytes 4 (0x81000000 + p.vc * 2 ^ 13)).reverse
    ++ (leBytes 2 0x88B5).reverse ++ p.bytes
  body ++ leBytes 4 (crc32Eth body)

/-- The port can take a frame now. -/
def portRoom (s : State) (g : Nat) : Bool :=
  decide (roleOf s g ≠ 1) || decide (heldBytes (s.port g) ≤ 2 ^ 21 - 4200)

/-- Send a packet on a port. -/
def sendOnPort (s : State) (g : Nat) (p : Packet) : State :=
  let page := pgHlp g
  let q := { p with ver := s.regF page 0x110 6 4 }
  let bs := q.bytes
  let c1 := countEv (countEv s page 1 1) page 3 (ceilDiv bs.length 64)
  let c2 := if q.vc = 1 ∨ q.vc = 3 then countEv c1 page 5 1 else c1
  if roleOf s g = 1 then
    let x := c2.port g
    let f : Frame := ⟨x.txSeq, bs, 0⟩
    let c3 := c2.setPort g { x with frames := x.frames ++ [f], txSeq := (x.txSeq + 1) % 4096 }
    { c3 with outs := .frame g f.seq bs :: c3.outs }
  else { c2 with outs := .ethFrame g (ethFrameOf s q) :: c2.outs }

/-- A BEACON of the module. -/
def beaconTo (s : State) (node : Nat) : Packet :=
  let body := ownDigest s ++ leBytes 3 (myNode s)
  let p : Packet := ⟨0xB, 0, 0, 4, 0, body.length, node * 2 ^ 46, 0, myNode s, 0, 0, 0, 0, body, []⟩
  { p with check := p.checkBytes }

/-- Every port that is up sends a BEACON. -/
def sendBeacons (s : State) : State :=
  (List.range 20).foldl (fun t g =>
    if isRouterPort t g && portUp t g && portRoom t g then sendOnPort t g (beaconTo t (t.port g).peer) else t) s

/-- BEACON_TIMER (R408). -/
def execBeaconTimer (s : State) : Out := whenLive s (sendBeacons s)

/-- CFG_DIGEST_RECOMPUTE (R518): a recomputation that is due; ports send the new digest (R408). -/
def execCfgDigestRecompute (s : State) : Out :=
  whenLive s (if s.boot.digestDue then sendBeacons (formDigest s) else s)

/-! ### Up and down (R376, R379, R402) -/

/-- Training starts. A retrain that software requests may use the lanes retired in service again (R379). -/
def startTraining (s : State) (g : Nat) (requested : Bool) : State :=
  let p := s.port g
  let keep (m : Nat) : Nat := if requested then 0 else m
  let s1 := s.setPort g { p with retry := false, held := portUp s g || (p.held && training s g),
                                 rxRetired := keep p.rxRetired, txRetired := keep p.txRetired }
  s1.setReg (hlpStat g) 2

/-- Flows with unacknowledged packets send again from UNAPSN (R402). -/
def resendAll (s : State) : State :=
  (s.fab.flows.filterMap (fun p => p.2.map (fun f => (p.1, f)))).foldl (fun t (n, f) =>
    if f.sent.isEmpty then t else t.setFlow n { f with resend := some f.una }) s

/-- The link is down: its frames are lost, flows send again, and a far-memory port loses its range (R248). -/
def linkDown (s : State) (g : Nat) : State :=
  let en := linkEn s g
  let lane := if en then hlpError s g 9 false else s
  let s1 := lane.setPort g { lane.port g with frames := [], txSeq := 0, rxSeq := 0, retry := en, held := false }
  let s2 := setMisport (s1.setReg (hlpStat g) 0) g false
  let s3 := if isRouterPort s g then resendAll s2 else s2
  if fmcInForce s3 g then fmcDown s3 g else s3

/-- PORT_DOWN. -/
def execPortDown (g : Nat) (s : State) : Out :=
  whenLive s (if s.fuses.variant.bonded g && (portUp s g || training s g) then linkDown s g else s)

/-- A partner of a x16 port. -/
def x16Partner (g : Nat) : Nat := if g % 2 = 0 then g + 1 else g - 1

/-- LINKEN = 1 may be written (R374). -/
def linkEnOk (s : State) (g : Nat) : Bool :=
  let p := x16Partner g
  decide (roleOf s g ≠ 0)
    && (!x16Of s g || (decide (roleOf s g = 3 ∨ roleOf s g = 4) && s.fuses.variant.bonded p
      && decide (roleOf s p = roleOf s g) && x16Of s p))

/-- A write of HLP_LINKCTL (R374, R376, R410). -/
def linkctlWrite (s : State) (g : Nat) (v : W64) : State :=
  let a := regAddr (pgHlp g) 0x108
  if (x16Of s g && decide (g % 2 = 1)) || (bit 0 v && !linkEnOk s g) then reject s (pgHlp g)
  else
    let was := linkEn s g
    let s1 := s.setReg a (v &&& 5)
    if bit 0 v then (if !was || bit 1 v then startTraining s1 g true else isolate s1 g)
    else if was then linkDown s1 g else s1

/-- HLP_LINKEN_WRITE: a write of LINKEN = 1. -/
def execHlpLinkenWrite (g : Nat) (v : W64) (s : State) : Out :=
  whenLive s (if s.fuses.variant.bonded g && bit 0 v then linkctlWrite s g v else s)

/-- HLP_RETRAIN: a write of RETRAIN = 1 with the other bits as they are. -/
def execHlpRetrain (g : Nat) (s : State) : Out :=
  whenLive s (if s.fuses.variant.bonded g then linkctlWrite s g (s.reg (regAddr (pgHlp g) 0x108) ||| 2) else s)

/-- The LINKEN that governs a group: its own, or that of the group that leads its x16 port (R374). -/
def governEn (s : State) (g : Nat) : Bool := if x16Of s g && decide (g % 2 = 1) then linkEn s (g - 1) else linkEn s g

/-- A write of HLP_ROLE (R374). -/
def roleWrite (s : State) (g : Nat) (v : W64) : State :=
  let a := regAddr (pgHlp g) 0x100
  if governEn s g || bit 8 (s.reg a) || decide (4 < fld 2 0 v) then reject s (pgHlp g)
  else s.setReg a (v &&& 0x117)

/-- PARTNER_DETECT: a partner appears while LINKEN = 1. -/
def execPartnerDetect (g : Nat) (s : State) : Out :=
  whenLive s (if s.fuses.variant.bonded g && linkEn s g && !portUp s g && !training s g then startTraining s g false else s)

/-- TRAIN_RETRY: a port that failed training tries again. -/
def execTrainRetry (g : Nat) (s : State) : Out :=
  whenLive s (if s.fuses.variant.bonded g && linkEn s g && (s.port g).retry then startTraining s g false else s)

/-! ### The end of training (R377 to R381) -/

/-- The lanes of a mask within the lowest n are in service. -/
def inService8 (good : List Nat) (width : Nat) : List Nat := good.take width

/-- Lanes retired in service keep their state. -/
def laneCode (s : State) (g n : Nat) : Nat := fld (4 * n + 3) (4 * n) (hlpLane s g)

/-- What the electrical checks found of the receive lanes: code of R377 (0 good), received lane number, inverted. -/
def laneOf (lanes : List (Nat × Nat × Bool)) (n : Nat) : Nat × Nat × Bool := lanes.getD n (1, 0, false)

/-- HLP_LANE of a trained width; the good receive lanes in the chosen order and the good transmit lanes. -/
def laneReg (s : State) (g : Nat) (lanes : List (Nat × Nat × Bool)) (rev : Bool) (rx tx : List Nat) (width : Nat) : Nat :=
  let p := s.port g
  let rxState (n : Nat) : Nat :=
    if nbit n p.rxRetired then laneCode s g n
    else if rx.contains n then (if (inService8 rx width).contains n then 0 else 6)
    else if (laneOf lanes n).1 = 0 then 5 else (laneOf lanes n).1 % 16
  let txState (n : Nat) : Nat := if tx.contains n then (if (inService8 tx width).contains n then 0 else 2) else 1
  let sum (f : Nat → Nat) : Nat := ((List.range 8).map f).foldl (· + ·) 0
  sum (fun n => rxState n * 2 ^ (4 * n)) + sum (fun n => if rx.contains n && (laneOf lanes n).2.2 then 2 ^ (32 + n) else 0)
    + (if rev then 2 ^ 40 else 0) + sum (fun n => txState n * 2 ^ (48 + 2 * n))

/-- Training ends with the port down; a link that was up is down (R477). -/
def trainFailed (s : State) (g : Nat) : State :=
  let p := s.port g
  if p.held then linkDown s g
  else (s.setPort g { p with retry := true }).setReg (hlpStat g) (s.reg (hlpStat g) &&& 8)

/-- The highest version common to both ends (R380). -/
def commonVer (far : Nat) : Nat := if nbit 2 far then 3 else if nbit 1 far then 2 else if nbit 0 far then 1 else 0

/-- A port comes up: its unacknowledged frames are sent again, and the far end's digest is taken. -/
def trainUp (s : State) (g width ver node : Nat) (dig : List Byte) : State :=
  let p := s.port g
  let peer := if roleOf s g = 1 then 2 ^ 50 + node % 2 ^ 18 * 2 ^ 32 else 0
  let s1 := s.setReg (hlpStat g) (BitVec.ofNat 64 (peer + width * 256 + ver * 16 + 1))
  let s2 := s1.setPort g { p with held := false, retry := false, peer := node % 2 ^ 18,
                                  frames := p.frames.map (fun f => { f with resends := 0 }) }
  let shown := (p.frames.map (fun f => Shown.frame g f.seq f.bytes)).reverse
  let s3 := { s2 with outs := shown ++ s2.outs }
  if isRouterPort s g then digestIn s3 g dig (!p.held) else s3

/-- LINK_TRAIN_DONE: what training found: the receive lanes, the mask of transmit lanes that the far end found good,
its versions, node and digest; for a CXL or PCIe port the width it reached. -/
def execLinkTrainDone (g : Nat) (lanes : List (Nat × Nat × Bool)) (farTx farVers node width : Nat) (dig : List Byte) (s : State) : Out :=
  whenLive s <|
    if !s.fuses.variant.bonded g || !training s g then s
    else if !isRouterPort s g then
      (if width = 0 then trainFailed s g else trainUp s g (width % 32) 0 0 [])
    else
      let p := s.port g
      let good (n : Nat) : Bool := decide ((laneOf lanes n).1 = 0) && !nbit n p.rxRetired
      let ident := (List.range 8).filter (fun n => good n && decide ((laneOf lanes n).2.1 = n))
      let revd := (List.range 8).filter (fun n => good n && decide ((laneOf lanes n).2.1 + n = 7))
      let rev := decide (ident.length < revd.length)
      let rx := if rev then revd else ident
      -- a short turns this end's transmitter on the same lane number off
      let tx := (List.range 8).filter (fun n => nbit n farTx && !nbit n p.txRetired && decide ((laneOf lanes n).1 ≠ 2))
      let k := min rx.length tx.length
      let eth := decide (roleOf s g = 2)
      let w := if k = 8 then 8 else if eth then 0 else if 6 ≤ k then 6 else if 4 ≤ k then 4 else 0
      let s1 := s.setReg (regAddr (pgHlp g) 0x118) (BitVec.ofNat 64 (laneReg s g lanes rev rx tx w))
      if w = 0 then trainFailed (if k < 4 then hlpError s1 g 8 false else s1) g
      else if eth then trainUp s1 g 8 3 node dig
      else if commonVer farVers = 0 then
        (trainFailed (hlpError s1 g 10 false) g).setReg (hlpStat g) 8
      else trainUp s1 g w (commonVer farVers) node dig

/-! ### Lanes (R379, R412) -/

/-- Receive lanes in service. -/
def rxInService (s : State) (g : Nat) : List Nat :=
  if roleOf s g = 1 ∨ roleOf s g = 2 then (List.range 8).filter (fun n => laneCode s g n = 0) else []

/-- A receive lane is retired with a code, and the port retrains. -/
def retireLane (s : State) (g n code : Nat) (inj : Bool) : State :=
  let a := regAddr (pgHlp g) 0x118
  let s1 := s.setReg a (setFld (4 * n + 3) (4 * n) (s.reg a) code)
  let p := s1.port g
  let s2 := s1.setPort g { p with rxRetired := if nbit n p.rxRetired then p.rxRetired else p.rxRetired + 2 ^ n }
  startTraining (hlpError s2 g 8 inj) g false

/-- A transmit lane that the far end reports failed is retired. -/
def retireTx (s : State) (g n : Nat) : State :=
  let a := regAddr (pgHlp g) 0x118
  let s1 := s.setReg a (setFld (49 + 2 * n) (48 + 2 * n) (s.reg a) 1)
  let p := s1.port g
  let s2 := s1.setPort g { p with txRetired := if nbit n p.txRetired then p.txRetired else p.txRetired + 2 ^ n }
  startTraining (hlpError s2 g 8 false) g false

/-- LANE_FAIL: a lane in service loses its signal, or errs too often; transmit lanes fail at the far end. -/
def execLaneFail (g n : Nat) (tx lost : Bool) (s : State) : Out :=
  whenLive s (if !(isRouterPort s g && portUp s g) then s
    else if tx then (if n < 8 ∧ fld (49 + 2 * n) (48 + 2 * n) (hlpLane s g) = 0 then retireTx s g n else s)
    else if (rxInService s g).contains n then retireLane s g n (if lost then 1 else 4) false else s)

/-! ### Link frames in (R477) -/

/-- A packet reaches the router of a port's X-die, or the port itself if it is a BEACON. -/
def packetIn (s : State) (g : Nat) (p : Packet) : State :=
  if p.type = 0xB then
    (if decide (p.check = p.checkBytes) && decide (p.len = 51) then digestIn s g (p.payload.take 48) false else s)
  else { s with fab := { s.fab with rq := s.fab.rq ++ [(lgX g, p)] } }

/-- BEACON: a digest arrives on a port that is up. -/
def execBeacon (g : Nat) (dig : List Byte) (s : State) : Out :=
  whenLive s (if isRouterPort s g && portUp s g && decide (dig.length = 48) then
    digestIn (countEv s (pgHlp g) 2 1) g dig false else s)

/-- Frames are sent again from one on; a frame sent eight times more makes the port retrain. -/
def resendFrames (s : State) (g from_ : Nat) : State :=
  let p := s.port g
  let due (f : Frame) : Bool := decide ((f.seq + 4096 - from_ % 4096) % 4096 < 2048)
  let fs := p.frames.map (fun f => if due f then { f with resends := f.resends + 1 } else f)
  let again := fs.filter due
  let s1 := countEv (s.setPort g { p with frames := fs }) (pgHlp g) 4 again.length
  let s2 := { s1 with outs := ((again.map (fun f => Shown.frame g f.seq f.bytes)).reverse) ++ s1.outs }
  if again.any (fun f => decide (8 ≤ f.resends)) then startTraining s2 g false else s2

/-- LLR_FRAME_RECEIVE: a frame arrives with its sequence number and packet bytes, good or not; with it the far end
acknowledges every frame before one, and may ask for frames from one on again. -/
def execLlrFrameReceive (g seq : Nat) (bytes : List Byte) (good : Bool) (ack : Option Nat) (again : Option Nat) (s : State) : Out :=
  whenLive s <|
    if !(isRouterPort s g && decide (roleOf s g = 1) && portUp s g) then s
    else
      let p := s.port g
      let left := match ack with
        | some a => p.frames.filter (fun f => decide ((f.seq + 4096 - a % 4096) % 4096 < 2048))
        | none => p.frames
      let s1 := s.setPort g { p with frames := left }
      let s2 := match again with
        | some a => resendFrames s1 g a
        | none => s1
      if !good || decide (seq ≠ (s2.port g).rxSeq) then s2
      else if bytes.length < 32 ∨ fieldAt bytes 30 2 ≠ crc16 (bytes.take 30) then s2
      else
        let s3 := countEv (s2.setPort g { s2.port g with rxSeq := (seq + 1) % 4096 }) (pgHlp g) 2 1
        match parsePacket bytes with
        | some x => packetIn s3 g x
        | none => s3

/-- LLR_ACK_TIMEOUT: no acknowledgement for 2,000 reference cycles with frames outstanding. -/
def execLlrAckTimeout (g : Nat) (s : State) : Out :=
  whenLive s (if isRouterPort s g && decide (roleOf s g = 1) && portUp s g && !(s.port g).frames.isEmpty then
    startTraining s g false else s)

/-- ETH_FRAME_RECEIVE (R382). -/
def execEthFrameReceive (g : Nat) (frame : List Byte) (s : State) : Out :=
  whenLive s <|
    if !(isRouterPort s g && decide (roleOf s g = 2) && portUp s g) then s
    else
      let n := frame.length
      let body := frame.take (n - 4)
      if n < 22 ∨ leNat (frame.drop (n - 4)) ≠ crc32Eth body then s
      else if leNat ((body.drop 12).take 2).reverse ≠ 0x8100 ∨ leNat ((body.drop 16).take 2).reverse ≠ 0x88B5 then
        countEv (countEv s (pgHlp g) 2 1) (pgHlp g) 8 1
      else
        let s1 := countEv s (pgHlp g) 2 1
        match parsePacket (body.drop 18) with
        | some x => packetIn s1 g x
        | none => s1

/-- BEACON_LOSS: four periods without a BEACON. -/
def execBeaconLoss (g : Nat) (s : State) : Out :=
  whenLive s (if isRouterPort s g && portUp s g then startTraining (hlpError s g 12 false) g false else s)

end Sys2Proof.Machine
end

