-- ==== Sys2Proof/Machine/Reduce.lean ====
section
/-! DEFINITION. What reduction seats do: packets in, the actions of a seat, bindings
(spec/15_fabric_reduction.md R424 to R437). -/

namespace Sys2Proof.Machine

/-! ### A REDUCE packet (R427) -/

/-- The fields of a REDUCE packet. -/
structure RedPkt where
  rvc : Nat
  rep : Nat
  chunk : Nat
  wire : Nat
  level : Nat
  det : Bool
  down : Bool
  step : Nat
  nrep : Nat
  grpid : Nat
  tiles : Nat
  pull : Bool
  whole : Bool
  data : List Byte
  deriving DecidableEq, Repr

/-- Read the fields. -/
def redPkt (p : Packet) : RedPkt :=
  { rvc := nfld 45 42 p.gaddr, rep := nfld 41 24 p.gaddr, chunk := nfld 23 0 p.gaddr, wire := nfld 7 7 p.subop,
    level := nfld 6 2 p.subop, det := nbit 1 p.subop, down := nbit 0 p.subop, step := fieldAt p.payload 0 8,
    nrep := fieldAt p.payload 8 4, grpid := fieldAt p.payload 12 2, tiles := fieldAt p.payload 14 2,
    pull := nbit 0 p.subop && decide (p.len = 16), whole := decide (p.len = 2064), data := p.payload.drop 16 }

/-- The packet agrees with the seat and comes from a child (a node) or the parent (a result) (R432). -/
def redAgrees (s : State) (g : Nat) (x : RedPkt) : Bool :=
  let b := binding s g x.rvc
  let y := s.seat g x.rvc
  let det := if y.step.isSome then y.det else detm s
  decide (x.nrep = b.nrep ∧ x.grpid = b.grpid ∧ x.wire = b.wire) && (x.det == det) && decide (y.tiles.getD x.tiles = x.tiles)
    && x.whole && decide (x.chunk < 4 * x.tiles)
    && (if x.down then decide (b.parent = some x.rep ∧ x.level = treeLevels b.nrep) else b.children.contains (x.level, x.rep))

/-- An inconsistent packet: REDERR, and the items of the step on the seat end with it. -/
def redErr (s : State) (g r : Nat) : State := failSeat (raiseInfo s (pgLra g) 8 r) g r stRedErr

/-- A pull: nodes are to be sent again to the parent, results to a child (R430, R437). -/
def pullIn (s : State) (g : Nat) (x : RedPkt) : State :=
  let b := binding s g x.rvc
  let y := s.seat g x.rvc
  let again (l : List RedRes) : List RedRes := l.map (fun e => { e with todo := if e.todo.contains x.rep then e.todo else e.todo ++ [x.rep] })
  let child := b.children.any (fun c => c.2 == x.rep)
  if x.nrep ≠ b.nrep ∨ x.grpid ≠ b.grpid then redErr s g x.rvc
  else if y.step = some x.step then
    if b.parent = some x.rep then
      let unsent (n : RedNode) : RedNode := { n with sent := false }
      s.setSeat g x.rvc { y with nodes := y.nodes.map unsent }
    else if child then s.setSeat g x.rvc { y with ress := again y.ress }
    else redErr s g x.rvc
  else match y.prev with
    | some (t, n, det, l) => if t = x.step ∧ child then s.setSeat g x.rvc { y with prev := some (t, n, det, again l) } else s
    | none => s

/-- Dropped as a duplicate. -/
def dupDrop (s : State) (g : Nat) : State := countEv s (pgLra g) 4 1

/-- The step becomes the seat's, if it had none: its mode is sampled now (R430, R440). -/
def adoptStep (s : State) (g : Nat) (x : RedPkt) : State :=
  let y := s.seat g x.rvc
  if y.step.isSome then s
  else s.setSeat g x.rvc { y with step := some x.step, tiles := some x.tiles, det := detm s }

/-- A child's node is accepted into a slot, or refused (false). -/
def nodeIn (s : State) (g : Nat) (x : RedPkt) : Bool × State :=
  let y := s.seat g x.rvc
  if y.ress.any (fun e => e.chunk == x.chunk)
      || y.ins.any (fun e => e.chunk == x.chunk && e.level == x.level && e.rep == x.rep) then (true, dupDrop s g)
  else match reach s g x.rvc x.chunk with
    | none => (false, countEv s (pgLra g) 5 1)
    | some s1 =>
      let z := s1.seat g x.rvc
      let new : RedIn := ⟨x.chunk, x.level, x.rep, x.data, false⟩
      (true, s1.setSeat g x.rvc { z with ins := z.ins ++ [new] })

/-- A REDUCE packet in order reaches its seat: false is answered NACK NOCREDIT. -/
def reduceIn (s : State) (p : Packet) : Bool × State :=
  let x := redPkt p
  match seatPage s x.rvc with
  | none => (true, s)
  | some g =>
    let y := s.seat g x.rvc
    let last := lraStep s g x.rvc
    if x.pull then (true, pullIn s g x)
    else if last ≠ noStep ∧ x.step ≤ last then (true, dupDrop s g)
    else if last ≠ noStep ∧ x.step ≠ last + 1 then (false, s)
    else if y.step.isSome ∧ y.step ≠ some x.step then (true, redErr s g x.rvc)
    else if y.lost then (false, s)
    else if !redAgrees s g x then (true, redErr s g x.rvc)
    else
      let s1 := adoptStep s g x
      if x.down then
        (if (s1.seat g x.rvc).ress.any (fun e => e.chunk == x.chunk) then (true, dupDrop s1 g)
         else (true, resultIn s1 g x.rvc x.chunk x.data))
      else nodeIn s1 g x

/-! ### Actions (R426, R429) -/

/-- The live item of a seat that covers a grid ordinal and may go on. -/
def seatItem (s : State) (g r ord : Nat) : Option (Nat × Item) :=
  (seatItems s g r).find? (fun p => p.2.ords.contains ord && p.2.err.isNone && !itemWaits s p.1
    && decide (some p.2.step = (s.seat g r).step))

/-- The next local chunk to read: the lowest that is neither an input nor reduced. -/
def nextLocal (s : State) (g r : Nat) : Option Nat :=
  let x := s.seat g r
  let b := binding s g r
  (List.range (4 * x.tiles.getD 0)).find? (fun c =>
    !x.ress.any (fun e => e.chunk == c) && !x.ins.any (fun e => e.chunk == c && e.level == b.span && e.rep == b.myrep)
      && (seatItem s g r (c / 4)).isSome)

/-- The conduit of an item's IN0 or OUT0: number, conduit. -/
def ioCnd (j : Job) (l : List (Option Nat)) : Option (Nat × Cnd) :=
  (l.getD 0 none).bind (fun cid => (j.cnd cid).map (fun c => (cid, c)))

/-- The checks of an item's tags at its first chunk; then the chunk's 16 rows are read and become an input. -/
def readLocal (s : State) (g r : Nat) : State :=
  match nextLocal s g r with
  | none => s
  | some c => match seatItem s g r (c / 4) with
    | none => s
    | some (n, it) => match (s.job it.job).bind (fun j => (j.stn it.sid).map (fun st => (j, st.df))) with
      | none => s
      | some (j, d) =>
        if !it.tagsOk then
          match checkTags s (itemRq s n it) j d it with
          | (none, s1) => s1
          | (some e, s1) => s1.setItem n (some { it with tagsOk := e.isNone, err := e.map (fun x => (x, 0, 0)) })
        else match reach s g r c, ioCnd j d.ins with
          | some s1, some (cid, x) =>
            (match rqRead s1 (itemRq s1 n it) (j.slotVa cid x (x.ordinal j.s0 it.step 0 0 + c / 4) + c % 4 * 2048) 2048 with
             | (none, s2) => s2
             | (some (bs, poison), s2) =>
               if poison then s2.setItem n (some { it with err := some (stMemErr, 0, 0) })
               else
                 let b := binding s2 g r
                 let y := s2.seat g r
                 let new : RedIn := ⟨c, b.span, b.myrep, bs, true⟩
                 formNodes (dropFetched (s2.setSeat g r { y with ins := y.ins ++ [new] }) (ridItem n)) g r c)
          | _, _ => s

/-- A slot fails its parity check: what it held of a chunk is lost and pulled again (R435). -/
def slotLost (s : State) (g r chunk : Nat) (inj : Bool) : State :=
  let x := s.seat g r
  let s1 := s.setSeat g r { x with ins := x.ins.filter (fun e => e.chunk != chunk), nodes := x.nodes.filter (fun e => e.chunk != chunk) }
  sendPulls (raiseWith s1 (pgLra g) 9 ⟨none, r, none, inj⟩) g r

/-- Combine the input that became ready first. -/
def combineOne (s : State) (g r : Nat) : State :=
  let x := s.seat g r
  match x.ins.find? (fun e => !e.used) with
  | none => s
  | some e =>
    if armedAt s (pgLra g) 9 then slotLost (disarm s (pgLra g) 9) g r e.chunk true
    else
      let use (y : RedIn) : RedIn := { y with used := true }
      formNodes (s.setSeat g r { x with ins := updFirst (fun y => !y.used) use x.ins }) g r e.chunk

/-- Send the lowest node that is still to be sent. -/
def sendNode (s : State) (g r : Nat) : State :=
  let x := s.seat g r
  let b := binding s g r
  let due := (x.nodes.filter (fun n => !n.sent)).foldl (fun best n => match best with
    | none => some n
    | some m => if n.chunk < m.chunk then some n else some m) (none : Option RedNode)
  match due, b.parent, x.step with
  | some n, some rep, some step =>
    let mark (m : RedNode) : RedNode := { m with sent := true }
    let s1 := s.setSeat g r { x with nodes := updFirst (fun m => m.chunk == n.chunk) mark x.nodes }
    countEv (sendReduce s1 g r rep n.level n.chunk 0 x.det step (x.tiles.getD 0) n.data) (pgLra g) 1 1
  | _, _, _ => s

/-- The first result that is still to be sent to a child. -/
def owedResult (l : List RedRes) : Option (RedRes × Nat) :=
  (l.find? (fun e => !e.todo.isEmpty)).bind (fun e => e.todo.head?.map (fun c => (e, c)))

/-- Mark a result as sent to a child. -/
def sentResult (l : List RedRes) (chunk child : Nat) : List RedRes :=
  updFirst (fun e => e.chunk == chunk) (fun e => { e with todo := e.todo.filter (· != child) }) l

/-- Send one result down: of the step completed last, or of the current one. -/
def sendResult (s : State) (g r : Nat) : State :=
  let x := s.seat g r
  let b := binding s g r
  let send (t : State) (step tiles : Nat) (det : Bool) (e : RedRes) (c : Nat) : State :=
    countEv (sendReduce t g r c (treeLevels b.nrep) e.chunk 1 det step tiles e.data) (pgLra g) 2 1
  match x.prev.bind (fun p => (owedResult p.2.2.2).map (fun q => (p, q))) with
  | some ((step, n, det, l), (e, c)) =>
    send (s.setSeat g r { x with prev := some (step, n, det, sentResult l e.chunk c) }) step n det e c
  | none => match x.step, owedResult x.ress with
    | some step, some (e, c) =>
      send (s.setSeat g r { x with ress := sentResult x.ress e.chunk c }) step (x.tiles.getD 0) x.det e c
    | _, _ => s

/-- A result chunk as OUT0 holds it. -/
def resultBytes (b : Binding) (fmt : Nat) (data : List Byte) : List Byte :=
  if fmt = 1 then (wireWords data).flatMap (fun w => leBytes 4 (widen b.wire w)) else data

/-- Write one result chunk to OUT0; the fourth of a tile completes the tile, with the shape of IN0's (R424, R426). -/
def writeResult (s : State) (g r : Nat) : State :=
  let x := s.seat g r
  match x.ress.find? (fun e => !e.written && (seatItem s g r (e.chunk / 4)).isSome) with
  | none => s
  | some e => match seatItem s g r (e.chunk / 4) with
    | none => s
    | some (n, it) => match (s.job it.job).bind (fun j => (j.stn it.sid).map (fun st => (j, st.df))) with
      | none => s
      | some (j, d) => match ioCnd j d.ins, ioCnd j d.outs with
        | some (ic, a), some (oc, o) =>
          let ord := e.chunk / 4
          let rq := itemRq s n it
          let bs := resultBytes (binding s g r) o.df.fmt e.data
          (match rqRead s rq (j.tagVa ic a (a.ordinal j.s0 it.step 0 0 + ord)) 32 with
           | (none, s1) => s1
           | (some (tag, _), s1) =>
             let (ok, s2) := rqWrites s1 rq [(j.slotVa oc o (o.ordinal j.s0 it.step 0 0 + ord) + e.chunk % 4 * bs.length, bs)]
             if !ok then s2
             else
               let mark (y : RedRes) : RedRes := { y with written := true }
               let y := s2.seat g r
               let ress := updFirst (fun z => z.chunk == e.chunk) mark y.ress
               let s3 := s2.setSeat g r { y with ress := ress }
               let whole := (List.range 4).all (fun i => ress.any (fun z => z.chunk == 4 * ord + i && z.written))
               let t := tagOf tag
               let tile : OutTile := ⟨0, ord, t.rows, t.cols, t.zpad⟩
               if whole then s3.setItem n (some { it with wrote := it.wrote ++ [tile] }) else s3)
        | _, _ => s

/-- The page serves its seats: it is in force, enabled, and RUNNING or DRAINING (R436). -/
def lraServes (s : State) (g : Nat) : Bool :=
  lraInForce s g && s.en (pgLra g) && decide (s.dst (pgLra g) ≤ 1)

/-- LRA_SEAT_ACTION: one action of a channel: 0 read a local chunk, 1 combine an input, 2 send a node up, 3 send a
result down, 4 write a result chunk. -/
def execLraSeatAction (g r act : Nat) (s : State) : Out :=
  whenLive s <|
    if !(lraServes s g && decide (r < 16) && (binding s g r).v) then s
    else if act = 0 then readLocal s g r
    else if act = 1 then combineOne s g r
    else if act = 2 then sendNode s g r
    else if act = 3 then sendResult s g r
    else if act = 4 then writeResult s g r
    else s

/-! ### Bindings (R433, R434) -/

/-- A binding with V = 1 may be set. -/
def bindOk (s : State) (g r : Nat) (b : Binding) : Bool :=
  let other := (List.range 20).any (fun h => h != g && lraInForce s h && (binding s h r).v)
  !other && decide (1 ≤ b.flog ∧ 1 ≤ b.nrep ∧ b.nrep ≤ 262144 ∧ b.myrep + 2 ^ b.span ≤ max b.nrep (2 ^ b.span)
    ∧ b.myrep % 2 ^ b.span = 0) && b.levels.contains b.span

/-- The group table lies in populated near memory. -/
def tabOk (s : State) (base nrep : Nat) : Bool :=
  nrep == 0 || (isNear s base && isNear s (base + 8 * nrep - 1))

/-- A write of LRA_BIND[r], or of LRA_GTAB[r]. -/
def lraBindWrite (s : State) (g r : Nat) (tab : Bool) (v : W64) : State :=
  let page := pgLra g
  if !lraInForce s g then s
  else if (s.seat g r).busy then reject s page
  else if tab then
    (if tabOk s (fld 51 12 v * 4096) (binding s g r).nrep then
      s.setReg (regAddr page (0x208 + 16 * r)) (v &&& 0xFFFFFFFFFF000) else reject s page)
  else
    let b := bindingOf v
    if (b.v && !bindOk s g r b) || !tabOk s (gtabBase s g r) b.nrep then reject s page
    else
      let s1 := s.setReg (regAddr page (0x200 + 16 * r)) (v &&& 0xFFFFFFFFFFFCFFFF)
      (setLraStep s1 g r noStep).setSeat g r Seat.reset

/-- LRA_BIND_WRITE. -/
def execLraBindWrite (g r : Nat) (tab : Bool) (v : W64) (s : State) : Out :=
  whenLive s (if s.fuses.variant.bonded g ∧ r < 16 then lraBindWrite s g r tab v else s)

end Sys2Proof.Machine
end

