-- ==== Sys2Proof/Machine/Fabric.lean ====
section
/-! DEFINITION. The router and the flows of the Holarn fabric: routing, slices of harness engines, arriving packets,
acknowledgement, retransmission, failure (spec/14_holarn_fabric.md R383 to R403, R413, R416;
spec/17_faults_and_replay.md R471, R472). -/

namespace Sys2Proof.Machine

/-! ### The router (R390 to R392) -/

/-- Index of the route entry of a node. -/
def routeIdx (s : State) (d : Nat) : Nat := if d / 32 = myNode s / 32 then d % 32 else 32 + d / 32

/-- A route entry of an X-die. -/
def routeAt (s : State) (x i : Nat) : W64 := SMap.get (fun _ => 0) s.fab.routes (x * 8224 + i)

/-- A port can carry the packet (R380, R410). -/
def carries (s : State) (g : Nat) (p : Packet) : Bool :=
  isRouterPort s g && portUp s g && (!isolated s g || decide (p.vc = 4)) && portRoom s g
    && (decide (roleOf s g = 2 ∨ s.regF (pgHlp g) 0x110 6 4 = 3) || !decide (p.type = 0xA ∨ p.echk = 1 ∨ p.echk = 2))

/-- The candidate with the most free credits; a tie goes to the lower port. -/
def bestPort (s : State) (p : Packet) (cand : Nat) (credits : List Nat) : Option Nat :=
  ((maskBits 20 cand).filter (fun g => carries s g p && !isolated s g && decide (credits.getD g 0 ≠ 0))).foldl (fun best g =>
    match best with
    | none => some g
    | some h => if credits.getD h 0 < credits.getD g 0 then some g else some h) none

/-- Take packet i of the queues. -/
def dropAt {α : Type} (l : List α) (i : Nat) : List α := l.take i ++ l.drop (i + 1)
def takeRq (s : State) (i : Nat) : State := { s with fab := { s.fab with rq := dropAt s.fab.rq i } }

/-- The packet waits without a route. -/
def noRoute (s : State) (x : Nat) : State := raise s (pgRtr x) 10

/-- Packet i moves to its escape channel, and waits there for a credit. -/
def toEscape (s : State) (i x : Nat) (q : Packet) : State :=
  countEv { s with fab := { s.fab with rq := s.fab.rq.set i (x, q) } } (pgRtr x) 2 1

/-- Forward packet i, which waits at an X-die, with the free credits of each port on its channel. -/
def forward (s : State) (i x : Nat) (p : Packet) (credits : List Nat) : State :=
  let hop (t : State) (g : Nat) (q : Packet) : State := sendOnPort (countEv (takeRq t i) (pgRtr x) 1 1) g { q with hops := q.hops + 1 }
  let inj := armedAt s (pgRtr x) 9
  if p.hops = 31 ∨ inj then raiseWith (takeRq (disarm s (pgRtr x) 9) i) (pgRtr x) 9 ⟨none, 0, none, inj⟩
  else if p.gaddr / 2 ^ 46 = myNode s then
    let s1 := takeRq s i
    { s1 with fab := { s1.fab with arrived := s1.fab.arrived ++ [p] } }
  else
    let e := routeAt s x (routeIdx s (p.gaddr / 2 ^ 46))
    let adaptive := decide (p.vc = 0 ∨ p.vc = 2)
    match if adaptive then bestPort s p (fld 19 0 e) credits else none with
    | some g => if bit 63 e then hop s g p else noRoute s x
    | none =>
      let esc := fld 28 24 e
      let q := if adaptive then { p with vc := p.vc + 1 } else p
      if !bit 63 e || !carries s esc q then noRoute s x
      else if credits.getD esc 0 = 0 then (if adaptive then toEscape s i x q else s)
      else hop (if adaptive then countEv s (pgRtr x) 2 1 else s) esc q

/-- PACKET_FORWARD. -/
def execPacketForward (k : Nat) (credits : List Nat) (s : State) : Out :=
  whenLive s (match s.fab.rq[k]? with
    | none => s
    | some (x, p) => forward s k x p credits)

/-- A write of RTR_RTDATA. -/
def rtdataWrite (s : State) (x : Nat) (v : W64) : State :=
  let i := s.regF (pgRtr x) 0x128 13 0
  if bit 63 v && decide (19 < fld 28 24 v) then reject s (pgRtr x)
  else { s with fab := { s.fab with routes := SMap.put (fun _ => 0) s.fab.routes (x * 8224 + i) (v &&& 0x800000001F0FFFFF) } }

/-- RTR_RTDATA_WRITE. -/
def execRtrRtdataWrite (x : Nat) (v : W64) (s : State) : Out := whenLive s (if x < 2 then rtdataWrite s x v else s)

/-! ### Engines (R399, R471, R472) -/

/-- A harness engine is in service; some engine of an X-die is. -/
def harAlive (s : State) (x e : Nat) : Bool := decide (e < 16) && !s.fab.harDead.contains (x * 64 + e)
def harAny (s : State) (x : Nat) : Bool := (List.range 16).any (harAlive s x)

/-- The X-die whose engines serve a flow. -/
def serveDie (s : State) (hx : Nat) : Nat := if harAny s hx then hx else 1 - hx

/-- An engine takes slices: in service, enabled and RUNNING. -/
def harRuns (s : State) (x e : Nat) : Bool := harAlive s x e && s.accepts (pgHar x e)

/-- Some engine can serve the flow. -/
def canServe (s : State) (f : FlowSt) : Bool := (List.range 16).any (harRuns s (serveDie s f.hx))

/-- The flow is the most recently served of its X-die's cache (R398). -/
def touchFlow (s : State) (x n : Nat) : State :=
  let put (l : List Nat) : List Nat := (n :: l.filter (· != n)).take 16384
  if x = 0 then { s with fab := { s.fab with fcache0 := put s.fab.fcache0 } }
  else { s with fab := { s.fab with fcache1 := put s.fab.fcache1 } }

/-- An engine's slice of a flow begins: it is counted, and a miss of the flow cache. -/
def beginSlice (s : State) (x e n : Nat) : State :=
  let miss := !(if x = 0 then s.fab.fcache0 else s.fab.fcache1).contains n
  countEv (if miss then countEv (touchFlow s x n) (pgHar x e) 3 1 else touchFlow s x n) (pgHar x e) 1 1

/-- A received packet of a flow is taken in by the first engine that runs (log entry 41). -/
def beginIntake (s : State) (f : FlowSt) (n : Nat) : State :=
  let x := serveDie s f.hx
  match (List.range 16).find? (harRuns s x) with
  | some e => beginSlice s x e n
  | none => s

/-! ### Failure of a flow (R400, R403, R405, R459) -/

/-- Started FPUT, FGET, FOPEN and FCLOSE descriptors of a flow. -/
def flowCmds (s : State) (n : Nat) : List (Nat × Desc) :=
  s.queues.flatMap (fun (q, c) => (c.inflight.filter (fun d =>
    d.stage == .started && decide (0x40 ≤ d.opc ∧ d.opc ≤ 0x43) && decide (d.op 24 4 = n))).map (fun d => (q, d)))

/-- An item ends in error with FLOWERR. -/
def flowErrItem (s : State) (n : Nat) : State :=
  match s.item n with
  | none => s
  | some it => s.setItem n (some { it with err := some (it.err.getD (stFlowErr, 0, 0)), log := [] })

/-- What waits for a packet of a failed flow ends: items with FLOWERR, a hart with an access fault. -/
def srcFailed (s : State) (src : PktSrc) : State :=
  match src with
  | .commitAtom n | .tile n => flowErrItem s n
  | .load u req =>
    ((s.cu u).loads.filter (fun l => l.todo.any (fun p => match p.2 with | .remote r _ _ => r == req | _ => false))).foldl (fun t l =>
      match t.grp u l.group with
      | some g => flowErrItem t g.item
      | none => t) s
  | .fetch rid ga =>
    if rid % 4 = 0 then flowErrItem s (rid / 4)
    else if rid % 4 = 1 then finishDesc s (rid / 4 / 2 ^ 32) (rid / 4 % 2 ^ 32) stFlowErr 0
    else { s with fab := { s.fab with asked := s.fab.asked.filter (fun p => p != (rid, ga)) } }
  | .hart h => s.setHart h { s.hart h with apStores := 0 }
  | _ => s

/-- Tile items of the flow. -/
def flowItems (s : State) (n : Nat) : List Nat :=
  (s.liveItems.filter (fun (_, it) => decide (it.kind = 0x11 ∨ it.kind = 0x12)
    && (match (s.job it.job).bind (fun j => j.stn it.sid) with
      | some st => decide (par st.df 0 4 = n)
      | none => false))).map Prod.fst

/-- Seats that exchange packets over a flow (spec/15_fabric_reduction.md R432). -/
def flowSeats (s : State) (n : Nat) : List (Nat × Nat) :=
  (List.range 20).flatMap (fun g => (List.range 16).filterMap (fun r =>
    let b := binding s g r
    if lraInForce s g && b.v && (s.seat g r).busy
        && (b.children.map Prod.snd ++ b.parent.toList).any (fun rep => (tableEntry s g r rep).2.2.1 == n) then some (g, r) else none))

/-- A flow becomes FAILED. -/
def failFlow (s : State) (n cause : Nat) : State :=
  match s.flow n with
  | none => s
  | some f =>
    let owed := f.outq.map (fun p => p.src) ++ (f.sent.filter (fun p => !p.answered)).map (fun p => p.src)
    let s1 := s.setFlow n { f with st := 4, fcause := cause, outq := [], sent := [], resend := none, early := [],
                                   ctl := [], resps := [], nack := none, ackDue := false, rx := none, cmd := none }
    let s2 := if cause = 2 then s1 else raiseInfo s1 (pgRtr f.hx) 11 n
    let s3 := owed.foldl srcFailed ((flowItems s2 n).foldl flowErrItem s2)
    let s4 := (flowSeats s3 n).foldl (fun t (g, r) => failSeat t g r stFlowErr) s3
    let s5 := (flowCmds s4 n).foldl (fun t (q, d) => finishDesc t q d.idx stFlowErr 0) s4
    let s6 := match s5.pair with
      | some p => if p.flow = n then endPair s5 5 stFlowErr 0 else s5
      | none => s5
    wakeAcks s6

/-- Every OPEN flow fails when no engine is left (R472). -/
def failAll (s : State) : State :=
  (s.fab.flows.filterMap (fun p => p.2.map (fun f => (p.1, f)))).foldl (fun t (n, f) =>
    if f.st = 2 then failFlow t n 5 else t) s

/-- A harness engine fails in a slice of a flow: the flow's home asks for what was lost, and sends again. -/
def harFail (s : State) (x e n : Nat) (inj : Bool) : State :=
  let keep := inj && noRetire s
  let s1 := raiseWith s (pgHar x e) 8 ⟨if keep then some 7 else none, n, none, inj⟩
  let s2 := if keep then s1 else { s1 with fab := { s1.fab with harDead := s1.fab.harDead ++ [x * 64 + e] } }
  if !harAny s2 0 && !harAny s2 1 then failAll s2
  else match s2.flow n with
    | none => s2
    | some f => s2.setFlow n { f with nack := some (3, f.exp), resend := if f.sent.isEmpty then none else some f.una }

/-- HAR_SLICE_TIMEOUT: a slice of a flow runs too long. -/
def execHarSliceTimeout (x e n : Nat) (s : State) : Out :=
  whenLive s (if x < 2 ∧ harRuns s x e ∧ (s.flow n).isSome then harFail s x e n false else s)

/-! ### Commands that wait for packets -/

/-- Packets of a source are still to be sent or answered. -/
def srcOut (s : State) (q : PktSrc → Bool) : Bool :=
  s.fab.flows.any (fun (_, f) => match f with
    | some x => x.outq.any (fun p => q p.src) || x.sent.any (fun p => q p.src && !p.answered)
    | none => false)

/-- The packets of an FPUT or FGET. -/
def isCmd (q idx : Nat) (p : PktSrc) : Bool := match p with | .cmd a b _ => a == q && b == idx | _ => false

/-- An FPUT or FGET whose packets have all been answered completes (R404). -/
def cmdCheck (s : State) (q idx : Nat) : State :=
  match descAt s q idx with
  | none => s
  | some d =>
    if d.stage = .started ∧ (d.opc = 0x42 ∨ d.opc = 0x43) ∧ !srcOut s (isCmd q idx) then finishDesc s q idx stOk (d.op 48 8)
    else s

/-- The writes that an FFENCE waits for: those of descriptors of its queue accepted before it, and of items of a job
that have committed (R407). -/
def fenceOwed (s : State) (q : Nat) (d : Desc) : Bool :=
  let before (idx : Nat) : Bool := (s.queue q).inflight.any (fun e => e.idx == idx && decide (e.ord < d.ord))
  let jobv := nbit 0 (d.op 25 1)
  let job := d.op 24 1 % 64
  s.fab.flows.any (fun (_, f) => match f with
    | none => false
    | some x => unackedOn x (fun p => match p with
      | .cmd a b _ => a == q && before b
      | .rq r => r % 4 == 1 && r / 4 / 2 ^ 32 == q && before (r / 4 % 2 ^ 32)
      | .group j n _ => jobv && j == job && (s.item n).isNone
      | _ => false))

/-- Started FFENCEs whose writes are acknowledged complete. -/
def fenceChecks (s : State) : State :=
  (s.queues.flatMap (fun (q, c) => (c.inflight.filter (fun d => d.stage == .started && decide (d.opc = 0x44))).map (fun d => (q, d)))).foldl
    (fun t (q, d) => if fenceOwed t q d then t else finishDesc t q d.idx stOk 0) s

/-! ### Acknowledgement (R400) -/

/-- a is earlier than b. -/
def psnBefore (a b : Nat) : Bool := decide (1 ≤ idxSub b a ∧ idxSub b a < 2 ^ 31)

/-- Answered packets at the front leave the send records; UNAPSN follows. -/
def trimSent : List SentPkt → List SentPkt
  | [] => []
  | p :: ps => if p.answered then trimSent ps else p :: ps
def FlowSt.trim (f : FlowSt) : FlowSt :=
  let l := trimSent f.sent
  let una := (l.head?.map (fun p => p.pkt.psn)).getD f.nxt
  { f with sent := l, una := una, retries := if una = f.una then f.retries else 0,
           resend := match f.resend with
             | some r => if l.isEmpty then none else if psnBefore r una then some una else some r
             | none => none }

/-- What an acknowledged packet releases. -/
def srcAcked (s : State) (p : SentPkt) : State :=
  match p.src with
  | .cmd q idx _ => cmdCheck s q idx
  | .hart h => if p.pkt.type = 1 then s.setHart h { s.hart h with apStores := (s.hart h).apStores - 1 } else s
  | _ => s

/-- Packets of a flow are answered. -/
def answer (s : State) (n : Nat) (hit : SentPkt → Bool) : State :=
  match s.flow n with
  | none => s
  | some f =>
    let due := f.sent.filter (fun p => hit p && !p.answered)
    if due.isEmpty then s
    else
      let mark (p : SentPkt) : SentPkt := if hit p then { p with answered := true } else p
      let s1 := s.setFlow n ({ f with sent := f.sent.map mark }).trim
      fenceChecks (wakeAcks (due.foldl srcAcked s1))

/-- A cumulative acknowledgement: every earlier PSN, but a READ or ATOMIC, which its response acknowledges. -/
def applyAck (s : State) (n a : Nat) : State :=
  match s.flow n with
  | none => s
  | some f =>
    if a = f.nxt ∨ psnBefore a f.nxt then
      answer s n (fun p => psnBefore p.pkt.psn a && decide (p.pkt.type ≠ 2 ∧ p.pkt.type ≠ 3))
    else s

/-! ### Sending (R399 to R402) -/

/-- A packet may not be sent while its requester waits in the sump. -/
def srcHeld (s : State) (src : PktSrc) : Bool :=
  match src with
  | .commitAtom n => itemWaits s n
  | .load u req => (s.cu u).loads.any (fun l => l.todo.any (fun p => match p.2 with | .remote r _ _ => r == req | _ => false)
      && (match s.grp u l.group with
        | some g => inSump s (groupWaiter u g.item l.group)
        | none => false))
  | .cmd q idx _ => inSump s ⟨5, 2, q, idx⟩
  | _ => false

/-- Bytes in the send-record ring of an X-die, and its size. -/
def ringUse (s : State) (x : Nat) : Nat :=
  (s.fab.flows.map (fun p => match p.2 with
    | some f => if f.hx = x then (f.sent.map (fun k => 40 + k.pkt.payload.length)).foldl (· + ·) 0 else 0
    | none => 0)).foldl (· + ·) 0
def ringSize (s : State) (x : Nat) : Nat := s.regF (pgRtr x) 0x120 10 0 * 2 ^ 20

/-- A packet enters the router at the flow's X-die; one for the module itself is delivered inside it (R383); lock-step
traffic leaves on its group only (spec/16_determinism.md R453). -/
def inject (s : State) (f : FlowSt) (src : PktSrc) (p : Packet) : State :=
  if p.gaddr / 2 ^ 46 = myNode s then { s with fab := { s.fab with arrived := s.fab.arrived ++ [p] } }
  else if src = .lockstep then
    match s.pair with
    | some q => if carries s q.group p then sendOnPort s q.group p else s
    | none => s
  else { s with fab := { s.fab with rq := s.fab.rq ++ [(f.hx, p)] } }

/-- Complete a packet of a flow: check and header. -/
def sealed (s : State) (f : FlowSt) (type subop gaddr psn tagid len : Nat) (payload : List Byte) : Packet :=
  let vc := if type ≤ 3 ∨ type = 9 then 0 else if type = 4 ∨ type = 5 ∨ type = 8 then 2 else if type = 0xA then 5 else 4
  let p : Packet := ⟨type, 3, 0, vc, f.echk, len, gaddr, subop, myNode s, f.rflow, psn, match f.rx with | some t => t.first | none => f.exp,
    tagid, payload, []⟩
  { p with check := p.checkBytes }

/-- A control packet or response of a flow. -/
def control (s : State) (f : FlowSt) (type subop psn tagid : Nat) (payload : List Byte) : Packet :=
  sealed s f type subop (f.rnode * 2 ^ 46) psn tagid payload.length payload

/-- Number, record and send a packet. -/
def sendNew (s : State) (n : Nat) (f : FlowSt) (o : OutPkt) : State :=
  let p := sealed s f o.type o.subop o.gaddr f.nxt (if o.type = 2 ∨ o.type = 3 then f.nxt % 2 ^ 16 else 0) o.len o.payload
  let rec1 : SentPkt := ⟨p, o.src, false⟩
  let s1 := s.setFlow n { f with nxt := (f.nxt + 1) % 2 ^ 32, txb := (f.txb + o.payload.length) % 2 ^ 64,
                                 sent := f.sent ++ [rec1], outq := dropFirst (fun x => x == o) f.outq }
  inject s1 f o.src p

/-- The first packet that may be sent now. -/
def sendable (s : State) (f : FlowSt) : Option OutPkt :=
  if (f.st = 2 ∨ f.st = 3) ∧ idxSub f.nxt f.una < f.swin then
    match f.outq.find? (fun o => !srcHeld s o.src) with
    | some o =>
      let lock := match s.pair with
        | some p => o.src != .lockstep || portUp s p.group
        | none => o.src != .lockstep
      if lock && decide (ringUse s f.hx + 40 + o.payload.length ≤ ringSize s f.hx) then some o else none
    | none => none
  else none

/-- The next sent packet to send again: a refused tile waits for a new mark (R416). -/
def resendable (f : FlowSt) : Option SentPkt :=
  match f.resend with
  | none => none
  | some r => match f.sent.find? (fun p => p.pkt.psn = r ∨ psnBefore r p.pkt.psn) with
    | some p => if p.pkt.type = 9 ∧ f.credit.isNone then none else some p
    | none => none

/-- Tiles of FSEND items on a flow enter its queue, one at a time, under the credit mark (R403). -/
def feedTiles (s : State) (n : Nat) : State :=
  match s.flow n with
  | none => s
  | some f =>
    if f.outq.any (fun o => match o.src with | .tile _ => true | _ => false) || f.st != 2 then s
    else
      let next := s.liveItems.findSome? (fun (k, it) =>
        match (s.job it.job).bind (fun j => (j.stn it.sid).map (fun st => (j, st.df))) with
        | none => none
        | some (j, d) =>
          if it.kind = 0x11 ∧ par d 0 4 = n ∧ it.err = none ∧ !itemWaits s k then
            (it.ords.find? (fun o => !it.computed.contains o && (match f.credit with
              | some c => decide (tileMark it.step o ≤ c)
              | none => false))).map (fun o => (k, it, j, d, o))
          else none)
      match next with
      | none => s
      | some (k, it, j, d, o) =>
        let rq := itemRq s k it
        if !it.tagsOk then
          match checkTags s rq j d it with
          | (none, s1) => s1
          | (some e, s1) => s1.setItem k (some { it with tagsOk := e.isNone, err := e.map (fun x => (x, 0, 0)) })
        else match ioCnd j d.ins with
          | none => s
          | some (cid, c) =>
            let ord := c.ordinal j.s0 it.step 0 0 + o
            match rqReads rq [(j.tagVa cid c ord, 32), (j.slotVa cid c ord, slotBytes c.df.fmt)] s with
            | (none, s1) => s1
            | (some (l, poison), s1) =>
              if poison then s1.setItem k (some { it with err := some (stMemErr, 0, 0) })
              else
                let rcid := par d 4 2
                let tag := l.headD []
                let sent := tag.take 20 ++ leBytes 2 rcid ++ tag.drop 22
                let parts := cutPackets 8 0 (sent ++ l.getD 1 [])
                let s2 := dropFetched (s1.setItem k (some { it with computed := it.computed ++ [o] })) (ridItem k)
                parts.foldl (fun t (pos, bs) =>
                  enqueue t n ⟨9, 0, f.rnode * 2 ^ 46 + pos * 2 ^ 16 + rcid, bs.length, bs, .tile k⟩) s2

/-- The acknowledgement that a slice sends if one is due. -/
def sendAck (s : State) (n : Nat) : State :=
  match s.flow n with
  | none => s
  | some f =>
    if f.ackDue then inject (s.setFlow n { f with ackDue := false }) f .post (control s f 6 0 0 0 []) else s

/-- A closing flow with nothing left sends CLOSE and is CLOSED; FCLOSE completes (R397). -/
def closeIfDone (s : State) (n : Nat) : State :=
  match s.flow n with
  | none => s
  | some f =>
    if f.st = 3 ∧ f.sent.isEmpty ∧ f.outq.isEmpty ∧ f.resps.isEmpty ∧ f.ctl.isEmpty then
      let s1 := inject s f .post (control s f 0xC 3 0 0 [])
      let s2 := s1.closeFlow n f.fcause
      match f.cmd with
      | some (q, idx) => finishDesc s2 q idx stOk 0
      | none => s2
    else s

/-- One packet of a slice: a control packet, a NACK, a response, a packet sent again, or a new one. -/
def sliceSend (page : Nat) (s : State) (n : Nat) : State :=
  match s.flow n with
  | none => s
  | some f =>
    match f.ctl, f.nack, f.resps with
    | (sub, v) :: rest, _, _ =>
      let body := if sub = 4 then leBytes 8 v else ownDigest s
      inject (s.setFlow n { f with ctl := rest }) f .post (control s f 0xC sub 0 0 body)
    | [], some (sub, psn), _ => inject (s.setFlow n { f with nack := none }) f .post (control s f 7 sub psn 0 [])
    | [], none, p :: rest => inject (s.setFlow n { f with resps := rest }) f .post p
    | [], none, [] =>
      match resendable f with
      | some p =>
        let next := (p.pkt.psn + 1) % 2 ^ 32
        inject (countEv (s.setFlow n { f with resend := if next = f.nxt then none else some next }) page 2 1) f p.src p.pkt
      | none => match sendable s f with
        | some o => sendNew s n f o
        | none => s

/-! ### Performing packets (R384, R403) -/

/-- A swap or a binary32 add: an ATOMIC whose result depends on the order of arrival (spec/16_determinism.md R441). -/
def timingAtomic (p : Packet) : Bool := decide (p.type = 3 ∧ (p.subop % 128 = 9 ∨ p.subop % 128 = 10))

/-- The error code of a request, 0 if it may be performed (R384); deterministic mode refuses the atomics whose result
depends on the order of arrival (spec/16_determinism.md R441). -/
def requestCode (s : State) (p : Packet) : Nat :=
  let a := p.gaddr % 2 ^ 46
  let wr := decide (p.type ≠ 2)
  let rd := decide (p.type ≠ 1)
  let sizeOk :=
    if p.type = 3 then
      let op := p.subop % 128
      let w := if nbit 7 p.subop then 8 else 4
      decide (1 ≤ op ∧ op ≤ 0xA ∧ (op ≠ 0xA ∨ !nbit 7 p.subop) ∧ p.len = w ∧ p.payload.length = w ∧ a % w = 0)
    else decide (1 ≤ p.len ∧ p.len ≤ 4096 ∧ p.subop = 0) && (decide (p.type = 2) || decide (p.payload.length = p.len))
  if !memRange s a (max p.len 1) then 2
  else if !exported s a p.len rd wr then 3
  else if !sizeOk || (timingAtomic p && detm s) then 4
  else 0

/-- The operation of an atomic's SUBOP. -/
def atomOf (op : Nat) : Nat := [0, 0, 1, 2, 8, 9, 3, 4, 5, 7, 6].getD op 0

/-- A response of a flow waits to be sent. -/
def flowRespond (s : State) (n : Nat) (p : Packet) : State :=
  match s.flow n with
  | none => s
  | some f => s.setFlow n { f with resps := f.resps ++ [p] }

/-- A WRITE, READ or ATOMIC is performed, or answered with an error. -/
def performReq (s : State) (n : Nat) (f : FlowSt) (p : Packet) : State :=
  let a := p.gaddr % 2 ^ 46
  let code := requestCode s p
  let err (t : State) (c : Nat) : State := flowRespond t n (control t f 8 c p.psn p.tagid [])
  if code ≠ 0 then err s code
  else if p.type = 1 then homeWrite s 3 a p.payload
  else
    let (bs, poison, s1) := homeRead s 3 a p.len
    if poison then err s1 5
    else if p.type = 2 then flowRespond s1 n (control s1 f 4 0 p.psn p.tagid bs)
    else
      let w := p.len
      let sc := if timingAtomic p then countTdc s1 35 1 else s1
      let (old, s2) := performAtomic (dropCopies sc a) 3 (atomOf (p.subop % 128)) w a (leNat p.payload)
      let r := control s2 f 5 0 p.psn p.tagid (leBytes w old)
      match s2.flow n with
      | none => s2
      | some g => s2.setFlow n { g with resps := g.resps ++ [r], atomResps := (r :: g.atomResps).take 4096 }

/-- What a packet in order comes to: performed, refused with a NACK (SUBOP, PSN), or held by a translation fault. -/
inductive Done where
  | performed (s : State)
  | refused (s : State) (sub psn : Nat)
  | held (s : State)

/-- The FRECV station of a flow whose output conduit has a number. -/
def recvStation (s : State) (n rcid : Nat) : Option (Nat × Job × Nat × Stn) :=
  s.jobs.findSome? (fun (jn, j) => j.bind (fun jb => (jb.stns.zipIdx).findSome? (fun (st, sid) =>
    if st.df.kind = 0x12 ∧ par st.df 0 4 = n ∧ st.df.outs.getD 0 none = some rcid then some (jn, jb, sid, st) else none)))

/-- A whole transfer is checked and written into its slot. -/
def tileWhole (s : State) (n : Nat) (f : FlowSt) (p : Packet) (rx : RxTile) (bytes : List Byte) : Done :=
  let tag := tagOf (bytes.take 32)
  let slot := bytes.drop 32
  let drop (t : State) : State := match t.flow n with
    | some g => t.setFlow n { g with rx := none }
    | none => t
  if tag.digest ≠ crc32c slot then .refused (drop (s.setFlow n { f with exp := rx.first, rx := none })) 3 rx.first
  else match recvStation s n rx.rcid with
    | none => .refused (drop s) 4 p.psn
    | some (jn, j, sid, st) => match ioCnd j st.df.outs with
      | none => .refused (drop s) 4 p.psn
      | some (cid, c) =>
        if tag.cid ≠ rx.rcid ∨ tag.fmt ≠ c.df.fmt ∨ c.df.trows ≤ tag.trow ∨ c.df.tcols ≤ tag.tcol
            ∨ slot.length ≠ slotBytes c.df.fmt then .refused (drop s) 4 p.psn
        else
          let ord := tag.trow * c.df.tcols + tag.tcol
          match s.liveItems.find? (fun (_, it) => it.job == jn && it.sid == sid && it.step == tag.step && it.ords.contains ord) with
          | none => .refused (drop (s.setFlow n { f with exp := rx.first, rx := none })) 2 rx.first
          | some (k, it) =>
            if it.wrote.any (fun w => w.ord == ord) then .performed (drop s)
            else
              let (ok, s1) := rqWrites s (itemRq s k it) [(j.slotVa cid c (c.ordinal j.s0 it.step 0 0 + ord), slot)]
              if !ok then .held s1
              else
                let t : OutTile := ⟨0, ord, tag.rows, tag.cols, tag.zpad⟩
                .performed (drop (s1.setItem k (some { it with wrote := it.wrote ++ [t] })))

/-- A TILE packet: refused while the receiving station is not RUNNING (R93, R416). -/
def performTile (s : State) (n : Nat) (f : FlowSt) (p : Packet) : Done :=
  let rcid := nfld 15 0 p.gaddr
  let pos := nfld 45 16 p.gaddr
  let rx0 : RxTile := match f.rx with
    | some r => if r.rcid = rcid then r else ⟨rcid, p.psn, []⟩
    | none => ⟨rcid, p.psn, []⟩
  match recvStation s n rcid with
  | none => .refused s 4 p.psn
  | some (_, j, _, st) =>
    if st.dst ≠ 0 ∨ !decide (j.jstate = 1 ∨ j.jstate = 2 ∨ j.jstate = 5) then .refused (s.setFlow n { f with exp := rx0.first, rx := none }) 2 rx0.first
    else
      let rx := { rx0 with parts := (rx0.parts.filter (fun q => q.1 != pos)) ++ [(pos, p.payload)] }
      let s1 := s.setFlow n { f with rx := some rx }
      let fmt := ((ioCnd j st.df.outs).map (fun c => c.2.df.fmt)).getD 0
      let all := (rx.parts.mergeSort (fun a b => decide (a.1 ≤ b.1))).flatMap Prod.snd
      if all.length < 32 + slotBytes fmt then .performed s1
      else tileWhole s1 n { f with rx := some rx } p rx all

/-- Perform a packet that is next in order. -/
def perform (s : State) (n : Nat) (f : FlowSt) (p : Packet) : Done :=
  if p.type ≤ 3 then .performed (performReq s n f p)
  else if p.type = 9 then performTile s n f p
  else
    let (ok, s1) := reduceIn s p
    if ok then .performed s1 else .refused s1 2 p.psn

/-- A packet in order is performed and EXPPSN passes it. A refused BADTILE packet is passed too, since none of its
tile is to come again. -/
def takeInOrder (s : State) (n : Nat) (p : Packet) : Bool × State :=
  match s.flow n with
  | none => (false, s)
  | some f =>
    let pass (t : State) : State := match t.flow n with
      | none => t
      | some g => t.setFlow n { g with exp := (p.psn + 1) % 2 ^ 32, ackDue := true, rxb := (g.rxb + p.payload.length) % 2 ^ 64 }
    match perform s n f p with
    | .performed t => (true, pass t)
    | .held t => (false, t)
    | .refused t sub psn =>
      let t1 := if sub = 4 then pass t else t
      (decide (sub = 4), match t1.flow n with
        | none => t1
        | some g => t1.setFlow n { g with nack := some (sub, psn) })

/-- Early packets that have become next in order are performed: fuel bounds them. -/
def drainEarly : Nat → State → Nat → State
  | 0, s, _ => s
  | k + 1, s, n =>
    match s.flow n with
    | none => s
    | some f => match f.early.find? (fun p => p.psn = f.exp) with
      | none => s
      | some p =>
        let (ok, s1) := takeInOrder s n p
        if !ok then s1
        else match s1.flow n with
          | none => s1
          | some g => drainEarly k (s1.setFlow n { g with early := g.early.filter (fun q => q.psn != p.psn) }) n

/-! ### Arrival (R384, R395, R400) -/

/-- The packet is taken from those that have arrived. -/
def takeArrived (s : State) (p : Packet) : State :=
  { s with fab := { s.fab with arrived := dropFirst (fun q => q == p) s.fab.arrived } }

/-- Set the NACK that a flow sends. -/
def setNack (s : State) (n sub psn : Nat) : State :=
  match s.flow n with
  | none => s
  | some f => s.setFlow n { f with nack := some (sub, psn) }

/-- The flow that a packet names, if it comes from the flow's peer. -/
def peerFlow (s : State) (p : Packet) : Option FlowSt :=
  (s.flow p.dflow).bind (fun f => if f.rnode = p.snode then some f else none)

/-- The check of a packet holds. -/
def checkOk (p : Packet) : Bool := decide (p.echk ≠ 3) && decide (p.check = p.checkBytes)

/-- A request for a flow that is not OPEN is answered NOFLOW; the answer names the entry's RFLOW. -/
def noFlow (s : State) (p : Packet) : State :=
  let r := fieldAt (s.bytes (flowAddr s p.dflow) 8) 4 4 % 2 ^ 20
  let q : Packet := ⟨8, 3, 0, 2, p.echk, 0, p.snode * 2 ^ 46, 1, myNode s, r, p.psn, 0, p.tagid, [], []⟩
  let q1 := { q with check := q.checkBytes }
  if p.snode = myNode s then { s with fab := { s.fab with arrived := s.fab.arrived ++ [q1] } }
  else { s with fab := { s.fab with rq := s.fab.rq ++ [(0, q1)] } }

/-- Bytes in the reorder store of an X-die. -/
def earlyBytes (s : State) (x : Nat) : Nat :=
  (s.fab.flows.map (fun p => match p.2 with
    | some f => if f.hx = x then (f.early.map (fun k => 40 + k.payload.length)).foldl (· + ·) 0 else 0
    | none => 0)).foldl (· + ·) 0

/-- A duplicate: acknowledged again; a READ is answered anew, an ATOMIC with its old answer. -/
def duplicate (s : State) (n : Nat) (f : FlowSt) (p : Packet) : State :=
  let s1 := s.setFlow n { f with ackDue := true }
  if p.type = 2 then performReq s1 n { f with ackDue := true } p
  else if p.type = 3 then
    match f.atomResps.find? (fun r => r.psn = p.psn) with
    | some r => flowRespond s1 n r
    | none => s1
  else s1

/-- A numbered packet arrives on an OPEN flow. -/
def sequenced (s : State) (n : Nat) (f : FlowSt) (p : Packet) : State :=
  let d := idxSub p.psn f.exp
  if d = 0 then
    let (ok, s1) := takeInOrder s n p
    let s2 := takeArrived s1 p
    match s2.flow n with
    | none => s2
    | some g =>
      if ok then drainEarly (g.early.length + 1) s2 n
      else if g.nack.isSome then s2 else s1
  else if 2 ^ 31 ≤ d then duplicate (takeArrived s p) n f p
  else if f.early.any (fun q => q.psn = p.psn) then takeArrived s p
  else if d ≤ f.rwin ∧ earlyBytes s f.hx + 40 + p.payload.length ≤ 2 ^ 24 then
    countEv ((takeArrived s p).setFlow n { f with early := f.early ++ [p] }) (pgRtr f.hx) 3 1
  else setNack (takeArrived s p) n 1 f.exp

/-- The rows of numbered packets: a packet of a TYPE is taken in. -/
def arrivalRow (type : Nat) (p : Packet) (s : State) : Out :=
  whenLive s <|
    if p.type ≠ type ∨ !s.fab.arrived.contains p then s
    else if myNode s = 0x3FFFF then takeArrived s p
    else if !checkOk p then
      match peerFlow s p with
      | some f => if f.st = 2 then setNack (takeArrived s p) p.dflow 3 f.exp else takeArrived s p
      | none => takeArrived s p
    else match peerFlow s p with
      | some f =>
        if f.st = 2 then
          (if canServe s f then
            let s1 := applyAck (beginIntake s f p.dflow) p.dflow p.ackpsn
            match s1.flow p.dflow with
            | some g => sequenced s1 p.dflow g p
            | none => s1
          else s)
        else if type ≤ 3 then noFlow (takeArrived s p) p else takeArrived s p
      | none => if type ≤ 3 then noFlow (takeArrived s p) p else takeArrived s p

/-- WRITE, READ, ATOMIC, TILE. -/
def execWrite (p : Packet) (s : State) : Out := arrivalRow 1 p s
def execRead (p : Packet) (s : State) : Out := arrivalRow 2 p s
def execAtomic (p : Packet) (s : State) : Out := arrivalRow 3 p s
def execTile (p : Packet) (s : State) : Out := arrivalRow 9 p s

/-- REDUCE_NODE_UP, REDUCE_RESULT_DOWN, REDUCE_PULL: a REDUCE packet of that sort. -/
def execReduceNodeUp (p : Packet) (s : State) : Out := if nbit 0 p.subop then .next s else arrivalRow 0xA p s
def execReduceResultDown (p : Packet) (s : State) : Out :=
  if nbit 0 p.subop && decide (p.len ≠ 16) then arrivalRow 0xA p s else .next s
def execReducePull (p : Packet) (s : State) : Out :=
  if nbit 0 p.subop && decide (p.len = 16) then arrivalRow 0xA p s else .next s

/-! ### Responses and control packets -/

/-- The rows of responses and control packets: consumed at once; a bad check is discarded. -/
def controlRow (type : Nat) (p : Packet) (body : State → FlowSt → State) (s : State) : Out :=
  whenLive s <|
    if p.type ≠ type ∨ !s.fab.arrived.contains p then s
    else if myNode s = 0x3FFFF then takeArrived s p
    else match peerFlow s p with
      | none => takeArrived s p
      | some f =>
        if !checkOk p then takeArrived s p
        else if !canServe s f then s
        else
          let s0 := beginIntake (takeArrived s p) f p.dflow
          let s1 := if type ≠ 0xC ∧ (f.st = 2 ∨ f.st = 3) then applyAck s0 p.dflow p.ackpsn else s0
          match s1.flow p.dflow with
          | some g => body s1 g
          | none => s1

/-- ACK. -/
def execAck (p : Packet) (s : State) : Out := controlRow 6 p (fun t _ => t) s

/-- The request of a response. -/
def requestOf (f : FlowSt) (p : Packet) (type : Nat) : Option SentPkt :=
  f.sent.find? (fun k => decide (k.pkt.type = type ∧ k.pkt.psn = p.psn ∧ k.pkt.tagid = p.tagid) && !k.answered)

/-- The packet with a PSN is answered. -/
def answered (s : State) (n psn : Nat) : State := answer s n (fun k => decide (k.pkt.psn = psn))

/-- The requester of an FGET's data: the flow's address space. -/
def flowRq (s : State) (q : Nat) (d : Desc) (f : FlowSt) : Rq := { descRq s q d with aspace := f.aspace, exts := [] }

/-- The words of a unit's loads that a remote read carries. -/
def loadWords (s : State) (u req : Nat) (bs : List Byte) : State :=
  deliverAll s u (fun x w => match x with
    | .remote r off _ => if r = req then some (fieldAt bs off w) else none
    | _ => none)

/-- READRESP: the data goes to its requester. -/
def execReadresp (p : Packet) (s : State) : Out :=
  controlRow 4 p (fun t f => match requestOf f p 2 with
    | none => t
    | some k =>
      if p.payload.length ≠ k.pkt.len then t
      else match k.src with
      | .load u req => answered (loadWords t u req p.payload) p.dflow p.psn
      | .fetch rid ga => answered { t with fab := { t.fab with fetched := t.fab.fetched ++ [(rid, ga, p.payload, false)] } } p.dflow p.psn
      | .hart _ => answered { t with outs := .readResult k.pkt.gaddr (BitVec.ofNat 64 (leNat p.payload)) :: t.outs } p.dflow p.psn
      | .cmd q idx a => (match descAt t q idx with
        | none => answered t p.dflow p.psn
        | some d =>
          let (ok, t1) := rqWrite t (flowRq t q d f) a p.payload
          if ok then answered t1 p.dflow p.psn
          else
            -- the local page faults: the read is made again once the fault is resolved
            let t2 := enqueue t1 p.dflow ⟨2, 0, k.pkt.gaddr, k.pkt.len, [], k.src⟩
            answered t2 p.dflow p.psn)
      | _ => answered t p.dflow p.psn) s

/-- ATOMRESP. -/
def execAtomresp (p : Packet) (s : State) : Out :=
  controlRow 5 p (fun t f => match requestOf f p 3 with
    | none => t
    | some k => match k.src with
      | .hart _ => answered { t with outs := .readResult k.pkt.gaddr (BitVec.ofNat 64 (leNat p.payload)) :: t.outs } p.dflow p.psn
      | _ => answered t p.dflow p.psn) s

/-- The sender starts again from a PSN. -/
def resendFrom (s : State) (n psn : Nat) : State :=
  match s.flow n with
  | none => s
  | some f => if f.sent.isEmpty then s else s.setFlow n { f with resend := some (if psnBefore psn f.una then f.una else psn) }

/-- NACK. -/
def execNack (p : Packet) (s : State) : Out :=
  controlRow 7 p (fun t f =>
    if f.st ≠ 2 ∧ f.st ≠ 3 then t
    else if p.subop = 4 then
      (match f.sent.find? (fun k => decide (k.pkt.psn = p.psn)) with
       | some k => match k.src with
         | .tile n => answered (flowErrItem t n) p.dflow p.psn
         | _ => t
       | none => t)
    else if p.subop = 2 then
      let tile := f.sent.any (fun k => decide (k.pkt.psn = p.psn ∧ k.pkt.type = 9))
      resendFrom (if tile then t.setFlow p.dflow { f with credit := none } else t) p.dflow p.psn
    else if p.subop = 1 ∨ p.subop = 3 then resendFrom t p.dflow p.psn
    else t) s

/-- A failed posted write is recorded (R385). -/
def remoteErr (s : State) (hx ga code : Nat) : State :=
  let page := pgRtr hx
  let s1 := s.setReg (regAddr page 0x138) (BitVec.ofNat 64 ga)
  let n := satAdd 0xFFFFFFFF (s1.regF page 0x140 63 32) 1
  raiseInfo (s1.setReg (regAddr page 0x140) (BitVec.ofNat 64 (n * 2 ^ 32 + code % 256))) page 8 ga

/-- A group's remote load is refused: it waits in the sump, and its read is made again on a retry. -/
def loadRefused (s : State) (n u req : Nat) (k : SentPkt) : State :=
  let hit (x : LoadAt) : Option Nat := match x with | .remote r _ va => if r = req then some va else none | _ => none
  let s1 := enqueue s n ⟨2, 0, k.pkt.gaddr, k.pkt.len, [], k.src⟩
  (s.cu u).loads.foldl (fun t l =>
    match l.todo.filterMap (fun p => hit p.2), t.grp u l.group with
    | va :: _, some g => (match t.item g.item with
      | some it =>
        let sp := itemSpace t it
        let (lv, pte) := leafInfo t (uDie u) sp va
        itemFault t g.item it sp va .fabric lv pte .rd (groupWaiter u g.item l.group)
      | none => t)
    | _, _ => t) s1

/-- An atomic of a commit log is refused: the item waits in the sump, and it is sent again on a retry. -/
def atomRefused (s : State) (n item : Nat) (k : SentPkt) : State :=
  let s1 := enqueue s n ⟨3, k.pkt.subop, k.pkt.gaddr, k.pkt.len, k.pkt.payload, k.src⟩
  match s1.item item with
  | none => s
  | some it =>
    let u := it.die * 576 + it.owner
    let sp := itemSpace s1 it
    let (ps, _, s2) := logPlaces u sp it.logOrder s1
    let va := (ps.findSome? (fun (e, w) => match w with | .win _ ga => if ga = k.pkt.gaddr then some e.va else none | _ => none)).getD 0
    let (lv, pte) := leafInfo s2 (uDie u) sp va
    itemFault s2 item it sp va .fabric lv pte .at (itemWaiter 0 (uDie u) (uSite u) item)

/-- An item ends with MEMERR: poison reached it (spec/17_faults_and_replay.md R475). -/
def poisonItem (s : State) (n : Nat) : State :=
  match s.item n with
  | none => s
  | some it => s.setItem n (some { it with err := some (it.err.getD (stMemErr, 0, 0)), log := [] })

/-- A read or atomic meets poison at its home. -/
def poisonSrc (s : State) (k : SentPkt) : State :=
  match k.src with
  | .load u req =>
    let s1 := (s.cu u).loads.foldl (fun t l =>
      match l.todo.any (fun p => match p.2 with | .remote r _ _ => r == req | _ => false), t.grp u l.group with
      | true, some g => poisonItem t g.item
      | _, _ => t) s
    loadWords s1 u req (List.replicate k.pkt.len 0)
  | .fetch rid ga => { s with fab := { s.fab with fetched := s.fab.fetched ++ [(rid, ga, List.replicate k.pkt.len 0, true)] } }
  | .commitAtom n => poisonItem s n
  | .hart _ => { s with outs := .refusedAccess k.pkt.gaddr :: s.outs }
  | _ => s

/-- An FPUT or FGET ends with REMOTE: what it has not sent is dropped (R385, R404). -/
def cmdRemote (s : State) (n q idx code ga : Nat) : State :=
  let s1 := match s.flow n with
    | some f => s.setFlow n { f with outq := f.outq.filter (fun o => !isCmd q idx o.src) }
    | none => s
  finishDesc s1 q idx 0x31 (code % 256 * 2 ^ 56 + ga % 2 ^ 46)

/-- ERRRESP. -/
def execErrresp (p : Packet) (s : State) : Out :=
  controlRow 8 p (fun t f => match f.sent.find? (fun k => decide (k.pkt.psn = p.psn ∧ k.pkt.type ≤ 3) && !k.answered) with
    | none => t
    | some k =>
      let t1 :=
        match k.src with
        | .cmd q idx _ => cmdRemote t p.dflow q idx p.subop k.pkt.gaddr
        | _ =>
          if k.pkt.type = 1 then remoteErr t f.hx k.pkt.gaddr p.subop
          else if p.subop = 5 then poisonSrc t k
          else match k.src with
            | .load u req => loadRefused t p.dflow u req k
            | .fetch rid ga => { t with fab := { t.fab with fetched := t.fab.fetched ++ [(rid, ga, [], false)] } }
            | .commitAtom i => atomRefused t p.dflow i k
            | .hart _ => { t with outs := .refusedAccess k.pkt.gaddr :: t.outs }
            | _ => t
      answered t1 p.dflow p.psn) s

/-! ### The handshake and credit (R397, R403, R410) -/

/-- The rows of FLOWCTL. -/
def flowctlRow (sub : Nat) (p : Packet) (body : State → FlowSt → State) (s : State) : Out :=
  if p.subop ≠ sub then .next s else controlRow 0xC p body s

/-- The handshake is complete: the flow is OPEN, and FOPEN completes. -/
def openIfDone (s : State) (n : Nat) : State :=
  match s.flow n with
  | none => s
  | some f =>
    if f.st = 1 ∧ f.ackSent ∧ f.ackGot then
      let s1 := s.setFlow n { f with st := 2, cmd := none }
      match f.cmd with
      | some (q, idx) => finishDesc s1 q idx stOk 0
      | none => s1
    else s

/-- The handshake fails: the entry is CLOSED with a cause, and FOPEN completes with a status. -/
def openFails (s : State) (n : Nat) (f : FlowSt) (cause status : Nat) : State :=
  let s1 := s.closeFlow n cause
  match f.cmd with
  | some (q, idx) => finishDesc s1 q idx status 0
  | none => s1

/-- RTR_CFG.STRICT, and the peer's digest differs. -/
def strictDiffers (s : State) (p : Packet) : Bool :=
  bit 0 (s.reg (regAddr (pgRtr 0) 0x108)) && decide (p.payload.take 48 ≠ ownDigest s)

/-- FLOWCTL_OPEN. -/
def execFlowctlOpen (p : Packet) (s : State) : Out :=
  flowctlRow 1 p (fun t f =>
    if f.st = 1 then
      (if strictDiffers t p then openFails t p.dflow f 3 0x33
       else openIfDone (t.setFlow p.dflow { f with ctl := f.ctl ++ [(2, 0)], ackSent := true }) p.dflow)
    else if f.st = 2 then t.setFlow p.dflow { f with ctl := f.ctl ++ [(2, 0)] }
    else t) s

/-- FLOWCTL_OPENACK. -/
def execFlowctlOpenack (p : Packet) (s : State) : Out :=
  flowctlRow 2 p (fun t f =>
    if f.st ≠ 1 then t
    else if strictDiffers t p then openFails t p.dflow f 3 0x33
    else openIfDone (t.setFlow p.dflow { f with ackGot := true }) p.dflow) s

/-- FLOWCTL_CLOSE. -/
def execFlowctlClose (p : Packet) (s : State) : Out :=
  flowctlRow 3 p (fun t f => if f.st = 2 then failFlow t p.dflow 2 else t) s

/-- FLOWCTL_CREDIT. -/
def execFlowctlCredit (p : Packet) (s : State) : Out :=
  flowctlRow 4 p (fun t f => if f.st = 2 then t.setFlow p.dflow { f with credit := some (fieldAt p.payload 0 8) } else t) s

/-! ### Slices and timers -/

/-- HAR_SLICE: an engine serves a flow: early packets that are next, one packet out, the acknowledgement that is due. -/
def execHarSlice (x e n : Nat) (s : State) : Out :=
  whenLive s (match s.flow n with
    | none => s
    | some f =>
      if !(decide (x < 2) && harRuns s x e && decide (serveDie s f.hx = x)) || decide (f.st = 4) then s
      else if armedAt s (pgHar x e) 8 then harFail (disarm s (pgHar x e) 8) x e n true
      else
        let s1 := drainEarly (f.early.length + 1) (beginSlice s x e n) n
        closeIfDone (sendAck (sliceSend (pgHar x e) (feedTiles s1 n) n) n) n)

/-- FLOW_RTO_EXPIRE: an opening flow sends its OPEN again. -/
def execFlowRtoExpire (n : Nat) (s : State) : Out :=
  whenLive s (match s.flow n with
    | none => s
    | some f =>
      if f.st = 1 then s.setFlow n { f with ctl := f.ctl ++ [(1, 0)] }
      else if (f.st = 2 ∨ f.st = 3) ∧ !f.sent.isEmpty then
        (if f.retrymax < f.retries + 1 then failFlow s n 1
         else s.setFlow n { f with retries := f.retries + 1, resend := some f.una })
      else s)

/-- FLOW_OPEN_TIMEOUT. -/
def execFlowOpenTimeout (n : Nat) (s : State) : Out :=
  whenLive s (match s.flow n with
    | none => s
    | some f => if f.st = 1 then openFails s n f 4 0x30 else s)

end Sys2Proof.Machine
end

