-- ==== Sys2Proof/Machine/FlowCmds.lean ====
section
/-! DEFINITION. The fabric commands and the host's fabric aperture (spec/14_holarn_fabric.md R388, R397, R404 to
R407). -/

namespace Sys2Proof.Machine

/-! ### FOPEN and FCLOSE (R396, R397, R405) -/

/-- The least ECHK of the redundancy level in force (spec/17_faults_and_replay.md R480). -/
def leastEchk (s : State) : Nat := [0, 0, 1, 2].getD (s.regF pgGlb 0x130 1 0) 0

/-- The software's bytes of a flow entry keep to R396. -/
def flowEntryOk (e : List Byte) : Bool :=
  let b1 := fieldAt e 1 1
  let swin := fieldAt e 12 2
  let rwin := fieldAt e 14 2
  let rto := fieldAt e 16 4
  decide (fieldAt e 0 1 / 8 = 0 ∧ b1 / 128 = 0 ∧ b1 / 16 % 4 ≠ 3 ∧ fieldAt e 2 1 / 16 = 0 ∧ fieldAt e 3 1 = 0
      ∧ fieldAt e 4 4 / 2 ^ 20 = 0 ∧ fieldAt e 8 4 / 2 ^ 18 = 0)
    && verOk .har (b1 % 4)
    && decide (1 ≤ swin ∧ swin ≤ 4096 ∧ 1 ≤ rwin ∧ rwin ≤ 256 ∧ 1000 ≤ rto ∧ rto ≤ 2 ^ 24 ∧ 1 ≤ fieldAt e 20 1)
    && ((e.drop 21).take 235).all (fun b => b == 0)

/-- The flow that an entry opens, waiting for its handshake. -/
def flowOpening (s : State) (e : List Byte) (q idx : Nat) : FlowSt :=
  let b1 := fieldAt e 1 1
  { st := 1, hx := b1 / 64 % 2, echk := max (b1 / 16 % 4) (leastEchk s), pri := b1 / 4 % 4, aspace := fieldAt e 2 1 % 16,
    rflow := fieldAt e 4 4, rnode := fieldAt e 8 4, swin := fieldAt e 12 2, rwin := fieldAt e 14 2, rto := fieldAt e 16 4,
    retrymax := fieldAt e 20 1, nxt := 0, una := 0, exp := 0, retries := 0, fcause := 0, credit := none, granted := none,
    txb := 0, rxb := 0, outq := [], sent := [], resend := none, early := [], ackDue := false, nack := none, ctl := [(1, 0)],
    resps := [], atomResps := [], rx := none, ackSent := false, ackGot := false, cmd := some (q, idx) }

/-- FOPEN's work. -/
def flowOpenCmd (q idx : Nat) (d : Desc) (s : State) : State :=
  let n := d.op 24 4
  if 2 ^ flowLog s ≤ n ∨ (s.flow n).isSome then finishDesc s q idx 0x32 0
  else
    let (e, poison, s1) := homeRead s 3 (flowAddr s n) 256
    if poison then finishDesc s1 q idx stMemErr 0
    else if fieldAt e 0 1 % 8 ≠ 0 then finishDesc s1 q idx 0x32 0
    else if ringSize s1 (fieldAt e 1 1 / 64 % 2) = 0 ∨ myNode s1 = 0x3FFFF then finishDesc s1 q idx stNoResource 0
    else if !flowEntryOk e then finishDesc s1 q idx stMalformed 0
    else startDesc (s1.setFlow n (flowOpening s1 e q idx)) q idx 0

/-- FOPEN. -/
def execFopen (q idx : Nat) (s : State) : Out := descRow q idx 0x40 (flowOpenCmd q idx) s

/-- FCLOSE's work. -/
def flowCloseCmd (q idx : Nat) (d : Desc) (s : State) : State :=
  let n := d.op 24 4
  match s.flow n with
  | none => finishDesc s q idx 0x32 0
  | some f =>
    if 2 ^ flowLog s ≤ n then finishDesc s q idx 0x32 0
    else if f.st = 4 then finishDesc (s.closeFlow n f.fcause) q idx stOk 0
    else if f.st = 2 then startDesc (s.setFlow n { f with st := 3, cmd := some (q, idx) }) q idx 0
    else finishDesc s q idx 0x32 0

/-- FCLOSE. -/
def execFclose (q idx : Nat) (s : State) : Out := descRow q idx 0x41 (flowCloseCmd q idx) s

/-! ### FPUT, FGET, FFENCE (R404, R407) -/

/-- A range cut into packets of at most 4 KiB: offset and length of each. -/
def packetCuts : Nat → Nat → Nat → List (Nat × Nat)
  | 0, _, _ => []
  | f + 1, o, n => if n = 0 then [] else (o, min 4096 n) :: packetCuts f (o + min 4096 n) (n - min 4096 n)

/-- FPUT's work: the local bytes become writes of the flow. -/
def fputCmd (q idx : Nat) (d : Desc) (s : State) : State :=
  let n := d.op 24 4
  let len := d.op 48 8
  match s.flow n with
  | none => finishDesc s q idx 0x32 0
  | some f =>
    if 2 ^ flowLog s ≤ n ∨ f.st ≠ 2 then finishDesc s q idx 0x32 0
    else match rqRead s (flowRq s q d f) (d.op 32 8) len with
      | (none, s1) => s1
      | (some (bs, poison), s1) =>
        if poison then finishDesc s1 q idx stMemErr 0
        else
          let s2 := startDesc s1 q idx 0
          (packetCuts (len / 4096 + 1) 0 len).foldl (fun t (o, k) =>
            enqueue t n ⟨1, 0, f.rnode * 2 ^ 46 + d.op 40 8 + o, k, (bs.drop o).take k, .cmd q idx (d.op 32 8 + o)⟩) s2

/-- FPUT. -/
def execFput (q idx : Nat) (s : State) : Out := descRow q idx 0x42 (fputCmd q idx) s

/-- FGET's work: the remote bytes are asked for. -/
def fgetCmd (q idx : Nat) (d : Desc) (s : State) : State :=
  let n := d.op 24 4
  let len := d.op 48 8
  match s.flow n with
  | none => finishDesc s q idx 0x32 0
  | some f =>
    if 2 ^ flowLog s ≤ n ∨ f.st ≠ 2 then finishDesc s q idx 0x32 0
    else
      let (ok, s1) := rqProbe (flowRq s q d f) [(d.op 32 8, len)] s
      if !ok then s1
      else
        let s2 := startDesc s1 q idx 0
        (packetCuts (len / 4096 + 1) 0 len).foldl (fun t (o, k) =>
          enqueue t n ⟨2, 0, f.rnode * 2 ^ 46 + d.op 40 8 + o, k, [], .cmd q idx (d.op 32 8 + o)⟩) s2

/-- FGET. -/
def execFget (q idx : Nat) (s : State) : Out := descRow q idx 0x43 (fgetCmd q idx) s

/-- FFENCE. -/
def execFfence (q idx : Nat) (s : State) : Out :=
  descRow q idx 0x44 (fun d t => if fenceOwed t q d then startDesc t q idx 0 else finishDesc t q idx stOk 0) s

/-! ### The host's aperture (R388, R389, R406) -/

/-- The load of the fence page: it returns 0 once every earlier aperture store of the hart is acknowledged; until then
it waits. -/
def execFabricFenceLoad (h : Nat) (s : State) : Out :=
  whenLive s (if h < 128 ∧ (s.hart h).apStores = 0 then { s with outs := .readResult 0x7E0020000000 0 :: s.outs } else s)

/-- The packet of an aperture access: an aligned access of 1, 2, 4 or 8 bytes, an AMO of 4 or 8. -/
def apertureOk (a : ApAcc) (addr size : Nat) : Bool :=
  decide (0x7E8000000000 ≤ addr ∧ addr < 0x7F0000000000 ∧ addr % size = 0)
    && (match a with
      | .amo op _ => decide ((size = 4 ∨ size = 8) ∧ 1 ≤ op ∧ op ≤ 9)
      | _ => decide (size = 1 ∨ size = 2 ∨ size = 4 ∨ size = 8))

/-- An access of a hart to the fabric aperture. -/
def apertureAccess (s : State) (h : Nat) (a : ApAcc) (addr size : Nat) : State :=
  let refused := { s with outs := .refusedAccess addr :: s.outs }
  let off := addr % 2 ^ 39
  if !apertureOk a addr size then refused
  else match windowTarget s (off / 2 ^ 29) (off % 2 ^ 29) size (match a with | .load => false | _ => true) with
    | none => refused
    | some (n, ga) =>
      match a with
      | .load => enqueue s n ⟨2, 0, ga, size, [], .hart h⟩
      | .store v =>
        enqueue (s.setHart h { s.hart h with apStores := (s.hart h).apStores + 1 }) n ⟨1, 0, ga, size, leBytes size v, .hart h⟩
      | .amo op v => enqueue s n ⟨3, (if size = 8 then 128 else 0) + op, ga, size, leBytes size v, .hart h⟩

/-- HOST_FABRIC_APERTURE_ACCESS. -/
def execHostFabricApertureAccess (h : Nat) (a : ApAcc) (addr size : Nat) (s : State) : Out :=
  whenLive s (if h < 128 then apertureAccess s h a addr size else s)

end Sys2Proof.Machine
end

