-- ==== Sys2Proof/Machine/Blocks.lean ====
section
/-! DEFINITION. Stopping a block's work: DRAIN, ABORT and RESUME of the work-carrying blocks
(spec/02_register_pages.md R60 to R64), with what each block's chapter adds (spec/04_compute_units.md R127;
spec/08_cu_memory.md R231; spec/09_memory_tiers.md R269, R270; spec/13_queues.md R365, R366;
spec/14_holarn_fabric.md R415; spec/15_fabric_reduction.md R436). -/

namespace Sys2Proof.Machine

/-! ### Work in flight -/

/-- Well commands that the well has accepted: started, and not completed. -/
def wellCmds (s : State) : List (Nat × Desc) :=
  s.queues.flatMap (fun (q, c) => (c.inflight.filter (fun d =>
    d.stage == .started && decide (0x10 ≤ d.opc ∧ d.opc ≤ 0x13))).map (fun d => (q, d)))

/-- Items of an engine of fixed function: kind and engine number. -/
def engineItems (s : State) (kind owner : Nat) : List (Nat × Item) :=
  s.liveItems.filter (fun p => p.2.kind == kind && p.2.owner == owner)

/-- DRAIN.PENDING of a page: the work items in flight of its block. -/
def workPending (s : State) (page : Nat) : Nat :=
  match blockAt page with
  | some (.cu, i) => (runningOn s (page / 8192 * 576 + i)).length
  | some (.cme, _) => (s.cme (page / 8192)).reqs.length
  | some (.que, q) => (s.queue q).inflight.length
  | some (.wel, _) => (wellCmds s).length
  | some (.wdl, k) => (engineItems s 0x10 ((page / 8192 - 3) * 2 + k)).length
  | some (.lra, g) => (engineItems s 0x13 g).length
  | _ => 0

/-- DSTATE becomes STOPPED; a compute unit's queued items are re-queued on others at that instant (R127). -/
def blockStopped (s : State) (page : Nat) : State :=
  let s1 := s.setDst page 2
  match blockAt page with
  | some (.cu, i) => dealQueued s1 (page / 8192 * 576 + i)
  | _ => s1

/-- A draining block with no work in flight is STOPPED (R61). -/
def drainDone (s : State) (page : Nat) : State :=
  if s.dst page = 1 ∧ workPending s page = 0 then blockStopped s page else s

/-! ### ABORT -/

/-- A request of a cache-maintenance engine ends with ABORTED. -/
def cmeAborted (d : Nat) (s : State) (r : CmeReq) : State :=
  match r.rec?, r.desc with
  | some (q, tag), _ => postRec s q { kind := 5, status := stAborted, detail := d, tag := tag }
  | none, some (q, idx) => descRequestDone (updDesc s q idx (fun x => { x with stage := .failing stAborted })) q idx 0
  | none, none => s

/-- Requests that a descriptor has on the cache-maintenance engines are stopped. -/
def dropCmeReqs (s : State) (q idx : Nat) : State :=
  (cdiesOf s).foldl (fun t d =>
    let c := t.cme d
    let other (r : CmeReq) : Bool := r.desc != some (q, idx)
    cmeFeed 8 (t.setCme d { c with reqs := c.reqs.filter other, backlog := c.backlog.filter other }) d) s

/-- What a well command has moved is dropped. -/
def dropMove (s : State) (q idx : Nat) : State :=
  { s with well := { s.well with moves := s.well.moves.filter (fun m => !(m.q == q && m.idx == idx)) } }

/-- An accepted descriptor ends as R366 states: the effect of a job command that has begun stands, with its own status;
a command whose work is done and whose flush runs keeps its status if its effect stands. -/
def abortDesc (q : Nat) (s : State) (d : Desc) : State :=
  let s1 := withdraw (dropCmeReqs s q d.idx) (fun w => decide (w.kind = 5 ∧ w.unit = q ∧ w.sub = d.idx))
  let stands := hasJob d.opc || decide (d.opc = 0x10 ∨ d.opc = 0x12)
  match d.stage with
  | .flushing v => recordDesc s1 q d (if stands then stOk else stAborted) (if stands then v else 0)
  | .started =>
    if 2 ≤ d.opc ∧ d.opc ≤ 5 then recordDesc s1 q d stOk 0
    else if d.opc = 0x60 then endRegen s1 (d.op 24 1 % 64) stAborted 0
    else if d.opc = 0x61 then endPair s1 0 stAborted 0
    else if 0x10 ≤ d.opc ∧ d.opc ≤ 0x13 then recordDesc (dropMove s1 q d.idx) q d stAborted 0
    else if d.opc = 0x40 then
      (match s1.flow (d.op 24 4) with
       | some f => if f.cmd = some (q, d.idx) then recordDesc (s1.closeFlow (d.op 24 4) 0) q d stAborted 0
                   else recordDesc s1 q d stAborted 0
       | none => recordDesc s1 q d stAborted 0)
    else if d.opc = 0x41 then
      (match s1.flow (d.op 24 4) with
       | some f => recordDesc (s1.setFlow (d.op 24 4) { f with cmd := if f.cmd = some (q, d.idx) then none else f.cmd }) q d stAborted 0
       | none => recordDesc s1 q d stAborted 0)
    else if d.opc = 0x42 ∨ d.opc = 0x43 then
      (match s1.flow (d.op 24 4) with
       | some f => recordDesc (s1.setFlow (d.op 24 4) { f with outq := f.outq.filter (fun o => !isCmd q d.idx o.src) }) q d stAborted 0
       | none => recordDesc s1 q d stAborted 0)
    else recordDesc s1 q d stAborted 0
  | _ => recordDesc s1 q d stAborted 0

/-- The descriptors of a queue end; NOP, INVAL and HINT complete normally, and the queue is STOPPED after them. -/
def abortQueue (s : State) (q : Nat) : State :=
  let l := (s.queue q).inflight.filter (fun d => !opensOnAbort d.opc)
  let s1 := l.foldl (abortDesc q) s
  if (s1.queue q).inflight.isEmpty then s1.setDst (pgQue q) 2 else s1

/-- STOPPED once nothing is in flight: an item whose remote atomics were sent runs to its commit (R184). -/
def stopIfIdle (s : State) (page : Nat) : State := if workPending s page = 0 then blockStopped s page else s

/-- The steps of R62 for one block. -/
def abortBlock (s : State) (page : Nat) : State :=
  match blockAt page with
  | some (.cu, i) =>
    let u := page / 8192 * 576 + i
    stopIfIdle (abortItems s (runningOn s u)) page
  | some (.cme, _) =>
    let d := page / 8192
    let l := (s.cme d).reqs
    blockStopped (l.foldl (cmeAborted d) (s.setCme d { s.cme d with reqs := [] })) page
  | some (.que, q) => abortQueue s q
  | some (.wel, _) =>
    blockStopped ((wellCmds s).foldl (fun t (q, d) => recordDesc (dropMove t q d.idx) q d stAborted 0) s) page
  | some (.wdl, k) => stopIfIdle (abortItems s (engineItems s 0x10 ((page / 8192 - 3) * 2 + k))) page
  | some (.lra, g) =>
    let s1 := (List.range 16).foldl (fun t r => match (t.seat g r).owner with
      | some (jn, sid) => clearStationSeat t jn sid
      | none => t) s
    stopIfIdle (abortItems s1 (engineItems s1 0x13 g)) page
  | _ => blockStopped s page

/-! ### DRAIN.CMD (R60) -/

/-- The queue forgets why it stopped fetching (spec/13_queues.md R351); a cache-maintenance engine takes requests that
waited. -/
def blockResumed (s : State) (page : Nat) : State :=
  let s1 := s.setDst page 0
  match blockAt page with
  | some (.que, q) => s1.setQueue q { s1.queue q with stale := false, haltMem := false, rereads := 0 }
  | some (.cme, _) => cmeFeed 8 s1 (page / 8192)
  | _ => s1

/-- A write of DRAIN.CMD: 1 DRAIN, 2 ABORT, 3 RESUME. -/
def drainWrite (s : State) (page cmd : Nat) : State :=
  match presentPage s page with
  | none => s
  | some (b, _) =>
    let st := s.dst page
    if !b.workCarrying then s
    else if cmd = 1 ∨ (cmd = 2 ∧ b = .har) then
      (if st = 0 then drainDone (s.setDst page 1) page else if st = 3 then reject s page else s)
    else if cmd = 2 then (if st = 0 ∨ st = 1 then s.setDst page 3 else s)
    else if cmd = 3 then (if st = 2 then blockResumed s page else if st = 0 then s else reject s page)
    else s

/-- BLOCK_DRAIN, BLOCK_ABORT, BLOCK_RESUME. -/
def execBlockDrain (page : Nat) (s : State) : Out := whenLive s (drainWrite s page 1)
def execBlockAbort (page : Nat) (s : State) : Out := whenLive s (drainWrite s page 2)
def execBlockResume (page : Nat) (s : State) : Out := whenLive s (drainWrite s page 3)

/-- BLOCK_DRAIN_DONE: the work in flight of a draining block has completed. -/
def execBlockDrainDone (page : Nat) (s : State) : Out :=
  whenLive s (if (presentPage s page).isSome then drainDone s page else s)

/-- BLOCK_ABORT_DONE: within the bound of R62, an aborting block has stopped its work and written its records. -/
def execBlockAbortDone (page : Nat) (s : State) : Out :=
  whenLive s (if (presentPage s page).isSome ∧ s.dst page = 3 then abortBlock s page else s)

end Sys2Proof.Machine
end

