-- ==== Sys2Proof/Machine/SumpOps.lean ====
section
/-! DEFINITION. Invalidations, and the sump's records and resumes (spec/11_translation.md R316, R322 to R329). -/

namespace Sys2Proof.Machine

/-! ### Invalidations (R316, R327) -/

/-- An invalidation names an address of a space. -/
def InvReq.names (r : InvReq) (aspace va : Nat) : Bool :=
  if r.scope = 3 then true
  else if r.scope = 2 then aspace == r.aspace
  else aspace == r.aspace && va / 4096 % 2 ^ 45 == r.vpn

/-- The address space of an item, of a requester of virtual memory. -/
def spaceOfItem (s : State) (n : Nat) : Option Nat := (s.item n).map (fun it => itemSpace s it)
def spaceOfRid (s : State) (rid : Nat) : Option Nat :=
  if rid % 4 = 0 then spaceOfItem s (rid / 4)
  else if rid % 4 = 1 then some (qaspace s (rid / 4 / 2 ^ 32))
  else if rid % 4 = 2 then (s.job (rid / 4)).map (·.aspace)
  else none

/-- Loads of units that used a translation in the scope and have not returned. -/
def loadsIn (s : State) (r : InvReq) : Bool :=
  s.units.any (fun (u, c) => c.loads.any (fun l => match (s.grp u l.group).bind (fun g => spaceOfItem s g.item) with
    | some a => l.todo.any (fun p => match p.2 with | .pa _ va | .remote _ _ va => r.names a va)
    | none => false))

/-- Remote accesses under way in an address space that the scope touches (log entry 42). -/
def remoteIn (s : State) (r : InvReq) : Bool :=
  let touches (a : Option Nat) : Bool := match a with
    | some x => decide (r.scope = 3) || x == r.aspace
    | none => false
  srcOut s (fun p => match p with
    | .group j _ _ => touches ((s.job j).map (·.aspace))
    | .rq rid | .fetch rid _ => touches (spaceOfRid s rid)
    | .commitAtom n => touches (spaceOfItem s n)
    | _ => false)

/-- An invalidation is accepted. -/
def invAccept (s : State) (r : InvReq) : State := { s with invs := s.invs ++ [r] }

/-- A write of MMU_INVCTL: SCOPE and ASPACE, the page from MMU_INVVA. -/
def invctlWrite (s : State) (v : W64) : State :=
  if fld 1 0 v = 0 ∨ 8 ≤ s.invs.length then reject s (pgMmu 0)
  else invAccept s ⟨fld 1 0 v, fld 7 4 v, s.regF (pgMmu 0) 0x110 56 12, .reg⟩

/-- MMU_INV_PAGE, MMU_INV_SPACE, MMU_INV_ALL: a write of MMU_INVCTL with that SCOPE. -/
def execMmuInvPage (aspace : Nat) (s : State) : Out := whenLive s (invctlWrite s (BitVec.ofNat 64 (aspace % 16 * 16 + 1)))
def execMmuInvSpace (aspace : Nat) (s : State) : Out := whenLive s (invctlWrite s (BitVec.ofNat 64 (aspace % 16 * 16 + 2)))
def execMmuInvAll (aspace : Nat) (s : State) : Out := whenLive s (invctlWrite s (BitVec.ofNat 64 (aspace % 16 * 16 + 3)))

/-- The work of an INVAL descriptor: its request takes its place among the register's; it waits while 8 are pending. -/
def invalCmd (q idx : Nat) (d : Desc) (s : State) : State :=
  if 8 ≤ s.invs.length then s
  else invAccept (startDesc s q idx 0) ⟨d.op 32 1, d.op 33 1 % 16, d.op 24 8 / 4096 % 2 ^ 45, .desc q idx⟩

/-- The rows of INVAL by scope. -/
def invalRow (q idx scope : Nat) (s : State) : Out :=
  match descAt s q idx with
  | none => .next s
  | some d => if d.op 32 1 = scope then descRow q idx 0x19 (invalCmd q idx) s else .next s
def execInvalPage (q idx : Nat) (s : State) : Out := invalRow q idx 1 s
def execInvalSpace (q idx : Nat) (s : State) : Out := invalRow q idx 2 s
def execInvalAll (q idx : Nat) (s : State) : Out := invalRow q idx 3 s

/-- No cache of the module holds a translation of the scope. -/
def dropScope (s : State) (r : InvReq) : State := dropUnitTlbs (dropTranslations s r) r

/-- INVALIDATION_DONE: the oldest request completes, once the accesses that used a translation of its scope are done. -/
def execInvalidationDone (s : State) : Out :=
  whenLive s (match s.invs with
    | [] => s
    | r :: rest =>
      if loadsIn s r || remoteIn s r then s
      else
        let s1 := countEv { dropScope s r with invs := rest, invDone := (s.invDone + 1) % 2 ^ 32 } (pgMmu 0) 4 1
        match r.src with
        | .desc q idx => finishDesc s1 q idx stOk 0
        | .reg => s1)

/-! ### The sump's records (R322, R323) -/

/-- SUMP_RECORD_WRITE: MERGE cycles after a record opened at a slot, it is due: it is written, or waits for room. -/
def execSumpRecordWrite (slot : Nat) (s : State) : Out :=
  whenLive s (
    let hit (r : SRec) : Bool := r.slot == slot && slot != noSlot && r.seq.isNone && !r.due
    if s.sump.recs.any hit then
      sumpDrain 1 { s with sump := { s.sump with recs := updFirst hit (fun r => { r with due := true }) s.sump.recs } }
    else s)

/-- A write of SUMP_CONS: waiting records are written as room comes. -/
def sumpConsWrite (s : State) (v : W64) : State :=
  if 2 ^ sumpSize s < idxSub s.sump.prod (fld 31 0 v) then reject s pgSump
  else sumpDrain s.sump.recs.length { s with sump := { s.sump with cons := fld 31 0 v } }

/-- SUMP_CONS_WRITE. -/
def execSumpConsWrite (v : W64) (s : State) : Out := whenLive s (sumpConsWrite s v)

/-! ### Resumes (R325) -/

/-- The name in the sump of a windlass engine's chunk of a well command (R320): beyond every item number. -/
def chunkWaiter (x k q idx : Nat) : Waiter := ⟨2, 3 + x, k, 64 * (2 ^ 64 + q * 2 ^ 32 + idx)⟩

/-- A waiter ends with status XLATE: a work item under R79 and R80, a command in its completion record. -/
def waiterFails (s : State) (w : Waiter) : State :=
  if w.kind = 2 ∧ 2 ^ 64 ≤ w.sub / 64 then
    let k := w.sub / 64 % 2 ^ 64
    finishDesc (dropMove s (k / 2 ^ 32) (k % 2 ^ 32)) (k / 2 ^ 32) (k % 2 ^ 32) stXlate 0
  else if w.kind ≤ 4 then
    let n := w.sub / 64
    match s.item n with
    | some it => s.setItem n (some { it with err := some (it.err.getD (stXlate, 0, 0)), log := [] })
    | none => s
  else if w.sub < 2 ^ 32 then
    match descAt s w.unit w.sub with
    | none => s
    | some d =>
      if d.opc = 0x60 ∧ d.stage = .started then endRegen s (d.op 24 1 % 64) stXlate 0
      else if d.opc = 0x42 ∨ d.opc = 0x43 then
        let s1 := match s.flow (d.op 24 4) with
          | some f => s.setFlow (d.op 24 4) { f with outq := f.outq.filter (fun o => !isCmd w.unit w.sub o.src) }
          | none => s
        finishDesc s1 w.unit w.sub stXlate 0
      else finishDesc s w.unit w.sub stXlate 0
  else s

/-- A write of SUMP_RESUME (R325, R328). -/
def resumeWrite (s : State) (v : W64) : State :=
  match resumeTarget s v with
  | none => reject s pgSump
  | some r =>
    if fld 1 0 v = 1 then
      closeSlot (dropScope s ⟨1, r.first.aspace, r.first.va / 4096 % 2 ^ 45, .reg⟩) r.slot
    else if fld 1 0 v = 2 then r.waiters.foldl waiterFails (closeSlot s r.slot)
    else reject s pgSump

/-- SUMP_RESUME_RETRY and SUMP_RESUME_FAIL: SUMP_RESUME with a record's slot and sequence number. -/
def execSumpResumeRetry (slot seq : Nat) (s : State) : Out :=
  whenLive s (resumeWrite s (BitVec.ofNat 64 (seq % 2 ^ 32 * 2 ^ 32 + slot % 2 ^ 12 * 2 ^ 16 + 1)))
def execSumpResumeFail (slot seq : Nat) (s : State) : Out :=
  whenLive s (resumeWrite s (BitVec.ofNat 64 (seq % 2 ^ 32 * 2 ^ 32 + slot % 2 ^ 12 * 2 ^ 16 + 2)))

end Sys2Proof.Machine
end

