-- ==== Sys2Proof/Machine/Well.lean ====
section
/-! DEFINITION. The well: its commands, its windlass engines, commits, hold-up, packages
(spec/09_memory_tiers.md R250 to R270; spec/17_faults_and_replay.md R471, R472; spec/18_power_and_thermal.md R495). -/

namespace Sys2Proof.Machine

/-! ### Capacity and endurance (R256 to R258) -/

/-- GLB_CAP1.WELL_TB. -/
def wellTb (s : State) : Nat := nfld 47 32 s.fuses.variant.cap1

/-- WEL_SPACE.TOTAL. -/
def wellTotal (s : State) : Nat := wellTb s * 10 ^ 12 / 2 ^ 21

/-- Logical units that a tensor holds. -/
def unitsOf (layers lbytes : Nat) : Nat := ceilDiv (layers * lbytes) (2 ^ 21)

/-- WEL_SPACE.FREE: units neither held by a version nor reserved by a WPUT. -/
def wellFree (s : State) : Nat :=
  wellTotal s - (s.well.vers.map (fun v => unitsOf v.layers v.lbytes)).foldl (· + ·) 0
    - ((s.well.moves.filter (fun m => m.put)).map (fun m => unitsOf m.layers m.lbytes)).foldl (· + ·) 0

/-- Endurance in bytes (R257), and the percentage used. -/
def wellEndurance (s : State) : Nat := if s.fuses.variant.cdies = 2 then 150 * 10 ^ 15 else 75 * 10 ^ 15
def wellUsed (s : State) : Nat := min 255 (s.well.written * 100 / wellEndurance s)

/-- HOLDUP_OK (R264). -/
def holdupOk (s : State) : Bool := decide (900 ≤ s.well.energy)

/-- Names with a current version. -/
def wellNames (s : State) : Nat := (s.well.vers.filter (fun v => v.current)).length

/-- Both WEL pages report the module-wide errors. -/
def raiseWell (s : State) (n : Nat) (inj : Bool) : State :=
  raiseWith (raiseWith s (pgWel 0) n ⟨none, 0, none, inj⟩) (pgWel 1) n ⟨none, 0, none, inj⟩

/-- The well becomes read-only (R258). -/
def wellReadOnly (s : State) : State :=
  if s.well.ro then s else raiseWell { s with well := { s.well with ro := true } } 11 false

/-! ### The start of commands (R253 to R256) -/

/-- A windlass engine of the module in service. -/
def anyWdl (s : State) : Option (Nat × Nat) := (wdlOf 3).find? (fun e => !wdlFailed s e)

/-- The well takes commands: recovered, both pages enabled and RUNNING. -/
def wellTakes (s : State) : Bool := s.well.ready && s.accepts (pgWel 0) && s.accepts (pgWel 1)

/-- A version that some WINDLASS station pins (R262). -/
def verPinned (s : State) (name ver : Nat) : Bool :=
  s.jobs.any (fun (_, j) => match j with
    | some x => x.stns.any (fun st => st.df.kind == 0x10 && wdTensor st.df == name && st.pin == some ver)
    | none => false)

/-- A WPUT or WDEL of the name, accepted earlier, has not committed: commands on one name take effect in the order of
acceptance (R255; spec/13_queues.md R356). -/
def nameHeld (s : State) (d : Desc) : Bool :=
  s.queues.any (fun (_, c) => c.inflight.any (fun e =>
    decide (e.ord < d.ord) && decide (e.opc = 0x10 ∨ e.opc = 0x12) && decide (e.op 32 8 = d.op 32 8)
      && (e.stage == .accepted || e.stage == .started)))

/-- IFVER holds (R253). -/
def ifverOk (s : State) (name v : Nat) : Bool :=
  match currentVer s name with
  | none => decide (v = 0 ∨ v = 2 ^ 64 - 1)
  | some w => decide (v = 2 ^ 64 - 1 ∨ (v ≠ 0 ∧ v = w.ver))

/-- A name is valid (R251). -/
def nameOk (n : Nat) : Bool := decide (n ≠ 0 ∧ n ≠ 2 ^ 64 - 1)

/-- The format, layers and bytes a layer of a WPUT are valid (R251). -/
def tensorOk (d : Desc) : Bool :=
  let fmt := d.op 60 1
  let l := d.op 56 4
  let lb := d.op 48 8
  decide (1 ≤ l ∧ l ≤ 2 ^ 24 ∧ lb ≠ 0 ∧ lb % 128 = 0 ∧ (fmt = 0 ∨ lb % slotBytes fmt = 0))

/-- A row of the well's commands: it waits until the well takes it and earlier commands on its name have taken effect.
The checks common to all commands come first. -/
def wellRow (q idx opc : Nat) (body : Desc → State → State) (s : State) : Out :=
  descRow q idx opc (fun d t =>
    if !hasWell t then finishDesc t q idx stNotPresent 0
    else if !wellTakes t || nameHeld t d then t
    else if (anyWdl t).isNone then finishDesc t q idx stNoEngine 0
    else if !nameOk (d.op 32 8) then finishDesc t q idx stMalformed 0
    else body d t) s

/-- The move of a command enters the well. -/
def startMove (s : State) (m : WellMove) : State :=
  startDesc { s with well := { s.well with moves := s.well.moves ++ [m] } } m.q m.idx 0

/-- WPUT: units are reserved, and the chunks follow. -/
def execWput (q idx : Nat) (s : State) : Out :=
  wellRow q idx 0x10 (fun d t =>
    let (name, l, lb) := (d.op 32 8, d.op 56 4, d.op 48 8)
    if !tensorOk d then finishDesc t q idx stMalformed 0
    else if !ifverOk t name (d.op 40 8) then finishDesc t q idx stVersion 0
    else if t.well.ro then finishDesc t q idx stWellRo 0
    else if !holdupOk t then finishDesc t q idx stHoldup 0
    else if wellFree t < unitsOf l lb ∨ ((currentVer t name).isNone ∧ 262144 ≤ wellNames t) then finishDesc t q idx stWellFull 0
    else
      let m : WellMove := ⟨q, idx, true, name, 0, d.op 60 1, l, lb, d.op 24 8, 0, l * lb, [], []⟩
      startMove t m) s

/-- WGET. -/
def execWget (q idx : Nat) (s : State) : Out :=
  wellRow q idx 0x11 (fun d t =>
    let (name, ver, first, count) := (d.op 32 8, d.op 40 8, d.op 48 4, d.op 52 4)
    let v := if ver = 0 then currentVer t name
      else (wellVer t name ver).bind (fun w => if w.current || verPinned t name ver then some w else none)
    match v with
    | none => finishDesc t q idx stNoTensor 0
    | some w =>
      if count = 0 ∨ w.layers < first + count then finishDesc t q idx stMalformed 0
      else
        let m : WellMove := ⟨q, idx, false, name, w.ver, w.fmt, w.layers, w.lbytes, d.op 24 8, first * w.lbytes,
          count * w.lbytes, [], []⟩
        startMove t m) s

/-- WDEL: it waits for its commit. -/
def execWdel (q idx : Nat) (s : State) : Out :=
  wellRow q idx 0x12 (fun d t =>
    if !ifverOk t (d.op 32 8) (d.op 40 8) then finishDesc t q idx stVersion 0
    else if (currentVer t (d.op 32 8)).isNone then finishDesc t q idx stNoTensor 0
    else if t.well.ro then finishDesc t q idx stWellRo 0
    else if !holdupOk t then finishDesc t q idx stHoldup 0
    else startDesc t q idx 0) s

/-- The requester of virtual memory that an engine is for a well command (R261). -/
def wellRq (s : State) (x k q : Nat) (d : Desc) : Rq :=
  { port := .engine (3 + x) 4, aspace := qaspace s q, waiter := chunkWaiter x k q d.idx, rid := ridDesc q d.idx,
    work := none, exts := d.exts }

/-- The record of a name (R254). -/
def winfoRecord (v : WellVer) : List Byte :=
  leBytes 8 v.name ++ leBytes 8 v.ver ++ leBytes 1 v.fmt ++ leBytes 3 0 ++ leBytes 4 v.layers ++ leBytes 8 v.lbytes
    ++ leBytes 8 (unitsOf v.layers v.lbytes) ++ leBytes 24 0

/-- WINFO. -/
def execWinfo (q idx : Nat) (s : State) : Out :=
  wellRow q idx 0x13 (fun d t =>
    let (x, k) := (anyWdl t).getD (0, 0)
    let r := wellRq t x k q d
    if inSump t r.waiter then t
    else
      let v := currentVer t (d.op 32 8)
      let (ok, t1) := rqWrite t r (d.op 24 8) (match v with | some w => winfoRecord w | none => leBytes 64 0)
      if !ok then t1
      else match v with
        | some w => finishDesc t1 q idx stOk w.ver
        | none => finishDesc t1 q idx stNoTensor 0) s

/-! ### Commits (R255, R265) -/

/-- The move of a command. -/
def moveOf (s : State) (q idx : Nat) : Option WellMove := s.well.moves.find? (fun m => m.q == q && m.idx == idx)

/-- Chunks of a move. -/
def chunkCount (m : WellMove) : Nat := ceilDiv m.len (2 ^ 26)

/-- A version of the sequence is used, and the well becomes read-only at its end or at its endurance. -/
def useVersion (s : State) (bytes : Nat) : State :=
  let s1 := { s with well := { s.well with nextVer := s.well.nextVer + 1, written := s.well.written + bytes } }
  let s2 := countEv (countEv s1 (pgWel 0) 3 1) (pgWel 1) 3 1
  if 2 ^ 64 - 2 ≤ s2.well.nextVer ∨ 100 ≤ wellUsed s2 then wellReadOnly s2 else s2

/-- The name has no current version any more; a version not current keeps its units until they are freed. -/
def supersede (l : List WellVer) (name : Nat) : List WellVer :=
  l.map (fun v => if v.name = name then { v with current := false } else v)

/-- The bytes of a WPUT in order. -/
def moveBytes (m : WellMove) : List Byte :=
  (List.range (chunkCount m)).flatMap (fun c => ((m.buf.find? (fun p => p.1 == c)).map Prod.snd).getD [])

/-- WELL_COMMIT: the commit record of a WPUT or WDEL enters the protected buffer. -/
def execWellCommit (q idx : Nat) (s : State) : Out :=
  whenLive s (match descAt s q idx with
    | none => s
    | some d =>
      if d.stage ≠ .started then s
      else if d.opc = 0x10 ∨ d.opc = 0x12 then
        if s.well.ro then finishDesc (dropMove s q idx) q idx stWellRo 0
        else if !holdupOk s then finishDesc (dropMove s q idx) q idx stHoldup 0
        else
          let v := s.well.nextVer
          if d.opc = 0x12 then
            let s1 := { s with well := { s.well with vers := supersede s.well.vers (d.op 32 8) } }
            finishDesc (useVersion s1 0) q idx stOk v
          else match moveOf s q idx with
            | none => s
            | some m =>
              if m.moved.length < chunkCount m then s
              else
                let w : WellVer := ⟨m.name, v, m.fmt, m.layers, m.lbytes, moveBytes m, true⟩
                let s1 := dropMove { s with well := { s.well with vers := w :: supersede s.well.vers m.name } } q idx
                finishDesc (useVersion s1 m.len) q idx stOk v
      else s)

/-- WELL_UNITS_FREED: a version that is neither current, pinned nor being read gives up its units (R256). -/
def execWellUnitsFreed (name ver : Nat) (s : State) : Out :=
  whenLive s (
    let reading := s.well.moves.any (fun m => !m.put && m.name == name && m.ver == ver)
    if verPinned s name ver || reading then s
    else { s with well := { s.well with vers := s.well.vers.filter (fun v => v.current || !(v.name == name && v.ver == ver)) } })

/-! ### Windlass engines (R260 to R263, R471, R472) -/

/-- The engine holds its place on a record of the sump (spec/11_translation.md R324). -/
def wdlHeld (s : State) (x k : Nat) (w : Waiter) : Bool :=
  let hit (v : Waiter) : Bool := decide (v.kind = 2 ∧ v.die = 3 + x ∧ v.unit = k) && v != w
  s.sump.recs.any (fun r => r.waiters.any hit) || s.sump.noslot.any (fun f => hit f.who)

/-- Count the bytes that an engine moved. -/
def wdlMoved (s : State) (x k n : Nat) : State :=
  let a := regAddr (pgWdl x k) 0x110
  let old := (s.reg a).toNat
  countEv (s.setReg a (BitVec.ofNat 64 ((old + n) % 2 ^ 48))) (pgWdl x k) 3 ((old + n) / 65536 - old / 65536)

/-- An uncorrectable read, real or injected, is reported (R257, R269): was it, and was it injected. -/
def wellUe (s : State) (x : Nat) (ue : Bool) : Bool × State :=
  let inj := armedAt s (pgWel x) 9
  if ue || inj then (true, raiseWith (disarm s (pgWel x) 9) (pgWel x) 9 ⟨none, 0, none, inj && !ue⟩) else (false, s)

/-- The bytes of a window item's tile: the slot of its layer (R262). -/
def windowTile (j : Job) (st : Stn) (v : WellVer) (it : Item) (ord slot : Nat) : List Byte :=
  let per := tilesOf j st.df / max 1 (wdLayers st.df)
  let layer := ((it.step - j.s0) * wdLayers st.df + ord / max 1 per) % max 1 v.layers
  (v.data.drop (layer * v.lbytes + ord % max 1 per * slot)).take slot

/-- A windlass engine moves a tile of one of its window items. -/
def moveWindow (s : State) (x k n ord : Nat) (ue : Bool) : State :=
  match s.item n with
  | none => s
  | some it => match (s.job it.job).bind (fun j => (j.stn it.sid).map (fun st => (j, st))) with
    | none => s
    | some (j, st) =>
      let rq := itemRq s n it
      if it.kind ≠ 0x10 ∨ it.owner ≠ x * 2 + k ∨ it.err.isSome ∨ itemWaits s n ∨ wdlHeld s x k rq.waiter ∨ !it.ords.contains ord
          ∨ it.wrote.any (fun w => w.ord == ord) then s
      else match st.pin.bind (fun v => wellVer s (wdTensor st.df) v), ioCnd j st.df.outs with
        | some v, some (cid, c) =>
          let (bad, s0) := wellUe s x ue
          if bad then s0.setItem n (some { it with err := some (stWellErr, 0, 0) })
          else
            let bytes := windowTile j st v it ord (slotBytes c.df.fmt)
            let (ok, s1) := rqWrites s0 rq [(j.slotVa cid c (c.ordinal j.s0 it.step 0 0 + ord), bytes)]
            if !ok then s1
            else
              let t : OutTile := ⟨0, ord, 64, 64, false⟩
              let last := it.ords.all (fun o => o == ord || it.wrote.any (fun w => w.ord == o))
              let s2 := wdlMoved (s1.setItem n (some { it with wrote := it.wrote ++ [t] })) x k bytes.length
              if last then countEv (countEv s2 (pgWdl x k) 2 1) (pgWel x) 1 (ceilDiv (it.nord * bytes.length) (2 ^ 20)) else s2
        | _, _ => s

/-- Change the move of a command. -/
def setMove (s : State) (m : WellMove) : State :=
  { s with well := { s.well with moves := s.well.moves.map (fun x => if x.q = m.q ∧ x.idx = m.idx then m else x) } }

/-- A windlass engine moves a chunk of a well command; a WGET ends with its last one. -/
def moveChunk (s : State) (x k q idx c : Nat) (ue : Bool) : State :=
  match moveOf s q idx, descAt s q idx with
  | some m, some d =>
    let r := wellRq s x k q d
    let len := min (2 ^ 26) (m.len - c * 2 ^ 26)
    let va := m.va + c * 2 ^ 26
    let busy := (engineItems s 0x10 (x * 2 + k)).any (fun p => p.2.err.isNone && p.2.wrote.length < p.2.nord)
    if chunkCount m ≤ c ∨ m.moved.contains c ∨ busy ∨ inSump s r.waiter ∨ wdlHeld s x k r.waiter then s
    else
      let ahead := (List.range 512).filterMap (fun i =>
        if va + len + 4096 * i < m.va + m.len then some (va + len + 4096 * i) else none)
      let counted (t : State) (n : Nat) : State :=
        countEv (countEv (wdlMoved (rqPrefetch r ahead t) x k len) (pgWdl x k) 1 1) (pgWel x) n (ceilDiv len (2 ^ 20))
      if m.put then
        match rqRead s r va len with
        | (none, s1) => s1
        | (some (bs, poison), s1) =>
          if poison then finishDesc (dropMove s1 q idx) q idx stMemErr 0
          else counted (setMove s1 { m with moved := m.moved ++ [c], buf := m.buf ++ [(c, bs)] }) 2
      else match wellVer s m.name m.ver with
        | none => s
        | some v =>
          let (bad, s0) := wellUe s x ue
          if bad then finishDesc (dropMove s0 q idx) q idx stWellErr 0
          else
            let (ok, s1) := rqWrites s0 r [(va, (v.data.drop (m.first + c * 2 ^ 26)).take len)]
            if !ok then s1
            else
              let s2 := counted (setMove s1 { m with moved := m.moved ++ [c] }) 1
              if m.moved.length + 1 < chunkCount m then s2
              else finishDesc (dropMove s2 q idx) q idx stOk m.ver
  | _, _ => s

/-- An item of a failed engine is dispatched again: on another engine that it may use, or it ends with NOENGINE. -/
def redispatch (s : State) (n : Nat) (it : Item) : State :=
  let s1 := dropFetched (withdraw s (fun w => w.ofItem n)) (ridItem n)
  let mask := (((s.job it.job).bind (fun j => j.stn it.sid)).map (fun st => st.df.placeX)).getD 0
  let again := { it with wrote := [], computed := [] }
  match wdlFor s1 mask (it.owner / 2, it.owner % 2) with
  | some (x, k) => s1.setItem n (some { again with die := 3 + x, owner := x * 2 + k })
  | none => s1.setItem n (some { again with err := some (it.err.getD (stNoEngine, 0, 0)) })

/-- A windlass engine fails: its work moves, or ends with NOENGINE where no engine may take it. With NORETIRE an
injected fault leaves the engine in service (R482). -/
def wdlFail (s : State) (x k : Nat) (inj : Bool) : State :=
  let keep := inj && noRetire s
  let its := engineItems s 0x10 (x * 2 + k)
  let s1 := raiseWith s (pgWdl x k) 8 ⟨if keep then some 7 else none, 0, its.head?.map (fun p => (p.2.job, p.2.step)), inj⟩
  let s2 := if keep then s1 else { s1 with fab := { s1.fab with wdlDead := s1.fab.wdlDead ++ [x * 64 + k] } }
  let s3 := withdraw s2 (fun w => decide (w.kind = 2 ∧ w.die = 3 + x ∧ w.unit = k))
  let s4 := its.foldl (fun t p => redispatch t p.1 p.2) s3
  if (anyWdl s4).isSome then s4
  else (wellCmds s4).foldl (fun t (q, d) => finishDesc (dropMove t q d.idx) q d.idx stNoEngine 0) s4

/-- WDL_CHUNK_DONE: an engine finishes a tile of a window item or a chunk; `ue`: the flash read was uncorrectable. An
engine takes window items before chunks. -/
def execWdlChunkDone (x k : Nat) (work : WdlWork) (ue : Bool) (s : State) : Out :=
  whenLive s (
    if !hasWell s || !decide (x < 2 ∧ k < 2) || wdlFailed s (x, k) || decide (s.dst (pgWdl x k) = 2) || !s.en (pgWdl x k)
        || !s.well.ready then s
    else if armedAt s (pgWdl x k) 8 then wdlFail (disarm s (pgWdl x k) 8) x k true
    else match work with
      | .tile n ord => moveWindow s x k n ord ue
      | .chunk q idx c => if s.accepts (pgWdl x k) then moveChunk s x k q idx c ue else s)

/-- ENGINE_FAULT: a harness or windlass engine fails its internal check (R471). -/
def execEngineFault (e : EngineRef) (s : State) : Out :=
  whenLive s (match e with
    | .har x i n => if x < 2 ∧ harRuns s x i ∧ (s.flow n).isSome then harFail s x i n false else s
    | .wdl x k => if hasWell s ∧ x < 2 ∧ k < 2 ∧ !wdlFailed s (x, k) then wdlFail s x k false else s)

/-! ### Hold-up, recovery, packages (R257, R264, R268; R495) -/

/-- Commands that have not committed end with HOLDUP. -/
def holdupLow (s : State) : State :=
  ((wellCmds s).filter (fun p => decide (p.2.opc = 0x10 ∨ p.2.opc = 0x12))).foldl (fun t (q, d) =>
    finishDesc (dropMove t q d.idx) q d.idx stHoldup 0) s

/-- HOLDUP_MEASURE: the bank's usable energy, in 0.01 J. An injected HOLDUP makes the measurement fall below 9.0 J, to a
value that the spec does not state. -/
def execHoldupMeasure (energy : Nat) (s : State) : Out :=
  whenLive s (
    if !hasWell s then s
    else
      let inj := armedAt s (pgWel 0) 8 || armedAt s (pgWel 1) 8
      let (n, s0) := s.takeFree
      let s1 := if inj then disarm (disarm s0 (pgWel 0) 8) (pgWel 1) 8 else s
      let e := if inj then min energy (Config.freeNat n % 900) else min energy 0xFFFF
      let s2 := { s1 with well := { s1.well with energy := e } }
      if 900 ≤ e then s2 else holdupLow (raiseWell s2 8 (inj && decide (900 ≤ energy))))

/-- WELL_RECOVERY_DONE. -/
def execWellRecoveryDone (s : State) : Out :=
  whenLive s (if hasWell s ∧ s.well.recov then { s with well := { s.well with recov := false, ready := true } } else s)

/-- NAND_PACKAGE_LOSS: a package on a local channel of an X-die is lost. -/
def execNandPackageLoss (x ch : Nat) (s : State) : Out :=
  whenLive s (
    if !hasWell s || !decide (x < 2 ∧ ch < (if s.fuses.variant.cdies = 2 then 16 else 8)) then s
    else
      let add (m : Nat) : Nat := if nbit ch m then m else m + 2 ^ ch
      let w := { s.well with rebuild := true }
      let w1 := if x = 0 then { w with lost0 := add w.lost0 } else { w with lost1 := add w.lost1 }
      raise { s with well := w1 } (pgWel x) 10)

/-- WELL_REBUILD_DONE. -/
def execWellRebuildDone (s : State) : Out :=
  whenLive s (if hasWell s then { s with well := { s.well with rebuild := false } } else s)

/-- NAND_OVERTEMP: a package's case temperature in °C limits its X-die's channels above 70, and no more below 65. -/
def execNandOvertemp (x temp : Nat) (s : State) : Out :=
  whenLive s (
    if !hasWell s || !decide (x < 2) then s
    else if 70 < temp then { s with well := { s.well with hot := if s.well.hot.contains x then s.well.hot else x :: s.well.hot } }
    else if temp < 65 then { s with well := { s.well with hot := s.well.hot.filter (· != x) } }
    else s)

end Sys2Proof.Machine
end

