-- ==== Sys2Proof/Machine/Rest.lean ====
section
/-! DEFINITION. Rest states of the C-dies and near memory (spec/18_power_and_thermal.md R496 to R498). -/

namespace Sys2Proof.Machine

/-- Exit latency of a rest state, in µs (R496). -/
def exitUs (rs : Nat) : Nat := [0, 2, 40, 400, 20000].getD rs 20000

/-- The deepest state that PWR_LATTOL.US and PWR_RSCTL.MAXRS allow (R497). -/
def restTarget (s : State) : Nat :=
  ([4, 3, 2, 1].find? (fun k => decide (exitUs k ≤ s.regF (pgPwr 2) 0x118 31 0 ∧ k ≤ s.regF (pgPwr 2) 0x120 34 32))).getD 0

/-- A descriptor waits for the C-dies: a maintenance request, a flush or an invalidation (R497). -/
def Desc.needsCdie (d : Desc) : Bool :=
  match d.stage with
  | .flushing _ | .failing _ => true
  | _ => decide (d.opc = 0x18 ∨ d.opc = 0x19)

/-- The C-dies are idle (R497): no work item on a unit, no CME request, no descriptor that waits for them, no request
at a home slice, no invalidation. -/
def cdiesIdle (s : State) : Bool :=
  s.liveItems.all (fun p => !onUnit p.2.kind)
    && (cdiesOf s).all (fun d => (s.cme d).reqs.isEmpty && (s.cme d).backlog.isEmpty)
    && s.queues.all (fun (_, c) => c.inflight.all (fun d => !d.needsCdie))
    && s.homes.all (fun (_, h) => h.txns.isEmpty && h.inq.isEmpty && h.tokq.isEmpty && h.resps.isEmpty)
    && s.invs.isEmpty

/-- The write-combining entries of a channel are written out, oldest first (R240). -/
def drainWc (d ch : Nat) (s : State) : State := (s.nmc d ch).wc.foldl (fun t e => wcWriteOut t d ch e.1 e.2) s

/-- The sites of the C-dies. -/
def allSites (s : State) : List Nat := List.range (576 * s.fuses.variant.cdies)

/-- RS2 and deeper: units hold their state, write-combining buffers are drained. -/
def enterRs2 (s : State) : State :=
  let hold (t : State) (u : Nat) : State := if siteHere t u then t.setCu u { t.cu u with held := true } else t
  (cdiesOf s).foldl (fun t d => (List.range 16).foldl (fun t1 ch => drainWc d ch t1) t) ((allSites s).foldl hold s)

/-- RS3 and deeper: dirty sectors of the CU caches are written back, then CU caches, unit TLBs and local store are
lost. -/
def enterRs3 (s : State) : State :=
  let s1 := (s.units.map Prod.fst).foldl (fun t u => ccRelease t u) s
  let s2 := (s1.units.map Prod.fst).foldl (fun t u => t.setCu u { t.cu u with tlb := [], slab := none }) s1
  { s2 with cc := [], ls := [], lsWritten := [] }

/-- RS4: the shared cache is cleaned to memory and powered off. -/
def enterRs4 (s : State) : State := (s.sc.map Prod.fst).foldl (fun t k => scEvict t (k / 2097152) k) s

/-- Set points of the C-die rails, die by die. -/
def railPoints (s : State) : List Nat := (cdiesOf s).flatMap (fun d => (List.range 16).map (railSet s d))

/-- Entry to rest state rs (R496): the work of the shallower states is done with it. Caches are written back before
the write-combining buffers are drained. -/
def enterRest (s : State) (rs : Nat) : State :=
  let s0 := { s with pwr := { s.pwr with railSave := railPoints s } }
  let s1 := if 3 ≤ rs then enterRs3 s0 else s0
  let s2 := if 4 ≤ rs then enterRs4 s1 else s1
  let s3 := if 2 ≤ rs then enterRs2 s2 else s2
  let v := if rs = 1 then 124 else 110
  let s4 := (cdiesOf s).foldl (fun t d => mapRails t d (fun _ => v)) s3
  countEv (s4.setRegF (pgPwr 2) 0x128 2 0 rs) (pgPwr 2) 3 1

/-- REST_ENTRY (R497): the C-dies have been idle for DWELL µs. -/
def execRestEntry (s : State) : Out :=
  whenLive s (if awake s && cdiesIdle s && decide (restTarget s ≠ 0) then enterRest s (restTarget s) else s)

/-- The device wakes to RS0: the rails return to their set points, the units resume (R498). -/
def wakeRest (s : State) : State :=
  let rs := s.regF (pgPwr 2) 0x128 2 0
  let back (t : State) (d : Nat) : State :=
    (List.range 16).foldl (fun t1 r => setRail t1 d r (s.pwr.railSave.getD (d * 16 + r) (railSet s d r))) t
  let s1 := (cdiesOf s).foldl back s
  let s2 := { s1 with pwr := { s1.pwr with railSave := [] } }
  let s3 := if 2 ≤ rs then (s2.units.map Prod.fst).foldl (fun t u => t.setCu u { t.cu u with held := false }) s2 else s2
  (s3.setRegF (pgPwr 2) 0x128 2 0 0).setRegF (pgPwr 2) 0x128 63 32 (s3.regF (pgPwr 2) 0x128 63 32 + 1)

/-- REST_WAKE (R498): a request needs a C-die. -/
def execRestWake (s : State) : Out := whenLive s (if awake s then s else wakeRest s)

/-- A write of PWR_LATTOL (R498): a state whose exit latency exceeds the new tolerance is left. -/
def lattolWrite (s : State) (v : W64) : State :=
  let s1 := s.setReg (regAddr (pgPwr 2) 0x118) (BitVec.ofNat 64 (fld 31 0 v))
  if awake s1 || decide (exitUs (s1.regF (pgPwr 2) 0x128 2 0) ≤ fld 31 0 v) then s1 else wakeRest s1

/-- PWR_LATTOL_WRITE. -/
def execPwrLattolWrite (v : W64) (s : State) : Out := whenLive s (lattolWrite s v)

end Sys2Proof.Machine
end

