-- ==== Sys2Proof/Machine/Debug.lean ====
section
/-! DEFINITION. Halting and inspecting a compute unit (spec/20_counters_and_debug.md R531 to R534). -/

namespace Sys2Proof.Machine

/-- The site halting or halted on a C-die, and whether it is HALTED. -/
def haltOf (s : State) (d : Nat) : Option (Nat × Bool) := if d = 0 then s.dbg.halt0 else s.dbg.halt1

/-- Store it. -/
def setHalt (s : State) (d : Nat) (h : Option (Nat × Bool)) : State :=
  { s with dbg := if d = 0 then { s.dbg with halt0 := h } else { s.dbg with halt1 := h } }

/-- The selection to be latched. -/
def inspOf (s : State) (d : Nat) : Option (Nat × Nat) := if d = 0 then s.dbg.insp0 else s.dbg.insp1

/-- Store it. -/
def setInsp (s : State) (d : Nat) (i : Option (Nat × Nat)) : State :=
  { s with dbg := if d = 0 then { s.dbg with insp0 := i } else { s.dbg with insp1 := i } }

/-- Groups of a unit with a ready instruction when nothing but the halt holds them back. -/
def readyGroups (s : State) (u : Nat) : List Nat :=
  let free := setHalt s (uDie u) none
  ((residents s u).filter (fun (h, g) => match s.item g.item with
    | some it => canIssue free u h g it
    | none => false)).map Prod.fst

/-- The groups of a unit that may still issue one instruction are forgotten. -/
def clearSteps (s : State) (u : Nat) : State :=
  { s with dbg := { s.dbg with steps := s.dbg.steps.filter (fun k => decide (k / 64 ≠ u)) } }

/-- A write of DBG_HALT: HALT, RESUME or STEP of a site (R531, R532). -/
def haltWrite (s : State) (d : Nat) (v : W64) : State :=
  let site := fld 17 8 v
  let u := d * 576 + site
  match fld 1 0 v with
  | 1 =>
    if site < 576 ∧ inService s u ∧ haltOf s d = none then setHalt s d (some (site, false)) else reject s (pgDbg d)
  | 2 =>
    if haltOf s d = some (site, true) then feedAll (setInsp (setHalt s d none) d none) u else reject s (pgDbg d)
  | 3 =>
    if haltOf s d = some (site, true) then
      let t := clearSteps s u
      setHalt { t with dbg := { t.dbg with steps := t.dbg.steps ++ (readyGroups s u).map (gKey u) } } d (some (site, false))
    else reject s (pgDbg d)
  | _ => reject s (pgDbg d)

/-- DBG_HALT, DBG_RESUME, DBG_STEP: a write of DBG_HALT with that command and a site. -/
def execDbgHalt (d site : Nat) (s : State) : Out :=
  whenLive s (if hasCdie s d then haltWrite s d (BitVec.ofNat 64 (site % 1024 * 256 + 1)) else s)
def execDbgResume (d site : Nat) (s : State) : Out :=
  whenLive s (if hasCdie s d then haltWrite s d (BitVec.ofNat 64 (site % 1024 * 256 + 2)) else s)
def execDbgStep (d site : Nat) (s : State) : Out :=
  whenLive s (if hasCdie s d then haltWrite s d (BitVec.ofNat 64 (site % 1024 * 256 + 3)) else s)

/-- DBG_HALTED: the accepted matrix operations, transfers and memory requests of a halting unit have completed, and
every group that was to issue one instruction has issued it or has none ready. -/
def execDbgHalted (d : Nat) (s : State) : Out :=
  whenLive s (match haltOf s d with
    | some (site, false) =>
      let u := d * 576 + site
      let c := s.cu u
      let stepping := (readyGroups s u).any (fun h => s.dbg.steps.contains (gKey u h))
      if c.mxq.isEmpty && c.loads.isEmpty && c.misses.isEmpty && !stepping then
        clearSteps (setHalt s d (some (site, true))) u
      else s
    | _ => s)

/-- A write of DBG_INSP (R531): DVALID falls until the selection is latched. -/
def inspWrite (s : State) (d : Nat) (v : W64) : State :=
  match haltOf s d with
  | some (_, true) =>
    if 1 ≤ fld 63 60 v ∧ fld 63 60 v ≤ 4 then
      setInsp (s.setRegF (pgDbg d) 0x108 18 18 0) d (some (fld 63 60 v, fld 31 0 v))
    else reject s (pgDbg d)
  | _ => reject s (pgDbg d)

/-- DBG_INSP. -/
def execDbgInsp (d : Nat) (v : W64) (s : State) : Out := whenLive s (if hasCdie s d then inspWrite s d v else s)

/-- The 64 bytes of a journal entry (spec/04_compute_units.md R119). -/
def journalBytes (s : State) (n : Nat) (it : Item) : List Byte :=
  let waiting := s.sump.recs.any (fun r => r.waiters.any (fun w => w.ofItem n))
  let est := if it.islot.isNone then 1 else if waiting then 3 else 2
  it.bytes ++ leBytes 2 it.home ++ leBytes 2 it.owner ++ leBytes 1 est ++ leBytes 1 it.steals ++ leBytes 1 it.attempt
    ++ leBytes 1 0 ++ leBytes 8 it.jseq ++ leBytes 16 0

/-- A word of a group's state (R533). -/
def groupWord (g : Group) (w : Nat) : Nat :=
  match w with
  | 0 => g.pc
  | 1 => g.active * 2 ^ 32 + g.live
  | 2 => g.ctr % 2 ^ 16 + g.stack.length * 2 ^ 16
  | e + 3 => match g.stack.reverse[e]? with
    | some x => x.pc % 2 ^ 32 * 2 ^ 32 + x.mask % 2 ^ 32
    | none => 0

/-- The doubleword that a selection names (R533). -/
def inspected (s : State) (u space index : Nat) : Nat :=
  match space with
  | 1 => leNat (lsBytes s u (index / 8 * 8) 8)
  | 2 =>
    let h := index / 8192
    let v := index / 32 % 256
    match s.grp u h with
    | some g => if v < g.regs then s.vreg u h v (index % 32) else 0
    | none => 0
  | 3 => match s.grp u (index / 64) with
    | some g => groupWord g (index % 64)
    | none => 0
  | _ => match (unitItems s u)[index / 8]? with
    | some (n, it) => fieldAt (journalBytes s n it) (8 * (index % 8)) 8
    | none => 0

/-- DBG_INSP_LATCHED: the selected doubleword is latched and DVALID set. -/
def execDbgInspLatched (d : Nat) (s : State) : Out :=
  whenLive s (match inspOf s d, haltOf s d with
    | some (sp, ix), some (site, _) =>
      ((setInsp s d none).setReg (regAddr (pgDbg d) 0x118) (BitVec.ofNat 64 (inspected s (d * 576 + site) sp ix))).setRegF
        (pgDbg d) 0x108 18 18 1
    | _, _ => s)

end Sys2Proof.Machine
end

