-- ==== Sys2Proof/Machine/Devices.lean ====
section
/-! DEFINITION. Cache-block operations of host cores (spec/12_host_cores.md R332) and requests of PCIe and CXL.io
devices (spec/09_memory_tiers.md R235; spec/11_translation.md R321; spec/12_host_cores.md R340, R341). -/

namespace Sys2Proof.Machine

/-! ### Cache blocks -/

/-- A cluster's copy of a block is given up: a dirty one is written back to its home. -/
def cboRow (h addr : Nat) (dirty : Option (List Byte)) (drop : Bool) (s : State) : Out :=
  if 128 ≤ h then .next s
  else match dirty with
    | some data => execWbDirty (h / 4) addr data s
    | none => if drop then execEvClean (h / 4) addr s else .next s

/-- CBO_CLEAN of a hart: with the line's bytes where its cluster holds it dirty. -/
def execCboClean (h addr : Nat) (dirty : Option (List Byte)) (s : State) : Out := cboRow h addr dirty false s

/-- CBO_FLUSH. -/
def execCboFlush (h addr : Nat) (dirty : Option (List Byte)) (s : State) : Out := cboRow h addr dirty true s

/-- CBO_INVAL is performed as a flush. -/
def execCboInval (h addr : Nat) (dirty : Option (List Byte)) (s : State) : Out := cboRow h addr dirty true s

/-! ### Devices -/

/-- A root port or CXL port that a lane group leads and whose link is up. -/
def devicePort (s : State) (g : Nat) : Bool :=
  s.fuses.variant.bonded g && !(x16Of s g && decide (g % 2 = 1))
    && ((decide (roleOf s g = 4) && portUp s g)
      || (decide (roleOf s g = 3) && (portUp s g || bit 0 (s.reg (regAddr (pgFmc g) 0x108)))))

/-- The completion of a request. -/
def complete (s : State) (g status : Nat) (data : List Byte) (p : Bool) : State :=
  { s with outs := .pcie g status data p :: s.outs }

/-- The device below a lane group as a requester: REQMAP bit 6, class 5. -/
def deviceRq (g aspace : Nat) : Rq :=
  { port := .engine (3 + lgX g) 5, aspace := aspace, waiter := ⟨6, 3 + lgX g, g, 0⟩, rid := 4 * g + 3, work := none,
    exts := [] }

/-- A fault of a device completes at once as Completer Abort, with a NORESUME record (R321). -/
def deviceFault (s : State) (g : Nat) (r : Rq) (acc : Acc) (bad : XKind × Nat × W64 × Nat) : State :=
  let (k, l, p, a) := bad
  complete (sumpNoResume s ⟨r.aspace, a, k.code, l, p, acc.bits, r.waiter, none⟩) g 2 [] false

/-- The bytes of the runs of a translated read: none with a fault where the peer of a window refused, none without one
while remote data is awaited. -/
def deviceRuns (r : Rq) : List (Where × Nat) → State → Nat → Option (List Byte × Bool) × Option Nat × State
  | [], s, _ => (some ([], false), none, s)
  | (w, n) :: rest, s, va =>
    let (x, f, s1) := match w with
      | .pa a =>
        let (bs, p, t) := portRead s r.port a n
        (some (bs, p), none, t)
      | .win fl ga =>
        match askRuns s r.rid fl ga n with
        | (none, t) => (none, none, t)
        | (some (l, p), t) => if l.any List.isEmpty then (none, some va, t) else (some (l.flatten, p), none, t)
      | .fault _ _ _ => (none, none, s)
    let (y, f', s2) := deviceRuns r rest s1 (va + n)
    (match x, y with
      | some (a, p), some (b, q) => some (a ++ b, p || q)
      | _, _ => none, match f with
        | some a => some a
        | none => f', s2)

/-- A translated read. -/
def deviceRead (s : State) (g aspace va n : Nat) : State :=
  let r := deviceRq g aspace
  let (sp, s1) := rqSpan s r va n .rd
  match sp.bad with
  | some b => deviceFault s1 g r .rd b
  | none =>
    match deviceRuns r sp.runs s1 va with
    | (some (bs, p), _, s2) => complete (dropFetched s2 r.rid) g 0 bs p
    | (none, some a, s2) =>
      let (l, pte) := leafInfo s2 r.die aspace a
      deviceFault (dropFetched s2 r.rid) g r .rd (.fabric, l, pte, a)
    | (none, none, s2) => s2

/-- A translated write. -/
def deviceWrite (s : State) (g aspace va : Nat) (bs : List Byte) : State :=
  let r := deviceRq g aspace
  let (sp, s1) := rqSpan s r va bs.length .wr
  match sp.bad with
  | some b => deviceFault s1 g r .wr b
  | none => complete (writeRuns r sp.runs s1 bs) g 0 [] false

/-- The interrupt-file range, and the files of the supervisor and the machine level in it (R340). -/
def inImsic (a : Nat) : Bool := decide (0x7E0000000000 ≤ a ∧ a < 0x7E0001000000)
def supervisorFile (a : Nat) : Bool := decide (0x7E0000000000 ≤ a ∧ a < 0x7E0000080000)
def machineFile (a : Nat) : Bool := decide (0x7E0000100000 ≤ a ∧ a < 0x7E0000180000)

/-- A write of a device to the interrupt-file range: never translated, supervisor-level files only (R341). -/
def deviceMsi (s : State) (g a : Nat) (bs : List Byte) : State :=
  if !supervisorFile a then complete s g 1 [] false
  else if bs.length = 4 ∧ a % 4 = 0 then complete (msiWrite s a (leNat bs)) g 0 [] false
  else complete s g 0 [] false

/-- A request by physical address: memory is served, files read 0, all else is unsupported (R49, R235). -/
def deviceRaw (s : State) (g a : Nat) (wr : Option (List Byte)) (n : Nat) : State :=
  if memRange s a n then
    match wr with
    | some bs => complete (homeWrite s 5 a bs) g 0 [] false
    | none =>
      let (bs, p, t) := homeRead s 5 a n
      complete t g 0 bs p
  else if wr.isNone && (supervisorFile a || machineFile a) then complete s g 0 (List.replicate n 0) false
  else complete s g 1 [] false

/-- PCIE_DEVICE_REQUEST: a request of a device below a lane group reaches its port. -/
def execPcieDeviceRequest (g : Nat) (r : PcieReq) (s : State) : Out :=
  whenLive s (if !devicePort s g then s
    else match r with
      | .read (some sp) a n => if inImsic a then deviceRaw s g a none n else deviceRead s g (sp % 16) a n
      | .read none a n => deviceRaw s g a none n
      | .write sp a bs =>
        if inImsic a then deviceMsi s g a bs
        else match sp with
          | some x => deviceWrite s g (x % 16) a bs
          | none => deviceRaw s g a (some bs) bs.length
      | .intx => s
      | .devErr => if fmcInForce s g then raise s (pgFmc g) 10 else s)

end Sys2Proof.Machine
end

