-- ==== Sys2Proof/Machine/Links.lean ====
section
/-! DEFINITION. Die links (spec/01_module_and_dies.md R28 to R32, spec/17_faults_and_replay.md R476), event
counters (spec/20_counters_and_debug.md R522 to R527), the error log's registers (spec/17 R463) and the
host cores' interrupt files, timers and release (spec/12_host_cores.md). -/

namespace Sys2Proof.Machine

/-! ### Die links -/

/-- A write of DLK_SHARE (R30): valid shares are DBG at least 1 and a sum of 16; a set LOCK refuses all. -/
def dlkShareWrite (s : State) (n : Nat) (v : W64) : State :=
  let a := regAddr (pgDlk n) 0x100
  let sum := fld 3 0 v + fld 7 4 v + fld 11 8 v + fld 15 12 v
  if bit 16 (s.reg a) || decide (fld 15 12 v = 0) || decide (sum ≠ 16) then reject s (pgDlk n)
  else s.setReg a (BitVec.ofNat 64 (fld 16 0 v))

/-- DLK_SHARE_WRITE (R30). -/
def execDlkShareWrite (n : Nat) (v : W64) (s : State) : Out :=
  whenLive s (if hasDlk s n then dlkShareWrite s n v else s)

/-- The mask of slices in service is INFO of a DLK record (R465). -/
def dlkInfo (s : State) (n : Nat) (inj : Bool) : ErrInfo := ⟨none, (s.dlink n).slices, none, inj⟩

/-- The link goes down (R32): FATAL cause 0x02 with the link's number. -/
def dlkDown (s : State) (n : Nat) (inj : Bool) : State :=
  fatalStop (raiseWith (dlkStat s n false) (pgDlk n) 10 (dlkInfo s n inj)) 2 n (dlkOwner n)

/-- A slice is retired and the link keeps running on the others; below 8 it goes down (R32). -/
def dlkRetireSlice (s : State) (n sl : Nat) (inj : Bool) : State :=
  let l := s.dlink n
  let s1 := s.setDlink n { l with slices := maskOf ((maskBits 16 l.slices).filter (· != sl)), resends := 0 }
  let s2 := raiseWith (dlkStat s1 n true) (pgDlk n) 9 (dlkInfo s1 n inj)
  if popCount 16 (s1.dlink n).slices < 8 then dlkDown s2 n inj else s2

/-- The highest-numbered slice in service. -/
def topSlice (l : DieLink) : Nat := (maskBits 16 l.slices).getLastD 0

/-- DLK_FLIT_RECEIVE (R476): a flit with a sequence number arrives in a round over a slice and passes its
checks, or it does not. The expected flit is delivered once; a failing one is resent. A slice that fails 16
times in 2^20 rounds, or a flit that fails eight resends in a row, retires the slice. An armed CRCRETRY
makes the flit fail (R555). -/
def execDlkFlitReceive (n seq round sl : Nat) (ok : Bool) (s : State) : Out :=
  whenLive s <|
    if !hasDlk s n || !bit 0 (s.reg (regAddr (pgDlk n) 0x108)) then s else
    let l := s.dlink n
    let inj := armedAt s (pgDlk n) 8
    if ok && !inj then
      if seq = l.rxSeq then
        countEv (s.setDlink n { l with rxSeq := l.rxSeq + 1, resends := 0, delivered := l.delivered + 1 })
          (pgDlk n) 1 1
      else s
    else
      let s0 := if inj then disarm s (pgDlk n) 8 else s
      let fails := (sl, round) :: l.fails.filter (fun p => decide (round < p.2 + 2 ^ 20))
      let s1 := s0.setDlink n { l with resends := l.resends + 1, fails := fails }
      let s2 := countEv (raiseWith s1 (pgDlk n) 8 (dlkInfo s1 n inj)) (pgDlk n) 3 1
      if 16 ≤ (fails.filter (fun p => p.1 == sl)).length ∨ 8 ≤ l.resends + 1 then dlkRetireSlice s2 n sl false
      else s2

/-! ### Event counters -/

/-- The select write of a counter is valid (R523, R524): SRC 0 only with CEN = 0, else a source of the block. -/
def selOk (s : State) (page n : Nat) (v : W64) : Bool :=
  let d := page / 8192
  let src := fld 15 0 v
  let target := if 4 ≤ n ∧ (blockAt page).map Prod.fst = some .die then pageNo d (fld 47 35 v) else page
  match presentPage s target with
  | none => false
  | some (b, _) => if src = 0 then !bit 16 v else (b.sources (target / 8192)).contains src

/-- The writable bits of a counter's select register (R55, R524). -/
def selMask (page n : Nat) : Nat :=
  if 4 ≤ n ∧ (blockAt page).map Prod.fst = some .die then 0xFFFC0003FFFF else 0x3FFFF

/-- A write of EVSEL or EVSELX. -/
def evselWrite (s : State) (page n : Nat) (v : W64) : State :=
  if selOk s page n v then s.setReg (evselAddr page n) (v &&& BitVec.ofNat 64 (selMask page n)) else reject s page

/-- The page has counter n. -/
def hasCounter (s : State) (page n : Nat) : Bool :=
  match presentPage s page with
  | none => false
  | some (b, _) => decide (n < b.counters)

/-- EVSEL_WRITE (R523). -/
def execEvselWrite (page n : Nat) (v : W64) (s : State) : Out :=
  whenLive s (if hasCounter s page n then evselWrite s page n v else s)

/-- A write of EVCNT (R523): OVF is cleared by a 1 in bit 63, COUNT takes bits 47:0. -/
def evcntWrite (s : State) (page n : Nat) (v : W64) : State :=
  let old := s.evcnt (evcntAddr page n)
  s.setEvcnt (evcntAddr page n)
    (BitVec.ofNat 64 ((if bit 63 old && !bit 63 v then 2 ^ 63 else 0) + fld 47 0 v))

/-- EVCNT_OVERFLOW (R526, R527): n more events of the source a counter counts carry it past 2^48 − 1. -/
def execEvcntOverflow (page c n : Nat) (s : State) : Out :=
  whenLive s <|
    if hasCounter s page c && bit 16 (s.reg (evselAddr page c)) && !bit 4 (s.reg (regAddr page 0x30))
        && decide (fld 15 0 (s.reg (evselAddr page c)) ≠ 0)
        && decide (2 ^ 48 ≤ fld 47 0 (s.evcnt (evcntAddr page c)) + n) then
      evAdd s page c n
    else s

/-- EVMSI_HOLDOFF_EXPIRE (R527): 1,024 reference cycles have passed; an announcement that is owed is sent. -/
def execEvmsiHoldoffExpire (s : State) : Out :=
  whenLive s <|
    if !s.ev.holdoff then s
    else
      let s1 := { s with ev := { s.ev with holdoff := false, owed := false } }
      if s.ev.owed then evInterrupt s1 else s1

/-! ### The error log's registers -/

/-- The ring of a GLB_ELOGCFG value lies in populated near memory (R463). -/
def elogRingOk (s : State) (v : W64) : Bool :=
  let base := fld 51 12 v * 4096
  isNear s base && isNear s (base + 2 ^ fld 4 0 v * 32 - 1)

/-- A write of GLB_ELOGCFG (R463): BASE and SIZE fixed while EN = 1, SIZE 6 to 16, the ring in near memory.
EN going from 0 to 1 sets both indices to 0. -/
def elogCfgWrite (s : State) (v : W64) : State :=
  let a := regAddr pgGlb 0x180
  let old := s.reg a
  let size := fld 4 0 v
  let en := bit 11 old
  if size < 6 ∨ 16 < size ∨ (en ∧ (fld 51 12 v ≠ fld 51 12 old ∨ size ≠ fld 4 0 old)) ∨ !elogRingOk s v then
    reject s pgGlb
  else
    let s1 := s.setReg a (v &&& 0xFFFFFFFFFFC1F)
    if bit 11 v && !en then { s1 with elog := { s1.elog with prod := 0, cons := 0 } } else s1

/-- ELOG_CFG_WRITE (R463). -/
def execElogCfgWrite (v : W64) (s : State) : Out := whenLive s (elogCfgWrite s v)

/-- A write of GLB_ELOGCONS (R463). -/
def elogConsWrite (s : State) (v : W64) : State :=
  if 2 ^ fld 4 0 (s.reg (regAddr pgGlb 0x180)) < idxSub s.elog.prod (fld 31 0 v) then reject s pgGlb
  else { s with elog := { s.elog with cons := fld 31 0 v } }

/-- ELOG_CONS_WRITE (R463). -/
def execElogConsWrite (v : W64) (s : State) : Out := whenLive s (elogConsWrite s v)

/-! ### Host cores -/

/-- IMSIC_WRITE (R341): a write of a size to an interrupt file, by a PCIe or CXL device or by another
requester; devices may write supervisor-level files only. -/
def execImsicWrite (addr size v : Nat) (byDevice : Bool) (s : State) : Out :=
  whenLive s <|
    if addr < 0x7E0000000000 ∨ 0x7E0001000000 ≤ addr ∨ size ≠ 4 ∨ addr % 4 ≠ 0 then s
    else if byDevice && decide (0x7E0000100000 ≤ addr) then s
    else msiWrite s addr v

/-- The machine timer interrupt of a hart follows DIE_MTIME ≥ DIE_MTIMECMP (R337). -/
def timerDue (s : State) (h : Nat) : Bool :=
  decide ((s.reg (regAddr (pgDie 2) (0x800 + 8 * h))).toNat ≤ (s.reg (regAddr (pgDie 2) 0x300)).toNat)

/-- MTIMER_EXPIRE (R337): DIE_MTIME has reached a hart's compare value. -/
def execMtimerExpire (h : Nat) (s : State) : Out :=
  whenLive s (if h < 128 ∧ timerDue s h then s.setHart h { s.hart h with mtip := true } else s)

/-- A write of DIE_MTIME or DIE_MTIMECMP takes the pending state of the timers with it: an interrupt whose
condition no longer holds is pending no more (R337). -/
def timersAfterWrite (s : State) : State :=
  (List.range 128).foldl (fun t h =>
    if (t.hart h).mtip && !timerDue t h then t.setHart h { t.hart h with mtip := false } else t) s

/-- A write of DIE_HARTEN0 or 1 (R343, R344): clearing a set bit is rejected; new bits release harts. -/
def hartenWrite (s : State) (hi : Bool) (v : W64) : State :=
  let a := regAddr (pgDie 2) (if hi then 0x130 else 0x128)
  let old := s.reg a
  if old &&& v ≠ old then reject s (pgDie 2)
  else releaseHarts (s.setReg a v) (if hi then 64 else 0) (v &&& ~~~old).toNat

/-- HARTEN_WRITE (R343). -/
def execHartenWrite (hi : Bool) (v : W64) (s : State) : Out := whenLive s (hartenWrite s hi v)

/-! ### Error injection (spec/17_faults_and_replay.md R482, R555) -/

/-- The ERR_STAT bits that a block can inject, as a mask (R152, R202, R243, R249, R269, R308, R370, R412,
R414, R435, R468, R505). -/
def Block.injectable : Block → Nat
  | .mxe => 0x600 | .grp => 0x300 | .nmc => 0x300 | .fmc => 0x200 | .wel => 0x300 | .home => 0x100
  | .que => 0x100 | .rtr => 0x200 | .lra => 0x200 | .pwr => 0x200
  | .cu => 0x3F00 | .sc => 0x700 | .dlk => 0x700 | .har => 0x100 | .wdl => 0x100
  | .hlp => 0x900
  | _ => 0

end Sys2Proof.Machine
end

