-- ==== Sys2Proof/Machine/Load.lean ====
section
/-! DEFINITION. LOAD: the Ouvord image and its checks (spec/03_stations_and_streams.md R84 to R89). -/

namespace Sys2Proof.Machine

/-! ### Reading an image (R84 to R86, R107) -/

/-- A block of an image. -/
def block (img : List Byte) (o n : Nat) : List Byte := (img.drop o).take n

/-- Station, conduit and template entry n. -/
def stnBytes (img : List Byte) (n : Nat) : List Byte := block img (fieldAt img 0x20 8 + 128 * n) 128
def cndBytes (img : List Byte) (n : Nat) : List Byte := block img (fieldAt img 0x28 8 + 32 * n) 32
def tmplBytes (img : List Byte) (n : Nat) : List Byte := block img (fieldAt img 0x30 8 + 32 * n) 32

/-- NSTN, NCND, NTMPL. -/
def nStn (img : List Byte) : Nat := fieldAt img 0x10 2
def nCnd (img : List Byte) : Nat := fieldAt img 0x12 2
def nTmpl (img : List Byte) : Nat := fieldAt img 0x14 2

/-- Four conduit numbers at an offset. -/
def conduits (b : List Byte) (o : Nat) : List (Option Nat) :=
  (List.range 4).map (fun i => let c := fieldAt b (o + 2 * i) 2; if c = 0xFFFF then none else some c)

/-- Station entry n with its template's VER. -/
def stnDef (img : List Byte) (n : Nat) : StnDef :=
  let b := stnBytes img n
  { kind := fieldAt b 2 1, placeX := fieldAt b 3 1 / 4 % 4, placeC := fieldAt b 3 1 % 4, cuMin := fieldAt b 4 2,
    cuMax := fieldAt b 6 2, lsSteps := fieldAt b 8 1, ins := conduits b 16, outs := conduits b 24,
    codeOff := fieldAt b 32 4, codeLen := fieldAt b 36 4, items := fieldAt b 44 4,
    stepdep := nbit 0 (fieldAt b 12 4), param := block b 64 64,
    ver := fieldAt (tmplBytes img (fieldAt b 40 4)) 29 1 % 4 }

/-- Conduit entry n. -/
def cndDef (img : List Byte) (n : Nat) : CndDef :=
  let b := cndBytes img n
  ⟨fieldAt b 2 2, fieldAt b 4 2, fieldAt b 6 1, fieldAt b 8 2, fieldAt b 10 2, fieldAt b 12 2⟩

/-- The job that an image makes, not started. -/
def imageJob (img : List Byte) (aspace arena asize q : Nat) : Job :=
  { aspace := aspace, arena := arena, asize := asize, queue := q, seed := 0, s0 := 0, admitted := 0, low := 0,
    jstate := 0, fsid := none, detreq := nbit 0 (fieldAt img 6 2), steprec := nbit 1 (fieldAt img 6 2),
    cuNeed := fieldAt img 0x18 2, diemask := fieldAt img 0x1A 1, begun := [],
    stns := (List.range (nStn img)).map (fun n => ⟨stnDef img n, 0, false, [], none⟩),
    cnds := (List.range (nCnd img)).map (fun n => ⟨cndDef img n, 0, [], [], [], 0⟩),
    digest := block img 0x60 48, version := fieldAt img 4 1, size := fieldAt img 8 8,
    code := block img (fieldAt img 0x38 8) (fieldAt img 0x40 8), dets := [], defers := [], digs := [], regen := none }

/-! ### Check 1 and 2 -/

/-- A section is aligned and lies within SIZE. -/
def sectionOk (size o n : Nat) : Bool := decide (o % 64 = 0 ∧ o + n ≤ size)

/-- Check 1 on the header alone. -/
def headerOk (h : List Byte) : Bool :=
  let size := fieldAt h 8 8
  decide (fieldAt h 0 4 = 0x4456554F) && verOk .que (fieldAt h 4 1) && decide (size % 64 = 0 ∧ 256 ≤ size)
    && decide (1 ≤ nStn h ∧ nStn h ≤ 4096 ∧ nCnd h ≤ 16384)
    && sectionOk size (fieldAt h 0x20 8) (128 * nStn h) && sectionOk size (fieldAt h 0x28 8) (32 * nCnd h)
    && sectionOk size (fieldAt h 0x30 8) (32 * nTmpl h) && sectionOk size (fieldAt h 0x38 8) (fieldAt h 0x40 8)
    && sectionOk size (fieldAt h 0x48 8) (fieldAt h 0x50 8)

/-- Check 2: SHA-384 with the DIGEST field zero. -/
def digestOk (img : List Byte) : Bool :=
  decide (sha384 (img.take 0x60 ++ List.replicate 48 0 ++ img.drop 0x90) = block img 0x60 48)

/-! ### Check 3 -/

/-- Conduit i of a list of inputs or outputs. -/
def Job.inC (j : Job) (d : StnDef) (i : Nat) : Option Cnd := (d.ins.getD i none).bind j.cnd
def Job.outC (j : Job) (d : StnDef) (i : Nat) : Option Cnd := (d.outs.getD i none).bind j.cnd

/-- The grid of a conduit. -/
def Cnd.grid (c : Cnd) : Nat × Nat := (c.df.trows, c.df.tcols)

/-- Which inputs and outputs a kind uses (R67): the positions that must be used, those that may be. -/
def connOk (d : StnDef) : Bool :=
  let used (l : List (Option Nat)) : List Nat := (List.range 4).filter (fun i => (l.getD i none).isSome)
  let ins := used d.ins
  let outs := used d.outs
  match d.kind with
  | 0x01 => decide (outs = [0]) && ins.contains 0 && !ins.contains 3
  | 0x02 => ins.contains 0 && outs.contains 0
  | 0x03 | 0x04 | 0x13 => decide (ins = [0] ∧ outs = [0])
  | 0x10 | 0x12 => decide (ins = [] ∧ outs = [0])
  | 0x11 => decide (ins = [0] ∧ outs = [])
  | 0x14 =>
    if par d 0 1 = 0 then decide (ins = [] ∧ outs = [0])
    else if par d 0 1 = 1 then decide (ins = [0] ∧ outs = []) else decide (ins = [0] ∧ outs = [0])
  | _ => false

/-- Tiles that a clipped tensor fills (R553). -/
def copyGrid (d : StnDef) : Nat × Nat := (ceilDiv (par d 0x20 4) 64, ceilDiv (par d 0x24 4) 64)

/-- Grids, formats and parameters of a kind (R67, R68, R75, R77, R219, R431, R553). -/
def kindOk (j : Job) (d : StnDef) : Bool :=
  let g := gridOf j d
  let inG (i : Nat) (p : Nat × Nat) : Bool := match j.inC d i with | some c => decide (c.grid = p) | none => true
  let inF (i : Nat) : Nat := match j.inC d i with | some c => c.df.fmt | none => 0
  let outF : Nat := match j.outC d 0 with | some c => c.df.fmt | none => 0
  match d.kind with
  | 0x01 =>
    let kt := par d 0xC 2
    decide (1 ≤ kt ∧ par d 9 1 ≤ 3) && inG 0 (g.1, kt) && inG 1 (kt, g.2) && inG 2 g
      && (if (d.ins.getD 1 none).isSome then decide (par d 0 8 = 0 ∧ par d 8 1 = 0 ∧ par d 0xE 2 = 0)
          else (fmtKind (par d 8 1)).isSome && decide (par d 0xE 2 = g.2))
  | 0x02 =>
    decide (1 ≤ par d 0 1 ∧ par d 0 1 ≤ 64 ∧ par d 1 1 ≤ 2)
      && (List.range 4).all (fun i => match j.inC d i with
        | none => true
        | some c => if par d 1 1 = 0 then decide (c.grid = g) else if par d 1 1 = 1 then decide (c.df.trows = g.1) else true)
  | 0x03 =>
    let edim := par d 0x10 2
    let t := par d 0x12 1
    decide (edim % 64 = 0 ∧ 64 ≤ edim ∧ edim ≤ 8192 ∧ g.2 = edim / 64 ∧ inF 0 = 0x0E ∧ ((1 ≤ t ∧ t ≤ 5) ∨ t = 0x0C)
      ∧ par d 0x13 1 ≤ 2 ∧ 1 ≤ par d 0x14 1 ∧ par d 0x14 1 ≤ 64 ∧ (par d 0x13 1 ≠ 0 ∨ par d 0x14 1 = 1) ∧ par d 0x15 1 ≤ 1)
      && inG 0 (g.1, 1)
  | 0x04 => inG 0 (g.2, g.1) && decide (inF 0 = outF) && !isMx outF
  | 0x10 => true
  | 0x11 | 0x12 => decide (par d 0 4 < 2 ^ 20)
  | 0x13 =>
    let wf := if par d 1 1 = 0 then 2 else 3
    decide (par d 0 1 ≤ 15 ∧ par d 1 1 ≤ 1 ∧ 1 ≤ par d 4 4 ∧ par d 4 4 ≤ 262144 ∧ inF 0 = wf ∧ (outF = wf ∨ outF = 1)) && inG 0 g
  | 0x14 =>
    if par d 0 1 = 2 then inG 0 g && decide (inF 0 = outF ∧ par d 8 8 = 0)
    else decide (par d 0 1 < 2 ∧ 1 ≤ par d 0x20 4 ∧ 1 ≤ par d 0x24 4 ∧ g = copyGrid d ∧ par d 0x1C 4 % 32 = 0)
  | _ => false

/-- Footprint of a station's items: groups, registers a thread, frame in KiB (R187). -/
def footprint (d : StnDef) (prog : List Byte) : Nat × Nat × Nat :=
  match d.kind with
  | 0x01 => (1, 32, 0)
  | 0x02 => (par d 0 1, 32 * 2 ^ (fieldAt prog 3 1 % 4), fieldAt prog 4 2)
  | 0x03 => (4, 64, 0)
  | 0x04 => (1, 32, 0)
  | _ => (0, 0, 0)

/-- The header of a station program (R173). -/
def progOk (prog : List Byte) (codeLen : Nat) : Bool :=
  decide (prog.length = codeLen ∧ 32 ≤ codeLen ∧ fieldAt prog 0 2 = 0x4750 ∧ fieldAt prog 2 1 / 4 = 0 ∧ fieldAt prog 3 1 / 4 = 0
    ∧ fieldAt prog 4 2 ≤ 64 ∧ fieldAt prog 6 2 = 0 ∧ progEntry prog % 8 = 0 ∧ progEntry prog + 8 * progCount prog ≤ codeLen)
    && verOk .cu (fieldAt prog 2 1 % 4) && (prog.drop 16 |>.take 16).all (fun b => b == 0)

/-- Slot bytes of the operands of a MATRIX station: A, B, C, D (R149). -/
def matrixSlots (j : Job) (d : StnDef) : Nat × Nat × Nat × Nat :=
  let f (c : Option Cnd) : Nat := match c with | some x => slotBytes x.df.fmt | none => 0
  (f (j.inC d 0), (match j.inC d 1 with | some x => slotBytes x.df.fmt | none => slotBytes (par d 8 1)), f (j.inC d 2), f (j.outC d 0))

/-- What R187 and R149 require of a CU-hosted station. -/
def unitOk (j : Job) (d : StnDef) : Bool :=
  if cuHosted d.kind then
    let prog := block j.code d.codeOff d.codeLen
    let (g, regs, frame) := footprint d prog
    let slot := d.lsSteps * 131072
    decide (1 ≤ d.lsSteps ∧ g * regs ≤ 2048 ∧ 512 + g * frame * 1024 ≤ slot)
      && (decide (d.kind ≠ 2) || progOk prog d.codeLen)
      && (decide (d.kind ≠ 1) ||
        (let (a, b, c, x) := matrixSlots j d
         decide (512 + a + b + c + x + 16384 * levels (par d 0xC 2) ≤ slot)))
  else true

/-- A station's entry, placement, template and connections (R85, R89, R108). -/
def stnOk (img : List Byte) (j : Job) (n : Nat) (d : StnDef) : Bool :=
  let b := stnBytes img n
  let t := tmplBytes img (fieldAt b 40 4)
  let own := onUnit d.kind
  let count (l : List (Option Nat)) : Nat := (l.filterMap id).length
  decide (fieldAt b 0 2 = n) && kindDefined d.kind && decide (d.lsSteps ≤ 12)
    && decide (fieldAt b 9 1 = count d.ins ∧ fieldAt b 10 1 = count d.outs)
    && connOk d
    && (d.ins.filterMap id).all (fun c => match j.cnd c with | some x => decide (x.df.cons = n) | none => false)
    && (d.outs.filterMap id).all (fun c => match j.cnd c with
      | some x => decide (x.df.prod = n ∧ x.grid = gridOf j d) | none => false)
    && kindOk j d && unitOk j d && decide (1 ≤ d.items ∧ d.items ≤ tilesOf j d)
    && (if own then decide (d.placeC ≠ 0 ∧ d.placeX = 0) else decide (d.placeX ≠ 0 ∧ d.placeC = 0))
    && (cuHosted d.kind || decide (d.cuMin = 0))
    && (decide (d.kind = 2) || decide (d.codeOff = 0 ∧ d.codeLen = 0))
    && decide (fieldAt b 40 4 < nTmpl img ∧ fieldAt t 24 2 = n ∧ fieldAt t 26 1 % 64 = 0 ∧ fieldAt t 27 1 = d.kind
      ∧ fieldAt t 28 1 % 16 = d.lsSteps) && decide (nbit 2 (fieldAt t 29 1) = d.stepdep)

/-- A conduit's entry (R71, R74, R86, R89). -/
def cndOk (img : List Byte) (j : Job) (n : Nat) (c : CndDef) : Bool :=
  let lists (sid : Nat) (f : StnDef → List (Option Nat)) : Bool := match j.stn sid with
    | some st => (f st.df).contains (some n)
    | none => false
  decide (fieldAt (cndBytes img n) 0 2 = n) && (fmtKind c.fmt).isSome && lists c.prod (·.outs) && lists c.cons (·.ins)
    && decide (1 ≤ c.trows * c.tcols ∧ 2 ≤ c.depth ∧ c.depth ≤ 32768 ∧ 2 ^ c.depth.log2 = c.depth ∧ c.trows * c.tcols ≤ c.depth)

/-- Stations that are left when those fed by no remaining station are taken away, n times over. -/
def cycleLeft (cnds : List CndDef) : Nat → List Nat → List Nat
  | 0, l => l
  | n + 1, l => cycleLeft cnds n (l.filter (fun x => cnds.any (fun c => c.cons == x && l.contains c.prod)))

/-- The sum of the arena's areas (R87). -/
def arenaSum (j : Job) : Nat := alignUp 65536 j.size + (j.cnds.map (fun c => c.df.area)).foldl (· + ·) 0

/-- Check 3. -/
def wellFormed (img : List Byte) (j : Job) : Bool :=
  (j.stns.zipIdx).all (fun (st, n) => stnOk img j n st.df) && (j.cnds.zipIdx).all (fun (c, n) => cndOk img j n c.df)
    && (cycleLeft (j.cnds.map (·.df)) j.stns.length (List.range j.stns.length)).isEmpty
    && decide (fieldAt img 0x58 8 = arenaSum j)

/-! ### Checks 4 and 5 -/

/-- Bytes of a parameter block that a kind defines (R75), as (offset, size). -/
def paramFields (kind : Nat) : List (Nat × Nat) :=
  match kind with
  | 0x01 => [(0, 11), (0xC, 12)]
  | 0x02 => [(0, 2), (8, 56)]
  | 0x03 => [(0, 0x16)]
  | 0x10 => [(0, 13)]
  | 0x11 => [(0, 6)]
  | 0x12 => [(0, 4)]
  | 0x13 => [(0, 2), (4, 4)]
  | 0x14 => [(0, 1), (8, 32)]
  | _ => []

/-- All bytes of a range are 0. -/
def zeros (b : List Byte) (o n : Nat) : Bool := (block b o n).all (fun x => x == 0)

/-- Check 4: reserved bits, and the templates' VER (R84 to R86, R75, R107, R108). -/
def reservedOk (img : List Byte) (j : Job) : Bool :=
  zeros img 5 1 && decide (fieldAt img 6 2 / 4 = 0) && zeros img 0x16 2 && zeros img 0x1B 1
    && decide (fieldAt img 0x1C 4 / 2 ^ 20 = 0) && zeros img 0x90 0x70
    && (j.stns.zipIdx).all (fun (st, n) =>
      let b := stnBytes img n
      let t := tmplBytes img (fieldAt b 40 4)
      let blk : Block := if cuHosted st.df.kind then .cu else if st.df.kind = 0x14 then .pmp
        else if st.df.kind = 0x10 then .wdl else if st.df.kind = 0x13 then .lra else .har
      decide (fieldAt b 3 1 / 16 = 0 ∧ fieldAt b 12 4 / 2 = 0) && zeros b 11 1 && zeros b 48 16
        && (List.range 64).all (fun i => (paramFields st.df.kind).any (fun (o, w) => decide (o ≤ i ∧ i < o + w))
          || decide (fieldAt st.df.param i 1 = 0))
        && (decide (st.df.kind ≠ 1) || decide (par st.df 0xA 1 / 2 = 0))
        && decide (fieldAt t 26 1 = 0 ∧ fieldAt t 28 1 / 16 = 0 ∧ fieldAt t 29 1 / 8 = 0) && verOk blk st.df.ver)
    && (List.range (nCnd img)).all (fun n => zeros (cndBytes img n) 7 1 && zeros (cndBytes img n) 14 2 && zeros (cndBytes img n) 20 12)

/-- Compute units in service on the module (R105). -/
def unitsInService (s : State) : Nat :=
  ((cdiesOf s).map (fun d => ((List.range 576).filter (fun i => inService s (d * 576 + i))).length)).foldl (· + ·) 0

/-- Check 5. -/
def presentOk (s : State) (img : List Byte) (j : Job) : Bool :=
  (hasWell s || j.stns.all (fun st => decide (st.df.kind ≠ 0x10)))
    && decide (j.cuNeed ≤ unitsInService s)
    && (maskBits 8 j.diemask).all (hasCdie s) && j.stns.all (fun st => (maskBits 2 st.df.placeC).all (hasCdie s))
    && (maskBits 20 (fieldAt img 0x1C 4)).all s.fuses.variant.bonded

/-! ### Check 6 and the effect -/

/-- The range is mapped and writable: every page translates for a write, without a fault: fuel bounds the
number of pages. -/
def writable (r : Rq) : Nat → State → Nat → Nat → Bool × State
  | 0, s, _, _ => (true, s)
  | f + 1, s, va, n =>
    if n = 0 then (true, s)
    else
      let k := min (4096 - va % 4096) n
      let (w, s1) := rqXlat s r va k .wr
      match w with
      | .fault _ _ _ => (false, s1)
      | _ => writable r f s1 (va + k) (n - k)

/-- The lowest free job number. -/
def freeJob (s : State) : Option Nat := (List.range 64).find? (fun n => (s.job n).isNone)

/-- The LOAD has started and waits for a translation. -/
def stallDesc (s : State) (q idx : Nat) : State := updDesc s q idx (fun x => { x with stage := .stalled })

/-- LOAD: the image is read (a fault waits in the sump), checked, copied into the arena, and the job created. -/
def loadImage (q idx : Nat) (d : Desc) (s : State) : State :=
  let r := descRq s q d
  let (image, arena, alen) := (d.op 24 8, d.op 32 8, d.op 40 8)
  match rqRead s r image 256 with
  | (none, s1) => stallDesc s1 q idx
  | (some (h, p0), s1) =>
    if p0 then finishDesc s1 q idx stMemErr 0
    else if !headerOk h then finishDesc s1 q idx stBadImage 0
    else match rqRead s1 r image (fieldAt h 8 8) with
      | (none, s2) => stallDesc s2 q idx
      | (some (img, p), s2) =>
        let j := imageJob img (qaspace s q) arena alen q
        if p then finishDesc s2 q idx stMemErr 0
        else if !headerOk img || !digestOk img || !wellFormed img j then finishDesc s2 q idx stBadImage 0
        else if !reservedOk img j then finishDesc s2 q idx stMalformed 0
        else if !presentOk s2 img j then finishDesc s2 q idx stNotPresent 0
        else
          let need := fieldAt img 0x58 8
          let (ok, s3) := writable r (need / 4096 + 1) s2 arena need
          match freeJob s3 with
          | none => finishDesc s3 q idx stNoResource 0
          | some n =>
            if !ok || decide (alen < need) || !bit 63 (rootOf s3 (qaspace s q)) then finishDesc s3 q idx stNoResource 0
            else
              let (_, s4) := rqWrite s3 r arena img
              finishDesc (s4.setJob n (some j)) q idx stOk n

/-- LOAD. -/
def execLoad (q idx : Nat) (s : State) : Out := descRow q idx 0x01 (loadImage q idx) s

end Sys2Proof.Machine
end

