-- ==== Sys2Proof/Machine/RegRead.lean ====
section
/-! DEFINITION. What a read of a register returns (spec/02_register_pages.md R50, R55, and the register tables of the
chapters): stored fields, and the read-only fields that other state determines. A read changes nothing. -/

namespace Sys2Proof.Machine

/-- STAT of a page (R55): IDLE, DSTATE, EVOVF, ERRSUM. -/
def statVal (s : State) (page : Nat) (b : Block) : Nat :=
  let errs := s.err page &&& ~~~(s.reg (regAddr page 0x48))
  let ovf := (List.range b.counters).any (fun n => bit 63 (s.evcnt (evcntAddr page n)))
  (if workPending s page = 0 then 1 else 0) + (if b.workCarrying then s.dst page % 4 * 2 else 0)
    + (if ovf then 64 else 0) + (if errs ≠ 0 then 128 else 0)

/-- A count limited to a field's largest value. -/
def capped (top n : Nat) : Nat := min top n

/-- PLL_LOCK of a die (spec/01_module_and_dies.md R26): its PLLs are locked while the reference is valid. -/
def pllLock (s : State) (d : Nat) : Nat :=
  if s.pins.refOk && decide (s.phase = .running) then (if d < 2 then 3 else if d = 2 then 7 else 15) else 0

/-- DIE_CUSVC (spec/04_compute_units.md R105). -/
def cusvcVal (s : State) (d : Nat) : Nat :=
  (sitesIn s d 1).length + (sitesIn s d 0).length * 2 ^ 16 + (sitesIn s d 2).length * 2 ^ 32

/-- MXE_STAT and MXE_SLAB (spec/05_matrix_engine.md R151). -/
def mxeStat (s : State) (u : Nat) : Nat :=
  let c := s.cu u
  c.mxq.length + (if c.slab.isSome then 2 ^ 8 else 0) + (if c.mxq.any (fun o => o.started) then 2 ^ 11 else 0)
def mxeSlab (s : State) (u : Nat) : Nat :=
  match (s.cu u).slab with
  | none => 0
  | some (n, a, f) => a % 2 ^ 32 + f % 256 * 2 ^ 32 + (((s.item n).bind (fun it => it.islot)).getD 0) % 4 * 2 ^ 40

/-- GRP_OCC (spec/07_thread_groups.md R201). -/
def grpOcc (s : State) (u : Nat) : Nat :=
  let gs := residents s u
  gs.length + ((gs.map (fun p => p.2.regs)).foldl (· + ·) 0) * 2 ^ 16
    + maskOf ((runningOn s u).filterMap (fun p => p.2.islot)) * 2 ^ 32

/-- PMP_STAT (spec/08_cu_memory.md R221): a mover works while an item of its program runs. -/
def pmpStat (s : State) (u : Nat) : Nat :=
  match ((runningOn s u).filter (fun p => decide (p.2.kind = 3 ∨ p.2.kind = 4 ∨ p.2.kind = 0x14))).length with
  | 0 => 0
  | 1 => 1
  | _ => 3

/-- CME_STAT (spec/08_cu_memory.md R227). -/
def cmeStat (s : State) (d : Nat) : Nat :=
  let c := s.cme d
  (if c.reqs.isEmpty then 0 else 1) + c.reqs.length * 2 + c.lastSkip * 2 ^ 16 + c.done * 2 ^ 32

/-- The requester of a request, as its vector bit. -/
def HReq.agent : HReq → Nat
  | .rdShared _ p => p
  | .rdOwn _ p => p
  | .hostAmo _ p _ _ _ _ => p
  | .atFar a _ _ _ _ _ => a.getD 0
  | .rdOnce _ _ => 0
  | .wrNc _ _ _ _ => 0

/-- HOME_DIRSTAT and HOME_TOKEN (spec/10_coherence_and_ordering.md R307). -/
def homeDirstat (s : State) (d h : Nat) : Nat :=
  let c := s.home d h
  (c.dir.filter (fun p => p.2.isValid)).length + c.txns.length * 2 ^ 32 + c.tokq.length * 2 ^ 48
def homeToken (s : State) (d h : Nat) : Nat :=
  match (s.home d h).tokq with
  | [] => 0
  | r :: _ => r.agent % 64 + dirSet (r.line * 128) * 2 ^ 32 + 2 ^ 63

/-- The registers of the WEL pages (spec/09_memory_tiers.md R269). -/
def welVal (s : State) (x off : Nat) : Nat :=
  let w := s.well
  match off with
  | 0x100 => w.ready.toNat + w.recov.toNat * 2 + w.ro.toNat * 4 + (holdupOk s).toNat * 8 + w.rebuild.toNat * 16
  | 0x108 => wellFree s + wellTotal s * 2 ^ 32
  | 0x110 => wellUsed s + w.spare * 2 ^ 8
  | 0x118 => wellNames s
  | 0x120 => w.energy
  | 0x128 => (if s.fuses.variant.cdies = 2 then 0xFFFF else 0xFF) + (if x = 0 then w.lost0 else w.lost1) * 2 ^ 32
  | _ => 0

/-- What a windlass engine works on: nothing; a chunk, of a tensor's name; a window item. -/
def wdlWork (s : State) (x k : Nat) : Nat × Nat :=
  match engineItems s 0x10 (x * 2 + k) with
  | (_, it) :: _ =>
    (2, (((s.job it.job).bind (fun j => j.stn it.sid)).map (fun st => wdTensor st.df)).getD 0)
  | [] => match s.well.moves with
    | m :: _ => if wdlFailed s (x, k) then (0, 0) else (1, m.name)
    | [] => (0, 0)

/-- The registers of the QUE pages (spec/13_queues.md R369). -/
def queVal (s : State) (q off : Nat) : Option Nat :=
  let c := s.queue q
  match off with
  | 0x120 => some c.fetch
  | 0x128 => some c.cprod
  | 0x130 => some c.ccons
  | 0x140 => some (c.pidx + capped 64 c.inflight.length * 2 ^ 32 + (!c.waiting.isEmpty).toNat * 2 ^ 40
      + c.stale.toNat * 2 ^ 41 + c.haltMem.toNat * 2 ^ 42)
  | _ => none

/-- LRA_STAT (spec/15_fabric_reduction.md R433). -/
def lraStat (s : State) (g : Nat) : Nat :=
  maskOf ((List.range 16).filter (fun r => (s.seat g r).busy)) + slotUse s g * 2 ^ 32

/-- Flows that are not CLOSED. -/
def openFlows (s : State) : Nat := (s.fab.flows.filter (fun p => p.2.isSome)).length

/-- RTR_STAT (spec/14_holarn_fabric.md R413). -/
def rtrStat (s : State) (x : Nat) : Nat :=
  capped 16384 (if x = 0 then s.fab.fcache0 else s.fab.fcache1).length + openFlows s * 2 ^ 16
    + (if ringSize s x = 0 then 0 else capped 255 (ringUse s x * 100 / ringSize s x)) * 2 ^ 40

/-- PWR_IN_STAT (spec/01_module_and_dies.md R38). -/
def inStat (s : State) : Nat :=
  let old := s.reg (regAddr (pgPwr 2) 0x200)
  s.pins.feedA.ok.toNat + s.pins.feedB.ok.toNat * 2 + fld 2 2 old * 4 + fld 3 3 old * 8
    + capped 0xFFFF (max s.pins.feedA.dv s.pins.feedB.dv) * 2 ^ 16

/-- SEC_MGT_STAT (spec/01_module_and_dies.md R44). -/
def mgtStat (s : State) : Nat :=
  s.mgmt.pri.code + s.mgmt.sec.code * 16 + s.mgmt.secActive.toNat * 256 + s.mgmt.swCnt * 2 ^ 16

/-- DBG_HSTAT of a C-die (spec/20_counters_and_debug.md R531). -/
def hstat (s : State) (d : Nat) : Nat :=
  (match haltOf s d with
    | none => 0
    | some (site, h) => (if h then 2 else 1) + site * 256)
  + fld 18 18 (s.reg (regAddr (pgDbg d) 0x108)) * 2 ^ 18

/-- HLP_DIGSTAT with its AGE (spec/14_holarn_fabric.md R411). -/
def digStat (s : State) (g : Nat) : Nat :=
  fld 31 0 (s.reg (regAddr (pgHlp g) 0x120))
    + (match (s.port g).digAt with
      | some t => capped 0xFFFFFFFF ((s.now - t) / 1024)
      | none => 0) * 2 ^ 32

/-- SUMP_STAT (spec/11_translation.md R328). -/
def sumpStat (s : State) : Nat :=
  (s.sump.recs.filter (fun r => decide (r.slot ≠ noSlot))).length
    + (s.sump.recs.any (fun r => r.due && r.seq.isNone)).toNat * 2 ^ 16 + (!s.sump.noslot.isEmpty).toNat * 2 ^ 17

/-- A register from offset 0x0100 whose value other state determines; none for one that is stored. -/
def computed (s : State) (b : Block) (region i off : Nat) : Option Nat :=
  match b with
  | .glb => match off with
    | 0x188 => some s.elog.prod
    | 0x190 => some s.elog.cons
    | 0x1A8 => some (s.elog.supp + s.elog.lost * 2 ^ 32)
    | 0x1D0 => some s.ev.last.toNat
    | _ => none
  | .die =>
    if off = 0x108 then some (pllLock s region + fld 4 4 (s.reg (regAddr (pgDie region) 0x108)) * 16)
    else if off = 0x110 ∧ region < 2 then some (cusvcVal s region)
    else none
  | .cu =>
    let u := region * 576 + i
    if off = 0x110 then
      some ((queuedOn s u).length + (unitItems s u).length * 2 ^ 16 + (runningOn s u).length * 2 ^ 32)
    else none
  | .mxe =>
    if off = 0x100 then some (mxeStat s (region * 576 + i))
    else if off = 0x108 then some (mxeSlab s (region * 576 + i))
    else none
  | .grp => if off = 0x100 then some (grpOcc s (region * 576 + i)) else none
  | .pmp => if off = 0x100 then some (pmpStat s (region * 576 + i)) else none
  | .sc => if i = 0 then none else some 0
  | .cme => if off = 0x120 then some (cmeStat s region) else none
  | .home =>
    if off = 0x108 then some (homeDirstat s region i)
    else if off = 0x110 then some (homeToken s region i)
    else none
  | .nmc => if off = 0x100 then
      some (fld 1 0 (s.reg (regAddr (pgNmc region i) 0x100)) + (s.nmc region i).wc.length * 2 ^ 8) else none
  | .fmc => if fmcInForce s i then none else some 0
  | .wel => some (welVal s (region - 3) off)
  | .wdl =>
    let (mode, name) := wdlWork s (region - 3) i
    if off = 0x100 then some ((if mode = 0 then 0 else 1) + mode * 2)
    else if off = 0x108 then some name
    else none
  | .mmu =>
    if off = 0x108 then some (capped 0xFFFF (s.mmu region).tlb.length * 2 ^ 16)
    else if off = 0x120 ∧ region = 0 then some (capped 8 s.invs.length + s.invDone % 2 ^ 32 * 2 ^ 32)
    else none
  | .sump => match off with
    | 0x110 => some s.sump.prod
    | 0x118 => some s.sump.cons
    | 0x128 => some (sumpStat s)
    | _ => none
  | .que => queVal s i off
  | .hlp => if off = 0x120 then some (digStat s i) else none
  | .har => some 0
  | .lra => if !lraInForce s i then some 0 else if off = 0x100 then some (lraStat s i) else none
  | .rtr =>
    if off = 0x130 then some (routeAt s (region - 3) (s.regF (pgRtr (region - 3)) 0x128 13 0)).toNat
    else if off = 0x148 then some (rtrStat s (region - 3))
    else none
  | .pwr => if off = 0x200 ∧ region = 2 then some (inStat s) else none
  | .sec => match off with
    | 0x108 => some (fld 13 8 (s.reg (regAddr pgSec 0x108)) * 256 + s.keys.svnMin % 64)
    | 0x110 => some (fld 15 12 (s.reg (regAddr pgSec 0x110)) * 4096 + s.keys.lmsRev % 16 * 16 + s.keys.ecRev % 16)
    | 0x200 => some (mgtStat s)
    | _ => none
  | .dbg => if off = 0x108 ∧ region < 2 then some (hstat s region) else none
  | .dlk => none

/-- A 64-bit read of a register of a page: absent pages and reserved offsets read 0 (R8, R50). -/
def readReg (s : State) (page off : Nat) : W64 :=
  match presentPage s page with
  | none => 0
  | some (b, i) =>
    if off = 0x00 then BitVec.ofNat 64 (blkId page b i)
    else if off = 0x08 then BitVec.ofNat 64 b.ver
    else if off = 0x38 then BitVec.ofNat 64 (statVal s page b)
    else if off = 0x40 then s.err page
    else if off = 0x10 ∨ off = 0x18 ∨ off = 0x30 ∨ off = 0x48 then s.reg (regAddr page off)
    else if 0x60 ≤ off ∧ off < 0x80 ∧ off % 8 = 0 then s.reg (regAddr page off)
    else if 0x80 ≤ off ∧ off < 0xA0 ∧ off % 8 = 0 then s.evcnt (regAddr page off)
    else if off = 0xA0 then
      BitVec.ofNat 64 (if b.workCarrying then capped 0xFFFF (workPending s page) * 2 ^ 32 else 0)
    else if 0x2000 ≤ off ∧ (off - 0x2000) % 8 = 0 ∧ (off - 0x2000) / 16 + 4 < b.counters then
      (if off % 16 = 0 then s.reg (regAddr page off) else s.evcnt (regAddr page off))
    else match findReg b (page / 8192) off with
      | none => 0
      | some _ => match computed s b (page / 8192) i off with
        | some n => BitVec.ofNat 64 n
        | none => s.reg (regAddr page off)

end Sys2Proof.Machine
end

