-- ==== Sys2Proof/Machine/Registers.lean ====
section
/-! DEFINITION. Writes of registers (spec/02_register_pages.md R49 to R57, R60, R64): the access rules, the common
header, and the validity rules that the chapters give each block's own registers. A register whose write has a row of
its own is written by the same function as that row. -/

namespace Sys2Proof.Machine

/-! ### Error injection (spec/17_faults_and_replay.md R482, R555) -/

/-- Arm the injectable bits of a written mask. -/
def armBits (s : State) (page mask : Nat) : State :=
  (maskBits 64 mask).foldl (fun t n =>
    if armedAt t page n then t
    else { t with elog := { t.elog with armed := t.elog.armed ++ [(page, n)] } }) s

/-- Errors of a unit for which no later occasion is named happen at once (R152, R202). -/
def injectUnit (s : State) (page u m : Nat) : State :=
  if inService s u then (maskBits 64 m).foldl (fun t n => unitError t u page n true (firstWork s u)) s else s

/-- LANEFLT of a port: the highest-numbered lane in service is retired as ERRORS (R412). -/
def injectLane (s : State) (g : Nat) : State :=
  match (rxInService s g).getLast? with
  | some n => if portUp s g then retireLane s g n 4 true else s
  | none => s

/-- A write of ERR_INJ: rejected while injection is off; bits arm, or act at once where the spec says so. -/
def errInjWrite (s : State) (page : Nat) (v : W64) : State :=
  if !bit 0 (s.reg (regAddr pgGlb 0x138)) then reject s page
  else
    match presentPage s page with
    | none => s
    | some (b, i) =>
      let m := v.toNat &&& b.injectable
      match b with
      | .dlk =>
        let s1 := armBits s page (m &&& 0x100)
        let s2 := if nbit 9 m then dlkRetireSlice s1 i (topSlice (s1.dlink i)) true else s1
        if nbit 10 m then dlkDown s2 i true else s2
      | .mxe | .grp => injectUnit s page (page / 8192 * 576 + i) m
      | .hlp =>
        let s1 := armBits s page (m &&& 0x800)
        if nbit 8 m then injectLane s1 i else s1
      | _ => armBits s page m

/-- ERR_INJ_WRITE (R482). -/
def execErrInjWrite (page : Nat) (v : W64) (s : State) : Out :=
  whenLive s (if (presentPage s page).isSome then errInjWrite s page v else s)

/-! ### CTRL (R57, R64; spec/13_queues.md R367; spec/09_memory_tiers.md R246) -/

/-- A loaded job or a pending maintenance request names the queue (R367). -/
def queueNamed (s : State) (q : Nat) : Bool :=
  s.jobs.any (fun (_, j) => match j with | some x => x.queue == q | none => false)
    || s.cmes.any (fun (_, c) => (c.reqs ++ c.backlog).any (fun r => match r.rec? with | some (k, _) => k == q | none => false))

/-- EN = 1 may be written to a queue's page. -/
def queueMayEnable (s : State) (q : Nat) : Bool :=
  let page := pgQue q
  bit 63 (rootOf s (qaspace s q))
    && memRange s (s.regF page 0x108 51 12 * 4096) (2 ^ sqlog s q * 64)
    && memRange s (s.regF page 0x110 51 12 * 4096) (2 ^ cqlog s q * 32)

/-- A write of CTRL is invalid. -/
def ctrlBad (s : State) (page : Nat) (b : Block) (i : Nat) (v : W64) : Bool :=
  let g := fld 9 8 v
  decide (g = 0) || !nbit (g - 1) b.ver || (s.en page && decide (g ≠ s.gensel page))
    || (!bit 0 v && decide (workPending s page ≠ 0))
    || (match b with
      | .que => if bit 0 v then !queueMayEnable s i else queueNamed s i
      | .fmc => bit 0 v && fmcInForce s i && fmcOverlaps s i (fmcSpan s i).1 (fmcSpan s i).2
      | _ => false)

/-- A write of CTRL. -/
def ctrlWrite (s : State) (page : Nat) (v : W64) : State :=
  match presentPage s page with
  | none => s
  | some (b, i) =>
    if ctrlBad s page b i v then reject s page
    else
      let s1 := s.setReg (regAddr page 0x30) (v &&& 0x311)
      match b with
      | .que =>
        if bit 0 v && !s.en page then
          let c := { s1.queue i with fetch := 0, pidx := 0, rereads := 0 }
          s1.setQueue i { c with cprod := 0, ccons := 0 }
        else s1
      | .fmc => if bit 0 v then { s1 with fmcHeld := s1.fmcHeld.filter (· != i) } else s1
      | .cme => cmeFeed 8 s1 (page / 8192)
      | _ => s1

/-- CTRL_WRITE (R57). -/
def execCtrlWrite (page : Nat) (v : W64) (s : State) : Out := whenLive s (ctrlWrite s page v)

/-! ### Registers with validity rules of their own -/

/-- A register stored under its masks: RW fields take the value, W1C bits written 1 are cleared, RO fields stay. -/
def plainWrite (s : State) (page off : Nat) (e : RegInfo) (v : W64) : State :=
  let a := regAddr page off
  let old := s.reg a
  let rw := BitVec.ofNat 64 e.rw
  let w1c := BitVec.ofNat 64 e.w1c
  s.setReg a ((v &&& rw) ||| (old &&& BitVec.ofNat 64 e.ro) ||| (old &&& w1c &&& ~~~v))

/-- Some job is RUNNING, DRAINING or FAULTED. -/
def jobActive (s : State) (p : Job → Bool) : Bool :=
  s.jobs.any (fun (_, j) => match j with
    | some x => decide (x.jstate = 1 ∨ x.jstate = 2 ∨ x.jstate = 5) && p x
    | none => false)

/-- A write of GLB_DETCTL (spec/16_determinism.md R439). -/
def detctlWrite (s : State) (v : W64) : State :=
  let a := regAddr pgGlb 0x100
  let old := s.reg a
  if bit 1 old || (bit 0 old && !bit 0 v && jobActive s (fun j => j.detreq)) then reject s pgGlb
  else noteDigest s (s.setReg a (v &&& 3))

/-- GLB_DETCTL_WRITE. -/
def execGlbDetctlWrite (v : W64) (s : State) : Out := whenLive s (detctlWrite s v)

/-- RESERVE and JDEPTH of a redundancy level (spec/17_faults_and_replay.md R480). -/
def levelReserve (l : Nat) : Nat := [0, 0, 8, 16].getD l 0
def levelJdepth (l : Nat) : Nat := [0, 1, 2, 2].getD l 0

/-- A write of GLB_REDCTL: LEVEL, then RESERVE of each C-die and JDEPTH of every CU page present. -/
def redctlWrite (s : State) (v : W64) : State :=
  if s.jobs ≠ [] then reject s pgGlb
  else
    let l := fld 1 0 v
    let s1 := s.setReg (regAddr pgGlb 0x130) (v &&& 3)
    let s2 := (cdiesOf s).foldl (fun t d => cucfgWrite t d (BitVec.ofNat 64 (levelReserve l))) s1
    let s3 := ((allSites s).filter (siteHere s)).foldl (fun t u => t.setRegF (uCu u) 0x108 9 8 (levelJdepth l)) s2
    noteDigest s s3

/-- GLB_REDCTL_WRITE. -/
def execGlbRedctlWrite (v : W64) (s : State) : Out := whenLive s (redctlWrite s v)

/-- A write of GLB_TDCCNT: only COUNT 0 may be written; the cause bits are cleared by 1s. -/
def tdccntWrite (s : State) (v : W64) : State :=
  let a := regAddr pgGlb 0x108
  if fld 31 0 v ≠ 0 then reject s pgGlb else s.setReg a (s.reg a &&& 0xF00000000 &&& ~~~v)

/-- A write of GLB_DETSPILL. -/
def detspillWrite (s : State) (v : W64) : State :=
  let base := fld 51 20 v * 2 ^ 20
  let size := fld 11 0 v * 2 ^ 20
  if jobActive s (fun _ => true) || (decide (size ≠ 0) && !(isNear s base && isNear s (base + size - 1))) then reject s pgGlb
  else s.setReg (regAddr pgGlb 0x110) (v &&& 0xFFFFFFFF00FFF)

/-- A write of GLB_INJCTL: EN = 0 takes the armed errors back (R482). -/
def injctlWrite (s : State) (v : W64) : State :=
  let a := regAddr pgGlb 0x138
  if bit 2 (s.reg a) then reject s pgGlb
  else
    let s1 := s.setReg a (v &&& 7)
    if bit 0 v then s1 else { s1 with elog := { s1.elog with armed := [] } }

/-- A write of CU_CFG (spec/04_compute_units.md R104). -/
def cuCfgWrite (s : State) (u : Nat) (v : W64) : State :=
  let a := regAddr (uCu u) 0x108
  if fld 19 16 v < 2 ∨ fld 15 12 v = 0 ∨ fld 9 8 v = 3
      ∨ (fld 9 8 v ≠ fld 9 8 (s.reg a) ∧ !(unitItems s u).isEmpty) then reject s (uCu u)
  else s.setReg a (v &&& 0xFF303)

/-- A write of MMU_ROOT[a]: PPN is fixed while V = 1 (spec/11_translation.md R327). -/
def rootWrite (s : State) (a : Nat) (v : W64) : State :=
  let old := rootOf s a
  if bit 63 old && decide (fld 39 0 v ≠ fld 39 0 old) then reject s (pgMmu 0)
  else s.setReg (regAddr (pgMmu 0) (0x200 + 8 * a)) (v &&& 0x800000FFFFFFFFFF)

/-- The sump has open records or records that the driver has not read (R328). -/
def sumpBusy (s : State) : Bool :=
  s.sump.recs.any (fun r => decide (r.slot ≠ noSlot)) || decide (s.sump.prod ≠ s.sump.cons)

/-- Writes of SUMP_CFG and SUMP_BASE. -/
def sumpCfgWrite (s : State) (v : W64) : State :=
  let a := regAddr pgSump 0x100
  if fld 19 16 v < 6 ∨ fld 15 8 v = 0 ∨ (fld 19 16 v ≠ fld 19 16 (s.reg a) ∧ sumpBusy s) then reject s pgSump
  else s.setReg a (v &&& 0xFFF01)
def sumpBaseWrite (s : State) (v : W64) : State :=
  let a := regAddr pgSump 0x108
  if fld 51 12 v ≠ fld 51 12 (s.reg a) ∧ sumpBusy s then reject s pgSump else s.setReg a (v &&& 0xFFFFFFFFFF000)

/-- Writes of QUE_CFG, QUE_SQBASE and QUE_CCBASE (spec/13_queues.md R367, R369), and of QUE_STALE_RETRY. -/
def queCfgWrite (s : State) (q : Nat) (v : W64) : State :=
  if s.en (pgQue q) ∨ fld 7 4 v < 4 ∨ fld 3 0 v < 4 then reject s (pgQue q)
  else s.setReg (regAddr (pgQue q) 0x100) (v &&& 0x3FFF)
def queBaseWrite (s : State) (q off : Nat) (v : W64) : State :=
  if s.en (pgQue q) then reject s (pgQue q) else s.setReg (regAddr (pgQue q) off) (v &&& 0xFFFFFFFFFF000)
def staleRetryWrite (s : State) (q : Nat) (v : W64) : State :=
  if fld 23 8 v < 8 ∨ fld 7 0 v = 0 then reject s (pgQue q) else s.setReg (regAddr (pgQue q) 0x138) (v &&& 0xFFFFFF)

/-- Writes of a router's own registers (spec/14_holarn_fabric.md R413). -/
def rtrWrite (s : State) (x off : Nat) (e : RegInfo) (v : W64) : State :=
  let page := pgRtr x
  let isOpen := decide (openFlows s ≠ 0)
  let nearAll (b n : Nat) : Bool := n == 0 || (isNear s b && isNear s (b + n - 1))
  let bad :=
    if off = 0x100 then bit 32 (s.reg (regAddr page off)) || isOpen
    else if off = 0x108 then isOpen || decide (fld 12 8 v < 10 ∨ 20 < fld 12 8 v)
    else if off = 0x110 then
      isOpen || decide (fld 51 12 v * 4096 % (2 ^ flowLog s * 256) ≠ 0) || !nearAll (fld 51 12 v * 4096) (2 ^ flowLog s * 256)
    else if off = 0x120 then
      isOpen || !(decide (fld 10 0 v = 0) || decide (16 ≤ fld 10 0 v ∧ fld 10 0 v ≤ 1024))
        || !nearAll (fld 51 20 v * 2 ^ 20) (fld 10 0 v * 2 ^ 20)
    else if off = 0x128 then decide (8223 < fld 13 0 v)
    else if 0x200 ≤ off then bit 63 v && decide (65536 < fld 15 0 v + fld 47 32 v)
    else false
  if bad then reject s page else plainWrite s page off e v

/-- Writes of the H-die's PWR registers that have no row (spec/18_power_and_thermal.md R500, R503). -/
def rsctlWrite (s : State) (v : W64) : State :=
  if 4 < fld 34 32 v ∨ fld 31 0 v < 10 ∨ 1000000 < fld 31 0 v then reject s (pgPwr 2)
  else s.setReg (regAddr (pgPwr 2) 0x120) (v &&& 0x7FFFFFFFF)
def pacectlWrite (s : State) (v : W64) : State :=
  if fld 7 0 v < 1 ∨ 50 < fld 7 0 v then reject s (pgPwr 2)
  else
    let s1 := s.setReg (regAddr (pgPwr 2) 0x138) (v &&& 0x1FF)
    if bit 8 v then s1
    else (cdiesOf s1).foldl (fun t d => (t.setPdie d { t.pdie d with paceDown := 0 }).setRegF (pgPwr d) 0x180 50 50 0) s1

/-- A write of SEC_MGT_CTRL.PRI_RETURN (spec/01_module_and_dies.md R41). -/
def mgtCtrlWrite (s : State) (v : W64) : State :=
  if bit 0 v && s.mgmt.secActive && !s.mgmt.pri.faulted && !s.mgmt.sec.faulted then switchPath s false else s

/-- A write of DBG_EXTCTL: by host harts only, EN fixed by LOCK (spec/20_counters_and_debug.md R530). -/
def extctlWrite (s : State) (req : Requester) (v : W64) : State :=
  let a := regAddr (pgDbg 2) 0x100
  match req with
  | .hart _ => if bit 1 (s.reg a) then reject s (pgDbg 2) else s.setReg a (v &&& 3)
  | _ => reject s (pgDbg 2)

/-- A write of DBG_MBCTL (R529, R530): GO starts the access that DBG_MBADDR and DBG_MBDATA name. -/
def mbctlWrite (s : State) (v : W64) : State :=
  let a := regAddr (pgDbg 2) 0x118
  if bit 0 v && (!bit 0 (s.reg (regAddr (pgDbg 2) 0x100)) || s.dbg.mbox.isSome) then reject s (pgDbg 2)
  else if bit 0 v then
    let r := (bit 1 v, (s.reg (regAddr (pgDbg 2) 0x108)).toNat, s.reg (regAddr (pgDbg 2) 0x110))
    let s1 := s.setReg a (v &&& 3)
    { s1 with dbg := { s1.dbg with mbox := some r } }
  else s.setReg a ((s.reg a &&& 5) ||| (v &&& 2))

/-- A minimum for the low 32 bits of a register. -/
def atLeast (s : State) (page off least : Nat) (v : W64) : State :=
  if fld 31 0 v < least then reject s page else s.setReg (regAddr page off) (v &&& 0xFFFFFFFF)

/-- A write of a register of a block's own, from offset 0x0100 up. -/
def blockWrite (s : State) (req : Requester) (page region : Nat) (b : Block) (i off : Nat) (e : RegInfo) (n : Nat)
    (v : W64) : State :=
  let u := region * 576 + i
  let plain := plainWrite s page off e v
  match b with
  | .glb =>
    if off = 0x100 then detctlWrite s v
    else if off = 0x108 then tdccntWrite s v
    else if off = 0x110 then detspillWrite s v
    else if off = 0x130 then redctlWrite s v
    else if off = 0x138 then injctlWrite s v
    else if off = 0x180 then elogCfgWrite s v
    else if off = 0x190 then elogConsWrite s v
    else plain
  | .die =>
    if off = 0x118 then cucfgWrite s region v
    else if off = 0x128 then hartenWrite s false v
    else if off = 0x130 then hartenWrite s true v
    else if off = 0x140 then atLeast s page off 0x10000 v
    else if off = 0x300 then timersAfterWrite plain
    else if 0x800 ≤ off ∧ off < 0xC00 then timersAfterWrite plain
    else if 0xC00 ≤ off then corefreqWrite s n v
    else plain
  | .cu =>
    if off = 0x108 then cuCfgWrite s u v else if off = 0x120 then cuRetireWrite s u v else plain
  | .grp => if off = 0x108 then atLeast s page off 0x1000 v else plain
  | .sc => if i = 0 then plain else s
  | .cme => if off = 0x118 then cmeGo s region v else plain
  | .home =>
    if off = 0x100 then homeAtcfgWrite s region i v
    else if off = 0x118 then atLeast s page off 0x10000 v
    else plain
  | .nmc => if off = 0x108 then wccfgWrite s region i v else plain
  | .fmc => if off = 0x100 then fmcCfgWrite s i v else plain
  | .mmu =>
    if off = 0x118 then invctlWrite s v else if 0x200 ≤ off then rootWrite s n v else plain
  | .sump =>
    if off = 0x100 then sumpCfgWrite s v
    else if off = 0x108 then sumpBaseWrite s v
    else if off = 0x118 then sumpConsWrite s v
    else if off = 0x120 then resumeWrite s v
    else plain
  | .que =>
    if off = 0x100 then queCfgWrite s i v
    else if off = 0x108 ∨ off = 0x110 then queBaseWrite s i off v
    else if off = 0x118 then doorbellWrite s i v
    else if off = 0x120 then fetchWrite s i v
    else if off = 0x130 then cconsWrite s i v
    else if off = 0x138 then staleRetryWrite s i v
    else plain
  | .hlp =>
    if off = 0x100 then roleWrite s i v else if off = 0x108 then linkctlWrite s i v else plain
  | .lra => if 0x200 ≤ off ∧ off < 0x300 then lraBindWrite s i n (decide (off % 16 = 8)) v else s
  | .rtr => if off = 0x130 then rtdataWrite s (region - 3) v else rtrWrite s (region - 3) off e v
  | .pwr =>
    if off = 0x100 then pwrCapWrite s v
    else if off = 0x108 then pwrShareWrite s v
    else if off = 0x118 then lattolWrite s v
    else if off = 0x120 then rsctlWrite s v
    else if off = 0x138 then pacectlWrite s v
    else if off = 0x188 then
      (if fld 7 0 v < 70 ∨ 105 < fld 7 0 v then reject s page else s.setReg (regAddr page off) (v &&& 0xFF))
    else plain
  | .sec =>
    if off = 0x118 then measWrite s (fld 2 0 v) else if off = 0x208 then mgtCtrlWrite s v else plain
  | .dbg =>
    if region = 2 then
      (if off = 0x100 then extctlWrite s req v else if off = 0x118 then mbctlWrite s v else plain)
    else if off = 0x100 then haltWrite s region v
    else if off = 0x110 then inspWrite s region v
    else plain
  | .dlk => if off = 0x100 then dlkShareWrite s i v else plain
  | _ => plain

/-- A 64-bit aligned write of a register of a page: reserved offsets and absent pages ignore it (R8, R50). -/
def writeReg (s : State) (req : Requester) (page off : Nat) (v : W64) : State :=
  match presentPage s page with
  | none => s
  | some (b, i) =>
    if off = 0x30 then ctrlWrite s page v
    else if off = 0x40 then { s with errs := SMap.put (fun _ => 0) s.errs page (s.err page &&& ~~~v) }
    else if off = 0x48 then s.setReg (regAddr page off) v
    else if off = 0x50 then errInjWrite s page v
    else if 0x60 ≤ off ∧ off < 0x80 then evselWrite s page ((off - 0x60) / 8) v
    else if 0x80 ≤ off ∧ off < 0xA0 then evcntWrite s page ((off - 0x80) / 8) v
    else if off = 0xA0 then drainWrite s page (fld 1 0 v)
    else if 0x2000 ≤ off ∧ (off - 0x2000) / 16 + 4 < b.counters then
      (if off % 16 = 0 then evselWrite s page ((off - 0x2000) / 16 + 4) v else evcntWrite s page ((off - 0x2000) / 16 + 4) v)
    else if off < 0x100 then s
    else match findReg b (page / 8192) off with
      | none => s
      | some (e, n) => noteDigest s (blockWrite s req page (page / 8192) b i off e n v)

/-! ### The access rules (R49, R50) -/

/-- Requesters that the aperture refuses: devices, and harts through a mapping that is not of type IO. -/
def refusesAccess (req : Requester) (io : Bool) : Bool :=
  match req with
  | .device => true
  | .hart _ => !io
  | _ => false

/-- Who is served: Potemir's page also while the module is stopped, all else while it runs (R467). -/
def serves (s : State) (req : Requester) (page : Nat) : Bool :=
  live s || (decide (req = .potemir) && decide (page = pgSec) && potemirRuns s)

/-- A write of some bytes at an address of the aperture. -/
def accessWrite (s : State) (req : Requester) (addr size : Nat) (v : W64) : State :=
  match presentPage s (pageOf addr) with
  | none => s
  | some _ => if size = 8 ∧ offOf addr % 8 = 0 then writeReg s req (pageOf addr) (offOf addr) v else raise s (pageOf addr) 1

/-- REG_WRITE: a write of a size in bytes at an address of the aperture; io: a hart's mapping has type IO. -/
def execRegWrite (req : Requester) (io : Bool) (addr size : Nat) (v : W64) (s : State) : Out :=
  .next (
    if !inAperture addr || !serves s req (pageOf addr) then s
    else if refusesAccess req io then { s with outs := .refusedAccess addr :: s.outs }
    else accessWrite s req addr size v)

/-- REG_READ_MISALIGNED: a read that is not naturally aligned returns 0 and sets ACCESS (R50). -/
def execRegReadMisaligned (req : Requester) (io : Bool) (addr size : Nat) (s : State) : Out :=
  .next (
    if !inAperture addr || !serves s req (pageOf addr) || size = 0 || addr % size = 0 then s
    else if refusesAccess req io then { s with outs := .refusedAccess addr :: s.outs }
    else
      let s1 := { s with outs := .readResult addr 0 :: s.outs }
      if (presentPage s (pageOf addr)).isSome then raise s1 (pageOf addr) 1 else s1)

/-! ### The debug mailbox (spec/20_counters_and_debug.md R529, R530) -/

/-- MAILBOX_READ and MAILBOX_WRITE: a write of DBG_MBCTL with GO = 1, and WR = 0 or 1. -/
def execMailboxRead (s : State) : Out := whenLive s (mbctlWrite s 1)
def execMailboxWrite (s : State) : Out := whenLive s (mbctlWrite s 3)

/-- The access of the mailbox is made at the page under R50 to R53: the state after it, and what a read returned. -/
def mailboxAccess (s : State) (wr : Bool) (addr : Nat) (v : W64) : State × W64 :=
  if !inAperture addr then (s, 0)
  else if wr then (accessWrite s .debug addr 8 v, 0)
  else if addr % 8 = 0 then (s, readReg s (pageOf addr) (offOf addr))
  else (if (presentPage s (pageOf addr)).isSome then raise s (pageOf addr) 1 else s, 0)

/-- MAILBOX_DONE: the outstanding request completes: DONE becomes 1 and GO reads 0; a read's value is in
DBG_MBDATA. -/
def execMailboxDone (s : State) : Out :=
  whenLive s (match s.dbg.mbox with
    | none => s
    | some (wr, addr, v) =>
      let (s1, r) := mailboxAccess { s with dbg := { s.dbg with mbox := none } } wr addr v
      let s2 := s1.setReg (regAddr (pgDbg 2) 0x118) ((s1.reg (regAddr (pgDbg 2) 0x118) &&& 2) ||| 4)
      if wr then s2 else s2.setReg (regAddr (pgDbg 2) 0x110) r)

end Sys2Proof.Machine
end

