-- ==== Sys2Proof/Machine/Dispatch.lean ====
section
/-! DEFINITION. The effect of every command on everything but the queue: one arm per row of
spec/opcode_table.json. -/

namespace Sys2Proof.Machine

/-- The effect of a command. -/
def exec (i : Instr) (s : State) : Host.Outcome State Fault Refusal :=
  match i with
  | .modResetAssert => Sys2Proof.Machine.execModResetAssert s
  | .modResetRelease => Sys2Proof.Machine.execModResetRelease s
  | .refLossDetect die => Sys2Proof.Machine.execRefLossDetect die s
  | .railOutOfRegulation die rail => Sys2Proof.Machine.execRailOutOfRegulation die rail s
  | .pwrgdRise => Sys2Proof.Machine.execPwrgdRise s
  | .feedGood b dv => Sys2Proof.Machine.execFeedGood b dv s
  | .feedOpen b dv => Sys2Proof.Machine.execFeedOpen b dv s
  | .fullCapRestore => Sys2Proof.Machine.execFullCapRestore s
  | .feedOvervoltage b dv => Sys2Proof.Machine.execFeedOvervoltage b dv s
  | .feedReclose b dv => Sys2Proof.Machine.execFeedReclose b dv s
  | .feedExternalShort b => Sys2Proof.Machine.execFeedExternalShort b s
  | .hotswapTrip b => Sys2Proof.Machine.execHotswapTrip b s
  | .wellPowerParked => Sys2Proof.Machine.execWellPowerParked s
  | .i3cStuckLow sec sda => Sys2Proof.Machine.execI3cStuckLow sec sda s
  | .i3cOpenProbe sec sda failed => Sys2Proof.Machine.execI3cOpenProbe sec sda failed s
  | .i3cLineClean sec sda => Sys2Proof.Machine.execI3cLineClean sec sda s
  | .i3cGetstatus sec => Sys2Proof.Machine.execI3cGetstatus sec s
  | .priReturn sec => Sys2Proof.Machine.execPriReturn sec s
  | .regWrite req io addr size v => Sys2Proof.Machine.execRegWrite req io addr size v s
  | .regReadMisaligned req io addr size => Sys2Proof.Machine.execRegReadMisaligned req io addr size s
  | .ctrlWrite page v => Sys2Proof.Machine.execCtrlWrite page v s
  | .blockDrain page => Sys2Proof.Machine.execBlockDrain page s
  | .blockAbort page => Sys2Proof.Machine.execBlockAbort page s
  | .blockResume page => Sys2Proof.Machine.execBlockResume page s
  | .blockDrainDone page => Sys2Proof.Machine.execBlockDrainDone page s
  | .blockAbortDone page => Sys2Proof.Machine.execBlockAbortDone page s
  | .errInjWrite page v => Sys2Proof.Machine.execErrInjWrite page v s
  | .evcntOverflow page c n => Sys2Proof.Machine.execEvcntOverflow page c n s
  | .evselWrite page n v => Sys2Proof.Machine.execEvselWrite page n v s
  | .dlkShareWrite n v => Sys2Proof.Machine.execDlkShareWrite n v s
  | .dlkFlitReceive n seq round sl ok => Sys2Proof.Machine.execDlkFlitReceive n seq round sl ok s
  | .load q idx => Sys2Proof.Machine.execLoad q idx s
  | .start q idx => Sys2Proof.Machine.execStart q idx s
  | .admitSteps q idx => Sys2Proof.Machine.execAdmit q idx s
  | .stnctlDrain q idx => Sys2Proof.Machine.execStnctlDrain q idx s
  | .stnctlAbort q idx => Sys2Proof.Machine.execStnctlAbort q idx s
  | .stnctlResume q idx => Sys2Proof.Machine.execStnctlResume q idx s
  | .stationStopped jn sid => Sys2Proof.Machine.execStationStopped jn sid s
  | .jobctlDrain q idx => Sys2Proof.Machine.execJobctlDrain q idx s
  | .jobctlAbort q idx => Sys2Proof.Machine.execJobctlAbort q idx s
  | .jobctlResume q idx => Sys2Proof.Machine.execJobctlResume q idx s
  | .jobStopped jn => Sys2Proof.Machine.execJobStopped jn s
  | .query q idx => Sys2Proof.Machine.execQuery q idx s
  | .unload q idx => Sys2Proof.Machine.execUnload q idx s
  | .sync q idx => Sys2Proof.Machine.execSync q idx s
  | .hint q idx => Sys2Proof.Machine.execHint q idx s
  | .nop q idx => Sys2Proof.Machine.execNop q idx s
  | .itemDispatch jn sid step ix => Sys2Proof.Machine.execItemDispatch jn sid step ix s
  | .itemCommit n => Sys2Proof.Machine.execItemCommit n s
  | .itemError n => Sys2Proof.Machine.execItemError n s
  | .cuItemStart u => Sys2Proof.Machine.execCuItemStart u s
  | .cuNearRound u => Sys2Proof.Machine.execCuNearRound u s
  | .cuFarAttempt u => Sys2Proof.Machine.execCuFarAttempt u s
  | .cuStealWaitExpire u => Sys2Proof.Machine.execCuStealWaitExpire u s
  | .cuRateWindow u beats => Sys2Proof.Machine.execCuRateWindow u beats s
  | .cuRetire u v => Sys2Proof.Machine.execCuRetire u v s
  | .cuFaultRetire u => Sys2Proof.Machine.execCuFaultRetire u s
  | .spareSelftestDone u pass => Sys2Proof.Machine.execSpareSelftestDone u pass s
  | .dieCucfgWrite d v => Sys2Proof.Machine.execDieCucfgWrite d v s
  | .groupNop u h f => Sys2Proof.Machine.execGroupNop u h f s
  | .iadd u h f => Sys2Proof.Machine.execIadd u h f s
  | .isub u h f => Sys2Proof.Machine.execIsub u h f s
  | .imul u h f => Sys2Proof.Machine.execImul u h f s
  | .and u h f => Sys2Proof.Machine.execAnd u h f s
  | .or u h f => Sys2Proof.Machine.execOr u h f s
  | .xor u h f => Sys2Proof.Machine.execXor u h f s
  | .shl u h f => Sys2Proof.Machine.execShl u h f s
  | .shr u h f => Sys2Proof.Machine.execShr u h f s
  | .sra u h f => Sys2Proof.Machine.execSra u h f s
  | .isetlt u h f => Sys2Proof.Machine.execIsetlt u h f s
  | .iseteq u h f => Sys2Proof.Machine.execIseteq u h f s
  | .iaddi u h f => Sys2Proof.Machine.execIaddi u h f s
  | .movi u h f => Sys2Proof.Machine.execMovi u h f s
  | .orhi u h f => Sys2Proof.Machine.execOrhi u h f s
  | .fadd u h f => Sys2Proof.Machine.execFadd u h f s
  | .fmul u h f => Sys2Proof.Machine.execFmul u h f s
  | .ffma u h f => Sys2Proof.Machine.execFfma u h f s
  | .fmin u h f => Sys2Proof.Machine.execFmin u h f s
  | .fmax u h f => Sys2Proof.Machine.execFmax u h f s
  | .fsetlt u h f => Sys2Proof.Machine.execFsetlt u h f s
  | .fdiv u h f => Sys2Proof.Machine.execFdiv u h f s
  | .fsqrt u h f => Sys2Proof.Machine.execFsqrt u h f s
  | .cvtif u h f => Sys2Proof.Machine.execCvtif u h f s
  | .cvtfi u h f => Sys2Proof.Machine.execCvtfi u h f s
  | .cvtfn u h f => Sys2Proof.Machine.execCvtfn u h f s
  | .cvtnf u h f => Sys2Proof.Machine.execCvtnf u h f s
  | .ldl u h f => Sys2Proof.Machine.execLdl u h f s
  | .stl u h f => Sys2Proof.Machine.execStl u h f s
  | .ldg u h f => Sys2Proof.Machine.execLdg u h f s
  | .stg u h f => Sys2Proof.Machine.execStg u h f s
  | .atomg u h f => Sys2Proof.Machine.execAtomg u h f s
  | .atoml u h f => Sys2Proof.Machine.execAtoml u h f s
  | .mfenceOrder u h f => Sys2Proof.Machine.execMfenceOrder u h f s
  | .mfenceAcquire u h f => Sys2Proof.Machine.execMfenceAcquire u h f s
  | .mfenceRelease u h f => Sys2Proof.Machine.execMfenceRelease u h f s
  | .bra u h f => Sys2Proof.Machine.execBra u h f s
  | .brc u h f => Sys2Proof.Machine.execBrc u h f s
  | .join u h f => Sys2Proof.Machine.execJoin u h f s
  | .exit u h f => Sys2Proof.Machine.execExit u h f s
  | .bar u h f => Sys2Proof.Machine.execBar u h f s
  | .barrierTimeout u islot n => Sys2Proof.Machine.execBarrierTimeout u islot n s
  | .collb u h f => Sys2Proof.Machine.execCollb u h f s
  | .colle u h f => Sys2Proof.Machine.execColle u h f s
  | .mxissue u h f => Sys2Proof.Machine.execMxissue u h f s
  | .mxwait u h f => Sys2Proof.Machine.execMxwait u h f s
  | .shfl u h f => Sys2Proof.Machine.execShfl u h f s
  | .spec u h f => Sys2Proof.Machine.execSpec u h f s
  | .trap u h f => Sys2Proof.Machine.execTrap u h f s
  | .mxeOpStart u => Sys2Proof.Machine.execMxeOpStart u s
  | .mxeOpComplete u => Sys2Proof.Machine.execMxeOpComplete u s
  | .cuCacheFill u line => Sys2Proof.Machine.execCuCacheFill u line s
  | .moverTileDone u islot ord => Sys2Proof.Machine.execMoverTileDone u islot ord s
  | .scWaymaskWrite d n v => Sys2Proof.Machine.execScWaymaskWrite d n v s
  | .cmeClean d => Sys2Proof.Machine.execCmeClean d s
  | .cmeInval d => Sys2Proof.Machine.execCmeInval d s
  | .cmeFlush d => Sys2Proof.Machine.execCmeFlush d s
  | .cmeRequestDone d => Sys2Proof.Machine.execCmeRequestDone d s
  | .cmeopClean q idx => Sys2Proof.Machine.execCmeopClean q idx s
  | .cmeopInval q idx => Sys2Proof.Machine.execCmeopInval q idx s
  | .cmeopFlush q idx => Sys2Proof.Machine.execCmeopFlush q idx s
  | .nmcWrite addr mask data => Sys2Proof.Machine.execNmcWrite addr mask data s
  | .nmcRead addr e => Sys2Proof.Machine.execNmcRead addr e s
  | .wcAgeTimeout d ch => Sys2Proof.Machine.execWcAgeTimeout d ch s
  | .patrolScrub d ch e => Sys2Proof.Machine.execPatrolScrub d ch e s
  | .lpddrOvertemp d ch temp hot => Sys2Proof.Machine.execLpddrOvertemp d ch temp hot s
  | .fmcLinkUp g devcap width => Sys2Proof.Machine.execFmcLinkUp g devcap width s
  | .fmcLinkDown g => Sys2Proof.Machine.execFmcLinkDown g s
  | .wput q idx => Sys2Proof.Machine.execWput q idx s
  | .wget q idx => Sys2Proof.Machine.execWget q idx s
  | .wdel q idx => Sys2Proof.Machine.execWdel q idx s
  | .winfo q idx => Sys2Proof.Machine.execWinfo q idx s
  | .wellCommit q idx => Sys2Proof.Machine.execWellCommit q idx s
  | .wdlChunkDone x k work ue => Sys2Proof.Machine.execWdlChunkDone x k work ue s
  | .wellUnitsFreed name ver => Sys2Proof.Machine.execWellUnitsFreed name ver s
  | .holdupMeasure energy => Sys2Proof.Machine.execHoldupMeasure energy s
  | .wellRecoveryDone => Sys2Proof.Machine.execWellRecoveryDone s
  | .nandPackageLoss x ch => Sys2Proof.Machine.execNandPackageLoss x ch s
  | .wellRebuildDone => Sys2Proof.Machine.execWellRebuildDone s
  | .nandOvertemp x temp => Sys2Proof.Machine.execNandOvertemp x temp s
  | .rdshared p addr => Sys2Proof.Machine.execRdShared p addr s
  | .rdown p addr amo => Sys2Proof.Machine.execRdOwn p addr amo s
  | .rdonce cls addr => Sys2Proof.Machine.execRdOnce cls addr s
  | .wrnc cls addr mask data => Sys2Proof.Machine.execWrNc cls addr mask data s
  | .atfar op w addr v => Sys2Proof.Machine.execAtFar op w addr v s
  | .evclean p addr => Sys2Proof.Machine.execEvClean p addr s
  | .wbdirty p addr data => Sys2Proof.Machine.execWbDirty p addr data s
  | .fwdshared agent addr ans data => Sys2Proof.Machine.execFwdShared agent addr ans data s
  | .fwdown agent addr ans data => Sys2Proof.Machine.execFwdOwn agent addr ans data s
  | .fwdonce agent addr ans data => Sys2Proof.Machine.execFwdOnce agent addr ans data s
  | .inval agent addr => Sys2Proof.Machine.execInval agent addr s
  | .recall agent addr ans data => Sys2Proof.Machine.execRecall agent addr ans data s
  | .tokready d h => Sys2Proof.Machine.execTokReady d h s
  | .data p addr => Sys2Proof.Machine.execData p addr s
  | .dataonce addr => Sys2Proof.Machine.execDataOnce addr s
  | .cmp agent addr => Sys2Proof.Machine.execCmp agent addr s
  | .atresult agent addr => Sys2Proof.Machine.execAtResult agent addr s
  | .retry p addr => Sys2Proof.Machine.execRetry p addr s
  | .invack agent addr => Sys2Proof.Machine.execInvAck agent addr s
  | .fwdack agent addr => Sys2Proof.Machine.execFwdAck agent addr s
  | .recallack agent addr => Sys2Proof.Machine.execRecallAck agent addr s
  | .homeAckTimeout addr => Sys2Proof.Machine.execHomeAckTimeout addr s
  | .homeAtcfgClr d h mode => Sys2Proof.Machine.execHomeAtcfgClr d h mode s
  | .sumpRecordWrite slot => Sys2Proof.Machine.execSumpRecordWrite slot s
  | .sumpResumeRetry slot seq => Sys2Proof.Machine.execSumpResumeRetry slot seq s
  | .sumpResumeFail slot seq => Sys2Proof.Machine.execSumpResumeFail slot seq s
  | .sumpConsWrite v => Sys2Proof.Machine.execSumpConsWrite v s
  | .mmuInvPage aspace => Sys2Proof.Machine.execMmuInvPage aspace s
  | .mmuInvSpace aspace => Sys2Proof.Machine.execMmuInvSpace aspace s
  | .mmuInvAll aspace => Sys2Proof.Machine.execMmuInvAll aspace s
  | .invalPage q idx => Sys2Proof.Machine.execInvalPage q idx s
  | .invalSpace q idx => Sys2Proof.Machine.execInvalSpace q idx s
  | .invalAll q idx => Sys2Proof.Machine.execInvalAll q idx s
  | .invalidationDone => Sys2Proof.Machine.execInvalidationDone s
  | .imsicWrite addr size v byDevice => Sys2Proof.Machine.execImsicWrite addr size v byDevice s
  | .mtimerExpire h => Sys2Proof.Machine.execMtimerExpire h s
  | .hartenWrite hi v => Sys2Proof.Machine.execHartenWrite hi v s
  | .corefreqWrite c v => Sys2Proof.Machine.execCorefreqWrite c v s
  | .freqChangeDone c => Sys2Proof.Machine.execFreqChangeDone c s
  | .coreSupplyDroop c n low => Sys2Proof.Machine.execCoreSupplyDroop c n low s
  | .cboClean h addr dirty => Sys2Proof.Machine.execCboClean h addr dirty s
  | .cboFlush h addr dirty => Sys2Proof.Machine.execCboFlush h addr dirty s
  | .cboInval h addr dirty => Sys2Proof.Machine.execCboInval h addr dirty s
  | .fabricFenceLoad h => Sys2Proof.Machine.execFabricFenceLoad h s
  | .doorbell q v => Sys2Proof.Machine.execDoorbell q v s
  | .descFetch q => Sys2Proof.Machine.execDescFetch q s
  | .staleReread q => Sys2Proof.Machine.execStaleReread q s
  | .queCconsWrite q v => Sys2Proof.Machine.execQueCconsWrite q v s
  | .queFetchWrite q v => Sys2Proof.Machine.execQueFetchWrite q v s
  | .hlpLinkenWrite g v => Sys2Proof.Machine.execHlpLinkenWrite g v s
  | .hlpRetrain g => Sys2Proof.Machine.execHlpRetrain g s
  | .partnerDetect g => Sys2Proof.Machine.execPartnerDetect g s
  | .linkTrainDone g lanes farTx farVers node width dig => Sys2Proof.Machine.execLinkTrainDone g lanes farTx farVers node width dig s
  | .trainRetry g => Sys2Proof.Machine.execTrainRetry g s
  | .laneFail g n tx lost => Sys2Proof.Machine.execLaneFail g n tx lost s
  | .portDown g => Sys2Proof.Machine.execPortDown g s
  | .llrFrameReceive g seq bytes good ack again => Sys2Proof.Machine.execLlrFrameReceive g seq bytes good ack again s
  | .llrAckTimeout g => Sys2Proof.Machine.execLlrAckTimeout g s
  | .ethFrameReceive g frame => Sys2Proof.Machine.execEthFrameReceive g frame s
  | .packetForward k credits => Sys2Proof.Machine.execPacketForward k credits s
  | .write p => Sys2Proof.Machine.execWrite p s
  | .read p => Sys2Proof.Machine.execRead p s
  | .atomic p => Sys2Proof.Machine.execAtomic p s
  | .readresp p => Sys2Proof.Machine.execReadresp p s
  | .atomresp p => Sys2Proof.Machine.execAtomresp p s
  | .ack p => Sys2Proof.Machine.execAck p s
  | .nack p => Sys2Proof.Machine.execNack p s
  | .errresp p => Sys2Proof.Machine.execErrresp p s
  | .tile p => Sys2Proof.Machine.execTile p s
  | .beacon g dig => Sys2Proof.Machine.execBeacon g dig s
  | .flowctlOpen p => Sys2Proof.Machine.execFlowctlOpen p s
  | .flowctlOpenack p => Sys2Proof.Machine.execFlowctlOpenack p s
  | .flowctlClose p => Sys2Proof.Machine.execFlowctlClose p s
  | .flowctlCredit p => Sys2Proof.Machine.execFlowctlCredit p s
  | .harSlice x e n => Sys2Proof.Machine.execHarSlice x e n s
  | .harSliceTimeout x e n => Sys2Proof.Machine.execHarSliceTimeout x e n s
  | .flowRtoExpire n => Sys2Proof.Machine.execFlowRtoExpire n s
  | .flowOpenTimeout n => Sys2Proof.Machine.execFlowOpenTimeout n s
  | .fopen q idx => Sys2Proof.Machine.execFopen q idx s
  | .fclose q idx => Sys2Proof.Machine.execFclose q idx s
  | .fput q idx => Sys2Proof.Machine.execFput q idx s
  | .fget q idx => Sys2Proof.Machine.execFget q idx s
  | .ffence q idx => Sys2Proof.Machine.execFfence q idx s
  | .beaconTimer => Sys2Proof.Machine.execBeaconTimer s
  | .beaconLoss g => Sys2Proof.Machine.execBeaconLoss g s
  | .rtrRtdataWrite x v => Sys2Proof.Machine.execRtrRtdataWrite x v s
  | .reduceNodeUp p => Sys2Proof.Machine.execReduceNodeUp p s
  | .reduceResultDown p => Sys2Proof.Machine.execReduceResultDown p s
  | .reducePull p => Sys2Proof.Machine.execReducePull p s
  | .lraSeatAction g r act => Sys2Proof.Machine.execLraSeatAction g r act s
  | .lraBindWrite g r tab v => Sys2Proof.Machine.execLraBindWrite g r tab v s
  | .glbDetctlWrite v => Sys2Proof.Machine.execGlbDetctlWrite v s
  | .deferredAddsApplied jn => Sys2Proof.Machine.execDeferredAddsApplied jn s
  | .regen q idx => Sys2Proof.Machine.execRegen q idx s
  | .lspair q idx => Sys2Proof.Machine.execLspair q idx s
  | .lsend q idx => Sys2Proof.Machine.execLsend q idx s
  | .lockstepCompare => Sys2Proof.Machine.execLockstepCompare s
  | .elogCfgWrite v => Sys2Proof.Machine.execElogCfgWrite v s
  | .elogConsWrite v => Sys2Proof.Machine.execElogConsWrite v s
  | .cuHeartbeat u => Sys2Proof.Machine.execCuHeartbeat u s
  | .cuWatchdogExpire u beats => Sys2Proof.Machine.execCuWatchdogExpire u beats s
  | .engineFault e => Sys2Proof.Machine.execEngineFault e s
  | .glbRedctlWrite v => Sys2Proof.Machine.execGlbRedctlWrite v s
  | .pwrWindow d acts staticMw tmax waiting sideWaiting => Sys2Proof.Machine.execPwrWindow d acts staticMw tmax waiting sideWaiting s
  | .pwrReport d perQueue unattr static tmax pinW einUj pmodW => Sys2Proof.Machine.execPwrReport d perQueue unattr static tmax pinW einUj pmodW s
  | .capset d seq => Sys2Proof.Machine.execCapset d seq s
  | .hintMsg d => Sys2Proof.Machine.execHintMsg d s
  | .hintLapse d => Sys2Proof.Machine.execHintLapse d s
  | .paceCheck waitCyc => Sys2Proof.Machine.execPaceCheck waitCyc s
  | .pwrCapWrite v => Sys2Proof.Machine.execPwrCapWrite v s
  | .pwrShareWrite v => Sys2Proof.Machine.execPwrShareWrite v s
  | .pwrLattolWrite v => Sys2Proof.Machine.execPwrLattolWrite v s
  | .thermalTrip d tmax => Sys2Proof.Machine.execThermalTrip d tmax s
  | .sensorFail d => Sys2Proof.Machine.execSensorFail d s
  | .cuSupplyLow u mv => Sys2Proof.Machine.execCuSupplyLow u mv s
  | .cuSupplyRestore u mv => Sys2Proof.Machine.execCuSupplyRestore u mv s
  | .restEntry => Sys2Proof.Machine.execRestEntry s
  | .restWake => Sys2Proof.Machine.execRestWake s
  | .bootRomDone => Sys2Proof.Machine.execBootRomDone s
  | .bootPfwDone => Sys2Proof.Machine.execBootPfwDone s
  | .bootDiesDone => Sys2Proof.Machine.execBootDiesDone s
  | .bootMemoryDone place entry => Sys2Proof.Machine.execBootMemoryDone place entry s
  | .measExtend slot => Sys2Proof.Machine.execMeasExtend slot s
  | .cfgDigestRecompute => Sys2Proof.Machine.execCfgDigestRecompute s
  | .getVersion pcie => Sys2Proof.Machine.execGetVersion pcie s
  | .getCapabilities pcie => Sys2Proof.Machine.execGetCapabilities pcie s
  | .negotiateAlgorithms pcie offered => Sys2Proof.Machine.execNegotiateAlgorithms pcie offered s
  | .getDigests pcie => Sys2Proof.Machine.execGetDigests pcie s
  | .getCertificate pcie slot off len => Sys2Proof.Machine.execGetCertificate pcie slot off len s
  | .challenge pcie slot nonce => Sys2Proof.Machine.execChallenge pcie slot nonce s
  | .getMeasurements pcie idx signed nonce => Sys2Proof.Machine.execGetMeasurements pcie idx signed nonce s
  | .mailboxRead => Sys2Proof.Machine.execMailboxRead s
  | .mailboxWrite => Sys2Proof.Machine.execMailboxWrite s
  | .mailboxDone => Sys2Proof.Machine.execMailboxDone s
  | .dbgHalt d site => Sys2Proof.Machine.execDbgHalt d site s
  | .dbgHalted d => Sys2Proof.Machine.execDbgHalted d s
  | .dbgResume d site => Sys2Proof.Machine.execDbgResume d site s
  | .dbgStep d site => Sys2Proof.Machine.execDbgStep d site s
  | .dbgInsp d v => Sys2Proof.Machine.execDbgInsp d v s
  | .dbgInspLatched d => Sys2Proof.Machine.execDbgInspLatched d s
  | .feedOutOfBand b dv => Sys2Proof.Machine.execFeedOutOfBand b dv s
  | .bootStageTimeout => Sys2Proof.Machine.execBootStageTimeout s
  | .bootFlashRewrite bankB bytes => Sys2Proof.Machine.execBootFlashRewrite bankB bytes s
  | .dynamicAddressAssignment sec addr => Sys2Proof.Machine.execDynamicAddressAssignment sec addr s
  | .pcieDeviceRequest g r => Sys2Proof.Machine.execPcieDeviceRequest g r s
  | .hostFabricApertureAccess h a addr size => Sys2Proof.Machine.execHostFabricApertureAccess h a addr size s
  | .evmsiHoldoffExpire => Sys2Proof.Machine.execEvmsiHoldoffExpire s

end Sys2Proof.Machine
end

