-- ==== Sys2Proof/Safety.lean ====
section
/-! DEFINITION. What claims about runs use: the canonical form of memory and of every table of the state. -/

namespace Sys2Proof.Machine

/-- Memory lists rising addresses, and no byte equal to what an unlisted address reads as. -/
def Memory.wf (m : SMap Byte) : Bool := SMap.wf memDflt m

/-- Every table of the state is in canonical form: keys rise strictly, and no listed value is the one an
unlisted key reads as. Equal tables are then equal data. -/
structure Canonical (s : State) : Prop where
  regs : SMap.wf (regReset s.fuses) s.regs = true
  errs : SMap.wf (fun _ => (0 : W64)) s.errs = true
  dstates : SMap.wf (fun _ => 0) s.dstates = true
  mem : Memory.wf s.mem = true
  poison : SMap.wf (fun _ => false) s.poison = true
  sc : SMap.wf (fun _ => ScLine.empty) s.sc = true
  nmcs : SMap.wf (fun _ => NmcSt.reset) s.nmcs = true
  homes : SMap.wf (fun _ => HomeSt.reset) s.homes = true
  dlinks : SMap.wf (fun _ => (⟨0xFFFF, 0, 0, [], 0⟩ : DieLink)) s.dlinks = true
  counters : SMap.wf (fun _ => (0 : W64)) s.ev.cnt = true
  mmus : SMap.wf (fun _ => (⟨[], []⟩ : MmuSt)) s.mmus = true
  queues : SMap.wf (fun _ => QueueSt.idle) s.queues = true
  jobs : SMap.wf (fun _ => (none : Option Job)) s.jobs = true
  items : SMap.wf (fun _ => (none : Option Item)) s.items = true
  jseqs : SMap.wf (fun _ => 0) s.jseqs = true
  units : SMap.wf (fun _ => CuSt.reset) s.units = true
  groups : SMap.wf (fun _ => (none : Option Group)) s.groups = true
  vregs : SMap.wf (fun _ => (0 : W32)) s.vregs = true
  ls : SMap.wf (fun _ => (0 : Byte)) s.ls = true
  lsWritten : SMap.wf (fun _ => false) s.lsWritten = true
  cc : SMap.wf (fun _ => CcLine.empty) s.cc = true
  cmes : SMap.wf (fun _ => CmeSt.reset) s.cmes = true
  flows : SMap.wf (fun _ => (none : Option FlowSt)) s.fab.flows = true
  routes : SMap.wf (fun _ => (0 : W64)) s.fab.routes = true
  ports : SMap.wf (fun _ => PortSt.reset) s.fab.ports = true
  seats : SMap.wf (fun _ => Seat.reset) s.seats = true
  harts : SMap.wf (fun _ => Hart.reset) s.harts = true
  imsic : SMap.wf (fun _ => false) s.imsic = true
  powerDies : SMap.wf (fun _ => PwrDie.reset) s.pwr.dies = true

end Sys2Proof.Machine
end

