-- ==== Sys2Proof/Certificates/Slice0/Obligations.lean ====
section
/-! DEFINITION. The statements about the machine, for the provers; Tests/Slice0.lean shows for each that its
hypotheses can be met. -/

open Sys2Proof Sys2Proof.Machine

/-- For every command c, queue rest and state s, the step of s with c at the front of its queue is exec of c on s
with the rest as its queue; the queue itself is the model's (the block has no fetch). On an empty queue the step
answers a next state in which one more reference cycle has passed (model's choice, log entry 1): the queue stays
empty; on a live module DIE_MTIME has counted one and every other register holds; on a module that is not live
nothing else changes. (spec/00_scope.md, spec/opcode_table.json, spec/12_host_cores.md (DIE_MTIME)) -/
def Obligations.StepRunsFrontCommand : Prop :=
  (∀ (c : Instr) (rest : List Instr) (s : State),
    step { s with pending := c :: rest } = exec c { s with pending := rest }) ∧
  (∀ s : State, s.pending = [] →
    ∃ t, step s = .next t ∧ t.now = s.now + 1 ∧ t.pending = [] ∧
      (live s = true →
        t.reg (regAddr (pgDie 2) 0x300) = s.reg (regAddr (pgDie 2) 0x300) + 1 ∧
        ∀ a, a ≠ regAddr (pgDie 2) 0x300 → t.reg a = s.reg a) ∧
      (live s = false → t = { s with now := s.now + 1 }))

/-- For every command and every state, exec answers a next state: each error the spec gives the module is an effect
on its state, never a stop of the model. The commands that wait in that next state are those that waited before;
the queue itself is the model's. (spec/00_scope.md (the module's commands), spec/17_faults_and_replay.md) -/
def Obligations.EveryCommandAnswersNextAndKeepsTheQueue : Prop :=
  ∀ (c : Instr) (s : State), ∃ t, exec c s = .next t ∧ t.pending = s.pending

/-- For every state s, if the step of s answers next t, the fuses of t are those of s, and GLB_CAP0 and GLB_CAP1,
which fuses load, reset to the same values in both. (spec/00_scope.md (R5), spec/01_module_and_dies.md (R23)) -/
def Obligations.FusesNeverChange : Prop :=
  ∀ s t : State, step s = .next t →
    t.fuses = s.fuses ∧ regReset t.fuses (regAddr pgGlb 0x10) = BitVec.ofNat 64 s.fuses.variant.cap0 ∧
      regReset t.fuses (regAddr pgGlb 0x18) = BitVec.ofNat 64 s.fuses.variant.cap1

/-- For every state s whose memory and tables are in canonical form (keys rise strictly, no listed value is the one
that an unlisted key reads as), if the step of s answers next t, those of t are too. The form is the model's
own; with it equal memories and tables are equal data. (spec/02_register_pages.md, spec/09_memory_tiers.md,
spec/11_translation.md) -/
def Obligations.StepKeepsCanonicalForm : Prop :=
  ∀ s t : State, Canonical s → step s = .next t → Canonical t

/-- Memory and every table of the state after reset are in canonical form. Each register holds the value regReset
gives for the module's fuses; CTRL is 0x300 on the pages of work-carrying blocks and 0x301 on the others;
DLK_SHARE is 0x1348; GLB_CAP0 and GLB_CAP1 are the flagship's; ERR_STAT and DSTATE of every page are 0, every
queue's indices are 0, no job is loaded and no command waits. (The module is the flagship, model's choice, log
entry 3.) (spec/02_register_pages.md (R54, R55, R56), spec/01_module_and_dies.md (R29), spec/00_scope.md (R5,
R6)) -/
def Obligations.ResetIsCanonicalAndGivesListedValues : Prop :=
  Canonical State.reset ∧
  (∀ a, State.reset.reg a = regReset Fuses.flagship a) ∧
  (∀ page b i, blockAt page = some (b, i) →
    State.reset.reg (regAddr page 0x30) = (if b.workCarrying then 0x300 else 0x301)) ∧
  (∀ n, n < 10 → State.reset.reg (regAddr (pgDlk n) 0x100) = 0x1348) ∧
  State.reset.reg (regAddr pgGlb 0x10) = 0x0FFFFF07 ∧
  State.reset.reg (regAddr pgGlb 0x18) = 0x0000681000220220 ∧
  (∀ page, State.reset.err page = 0 ∧ State.reset.dst page = 0) ∧
  (∀ q, State.reset.queue q = QueueSt.idle) ∧
  State.reset.jobs = [] ∧ State.reset.items = [] ∧ State.reset.pending = []

/-- With input power, MOD_RESET_ASSERT answers a next state held in reset: every register reads its reset value, no
error is recorded, no job, item or queue entry is left, both hot-swap latches are clear; the fuses, the
committed versions of the well and the boot flash stay, and so does every byte of memory (log entry 5). Without
input power it clears both latches, and the module comes up, held in reset, exactly if a feed then lies within
its band. MOD_RESET_RELEASE of a held module with both feeds good and every rail in regulation runs it, changing
only the pins' reset line and reference and the phase. (spec/01_module_and_dies.md (R34, R37),
spec/02_register_pages.md (R54), spec/22_ratings.md (R549)) -/
def Obligations.ModuleResetReturnsEverything : Prop :=
  (∀ s : State, s.phase ≠ .noInput →
    ∃ t, exec .modResetAssert s = .next t ∧ t.phase = .inReset ∧ t.pins.resetN = false ∧
      (∀ a, t.reg a = regReset s.fuses a) ∧ (∀ page, t.err page = 0 ∧ t.dst page = 0) ∧
      (∀ q, t.queue q = QueueSt.idle) ∧ t.jobs = [] ∧ t.items = [] ∧ t.invs = [] ∧ t.imsic = [] ∧ t.boot.stopped = false ∧
      t.pins.feedA = { s.pins.feedA with latched := false } ∧ t.pins.feedB = { s.pins.feedB with latched := false } ∧
      t.fuses = s.fuses ∧ t.keys = s.keys ∧ t.well.vers = s.well.vers ∧ t.well.nextVer = s.well.nextVer ∧
      t.boot.bankA = s.boot.bankA ∧ t.boot.bankB = s.boot.bankB ∧ ∀ a, t.byte a = s.byte a) ∧
  (∀ s : State, s.phase = .noInput →
    ∃ t, exec .modResetAssert s = .next t ∧ t.pins.resetN = false ∧
      t.pins.feedA = { s.pins.feedA with latched := false } ∧ t.pins.feedB = { s.pins.feedB with latched := false } ∧
      (t.phase = .inReset ↔ s.pins.feedA.cond = .good ∨ s.pins.feedB.cond = .good) ∧ t.well.vers = s.well.vers ∧
      t.regs = s.regs ∧ t.mem = s.mem) ∧
  (∀ s : State, s.phase = .inReset → s.pins.pwrgd = true → s.pins.feedA.ok = true → s.pins.feedB.ok = true →
    exec .modResetRelease s =
      .next { s with pins := { s.pins with resetN := true, refOk := true }, phase := .running })

/-- What a FATAL error of a cause with an INFO leaves, seen at a die (spec/17_faults_and_replay.md R467): the module stopped,
the first cause latched in SEC_FATAL, one in-band interrupt more, nothing logged; the rest of the state held. -/
def FatalFrom (s t : State) (cause info die : Nat) : Prop :=
  t.phase = .fatal ∧
  t.reg (regAddr pgSec 0x210) = (if bit 63 (s.reg (regAddr pgSec 0x210)) then s.reg (regAddr pgSec 0x210)
    else BitVec.ofNat 64 (2 ^ 63 + info % 256 * 2 ^ 16 + cause * 2 ^ 8 + die % 8)) ∧
  t.outs = .ibi s.mgmt.secActive :: s.outs ∧ t.elog = s.elog ∧
  t.mem = s.mem ∧ t.queues = s.queues ∧ t.jobs = s.jobs ∧ t.items = s.items ∧ t.units = s.units ∧
  t.groups = s.groups ∧ t.vregs = s.vregs ∧ t.ls = s.ls ∧ t.fab = s.fab ∧ t.well = s.well

/-- On a running module, a fitted die that detects loss of the reference stops the module with FATAL cause 0x01,
sets its REF_LOST bit and holds everything else; a rail out of regulation drops MOD_PWRGD and stops it with
cause 0x03 and the rail as INFO. While input power is there and some feed carries load, PWRGD_RISE raises
MOD_PWRGD and changes nothing else. (spec/01_module_and_dies.md (R27, R34), spec/17_faults_and_replay.md (R467),
spec/22_ratings.md (R539)) -/
def Obligations.LossOfReferenceOrRailIsFatal : Prop :=
  (∀ (d : Nat) (s : State), s.phase = .running → hasDie s d = true →
    ∃ t, exec (.refLossDetect d) s = .next t ∧ FatalFrom s t 1 0 d ∧ t.pins.refOk = false ∧
      t.regF (pgDie d) 0x108 4 4 = 1 ∧
      (∀ a, a ≠ regAddr (pgDie d) 0x108 → a ≠ regAddr pgSec 0x210 → t.reg a = s.reg a)) ∧
  (∀ (d r : Nat) (s : State), s.phase = .running → hasDie s d = true →
    ∃ t, exec (.railOutOfRegulation d r) s = .next t ∧ FatalFrom s t 3 r d ∧ t.pins.pwrgd = false ∧
      (∀ a, a ≠ regAddr pgSec 0x210 → t.reg a = s.reg a)) ∧
  (∀ s : State, s.phase ≠ .noInput → s.pins.supplied = true →
    exec .pwrgdRise s = .next { s with pins := { s.pins with pwrgd := true } })

/-- What losing the second feed leaves (spec/01_module_and_dies.md R37; spec/09_memory_tiers.md R266): no power but the
hold-up bank's for the well-tier path; every register and byte of memory lost; fuses, well and boot flash kept. -/
def InputLost (s t : State) : Prop :=
  t.phase = .noInput ∧ t.pins.pwrgd = false ∧ t.well.power = .bank ∧ (∀ a, t.byte a = 0) ∧
  (∀ a, t.reg a = regReset s.fuses a) ∧ t.jobs = [] ∧ t.items = [] ∧ (∀ q, t.queue q = QueueSt.idle) ∧
  t.fuses = s.fuses ∧ t.keys = s.keys ∧ t.well.vers = s.well.vers ∧ t.boot.bankA = s.boot.bankA ∧
  t.boot.bankB = s.boot.bankB

/-- What entering one-feed mode leaves (R36, R38; spec/18_power_and_thermal.md R490): ONEFEED 1, the effective cap no more
than 1,800 W and reported, the power-input error recorded. -/
def EnteredOneFeed (s t : State) : Prop :=
  t.phase = s.phase ∧ oneFeed t = true ∧ t.regF (pgPwr 2) 0x110 15 0 = effCap t ∧ effCap t ≤ 1800 ∧
  bit 8 (t.err (pgPwr 2)) = true ∧ t.queues = s.queues ∧ t.jobs = s.jobs ∧ t.items = s.items ∧ t.fab = s.fab

/-- On a running module not in one-feed mode, a feed that falls below 36 V, is shorted outside the module, trips its
hot-swap switch, enters the margin bands or exceeds 62 V changes to that condition and the other feed is as
before; if the other feed carries load the module enters one-feed mode; if neither carries load the input is
lost. A tripped feed is latched off, and a single trip sets TRIP. (spec/01_module_and_dies.md (R36, R37, R38),
spec/22_ratings.md (R538), spec/09_memory_tiers.md (R266), spec/18_power_and_thermal.md (R490)) -/
def Obligations.FeedFaultsGiveOneFeedModeOrLossOfInput : Prop :=
  ∀ (b : Bool) (s : State), s.phase = .running → oneFeed s = false →
    ((feedOf s (!b)).carries = true →
      (∀ dv, dv < 360 → ∃ t, exec (.feedOpen b dv) s = .next t ∧ EnteredOneFeed s t ∧
        feedOf t b = { feedOf s b with cond := .absent, dv := dv } ∧ feedOf t (!b) = feedOf s (!b)) ∧
      (∀ dv, 620 < dv → ∃ t, exec (.feedOvervoltage b dv) s = .next t ∧ EnteredOneFeed s t ∧
        feedOf t b = { feedOf s b with cond := .overOpen, dv := dv } ∧ feedOf t (!b) = feedOf s (!b)) ∧
      (∀ dv, (360 ≤ dv ∧ dv < 400) ∨ (600 < dv ∧ dv ≤ 620) → (feedOf s b).cond ≠ .overOpen →
        ∃ t, exec (.feedOutOfBand b dv) s = .next t ∧ EnteredOneFeed s t ∧
          feedOf t b = { feedOf s b with cond := .margin, dv := dv } ∧ feedOf t (!b) = feedOf s (!b)) ∧
      (∃ t, exec (.feedExternalShort b) s = .next t ∧ EnteredOneFeed s t ∧
        feedOf t b = { feedOf s b with cond := .absent, dv := 0 } ∧ feedOf t (!b) = feedOf s (!b)) ∧
      ((feedOf s b).carries = true → ∃ t, exec (.hotswapTrip b) s = .next t ∧ EnteredOneFeed s t ∧
        feedOf t b = { feedOf s b with latched := true } ∧ feedOf t (!b) = feedOf s (!b) ∧
        t.regF (pgPwr 2) 0x200 2 2 = 1)) ∧
    ((feedOf s (!b)).carries = false →
      (∀ dv, dv < 360 → ∃ t, exec (.feedOpen b dv) s = .next t ∧ InputLost s t) ∧
      (∀ dv, 620 < dv → ∃ t, exec (.feedOvervoltage b dv) s = .next t ∧ InputLost s t) ∧
      (∃ t, exec (.feedExternalShort b) s = .next t ∧ InputLost s t) ∧
      ((feedOf s b).carries = true → ∃ t, exec (.hotswapTrip b) s = .next t ∧ InputLost s t))

/-- A feed that enters 40 V to 60 V, and an opened feed that stays there for 100 ms, becomes good, and nothing else
changes on a module with input; on a module without input, with the feed not latched, the module comes up held
in reset with the well-tier path on its input. A latched feed carries nothing. With both feeds OK on a live
module in one-feed mode, FULL_CAP_RESTORE leaves one-feed mode and the effective cap is PWR_CAP again. After a
loss of input, WELL_POWER_PARKED powers the well-tier path off and changes nothing else.
(spec/01_module_and_dies.md (R36, R37, R38), spec/22_ratings.md (R538), spec/09_memory_tiers.md (R266),
spec/18_power_and_thermal.md (R490)) -/
def Obligations.FeedReturnsPowerAndFullCap : Prop :=
  (∀ (b : Bool) (dv : Nat) (s : State), 400 ≤ dv → dv ≤ 600 →
    ((feedOf s b).cond ≠ .overOpen → s.phase ≠ .noInput →
      exec (.feedGood b dv) s = .next (updFeed s b (fun f => { f with cond := .good, dv := dv }))) ∧
    ((feedOf s b).cond ≠ .overOpen → s.phase = .noInput → (feedOf s b).latched = false →
      ∃ t, exec (.feedGood b dv) s = .next t ∧ t.phase = .inReset ∧ t.well.power = .input ∧
        feedOf t b = ⟨.good, dv, false⟩ ∧ feedOf t (!b) = feedOf s (!b) ∧ t.well.vers = s.well.vers ∧ t.mem = s.mem) ∧
    ((feedOf s b).cond = .overOpen → s.phase ≠ .noInput →
      exec (.feedReclose b dv) s = .next (updFeed s b (fun f => { f with cond := .good, dv := dv })))) ∧
  (∀ s : State, live s = true → s.pins.feedA.ok = true → s.pins.feedB.ok = true → oneFeed s = true →
    ∃ t, exec .fullCapRestore s = .next t ∧ oneFeed t = false ∧
      effCap t = s.regF (pgPwr 2) 0x100 15 0 ∧ t.regF (pgPwr 2) 0x110 15 0 = effCap t ∧ bit 8 (t.err (pgPwr 2)) = true) ∧
  (∀ s : State, hasWell s = true → s.phase = .noInput → s.well.power = .bank →
    exec .wellPowerParked s = .next { s with well := { s.well with power := .off } }) ∧
  (∀ f : Feed, f.latched = true → f.carries = false ∧ f.ok = false)

/-- While Potemir runs: a line stuck low, or one whose open probe fails for the third time in a row, is faulted, and
if that faults the active path while the other is clean, the other becomes active, SW_CNT counts one up to 0xFF
and an in-band interrupt is raised on it; a failed first or second probe only counts, a passed one clears the
count. A line that stayed clean is clean again with its count cleared. GETSTATUS and dynamic addresses are
answered on a path that is not faulted. PRI_RETURN written over an active, clean secondary path makes a clean
primary active. No register, memory byte or piece of work changes. (spec/01_module_and_dies.md (R39, R40, R41,
R42, R44)) -/
def Obligations.ManagementPathSwitchesToTheCleanOne : Prop :=
  ∀ (sec sda : Bool) (s : State), potemirRuns s = true →
    (∃ t, exec (.i3cStuckLow sec sda) s = .next t ∧
      pathOf t sec = (pathOf s sec).setLine sda .stuckLow ∧ pathOf t (!sec) = pathOf s (!sec) ∧
      (if s.mgmt.secActive = sec ∧ (pathOf s (!sec)).faulted = false then
        t.mgmt.secActive = !sec ∧ t.mgmt.swCnt = min 0xFF (s.mgmt.swCnt + 1) ∧ t.outs = .ibi (!sec) :: s.outs
      else t.mgmt.secActive = s.mgmt.secActive ∧ t.outs = s.outs) ∧
      t.regs = s.regs ∧ t.mem = s.mem ∧ t.jobs = s.jobs ∧ t.queues = s.queues) ∧
    (∃ t, exec (.i3cOpenProbe sec sda true) s = .next t ∧
      (if 2 ≤ (if sda then (pathOf s sec).sdaProbes else (pathOf s sec).sclProbes) then
        pathOf t sec = ((pathOf s sec).setProbes sda 3).setLine sda .openLine
      else t.mgmt.secActive = s.mgmt.secActive ∧ t.outs = s.outs ∧
        pathOf t sec = (pathOf s sec).setProbes sda
          ((if sda then (pathOf s sec).sdaProbes else (pathOf s sec).sclProbes) + 1)) ∧
      pathOf t (!sec) = pathOf s (!sec) ∧ t.regs = s.regs ∧ t.mem = s.mem) ∧
    exec (.i3cOpenProbe sec sda false) s = .next (updPath s sec (fun p => p.setProbes sda 0)) ∧
    (∃ t, exec (.i3cLineClean sec sda) s = .next t ∧
      pathOf t sec = ((pathOf s sec).setLine sda .clean).setProbes sda 0 ∧ pathOf t (!sec) = pathOf s (!sec) ∧
      t.regs = s.regs ∧ t.mem = s.mem) ∧
    ((pathOf s sec).faulted = false →
      exec (.i3cGetstatus sec) s = .next { s with outs := .i3cStatus sec (decide (s.mgmt.secActive = sec)) :: s.outs } ∧
      ∀ addr, addr < 128 → ∃ t, exec (.dynamicAddressAssignment sec addr) s = .next t ∧
        pathOf t sec = { pathOf s sec with dynAddr := some addr } ∧ pathOf t (!sec) = pathOf s (!sec) ∧
        t.outs = .i3cAddr sec addr :: s.outs ∧ t.regs = s.regs) ∧
    (s.mgmt.secActive = true → s.mgmt.pri.faulted = false → s.mgmt.sec.faulted = false →
      ∃ t, exec (.priReturn true) s = .next t ∧ t.mgmt.secActive = false ∧
        t.mgmt.swCnt = min 0xFF (s.mgmt.swCnt + 1) ∧ t.outs = s.outs ∧
        t.mgmt.pri = s.mgmt.pri ∧ t.mgmt.sec = s.mgmt.sec ∧ t.regs = s.regs)

/-- An error at a page that names a block, seen from outside: what raiseWith must leave (spec/17_faults_and_replay.md R462,
R464, R466). Nothing but the error bit, the error log, its ring and its interrupt write, and event counters changes. -/
def ErrorRecorded (s t : State) (page n : Nat) : Prop :=
  t.err page = setBit n (s.err page) true ∧ (∀ p, p ≠ page → t.err p = s.err p) ∧ (∀ a, t.reg a = s.reg a) ∧
  (∀ p, t.dst p = s.dst p) ∧ t.phase = s.phase ∧ t.queues = s.queues ∧ t.jobs = s.jobs ∧ t.items = s.items ∧
  t.units = s.units ∧ t.groups = s.groups ∧ t.vregs = s.vregs ∧ t.ls = s.ls ∧ t.cc = s.cc ∧ t.sc = s.sc ∧
  t.homes = s.homes ∧ t.fab = s.fab ∧ t.seats = s.seats ∧ t.well = s.well ∧ t.sump = s.sump ∧ t.pwr = s.pwr

/-- Record i of the error log lies here (R464). -/
def elogAddr (s : State) (i : Nat) : Nat :=
  s.regF pgGlb 0x180 51 12 * 4096 + i % 2 ^ s.regF pgGlb 0x180 4 0 * 32

/-- An error n at a page that names a block sets bit n of the page's ERR_STAT and leaves every register and all work
as it was. A masked error, or one of class FATAL, or any error while the log is off, writes no record. With the
log on, the bit unmasked and not suppressed and room in the ring, record GLB_ELOGPROD is written at its place
with the 32 bytes of R464, the index advances modulo 2^32, and with MSIEN = 0 no other byte of memory changes;
with no room LOST counts one. (spec/17_faults_and_replay.md (R462, R463, R464, R466, R467)) -/
def Obligations.RaisedErrorIsRecordedAndLogged : Prop :=
  ∀ (s : State) (page n : Nat) (e : ErrInfo) (b : Block) (i : Nat), blockAt page = some (b, i) →
    ErrorRecorded s (raiseWith s page n e) page n ∧
    (bit n (s.reg (regAddr page 0x48)) = true ∨ (errClass b n).1 = 3 ∨ bit 11 (s.reg (regAddr pgGlb 0x180)) = false →
      (raiseWith s page n e).elog = s.elog ∧ ∀ a, (raiseWith s page n e).byte a = s.byte a) ∧
    (bit n (s.reg (regAddr page 0x48)) = false → (errClass b n).1 ≠ 3 → bit 11 (s.reg (regAddr pgGlb 0x180)) = true →
      suppressed s page n = false →
      (idxSub s.elog.prod s.elog.cons < 2 ^ s.regF pgGlb 0x180 4 0 →
        (raiseWith s page n e).elog.prod = (s.elog.prod + 1) % 2 ^ 32 ∧
        (raiseWith s page n e).elog.cons = s.elog.cons ∧
        (bit 10 (s.reg (regAddr pgGlb 0x180)) = false →
          (∀ k, k < 32 → (raiseWith s page n e).byte (elogAddr s s.elog.prod + k) =
            (elogRecord (s.regF pgGlb 0x180 4 0) s.elog.prod page b i n e).getD k 0) ∧
          (∀ a, a < elogAddr s s.elog.prod ∨ elogAddr s s.elog.prod + 32 ≤ a →
            (raiseWith s page n e).byte a = s.byte a))) ∧
      (2 ^ s.regF pgGlb 0x180 4 0 ≤ idxSub s.elog.prod s.elog.cons →
        (raiseWith s page n e).elog = { s.elog with lost := min 0xFFFFFFFF (s.elog.lost + 1) } ∧
        ∀ a, (raiseWith s page n e).byte a = s.byte a))

/-- On a live module, for an address of the aperture: a requester that the aperture refuses (a device, or a hart
through a mapping that is not IO) changes nothing and the refusal is shown; a write to an absent page changes
nothing; on a present page a write that is not 64 bits wide and aligned is discarded and sets ACCESS; a write of
ERR_STAT clears the bits written 1 and nothing else; a write of ERR_MASK stores it and changes nothing else; a
write of a header offset that is reserved or read-only changes nothing. A misaligned read of a present page
returns 0 and sets ACCESS, of an absent one it returns 0. (spec/02_register_pages.md (R45, R48, R49, R50, R53,
R55), spec/00_scope.md (R8)) -/
def Obligations.RegisterAccessRulesHold : Prop :=
  ∀ (req : Requester) (io : Bool) (addr : Nat) (s : State), live s = true → inAperture addr = true →
    (refusesAccess req io = true →
      (∀ size v, exec (.regWrite req io addr size v) s = .next { s with outs := .refusedAccess addr :: s.outs }) ∧
      (∀ size, 0 < size → addr % size ≠ 0 →
        exec (.regReadMisaligned req io addr size) s = .next { s with outs := .refusedAccess addr :: s.outs })) ∧
    (refusesAccess req io = false → presentPage s (pageOf addr) = none →
      (∀ size v, exec (.regWrite req io addr size v) s = .next s) ∧
      (∀ size, 0 < size → addr % size ≠ 0 →
        exec (.regReadMisaligned req io addr size) s = .next { s with outs := .readResult addr 0 :: s.outs })) ∧
    (refusesAccess req io = false → ∀ b i, presentPage s (pageOf addr) = some (b, i) →
      (∀ size v, size ≠ 8 ∨ offOf addr % 8 ≠ 0 →
        exec (.regWrite req io addr size v) s = .next (raise s (pageOf addr) 1)) ∧
      (∀ v, offOf addr = 0x40 → ∃ t, exec (.regWrite req io addr 8 v) s = .next t ∧
        t.err (pageOf addr) = s.err (pageOf addr) &&& ~~~v ∧ (∀ p, p ≠ pageOf addr → t.err p = s.err p) ∧
        t.regs = s.regs ∧ t.elog = s.elog ∧ t.mem = s.mem ∧ t.jobs = s.jobs ∧ t.queues = s.queues) ∧
      (∀ v, offOf addr = 0x48 →
        exec (.regWrite req io addr 8 v) s = .next (s.setReg (regAddr (pageOf addr) 0x48) v)) ∧
      (∀ v, offOf addr % 8 = 0 → offOf addr < 0x30 ∨ offOf addr = 0x38 ∨ offOf addr = 0x58 ∨
          (0xA8 ≤ offOf addr ∧ offOf addr < 0x100) →
        exec (.regWrite req io addr 8 v) s = .next s) ∧
      (∀ size, 0 < size → addr % size ≠ 0 → ∃ t, exec (.regReadMisaligned req io addr size) s = .next t ∧
        ErrorRecorded { s with outs := .readResult addr 0 :: s.outs } t (pageOf addr) 1))

/-- On a live module, for a present page other than a queue or far-memory page: a CTRL write whose GENSEL is 0 or
names a generation the block does not serve, or changes while EN is 1, or clears EN while work is pending, is
rejected: REGWR is set and nothing else changes. Any other CTRL write stores EN, EVFRZ and GENSEL and changes
nothing else. An ERR_INJ write while injection is off is rejected. (spec/02_register_pages.md (R53, R55, R57,
R64)) -/
def Obligations.ControlWriteFollowsGenerationRules : Prop :=
  ∀ (page : Nat) (v : W64) (b : Block) (i : Nat) (s : State), live s = true → presentPage s page = some (b, i) →
    (b ≠ .que → b ≠ .fmc →
      (fld 9 8 v = 0 ∨ nbit (fld 9 8 v - 1) b.ver = false ∨ (s.en page = true ∧ fld 9 8 v ≠ s.gensel page) ∨
          (bit 0 v = false ∧ workPending s page ≠ 0) →
        ∃ t, exec (.ctrlWrite page v) s = .next t ∧ ErrorRecorded s t page 0) ∧
      (fld 9 8 v ≠ 0 → nbit (fld 9 8 v - 1) b.ver = true → (s.en page = true → fld 9 8 v = s.gensel page) →
          (bit 0 v = false → workPending s page = 0) →
        ∃ t, exec (.ctrlWrite page v) s = .next t ∧ t = s.setReg (regAddr page 0x30) (v &&& 0x311) ∧
          t.en page = bit 0 v ∧ t.gensel page = fld 9 8 v)) ∧
    (bit 0 (s.reg (regAddr pgGlb 0x138)) = false →
      ∃ t, exec (.errInjWrite page v) s = .next t ∧ ErrorRecorded s t page 0)

/-- On a live module, for the present page of a work-carrying block (of a harness engine only DRAIN and RESUME,
whose ABORT acts as DRAIN): a block accepts new work exactly while EN = 1 and DSTATE is RUNNING. DRAIN: RUNNING
becomes DRAINING (and at once STOPPED if nothing is pending), ABORTING rejects it, DRAINING and STOPPED are not
affected. ABORT: RUNNING and DRAINING become ABORTING; ABORTING and STOPPED are not affected. RESUME: STOPPED
becomes RUNNING, RUNNING is not affected, DRAINING and ABORTING reject it. A write of CMD = 0 has no effect.
(R60) -/
def Obligations.DrainCommandMovesDstate : Prop :=
  ∀ (page : Nat) (b : Block) (i : Nat) (s : State), live s = true → presentPage s page = some (b, i) →
    b.workCarrying = true →
    (s.accepts page = true ↔ s.en page = true ∧ s.dst page = 0) ∧
    (s.dst page = 0 → ∃ t, exec (.blockDrain page) s = .next t ∧
      t.dst page = (if workPending (s.setDst page 1) page = 0 then 2 else 1) ∧ (b ≠ .cu → ∀ a, t.reg a = s.reg a)) ∧
    (s.dst page = 3 → ∃ t, exec (.blockDrain page) s = .next t ∧ ErrorRecorded s t page 0) ∧
    (s.dst page = 1 ∨ s.dst page = 2 → exec (.blockDrain page) s = .next s) ∧
    (b ≠ .har → s.dst page = 0 ∨ s.dst page = 1 → exec (.blockAbort page) s = .next (s.setDst page 3)) ∧
    (b ≠ .har → s.dst page = 2 ∨ s.dst page = 3 → exec (.blockAbort page) s = .next s) ∧
    (s.dst page = 2 → ∃ t, exec (.blockResume page) s = .next t ∧ t.dst page = 0) ∧
    (s.dst page = 0 → exec (.blockResume page) s = .next s) ∧
    (s.dst page = 1 ∨ s.dst page = 3 → ∃ t, exec (.blockResume page) s = .next t ∧ ErrorRecorded s t page 0) ∧
    (∀ addr v, inAperture addr = true → pageOf addr = page → offOf addr = 0xA0 → fld 1 0 v = 0 →
      exec (.regWrite .potemir true addr 8 v) s = .next s)

/-- On a live module: a draining block with no work pending is STOPPED by BLOCK_DRAIN_DONE, with no register changed
(a compute unit deals its queued items to others), and one with work pending is left as it is; an aborting tile
mover or harness engine is STOPPED by BLOCK_ABORT_DONE; an aborting cache-maintenance engine whose one request
was made by CME_GO is STOPPED, holds no request, and the completion record of the request, kind 5 and status
ABORTED with its tag, is posted on its queue. (spec/02_register_pages.md (R61, R62), spec/08_cu_memory.md
(R231)) -/
def Obligations.StoppedBlockHasFinishedItsWork : Prop :=
  ∀ (page : Nat) (b : Block) (i : Nat) (s : State), live s = true → presentPage s page = some (b, i) →
    (s.dst page = 1 → workPending s page = 0 →
      ∃ t, exec (.blockDrainDone page) s = .next t ∧ t.dst page = 2 ∧ (b ≠ .cu → ∀ a, t.reg a = s.reg a)) ∧
    (s.dst page = 1 → workPending s page ≠ 0 → exec (.blockDrainDone page) s = .next s) ∧
    (s.dst page = 3 → b = .pmp ∨ b = .har → exec (.blockAbortDone page) s = .next (s.setDst page 2)) ∧
    (∀ d r q tag, page = pgCme d → s.dst page = 3 → (s.cme d).reqs = [r] → r.rec? = some (q, tag) →
      exec (.blockAbortDone page) s = .next
        ((postRec (s.setCme d { s.cme d with reqs := [] }) q
          { kind := 5, status := stAborted, detail := d, tag := tag }).setDst page 2))

/-- On a live module: a valid EVSEL write to a counter that the page has stores its writable bits and nothing else
changes, an invalid one is rejected. A counter that counts and is carried past 2^48 - 1 by n more events wraps
with OVF set; the overflow that sets OVF with OVIE = 1 is written to GLB_EVLAST first, its count saturating.
When the hold-off ends with nothing owed only the hold-off ends; with an announcement owed and enabled, the
interrupt write is made and a new hold-off begins. With injection on, an ERR_INJ write on a block whose errors
all wait for an occasion arms exactly the injectable bits written. (spec/20_counters_and_debug.md (R523, R526,
R527), spec/17_faults_and_replay.md (R482)) -/
def Obligations.EventCountersSelectCountAndAnnounce : Prop :=
  (∀ (page n : Nat) (v : W64) (s : State), live s = true → hasCounter s page n = true →
    (selOk s page n v = true →
      exec (.evselWrite page n v) s = .next (s.setReg (evselAddr page n) (v &&& BitVec.ofNat 64 (selMask page n)))) ∧
    (selOk s page n v = false → ∃ t, exec (.evselWrite page n v) s = .next t ∧ ErrorRecorded s t page 0)) ∧
  (∀ (page c n : Nat) (b : Block) (i : Nat) (s : State), live s = true → presentPage s page = some (b, i) →
    hasCounter s page c = true → bit 16 (s.reg (evselAddr page c)) = true → bit 4 (s.reg (regAddr page 0x30)) = false →
    fld 15 0 (s.reg (evselAddr page c)) ≠ 0 → 2 ^ 48 ≤ fld 47 0 (s.evcnt (evcntAddr page c)) + n →
    ∃ t, exec (.evcntOverflow page c n) s = .next t ∧ bit 63 (t.evcnt (evcntAddr page c)) = true ∧
      fld 47 0 (t.evcnt (evcntAddr page c)) = (fld 47 0 (s.evcnt (evcntAddr page c)) + n) % 2 ^ 48 ∧
      (∀ a, a ≠ evcntAddr page c → t.evcnt a = s.evcnt a) ∧ (∀ a, t.reg a = s.reg a) ∧
      (bit 63 (s.evcnt (evcntAddr page c)) = false → bit 17 (s.reg (evselAddr page c)) = true →
        fld 63 48 t.ev.last = min 0xFFFF (fld 63 48 s.ev.last + 1) ∧ fld 47 45 t.ev.last = page / 8192 ∧
        fld 44 32 t.ev.last = i % 8192 ∧ fld 23 16 t.ev.last = b.code ∧ fld 5 0 t.ev.last = c) ∧
      (bit 63 (s.evcnt (evcntAddr page c)) = true ∨ bit 17 (s.reg (evselAddr page c)) = false → t.ev.last = s.ev.last)) ∧
  (∀ s : State, live s = true → s.ev.holdoff = true →
    (s.ev.owed = false → exec .evmsiHoldoffExpire s = .next { s with ev := { s.ev with holdoff := false, owed := false } }) ∧
    (s.ev.owed = true → bit 0 (s.reg (regAddr pgGlb 0x1C0)) = true →
      exec .evmsiHoldoffExpire s = .next (msiWrite { s with ev := { s.ev with holdoff := true, owed := false } }
        (s.regF pgGlb 0x1C0 51 2 * 4) (s.reg (regAddr pgGlb 0x1C8)).toNat))) ∧
  (∀ (page : Nat) (v : W64) (b : Block) (i : Nat) (s : State), live s = true → presentPage s page = some (b, i) →
    bit 0 (s.reg (regAddr pgGlb 0x138)) = true → b ≠ .dlk → b ≠ .mxe → b ≠ .grp → b ≠ .hlp →
    ∃ t, exec (.errInjWrite page v) s = .next t ∧ (∀ a, t.reg a = s.reg a) ∧ t.errs = s.errs ∧
      (∀ p n, armedAt t p n = (armedAt s p n ||
        (decide (p = page ∧ n < 64) && nbit n v.toNat && nbit n b.injectable))))

/-- On a live module with the link fitted: a DLK_SHARE write takes effect, shares and LOCK together, exactly if LOCK
is 0, DBG is at least 1 and the four shares sum to 16; then the register holds its defined bits and nothing else
changes. Any other write changes no register and sets bit 0 of DLK_ERR_STAT. (R30) -/
def Obligations.DieLinkSharesObeyTheSlotRule : Prop :=
  ∀ (n : Nat) (v : W64) (s : State), live s = true → hasDlk s n = true →
    (bit 16 (s.reg (regAddr (pgDlk n) 0x100)) = false → 1 ≤ fld 15 12 v →
      fld 15 12 v + fld 11 8 v + fld 7 4 v + fld 3 0 v = 16 →
      exec (.dlkShareWrite n v) s = .next (s.setReg (regAddr (pgDlk n) 0x100) (BitVec.ofNat 64 (fld 16 0 v)))) ∧
    (bit 16 (s.reg (regAddr (pgDlk n) 0x100)) = true ∨ fld 15 12 v = 0 ∨
        fld 15 12 v + fld 11 8 v + fld 7 4 v + fld 3 0 v ≠ 16 →
      ∃ t, exec (.dlkShareWrite n v) s = .next t ∧ ErrorRecorded s t (pgDlk n) 0)

/-- On a live module with the link up and no error armed: the expected flit that passes is delivered once and the
next sequence number is expected, another changes nothing; a flit that fails delivers nothing, keeps the
expected number, counts one resend, and sets CRCRETRY; if it is the slice's 16th failure in 2^20 rounds or the
flit's eighth resend, the slice is retired, and a link with fewer than 8 slices left stops the module.
(spec/01_module_and_dies.md (R32), spec/17_faults_and_replay.md (R476)) -/
def Obligations.DieLinkDeliversEachFlitOnce : Prop :=
  ∀ (n seq round sl : Nat) (s : State), live s = true → hasDlk s n = true →
    bit 0 (s.reg (regAddr (pgDlk n) 0x108)) = true → armedAt s (pgDlk n) 8 = false →
    (seq = (s.dlink n).rxSeq → ∃ t, exec (.dlkFlitReceive n seq round sl true) s = .next t ∧
      t.dlink n = { s.dlink n with rxSeq := seq + 1, resends := 0, delivered := (s.dlink n).delivered + 1 } ∧
      (∀ m, m ≠ n → t.dlink m = s.dlink m) ∧ (∀ a, t.reg a = s.reg a) ∧ t.errs = s.errs ∧ t.phase = s.phase) ∧
    (seq ≠ (s.dlink n).rxSeq → exec (.dlkFlitReceive n seq round sl true) s = .next s) ∧
    (∃ t, exec (.dlkFlitReceive n seq round sl false) s = .next t ∧ bit 8 (t.err (pgDlk n)) = true ∧
      (t.dlink n).rxSeq = (s.dlink n).rxSeq ∧ (t.dlink n).delivered = (s.dlink n).delivered ∧
      (let fails := (sl, round) :: (s.dlink n).fails.filter (fun p => decide (round < p.2 + 2 ^ 20))
       let retire := 16 ≤ (fails.filter (fun p => p.1 == sl)).length ∨ 8 ≤ (s.dlink n).resends + 1
       let left := maskOf ((maskBits 16 (s.dlink n).slices).filter (· != sl))
       (t.dlink n).fails = fails ∧
       (¬ retire → (t.dlink n).slices = (s.dlink n).slices ∧ (t.dlink n).resends = (s.dlink n).resends + 1 ∧
         t.phase = s.phase) ∧
       (retire → (t.dlink n).slices = left ∧ bit 9 (t.err (pgDlk n)) = true ∧
         t.phase = (if popCount 16 left < 8 then .fatal else s.phase))))

/-- The descriptor d, accepted at index idx of queue q with opcode opc, starts now: the module is live, R356 lets it start,
and none of its accesses waits in the sump. -/
def Starts (s : State) (q idx opc : Nat) (d : Desc) : Prop :=
  live s = true ∧ descAt s q idx = some d ∧ d.opc = opc ∧ mayStart s q d = true ∧ inSump s (descRq s q d).waiter = false

/-- A queue may be served now (R350). -/
def Served (s : State) (q : Nat) : Prop := live s = true ∧ q < 4096 ∧ mayFetch s q = true

/-- Where record i of a queue's completion ring lies, and the record as it stands there with PHASE and VER (R347, R359). -/
def recAddr (s : State) (q : Nat) : Nat :=
  s.regF (pgQue q) 0x110 51 12 * 4096 + (s.queue q).cprod % 2 ^ cqlog s q * 32
def recStored (s : State) (q : Nat) (f : RecF) : List Byte :=
  f.bytes.set 1 (BitVec.ofNat 8 ((if (s.queue q).cprod / 2 ^ cqlog s q % 2 = 1 then 4 else 0) + s.gensel (pgQue q)))

/-- The CMD record of a descriptor (R359, R360). -/
def cmdRec (d : Desc) (status value : Nat) : RecF :=
  { kind := 1, status := status, didx := d.idx, tag := d.tag, value := value, irq := d.irq,
    job := if d.opc = 1 then (if status = stOk then value % 64 else 0) else if hasJob d.opc then d.op 24 1 % 64 else 0 }

/-- When a descriptor ends without a flush to run (CFLUSH 0, or a status other than OK) it is in flight no more;
with the completion ring not full, no record waiting and the interrupts of the queue and of the event counters
off, the 32 bytes of its record are written at the place of QUE_CPROD with PHASE and VER in byte 1, QUE_CPROD
advances modulo 2^32, and no other byte of memory changes; with the ring full or records waiting it waits behind
them and memory stays. In each case no register, no other queue, no job and no item changes. With CFLUSH 1 and
status OK it stays in flight while its flush runs, and no record is written. (spec/13_queues.md (R347, R359,
R360, R362, R364)) -/
def Obligations.FinishedDescriptorPostsItsRecord : Prop :=
  ∀ (s : State) (q idx status value : Nat) (d : Desc), descAt s q idx = some d →
    let t := finishDesc s q idx status value
    (∀ a, t.reg a = s.reg a) ∧ (∀ p, p ≠ q → t.queue p = s.queue p) ∧ t.jobs = s.jobs ∧ t.items = s.items ∧ t.errs = s.errs ∧
    (d.cflush = false ∨ status ≠ stOk →
      (t.queue q).inflight = (s.queue q).inflight.filter (fun x => x.idx != d.idx) ∧
      ((s.queue q).waiting = [] → cqRoom s q = true → bit 12 (s.reg (regAddr (pgQue q) 0x100)) = false →
        bit 0 (s.reg (regAddr pgGlb 0x1C0)) = false →
        (t.queue q).cprod = ((s.queue q).cprod + 1) % 2 ^ 32 ∧ (t.queue q).waiting = [] ∧
        (∀ k, k < 32 → t.byte (recAddr s q + k) = (recStored s q (cmdRec d status value)).getD k 0) ∧
        (∀ a, a < recAddr s q ∨ recAddr s q + 32 ≤ a → t.byte a = s.byte a)) ∧
      ((s.queue q).waiting ≠ [] ∨ cqRoom s q = false →
        (t.queue q).waiting = (s.queue q).waiting ++ [(cmdRec d status value).toRec] ∧
        (t.queue q).cprod = (s.queue q).cprod ∧ ∀ a, t.byte a = s.byte a)) ∧
    (d.cflush = true → status = stOk →
      ((t.queue q).inflight.any (fun x => x.idx == idx)) = true ∧ (t.queue q).cprod = (s.queue q).cprod ∧
      (t.queue q).waiting = (s.queue q).waiting ∧ ∀ a, t.byte a = s.byte a)

/-- On a live module with queue q below 4,096: a doorbell on an enabled queue that stays within the ring and moves
forward sets QUE_PIDX and nothing else; one beyond the ring, backward, or on a disabled queue is rejected and
sets DBRANGE as well. A QUE_CCONS value more than the ring behind QUE_CPROD is rejected; another is taken, and
with no record waiting nothing else changes. A QUE_FETCH write is rejected unless the queue is STOPPED and the
value not past QUE_PIDX, and otherwise sets only the fetch index. (spec/13_queues.md (R347, R349, R362, R369)) -/
def Obligations.DoorbellsAndRingIndicesFollowTheirRules : Prop :=
  ∀ (q : Nat) (v : W64) (s : State), live s = true → q < 4096 →
    (s.en (pgQue q) = true → idxSub (fld 31 0 v) (s.queue q).fetch ≤ 2 ^ sqlog s q →
      idxSub (fld 31 0 v) (s.queue q).pidx < 2 ^ 31 →
      exec (.doorbell q v) s = .next (s.setQueue q { s.queue q with pidx := fld 31 0 v })) ∧
    (s.en (pgQue q) = false ∨ 2 ^ sqlog s q < idxSub (fld 31 0 v) (s.queue q).fetch ∨
        2 ^ 31 ≤ idxSub (fld 31 0 v) (s.queue q).pidx →
      ∃ t, exec (.doorbell q v) s = .next t ∧ bit 0 (t.err (pgQue q)) = true ∧ bit 9 (t.err (pgQue q)) = true ∧
        t.queues = s.queues ∧ ∀ a, t.reg a = s.reg a) ∧
    (2 ^ cqlog s q < idxSub (s.queue q).cprod (fld 31 0 v) →
      ∃ t, exec (.queCconsWrite q v) s = .next t ∧ ErrorRecorded s t (pgQue q) 0) ∧
    (idxSub (s.queue q).cprod (fld 31 0 v) ≤ 2 ^ cqlog s q → (s.queue q).waiting = [] →
      exec (.queCconsWrite q v) s = .next (s.setQueue q { s.queue q with ccons := fld 31 0 v })) ∧
    (s.dst (pgQue q) = 2 → idxSub (fld 31 0 v) (s.queue q).fetch ≤ idxSub (s.queue q).pidx (s.queue q).fetch →
      exec (.queFetchWrite q v) s = .next (s.setQueue q { s.queue q with fetch := fld 31 0 v })) ∧
    (s.dst (pgQue q) ≠ 2 ∨ idxSub (s.queue q).pidx (s.queue q).fetch < idxSub (fld 31 0 v) (s.queue q).fetch →
      ∃ t, exec (.queFetchWrite q v) s = .next t ∧ ErrorRecorded s t (pgQue q) 0)

/-- For a queue that may be served, with no injected error armed and the descriptor's line not poisoned. Let b be
the 64 bytes at the place of QUE_FETCH. If b is current and well formed, DESC_FETCH (no re-read owed) and
STALE_REREAD (one owed) accept it: QUE_FETCH advances, the descriptor is in flight last with its bytes and
index, and no job or item changes. If b is current and malformed, the fetch index advances and a MALFORMED
record with its index and TAG is due. If b is not current, a first read makes one re-read owed and nothing else
of the queue changes; a re-read that finds it so again counts up to the limit, and at the limit STALEDESC is
recorded and the queue drains. (spec/13_queues.md (R347, R348, R350, R351, R352, R355)) -/
def Obligations.QueueFetchAcceptsCurrentDescriptors : Prop :=
  ∀ (q : Nat) (s : State), Served s q → s.elog.armed = [] →
    let i := (s.queue q).fetch
    let s0 := disarm s (pgQue q) 8
    let s1 := (homeRead s0 7 (descPa s q i) 64).2.2
    let b := (homeRead s0 7 (descPa s q i) 64).1
    (homeRead s0 7 (descPa s q i) 64).2.1 = false →
    ((s.queue q).rereads = 0 → descCurrent s q i b = true → descOk b = true →
      ∃ t d, exec (.descFetch q) s = .next t ∧ d.idx = i ∧ d.bytes = b ∧ d.ord = s.accepted ∧ d.stage = .accepted ∧
        t.accepted = s.accepted + 1 ∧
        t.queue q = { s.queue q with fetch := (i + 1) % 2 ^ 32, rereads := 0, inflight := (s.queue q).inflight ++ [d] } ∧
        (∀ p, p ≠ q → t.queue p = s.queue p) ∧ t.jobs = s.jobs ∧ t.items = s.items ∧ ∀ a, t.reg a = s.reg a) ∧
    ((s.queue q).rereads = 0 → descCurrent s q i b = true → descOk b = false →
      exec (.descFetch q) s = .next (postRec
        (s1.setQueue q { s.queue q with fetch := (i + 1) % 2 ^ 32, rereads := 0 }) q
        { kind := 1, status := stMalformed, didx := i, tag := fieldAt b 8 4, irq := nbit 3 (fieldAt b 1 1) })) ∧
    ((s.queue q).rereads = 0 → descCurrent s q i b = false →
      exec (.descFetch q) s = .next (s1.setQueue q { s.queue q with rereads := 1 })) ∧
    ((s.queue q).rereads ≠ 0 →
      let r := countEv s (pgQue q) 2 1
      let b' := (homeRead (disarm r (pgQue q) 8) 7 (descPa s q i) 64).1
      (homeRead (disarm r (pgQue q) 8) 7 (descPa s q i) 64).2.1 = false →
      (descCurrent s q i b' = false → s.regF (pgQue q) 0x138 7 0 ≤ (s.queue q).rereads →
        ∃ t, exec (.staleReread q) s = .next t ∧ t.dst (pgQue q) = 1 ∧ bit 8 (t.err (pgQue q)) = true ∧
          (t.queue q).stale = true ∧ (t.queue q).fetch = i ∧ (t.queue q).inflight = (s.queue q).inflight) ∧
      (descCurrent s q i b' = false → (s.queue q).rereads < s.regF (pgQue q) 0x138 7 0 →
        ∃ t, exec (.staleReread q) s = .next t ∧ t.queue q = { s.queue q with rereads := (s.queue q).rereads + 1 } ∧
          t.dst (pgQue q) = s.dst (pgQue q)) ∧
      (descCurrent s q i b' = true → descOk b' = true →
        ∃ t d, exec (.staleReread q) s = .next t ∧ d.idx = i ∧ d.bytes = b' ∧ d.stage = .accepted ∧
          t.queue q = { s.queue q with fetch := (i + 1) % 2 ^ 32, rereads := 0, inflight := (s.queue q).inflight ++ [d] }))

/-- A descriptor that starts: NOP ends OK. CMEOP (CLEAN, INVAL or FLUSH) that names a C-die not fitted ends
NOTPRESENT; one that names a unit that is not in service ends BADSTATE; one that names one fitted C-die waits
for one request, the last of that engine, with its operation, range and targets. HINT for a job not loaded ends
BADSTATE; for a loaded one it waits, and one message for each C-die of the job's DIEMASK (and each X-die, for
classes 2 and 7) is on its way. HINT_MSG takes the oldest message to the die off, an X-die applies the hint at
once, and the last one ends the descriptor OK. (spec/13_queues.md (R356, R358), spec/08_cu_memory.md (R226,
R227), spec/18_power_and_thermal.md (R492)) -/
def Obligations.SimpleDescriptorsTakeTheirEffect : Prop :=
  (∀ (q idx : Nat) (d : Desc) (s : State), Starts s q idx 0x00 d →
    exec (.nop q idx) s = .next (finishDesc s q idx stOk 0)) ∧
  (∀ (q idx : Nat) (d : Desc) (s : State), Starts s q idx 0x18 d →
    ∀ c, (c, d.op 40 1 % 4) ∈ [(Instr.cmeopClean q idx, 1), (.cmeopInval q idx, 2), (.cmeopFlush q idx, 3)] →
    ((maskBits 8 (d.op 44 1)).any (fun x => !hasCdie s x) = true →
      exec c s = .next (finishDesc s q idx stNotPresent 0)) ∧
    ((maskBits 8 (d.op 44 1)).all (hasCdie s) = true → d.op 42 2 ≠ 0x3FF → d.op 42 2 ≥ 576 → d.op 44 1 % 256 ≠ 0 →
      exec c s = .next (finishDesc s q idx stBadState 0)) ∧
    (∀ x, maskBits 8 (d.op 44 1) = [x] → hasCdie s x = true → d.op 42 2 = 0x3FF →
      ∃ t, exec c s = .next t ∧ descAt t q idx = some { d with stage := .started, waits := 1 } ∧
        (t.cme x).reqs ++ (t.cme x).backlog = (s.cme x).reqs ++ (s.cme x).backlog ++
          [⟨d.op 40 1 % 4, d.op 24 8, d.op 32 8, qaspace s q, 0x3FF, nbit 2 (d.op 40 1), nbit 3 (d.op 40 1), none, some (q, idx)⟩] ∧
        (∀ y, y ≠ x → t.cme y = s.cme y) ∧ (∀ a, t.reg a = s.reg a) ∧ t.mem = s.mem ∧ t.jobs = s.jobs)) ∧
  (∀ (q idx : Nat) (d : Desc) (s : State), Starts s q idx 0x1F d →
    (s.job (d.op 24 1 % 64) = none → exec (.hint q idx) s = .next (finishDesc s q idx stBadState 0)) ∧
    (∀ j, s.job (d.op 24 1 % 64) = some j →
      let h : PHint := ⟨d.op 24 1 % 64, d.op 25 1 % 8, d.op 32 8, d.op 40 8 % 2 ^ 48⟩
      let ds := (maskBits 2 j.diemask).filter (hasCdie s) ++ (if h.pclass = 2 ∨ h.pclass = 7 then [3, 4] else [])
      ds ≠ [] → ∃ t, exec (.hint q idx) s = .next t ∧
        t.pwr.hintMsgs = s.pwr.hintMsgs ++ ds.map (fun c => (c, h, q, idx)) ∧
        descAt t q idx = some { d with stage := .started, waits := ds.length } ∧ (∀ a, t.reg a = s.reg a))) ∧
  (∀ (d q idx : Nat) (h : PHint) (x : Desc) (s : State), live s = true → 3 ≤ d →
    s.pwr.hintMsgs.find? (fun m => m.1 == d) = some (d, h, q, idx) → descAt s q idx = some x → x.opc = 0x1F →
    x.stage = .started → x.waits ≤ 1 → x.cflush = false →
    ∃ t, exec (.hintMsg d) s = .next t ∧ t.pwr.hintMsgs = dropFirst (fun m => m.1 == d) s.pwr.hintMsgs ∧
      (t.pdie d).hint = some h ∧ (t.pdie d).mainStep = 0 ∧ descAt t q idx = none)

/-- A LOAD that starts and whose image can be read without poison (it stays started, with nothing loaded, while a
read of the image waits for a translation): a bad header ends BADIMAGE; else a bad digest or a form that is not
well formed ends BADIMAGE; else reserved bits that are not 0 end MALFORMED; else something not fitted ends
NOTPRESENT; else an arena that is too small or not writable, or a space that is not valid, or no free job number
ends NORESOURCE; else the image is written to the arena and the job of the image exists, LOADED, at the lowest
free job number, which is the record's VALUE. (spec/03_stations_and_streams.md (R84, R87, R88, R89),
spec/13_queues.md (R356)) -/
def Obligations.LoadCreatesACheckedJob : Prop :=
  (∀ (q idx : Nat) (d : Desc) (s s1 : State), Starts s q idx 0x01 d →
    rqRead s (descRq s q d) (d.op 24 8) 256 = (none, s1) →
    exec (.load q idx) s = .next (updDesc s1 q idx (fun x => { x with stage := .stalled }))) ∧
  (∀ (q idx : Nat) (d : Desc) (s s1 : State) (h : List Byte), Starts s q idx 0x01 d →
    rqRead s (descRq s q d) (d.op 24 8) 256 = (some (h, false), s1) →
    (headerOk h = false → exec (.load q idx) s = .next (finishDesc s1 q idx stBadImage 0)) ∧
    (headerOk h = true → ∀ (img : List Byte) (s2 : State),
      rqRead s1 (descRq s q d) (d.op 24 8) (fieldAt h 8 8) = (some (img, false), s2) →
      let j := imageJob img (qaspace s q) (d.op 32 8) (d.op 40 8) q
      (headerOk img = false ∨ digestOk img = false ∨ wellFormed img j = false →
        exec (.load q idx) s = .next (finishDesc s2 q idx stBadImage 0)) ∧
      (headerOk img = true → digestOk img = true → wellFormed img j = true →
        (reservedOk img j = false → exec (.load q idx) s = .next (finishDesc s2 q idx stMalformed 0)) ∧
        (reservedOk img j = true → presentOk s2 img j = false →
          exec (.load q idx) s = .next (finishDesc s2 q idx stNotPresent 0)) ∧
        (reservedOk img j = true → presentOk s2 img j = true →
          let need := fieldAt img 0x58 8
          let w := writable (descRq s q d) (need / 4096 + 1) s2 (d.op 32 8) need
          (freeJob w.2 = none ∨ w.1 = false ∨ d.op 40 8 < need ∨ bit 63 (rootOf w.2 (qaspace s q)) = false →
            exec (.load q idx) s = .next (finishDesc w.2 q idx stNoResource 0)) ∧
          (∀ n, freeJob w.2 = some n → w.1 = true → need ≤ d.op 40 8 → bit 63 (rootOf w.2 (qaspace s q)) = true →
            ∃ t, exec (.load q idx) s = .next t ∧ t.job n = some j ∧ j.jstate = 0 ∧
              t = finishDesc ((rqWrite w.2 (descRq s q d) (d.op 32 8) img).2.setJob n (some j)) q idx stOk n)))))

/-- START that starts: without such a job, or on a job that is not LOADED, ends BADSTATE; on a job that needs
deterministic mode with the mode off ends DETMODE; with steps past 2^64 - 1 ends STEPRANGE; otherwise the job is
RUNNING on that queue with its seed, first step and count, nothing complete, every conduit empty, no station
fault, GLB_JPSC and GLB_JS0 at the first step and GLB_JSEED at the seed, and the descriptor ends OK. ADMIT that
starts on a RUNNING or STOPPED job that is not being regenerated adds its steps, with the sample of DETM taken
now, and ends OK; on another job it ends BADSTATE. (spec/03_stations_and_streams.md (R81, R88, R90),
spec/16_determinism.md (R439, R440, R448, R449)) -/
def Obligations.JobStartAndAdmitSetItsSteps : Prop :=
  (∀ (q idx : Nat) (d : Desc) (s : State), Starts s q idx 0x02 d →
    let jn := d.op 24 1 % 64
    (s.job jn = none → exec (.start q idx) s = .next (finishDesc s q idx stBadState 0)) ∧
    (∀ j, s.job jn = some j →
      (j.jstate ≠ 0 → exec (.start q idx) s = .next (finishDesc s q idx stBadState 0)) ∧
      (j.jstate = 0 → wantsDetm s j = true → exec (.start q idx) s = .next (finishDesc s q idx stDetMode 0)) ∧
      (j.jstate = 0 → wantsDetm s j = false → 2 ^ 64 ≤ d.op 32 8 + d.op 40 8 →
        exec (.start q idx) s = .next (finishDesc s q idx stStepRange 0)) ∧
      (j.jstate = 0 → wantsDetm s j = false → d.op 32 8 + d.op 40 8 < 2 ^ 64 →
        ∃ t k, exec (.start q idx) s = .next t ∧ t.job jn = some k ∧ k.jstate = 1 ∧ k.queue = q ∧ k.s0 = d.op 32 8 ∧
          k.admitted = d.op 40 8 ∧ k.seed = d.op 48 8 ∧ k.low = 0 ∧ k.fsid = none ∧ k.defers = [] ∧ k.digs = [] ∧
          k.sample (d.op 32 8) = detm s ∧ k.cnds = j.cnds.map Cnd.flush ∧ k.stns.length = j.stns.length ∧
          (∀ st ∈ k.stns, st.dst = 0 ∧ st.fault = false ∧ st.done = []) ∧
          (t.reg (regAddr pgGlb (0x400 + 32 * jn))).toNat = d.op 32 8 ∧
          (t.reg (regAddr pgGlb (0x408 + 32 * jn))).toNat = d.op 32 8 ∧
          (t.reg (regAddr pgGlb (0x410 + 32 * jn))).toNat = d.op 48 8 ∧
          (∀ i, i ≠ jn → t.job i = s.job i) ∧ t.items = s.items ∧
          t = finishDesc (startJob s jn j q (d.op 32 8) (d.op 40 8) (d.op 48 8)) q idx stOk 0))) ∧
  (∀ (q idx : Nat) (d : Desc) (s : State), Starts s q idx 0x03 d →
    let jn := d.op 24 1 % 64
    (s.job jn = none → exec (.admitSteps q idx) s = .next (finishDesc s q idx stBadState 0)) ∧
    (∀ j, s.job jn = some j →
      ((j.jstate ≠ 1 ∧ j.jstate ≠ 3) ∨ j.regen.isSome = true →
        exec (.admitSteps q idx) s = .next (finishDesc s q idx stBadState 0)) ∧
      (j.jstate = 1 ∨ j.jstate = 3 → j.regen = none →
        (wantsDetm s j = true → exec (.admitSteps q idx) s = .next (finishDesc s q idx stDetMode 0)) ∧
        (wantsDetm s j = false → 2 ^ 64 ≤ j.highOr + d.op 32 8 →
          exec (.admitSteps q idx) s = .next (finishDesc s q idx stStepRange 0)) ∧
        (wantsDetm s j = false → j.highOr + d.op 32 8 < 2 ^ 64 →
          let k := { j with admitted := j.admitted + d.op 32 8, dets := (j.highOr, detm s) :: j.dets }
          exec (.admitSteps q idx) s = .next (finishDesc (s.setJob jn (some k)) q idx stOk 0)))))

/-- An STNCTL that starts on a station of a job that is RUNNING, DRAINING, STOPPED or FAULTED. DRAIN: a RUNNING
station is DRAINING and the descriptor waits; an ABORTING one ends BADSTATE; others end OK. ABORT: a RUNNING or
DRAINING station is ABORTING, its items are aborted and the descriptor waits; others end OK. RESUME: a STOPPED
station is RUNNING without its fault flag, a RUNNING one stays, both end OK; another ends BADSTATE.
STATION_STOPPED of a draining or aborting station without items makes it STOPPED and ends the STNCTLs that wait
for it. Without such a job each ends BADSTATE. (spec/03_stations_and_streams.md (R91), spec/02_register_pages.md
(R60)) -/
def Obligations.StationControlFollowsItsTable : Prop :=
  (∀ (q idx : Nat) (d : Desc) (s : State), Starts s q idx 0x04 d →
    let jn := d.op 24 1 % 64
    let sid := d.op 26 2
    ∀ c ctl, (c, ctl) ∈ [(Instr.stnctlDrain q idx, 1), (.stnctlAbort q idx, 2), (.stnctlResume q idx, 3)] → d.op 28 1 = ctl →
    (s.job jn = none → exec c s = .next (finishDesc s q idx stBadState 0)) ∧
    (∀ j st, s.job jn = some j → j.stn sid = some st → j.jstate = 1 ∨ j.jstate = 2 ∨ j.jstate = 3 ∨ j.jstate = 5 →
      (ctl = 1 → st.dst = 0 → exec c s = .next (startDesc (s.setJob jn (some (j.setStn sid { st with dst := 1 }))) q idx 0)) ∧
      (ctl = 1 → st.dst = 3 → exec c s = .next (finishDesc s q idx stBadState 0)) ∧
      (ctl = 1 → st.dst = 1 ∨ st.dst = 2 → exec c s = .next (finishDesc s q idx stOk 0)) ∧
      (ctl = 2 → st.dst = 0 ∨ st.dst = 1 →
        exec c s = .next (startDesc (abortStation (s.setJob jn (some (j.setStn sid { st with dst := 3 }))) jn sid) q idx 0)) ∧
      (ctl = 2 → st.dst = 2 ∨ st.dst = 3 → exec c s = .next (finishDesc s q idx stOk 0)) ∧
      (ctl = 3 → st.dst = 2 →
        exec c s = .next (finishDesc (s.setJob jn (some (j.setStn sid { st with dst := 0, fault := false }))) q idx stOk 0)) ∧
      (ctl = 3 → st.dst = 0 → exec c s = .next (finishDesc s q idx stOk 0)) ∧
      (ctl = 3 → st.dst = 1 ∨ st.dst = 3 → exec c s = .next (finishDesc s q idx stBadState 0)))) ∧
  (∀ (jn sid : Nat) (j : Job) (st : Stn) (s : State), live s = true → s.job jn = some j → j.stn sid = some st →
    st.dst = 1 ∨ st.dst = 3 → stnItems s jn sid = [] →
    ∃ t, exec (.stationStopped jn sid) s = .next t ∧ t.job jn = some (j.setStn sid { st with dst := 2 }) ∧
      t = finishAll (s.setJob jn (some (j.setStn sid { st with dst := 2 })))
        (stnWaiters (s.setJob jn (some (j.setStn sid { st with dst := 2 }))) jn sid) stOk)

/-- A JOBCTL that starts. DRAIN of a RUNNING job that is not being regenerated makes it DRAINING and waits; of
another ends BADSTATE. ABORT of a LOADED or ABORTING job ends BADSTATE; of another, every station is aborted
and, with no item of the job alive, the job is LOADED again with empty conduits and no admitted step beyond
those complete. RESUME of a STOPPED job, or of a FAULTED one without a station fault, makes it RUNNING without
FSID; of another ends BADSTATE. JOB_STOPPED of a DRAINING job whose admitted steps are complete makes it STOPPED
and ends its JOBCTLs OK. Without such a job each ends BADSTATE. (spec/03_stations_and_streams.md (R91, R92,
R94), spec/13_queues.md (R357)) -/
def Obligations.JobControlDrainsAbortsAndResumes : Prop :=
  (∀ (q idx : Nat) (d : Desc) (s : State), Starts s q idx 0x05 d →
    let jn := d.op 24 1 % 64
    (∀ c ctl, (c, ctl) ∈ [(Instr.jobctlDrain q idx, 1), (.jobctlAbort q idx, 2), (.jobctlResume q idx, 3)] → d.op 28 1 = ctl →
      s.job jn = none → exec c s = .next (finishDesc s q idx stBadState 0)) ∧
    (∀ j, s.job jn = some j →
      (d.op 28 1 = 1 → j.jstate = 1 → j.regen = none →
        exec (.jobctlDrain q idx) s = .next (startDesc (s.setJob jn (some { j with jstate := 2 })) q idx 0)) ∧
      (d.op 28 1 = 1 → j.jstate ≠ 1 ∨ j.regen.isSome = true →
        exec (.jobctlDrain q idx) s = .next (finishDesc s q idx stBadState 0)) ∧
      (d.op 28 1 = 2 → j.jstate = 0 ∨ j.jstate = 4 →
        exec (.jobctlAbort q idx) s = .next (finishDesc s q idx stBadState 0)) ∧
      (d.op 28 1 = 2 → j.jstate ≠ 0 → j.jstate ≠ 4 → j.stns.length = 0 → jobItems s jn = [] → s.pair = none → j.regen = none →
        ∃ t k, exec (.jobctlAbort q idx) s = .next t ∧ t.job jn = some k ∧ k.jstate = 0 ∧ k.fsid = none ∧ k.admitted = j.low ∧
          k.begun = [] ∧ k.defers = [] ∧ k.digs = [] ∧ (∀ c ∈ k.cnds, c.w = 0 ∧ c.pubs = [] ∧ c.reserved = [] ∧ c.released = [])) ∧
      (d.op 28 1 = 3 → j.jstate ≠ 3 → j.jstate ≠ 5 ∨ j.stns.any (fun x => x.fault) = true →
        exec (.jobctlResume q idx) s = .next (finishDesc s q idx stBadState 0)) ∧
      (d.op 28 1 = 3 → j.jstate = 3 ∨ (j.jstate = 5 ∧ j.stns.all (fun x => !x.fault) = true) → wantsDetm s j = true →
        exec (.jobctlResume q idx) s = .next (finishDesc s q idx stDetMode 0)) ∧
      (d.op 28 1 = 3 → j.jstate = 3 ∨ (j.jstate = 5 ∧ j.stns.all (fun x => !x.fault) = true) → wantsDetm s j = false →
        jobItems s jn = [] →
        exec (.jobctlResume q idx) s = .next
          (finishDesc (wakeSyncs (s.setJob jn (some { j with jstate := 1, fsid := none })) jn) q idx stOk 0)))) ∧
  (∀ (jn : Nat) (j : Job) (s : State), live s = true → s.job jn = some j → j.jstate = 2 → j.admitted ≤ j.low →
    ∃ t, exec (.jobStopped jn) s = .next t ∧ t.job jn = some { j with jstate := 3 } ∧
      t = finishAll (s.setJob jn (some { j with jstate := 3 }))
        (startedOn (s.setJob jn (some { j with jstate := 3 })) [5] jn) stOk)

/-- A descriptor that starts, for a job that does not exist, ends BADSTATE. QUERY writes the status block of the
job, as it was when the QUERY started, at its virtual address and ends OK; if the write faults it keeps that
block and waits. UNLOAD of a job that is neither LOADED nor STOPPED ends BADSTATE; of a LOADED or STOPPED one
without waiting SYNC, STNCTL or pairing it removes the job, returns its GLB registers to 0, and ends OK. SYNC of
a step below the lowest step not complete ends OK with the step as VALUE; of a step not admitted ends BADSTATE;
of another it waits. (spec/03_stations_and_streams.md (R88, R94), spec/13_queues.md (R357)) -/
def Obligations.QueryUnloadAndSyncReportTheJob : Prop :=
  ∀ (q idx : Nat) (d : Desc) (s : State),
    let jn := d.op 24 1 % 64
    (∀ c opc, (c, opc) ∈ [(Instr.query q idx, 6), (.unload q idx, 7), (.sync q idx, 8)] → Starts s q idx opc d →
      (opc = 6 → ∀ b, d.stage ≠ .writing b) → s.job jn = none →
      exec c s = .next (finishDesc s q idx stBadState 0)) ∧
    (∀ b, Starts s q idx 6 d →
      d.stage = .writing b ∨ ((∀ x, d.stage ≠ .writing x) ∧ ∃ j, s.job jn = some j ∧ b = statusBlock s jn j) →
      (∀ t1, rqWrite s (descRq s q d) (d.op 32 8) b = (true, t1) →
        exec (.query q idx) s = .next (finishDesc t1 q idx stOk 0)) ∧
      (∀ t1, rqWrite s (descRq s q d) (d.op 32 8) b = (false, t1) →
        exec (.query q idx) s = .next (updDesc t1 q idx (fun x => { x with stage := .writing b })))) ∧
    (∀ j, s.job jn = some j →
      (Starts s q idx 7 d → j.jstate ≠ 0 → j.jstate ≠ 3 → exec (.unload q idx) s = .next (finishDesc s q idx stBadState 0)) ∧
      (Starts s q idx 7 d → j.jstate = 0 ∨ j.jstate = 3 → startedOn s [8] jn = [] → startedOn s [4] jn = [] → s.pair = none →
        ∃ t, exec (.unload q idx) s = .next t ∧ t.job jn = none ∧ (∀ i, i ≠ jn → t.job i = s.job i) ∧
          t.reg (regAddr pgGlb (0x400 + 32 * jn)) = 0 ∧ t.reg (regAddr pgGlb (0x408 + 32 * jn)) = 0 ∧
          t.reg (regAddr pgGlb (0x410 + 32 * jn)) = 0 ∧
          t = finishDesc (setJobRegs (s.setJob jn none) jn 0 0 0) q idx stOk 0) ∧
      (Starts s q idx 8 d → d.op 32 8 < j.s0 + j.low → exec (.sync q idx) s = .next (finishDesc s q idx stOk (d.op 32 8))) ∧
      (Starts s q idx 8 d → j.s0 + j.low ≤ d.op 32 8 → j.highOr ≤ d.op 32 8 →
        exec (.sync q idx) s = .next (finishDesc s q idx stBadState 0)) ∧
      (Starts s q idx 8 d → j.s0 + j.low ≤ d.op 32 8 → d.op 32 8 < j.highOr →
        exec (.sync q idx) s = .next (startDesc s q idx 0)))

/-- A new item enters: it is item s.nextItem of t and nothing else changes among the items; job jn's conduits become
those given, and no other job changes. -/
def EntersItem (s t : State) (jn : Nat) (it : Item) (cnds : List Cnd) : Prop :=
  t.item s.nextItem = some it ∧ (∀ n, n ≠ s.nextItem → t.item n = s.item n) ∧ t.nextItem = s.nextItem + 1 ∧
  (∃ k, t.job jn = some k ∧ k.cnds = cnds) ∧ (∀ i, i ≠ jn → t.job i = s.job i)

/-- On a live module, for a station of a job: an item that may not be dispatched leaves the state as it is. One that
may becomes the next item, its output ordinals reserved in its conduits, no other item or job changed: a
CU-hosted or COPY item on the unit that placement gives while the C-dies are awake, with the die's next JSEQ, a
unit that can take it, queues, caches, groups, error bits, fabric and well unchanged; if none can take it
nothing changes; a window item on the windlass engine that serves it (with NOTENSOR if the window version does
not fit); a tile item on its flow's engine if the flow is OPEN, where a receiver grants credit for its last
tile, else with FLOWERR; a reduction item on its seat's lane group, with REDERR if the seat refuses it.
(spec/03_stations_and_streams.md (R66, R68, R69, R72), spec/04_compute_units.md (R110, R111, R119),
spec/09_memory_tiers.md (R262, R263), spec/14_holarn_fabric.md (R403), spec/15_fabric_reduction.md (R425, R432)) -/
def Obligations.DispatchPlacesItemByItsKind : Prop :=
  ∀ (jn sid step ix : Nat) (j : Job) (st : Stn) (s : State), live s = true → s.job jn = some j → j.stn sid = some st →
    let d := st.df
    let outs := (j.overOutputs d step (itemOrds j d ix) Cnd.reserve).cnds
    let c := Instr.itemDispatch jn sid step ix
    (mayDispatch s jn j sid st step ix = false → exec c s = .next s) ∧
    (mayDispatch s jn j sid st step ix = true →
      (onUnit d.kind = true →
        (∀ die dies u, unitDie s d ix = some (die, dies) → placeOn s die sid d.cuMax dies ix = some u → cdieAwake s = true →
          canPlace s u = true ∧
          ∃ t, exec c s = .next t ∧
            EntersItem s t jn { newItem jn sid step ix j d die (uSite u) none with jseq := SMap.get (fun _ => 0) s.jseqs die } outs ∧
            SMap.get (fun _ => 0) t.jseqs die = (SMap.get (fun _ => 0) s.jseqs die + 1) % 2 ^ 64 ∧
            t.queues = s.queues ∧ t.cc = s.cc ∧ t.groups = s.groups ∧ t.errs = s.errs ∧ t.fab = s.fab ∧ t.well = s.well) ∧
        (∀ die dies, unitDie s d ix = some (die, dies) → placeOn s die sid d.cuMax dies ix = none → exec c s = .next s) ∧
        (unitDie s d ix = none → exec c s = .next s)) ∧
      (d.kind = 0x10 → s.well.ready = true → wdWindow j d step (itemSpan (tilesOf j d) d.items ix).1 = true →
        ∀ bad x k, (pinTensor s jn sid j st).1 = bad →
          wdlFor s d.placeX ((wdlOf d.placeX).getD (ix % max 1 (wdlOf d.placeX).length) (0, 0)) = some (x, k) →
          s.accepts (pgWdl x k) = true →
          ∃ t, exec c s = .next t ∧ EntersItem s t jn (newItem jn sid step ix j d (3 + x) (x * 2 + k) bad) outs) ∧
      (d.kind = 0x11 ∨ d.kind = 0x12 → ∀ f, s.flow (par d 0 4) = some f → f.st = 2 →
        ∃ t, exec c s = .next t ∧ EntersItem s t jn (newItem jn sid step ix j d (3 + f.hx) f.hx none) outs ∧
          (d.kind = 0x12 → f.granted = none →
            let last := (itemSpan (tilesOf j d) d.items ix).1 + (itemSpan (tilesOf j d) d.items ix).2 - 1
            t.flow (par d 0 4) =
              some { f with granted := some (tileMark step last), ctl := f.ctl ++ [(4, tileMark step last)] })) ∧
      (d.kind = 0x11 ∨ d.kind = 0x12 → (∀ f, s.flow (par d 0 4) = some f → f.st ≠ 2) →
        ∃ t die eng, exec c s = .next t ∧ EntersItem s t jn (newItem jn sid step ix j d die eng (some stFlowErr)) outs) ∧
      (d.kind = 0x13 → seatReady s j d step = true → ∀ g bad, (takeSeat s jn sid j d step).1 = g →
        (takeSeat s jn sid j d step).2.1 = bad →
        ∃ t, exec c s = .next t ∧
          EntersItem s t jn (newItem jn sid step ix j d (3 + lgX g) g (if bad then some stRedErr else none)) outs))

/-- On a live module. ITEM_COMMIT of an item that waits for nothing, has no commit log, is not VECTOR and is not
regenerated, has produced everything, and whose tags and slots read and translate: the item is no longer live,
its outputs are published (and at once released or passed by the window if it is also their last reader), and
its step and number are marked done unless the step has become complete. An item that has not produced
everything is left as it is. ITEM_ERROR of an item that met an error, with no engine operation left: it is no
longer live, its station is faulted and drains, and a job that was RUNNING, DRAINING or STOPPED and is not
regenerated is FAULTED, with FSID the first faulting station, and with room in the ring both its ITEM and its
FAULT record are written. An item whose deferred adds found no room waits. (spec/03_stations_and_streams.md
(R70, R72, R73, R79, R80, R82), spec/07_thread_groups.md (R184), spec/16_determinism.md (R443)) -/
def Obligations.CommitPublishesAndErrorFailsTheJob : Prop :=
  ∀ (n : Nat) (it : Item) (j : Job) (st : Stn) (s : State), live s = true → s.item n = some it → s.job it.job = some j →
    j.stn it.sid = some st →
    (itemDone s n it st.df = false → exec (.itemCommit n) s = .next s) ∧
    (itemDone s n it st.df = true → it.tagsOk = true → it.err = none → itemWaits s n = false →
      unacked s (fun p => p == .rq (ridItem n)) = false → tilesOut s n = false →
      (onUnit it.kind = true → it.islot.isSome = true ∧ advances s (it.die * 576 + it.owner) = true ∧
        unitHalting s (it.die * 576 + it.owner) = false) →
      it.log = [] → it.kind ≠ 2 → st.df.kind ≠ 2 → j.regen = none → s.fab.flows = [] →
      defersFit s [] = true →
      let r := itemRq s n it
      let pubs := pubTiles j st.df it (fun _ => (64, 64, false))
      let freeTags := (lastRead j st it).map (fun (cid, o, _, _) => match j.cnd cid with
        | some c => (j.tagVa cid c o, 32)
        | none => (0, 0))
      ∀ tags slots s1 s2 s3, rqReads r freeTags s = (some tags, s1) →
        rqReads r (pubs.map (fun p => (j.slotVa p.cid p.c p.o, slotBytes p.c.df.fmt))) s1 = (some slots, s2) →
        rqProbe r (pubs.map (fun p => (j.tagVa p.cid p.c p.o, 32)) ++ freeTags) s2 = (true, s3) →
        ∃ t k, exec (.itemCommit n) s = .next t ∧ t.item n = none ∧ t.job it.job = some k ∧ k.s0 = j.s0 ∧ j.low ≤ k.low ∧
          (∃ x, k.stn it.sid = some x ∧ ((it.step, it.idx) ∈ x.done ∨ it.step < k.s0 + k.low)) ∧
          (∀ p ∈ pubs, ∃ c, k.cnd p.cid = some c ∧ (p.o ∈ c.pubs ∨ p.o ∈ c.released ∨ p.o < c.w))) ∧
    (∀ status detail tag, it.err = some (status, detail, tag) →
      (status = stNoResource → exec (.itemError n) s = .next s) ∧
      (status ≠ stNoResource → (s.cu (it.die * 576 + it.owner)).mxq.any (fun o => o.item == n) = false →
        j.regen = none → j.jstate = 1 ∨ j.jstate = 2 ∨ j.jstate = 3 →
        ∃ t k, exec (.itemError n) s = .next t ∧ t.item n = none ∧ (∀ i, i ≠ n → t.item i = s.item i) ∧
          t.job it.job = some k ∧ k.jstate = 5 ∧ k.fsid = some (j.fsid.getD it.sid) ∧
          k.stn it.sid = some { st with dst := if st.dst = 0 then 1 else st.dst, fault := true } ∧
          k.cnds = (j.overOutputs st.df it.step it.ords Cnd.unreserve).cnds ∧
          ((s.queue j.queue).waiting = [] → idxSub (s.queue j.queue).cprod (s.queue j.queue).ccons + 2 ≤ 2 ^ cqlog s j.queue →
            (t.queue j.queue).cprod = ((s.queue j.queue).cprod + 2) % 2 ^ 32 ∧ (t.queue j.queue).waiting = [])))

/-- On a live module. CU_ITEM_START of a unit that advances, takes work, is not halting and has no running item to
check takes the queued item that comes first among those it can start: it holds the lowest free running-item
slot, is otherwise as it was but for its checks and issue count, no other item changes but for its issue count,
and a CU-hosted item's groups stand in the lowest free residents at pc 0 with all 32 threads. CU_NEAR_ROUND of
an idle unit that may steal takes an item from the first unit in probe order that gives one: OWNER is the thief,
STEALS counts one up to 4; if none gives one, the unit goes on to a far attempt if FAR_EN, else waits.
CU_FAR_ATTEMPT probes the unit the load summary names, and waits if that fails. CU_STEAL_WAIT_EXPIRE lets it
begin again. CU_RATE_WINDOW records the beats of the window, VALID once the window was full.
(spec/04_compute_units.md (R96, R101, R102, R113, R114, R115, R116, R117, R121, R122), spec/07_thread_groups.md
(R171), spec/08_cu_memory.md (R206)) -/
def Obligations.QueuedItemsStartAndAreStolen : Prop :=
  (∀ (u n k : Nat) (it : Item) (j : Job) (st : Stn) (s : State), live s = true → advances s u = true →
    (∀ p ∈ runningOn s u, p.2.tagsOk = true ∨ p.2.err ≠ none ∨ itemWaits s p.1 = true) →
    s.accepts (uCu u) = true → unitHalting s u = false → armedAt s (uCu u) 8 = false → armedAt s (uCu u) 11 = false →
    takenFirst ((queuedOn s u).filter (fun p => couldStart s u p.2)) = some (n, it) →
    s.job it.job = some j → j.stn it.sid = some st →
    (List.range 4).find? (fun i => (runningOn s u).all (fun p => p.2.islot != some i)) = some k →
    ∃ t x, exec (.cuItemStart u) s = .next t ∧ t.item n = some x ∧ x.islot = some k ∧
      { x with tagsOk := false, err := none, issued := 0 } = { it with islot := some k, tagsOk := false, err := none, issued := 0 } ∧
      (∀ i, i ≠ n → (t.item i).map (fun y => { y with issued := 0 }) = (s.item i).map (fun y => { y with issued := 0 })) ∧
      (t.cu u).steal = 0 ∧
      (cuHosted it.kind = true → ∀ h i, (h, i) ∈ (freeResidents s u (itemFoot s it).1).zipIdx →
        t.grp u h = some ⟨n, i, (itemFoot s it).2.1, 0, 0xFFFFFFFF, 0xFFFFFFFF, [], 0, false, .none⟩)) ∧
  (∀ (u : Nat) (s : State), live s = true →
    let took (t : State) (n : Nat) (it : Item) : Prop :=
      t.item n = some { it with owner := uSite u, steals := min 4 (it.steals + 1) } ∧ (∀ i, i ≠ n → t.item i = s.item i) ∧
        (t.cu u).steal = 0 ∧ ∀ a, t.reg a = s.reg a
    let moved (t : State) (x : Nat) : Prop := (t.cu u).steal = x ∧ t.items = s.items ∧ ∀ a, t.reg a = s.reg a
    (isIdle s u = true → stealEn s u = true → (s.cu u).steal = 0 →
      (∀ l v rest n it, nearUnits s u = l ++ v :: rest → (∀ w ∈ l, stealFrom s u w (stealMin s u) = none) →
        stealFrom s u v (stealMin s u) = some (n, it) → ∃ t, exec (.cuNearRound u) s = .next t ∧ took t n it) ∧
      ((∀ w ∈ nearUnits s u, stealFrom s u w (stealMin s u) = none) →
        ∃ t, exec (.cuNearRound u) s = .next t ∧ moved t (if farEn s u then 1 else 2))) ∧
    (isIdle s u = true → stealEn s u = true → farEn s u = true → (s.cu u).steal = 1 →
      (∀ v n it, farVictim s u = some v → stealFrom s u v (farMin s u) = some (n, it) →
        ∃ t, exec (.cuFarAttempt u) s = .next t ∧ took t n it) ∧
      ((∀ v, farVictim s u = some v → stealFrom s u v (farMin s u) = none) →
        ∃ t, exec (.cuFarAttempt u) s = .next t ∧ moved t 2)) ∧
    (isIdle s u = false ∨ stealEn s u = false → exec (.cuNearRound u) s = .next s ∧ exec (.cuFarAttempt u) s = .next s) ∧
    (advances s u = true → (s.cu u).steal = 2 →
      exec (.cuStealWaitExpire u) s = .next (s.setCu u { s.cu u with steal := 0 })) ∧
    (∀ beats, inService s u = true → beats * 10 ≤ s.regF (uCu u) 0x100 39 32 * 1024 →
      ∃ t, exec (.cuRateWindow u beats) s = .next t ∧
        t.reg (regAddr (uCu u) 0x118) = BitVec.ofNat 64
          ((bit 16 (s.reg (regAddr (uCu u) 0x118)) || !(s.cu u).late).toNat * 65536 + beats % 65536) ∧
        (∀ a, a ≠ regAddr (uCu u) 0x118 → t.reg a = s.reg a) ∧ (t.cu u).late = false ∧ t.items = s.items))

/-- On a live module. A CU_RETIRE write without 0xA5, or at a site not in service, is rejected. Retirement of a unit
whose cache is empty: with no items it is RETIRED with RCAUSE 1 for the write, else its cause, and as at reset;
its one queued item starts anew on the first unit of the deal order that can take it; after a hardware fault its
one running item does so with ATTEMPT one higher. A spare that passes its self-test is INSERVICE, one that fails
is RETIRED with RCAUSE 3. A write of DIE_CUCFG with RESERVE above 32, or while a job is loaded, is rejected;
otherwise RESERVE is stored, and of the units above the target the highest idle ones move to SPARE, no other
site of the die changes. A heartbeat clears the buddy's count; silence of DIE_CUWDOG.BEATS sets WDOG and stops
the unit, less is counted. A failed harness engine is out of service with its error recorded and its flow asks
for and repeats what was lost; a failed windlass engine's one item moves to the engine that may take it.
(spec/04_compute_units.md (R103, R104, R105, R106, R123, R124, R125, R127), spec/17_faults_and_replay.md (R469,
R470, R471), spec/14_holarn_fabric.md (R407)) -/
def Obligations.UnitsRetireAndSparesEnter : Prop :=
  ∀ (u : Nat) (s : State), live s = true →
    (∀ v : W64, siteHere s u = true → v.toNat % 256 ≠ 0xA5 ∨ sstate s u ≠ 1 →
      exec (.cuRetire u v) s = .next (raise s (uCu u) 0)) ∧
    (siteHere s u = true → sstate s u = 1 → ccKeys s u = [] → armedAt s (uCu u) 11 = false →
      (∀ v : W64, v.toNat % 256 = 0xA5 → (s.cu u).rcause = 0 →
        (unitItems s u = [] → ∃ t, exec (.cuRetire u v) s = .next t ∧ sstate t u = 2 ∧ t.regF (uCu u) 0x100 23 16 = 1 ∧
          t.cu u = CuSt.reset ∧ t.items = s.items) ∧
        (∀ n it w, unitItems s u = [(n, it)] → s.item n = some it → it.islot = none →
          (dealOrder s u).find? (canPlace s) = some w →
          ∃ t, exec (.cuRetire u v) s = .next t ∧ t.item n = some (it.restarted (uSite w)) ∧
            (∀ i, i ≠ n → t.item i = s.item i) ∧ sstate t u = 2 ∧ t.cu u = CuSt.reset)) ∧
      ((s.cu u).failed = true → (s.cu u).keep = false → (s.cu u).rcause = 2 →
        (unitItems s u = [] → ∃ t, exec (.cuFaultRetire u) s = .next t ∧ sstate t u = 2 ∧ t.regF (uCu u) 0x100 23 16 = 2 ∧
          t.cu u = CuSt.reset ∧ t.items = s.items) ∧
        (∀ n it w, unitItems s u = [(n, it)] → s.item n = some it → it.islot.isSome = true → it.attempt < 3 →
          (∀ b, buddy s u = some b → (s.cu b).failed = false) → (dealOrder s u).find? (canPlace s) = some w →
          ∃ t, exec (.cuFaultRetire u) s = .next t ∧
            t.item n = some { it.restarted (uSite w) with attempt := it.attempt + 1 } ∧ sstate t u = 2))) ∧
    (∀ centre, (s.cu u).testing = some centre → siteHere s u = true → sstate s u = 0 →
      (∃ t, exec (.spareSelftestDone u true) s = .next t ∧ sstate t u = 1 ∧ t.cu u = { CuSt.reset with late := true } ∧
        t.items = s.items) ∧
      (∃ t, exec (.spareSelftestDone u false) s = .next t ∧ sstate t u = 2 ∧ t.regF (uCu u) 0x100 23 16 = 3 ∧ t.items = s.items)) ∧
    (∀ (d : Nat) (v : W64), hasCdie s d = true →
      (32 < fld 5 0 v ∨ s.jobs ≠ [] → exec (.dieCucfgWrite d v) s = .next (raise s (pgDie d) 0)) ∧
      (fld 5 0 v ≤ 32 → s.jobs = [] →
        let s1 := s.setRegF (pgDie d) 0x118 5 0 (fld 5 0 v)
        let out := (((sitesIn s1 d 1).filter (fun w => (unitItems s1 w).isEmpty)).reverse).take
          ((sitesIn s1 d 1).length - serviceTarget s1 d)
        ∃ t, exec (.dieCucfgWrite d v) s = .next t ∧ t.regF (pgDie d) 0x118 5 0 = fld 5 0 v ∧ t.items = s.items ∧
          (∀ w ∈ out, sstate t w = 0) ∧ (∀ w, siteHere s w = true → uDie w = d → w ∉ out → sstate t w = sstate s w))) ∧
    (inService s u = true → (s.cu u).failed = false → (s.cu u).held = false → armedAt s (uCu u) 10 = false →
      exec (.cuHeartbeat u) s = .next (s.setCu u { s.cu u with silent := 0 }) ∧
      (∀ beats, (s.cu u).silent + beats < s.regF (pgDie (uDie u)) 0x140 31 0 →
        exec (.cuWatchdogExpire u beats) s = .next (s.setCu u { s.cu u with silent := (s.cu u).silent + beats })) ∧
      (∀ beats, s.regF (pgDie (uDie u)) 0x140 31 0 ≤ (s.cu u).silent + beats →
        ∃ t, exec (.cuWatchdogExpire u beats) s = .next t ∧ t.err (uCu u) = setBit 10 (s.err (uCu u)) true ∧
          (t.cu u).failed = true ∧ (t.cu u).silent = 0 ∧ t.items = s.items ∧ ∀ a, t.reg a = s.reg a)) ∧
    (∀ x e n f, x < 2 → e < 16 → harRuns s x e = true → s.flow n = some f →
      (harAny { s with fab := { s.fab with harDead := s.fab.harDead ++ [x * 64 + e] } } 0 = true ∨
        harAny { s with fab := { s.fab with harDead := s.fab.harDead ++ [x * 64 + e] } } 1 = true) →
      ∃ t, exec (.engineFault (.har x e n)) s = .next t ∧ t.err (pgHar x e) = setBit 8 (s.err (pgHar x e)) true ∧
        t.fab.harDead = s.fab.harDead ++ [x * 64 + e] ∧ (∀ a, t.reg a = s.reg a) ∧
        t.flow n = some { f with nack := some (3, f.exp), resend := if f.sent.isEmpty then none else some f.una }) ∧
    (∀ x k n it j st y z, hasWell s = true → x < 2 → k < 2 → wdlFailed s (x, k) = false →
      engineItems s 0x10 (x * 2 + k) = [(n, it)] → it.owner = x * 2 + k → s.job it.job = some j → j.stn it.sid = some st →
      wdlFor { s with fab := { s.fab with wdlDead := s.fab.wdlDead ++ [x * 64 + k] } } st.df.placeX (x, k) = some (y, z) →
      ∃ t, exec (.engineFault (.wdl x k)) s = .next t ∧ t.err (pgWdl x k) = setBit 8 (s.err (pgWdl x k)) true ∧
        t.fab.wdlDead = s.fab.wdlDead ++ [x * 64 + k] ∧ (∀ i, i ≠ n → t.item i = s.item i) ∧
        t.item n = some { it with wrote := [], computed := [], die := 3 + y, owner := y * 2 + z })

/-- The instruction of OP op with fields f issues for resident group h of unit u: the module serves, the group's item is
VECTOR, the group is ready (R172), its word stands at the group's pc, breaks no rule of R176, and waits for no load. -/
def Issues (s : State) (u h op : Nat) (f : GFields) (use : GUse) (g : Group) (it : Item) : Prop :=
  live s = true ∧ h < 64 ∧ s.grp u h = some g ∧ s.item g.item = some it ∧ it.kind = 2 ∧ canIssue s u h g it = true ∧
  f.d < 256 ∧ f.imm < 2 ^ 24 ∧ wordAt (programOf s it) g.pc = some (gWord op f) ∧ use.illegal g.regs f = false ∧
  use.waits (s.cu u) h f = false

/-- What an instruction on registers leaves: every module register, item, job, queue, error bit, cache, local store, unit,
fabric and sump, and every other group. -/
def GroupFrame (s t : State) (u h : Nat) : Prop :=
  t.regs = s.regs ∧ t.items = s.items ∧ t.jobs = s.jobs ∧ t.queues = s.queues ∧ t.errs = s.errs ∧ t.cc = s.cc ∧
  t.sc = s.sc ∧ t.ls = s.ls ∧ t.units = s.units ∧ t.fab = s.fab ∧ t.sump = s.sump ∧ t.free = s.free ∧
  (∀ x y, y < 64 → ¬(x = u ∧ y = h) → t.grp x y = s.grp x y)

/-- The group moves to the next instruction; register d of each active thread k holds val k, every other thread register
of the module is as it was. -/
def WritesD (s t : State) (u h d : Nat) (g : Group) (val : Nat → Nat) : Prop :=
  GroupFrame s t u h ∧ t.grp u h = some { g with pc := (g.pc + 1) % 2 ^ 32 } ∧
  (∀ k, k < 32 → t.vreg u h d k = if nbit k g.active then val k else s.vreg u h d k) ∧
  (∀ x y r k, y < 64 → r < 256 → k < 32 → ¬(x = u ∧ y = h ∧ r = d) → t.vreg x y r k = s.vreg x y r k)

/-- A thread register as a 32-bit word. -/
def wreg (s : State) (u h r k : Nat) : W32 := BitVec.ofNat 32 (s.vreg u h r k)

/-- For every integer instruction of R177 that issues (log entry 28 for the choice of word), each active thread's D
takes the 32-bit result: sums, differences and products modulo 2^32, bitwise operations, shifts by B mod 32 (SRA
arithmetic), 1 or 0 of the signed and equality comparisons, IADDI and MOVI with the sign-extended IMM, ORHI with
IMM's low 16 bits in the high half. The pc moves to the next instruction. Threads that are not active, other
registers, other groups, module registers, items, jobs, queues, caches, local store and fabric stay as they
were. (spec/07_thread_groups.md (R170, R172, R176, R177)) -/
def Obligations.IntegerInstructionsWriteTheirResult : Prop :=
  ∀ (s : State) (u h : Nat) (f : GFields) (g : Group) (it : Item),
    (∀ c op fn, (c, op, fn) ∈
        [(Instr.iadd u h f, 0x01, fun (a b : W32) => a + b), (.isub u h f, 0x02, fun a b => a - b),
         (.imul u h f, 0x03, fun a b => a * b), (.and u h f, 0x04, fun a b => a &&& b), (.or u h f, 0x05, fun a b => a ||| b),
         (.xor u h f, 0x06, fun a b => a ^^^ b), (.shl u h f, 0x07, fun a b => a <<< (b.toNat % 32)),
         (.shr u h f, 0x08, fun a b => a >>> (b.toNat % 32)), (.sra u h f, 0x09, fun a b => a.sshiftRight (b.toNat % 32)),
         (.isetlt u h f, 0x0A, fun a b => if a.slt b then 1 else 0), (.iseteq u h f, 0x0B, fun a b => if a = b then 1 else 0)] →
      Issues s u h op f useDab g it →
      ∃ t, exec c s = .next t ∧ WritesD s t u h f.d g (fun k => (fn (wreg s u h f.a k) (wreg s u h f.b k)).toNat)) ∧
    (Issues s u h 0x0C f useDai g it →
      ∃ t, exec (.iaddi u h f) s = .next t ∧
        WritesD s t u h f.d g (fun k => (wreg s u h f.a k + (BitVec.ofNat 24 f.imm).signExtend 32).toNat)) ∧
    (Issues s u h 0x0D f { d := true, imm := true } g it →
      ∃ t, exec (.movi u h f) s = .next t ∧ WritesD s t u h f.d g (fun _ => ((BitVec.ofNat 24 f.imm).signExtend 32).toNat)) ∧
    (Issues s u h 0x0E f useDai g it →
      ∃ t, exec (.orhi u h f) s = .next t ∧
        WritesD s t u h f.d g (fun k => (wreg s u h f.a k ||| BitVec.ofNat 32 (f.imm % 2 ^ 16) <<< 16).toNat))

/-- Each floating-point and conversion instruction that issues writes, to D of each active thread, the low 32 bits
of the operation of R178 on that thread's own sources and changes nothing else; CVTFN and CVTNF do so for every
format code defined and, for CVTFN, every mode but 0b11, else they end the item with GRPFAULT, cause ILLEGAL,
and write no register. Of the operations: a NaN operand of FADD, FMUL, FFMA, FMIN, FMAX, FDIV or FSQRT gives
0x7FC0_0000, of FSETLT 0, of CVTFI 0; every binary32 pattern that is no NaN is the rounding of the value it
encodes; FADD, FMUL and FSETLT of the zeros follow their signs. (spec/07_thread_groups.md (R177, R178),
spec/06_arithmetic.md (R154, R155, R162, R163)) -/
def Obligations.FloatInstructionsWriteTheirResult : Prop :=
  (∀ (s : State) (u h : Nat) (f : GFields) (g : Group) (it : Item),
    let a (k : Nat) := s.vreg u h f.a k
    let b (k : Nat) := s.vreg u h f.b k
    (∀ c op fn, (c, op, fn) ∈
        [(Instr.fadd u h f, 0x10, f32add), (.fmul u h f, 0x11, f32mul), (.fmin u h f, 0x13, f32min),
         (.fmax u h f, 0x14, f32max), (.fsetlt u h f, 0x15, f32lt), (.fdiv u h f, 0x16, f32div)] →
      Issues s u h op f useDab g it → ∃ t, exec c s = .next t ∧ WritesD s t u h f.d g (fun k => fn (a k) (b k) % 2 ^ 32)) ∧
    (Issues s u h 0x12 f { d := true, a := true, b := true, c := true } g it →
      ∃ t, exec (.ffma u h f) s = .next t ∧ WritesD s t u h f.d g (fun k => f32fma (a k) (b k) (s.vreg u h f.c k) % 2 ^ 32)) ∧
    (∀ c op fn, (c, op, fn) ∈ [(Instr.fsqrt u h f, 0x17, f32sqrt), (.cvtif u h f, 0x18, cvtIF), (.cvtfi u h f, 0x19, cvtFI)] →
      Issues s u h op f useDa g it → ∃ t, exec c s = .next t ∧ WritesD s t u h f.d g (fun k => fn (a k) % 2 ^ 32)) ∧
    (Issues s u h 0x1A f useDai g it →
      (∀ fmt, fmtKind (f.imm % 256) = some fmt → f.imm / 256 % 4 ≠ 3 →
        ∃ t, exec (.cvtfn u h f) s = .next t ∧
          WritesD s t u h f.d g (fun k => cvtFN fmt (f.imm / 256 % 4) (nbit 10 f.imm) (a k) % 2 ^ 32)) ∧
      (fmtKind (f.imm % 256) = none ∨ f.imm / 256 % 4 = 3 →
        ∃ t, exec (.cvtfn u h f) s = .next t ∧ t.vregs = s.vregs ∧ t.grp u h = some g ∧
          t.item g.item = some { it with log := [], err := some (stGrpFault, 4, 0) })) ∧
    (Issues s u h 0x1B f useDai g it →
      (∀ fmt, fmtKind (f.imm % 256) = some fmt →
        ∃ t, exec (.cvtnf u h f) s = .next t ∧ WritesD s t u h f.d g (fun k => cvtNF fmt (a k) % 2 ^ 32)) ∧
      (fmtKind (f.imm % 256) = none →
        ∃ t, exec (.cvtnf u h f) s = .next t ∧ t.vregs = s.vregs ∧ t.grp u h = some g ∧
          t.item g.item = some { it with log := [], err := some (stGrpFault, 4, 0) }))) ∧
  (∀ x y z : Nat, dec32 x = .nan →
    f32add x y = nan32 ∧ f32add y x = nan32 ∧ f32mul x y = nan32 ∧ f32mul y x = nan32 ∧ f32div x y = nan32 ∧
    f32div y x = nan32 ∧ f32min x y = nan32 ∧ f32min y x = nan32 ∧ f32max x y = nan32 ∧ f32max y x = nan32 ∧
    f32sqrt x = nan32 ∧ f32fma x y z = nan32 ∧ f32fma y x z = nan32 ∧ f32fma y z x = nan32 ∧ f32lt x y = 0 ∧
    f32lt y x = 0 ∧ cvtFI x = 0) ∧
  (∀ x : Nat, x < 2 ^ 32 → dec32 x ≠ .nan → enc32 0 0 (dec32 x) = x) ∧
  f32add 0x80000000 0 = 0 ∧ f32add 0x80000000 0x80000000 = 0x80000000 ∧ f32mul 0x80000000 0 = 0x80000000 ∧
  f32lt 0x80000000 0 = 0 ∧ f32min 0 0x80000000 = 0x80000000 ∧ f32max 0x80000000 0 = 0

/-- The address of thread k's access to local store: A + sext(IMM), modulo 2^32. -/
def lsAddr (s : State) (u h : Nat) (f : GFields) (k : Nat) : Nat :=
  (wreg s u h f.a k + (BitVec.ofNat 24 f.imm).signExtend 32).toNat

/-- An instruction faulted (R198, R199): its item will end with GRPFAULT, the cause and tag in its record, its log discarded;
GRP_FAULT latches the first fault; no thread register, local store, cache line, group or other item changes. -/
def GroupFaulted (s t : State) (u h cause tag : Nat) (g : Group) (it : Item) : Prop :=
  t.vregs = s.vregs ∧ t.ls = s.ls ∧ t.cc = s.cc ∧ t.groups = s.groups ∧
  t.item g.item = some { it with log := [], err := some (stGrpFault, cause, tag) } ∧ (∀ i, i ≠ g.item → t.item i = s.item i) ∧
  t.reg (regAddr (uGrp u) 0x110) =
    (if bit 63 (s.reg (regAddr (uGrp u) 0x110)) then s.reg (regAddr (uGrp u) 0x110)
     else BitVec.ofNat 64 (2 ^ 63 + cause % 256 * 2 ^ 48 + it.islot.getD 0 % 4 * 2 ^ 46 + h % 64 * 2 ^ 40 + pcByte (programOf s it) g.pc)) ∧
  (∀ a, a ≠ regAddr (uGrp u) 0x110 → t.reg a = s.reg a)

/-- The group moves to the next instruction and no thread register, module register, item or other group changes. -/
def MovesOn (s t : State) (u h : Nat) (g : Group) : Prop :=
  t.grp u h = some { g with pc := (g.pc + 1) % 2 ^ 32 } ∧ t.vregs = s.vregs ∧ t.items = s.items ∧ t.jobs = s.jobs ∧
  t.queues = s.queues ∧ (∀ x y, y < 64 → ¬(x = u ∧ y = h) → t.grp x y = s.grp x y)

/-- An issuing LDL, STL or ATOML whose threads' addresses A + sext(IMM) are aligned to the width and inside the
item's slot, the slot within local store and no injected error armed: LDL writes to each active thread's D the
little-endian bytes at its address, and nothing else; STL stores the low bytes of each active thread's B, each
byte of local store that threads store alike holding it and every byte that none stores unchanged, no thread
register changing; ATOML applies the threads' operations in ascending number, D receiving the word replaced (the
low 32 bits), every other word unchanged. A misaligned thread gives MISALIGN, else one outside the slot LSRANGE,
and nothing is written. (spec/07_thread_groups.md (R175, R177, R181, R185), spec/08_cu_memory.md (R204, R206)) -/
def Obligations.LocalStoreInstructionsReadAndWriteTheSlot : Prop :=
  ∀ (s : State) (u h : Nat) (f : GFields) (g : Group) (it : Item),
    let w := widthOf f.c
    let addr := lsAddr s u h f
    let fits (n : Nat) : Prop := ∀ k ∈ g.threads, addr k % n = 0 ∧ inSlot it (addr k) n = true
    let useL : GUse := { d := true, a := true, codes := some 3, imm := true }
    let useS : GUse := { a := true, b := true, codes := some 3, imm := true }
    let useA : GUse := { d := true, a := true, b := true, codes := some 8, imm := true }
    (slotBase it + slotSize it ≤ 2 ^ 23 → armedAt s (uCu u) 9 = false →
      (Issues s u h 0x20 f useL g it → fits w →
        ∃ t, exec (.ldl u h f) s = .next t ∧ WritesD s t u h f.d g (fun k => leNat (lsBytes s u (addr k) w))) ∧
      (Issues s u h 0x21 f useS g it → fits w →
        ∃ t, exec (.stl u h f) s = .next t ∧ MovesOn s t u h g ∧ t.regs = s.regs ∧ t.cc = s.cc ∧
          (∀ a b, (∃ k ∈ g.threads, addr k ≤ a ∧ a < addr k + w) →
            (∀ k ∈ g.threads, addr k ≤ a → a < addr k + w → (leBytes w (s.vreg u h f.b k)).getD (a - addr k) 0 = b) →
            lsByte t u a = b) ∧
          (∀ x a, a < 2 ^ 23 → (x = u → ∀ k ∈ g.threads, a < addr k ∨ addr k + w ≤ a) → lsByte t x a = lsByte s x a)) ∧
      (Issues s u h 0x25 f useA g it → fits 4 →
        let after (n : Nat) : Nat → Nat := (g.threads.filter (fun k => decide (k < n))).foldl
          (fun m k => fun x => if x = addr k then atomApply f.c 4 (m (addr k)) (s.vreg u h f.b k) % 2 ^ 32 else m x)
          (fun x => leNat (lsBytes s u x 4))
        ∃ t, exec (.atoml u h f) s = .next t ∧ t.regs = s.regs ∧ t.cc = s.cc ∧ t.items = s.items ∧
          t.grp u h = some { g with pc := (g.pc + 1) % 2 ^ 32 } ∧
          (∀ k, k < 32 → t.vreg u h f.d k = if nbit k g.active then after k (addr k) else s.vreg u h f.d k) ∧
          (∀ x y r k, y < 64 → r < 256 → k < 32 → ¬(x = u ∧ y = h ∧ r = f.d) → t.vreg x y r k = s.vreg x y r k) ∧
          (∀ a, a % 4 = 0 → a < 2 ^ 23 → leNat (lsBytes t u a 4) = after 32 a))) ∧
    (∀ c op use n, (c, op, use, n) ∈ [(Instr.ldl u h f, 0x20, useL, w), (.stl u h f, 0x21, useS, w), (.atoml u h f, 0x25, useA, 4)] →
      Issues s u h op f use g it →
      ((∃ k ∈ g.threads, addr k % n ≠ 0) → ∃ t, exec c s = .next t ∧ GroupFaulted s t u h 6 0 g it) ∧
      ((∀ k ∈ g.threads, addr k % n = 0) → (∃ k ∈ g.threads, inSlot it (addr k) n = false) →
        ∃ t, exec c s = .next t ∧ GroupFaulted s t u h 5 0 g it))

/-- An issuing LDG, STG or ATOMG whose addresses are aligned and translate without fault. LDG, with no CCUE armed
and every sector in the unit's cache writes each thread's bytes to D; with some missing and miss registers free
it takes them, writes no register and waits with the threads that miss and the values that hit. STG by one
thread to a line in the cache sets its bytes, marks exactly them dirty besides those already dirty, and leaves
the other bytes; registers, shared cache and homes do not change. ATOMG adds one log entry for each active
thread at thread 0's address and changes no register. A misaligned address faults MISALIGN; an ATOMG past 1,024
entries LOGFULL. CU_CACHE_FILL without poison fills the sectors asked for under their dirty masks, frees the
miss register, and a load that waited for one word of it receives it. (spec/07_thread_groups.md (R177, R180,
R181, R183), spec/08_cu_memory.md (R208, R211), spec/10_coherence_and_ordering.md (R278)) -/
def Obligations.MemoryInstructionsUseTheCacheAndTheLog : Prop :=
  (∀ (s : State) (u h : Nat) (f : GFields) (g : Group) (it : Item),
    let w := widthOf f.c
    let addrs := g.threads.map (fun k => (k, pairAddr s u h f k))
    let useL : GUse := { d := true, pairA := true, codes := some 3, imm := true }
    let useS : GUse := { pairA := true, b := true, codes := some 3, imm := true }
    let useA : GUse := { pairA := true, b := true, codes := some 7, imm := true }
    ((∀ p ∈ addrs, p.2 % w = 0) →
      (Issues s u h 0x22 f useL g it → ∀ ps s1, placesOf s u (itemSpace s it) w .rd (byAddress addrs) = (ps, none, s1) →
        armedAt s1 (uCu u) 13 = false → (∀ p ∈ ps, ∃ a, p.2 = .pa a) →
        let pas := ps.filterMap (fun (k, x) => match x with | .pa a => some (k, a) | _ => none)
        let hits := pas.filter (fun p => ccHits s1 u p.2)
        let miss := pas.filter (fun p => !ccHits s1 u p.2)
        (miss = [] → ∃ t, exec (.ldg u h f) s = .next t ∧ t.items = s.items ∧
          t.grp u h = some { g with pc := (g.pc + 1) % 2 ^ 32 } ∧
          (∀ k a, (k, a) ∈ hits → t.vreg u h f.d k = ccValue s1 u a w % 2 ^ 32) ∧
          (∀ x y r k, y < 64 → r < 256 → k < 32 → ¬(x = u ∧ y = h ∧ r = f.d ∧ k ∈ g.threads) → t.vreg x y r k = s.vreg x y r k)) ∧
        (∀ s2, miss ≠ [] → takeMisses s1 u (linesOf (miss.map Prod.snd)) = some s2 →
          ∃ t, exec (.ldg u h f) s = .next t ∧ t.vregs = s.vregs ∧ t.grp u h = some { g with pc := (g.pc + 1) % 2 ^ 32 } ∧
            (t.cu u).loads = (s.cu u).loads ++
              [⟨h, f.d, w, miss.map (fun p => (p.1, LoadAt.pa p.2 (pairAddr s u h f p.1))), hits.map (fun p => (p.1, ccValue s1 u p.2 w))⟩])) ∧
      (Issues s u h 0x23 f useS g it → ∀ k a s1 way, g.threads = [k] →
        placesOf s u (itemSpace s it) w .wr (byAddress addrs) = ([(k, .pa a)], none, s1) → a % w = 0 →
        ccFind s1 u (a / 128) = some way → (s1.ccWay (ccKey u (a / 128) way)).secs.length = 4 →
        ∃ t, exec (.stg u h f) s = .next t ∧ MovesOn s t u h g ∧ t.regs = s.regs ∧ t.sc = s.sc ∧ t.homes = s.homes ∧
          let x := (s1.ccWay (ccKey u (a / 128) way)).sec (a % 128 / 32)
          let y := (t.ccWay (ccKey u (a / 128) way)).sec (a % 128 / 32)
          y.valid = true ∧
          (∀ i, i < w → y.byteAt (a % 32 + i) = (leBytes w (s.vreg u h f.b k)).getD i 0 ∧ nbit (a % 32 + i) y.dirty = true) ∧
          (∀ i, i < 32 → i < a % 32 ∨ a % 32 + w ≤ i → y.byteAt i = x.byteAt i ∧ nbit i y.dirty = nbit i x.dirty)) ∧
      (∀ c op use, (c, op, use) ∈ [(Instr.ldg u h f, 0x22, useL), (.stg u h f, 0x23, useS)] → Issues s u h op f use g it →
        ∀ acc ps e s1, acc = (if op = 0x22 then Acc.rd else Acc.wr) → placesOf s u (itemSpace s it) w acc (byAddress addrs) = (ps, some e, s1) →
        ∃ t, exec c s = .next t ∧ t.vregs = s.vregs ∧ t.cc = s.cc ∧ t.grp u h = some g)) ∧
    ((∃ p ∈ addrs, p.2 % w ≠ 0) →
      (Issues s u h 0x22 f useL g it → ∃ t, exec (.ldg u h f) s = .next t ∧ GroupFaulted s t u h 6 0 g it) ∧
      (Issues s u h 0x23 f useS g it → ∃ t, exec (.stg u h f) s = .next t ∧ GroupFaulted s t u h 6 0 g it)) ∧
    (Issues s u h 0x24 f useA g it →
      let va := pairAddr s u h f 0
      (va % 4 ≠ 0 → ∃ t, exec (.atomg u h f) s = .next t ∧ GroupFaulted s t u h 6 0 g it) ∧
      (va % 4 = 0 → 1024 < it.log.length + g.threads.length →
        ∃ t, exec (.atomg u h f) s = .next t ∧ GroupFaulted s t u h 8 0 g it) ∧
      (va % 4 = 0 → it.log.length + g.threads.length ≤ 1024 → ∀ x s1, unitXlat s u (itemSpace s it) va 4 .at = (x, s1) →
        (∀ k l p, x ≠ .fault k l p) →
        ∃ t, exec (.atomg u h f) s = .next t ∧ t.grp u h = some { g with pc := (g.pc + 1) % 2 ^ 32 } ∧ t.vregs = s.vregs ∧
          t.cc = s.cc ∧ t.regs = s.regs ∧ (∀ i, i ≠ g.item → t.item i = s.item i) ∧
          t.item g.item = some { it with log := it.log ++ g.threads.map (fun k => ⟨g.gid, k, f.c, va, s.vreg u h f.b k⟩) }))) ∧
  (∀ (u line : Nat) (m : MissReg) (s s1 : State), live s = true → (s.cu u).misses.find? (fun x => x.line == line) = some m →
    homeReadLine s 1 (line * 128) m.sectors = (false, s1) →
    ∃ t, exec (.cuCacheFill u line) s = .next t ∧ (t.cu u).misses = (s.cu u).misses.filter (fun x => x.line != line) ∧
      t.items = s.items ∧
      (∀ way i, ccFind s1 u line = some way → (s1.ccWay (ccKey u line way)).secs.length = 4 → i < 4 → nbit i m.sectors = true →
        (t.ccWay (ccKey u line way)).sec i =
          ((s1.ccWay (ccKey u line way)).sec i).fill (((s1.bytes (line * 128) 128).drop (32 * i)).take 32)) ∧
      (∀ h d w k b va, (s.cu u).loads = [⟨h, d, w, [(k, .pa b va)], []⟩] → b / 128 = line → nbit (b % 128 / 32) m.sectors = true →
        (t.cu u).loads = [] ∧
        t.vreg u h d k = (if (ccFind s1 u line).isSome then ccValue t u b w else leNat (s1.bytes b w)) % 2 ^ 32))

/-- The group's new control state, and nothing else of the groups, registers, items, jobs or queues. -/
def GoesTo (s t : State) (u h : Nat) (g' : Group) : Prop :=
  t.grp u h = some g' ∧ t.vregs = s.vregs ∧ t.regs = s.regs ∧ t.items = s.items ∧ t.jobs = s.jobs ∧ t.queues = s.queues ∧
  t.ls = s.ls ∧ t.fab = s.fab ∧ (∀ x y, y < 64 → ¬(x = u ∧ y = h) → t.grp x y = s.grp x y)

/-- For each that issues: NOP moves on. MFENCE with no load of the group outstanding moves on: C = 0 changes nothing
else, C = 1 leaves no clean sector in the unit's cache, C = 2 leaves none dirty and waits while an earlier
remote write is unacknowledged. MXISSUE by all 32 threads with a descriptor aligned and inside the slot and room
in the queue appends those 64 bytes as an operation; not all threads COLLDIV, misaligned MISALIGN, outside
LSRANGE. MXWAIT moves on once MXCTR has reached the target, waits for operations it has accepted, else ILLEGAL.
SHFL by all 32 threads gives each the A of thread B mod 32, else COLLDIV. SPEC gives the value of its code,
ILLEGAL for none. TRAP faults with its IMM as TAG. A word that breaks R176 faults ILLEGAL, as does a word that
is no instruction at the group's pc (log entry 28). (spec/07_thread_groups.md (R172, R176, R177, R179, R191,
R198), spec/05_matrix_engine.md (R144, R146), spec/08_cu_memory.md (R215), spec/10_coherence_and_ordering.md
(R279)) -/
def Obligations.CollectiveAndWaitingInstructionsFollowTheirRules : Prop :=
  ∀ (s : State) (u h : Nat) (f : GFields) (g : Group) (it : Item),
    (Issues s u h 0x00 f {} g it → ∃ t, exec (.groupNop u h f) s = .next t ∧ MovesOn s t u h g ∧ t.regs = s.regs ∧ t.ls = s.ls) ∧
    (live s = true → s.grp u h = some g → s.item g.item = some it → canIssue s u h g it = true → it.kind = 2 →
      wordAt (programOf s it) g.pc = none → ∃ t, exec (.groupNop u h f) s = .next t ∧ GroupFaulted s t u h 4 0 g it) ∧
    (Issues s u h 0x26 f { codes := some 3 } g it → loadsDone s u h = true →
      (f.c = 0 → ∃ t, exec (.mfenceOrder u h f) s = .next t ∧ MovesOn s t u h g ∧ t.cc = s.cc ∧ t.regs = s.regs) ∧
      (f.c = 1 → ∃ t, exec (.mfenceAcquire u h f) s = .next t ∧ MovesOn s t u h g ∧ t.regs = s.regs ∧
        (∀ k ∈ ccKeys t u, ∀ x ∈ (t.ccWay k).secs, x.valid = true → x.dirty ≠ 0 ∧ x.fetched = false)) ∧
      (f.c = 2 → ∃ t, exec (.mfenceRelease u h f) s = .next t ∧
        (∀ k ∈ ccKeys t u, ∀ x ∈ (t.ccWay k).secs, x.dirty = 0) ∧ t.vregs = s.vregs ∧ t.items = s.items ∧
        (unacked s (fun p => p == .group it.job g.item h) = false → t.grp u h = some { g with pc := (g.pc + 1) % 2 ^ 32, wait := .none }) ∧
        (unacked s (fun p => p == .group it.job g.item h) = true → t.grp u h = some { g with wait := .ack }))) ∧
    (Issues s u h 0x37 f { a := true } g it →
      let a := s.vreg u h f.a 0
      (g.active ≠ 0xFFFFFFFF → ∃ t, exec (.mxissue u h f) s = .next t ∧ GroupFaulted s t u h 1 0 g it) ∧
      (g.active = 0xFFFFFFFF → a % 64 ≠ 0 → ∃ t, exec (.mxissue u h f) s = .next t ∧ GroupFaulted s t u h 6 0 g it) ∧
      (g.active = 0xFFFFFFFF → a % 64 = 0 → inSlot it a 64 = false →
        ∃ t, exec (.mxissue u h f) s = .next t ∧ GroupFaulted s t u h 5 0 g it) ∧
      (g.active = 0xFFFFFFFF → a % 64 = 0 → inSlot it a 64 = true →
        (opsOf (s.cu u) g.item h < 16 → (s.cu u).mxq.length < 32 → armedAt s (uCu u) 9 = false →
          ∃ t, exec (.mxissue u h f) s = .next t ∧ MovesOn s t u h g ∧ t.regs = s.regs ∧ t.ls = s.ls ∧
            t.cu u = { s.cu u with mxq := (s.cu u).mxq ++ [⟨g.item, h, .desc (lsBytes s u a 64), false⟩] }) ∧
        (16 ≤ opsOf (s.cu u) g.item h ∨ 32 ≤ (s.cu u).mxq.length → exec (.mxissue u h f) s = .next s))) ∧
    (Issues s u h 0x38 f { a := true } g it →
      let n := s.vreg u h f.a 0 % 65536
      (ctrMet g.ctr n = true → ∃ t, exec (.mxwait u h f) s = .next t ∧ MovesOn s t u h g ∧ t.regs = s.regs) ∧
      (ctrMet g.ctr n = false → (n + 65536 - g.ctr) % 65536 ≤ opsOf (s.cu u) g.item h →
        ∃ t, exec (.mxwait u h f) s = .next t ∧ GoesTo s t u h { g with wait := .mx n }) ∧
      (ctrMet g.ctr n = false → opsOf (s.cu u) g.item h < (n + 65536 - g.ctr) % 65536 →
        ∃ t, exec (.mxwait u h f) s = .next t ∧ GroupFaulted s t u h 4 0 g it)) ∧
    (Issues s u h 0x39 f useDab g it →
      (g.active = 0xFFFFFFFF → ∃ t, exec (.shfl u h f) s = .next t ∧
        WritesD s t u h f.d g (fun k => s.vreg u h f.a (s.vreg u h f.b k % 32))) ∧
      (g.active ≠ 0xFFFFFFFF → ∃ t, exec (.shfl u h f) s = .next t ∧ GroupFaulted s t u h 1 0 g it)) ∧
    (Issues s u h 0x3A f { d := true, imm := true } g it →
      (∀ code, f.imm % 256 = code → code ≤ 9 → ∃ (t : State) (val : Nat → Nat), exec (.spec u h f) s = .next t ∧
        WritesD s t u h f.d g (fun k => val k % 2 ^ 32) ∧
        (code = 0 → ∀ k, val k = k) ∧ (code = 1 → ∀ k, val k = g.gid) ∧ (code = 3 → ∀ k, val k = slotBase it) ∧
        (code = 4 → ∀ k, val k = slotSize it) ∧ (code = 6 → ∀ k, val k = g.ctr) ∧ (code = 7 → ∀ k, val k = g.live) ∧
        (code = 8 → ∀ k, val k = g.active) ∧ (code = 9 → ∀ k, val k = h) ∧
        (code = 2 → ∀ j st, s.job it.job = some j → j.stn it.sid = some st → ∀ k, val k = par st.df 0 1) ∧
        (code = 5 → ∀ k, val k = slotBase it + slotSize it - (g.gid + 1) * (fieldAt (programOf s it) 4 2 * 1024))) ∧
      (9 < f.imm % 256 → ∃ t, exec (.spec u h f) s = .next t ∧ GroupFaulted s t u h 4 0 g it)) ∧
    (Issues s u h 0x3B f { imm := true } g it → ∃ t, exec (.trap u h f) s = .next t ∧ GroupFaulted s t u h 9 f.imm g it) ∧
    (∀ c op use, (c, op, use) ∈ [(Instr.iadd u h f, 0x01, useDab), (.fsqrt u h f, 0x17, useDa), (.movi u h f, 0x0D, { d := true, imm := true }),
        (.ldl u h f, 0x20, { d := true, a := true, codes := some 3, imm := true }), (.exit u h f, 0x33, {}),
        (.ldg u h f, 0x22, { d := true, pairA := true, codes := some 3, imm := true }), (.shfl u h f, 0x39, useDab)] →
      live s = true → s.grp u h = some g → s.item g.item = some it → it.kind = 2 → canIssue s u h g it = true →
      wordAt (programOf s it) g.pc = some (gWord op f) → use.illegal g.regs f = true →
      ∃ t, exec c s = .next t ∧ GroupFaulted s t u h 4 0 g it)

/-- For each that issues: BRA adds sext(IMM) to pc modulo 2^32. BRC with no thread taken falls through, with all
taken jumps; a divergent one in a collective region faults COLLDIV, with fewer than two free stack entries
STACKOF, else the taken threads go on at the target above a PEND entry for the rest and a JOIN entry with the
whole set. JOIN with an empty stack moves on, else the top entry is taken: a JOIN resumes its live threads after
its address, a PEND its live threads at its pc. EXIT in a collective region faults COLLDIV, else its threads are
live no more, also in the stack, and the rest resume. BAR waits; if every live thread of the item's groups waits
there, all go on after it. COLLB by all threads opens a region, not all COLLDIV, a second ILLEGAL; COLLE closes
one, without one ILLEGAL. A barrier's timer faults the item's lowest group that is not there with BARTMO.
(spec/07_thread_groups.md (R177, R188, R189, R190, R192, R194, R197, R198)) -/
def Obligations.ControlFlowInstructionsFollowReconvergence : Prop :=
  (∀ (s : State) (u h : Nat) (f : GFields) (g : Group) (it : Item),
    let fall := (g.pc + 1) % 2 ^ 32
    let dest := pcMove g.pc (toSigned 24 f.imm)
    (Issues s u h 0x30 f { imm := true } g it → ∃ t, exec (.bra u h f) s = .next t ∧ GoesTo s t u h { g with pc := dest }) ∧
    (Issues s u h 0x31 f { a := true, imm := true, bc := true } g it →
      let taken := maskOf (g.threads.filter (fun k => decide (s.vreg u h f.a k ≠ 0)))
      (taken = 0 → ∃ t, exec (.brc u h f) s = .next t ∧ GoesTo s t u h { g with pc := fall }) ∧
      (taken ≠ 0 → taken = g.active → ∃ t, exec (.brc u h f) s = .next t ∧ GoesTo s t u h { g with pc := dest }) ∧
      (taken ≠ 0 → taken ≠ g.active →
        (g.coll = true → ∃ t, exec (.brc u h f) s = .next t ∧ GroupFaulted s t u h 1 0 g it) ∧
        (g.coll = false → 30 < g.stack.length → ∃ t, exec (.brc u h f) s = .next t ∧ GroupFaulted s t u h 7 0 g it) ∧
        (g.coll = false → g.stack.length ≤ 30 →
          ∃ t, exec (.brc u h f) s = .next t ∧ GoesTo s t u h { g with pc := dest, active := taken, stack :=
            ⟨false, fall, g.active - taken⟩ :: ⟨true, pcMove g.pc (toSigned 16 (f.b * 256 + f.c)), g.active⟩ :: g.stack }))) ∧
    (Issues s u h 0x32 f {} g it →
      (g.stack = [] → ∃ t, exec (.join u h f) s = .next t ∧ GoesTo s t u h { g with pc := fall }) ∧
      (∀ e rest, g.stack = e :: rest → e.mask &&& g.live ≠ 0 →
        ∃ t, exec (.join u h f) s = .next t ∧
          GoesTo s t u h { g with active := e.mask &&& g.live, pc := if e.join then (e.pc + 1) % 2 ^ 32 else e.pc, stack := rest })) ∧
    (Issues s u h 0x33 f {} g it →
      (g.coll = true → ∃ t, exec (.exit u h f) s = .next t ∧ GroupFaulted s t u h 1 0 g it) ∧
      (g.coll = false → g.active = g.live → ∃ t x, exec (.exit u h f) s = .next t ∧ t.grp u h = some x ∧ x.live = 0 ∧ x.active = 0 ∧
        t.vregs = s.vregs ∧ t.items = s.items ∧ t.regs = s.regs) ∧
      (g.coll = false → ∀ e, g.stack = [e] → (e.mask - (e.mask &&& g.active)) &&& (g.live - (g.live &&& g.active)) ≠ 0 →
        ∃ t x, exec (.exit u h f) s = .next t ∧ t.grp u h = some x ∧ x.live = g.live - (g.live &&& g.active) ∧ x.stack = [] ∧
          x.active = (e.mask - (e.mask &&& g.active)) &&& (g.live - (g.live &&& g.active)) ∧
          x.pc = (if e.join then (e.pc + 1) % 2 ^ 32 else e.pc) ∧ t.vregs = s.vregs ∧ t.items = s.items)) ∧
    (Issues s u h 0x34 f { imm := true } g it →
      (itemGroups s u g.item = [(h, g)] → g.active = g.live →
        ∃ t, exec (.bar u h f) s = .next t ∧ GoesTo s t u h { g with pc := fall, wait := .none }) ∧
      ((∃ p ∈ itemGroups s u g.item, p.1 ≠ h ∧ p.2.atBar (f.imm % 16) = false) →
        ∃ t, exec (.bar u h f) s = .next t ∧ GoesTo s t u h { g with wait := .bar (f.imm % 16) })) ∧
    (Issues s u h 0x35 f {} g it →
      (g.active ≠ 0xFFFFFFFF → ∃ t, exec (.collb u h f) s = .next t ∧ GroupFaulted s t u h 1 0 g it) ∧
      (g.active = 0xFFFFFFFF → g.coll = true → ∃ t, exec (.collb u h f) s = .next t ∧ GroupFaulted s t u h 4 0 g it) ∧
      (g.active = 0xFFFFFFFF → g.coll = false →
        ∃ t, exec (.collb u h f) s = .next t ∧ GoesTo s t u h { g with pc := fall, coll := true })) ∧
    (Issues s u h 0x36 f {} g it →
      (g.coll = false → ∃ t, exec (.colle u h f) s = .next t ∧ GroupFaulted s t u h 4 0 g it) ∧
      (g.coll = true → ∃ t, exec (.colle u h f) s = .next t ∧ GoesTo s t u h { g with pc := fall, coll := false }))) ∧
  (∀ (s : State) (u islot n k h : Nat) (g : Group) (it : Item), live s = true →
    s.liveItems.find? (fun p => p.2.islot == some islot && p.2.owner == uSite u && p.2.die == uDie u && onUnit p.2.kind) = some (k, it) →
    advances s u = true → it.err = none → itemWaits s k = false → s.item k = some it → it.kind = 2 → h < 64 → s.grp u h = some g →
    g.item = k → (itemGroups s u k).any (fun p => decide (p.2.wait = .bar n)) = true →
    (itemGroups s u k).find? (fun p => !p.2.atBar n) = some (h, g) →
    ∃ t, exec (.barrierTimeout u islot n) s = .next t ∧ GroupFaulted s t u h 2 0 g it)

/-- On a live module, for a unit that advances. MXE_OP_START of a descriptor that fails a check of R135 records
cause and group, sets DESCERR, ends the group's item with GRPFAULT and drops the group's operations that have
not started; one that passes starts and, with SLABKEEP not asked for, leaves the tag of its last slab; neither
touches local store. MXE_OP_COMPLETE of the started operation at the head takes it from the queue, writes local
store as its descriptor says (or marks the tiles of the device's own run) and advances the group's MXCTR,
releasing it if it waited for that count. MOVER_TILE_DONE for a tile of a running item, with what it reads and
writes readable and writable, records the tile written with ROWS, COLS and ZPAD, or the tile stored to memory,
or ends the item with the status that the tile's work gives. A tile holds the elements given within its rows and
columns, and zeros elsewhere. (spec/05_matrix_engine.md (R132, R133, R134, R135, R138, R144, R146, R149),
spec/03_stations_and_streams.md (R74, R76, R77, R78), spec/08_cu_memory.md (R218, R219)) -/
def Obligations.MatrixOperationsAndMoversMakeTiles : Prop :=
  (∀ (u : Nat) (o : MxOp) (it : Item) (g : Group) (s : State), live s = true → advances s u = true → s.item o.item = some it →
    s.grp u o.group = some g → g.item = o.item → o.group < 64 →
    (∀ b, nextOp (s.cu u) = some o → o.src = .desc b →
      let d := mxDesc b
      (∀ cause, mxCheck d (slotBase it) (slotBase it + slotSize it) = some cause →
        ∃ t, exec (.mxeOpStart u) s = .next t ∧ t.reg (regAddr (uMxe u) 0x118) = BitVec.ofNat 64 (cause * 256 + o.group % 64) ∧
          t.err (uMxe u) = setBit 8 (s.err (uMxe u)) true ∧ t.ls = s.ls ∧ t.groups = s.groups ∧
          (t.cu u).mxq = (s.cu u).mxq.filter (fun x => x.started || !(x.item == o.item && x.group == o.group)) ∧
          t.item o.item = some { it with log := [], err := some (it.err.getD (stGrpFault, 3, 0)) }) ∧
      (mxCheck d (slotBase it) (slotBase it + slotSize it) = none →
        ∃ t, exec (.mxeOpStart u) s = .next t ∧ t.regs = s.regs ∧ t.items = s.items ∧ t.groups = s.groups ∧ t.ls = s.ls ∧
          (t.cu u).mxq = updFirst (fun x => !x.started) (fun x => { x with started := true }) (s.cu u).mxq ∧
          (d.keep = false → (t.cu u).slab = some (o.item, d.addrB + (d.kb - 1) * d.kstrB, d.fmtB)))) ∧
    (∀ rest, (s.cu u).mxq = o :: rest → o.started = true → armedAt s (uCu u) 9 = false →
      let g1 := { g with ctr := (g.ctr + 1) % 65536 }
      let g2 : Group := match g.wait with
        | .mx n => if ctrMet g1.ctr n then { g1 with wait := .none, pc := (g.pc + 1) % 2 ^ 32 } else g1
        | _ => g1
      (∀ b, o.src = .desc b →
        ∃ t more, exec (.mxeOpComplete u) s = .next t ∧ (t.cu u).mxq = rest ++ more ∧ t.grp u o.group = some g2 ∧
          t.vregs = s.vregs ∧ t.regs = s.regs ∧
          (∀ a, lsByte t u a = lsByte (mxWrite s u it (mxDesc b) (mxTiles s u (mxDesc b))) u a)) ∧
      (∀ c r n kb0 kb, o.src = .dev c r n kb0 kb →
        ∃ t more x, exec (.mxeOpComplete u) s = .next t ∧ (t.cu u).mxq = rest ++ more ∧ t.grp u o.group = some g2 ∧
          t.ls = s.ls ∧ t.item o.item = some x ∧ x.computed = it.computed ++ devDone s it c r n (kb0 + kb)))) ∧
  (∀ (u islot ord n : Nat) (it : Item) (j : Job) (st : Stn) (s : State), live s = true →
    (runningOn s u).find? (fun p => p.2.islot == some islot) = some (n, it) → s.job it.job = some j → j.stn it.sid = some st →
    advances s u = true → s.accepts (uPmp u) = true → it.tagsOk = true → it.err = none → itemWaits s n = false →
    it.ords.contains ord = true → it.wrote.all (fun w => w.ord != ord) = true → it.kind ≠ 2 →
    (it.kind = 1 → it.computed.contains ord = true) → (it.kind ≠ 1 → it.computed.contains ord = false) →
    let d := st.df
    let c := Instr.moverTileDone u islot ord
    let cols := (gridOf j d).2
    let r := moverRq s u n it
    let tj : TileJob := ⟨j, d, it, ord / cols, ord % cols, if d.kind = 3 then s.free else 0⟩
    ∀ l s1 table s2, rqReads r tj.ranges (prefetchTiles (if d.kind = 3 then s.takeFree.2 else s) u r tj) = (some (l, false), s1) →
      rqReads r (if d.kind = 3 then tj.gatherRanges (tagOf (nth l 0)) (nth l 1) else []) s1 = (some (table, false), s2) →
      (∀ status, tj.make l table = .bad status → ∃ t, exec c s = .next t ∧ (∀ i, i ≠ n → t.item i = s.item i) ∧
        t.jobs = s.jobs ∧ t.item n = some { it with err := some (status, 0, 0), log := [] }) ∧
      (∀ ws s3, tj.make l table = .mem ws → rqWrites s2 r ws = (true, s3) → ∃ t, exec c s = .next t ∧
        (∀ i, i ≠ n → t.item i = s.item i) ∧ t.jobs = s.jobs ∧ t.item n = some { it with computed := it.computed ++ [ord] }) ∧
      (∀ bytes rows cs z cid x s3, tj.make l table = .tile bytes rows cs z → d.outs.getD 0 none = some cid → j.cnd cid = some x →
        rqWrites s2 r [(j.slotVa cid x (x.ordinal j.s0 it.step tj.r tj.c), bytes)] = (true, s3) →
        ∃ t, exec c s = .next t ∧ (∀ i, i ≠ n → t.item i = s.item i) ∧ t.jobs = s.jobs ∧
          t.item n = some { it with wrote := it.wrote ++ [⟨0, ord, rows, cs, z⟩] })) ∧
  (∀ (fmt rows cols i k : Nat) (f : Nat → Nat → Nat), (fmtKind fmt).isSome = true → rows ≤ 64 → cols ≤ 64 → i < 64 → k < 64 →
    elemRaw fmt (tileElems fmt rows cols f) i k = if i < rows ∧ k < cols then f i k % 2 ^ elemBits fmt else 0)

/-- On a live module, for a C-die's maintenance engine. A CME_CLEAN, CME_INVAL or CME_FLUSH with that operation in
CME_OP is accepted, if the engine is enabled and RUNNING with a free place, a target is chosen, the unit exists,
the queue is enabled and the range is aligned and within bounds, as a request with the operation, range, space,
unit, targets, queue and tag of its registers, and changes nothing else; otherwise it is rejected.
CME_REQUEST_DONE with no request of a descriptor waiting takes the head request from the engine, counts DONE
modulo 2^32 and sets LASTSKIP to the pages skipped, at most 0xFFFF; after a FLUSH of one translated page in the
units' caches no cache of a unit in service there holds a valid sector of the range. A way-mask register takes
the value written and no other register changes. (spec/08_cu_memory.md (R223, R225, R226, R227, R228, R229),
spec/02_register_pages.md (R53)) -/
def Obligations.MaintenanceEnginesServeTheirRequests : Prop :=
  ∀ (d : Nat) (s : State), live s = true → hasCdie s d = true →
    let page := pgCme d
    let va := (s.reg (regAddr page 0x100)).toNat
    let len := (s.reg (regAddr page 0x108)).toNat
    let op := s.reg (regAddr page 0x110)
    let unit := fld 17 8 op
    let bad := (bit 2 op = false ∧ bit 3 op = false) ∨ (unit ≠ 0x3FF ∧ ¬(unit < 576 ∧ inService s (d * 576 + unit) = true)) ∨
      s.en (pgQue (fld 31 20 op)) = false ∨ 2 ^ 57 < va + len ∨ va % 128 ≠ 0 ∨ len % 128 ≠ 0 ∨ len = 0 ∨ 2 ^ 41 ≤ len ∨
      8 ≤ (s.cme d).reqs.length ∨ s.accepts page = false
    (∀ c n, (c, n) ∈ [(Instr.cmeClean d, 1), (.cmeInval d, 2), (.cmeFlush d, 3)] → fld 1 0 op = n →
      (bad → exec c s = .next (raise s page 0)) ∧
      (¬bad → exec c s = .next (s.setCme d { s.cme d with reqs := (s.cme d).reqs ++
        [⟨n, va, len, fld 7 4 op, unit, bit 2 op, bit 3 op, some (fld 31 20 op, fld 47 32 op), none⟩] }))) ∧
    (∀ r rest, (s.cme d).reqs = r :: rest → (s.cme d).backlog = [] → r.desc = none → s.dst page ≠ 3 → awake s = true →
      let skip := (cmePages d r (r.len / 4096 + 2) s r.va r.len).1
      ∃ t, exec (.cmeRequestDone d) s = .next t ∧
        t.cme d = { s.cme d with reqs := rest, done := ((s.cme d).done + 1) % 2 ^ 32, lastSkip := min skip 0xFFFF } ∧
        t.jobs = s.jobs ∧ t.items = s.items ∧ t.units = s.units ∧
        (∀ a s1, r.op = 3 → r.tcu = true → r.unit = 0x3FF → 0 < r.len → r.len ≤ 4096 - r.va % 4096 →
          translate s d r.aspace (sext57 r.va) none = (.pa a, s1) → isMem s1 a = true →
          ∀ k, inService s (k / 65536) = true → uDie (k / 65536) = d → a / 128 ≤ (t.ccWay k).line →
            (t.ccWay k).line * 128 < a + r.len → ∀ x ∈ (t.ccWay k).secs, x.valid = false)) ∧
    (∀ n v, n < 2 → exec (.scWaymaskWrite d n v) s = .next (s.setReg (regAddr (pgSc d 0) (0x100 + 8 * n)) v))

/-- The event counters' interrupt is off: no counted event writes memory (R527). -/
def EvQuiet (s : State) : Prop := bit 0 (s.reg (regAddr pgGlb 0x1C0)) = false

/-- On a live module with the event interrupt off. A masked write to near memory that the shared cache does not hold
sets exactly its bytes: a whole line also drops the buffer's entry and clears poison; a partial one merges into
its entry, takes a new one, or, with combining off, leaves the buffer. A read shows the line; without error
nothing else of memory, registers but counters, or poison changes; a correctable error is counted and sets CE
and the line is delivered; an uncorrectable one poisons the line, sets UE and POISON, and is delivered poisoned.
WC_AGE_TIMEOUT writes out the oldest entry. PATROL_SCRUB without error moves to the next line and shows nothing.
A package above 95 degrees limits its channel until below 90; HOT is as reported. FMC link training reports
LINKUP, width and capacity; its loss clears them, withdraws the range and, if enabled, sets LINKDN.
(spec/09_memory_tiers.md (R238, R239, R240, R241, R246, R248, R249), spec/18_power_and_thermal.md (R495)) -/
def Obligations.MemoryChannelsCombineReadScrubAndLink : Prop :=
  (∀ (addr mask : Nat) (data : List Byte) (s : State), live s = true → EvQuiet s → isNear s addr = true → scFind s addr = none →
    let d := homeDie s addr
    let ch := nmcOf addr
    let line := addr / 128
    let c := s.nmc d ch
    let m := mask % 2 ^ 128
    let base := addr / 128 * 128
    let written (t : State) : Prop :=
      (∀ k, k < 128 → t.byte (base + k) = if nbit k mask ∧ k < data.length then data.getD k 0 else s.byte (base + k)) ∧
      (∀ a, a < base ∨ base + 128 ≤ a → t.byte a = s.byte a)
    (m = fullMask → ∃ t, exec (.nmcWrite addr mask data) s = .next t ∧ written t ∧ t.poisoned addr = false ∧
      (t.nmc d ch).wc = c.wc.filter (fun p => p.1 != line)) ∧
    (m ≠ 0 → m ≠ fullMask → wcen s d ch = true →
      (∀ old, c.wc.find? (fun p => p.1 == line) = some (line, old) → old ||| m ≠ fullMask →
        ∃ t, exec (.nmcWrite addr mask data) s = .next t ∧ written t ∧
          (t.nmc d ch).wc = updFirst (fun p => p.1 == line) (fun p => (p.1, old ||| m)) c.wc) ∧
      (c.wc.find? (fun p => p.1 == line) = none → c.wc.length < 64 →
        ∃ t, exec (.nmcWrite addr mask data) s = .next t ∧ written t ∧ (t.nmc d ch).wc = c.wc ++ [(line, m)])) ∧
    (m ≠ 0 → m ≠ fullMask → wcen s d ch = false → armedAt s (pgNmc d ch) 8 = false → armedAt s (pgNmc d ch) 9 = false →
      ∃ t, exec (.nmcWrite addr mask data) s = .next t ∧ written t ∧ t.nmcs = s.nmcs)) ∧
  (∀ (addr : Nat) (s : State), live s = true → EvQuiet s → isNear s addr = true → scFind s addr = none →
    let page := pgNmc (homeDie s addr) (nmcOf addr)
    let base := addr / 128 * 128
    armedAt s page 8 = false → armedAt s page 9 = false → s.poisoned addr = false →
    (∃ t, exec (.nmcRead addr .none) s = .next t ∧ t.outs = .line base (s.bytes base 128) false :: s.outs ∧ t.mem = s.mem ∧
      t.regs = s.regs ∧ t.poison = s.poison ∧ t.errs = s.errs) ∧
    (∃ t, exec (.nmcRead addr .ce) s = .next t ∧ t.outs.head? = some (.line base (t.bytes base 128) false) ∧
      t.err page = setBit 8 (s.err page) true ∧ t.poison = s.poison ∧
      t.reg (regAddr page 0x110) = satFld 31 0 (s.reg (regAddr page 0x110)) 1 ∧
      t.reg (regAddr page 0x118) = BitVec.ofNat 64 (addr / 128 * 128)) ∧
    (∃ t, exec (.nmcRead addr .ue) s = .next t ∧ t.outs.head? = some (.line base (t.bytes base 128) true) ∧
      t.err page = setBit 10 (setBit 9 (s.err page) true) true ∧ t.poisoned addr = true)) ∧
  (∀ (d ch : Nat) (s : State), live s = true → EvQuiet s → hasCdie s d = true → ch < 16 →
    armedAt s (pgNmc d ch) 8 = false → armedAt s (pgNmc d ch) 9 = false →
    (∀ l m rest, (s.nmc d ch).wc = (l, m) :: rest → ∃ t, exec (.wcAgeTimeout d ch) s = .next t ∧
      (t.nmc d ch).wc = (s.nmc d ch).wc.filter (fun p => p.1 != l) ∧ t.mem = s.mem ∧ t.poison = s.poison) ∧
    (∃ t, exec (.patrolScrub d ch .none) s = .next t ∧ t.outs = s.outs ∧ t.mem = s.mem ∧ t.errs = s.errs ∧
      t.nmc d ch = { s.nmc d ch with scrub := ((s.nmc d ch).scrub + 1) % 2 ^ 30 }) ∧
    (∀ temp hot, ∃ t, exec (.lpddrOvertemp d ch temp hot) s = .next t ∧
      t.nmc d ch = { s.nmc d ch with limited := decide (95 < temp) || ((s.nmc d ch).limited && decide (90 ≤ temp)) } ∧
      t.reg (regAddr (pgNmc d ch) 0x100) = setBit 1 (s.reg (regAddr (pgNmc d ch) 0x100)) hot ∧
      (∀ a, a ≠ regAddr (pgNmc d ch) 0x100 → t.reg a = s.reg a))) ∧
  (∀ (g devcap width : Nat) (s : State), live s = true → fmcInForce s g = true →
    (exec (.fmcLinkUp g devcap width) s = .next (s.setReg (regAddr (pgFmc g) 0x108) (BitVec.ofNat 64
      (devcap % 2 ^ 32 * 2 ^ 32 + width % 32 * 2 ^ 8 + (if x16Of s g then 4 else 0) + 3)))) ∧
    (bit 0 (s.reg (regAddr (pgFmc g) 0x108)) = true →
      ∃ t, exec (.fmcLinkDown g) s = .next t ∧ t.reg (regAddr (pgFmc g) 0x108) = (if x16Of s g then 4 else 0) ∧ farRange t g = none ∧
        (s.en (pgFmc g) = true → t.err (pgFmc g) = setBit 8 (s.err (pgFmc g)) true ∧ t.fmcHeld.contains g = true) ∧
        (s.en (pgFmc g) = false → t.errs = s.errs ∧ t.fmcHeld = s.fmcHeld)))

/-- The well serves a command that starts: it is present and takes commands, no earlier WPUT or WDEL of the same name is
uncommitted, and a windlass engine is in service (R253, R255, R268). -/
def WellServes (s : State) (d : Desc) : Prop :=
  hasWell s = true ∧ wellTakes s = true ∧ nameHeld s d = false ∧ (anyWdl s).isSome = true ∧ nameOk (d.op 32 8) = true

/-- IFVER v holds for the current version of a name (R253). -/
def IfVer (cur : Option WellVer) (v : Nat) : Prop :=
  v = 2 ^ 64 - 1 ∨ (cur = none ∧ v = 0) ∨ ∃ w, cur = some w ∧ v ≠ 0 ∧ v = w.ver

/-- A command of the well has started: its move, if it has one, is under way, and nothing else changes. -/
def WellStarted (s t : State) (q idx : Nat) (d : Desc) (m : List WellMove) : Prop :=
  descAt t q idx = some { d with stage := .started, waits := 0 } ∧ t.well = { s.well with moves := s.well.moves ++ m } ∧
  t.mem = s.mem ∧ t.jobs = s.jobs ∧ t.items = s.items ∧ t.errs = s.errs ∧ (∀ a, t.reg a = s.reg a) ∧
  (∀ p, p ≠ q → t.queue p = s.queue p)

/-- A well command that starts: without a well it ends NOTPRESENT; while the well does not take commands, or an
earlier WPUT or WDEL of its name is uncommitted, it waits and nothing changes; with no engine in service it ends
NOENGINE; with an invalid name MALFORMED. WPUT ends MALFORMED for an invalid tensor, VERSION if IFVER does not
hold, WELLRO, HOLDUP below 9.0 J, WELLFULL with too few free units (or names), and otherwise reserves its units
and starts a move of L x LBYTES bytes. WGET ends NOTENSOR if VER names no version that is current or pinned,
MALFORMED outside the layers, and otherwise starts a move of its layers from that version. WDEL ends VERSION,
NOTENSOR, WELLRO or HOLDUP, or starts. WINFO, with its buffer translated, writes the 64-byte record of R254 and
ends OK with the VERSION, or zeros and NOTENSOR. (spec/09_memory_tiers.md (R250, R251, R253, R254, R256, R258,
R264, R268)) -/
def Obligations.WellCommandsCheckAndStart : Prop :=
  (∀ (q idx opc : Nat) (c : Instr) (d : Desc) (s : State),
    (c, opc) ∈ [(Instr.wput q idx, 0x10), (.wget q idx, 0x11), (.wdel q idx, 0x12), (.winfo q idx, 0x13)] → Starts s q idx opc d →
    (hasWell s = false → exec c s = .next (finishDesc s q idx stNotPresent 0)) ∧
    (hasWell s = true → wellTakes s = false ∨ nameHeld s d = true → exec c s = .next s) ∧
    (hasWell s = true → wellTakes s = true → nameHeld s d = false → anyWdl s = none →
      exec c s = .next (finishDesc s q idx stNoEngine 0)) ∧
    (hasWell s = true → wellTakes s = true → nameHeld s d = false → anyWdl s ≠ none → (d.op 32 8 = 0 ∨ d.op 32 8 = 2 ^ 64 - 1) →
      exec c s = .next (finishDesc s q idx stMalformed 0))) ∧
  (∀ (q idx : Nat) (d : Desc) (s : State), Starts s q idx 0x10 d → WellServes s d →
    let name := d.op 32 8
    let l := d.op 56 4
    let lb := d.op 48 8
    let fmt := d.op 60 1
    let units := (l * lb + 2 ^ 21 - 1) / 2 ^ 21
    let valid := 1 ≤ l ∧ l ≤ 2 ^ 24 ∧ lb ≠ 0 ∧ lb % 128 = 0 ∧ (fmt = 0 ∨ lb % slotBytes fmt = 0)
    let ends (st : Nat) : Prop := exec (.wput q idx) s = .next (finishDesc s q idx st 0)
    (¬valid → ends stMalformed) ∧
    (valid → ¬IfVer (currentVer s name) (d.op 40 8) → ends stVersion) ∧
    (valid → IfVer (currentVer s name) (d.op 40 8) →
      (s.well.ro = true → ends stWellRo) ∧
      (s.well.ro = false → s.well.energy < 900 → ends stHoldup) ∧
      (s.well.ro = false → 900 ≤ s.well.energy → wellFree s < units → ends stWellFull) ∧
      (s.well.ro = false → 900 ≤ s.well.energy → units ≤ wellFree s → (currentVer s name ≠ none ∨ wellNames s < 262144) →
        ∃ t, exec (.wput q idx) s = .next t ∧ wellFree t = wellFree s - units ∧
          WellStarted s t q idx d [⟨q, idx, true, name, 0, fmt, l, lb, d.op 24 8, 0, l * lb, [], []⟩]))) ∧
  (∀ (q idx : Nat) (d : Desc) (s : State), Starts s q idx 0x11 d → WellServes s d →
    let name := d.op 32 8
    let ver := d.op 40 8
    let first := d.op 48 4
    let count := d.op 52 4
    (∀ w, (ver = 0 ∧ currentVer s name = some w) ∨
        (ver ≠ 0 ∧ wellVer s name ver = some w ∧ (w.current = true ∨ verPinned s name ver = true)) →
      (count = 0 ∨ w.layers < first + count → exec (.wget q idx) s = .next (finishDesc s q idx stMalformed 0)) ∧
      (count ≠ 0 → first + count ≤ w.layers → ∃ t, exec (.wget q idx) s = .next t ∧ WellStarted s t q idx d
        [⟨q, idx, false, name, w.ver, w.fmt, w.layers, w.lbytes, d.op 24 8, first * w.lbytes, count * w.lbytes, [], []⟩])) ∧
    ((ver = 0 ∧ currentVer s name = none) ∨
        (ver ≠ 0 ∧ ∀ w, wellVer s name ver = some w → w.current = false ∧ verPinned s name ver = false) →
      exec (.wget q idx) s = .next (finishDesc s q idx stNoTensor 0))) ∧
  (∀ (q idx : Nat) (d : Desc) (s : State), Starts s q idx 0x12 d → WellServes s d →
    let cur := currentVer s (d.op 32 8)
    let ends (st : Nat) : Prop := exec (.wdel q idx) s = .next (finishDesc s q idx st 0)
    (¬IfVer cur (d.op 40 8) → ends stVersion) ∧
    (IfVer cur (d.op 40 8) → (cur = none → ends stNoTensor) ∧
      (cur ≠ none → s.well.ro = true → ends stWellRo) ∧
      (cur ≠ none → s.well.ro = false → s.well.energy < 900 → ends stHoldup) ∧
      (cur ≠ none → s.well.ro = false → 900 ≤ s.well.energy →
        ∃ t, exec (.wdel q idx) s = .next t ∧ WellStarted s t q idx d []))) ∧
  (∀ (q idx x k : Nat) (d : Desc) (s t : State), Starts s q idx 0x13 d → WellServes s d → anyWdl s = some (x, k) →
    inSump s (wellRq s x k q d).waiter = false →
    let name := d.op 32 8
    (currentVer s name = none → rqWrite s (wellRq s x k q d) (d.op 24 8) (List.replicate 64 0) = (true, t) →
      exec (.winfo q idx) s = .next (finishDesc t q idx stNoTensor 0)) ∧
    (∀ w, currentVer s name = some w →
      rqWrite s (wellRq s x k q d) (d.op 24 8) (leBytes 8 name ++ leBytes 8 w.ver ++ leBytes 1 w.fmt ++ List.replicate 3 0 ++
        leBytes 4 w.layers ++ leBytes 8 w.lbytes ++ leBytes 8 ((w.layers * w.lbytes + 2 ^ 21 - 1) / 2 ^ 21) ++
        List.replicate 24 0) = (true, t) →
      exec (.winfo q idx) s = .next (finishDesc t q idx stOk w.ver)))

/-- WELL_COMMIT of a started WPUT whose chunks are all moved, or of a started WDEL. With the well read-only the
command ends WELLRO, below 9.0 J HOLDUP, and its move is dropped. Otherwise the sequence rises by one; after a
WPUT the name's current version has the sequence's number, the tensor's form and the bytes moved; after a WDEL
the name has none; every other name keeps its current version, each older version keeps its bytes, the tensor
bytes committed rise by those of the WPUT, the well stays or becomes read-only only at the end of its sequence
or its endurance, and the descriptor ends OK with the version. A WPUT with chunks still to move does not commit.
WELL_UNITS_FREED of a version that is not current, pinned or being read removes it; every other version stays.
(spec/09_memory_tiers.md (R252, R255, R256, R257, R258, R264, R265)) -/
def Obligations.WellCommitsMakeVersionsInOrder : Prop :=
  (∀ (q idx : Nat) (d : Desc) (s : State), live s = true → descAt s q idx = some d → d.stage = .started →
    let refused (st : Nat) : Prop := ∃ u, exec (.wellCommit q idx) s = .next (finishDesc u q idx st 0) ∧
      u = { s with well := { s.well with moves := s.well.moves.filter (fun m => !(m.q == q && m.idx == idx)) } }
    let commits (name len : Nat) (new : Option WellVer) (u : State) : Prop :=
      exec (.wellCommit q idx) s = .next (finishDesc u q idx stOk s.well.nextVer) ∧
      u.well.nextVer = s.well.nextVer + 1 ∧ u.well.written = s.well.written + len ∧ currentVer u name = new ∧
      (∀ n, n ≠ name → currentVer u n = currentVer s n) ∧
      (∀ v ∈ s.well.vers, ∃ w ∈ u.well.vers, { w with current := v.current } = v) ∧
      (u.well.ro = true ↔ 2 ^ 64 - 2 ≤ s.well.nextVer + 1 ∨ 100 ≤ wellUsed u) ∧ u.jobs = s.jobs ∧ u.items = s.items ∧ u.regs = s.regs
    (d.opc = 0x10 ∨ d.opc = 0x12 →
      (s.well.ro = true → refused stWellRo) ∧ (s.well.ro = false → s.well.energy < 900 → refused stHoldup)) ∧
    (s.well.ro = false → 900 ≤ s.well.energy →
      (d.opc = 0x12 → ∃ u, commits (d.op 32 8) 0 none u) ∧
      (d.opc = 0x10 → ∀ m, moveOf s q idx = some m →
        (chunkCount m ≤ m.moved.length → ∃ u,
          commits m.name m.len (some ⟨m.name, s.well.nextVer, m.fmt, m.layers, m.lbytes, moveBytes m, true⟩) u) ∧
        (m.moved.length < chunkCount m → exec (.wellCommit q idx) s = .next s)))) ∧
  (∀ (name ver : Nat) (s : State), live s = true → verPinned s name ver = false →
    (∀ m ∈ s.well.moves, m.put = false → ¬(m.name = name ∧ m.ver = ver)) →
    ∃ t, exec (.wellUnitsFreed name ver) s = .next t ∧
      (∀ v, v ∈ t.well.vers ↔ v ∈ s.well.vers ∧ (v.current = true ∨ ¬(v.name = name ∧ v.ver = ver))) ∧
      t = { s with well := { s.well with vers := t.well.vers } })

/-- A windlass engine serves: the well is ready, the engine is in service, enabled, not STOPPED, and no injected failure is
armed (R260, R270, R472). -/
def WdlServes (s : State) (x k : Nat) : Prop :=
  live s = true ∧ hasWell s = true ∧ x < 2 ∧ k < 2 ∧ wdlFailed s (x, k) = false ∧ s.dst (pgWdl x k) ≠ 2 ∧
  s.en (pgWdl x k) = true ∧ s.well.ready = true ∧ armedAt s (pgWdl x k) 8 = false

/-- WDL_CHUNK_DONE of an engine that serves. Tile ord of one of its window items, with the station's version pinned
and the slot translated: the slot gets the tile's bytes of layer ((step - s0) x LAYERS + ord / (T / LAYERS)) mod
L, the item holds the tile with tag 64 x 64, and WDL_BYTES rises by its length; a fault of translation goes to
the sump and nothing else happens; an uncorrectable read sets UE and makes the item end WELLERR. A chunk of a
WPUT that is not moved, read without poison, becomes moved and held; with poison the command ends MEMERR and its
move is dropped. A chunk of a WGET becomes moved, and the last one ends the command OK with its version; an
uncorrectable read ends it WELLERR; no version changes. While the engine has a window item to serve, no chunk
moves. (spec/09_memory_tiers.md (R257, R260, R261, R262, R263, R269, R270)) -/
def Obligations.WindlassEnginesMoveTilesAndChunks : Prop :=
  (∀ (x k n ord : Nat) (s : State) (it : Item) (j : Job) (st : Stn) (v : WellVer) (pin cid : Nat) (c : Cnd), WdlServes s x k →
    s.item n = some it → s.job it.job = some j → j.stn it.sid = some st → it.kind = 0x10 → it.owner = x * 2 + k → it.err = none →
    itemWaits s n = false → wdlHeld s x k (itemRq s n it).waiter = false → ord ∈ it.ords → (∀ w ∈ it.wrote, w.ord ≠ ord) →
    st.pin = some pin → wellVer s (wdTensor st.df) pin = some v → st.df.outs.head? = some (some cid) → j.cnd cid = some c →
    let per := max 1 (tilesOf j st.df / max 1 (wdLayers st.df))
    let layer := ((it.step - j.s0) * wdLayers st.df + ord / per) % max 1 v.layers
    let slot := slotBytes c.df.fmt
    let bytes := (v.data.drop (layer * v.lbytes + ord % per * slot)).take slot
    let dst := j.slotVa cid c ((it.step - j.s0) * (c.df.trows * c.df.tcols) + ord)
    let a := regAddr (pgWdl x k) 0x110
    (armedAt s (pgWel x) 9 = false → ∀ s1,
      (rqWrites s (itemRq s n it) [(dst, bytes)] = (true, s1) →
        ∃ t, exec (.wdlChunkDone x k (.tile n ord) false) s = .next t ∧
          t.item n = some { it with wrote := it.wrote ++ [⟨0, ord, 64, 64, false⟩] } ∧ t.well = s1.well ∧
          t.reg a = BitVec.ofNat 64 (((s1.reg a).toNat + bytes.length) % 2 ^ 48) ∧ (EvQuiet s1 → t.mem = s1.mem)) ∧
      (rqWrites s (itemRq s n it) [(dst, bytes)] = (false, s1) →
        exec (.wdlChunkDone x k (.tile n ord) false) s = .next s1)) ∧
    (∃ t, exec (.wdlChunkDone x k (.tile n ord) true) s = .next t ∧ t.item n = some { it with err := some (stWellErr, 0, 0) } ∧
      bit 9 (t.err (pgWel x)) = true ∧ t.well = s.well)) ∧
  (∀ (x k q idx c : Nat) (s : State) (m : WellMove) (d : Desc), WdlServes s x k → s.accepts (pgWdl x k) = true →
    moveOf s q idx = some m → descAt s q idx = some d → c < chunkCount m → c ∉ m.moved →
    (∀ n it, (n, it) ∈ engineItems s 0x10 (x * 2 + k) → it.err = none → it.nord ≤ it.wrote.length) →
    let r := wellRq s x k q d
    inSump s r.waiter = false → wdlHeld s x k r.waiter = false →
    let len := min (2 ^ 26) (m.len - c * 2 ^ 26)
    let va := m.va + c * 2 ^ 26
    let ans (ue : Bool) : Out := exec (.wdlChunkDone x k (.chunk q idx c) ue) s
    let after (u : State) (n : WellMove) : WellSt :=
      { u.well with moves := u.well.moves.map (fun y => if y.q = m.q ∧ y.idx = m.idx then n else y) }
    (m.put = true → ∀ s1,
      (∀ bs, rqRead s r va len = (some (bs, false), s1) → ∃ t, ans false = .next t ∧
        t.well = after s1 { m with moved := m.moved ++ [c], buf := m.buf ++ [(c, bs)] }) ∧
      (∀ bs, rqRead s r va len = (some (bs, true), s1) → ans false = .next (finishDesc (dropMove s1 q idx) q idx stMemErr 0)) ∧
      (rqRead s r va len = (none, s1) → ans false = .next s1)) ∧
    (m.put = false → ∀ v, wellVer s m.name m.ver = some v →
      (armedAt s (pgWel x) 9 = false → ∀ s1,
        rqWrites s r [(va, (v.data.drop (m.first + c * 2 ^ 26)).take len)] = (true, s1) →
        (m.moved.length + 1 < chunkCount m → ∃ t, ans false = .next t ∧
          t.well = after s1 { m with moved := m.moved ++ [c] }) ∧
        (chunkCount m ≤ m.moved.length + 1 → ∃ u, ans false = .next (finishDesc u q idx stOk m.ver) ∧ moveOf u q idx = none ∧
          u.well.vers = s1.well.vers)) ∧
      (∃ u, ans true = .next (finishDesc u q idx stWellErr 0) ∧ moveOf u q idx = none ∧ u.well.vers = s.well.vers ∧
        bit 9 (u.err (pgWel x)) = true))) ∧
  (∀ (x k q idx c n : Nat) (it : Item) (ue : Bool) (s : State), WdlServes s x k → (n, it) ∈ engineItems s 0x10 (x * 2 + k) →
    it.err = none → it.wrote.length < it.nord → exec (.wdlChunkDone x k (.chunk q idx c) ue) s = .next s)

/-- On a live module with a well. HOLDUP_MEASURE with no injected error: the energy becomes the measurement, at most
0xFFFF; at 9.0 J or more nothing else changes; below, HOLDUP is set on both pages, every started WPUT and WDEL
is in flight no more, no version changes, and a WGET stays. WELL_RECOVERY_DONE during recovery makes the well
ready. NAND_PACKAGE_LOSS on a fitted channel marks it lost and its data to be rebuilt, and sets PKG; a second
loss of it marks it no further. WELL_REBUILD_DONE ends the rebuild and changes nothing else. NAND_OVERTEMP above
70 degrees limits the X-die's channels, below 65 no more, and between them changes nothing. Without a well each
changes nothing. (spec/09_memory_tiers.md (R257, R264, R268, R269), spec/18_power_and_thermal.md (R495)) -/
def Obligations.HoldupRecoveryAndPackagesSetTheWellsState : Prop :=
  (∀ (energy : Nat) (s : State), live s = true → hasWell s = true → armedAt s (pgWel 0) 8 = false → armedAt s (pgWel 1) 8 = false →
    (900 ≤ energy → exec (.holdupMeasure energy) s = .next { s with well := { s.well with energy := min energy 0xFFFF } }) ∧
    (energy < 900 → ∃ t, exec (.holdupMeasure energy) s = .next t ∧ t.well.energy = energy ∧ t.well.vers = s.well.vers ∧
      t.well.ro = s.well.ro ∧ (∀ y, y < 2 → t.err (pgWel y) = setBit 8 (s.err (pgWel y)) true) ∧ t.jobs = s.jobs ∧ t.regs = s.regs ∧
      (∀ q d, d ∈ (s.queue q).inflight → d.stage = .started →
        (d.opc = 0x10 ∨ d.opc = 0x12 → descAt t q d.idx = none) ∧
        (d.opc = 0x11 → (∀ e ∈ (s.queue q).inflight, e.idx = d.idx → e = d) → descAt t q d.idx = some d)))) ∧
  (∀ (s : State), live s = true → hasWell s = true → s.well.recov = true →
    exec .wellRecoveryDone s = .next { s with well := { s.well with recov := false, ready := true } }) ∧
  (∀ (x ch : Nat) (s : State), live s = true → hasWell s = true → x < 2 → ch < (if s.fuses.variant.cdies = 2 then 16 else 8) →
    ∃ t, exec (.nandPackageLoss x ch) s = .next t ∧ t.err (pgWel x) = setBit 10 (s.err (pgWel x)) true ∧ t.well.rebuild = true ∧
      (∀ y n, y < 2 → nbit n (if y = 0 then t.well.lost0 else t.well.lost1) =
        (nbit n (if y = 0 then s.well.lost0 else s.well.lost1) || (decide (y = x) && decide (n = ch)))) ∧
      t.well = { s.well with rebuild := true, lost0 := t.well.lost0, lost1 := t.well.lost1 } ∧ t.jobs = s.jobs ∧ t.items = s.items ∧
      t.queues = s.queues ∧ t.regs = s.regs) ∧
  (∀ (s : State), live s = true → hasWell s = true →
    exec .wellRebuildDone s = .next { s with well := { s.well with rebuild := false } }) ∧
  (∀ (x temp : Nat) (s : State), live s = true → hasWell s = true → x < 2 →
    ∃ t, exec (.nandOvertemp x temp) s = .next t ∧ t = { s with well := { s.well with hot := t.well.hot } } ∧
      (t.well.hot.contains x = (decide (70 < temp) || (s.well.hot.contains x && decide (65 ≤ temp)))) ∧
      ∀ y, y ≠ x → t.well.hot.contains y = s.well.hot.contains y) ∧
  (∀ (c : Instr) (s : State) (e x ch temp : Nat), hasWell s = false → c ∈ [Instr.holdupMeasure e, .wellRecoveryDone,
    .nandPackageLoss x ch, .wellRebuildDone, .nandOvertemp x temp] → exec c s = .next s)

/-- The home slice of an address. -/
def homeOf (s : State) (addr : Nat) : HomeSt := s.home (homeDie s addr) (homeSlice addr)

/-- The home of a memory address takes a request for its line now: no transaction holds the line, no request waits for it,
a transaction is free, and no injected error is armed anywhere (R291, R301, R308). -/
def HomeReady (s : State) (addr : Nat) : Prop :=
  live s = true ∧ isMem s addr = true ∧ (∀ t ∈ (homeOf s addr).txns, t.line ≠ addr / 128 ∧ t.req.line ≠ addr / 128) ∧
  (∀ r ∈ (homeOf s addr).inq, r.line ≠ addr / 128) ∧ (homeOf s addr).txns.length < 256 ∧ s.elog.armed = []

/-- A command c turns the home slice of an address into h and leaves every other home, the work, the queues and, with the
event interrupt off, the registers and, unless poison is delivered, memory as they were. -/
def HomeBecomes (s : State) (c : Instr) (addr : Nat) (h : State → HomeSt) : Prop :=
  ∃ t, exec c s = .next t ∧ homeOf t addr = h t ∧
    (∀ b, ¬(homeDie s b = homeDie s addr ∧ homeSlice b = homeSlice addr) → homeOf t b = homeOf s b) ∧
    t.jobs = s.jobs ∧ t.items = s.items ∧ t.queues = s.queues ∧ t.regs = s.regs ∧
    (EvQuiet s → s.poisoned addr = false → t.mem = s.mem)

/-- The home sends a response with the line's data as it stands in state t. -/
def dataResp (t : State) (addr kind : Nat) (agent : Option Nat) : HResp :=
  ⟨kind, agent, addr / 128, t.bytes (addr / 128 * 128) 128, t.poisoned addr⟩

/-- The home opens a transaction: the entry is pinned and a message goes to each agent of a vector. -/
def pinned (h : HomeSt) (k fwd vec : Nat) (r : HReq) (way : Option Nat) : HomeSt :=
  { h.setEnt k { h.ent k with pin := true } with txns := h.txns ++ [⟨(h.ent k).line, fwd, r, way, vec, vec, .clean, false⟩] }

/-- A coherent agent asks for a line that it needs: it is a produced agent, waits for no token, and does not hold the line
in X. -/
def Asks (s : State) (p addr : Nat) : Prop := isAgent p = true ∧ waitsToken s addr p = false ∧ holdsX s addr p = false

/-- The placement counter of a line (R299). -/
def placeCtr (s : State) (addr : Nat) : Nat := SMap.get (fun _ => 0) (homeOf s addr).pred (predIdx (addr / 128))

/-- A request that the home takes. RDSHARED: S gives data and adds p; X forwards to the holder; I takes the lowest
invalid unpinned way of the set as X of p with data, or recalls the least recently allocated, or, with all ways
pinned or the set's token held, is answered Retry and joins the token queue. RDOWN: as RDSHARED for I; X
forwards; S with other sharers sends them Inval; S of p alone becomes X with Cmp. RDONCE: data in I and S
without change, a forward in X. WRNC: performed and completed in I, Inval in S, Recall in X. ATFAR: performed in
I with the old value returned, else as WRNC. A host AMO for a line in I goes far or near by the mode or its
counter, which falls. A request for a line in transaction waits in arrival order. EVCLEAN takes the agent from
the vector; WBDIRTY performs the line and gives it up. TOKREADY accepts the token holder's request into the
reserved way. Every other home, the work, the queues and registers stay, and memory outside the bytes performed.
(spec/10_coherence_and_ordering.md (R274, R275, R291, R293, R295, R298, R299, R300, R301, R302, R303)) -/
def Obligations.RequestsChangeTheDirectory : Prop :=
  (∀ (p addr : Nat) (c : Instr) (r : HReq) (s : State), HomeReady s addr → Asks s p addr →
    (c, r) ∈ [(Instr.rdshared p addr, HReq.rdShared (addr / 128) p), (.rdown p addr none, .rdOwn (addr / 128) p)] →
    let h := homeOf s addr
    let set := dirSet addr
    (h.find addr = none → tokenSet h ≠ some set → ∀ k, k / 16 = set → (h.ent k).pin = false →
      ((h.ent k).vec = 0 → (∀ j, j / 16 = set → j < k → (h.ent j).isValid = true) →
        HomeBecomes s c addr (fun t => { h.setEnt k ⟨addr / 128, true, 2 ^ p, false, h.allocs + 1⟩ with resps := h.resps ++ [dataResp t addr 0 (some p)], allocs := h.allocs + 1 })) ∧
      ((∀ j, j / 16 = set → (h.ent j).isValid = true) →
        (∀ j, j / 16 = set → (h.ent j).pin = false → j ≠ k → (h.ent k).seq < (h.ent j).seq) →
        HomeBecomes s c addr (fun _ => pinned h k 4 (h.ent k).vec r (some k)))) ∧
    (h.find addr = none → tokenSet h = some set ∨ (∀ j, j / 16 = set → (h.ent j).pin = true) →
      HomeBecomes s c addr (fun t => { h with resps := h.resps ++ [⟨4, some p, addr / 128, [], false⟩], tokq := h.tokq ++ [r], reserved := (homeOf t addr).reserved }))) ∧
  (∀ (p addr k : Nat) (s : State), HomeReady s addr → Asks s p addr → (homeOf s addr).find addr = some k →
    let h := homeOf s addr
    let e := h.ent k
    (e.excl = false → HomeBecomes s (.rdshared p addr) addr (fun t =>
      { h.setEnt k { e with vec := vecAdd e.vec p } with resps := h.resps ++ [dataResp t addr 0 (some p)] })) ∧
    (e.excl = true → HomeBecomes s (.rdshared p addr) addr (fun _ => pinned h k 1 e.vec (.rdShared (addr / 128) p) none) ∧
      HomeBecomes s (.rdown p addr none) addr (fun _ => pinned h k 2 e.vec (.rdOwn (addr / 128) p) none)) ∧
    (e.excl = false → vecDel e.vec p ≠ 0 →
      HomeBecomes s (.rdown p addr none) addr (fun _ => pinned h k 0 (vecDel e.vec p) (.rdOwn (addr / 128) p) none)) ∧
    (e.excl = false → e.vec = 2 ^ p → HomeBecomes s (.rdown p addr none) addr (fun _ =>
      { h.setEnt k { e with excl := true } with resps := h.resps ++ [⟨2, some p, addr / 128, [], false⟩] }))) ∧
  (∀ (cls addr : Nat) (s : State), HomeReady s addr →
    let h := homeOf s addr
    let x := ∃ k, h.find addr = some k ∧ (h.ent k).excl = true
    (¬x → HomeBecomes s (.rdonce cls addr) addr (fun t => { h with resps := h.resps ++ [dataResp t addr 1 none] })) ∧
    (∀ k, h.find addr = some k → (h.ent k).excl = true →
      HomeBecomes s (.rdonce cls addr) addr (fun _ => pinned h k 3 (h.ent k).vec (.rdOnce (addr / 128) (cls % 8)) none))) ∧
  (∀ (cls addr mask op w v : Nat) (data : List Byte) (s : State), HomeReady s addr →
    let h := homeOf s addr
    let base := addr / 128 * 128
    let far := (w = 4 ∨ w = 8) ∧ addr % w = 0 ∧ op ≤ 9 ∧ (op = 6 → w = 4)
    (∀ k, h.find addr = some k → let fwd := if (h.ent k).excl then 4 else 0
      (mask % 2 ^ 128 ≠ 0 → HomeBecomes s (.wrnc cls addr mask data) addr (fun _ =>
        pinned h k fwd (h.ent k).vec (.wrNc (addr / 128) (cls % 8) (mask % 2 ^ 128) data) none)) ∧
      (far → ∃ t, exec (.atfar op w addr v) s = .next t ∧ t.regs = s.regs ∧ (EvQuiet s → t.mem = s.mem) ∧ homeOf t addr =
        { pinned h k fwd (h.ent k).vec (.atFar none (addr / 128) op w addr v) none with pred := (homeOf t addr).pred } ∧
        placeCtr t addr = min 3 (placeCtr s addr + 1))) ∧
    (h.find addr = none → EvQuiet s →
      (mask % 2 ^ 128 ≠ 0 → ∃ t, exec (.wrnc cls addr mask data) s = .next t ∧
        (∀ i, i < 128 → t.byte (base + i) = if nbit i mask ∧ i < data.length then data.getD i 0 else s.byte (base + i)) ∧
        (∀ a, a < base ∨ base + 128 ≤ a → t.byte a = s.byte a) ∧ t.regs = s.regs ∧ t.queues = s.queues ∧
        homeOf t addr = { h with resps := h.resps ++ [⟨2, none, addr / 128, [], false⟩] }) ∧
      (far → s.poisoned addr = false → ∃ t, exec (.atfar op w addr v) s = .next t ∧
        t.bytes addr w = leBytes w (atomApply op w (leNat (s.bytes addr w)) v) ∧
        (∀ a, a < addr ∨ addr + w ≤ a → t.byte a = s.byte a) ∧ t.regs = s.regs ∧ t.queues = s.queues ∧
        (homeOf t addr).resps = h.resps ++ [⟨3, none, addr / 128, s.bytes addr w, false⟩]))) ∧
  (∀ (p addr op w v k : Nat) (s : State), HomeReady s addr → Asks s p addr → EvQuiet s → s.poisoned addr = false →
    (w = 4 ∨ w = 8) → addr % w = 0 → op ≤ 9 → op ≠ 6 →
    let h := homeOf s addr
    let mode := s.regF (pgHome (homeDie s addr) (homeSlice addr)) 0x100 1 0
    h.find addr = none → (mode = 2 ∨ (mode = 0 ∧ 2 ≤ placeCtr s addr) →
      ∃ t, exec (.rdown p addr (some (op, w, v))) s = .next t ∧ placeCtr t addr = placeCtr s addr - 1 ∧
        t.bytes addr w = leBytes w (atomApply op w (leNat (s.bytes addr w)) v) ∧
        (∀ a, a < addr ∨ addr + w ≤ a → t.byte a = s.byte a) ∧
        (homeOf t addr).resps = h.resps ++ [⟨3, some p, addr / 128, s.bytes addr w, false⟩]) ∧
    (mode = 1 ∨ (mode = 0 ∧ placeCtr s addr < 2) → tokenSet h ≠ some (dirSet addr) → k / 16 = dirSet addr → (h.ent k).pin = false →
      (h.ent k).vec = 0 → (∀ j, j / 16 = dirSet addr → j < k → (h.ent j).isValid = true) →
      ∃ t, exec (.rdown p addr (some (op, w, v))) s = .next t ∧ placeCtr t addr = placeCtr s addr - 1 ∧ t.mem = s.mem ∧
        (homeOf t addr).ent k = ⟨addr / 128, true, 2 ^ p, false, h.allocs + 1⟩ ∧
        (homeOf t addr).resps = h.resps ++ [dataResp t addr 0 (some p)])) ∧
  (∀ (addr p mask : Nat) (data : List Byte) (s : State), live s = true → isMem s addr = true → isAgent p = true → mask % 2 ^ 128 ≠ 0 →
    Asks s p addr → (∃ t ∈ (homeOf s addr).txns, t.line = addr / 128) →
    ∀ c r, (c, r) ∈ [(Instr.rdshared p addr, HReq.rdShared (addr / 128) p), (.rdown p addr none, .rdOwn (addr / 128) p),
        (.rdonce p addr, .rdOnce (addr / 128) (p % 8)), (.wrnc p addr mask data, .wrNc (addr / 128) (p % 8) (mask % 2 ^ 128) data)] →
      HomeBecomes s c addr (fun _ => { homeOf s addr with inq := (homeOf s addr).inq ++ [r] })) ∧
  (∀ (p addr k : Nat) (data : List Byte) (s : State), HomeReady s addr → (homeOf s addr).find addr = some k →
    let h := homeOf s addr
    let e := h.ent k
    let e' := if vecDel e.vec p = 0 then DirEnt.empty else { e with vec := vecDel e.vec p }
    nbit p e.vec = true → e.pin = false →
    HomeBecomes s (.evclean p addr) addr (fun t => { h.setEnt k e' with reserved := (homeOf t addr).reserved }) ∧
    (e.excl = true → data.length = 128 → EvQuiet s → ∃ t, exec (.wbdirty p addr data) s = .next t ∧
      t.bytes (addr / 128 * 128) 128 = data ∧ t.poisoned addr = false ∧
      (∀ a, a < addr / 128 * 128 ∨ addr / 128 * 128 + 128 ≤ a → t.byte a = s.byte a) ∧
      homeOf t addr = { h.setEnt k e' with reserved := (homeOf t addr).reserved } ∧ t.regs = s.regs)) ∧
  (∀ (addr k p : Nat) (r : HReq) (rest : List HReq) (s : State), HomeReady s addr →
    let h := homeOf s addr
    r = .rdShared (addr / 128) p ∨ r = .rdOwn (addr / 128) p → h.reserved = some k → h.tokq = r :: rest →
    (h.ent k).isValid = false → h.find addr = none →
    HomeBecomes s (.tokready (homeDie s addr) (homeSlice addr)) addr (fun t =>
      { h.setEnt k ⟨addr / 128, true, 2 ^ p, false, h.allocs + 1⟩ with tokq := rest, resps := h.resps ++ [dataResp t addr 0 (some p)], allocs := h.allocs + 1, reserved := (homeOf t addr).reserved }))

/-- The home slice of an address has a transaction t on its line, whose entry is way k; nothing waits at the slice and no
injected error is armed. -/
def HomeHas (s : State) (addr : Nat) (t : Txn) (k : Nat) : Prop :=
  live s = true ∧ isMem s addr = true ∧ findTxn (homeOf s addr) (addr / 128) = some t ∧ (homeOf s addr).find addr = some k ∧
  (homeOf s addr).inq = [] ∧ (homeOf s addr).tokq = [] ∧ s.elog.armed = []

/-- The slice's transactions with t changed to t'. -/
def withTxn (h : HomeSt) (t t' : Txn) : HomeSt := { h with txns := updFirst (fun x => decide (x = t)) (fun _ => t') h.txns }

/-- What the holder sends to the requester of a forward, as memory shows the line in state u (R296). -/
def ownerSends (u : State) (addr : Nat) (t : Txn) : List HResp :=
  match t.fwd, t.req with
  | 1, .rdShared _ p => [dataResp u addr 0 (some p)]
  | 2, .rdOwn _ p => [dataResp u addr 0 (some p)]
  | 3, .rdOnce _ _ => [dataResp u addr 1 none]
  | _, _ => []

/-- For a home slice with a transaction on the line. FWDSHARED, FWDOWN, FWDONCE and RECALL to an agent that has not
taken the message record its answer; a modified line becomes performed; on a forward the owner sends the line to
the requester unless it gave the line up. INVAL records that it is taken. INVACK, FWDACK and RECALLACK remove
the agent from those awaited; the last one unpins the entry as R295 states: X of p, S of both, X unchanged, or I
with the write performed over the bytes there, or the new line in the victim's way. After an eviction that
crossed, the home sends the data. A late Ack changes nothing. DATA, DATAONCE, CMP, ATRESULT and RETRY are always
consumed. HOME_ACK_TIMEOUT sets ACKTMO, poisons the line, and a waiting RDONCE gets the poison. HOME_ATCFG_CLR
sets the mode and clears the counters, or rejects mode 3. (spec/10_coherence_and_ordering.md (R293, R294, R295,
R296, R299, R301, R302, R305, R307, R309)) -/
def Obligations.ForwardsAndAcksCompleteTransactions : Prop :=
  (∀ (agent addr k : Nat) (ans : FwdAns) (data : List Byte) (t : Txn) (s : State), HomeHas s addr t k → t.await ≠ 0 →
    nbit agent t.unsent = true →
    let h := homeOf s addr
    let base := addr / 128 * 128
    (∀ c fwd, (c, fwd) ∈ [(Instr.fwdshared agent addr ans data, 1), (.fwdown agent addr ans data, 2),
        (.fwdonce agent addr ans data, 3), (.recall agent addr ans data, 4)] → t.fwd = fwd → t.ans = .clean →
      (ans = .dirty → data.length = 128) →
      ∃ u, exec c s = .next u ∧ homeOf u addr = { withTxn h t { t with unsent := vecDel t.unsent agent, ans := ans } with resps := h.resps ++ (if ans = .gone then [] else ownerSends u addr t) } ∧
        (ans = .dirty → u.bytes base 128 = data) ∧ (ans ≠ .dirty → u.mem = s.mem) ∧
        (∀ a, a < base ∨ base + 128 ≤ a → u.byte a = s.byte a) ∧ u.regs = s.regs ∧ u.queues = s.queues) ∧
    (t.fwd = 0 → HomeBecomes s (.inval agent addr) addr (fun _ =>
      withTxn h t { t with unsent := vecDel t.unsent agent, ans := .clean }))) ∧
  (∀ (agent addr k : Nat) (t : Txn) (c : Instr) (s : State), HomeHas s addr t k → nbit agent t.await = true →
    nbit agent t.unsent = false →
    (c = .invack agent addr ∧ t.fwd = 0) ∨ (c = .fwdack agent addr ∧ 1 ≤ t.fwd ∧ t.fwd ≤ 3) ∨ (c = .recallack agent addr ∧ t.fwd = 4) →
    let h := homeOf s addr
    let e := h.ent k
    let line := addr / 128
    let now (e' : DirEnt) (r : List HResp) : HomeSt := { h.setEnt k e' with txns := [], resps := h.resps ++ r }
    (vecDel t.await agent ≠ 0 ∨ (t.ans = .gone ∧ t.evicted = false) →
      HomeBecomes s c addr (fun _ => withTxn h t { t with await := vecDel t.await agent })) ∧
    (vecDel t.await agent = 0 → h.txns = [t] →
      (∀ p, t.ans ≠ .gone →
        (t.fwd = 0 → t.req = .rdOwn line p → HomeBecomes s c addr (fun u => now { e with excl := true, vec := 2 ^ p, pin := false }
          (if nbit p e.vec then [⟨2, some p, line, [], false⟩] else [dataResp u addr 0 (some p)]))) ∧
        (t.fwd = 1 → t.req = .rdShared line p →
          HomeBecomes s c addr (fun _ => now { e with excl := false, vec := vecAdd e.vec p, pin := false } [])) ∧
        (t.fwd = 2 → t.req = .rdOwn line p → HomeBecomes s c addr (fun _ => now { e with vec := 2 ^ p, pin := false } [])) ∧
        (∀ cls, t.fwd = 3 → t.req = .rdOnce line cls → HomeBecomes s c addr (fun _ => now { e with pin := false } []))) ∧
      (∀ p, t.ans = .gone → t.evicted = true →
        (t.fwd = 1 → t.req = .rdShared line p → HomeBecomes s c addr (fun u =>
          now { e with excl := false, vec := 2 ^ p, pin := false } [dataResp u addr 0 (some p)])) ∧
        (t.fwd = 2 → t.req = .rdOwn line p → HomeBecomes s c addr (fun u =>
          now { e with vec := 2 ^ p, pin := false } [dataResp u addr 0 (some p)])) ∧
        (∀ cls, t.fwd = 3 → t.req = .rdOnce line cls →
          HomeBecomes s c addr (fun u => now DirEnt.empty [dataResp u addr 1 none]))) ∧
      (∀ cls mask data, t.ans ≠ .gone → t.fwd = 0 ∨ t.fwd = 4 → t.req = .wrNc line cls mask data → EvQuiet s →
        (∀ j, j ≠ k → (h.ent j).line = line → (h.ent j).isValid = false) →
        ∃ u, exec c s = .next u ∧ homeOf u addr = now DirEnt.empty [⟨2, none, line, [], false⟩] ∧
          (∀ i, i < 128 → u.byte (line * 128 + i) = if nbit i mask ∧ i < data.length then data.getD i 0 else s.byte (line * 128 + i)) ∧
          (∀ a, a < line * 128 ∨ line * 128 + 128 ≤ a → u.byte a = s.byte a)) ∧
      (∀ l p r, t.ans ≠ .gone → t.fwd = 4 → t.way = some k → r = .rdShared l p ∨ r = .rdOwn l p → t.req = r → l ≠ line →
        h.find (l * 128) = none → ∃ u, exec c s = .next u ∧ (homeOf u addr).ent k = ⟨l, true, 2 ^ p, false, h.allocs + 1⟩ ∧
          (homeOf u addr).txns = [] ∧ (homeOf u addr).resps = h.resps ++ [dataResp u (l * 128) 0 (some p)]))) ∧
  (∀ (agent addr : Nat) (c : Instr) (s : State), c ∈ [Instr.invack agent addr, .fwdack agent addr, .recallack agent addr] →
    (∀ t ∈ (homeOf s addr).txns, t.line ≠ addr / 128) → exec c s = .next s) ∧
  (∀ (p addr : Nat) (ag : Option Nat) (c : Instr) (kind : Nat) (who : Option Nat) (pre post : List HResp) (r : HResp) (s : State),
    live s = true → (c, kind, who) ∈ [(Instr.data p addr, 0, some p), (.dataonce addr, 1, none), (.cmp ag addr, 2, ag),
      (.atresult ag addr, 3, ag), (.retry p addr, 4, some p)] →
    (homeOf s addr).resps = pre ++ r :: post → r.kind = kind ∧ r.agent = who ∧ r.line = addr / 128 →
    (∀ x ∈ pre, ¬(x.kind = kind ∧ x.agent = who ∧ x.line = addr / 128)) →
    HomeBecomes s c addr (fun _ => { homeOf s addr with resps := pre ++ post })) ∧
  (∀ (addr k : Nat) (t : Txn) (s : State), HomeHas s addr t k → (homeOf s addr).txns = [t] →
    ∃ u, exec (.homeAckTimeout addr) s = .next u ∧ bit 9 (u.err (pgHome (homeDie s addr) (homeSlice addr))) = true ∧
      (∀ cls, t.req = .rdOnce (addr / 128) cls → (∀ j, j ≠ k → ((homeOf s addr).ent j).line = addr / 128 → ((homeOf s addr).ent j).isValid = false) →
        u.poisoned addr = true ∧ homeOf u addr =
          { (homeOf s addr).setEnt k DirEnt.empty with txns := [], resps := (homeOf s addr).resps ++ [dataResp u addr 1 none] })) ∧
  (∀ (d h mode : Nat) (s : State), live s = true → hasCdie s d = true → h < 16 → mode < 4 →
    (mode = 3 → ∃ u, exec (.homeAtcfgClr d h mode) s = .next u ∧ ErrorRecorded s u (pgHome d h) 0) ∧
    (mode ≠ 3 → ∃ u, exec (.homeAtcfgClr d h mode) s = .next u ∧ u.home d h = { s.home d h with pred := [] } ∧
      u.regF (pgHome d h) 0x100 1 0 = mode ∧ (∀ a, a ≠ regAddr (pgHome d h) 0x100 → u.reg a = s.reg a) ∧ u.mem = s.mem))

/-- Nothing of the module caches a translation in the scope of an invalidation: no die TLB or walk cache, no unit TLB, no
extent of a descriptor (R316, R318). -/
def NoneCached (t : State) (r : InvReq) : Prop :=
  (∀ d, d = 0 ∨ d = 1 ∨ d = 3 ∨ d = 4 → (∀ e ∈ (t.mmu d).tlb, e.inScope r = false) ∧ ∀ w ∈ (t.mmu d).walk, w.inScope r = false) ∧
  (∀ u, ∀ e ∈ (t.cu u).tlb, e.inScope r = false) ∧ (∀ q, ∀ d ∈ (t.queue q).inflight, ∀ e ∈ d.exts, e.inScope r = false)

/-- The driver's view of a sump record at a place: the fields of R323 as a fault record r gives them, with sequence number
seq, at ring index i. -/
def sumpShows (b : List Byte) (size i seq : Nat) (r : SRec) : Prop :=
  let w := r.first.work.getD (0, 0xFFFF, 0)
  fieldAt b 0 8 = r.first.va % 2 ^ 64 ∧ fieldAt b 8 4 = seq % 2 ^ 32 ∧ fieldAt b 12 2 = r.slot % 2 ^ 16 ∧
  fieldAt b 14 1 = r.first.kind % 256 ∧ fieldAt b 15 1 = r.access % 256 ∧ fieldAt b 16 2 = r.reqmap % 2 ^ 16 ∧
  fieldAt b 18 1 = (r.first.level * 16 + r.first.aspace) % 256 ∧ fieldAt b 20 4 = r.waiters.length % 2 ^ 32 ∧
  fieldAt b 24 8 = r.first.pte.toNat ∧ fieldAt b 32 8 = w.2.2 % 2 ^ 64 ∧ fieldAt b 40 2 = w.2.1 % 2 ^ 16 ∧
  fieldAt b 42 1 = w.1 % 256 ∧ fieldAt b 43 1 = r.first.who.die % 256 ∧ fieldAt b 44 2 = r.first.who.unit % 2 ^ 16 ∧
  fieldAt b 46 17 = 0 ∧ fieldAt b 63 1 = i / 2 ^ size % 2

/-- SUMP_RECORD_WRITE of an open unwritten record, no other due, with room: the 64 bytes of R323 stand at the place
of SUMP_PROD, which advances, the record keeps its SEQ, and with MSIEN off no other byte changes; without room
it is due and memory stays. SUMP_CONS moves within the ring or is rejected. SUMP_RESUME_RETRY of the open record
with that SEQ, no fault waiting for a slot, frees its slot and leaves no cached translation of its page; FAIL
frees the slot and gives every waiting item the error XLATE, and a waiting command ends XLATE; without such a
record both are rejected. MMU_INV_* and INVAL append a request of their scope, space and page, unless 8 are
pending: then the register write is rejected and the descriptor waits. INVALIDATION_DONE with no access of the
scope under way completes the oldest, counts DONE modulo 2^32, leaves none of its scope cached, and ends the
descriptor OK. (spec/11_translation.md (R316, R318, R322, R323, R325, R327, R328), spec/13_queues.md (R356)) -/
def Obligations.SumpRecordsAndInvalidationsServeTheDriver : Prop :=
  (∀ (slot : Nat) (r : SRec) (s : State), live s = true → slot < 4096 → s.sump.recs.find? (fun x => x.slot == slot) = some r →
    r.seq = none → (∀ x ∈ s.sump.recs, x.due = false) → (∀ x ∈ s.sump.recs, x.slot = slot → x = r) → r.slot = slot →
    let a := s.regF pgSump 0x108 51 12 * 4096 + s.sump.prod % 2 ^ s.regF pgSump 0x100 19 16 * 64
    (idxSub s.sump.prod s.sump.cons < 2 ^ s.regF pgSump 0x100 19 16 → bit 0 (s.reg (regAddr pgSump 0x100)) = false → EvQuiet s →
      ∃ t, exec (.sumpRecordWrite slot) s = .next t ∧ sumpShows (t.bytes a 64) (s.regF pgSump 0x100 19 16) s.sump.prod s.sump.nextSeq r ∧
        (∀ b, b < a ∨ a + 64 ≤ b → t.byte b = s.byte b) ∧ t.sump.prod = (s.sump.prod + 1) % 2 ^ 32 ∧
        t.sump.recs.find? (fun x => x.slot == slot) = some { r with seq := some s.sump.nextSeq } ∧ t.regs = s.regs ∧
        t.items = s.items ∧ t.queues = s.queues) ∧
    (2 ^ s.regF pgSump 0x100 19 16 ≤ idxSub s.sump.prod s.sump.cons →
      ∃ t, exec (.sumpRecordWrite slot) s = .next t ∧ t.mem = s.mem ∧ t.sump.prod = s.sump.prod ∧
        t.sump.recs.find? (fun x => x.slot == slot) = some { r with due := true })) ∧
  (∀ (v : W64) (s : State), live s = true →
    (2 ^ sumpSize s < idxSub s.sump.prod (fld 31 0 v) →
      ∃ t, exec (.sumpConsWrite v) s = .next t ∧ ErrorRecorded s t pgSump 0) ∧
    (idxSub s.sump.prod (fld 31 0 v) ≤ 2 ^ sumpSize s → (∀ r ∈ s.sump.recs, r.due = false) →
      exec (.sumpConsWrite v) s = .next { s with sump := { s.sump with cons := fld 31 0 v } })) ∧
  (∀ (slot seq : Nat) (s : State), live s = true → slot < 4096 → seq < 2 ^ 32 →
    ((∀ r ∈ s.sump.recs, ¬(r.slot = slot ∧ r.seq = some seq)) → ∀ c, c ∈ [Instr.sumpResumeRetry slot seq, .sumpResumeFail slot seq] →
      ∃ t, exec c s = .next t ∧ ErrorRecorded s t pgSump 0) ∧
    (∀ r, s.sump.recs.find? (fun x => x.slot == slot && x.seq == some seq) = some r → s.sump.noslot = [] →
      let left := s.sump.recs.filter (fun x => x.slot != slot)
      (∃ t, exec (.sumpResumeRetry slot seq) s = .next t ∧ t.sump = { s.sump with recs := left } ∧
        NoneCached t ⟨1, r.first.aspace, r.first.va / 4096 % 2 ^ 45, .reg⟩ ∧ t.mem = s.mem ∧ t.regs = s.regs ∧ t.items = s.items) ∧
      ((∀ w ∈ r.waiters, w.kind ≤ 4 ∧ w.sub / 64 < 2 ^ 64) → ∃ t, exec (.sumpResumeFail slot seq) s = .next t ∧
        t.sump = { s.sump with recs := left } ∧ t.mem = s.mem ∧ t.regs = s.regs ∧ t.queues = s.queues ∧
        (∀ w ∈ r.waiters, ∀ it, s.item (w.sub / 64) = some it → it.err = none →
          t.item (w.sub / 64) = some { it with err := some (stXlate, 0, 0), log := [] }) ∧
        (∀ n, (∀ w ∈ r.waiters, w.sub / 64 ≠ n) → t.item n = s.item n)) ∧
      (∀ w d, r.waiters = [w] → w.kind = 5 → w.sub < 2 ^ 32 → descAt s w.unit w.sub = some d → d.opc ≠ 0x60 → d.opc ≠ 0x42 → d.opc ≠ 0x43 →
        exec (.sumpResumeFail slot seq) s =
          .next (finishDesc { s with sump := { s.sump with recs := left } } w.unit w.sub stXlate 0)))) ∧
  (∀ (aspace scope : Nat) (c : Instr) (s : State), live s = true →
    (c, scope) ∈ [(Instr.mmuInvPage aspace, 1), (.mmuInvSpace aspace, 2), (.mmuInvAll aspace, 3)] →
    (s.invs.length < 8 → exec c s = .next { s with invs := s.invs ++ [⟨scope, aspace % 16, s.regF (pgMmu 0) 0x110 56 12, .reg⟩] }) ∧
    (8 ≤ s.invs.length → ∃ t, exec c s = .next t ∧ ErrorRecorded s t (pgMmu 0) 0 ∧ t.invs = s.invs)) ∧
  (∀ (q idx scope : Nat) (c : Instr) (d : Desc) (s : State), Starts s q idx 0x19 d → d.op 32 1 = scope →
    (c, scope) ∈ [(Instr.invalPage q idx, 1), (.invalSpace q idx, 2), (.invalAll q idx, 3)] →
    (s.invs.length < 8 → ∃ t, exec c s = .next t ∧ descAt t q idx = some { d with stage := .started, waits := 0 } ∧
      t.invs = s.invs ++ [⟨scope, d.op 33 1 % 16, d.op 24 8 / 4096 % 2 ^ 45, .desc q idx⟩] ∧ t.mem = s.mem ∧ t.regs = s.regs ∧
      (∀ p, p ≠ q → t.queue p = s.queue p)) ∧
    (8 ≤ s.invs.length → exec c s = .next s)) ∧
  (∀ (r : InvReq) (rest : List InvReq) (s : State), live s = true → s.invs = r :: rest → loadsIn s r = false →
    remoteIn s r = false → ∃ t, NoneCached t r ∧ t.invs = rest ∧ t.invDone = (s.invDone + 1) % 2 ^ 32 ∧ t.regs = s.regs ∧
      t.items = s.items ∧ (r.src = .reg → exec .invalidationDone s = .next t) ∧
      (∀ q idx, r.src = .desc q idx → exec .invalidationDone s = .next (finishDesc t q idx stOk 0)))

/-- A flow of this module gains a packet to send, and every other flow stays. -/
def SendsOn (s t : State) (n : Nat) (p : OutPkt) : Prop :=
  ∃ f, s.flow n = some f ∧ t.flow n = some { f with outq := f.outq ++ [p] } ∧ ∀ k, k ≠ n → t.flow k = s.flow k

/-- IMSIC_WRITE of 32 bits at offset 0, or big-endian at offset 4, of a supervisor file (by anyone) or a machine
file (not by a device) makes that identity pending and nothing else; other writes to the files change nothing.
MTIMER_EXPIRE makes the timer interrupt pending once DIE_MTIME reaches the compare value. HARTEN_WRITE that
clears a bit is rejected; otherwise each newly set hart in reset starts at DIE_HBOOT and no other changes.
COREFREQ_WRITE below 0x28 is rejected; otherwise a running core begins to change to its grant, which
FREQ_CHANGE_DONE reports. A droop stretches the clock of a running core. A CBO of a dirty line writes it back;
FLUSH and INVAL of a clean copy give it up; CLEAN keeps it. The fence page answers 0 once the hart's aperture
stores are acknowledged. An aperture access through a window becomes a READ, WRITE or ATOMIC of its flow, or is
refused. (spec/12_host_cores.md (R332, R337, R339, R340, R341, R343, R344), spec/14_holarn_fabric.md (R388,
R389, R406), spec/18_power_and_thermal.md (R491)) -/
def Obligations.HostCoresTimersInterruptsAndFrequency : Prop :=
  (∀ (addr size v : Nat) (dev : Bool) (s : State), live s = true → 0x7E0000000000 ≤ addr → addr < 0x7E0001000000 →
    let id := if addr % 0x1000 = 0 then v % 2 ^ 32 else leNat ((leBytes 4 v).reverse)
    let sup := addr < 0x7E0000080000 ∧ 1 ≤ id ∧ id ≤ 2047
    let mach := dev = false ∧ 0x7E0000100000 ≤ addr ∧ addr < 0x7E0000180000 ∧ 1 ≤ id ∧ id ≤ 63
    let key := (if addr < 0x7E0000080000 then addr % 0x80000 / 0x1000 else 128 + addr % 0x80000 / 0x1000) * 2048 + id
    let valid := size = 4 ∧ (addr % 0x1000 = 0 ∨ addr % 0x1000 = 4) ∧ (sup ∨ mach)
    (valid → ∃ t, exec (.imsicWrite addr size v dev) s = .next t ∧ t = { s with imsic := t.imsic } ∧
      ∀ k, t.irqPending k = (decide (k = key) || s.irqPending k)) ∧
    (¬valid → exec (.imsicWrite addr size v dev) s = .next s)) ∧
  (∀ (h : Nat) (s : State), live s = true → h < 128 →
    let due := (s.reg (regAddr (pgDie 2) (0x800 + 8 * h))).toNat ≤ (s.reg (regAddr (pgDie 2) 0x300)).toNat
    (due → exec (.mtimerExpire h) s = .next (s.setHart h { s.hart h with mtip := true })) ∧
    (¬due → exec (.mtimerExpire h) s = .next s)) ∧
  (∀ (hi : Bool) (v : W64) (s : State), live s = true →
    let a := regAddr (pgDie 2) (if hi then 0x130 else 0x128)
    let base := if hi then 64 else 0
    (s.reg a &&& v ≠ s.reg a → ∃ t, exec (.hartenWrite hi v) s = .next t ∧ ErrorRecorded s t (pgDie 2) 0) ∧
    (s.reg a &&& v = s.reg a → ∃ t, exec (.hartenWrite hi v) s = .next t ∧ t.reg a = v ∧ t.mem = s.mem ∧ t.errs = s.errs ∧
      (∀ i, i < 64 → bit i v = true → bit i (s.reg a) = false → (s.hart (base + i)).startPc = none →
        t.hart (base + i) = { Hart.reset with startPc := some (s.regF (pgDie 2) 0x120 51 2 * 4) } ∧
        t.regF (pgDie 2) (0xC00 + 8 * (base + i)) 39 32 = granted s (base + i)) ∧
      (∀ h, ¬(base ≤ h ∧ h < base + 64 ∧ bit (h - base) v = true ∧ bit (h - base) (s.reg a) = false) → t.hart h = s.hart h))) ∧
  (∀ (c : Nat) (v : W64) (s : State), live s = true → c < 128 →
    let r := 0xC00 + 8 * c
    let g := max 40 (min (fld 7 0 v) (min s.fuses.coreFmax (hLimit s)))
    (fld 7 0 v < 0x28 → ∃ t, exec (.corefreqWrite c v) s = .next t ∧ ErrorRecorded s t (pgDie 2) 0) ∧
    (0x28 ≤ fld 7 0 v → ∃ t, exec (.corefreqWrite c v) s = .next t ∧ t.regF (pgDie 2) r 7 0 = fld 7 0 v ∧
      t.regF (pgDie 2) r 39 32 = s.regF (pgDie 2) r 39 32 ∧ (∀ a, a ≠ regAddr (pgDie 2) r → t.reg a = s.reg a) ∧
      (∀ h, h ≠ c → t.hart h = s.hart h) ∧ t.mem = s.mem ∧
      t.hart c = (if (s.hart c).startPc = none then s.hart c
        else { s.hart c with freqTo := if s.regF (pgDie 2) r 39 32 = g then none else some g })) ∧
    (∀ f, (s.hart c).freqTo = some f → exec (.freqChangeDone c) s =
      .next ((s.setHart c { s.hart c with freqTo := none }).setRegF (pgDie 2) r 39 32 f)) ∧
    ((s.hart c).freqTo = none → exec (.freqChangeDone c) s = .next s)) ∧
  (∀ (c n : Nat) (low : Bool) (s : State), live s = true →
    ((s.hart c).startPc = none → exec (.coreSupplyDroop c n low) s = .next s) ∧
    ((s.hart c).startPc ≠ none → ∃ t, exec (.coreSupplyDroop c n low) s = .next t ∧ t.hart c = { s.hart c with stretched := low } ∧
      (∀ h, h ≠ c → t.hart h = s.hart h) ∧ t.regs = s.regs ∧ t.errs = s.errs ∧ (EvQuiet s → t.mem = s.mem))) ∧
  (∀ (h addr k : Nat) (data : List Byte) (s : State), h < 128 → HomeReady s addr → (homeOf s addr).find addr = some k →
    let e := (homeOf s addr).ent k
    let e' := if vecDel e.vec (h / 4) = 0 then DirEnt.empty else { e with vec := vecDel e.vec (h / 4) }
    let gives (t : State) : HomeSt := { (homeOf s addr).setEnt k e' with reserved := (homeOf t addr).reserved }
    nbit (h / 4) e.vec = true → e.pin = false →
    exec (.cboClean h addr none) s = .next s ∧ HomeBecomes s (.cboFlush h addr none) addr gives ∧
    HomeBecomes s (.cboInval h addr none) addr gives ∧
    (e.excl = true → data.length = 128 → EvQuiet s →
      ∀ c, c ∈ [Instr.cboClean h addr (some data), .cboFlush h addr (some data), .cboInval h addr (some data)] →
      ∃ t, exec c s = .next t ∧ t.bytes (addr / 128 * 128) 128 = data ∧ homeOf t addr = gives t ∧ t.regs = s.regs ∧
        ∀ a, a < addr / 128 * 128 ∨ addr / 128 * 128 + 128 ≤ a → t.byte a = s.byte a)) ∧
  (∀ (h : Nat) (s : State), live s = true → h < 128 →
    ((s.hart h).apStores = 0 → exec (.fabricFenceLoad h) s = .next { s with outs := .readResult 0x7E0020000000 0 :: s.outs }) ∧
    ((s.hart h).apStores ≠ 0 → exec (.fabricFenceLoad h) s = .next s)) ∧
  (∀ (h addr size : Nat) (a : ApAcc) (s : State), live s = true → h < 128 →
    let valid := 0x7E8000000000 ≤ addr ∧ addr < 0x7F0000000000 ∧ addr % size = 0 ∧ (match a with
      | .amo op _ => (size = 4 ∨ size = 8) ∧ 1 ≤ op ∧ op ≤ 9
      | _ => size = 1 ∨ size = 2 ∨ size = 4 ∨ size = 8)
    let off := addr % 2 ^ 39
    let tgt := windowTarget s (off / 2 ^ 29) (off % 2 ^ 29) size (match a with | .load => false | _ => true)
    (¬valid ∨ tgt = none → exec (.hostFabricApertureAccess h a addr size) s = .next { s with outs := .refusedAccess addr :: s.outs }) ∧
    (∀ n ga, valid → tgt = some (n, ga) → ∃ t, exec (.hostFabricApertureAccess h a addr size) s = .next t ∧ t.regs = s.regs ∧
      t.outs = s.outs ∧ (match a with
      | .load => SendsOn s t n ⟨2, 0, ga, size, [], .hart h⟩ ∧ t.harts = s.harts
      | .store v => SendsOn s t n ⟨1, 0, ga, size, leBytes size v, .hart h⟩ ∧ (t.hart h).apStores = (s.hart h).apStores + 1
      | .amo op v => SendsOn s t n ⟨3, (if size = 8 then 128 else 0) + op, ga, size, leBytes size v, .hart h⟩ ∧ t.harts = s.harts)))

/-- For a lane group whose root or CXL port is up. A read or write by physical address inside memory is performed
and completes successfully; a read of an interrupt file returns zeros; any other address is an Unsupported
Request and changes nothing. A 32-bit aligned write to a supervisor interrupt file is an interrupt write; one to
the rest of the file range is an Unsupported Request. A translated access inside a valid translation is
performed; a fault completes as Completer Abort with one NORESUME record. INTx changes nothing. A device error
sets DEVERR of a far-memory port in force. Without such a port nothing happens. (spec/01_module_and_dies.md
(R49), spec/09_memory_tiers.md (R235, R248), spec/11_translation.md (R321), spec/12_host_cores.md (R340, R341)) -/
def Obligations.DeviceRequestsAreServedOrRefused : Prop :=
  ∀ (g : Nat) (s : State), live s = true →
    let done (t : State) (st : Nat) (bs : List Byte) (p : Bool) : State := { t with outs := .pcie g st bs p :: t.outs }
    let r (sp : Nat) : Rq := { port := .engine (3 + lgX g) 5, aspace := sp, waiter := ⟨6, 3 + lgX g, g, 0⟩, rid := 4 * g + 3, work := none, exts := [] }
    let files (a : Nat) : Prop := 0x7E0000000000 ≤ a ∧ a < 0x7E0001000000
    let sup (a : Nat) : Prop := 0x7E0000000000 ≤ a ∧ a < 0x7E0000080000
    let mach (a : Nat) : Prop := 0x7E0000100000 ≤ a ∧ a < 0x7E0000180000
    (devicePort s g = false → ∀ q, exec (.pcieDeviceRequest g q) s = .next s) ∧
    (devicePort s g = true →
      (∀ a n, memRange s a n = true → ¬files a → ∀ bs p t, homeRead s 5 a n = (bs, p, t) →
        exec (.pcieDeviceRequest g (.read none a n)) s = .next (done t 0 bs p)) ∧
      (∀ a bs, memRange s a bs.length = true → ¬files a →
        exec (.pcieDeviceRequest g (.write none a bs)) s = .next (done (homeWrite s 5 a bs) 0 [] false)) ∧
      (∀ a n sp, 0 < n → sup a ∨ mach a → exec (.pcieDeviceRequest g (.read sp a n)) s = .next (done s 0 (List.replicate n 0) false)) ∧
      (∀ a n, 0 < n → memRange s a n = false → ¬sup a → ¬mach a →
        exec (.pcieDeviceRequest g (.read none a n)) s = .next (done s 1 [] false)) ∧
      (∀ a bs, 0 < bs.length → memRange s a bs.length = false → ¬files a →
        exec (.pcieDeviceRequest g (.write none a bs)) s = .next (done s 1 [] false)) ∧
      (∀ a bs sp, sup a → bs.length = 4 → a % 4 = 0 → ∃ t, exec (.pcieDeviceRequest g (.write sp a bs)) s = .next t ∧
        t = { s with imsic := t.imsic, outs := .pcie g 0 [] false :: s.outs } ∧
        (a % 0x1000 = 0 → 1 ≤ leNat bs → leNat bs ≤ 2047 →
          ∀ k, t.irqPending k = (decide (k = a % 0x80000 / 0x1000 * 2048 + leNat bs) || s.irqPending k))) ∧
      (∀ a bs sp, files a → ¬sup a → exec (.pcieDeviceRequest g (.write sp a bs)) s = .next (done s 1 [] false)) ∧
      (∀ sp a bs, ¬files a → let x := rqSpan s (r (sp % 16)) a bs.length .wr
        (x.1.bad = none → exec (.pcieDeviceRequest g (.write (some sp) a bs)) s =
          .next (done (writeRuns (r (sp % 16)) x.1.runs x.2 bs) 0 [] false)) ∧
        (x.1.bad ≠ none → ∃ t, exec (.pcieDeviceRequest g (.write (some sp) a bs)) s = .next t ∧
          t.outs.head? = some (.pcie g 2 [] false) ∧ t.items = s.items ∧ t.jobs = s.jobs)) ∧
      (∀ sp a n pa, ¬files a → let x := rqSpan s (r (sp % 16)) a n .rd
        (x.1.bad = none → x.1.runs = [(.pa pa, n)] → ∀ bs p t, portRead x.2 (r (sp % 16)).port pa n = (bs, p, t) →
          ∃ u, exec (.pcieDeviceRequest g (.read (some sp) a n)) s = .next u ∧ u.outs = .pcie g 0 bs p :: t.outs ∧ u.mem = t.mem) ∧
        (x.1.bad ≠ none → ∃ t, exec (.pcieDeviceRequest g (.read (some sp) a n)) s = .next t ∧
          t.outs.head? = some (.pcie g 2 [] false) ∧ t.items = s.items ∧ t.jobs = s.jobs)) ∧
      exec (.pcieDeviceRequest g .intx) s = .next s ∧
      (fmcInForce s g = true → ∃ t, exec (.pcieDeviceRequest g .devErr) s = .next t ∧ ErrorRecorded s t (pgFmc g) 10))

/-- The port of a lane group is down, training with its receive lanes remembered or, on request, forgotten. -/
def Trains (s t : State) (g : Nat) (requested : Bool) : Prop :=
  t.reg (hlpStat g) = 2 ∧ (t.port g).retry = false ∧ (t.port g).frames = (s.port g).frames ∧
  (t.port g).rxRetired = (if requested then 0 else (s.port g).rxRetired) ∧
  (t.port g).txRetired = (if requested then 0 else (s.port g).txRetired) ∧ (∀ h, h ≠ g → t.port h = s.port h) ∧
  t.fab.flows = s.fab.flows ∧ t.jobs = s.jobs ∧ t.items = s.items ∧ t.queues = s.queues

/-- HLP_LINKEN_WRITE and HLP_RETRAIN are rejected for the second group of a x16 port, role OFF or a wrong pair;
otherwise LINKEN going to 1, or RETRAIN with LINKEN = 1, starts training with retired lanes forgotten.
PARTNER_DETECT and TRAIN_RETRY start it for an enabled port that is down, or that failed. LINK_TRAIN_DONE of a
HOLARN or ETH port: the order that more good lanes fit, identity on a tie; k the smaller count of both
directions; 8, 6 or 4 lanes (ETH 8); the lowest good lanes in service, other good ones spare; the highest common
version; the port is UP with width, version and PEER in HLP_STAT. With k below 4 LANEFLT is set, with no common
version NOVER, and the port stays down to retry. A CXL or PCIe port comes up at its width. LANE_FAIL of a lane
in service retires it with its code, sets LANEFLT and retrains. PORT_DOWN clears HLP_STAT, drops frames, sets
LINKDN if enabled, and flows send again from UNAPSN. (spec/14_holarn_fabric.md (R374, R376, R377, R378, R379,
R380, R381, R402, R408, R411, R412)) -/
def Obligations.PortsTrainAndRetireLanes : Prop :=
  (∀ (g : Nat) (v : W64) (s : State), live s = true → s.fuses.variant.bonded g = true →
    let p := if g % 2 = 0 then g + 1 else g - 1
    let okPair := roleOf s g ≠ 0 ∧ (x16Of s g = true → (roleOf s g = 3 ∨ roleOf s g = 4) ∧ s.fuses.variant.bonded p = true ∧
      roleOf s p = roleOf s g ∧ x16Of s p = true)
    let refused := (x16Of s g = true ∧ g % 2 = 1) ∨ ¬okPair
    let ctl := regAddr (pgHlp g) 0x108
    (bit 0 v = true → refused → ∃ t, exec (.hlpLinkenWrite g v) s = .next t ∧ ErrorRecorded s t (pgHlp g) 0) ∧
    (bit 0 v = true → ¬refused → linkEn s g = false ∨ bit 1 v = true →
      ∃ t, exec (.hlpLinkenWrite g v) s = .next t ∧ t.reg ctl = v &&& 5 ∧ Trains s t g true) ∧
    (bit 0 v = true → ¬refused → linkEn s g = true → bit 1 v = false → ∃ t, exec (.hlpLinkenWrite g v) s = .next t ∧ t.reg ctl = v &&& 5 ∧
      t.fab = s.fab ∧ ∀ a, a ≠ ctl → a ≠ hlpStat g → t.reg a = s.reg a) ∧
    (linkEn s g = true → refused → ∃ t, exec (.hlpRetrain g) s = .next t ∧ ErrorRecorded s t (pgHlp g) 0) ∧
    (linkEn s g = true → ¬refused → ∃ t, exec (.hlpRetrain g) s = .next t ∧ t.reg ctl = s.reg ctl &&& 5 ∧ Trains s t g true)) ∧
  (∀ (g : Nat) (s : State), live s = true → s.fuses.variant.bonded g = true → linkEn s g = true →
    (portUp s g = false → training s g = false → ∃ t, exec (.partnerDetect g) s = .next t ∧ Trains s t g false) ∧
    (portUp s g = true ∨ training s g = true → exec (.partnerDetect g) s = .next s) ∧
    ((s.port g).retry = true → ∃ t, exec (.trainRetry g) s = .next t ∧ Trains s t g false) ∧
    ((s.port g).retry = false → exec (.trainRetry g) s = .next s)) ∧
  (∀ (g farTx farVers node width : Nat) (lanes : List (Nat × Nat × Bool)) (dig : List Byte) (s : State), live s = true →
    isRouterPort s g = true → training s g = true → linkEn s g = true →
    let c := Instr.linkTrainDone g lanes farTx farVers node width dig
    let cond (n : Nat) : Nat × Nat × Bool := lanes.getD n (1, 0, false)
    let fits (rev : Bool) : List Nat := (List.range 8).filter (fun n => decide ((cond n).1 = 0) && !nbit n (s.port g).rxRetired &&
      decide (if rev then (cond n).2.1 + n = 7 else (cond n).2.1 = n))
    let rev := decide ((fits false).length < (fits true).length)
    let rx := fits rev
    let tx := (List.range 8).filter (fun n => nbit n farTx && !nbit n (s.port g).txRetired && decide ((cond n).1 ≠ 2))
    let k := min rx.length tx.length
    let w := if k = 8 then 8 else if 6 ≤ k then 6 else 4
    let ver := if nbit 2 farVers then 3 else if nbit 1 farVers then 2 else 1
    let up (t : State) (w ver : Nat) : Prop := let st := t.reg (hlpStat g)
      bit 0 st = true ∧ bit 1 st = false ∧ bit 3 st = false ∧ fld 6 4 st = ver ∧ fld 12 8 st = w ∧ (t.port g).retry = false ∧
      (t.port g).frames = (s.port g).frames.map (fun f => { f with resends := 0 }) ∧
      (∀ n, n < 8 → let l := hlpLane t g
        (n ∈ rx → fld (4 * n + 3) (4 * n) l = if n ∈ rx.take w then 0 else 6) ∧
        (n ∉ rx → nbit n (s.port g).rxRetired = false → fld (4 * n + 3) (4 * n) l = if (cond n).1 = 0 then 5 else (cond n).1 % 16) ∧
        fld (49 + 2 * n) (48 + 2 * n) l = (if n ∈ tx.take w then 0 else if n ∈ tx then 2 else 1) ∧
        bit (32 + n) l = (decide (n ∈ rx) && (cond n).2.2) ∧ bit 40 l = rev) ∧
      t.reg (regAddr (pgHlp g) 0x128) = BitVec.ofNat 64 (fieldAt dig 0 8) ∧
      (dig = ownDigest s → armedAt s (pgHlp g) 11 = false → bit 0 (t.reg (regAddr (pgHlp g) 0x120)) = true)
    let down (t : State) : Prop := bit 0 (t.reg (hlpStat g)) = false ∧ bit 1 (t.reg (hlpStat g)) = false ∧ (t.port g).retry = true
    (roleOf s g = 1 → 4 ≤ k → farVers % 8 ≠ 0 → ∃ t, exec c s = .next t ∧ up t w ver ∧ bit 50 (t.reg (hlpStat g)) = true ∧
      fld 49 32 (t.reg (hlpStat g)) = node % 2 ^ 18) ∧
    (roleOf s g = 2 → k = 8 → ∃ t, exec c s = .next t ∧ up t 8 3 ∧ bit 50 (t.reg (hlpStat g)) = false) ∧
    (k < 4 → ∃ t, exec c s = .next t ∧ down t ∧ bit 8 (t.err (pgHlp g)) = true) ∧
    (roleOf s g = 2 → k < 8 → ∃ t, exec c s = .next t ∧ down t) ∧
    (roleOf s g = 1 → 4 ≤ k → farVers % 8 = 0 → ∃ t, exec c s = .next t ∧ down t ∧ bit 3 (t.reg (hlpStat g)) = true ∧
      bit 10 (t.err (pgHlp g)) = true)) ∧
  (∀ (g farTx farVers node width : Nat) (lanes : List (Nat × Nat × Bool)) (dig : List Byte) (s : State), live s = true →
    s.fuses.variant.bonded g = true → roleOf s g = 3 ∨ roleOf s g = 4 → training s g = true → 1 ≤ width → width ≤ 16 →
    ∃ t, exec (.linkTrainDone g lanes farTx farVers node width dig) s = .next t ∧ t.reg (hlpStat g) = BitVec.ofNat 64 (width * 256 + 1) ∧
      (∀ a, a ≠ hlpStat g → t.reg a = s.reg a) ∧ t.mem = s.mem) ∧
  (∀ (g n : Nat) (lost : Bool) (s : State), live s = true → isRouterPort s g = true → portUp s g = true → n < 8 →
    (fld (4 * n + 3) (4 * n) (hlpLane s g) = 0 → ∃ t, exec (.laneFail g n false lost) s = .next t ∧
      fld (4 * n + 3) (4 * n) (hlpLane t g) = (if lost then 1 else 4) ∧ bit 8 (t.err (pgHlp g)) = true ∧ t.reg (hlpStat g) = 2 ∧
      nbit n (t.port g).rxRetired = true ∧ (t.port g).frames = (s.port g).frames ∧
      (∀ a, a ≠ hlpStat g → a ≠ regAddr (pgHlp g) 0x118 → t.reg a = s.reg a)) ∧
    (fld (49 + 2 * n) (48 + 2 * n) (hlpLane s g) = 0 → ∃ t, exec (.laneFail g n true lost) s = .next t ∧
      fld (49 + 2 * n) (48 + 2 * n) (hlpLane t g) = 1 ∧ bit 8 (t.err (pgHlp g)) = true ∧ t.reg (hlpStat g) = 2 ∧
      nbit n (t.port g).txRetired = true ∧ (t.port g).frames = (s.port g).frames) ∧
    (fld (4 * n + 3) (4 * n) (hlpLane s g) ≠ 0 → exec (.laneFail g n false lost) s = .next s)) ∧
  (∀ (g : Nat) (s : State), live s = true → s.fuses.variant.bonded g = true → (s.fab.flows.map Prod.fst).Nodup →
    (portUp s g = true ∨ training s g = true → ∃ t, exec (.portDown g) s = .next t ∧
      (t.port g).frames = [] ∧ (t.port g).retry = linkEn s g ∧ (∀ h, h ≠ g → t.port h = s.port h) ∧
      t.reg (hlpStat g) = 0 ∧ (linkEn s g = true → bit 9 (t.err (pgHlp g)) = true) ∧
      (∀ n f, s.flow n = some f → t.flow n = some (if isRouterPort s g = true ∧ f.sent ≠ [] then { f with resend := some f.una } else f))) ∧
    (portUp s g = false → training s g = false → exec (.portDown g) s = .next s))

/-- A frame number lies from one on, within half the numbers (R477). -/
def fromFrame (a seq : Nat) : Bool := decide ((seq + 4096 - a % 4096) % 4096 < 2048)

/-- A port that is up sends a packet of the router: a HOLARN port numbers it as a link frame and holds it; an ETH port sends
it in an Ethernet frame. -/
def PortSends (s t : State) (g : Nat) (p : Packet) : Prop :=
  let bytes := { p with ver := s.regF (pgHlp g) 0x110 6 4 }.bytes
  (roleOf s g = 1 → t.port g = { s.port g with frames := (s.port g).frames ++ [⟨(s.port g).txSeq, bytes, 0⟩], txSeq := ((s.port g).txSeq + 1) % 4096 } ∧
    t.outs = .frame g (s.port g).txSeq bytes :: s.outs) ∧
  (roleOf s g = 2 → ∃ f, t.outs = .ethFrame g f :: s.outs ∧ (f.drop 18).take bytes.length = bytes) ∧
  (∀ h, h ≠ g → t.port h = s.port h)

/-- On a HOLARN port that is up: LLR_FRAME_RECEIVE of the expected good frame whose packet reads puts that packet at
its router and expects the next number; another number, or a bad frame, adds nothing; an acknowledgement drops
every frame before its number; a request to repeat sends each frame from its number on again and counts it, and
one sent eight times more retrains. LLR_ACK_TIMEOUT with frames outstanding retrains with them kept. On an ETH
port ETH_FRAME_RECEIVE takes the packet of a frame with good check and EtherType, and discards others.
PACKET_FORWARD drops a packet at 31 hops and sets HOPLIM; delivers one for this node; sends an adaptive one to
the candidate port with most credits, lowest on a tie; else, or with no candidate, on the escape port, an
adaptive one on the next channel, where without a credit it waits; without a route it waits and NOROUTE is set.
(spec/14_holarn_fabric.md (R379, R380, R382, R390, R391, R392, R393), spec/17_faults_and_replay.md (R477)) -/
def Obligations.LinkFramesAndPacketsMoveThroughTheRouter : Prop :=
  (∀ (g seq : Nat) (bytes : List Byte) (good : Bool) (s : State), live s = true → isRouterPort s g = true → roleOf s g = 1 →
    portUp s g = true →
    let p := s.port g
    (∀ x, good = true → seq = p.rxSeq → 32 ≤ bytes.length → fieldAt bytes 30 2 = crc16 (bytes.take 30) → parsePacket bytes = some x →
      x.type ≠ 0xB → ∃ t, exec (.llrFrameReceive g seq bytes good none none) s = .next t ∧ t.fab.rq = s.fab.rq ++ [(lgX g, x)] ∧
        t.port g = { p with rxSeq := (seq + 1) % 4096 } ∧ t.outs = s.outs ∧ t.regs = s.regs) ∧
    (good = false ∨ seq ≠ p.rxSeq → ∃ t, exec (.llrFrameReceive g seq bytes good none none) s = .next t ∧ t.port g = p ∧
      t.fab.rq = s.fab.rq ∧ t.outs = s.outs ∧ t.regs = s.regs ∧ t.mem = s.mem) ∧
    (∀ a, ∃ t, exec (.llrFrameReceive g seq bytes false (some a) none) s = .next t ∧
      t.port g = { p with frames := p.frames.filter (fun f => fromFrame a f.seq) } ∧ t.fab.rq = s.fab.rq ∧ t.outs = s.outs ∧ t.regs = s.regs) ∧
    (∀ a, let fs := p.frames.map (fun f => if fromFrame a f.seq then { f with resends := f.resends + 1 } else f)
      let again := fs.filter (fun f => fromFrame a f.seq)
      ∃ t, exec (.llrFrameReceive g seq bytes false none (some a)) s = .next t ∧ (t.port g).frames = fs ∧
        t.outs = (again.map (fun f => Shown.frame g f.seq f.bytes)).reverse ++ s.outs ∧ t.fab.rq = s.fab.rq ∧
        ((∀ f ∈ again, f.resends < 8) → t.reg (hlpStat g) = s.reg (hlpStat g)) ∧
        ((∃ f ∈ again, 8 ≤ f.resends) → t.reg (hlpStat g) = 2)) ∧
    (p.frames ≠ [] → ∃ t, exec (.llrAckTimeout g) s = .next t ∧ Trains s t g false) ∧
    (p.frames = [] → exec (.llrAckTimeout g) s = .next s)) ∧
  (∀ (g : Nat) (frame : List Byte) (s : State), live s = true → isRouterPort s g = true → roleOf s g = 2 → portUp s g = true →
    let body := frame.take (frame.length - 4)
    let whole := 22 ≤ frame.length ∧ leNat (frame.drop (frame.length - 4)) = crc32Eth body
    let ours := leNat ((body.drop 12).take 2).reverse = 0x8100 ∧ leNat ((body.drop 16).take 2).reverse = 0x88B5
    (¬whole → exec (.ethFrameReceive g frame) s = .next s) ∧
    (whole → ¬ours → ∃ t, exec (.ethFrameReceive g frame) s = .next t ∧ t.fab = s.fab ∧ t.regs = s.regs ∧ t.errs = s.errs) ∧
    (∀ x, whole → ours → parsePacket (body.drop 18) = some x → x.type ≠ 0xB →
      ∃ t, exec (.ethFrameReceive g frame) s = .next t ∧ t.fab = { s.fab with rq := s.fab.rq ++ [(lgX g, x)] } ∧ t.regs = s.regs)) ∧
  (∀ (k x : Nat) (p : Packet) (credits : List Nat) (s : State), live s = true → x < 2 → s.fab.rq[k]? = some (x, p) →
    let c := Instr.packetForward k credits
    let left := s.fab.rq.take k ++ s.fab.rq.drop (k + 1)
    let e := routeAt s x (routeIdx s (p.gaddr / 2 ^ 46))
    let esc := fld 28 24 e
    let may (g : Nat) : Prop := g < 20 ∧ bit g e = true ∧ carries s g p = true ∧ isolated s g = false ∧ credits.getD g 0 ≠ 0
    let adaptive := p.vc = 0 ∨ p.vc = 2
    (p.hops = 31 → ∃ t, exec c s = .next t ∧ t.fab.rq = left ∧ t.fab.arrived = s.fab.arrived ∧ bit 9 (t.err (pgRtr x)) = true ∧
      t.outs = s.outs ∧ ∀ g, t.port g = s.port g) ∧
    (p.hops ≠ 31 → armedAt s (pgRtr x) 9 = false →
      (p.gaddr / 2 ^ 46 = myNode s → exec c s =
        .next { s with fab := { s.fab with rq := left, arrived := s.fab.arrived ++ [p] } }) ∧
      (p.gaddr / 2 ^ 46 ≠ myNode s → bit 63 e = true →
        (∀ g, adaptive → may g → (∀ h, may h → credits.getD h 0 < credits.getD g 0 ∨ (credits.getD h 0 = credits.getD g 0 ∧ g ≤ h)) →
          ∃ t, exec c s = .next t ∧ t.fab.rq = left ∧ PortSends s t g { p with hops := p.hops + 1 }) ∧
        (¬adaptive ∨ (∀ g, ¬may g) → let q := if p.vc = 0 ∨ p.vc = 2 then { p with vc := p.vc + 1 } else p
          (carries s esc q = true → credits.getD esc 0 ≠ 0 →
            ∃ t, exec c s = .next t ∧ t.fab.rq = left ∧ PortSends s t esc { q with hops := q.hops + 1 }) ∧
          (carries s esc q = true → credits.getD esc 0 = 0 → (¬adaptive → exec c s = .next s) ∧
            (adaptive → ∃ t, exec c s = .next t ∧ t.fab = { s.fab with rq := s.fab.rq.set k (x, q) } ∧ t.regs = s.regs)) ∧
          (carries s esc q = false → ∃ t, exec c s = .next t ∧ ErrorRecorded s t (pgRtr x) 10))) ∧
      (p.gaddr / 2 ^ 46 ≠ myNode s → bit 63 e = false → ∃ t, exec c s = .next t ∧ ErrorRecorded s t (pgRtr x) 10)))

/-- A byte of a flow's entry that the device keeps (R396). -/
def EntryByte (s : State) (n a : Nat) : Prop := a = flowAddr s n ∨ (flowAddr s n + 32 ≤ a ∧ a < flowAddr s n + 72)

/-- A packet of a TYPE has arrived at a module with a node number, and its check holds. -/
def Arrived (s : State) (p : Packet) (type : Nat) : Prop :=
  live s = true ∧ EvQuiet s ∧ s.elog.armed = [] ∧ p.type = type ∧ s.fab.arrived.contains p = true ∧ myNode s ≠ 0x3FFFF ∧ checkOk p = true

/-- It comes from the peer of flow f of this module, which an engine can serve. -/
def FromPeer (s : State) (p : Packet) (type : Nat) (f : FlowSt) : Prop :=
  Arrived s p type ∧ s.flow p.dflow = some f ∧ f.rnode = p.snode ∧ canServe s f = true

/-- Its ACKPSN acknowledges nothing new. -/
def NoNewAck (f : FlowSt) (p : Packet) : Prop :=
  ∀ k ∈ f.sent, k.answered = true ∨ k.pkt.type = 2 ∨ k.pkt.type = 3 ∨ psnBefore k.pkt.psn p.ackpsn = false

/-- The packet has been taken, its flow is g, and nothing else of the flows, the router, the jobs, the queues and the
registers has changed. -/
def FlowTakes (s t : State) (p : Packet) (g : FlowSt) : Prop :=
  t.flow p.dflow = some g ∧ (∀ n, n ≠ p.dflow → t.flow n = s.flow n) ∧ t.fab.arrived = dropFirst (fun q => q == p) s.fab.arrived ∧
  t.fab.rq = s.fab.rq ∧ t.jobs = s.jobs ∧ t.queues = s.queues ∧ t.regs = s.regs ∧ t.errs = s.errs

/-- And the items and what the outside sees are as before. -/
def FlowBecomes (s t : State) (p : Packet) (g : FlowSt) : Prop := FlowTakes s t p g ∧ t.items = s.items ∧ t.outs = s.outs

/-- Memory keeps its bytes but those of the flow's entry. -/
def MemKept (s t : State) (n : Nat) : Prop := ∀ a, ¬EntryByte s n a → t.byte a = s.byte a

/-- Length, alignment and SUBOP of a request are allowed (R394); not a swap or a binary32 add in deterministic mode
(spec/16_determinism.md R441). -/
def Allowed (s : State) (p : Packet) : Prop :=
  let w := if nbit 7 p.subop = true then 8 else 4
  if p.type = 3 then (p.subop % 128 = 9 ∨ p.subop % 128 = 10 → bit 0 (s.reg (regAddr pgGlb 0x100)) = false) ∧ 1 ≤ p.subop % 128 ∧ p.subop % 128 ≤ 10 ∧ (p.subop % 128 = 10 → w = 4) ∧ p.len = w ∧ p.payload.length = w ∧
    p.gaddr % 2 ^ 46 % w = 0
  else 1 ≤ p.len ∧ p.len ≤ 4096 ∧ p.subop = 0 ∧ (p.type = 1 → p.payload.length = p.len)

/-- The operation of an ATOMIC's SUBOP on the old and the given value: ADD, MIN, MAX, MINU, MAXU, AND, OR, XOR, SWAP, FADD. -/
def atomResult (p : Packet) (old : Nat) : Nat := atomApply (atomOf (p.subop % 128)) p.len old (leNat p.payload)

/-- With the event interrupt off and no error armed, for a packet that has arrived and is taken. In order, with no
next one held, EXPPSN passes it and an acknowledgement is due; outside populated memory it is answered ERRRESP
2, outside the exports that permit it 3, with a length, alignment or SUBOP not allowed, or a swap or binary32
add in deterministic mode, 4, and memory keeps its bytes. Otherwise a WRITE sets exactly its bytes; a READ of
unpoisoned lines answers READRESP with the bytes; an ATOMIC answers the old value and stores its result, a swap
or binary32 add is counted in GLB_TDCCNT, and the answer is kept for duplicates; a poisoned READ or ATOMIC
answers ERRRESP 5. Early within RWIN with room it is held; held already it is dropped; beyond, NACK EARLY at
EXPPSN. A duplicate is acknowledged, a READ answered anew, an ATOMIC with its kept answer. A bad check gives
NACK CHECK at EXPPSN on an OPEN flow, else a drop. A request for no OPEN flow of its sender is answered ERRRESP
NOFLOW. With no engine to serve it, it waits. A module without a node number drops it. (spec/14_holarn_fabric.md
(R383, R384, R385, R394, R395, R396, R400), spec/16_determinism.md (R441, R447)) -/
def Obligations.ArrivingRequestsArePerformedInOrder : Prop :=
  (∀ (p : Packet) (type : Nat) (c : Instr) (f : FlowSt) (s : State),
    (c, type) ∈ [(Instr.write p, 1), (.read p, 2), (.atomic p, 3)] → FromPeer s p type f → f.st = 2 → NoNewAck f p →
    let n := p.dflow
    let a := p.gaddr % 2 ^ 46
    let inMem := memRange s a (max p.len 1)
    let exp := exported s a p.len (decide (type ≠ 1)) (decide (type ≠ 2))
    let done := { f with exp := (p.psn + 1) % 2 ^ 32, ackDue := true, rxb := (f.rxb + p.payload.length) % 2 ^ 64 }
    let clean := ∀ b, a ≤ b → b < a + p.len → s.poisoned b = false
    (p.psn = f.exp → (∀ q ∈ f.early, q.psn ≠ (p.psn + 1) % 2 ^ 32) →
      let refused (code : Nat) : Prop := ∃ t, exec c s = .next t ∧ MemKept s t n ∧
        FlowBecomes s t p { done with resps := f.resps ++ [control s f 8 code p.psn p.tagid []] }
      (inMem = false → refused 2) ∧ (inMem = true → exp = false → refused 3) ∧ (inMem = true → exp = true → ¬Allowed s p → refused 4) ∧
      (inMem = true → exp = true → Allowed s p →
        (type = 1 → ∃ t, exec c s = .next t ∧ FlowBecomes s t p done ∧
          ∀ b, ¬EntryByte s n b → t.byte b = if a ≤ b ∧ b < a + p.len then p.payload.getD (b - a) 0 else s.byte b) ∧
        (type = 2 → clean → ∃ t, exec c s = .next t ∧ MemKept s t n ∧
          FlowBecomes s t p { done with resps := f.resps ++ [control s f 4 0 p.psn p.tagid (s.bytes a p.len)] }) ∧
        (type = 3 → clean → let old := leNat (s.bytes a p.len)
          let r := control s f 5 0 p.psn p.tagid (leBytes p.len old)
          -- GLB_TDCCNT counts a swap or a binary32 add, with REMAT
          let s0 := if p.subop % 128 = 9 ∨ p.subop % 128 = 10 then countTdc s 35 1 else s
          ∃ t, exec c s = .next t ∧ FlowBecomes s0 t p { done with resps := f.resps ++ [r], atomResps := (r :: f.atomResps).take 4096 } ∧
            ∀ b, ¬EntryByte s n b → t.byte b = if a ≤ b ∧ b < a + p.len then (leBytes p.len (atomResult p old)).getD (b - a) 0 else s.byte b) ∧
        (type ≠ 1 → (∃ b, a ≤ b ∧ b < a + p.len ∧ s.poisoned b = true) → ∃ t, exec c s = .next t ∧
          t.flow n = some { done with resps := f.resps ++ [control s f 8 5 p.psn p.tagid []] } ∧
          t.fab.arrived = dropFirst (fun q => q == p) s.fab.arrived))) ∧
    (2 ^ 31 ≤ idxSub p.psn f.exp → let dup := { f with ackDue := true }
      (type = 1 → ∃ t, exec c s = .next t ∧ FlowBecomes s t p dup ∧ MemKept s t n) ∧
      (type = 2 → inMem = true → exp = true → Allowed s p → clean → (∀ b, a ≤ b → b < a + p.len → ¬EntryByte s n b) →
        ∃ t, exec c s = .next t ∧ MemKept s t n ∧
          FlowBecomes s t p { dup with resps := f.resps ++ [control s dup 4 0 p.psn p.tagid (s.bytes a p.len)] }) ∧
      (∀ r, type = 3 → f.atomResps.find? (fun x => decide (x.psn = p.psn)) = some r →
        ∃ t, exec c s = .next t ∧ FlowBecomes s t p { dup with resps := f.resps ++ [r] } ∧ MemKept s t n))) ∧
  (∀ (p : Packet) (type : Nat) (c : Instr) (f : FlowSt) (s : State),
    (c, type) ∈ [(Instr.write p, 1), (.read p, 2), (.atomic p, 3), (.tile p, 9)] → FromPeer s p type f → f.st = 2 → NoNewAck f p →
    let d := idxSub p.psn f.exp
    let room := d ≤ f.rwin ∧ earlyBytes s f.hx + 40 + p.payload.length ≤ 2 ^ 24
    0 < d → d < 2 ^ 31 →
    ((∃ q ∈ f.early, q.psn = p.psn) → ∃ t, exec c s = .next t ∧ FlowBecomes s t p f ∧ t.mem = s.mem) ∧
    ((∀ q ∈ f.early, q.psn ≠ p.psn) → room → ∃ t, exec c s = .next t ∧ FlowBecomes s t p { f with early := f.early ++ [p] } ∧ MemKept s t p.dflow) ∧
    ((∀ q ∈ f.early, q.psn ≠ p.psn) → ¬room → ∃ t, exec c s = .next t ∧ FlowBecomes s t p { f with nack := some (1, f.exp) } ∧
      MemKept s t p.dflow)) ∧
  (∀ (p : Packet) (type : Nat) (c : Instr) (s : State),
    (c, type) ∈ [(Instr.write p, 1), (.read p, 2), (.atomic p, 3), (.tile p, 9)] →
    (live s = true → p.type = type → s.fab.arrived.contains p = true → myNode s ≠ 0x3FFFF → checkOk p = false →
      (∀ f, s.flow p.dflow = some f → f.rnode = p.snode → f.st = 2 →
        ∃ t, exec c s = .next t ∧ FlowBecomes s t p { f with nack := some (3, f.exp) } ∧ MemKept s t p.dflow) ∧
      ((∀ f, s.flow p.dflow = some f → f.rnode ≠ p.snode ∨ f.st ≠ 2) → exec c s = .next (takeArrived s p))) ∧
    (Arrived s p type →
      (∀ f, s.flow p.dflow = some f → f.rnode = p.snode → f.st = 2 → canServe s f = false → exec c s = .next s) ∧
      ((∀ f, s.flow p.dflow = some f → f.rnode ≠ p.snode ∨ f.st ≠ 2) →
        (type = 9 → exec c s = .next (takeArrived s p)) ∧
        (type ≠ 9 → p.snode ≠ myNode s → ∃ q : Packet, q.type = 8 ∧ q.subop = 1 ∧ q.psn = p.psn ∧ q.tagid = p.tagid ∧ q.snode = myNode s ∧
          q.gaddr = p.snode * 2 ^ 46 ∧ q.check = q.checkBytes ∧
          exec c s = .next { s with fab := { s.fab with arrived := dropFirst (fun x => x == p) s.fab.arrived, rq := s.fab.rq ++ [(0, q)] } })))) ∧
  (∀ (p : Packet) (type : Nat) (c : Instr) (s : State),
    (c, type) ∈ [(Instr.write p, 1), (.read p, 2), (.atomic p, 3), (.tile p, 9)] →
    (p.type ≠ type ∨ s.fab.arrived.contains p = false → exec c s = .next s) ∧
    (live s = true → p.type = type → s.fab.arrived.contains p = true → myNode s = 0x3FFFF → exec c s = .next (takeArrived s p)))

/-- A packet of a flow is answered: answered packets at the front leave, UNAPSN follows (R400). -/
def answeredFlow (f : FlowSt) (psn : Nat) : FlowSt :=
  ({ f with sent := f.sent.map (fun (k : SentPkt) => if k.pkt.psn = psn then { k with answered := true } else k) }).trim

/-- One sent packet of the flow has a PSN: k, of a TYPE and with the TAGID of p, and it is not answered. -/
def Owed (f : FlowSt) (p : Packet) (type : Nat) (k : SentPkt) : Prop :=
  f.sent.filter (fun x => decide (x.pkt.psn = p.psn)) = [k] ∧ k.pkt.type = type ∧ k.pkt.tagid = p.tagid ∧ k.answered = false

/-- The command answers by way of state u: what waited for acknowledgements that have come goes on (R285, R407). -/
def AnswersBy (c : Instr) (s u : State) : Prop := exec c s = .next (fenceChecks (wakeAcks u))

/-- The flow of a packet that is open or closing, from its peer, which an engine can serve. -/
def Returned (s : State) (p : Packet) (type : Nat) (f : FlowSt) : Prop := FromPeer s p type f ∧ (f.st = 2 ∨ f.st = 3)

/-- An FPUT or FGET goes on: with no packet left to answer it ends OK with its length (R404). -/
def MovedOn (c : Instr) (s u : State) (q idx : Nat) : Prop :=
  (srcOut u (isCmd q idx) = true → AnswersBy c s u) ∧
  ∀ d, descAt s q idx = some d → d.stage = .started → (d.opc = 0x42 ∨ d.opc = 0x43) → srcOut u (isCmd q idx) = false →
    exec c s = .next (fenceChecks (wakeAcks (finishDesc u q idx stOk (d.op 48 8))))

/-- With the event interrupt off and no error armed, for an answer of the peer of a flow that is OPEN or CLOSING and
an engine serves. An ACK in the window takes every earlier WRITE, TILE or REDUCE packet from the send records:
UNAPSN is the next one's PSN or NXTPSN, RETRIES is 0 if it moved, sending again starts no earlier; a hart has
one store less outstanding, an FPUT with nothing left ends OK with its length. A READRESP of the right TAGID and
length, and an ATOMRESP, answer their request and give the data to the hart, the requester's fetch, the threads
of the load, or, for an FGET, to local memory; one without its request, or of another length, changes nothing.
Groups and fences that waited for it go on. Without a peer's flow or a node number, or with a bad check, a
packet is dropped; without an engine it waits. (spec/14_holarn_fabric.md (R388, R395, R400, R404, R406, R407),
spec/10_coherence_and_ordering.md (R282, R284, R285)) -/
def Obligations.AnswersReleaseTheirRequesters : Prop :=
  (∀ (p : Packet) (f : FlowSt) (xs ys : List SentPkt) (x : SentPkt) (s : State), Returned s p 6 f → f.sent = xs ++ ys → x ∈ xs →
    x.answered = false → (∀ k ∈ xs, psnBefore k.pkt.psn p.ackpsn = true ∧ k.pkt.type ≠ 2 ∧ k.pkt.type ≠ 3) →
    (∀ k ∈ ys, psnBefore k.pkt.psn p.ackpsn = false) → (∀ k, ys.head? = some k → k.answered = false) →
    (p.ackpsn = f.nxt ∨ psnBefore p.ackpsn f.nxt = true) →
    let una := (ys.head?.map (fun k => k.pkt.psn)).getD f.nxt
    let g := { f with sent := ys, una := una, retries := if una = f.una then f.retries else 0, resend := if ys = [] then none else f.resend.map (fun r => if psnBefore r una then una else r) }
    ((∀ k ∈ xs, (∀ q i a, k.src ≠ .cmd q i a) ∧ ∀ h, k.src ≠ .hart h) →
      ∃ u, AnswersBy (.ack p) s u ∧ FlowBecomes s u p g ∧ MemKept s u p.dflow ∧ u.harts = s.harts) ∧
    (∀ h, xs = [x] → x.src = .hart h → x.pkt.type = 1 → ∃ u, AnswersBy (.ack p) s u ∧ FlowBecomes s u p g ∧ MemKept s u p.dflow ∧
      (u.hart h).apStores = (s.hart h).apStores - 1) ∧
    (∀ q idx a, xs = [x] → x.src = .cmd q idx a → ∃ u, MovedOn (.ack p) s u q idx ∧ FlowBecomes s u p g ∧ MemKept s u p.dflow)) ∧
  (∀ (p : Packet) (f : FlowSt) (s : State), Returned s p 6 f → NoNewAck f p →
    ∃ t, exec (.ack p) s = .next t ∧ FlowBecomes s t p f ∧ t.mem = s.mem) ∧
  (∀ (p : Packet) (f : FlowSt) (k : SentPkt) (s : State), Returned s p 4 f → NoNewAck f p → Owed f p 2 k →
    let g := answeredFlow f p.psn
    let c := Instr.readresp p
    (p.payload.length ≠ k.pkt.len → ∃ t, exec c s = .next t ∧ FlowBecomes s t p f ∧ t.mem = s.mem) ∧
    (p.payload.length = k.pkt.len →
      (∀ h, k.src = .hart h → ∃ u, AnswersBy c s u ∧ FlowTakes s u p g ∧ MemKept s u p.dflow ∧ u.items = s.items ∧
        u.outs = .readResult k.pkt.gaddr (BitVec.ofNat 64 (leNat p.payload)) :: s.outs) ∧
      (∀ rid ga, k.src = .fetch rid ga → ∃ u, AnswersBy c s u ∧ FlowBecomes s u p g ∧ MemKept s u p.dflow ∧
        u.fab.fetched = s.fab.fetched ++ [(rid, ga, p.payload, false)]) ∧
      (∀ un req l, k.src = .load un req → (s.cu un).loads = [l] → l.got = [] → (∀ e ∈ l.todo, ∃ off va, e.2 = .remote req off va) →
        (l.todo.map Prod.fst).Nodup → ∃ u, AnswersBy c s u ∧ FlowBecomes s u p g ∧ MemKept s u p.dflow ∧ (u.cu un).loads = [] ∧
          ∀ th off va, (th, LoadAt.remote req off va) ∈ l.todo → u.vreg un l.group l.dest th = fieldAt p.payload off l.width % 2 ^ 32) ∧
      (∀ q idx a d t1, k.src = .cmd q idx a → descAt s q idx = some d →
        rqWrite (beginIntake (takeArrived s p) f p.dflow) (flowRq s q d f) a p.payload = (true, t1) → t1.flow p.dflow = some f →
        ∃ u, MovedOn c s u q idx ∧ u.flow p.dflow = some g ∧ (∀ b, ¬EntryByte s p.dflow b → u.byte b = t1.byte b) ∧
          u.fab.arrived = dropFirst (fun y => y == p) s.fab.arrived))) ∧
  (∀ (p : Packet) (f : FlowSt) (k : SentPkt) (s : State), Returned s p 5 f → NoNewAck f p → Owed f p 3 k →
    let g := answeredFlow f p.psn
    (∀ h, k.src = .hart h → ∃ u, AnswersBy (.atomresp p) s u ∧ FlowTakes s u p g ∧ MemKept s u p.dflow ∧ u.items = s.items ∧
      u.outs = .readResult k.pkt.gaddr (BitVec.ofNat 64 (leNat p.payload)) :: s.outs) ∧
    (∀ i, k.src = .commitAtom i → ∃ u, AnswersBy (.atomresp p) s u ∧ FlowBecomes s u p g ∧ MemKept s u p.dflow)) ∧
  (∀ (p : Packet) (f : FlowSt) (c : Instr) (type req : Nat) (s : State), (c, type, req) ∈ [(Instr.readresp p, 4, 2), (.atomresp p, 5, 3)] →
    Returned s p type f → NoNewAck f p → (∀ k ∈ f.sent, ¬(k.pkt.type = req ∧ k.pkt.psn = p.psn ∧ k.pkt.tagid = p.tagid ∧ k.answered = false)) →
    ∃ t, exec c s = .next t ∧ FlowBecomes s t p f ∧ t.mem = s.mem) ∧
  (∀ (p : Packet) (c : Instr) (type : Nat) (s : State),
    (c, type) ∈ [(Instr.ack p, 6), (.readresp p, 4), (.atomresp p, 5), (.nack p, 7), (.errresp p, 8)] →
    (live s = true → p.type = type → s.fab.arrived.contains p = true → myNode s ≠ 0x3FFFF →
      (checkOk p = false ∨ (∀ f, s.flow p.dflow = some f → f.rnode ≠ p.snode) → exec c s = .next (takeArrived s p)) ∧
      (∀ f, checkOk p = true → s.flow p.dflow = some f → f.rnode = p.snode → canServe s f = false → exec c s = .next s)) ∧
    (live s = true → p.type = type → s.fab.arrived.contains p = true → myNode s = 0x3FFFF → exec c s = .next (takeArrived s p)) ∧
    (p.type ≠ type ∨ s.fab.arrived.contains p = false → exec c s = .next s))

/-- A TILE packet next in order on an OPEN flow, none held after it; fin leaves of the flow f what is given, with the packet
passed (R400, R403). -/
def TileNext (s : State) (p : Packet) (f : FlowSt) : Prop :=
  FromPeer s p 9 f ∧ f.st = 2 ∧ NoNewAck f p ∧ p.psn = f.exp ∧ ∀ q ∈ f.early, q.psn ≠ (p.psn + 1) % 2 ^ 32
def passed (f : FlowSt) (p : Packet) : FlowSt :=
  { f with exp := (p.psn + 1) % 2 ^ 32, ackDue := true, rxb := (f.rxb + p.payload.length) % 2 ^ 64 }

/-- The transfer of a TILE packet with the packet taken in: RCID, its first PSN, and its parts; and its bytes in order. -/
def transfer (f : FlowSt) (p : Packet) : RxTile :=
  let rcid := p.gaddr % 2 ^ 16
  let r : RxTile := match f.rx with
    | some r => if r.rcid = rcid then r else ⟨rcid, p.psn, []⟩
    | none => ⟨rcid, p.psn, []⟩
  { r with parts := r.parts.filter (fun q => q.1 != nfld 45 16 p.gaddr) ++ [(nfld 45 16 p.gaddr, p.payload)] }
def transferBytes (r : RxTile) : List Byte := (r.parts.mergeSort (fun a b => decide (a.1 ≤ b.1))).flatMap Prod.snd

/-- The flow sends again from a PSN, or from UNAPSN if that is later; nothing if all is acknowledged. -/
def sendsFrom (f : FlowSt) (psn : Nat) : FlowSt :=
  if f.sent = [] then f else { f with resend := some (if psnBefore psn f.una then f.una else psn) }

/-- A TILE packet in order: without a receiving station it is passed with NACK BADTILE; with its FRECV station or
job not running, EXPPSN goes back to the transfer's first PSN with NACK NOCREDIT; a part joins its transfer; the
whole with a wrong DIGEST is dropped with NACK CHECK from its first PSN, with a wrong CID, FMT, size or position
with BADTILE; else its slot is written and the item has the tile. NACK EARLY, CHECK or NOCREDIT sends again from
its PSN, at least UNAPSN; NOCREDIT of a tile also forgets the credit; BADTILE answers the packet and ends its
item with FLOWERR. ERRRESP answers its request: FPUT or FGET ends REMOTE with code and offset and sends no more;
a posted write is recorded with its address, code and count and REMERR; a hart's access is refused; a
requester's fetch comes empty, or poisoned; an item meets MEMERR by poison, otherwise its load or atomic waits
in the sump and is sent again. (spec/14_holarn_fabric.md (R384, R385, R400, R403, R404, R405, R416),
spec/17_faults_and_replay.md (R475)) -/
def Obligations.TilesNacksAndRefusalsFollowTheFlow : Prop :=
  (∀ (p : Packet) (f : FlowSt) (s : State), TileNext s p f →
    let n := p.dflow
    let rx := transfer f p
    let bytes := transferBytes rx
    let slot := bytes.drop 32
    let tag := tagOf (bytes.take 32)
    let gives (g : FlowSt) : Prop := ∃ t, exec (.tile p) s = .next t ∧ FlowBecomes s t p g ∧ MemKept s t n
    (recvStation s n rx.rcid = none → gives { passed f p with nack := some (4, p.psn) }) ∧
    (∀ jn j sid st, recvStation s n rx.rcid = some (jn, j, sid, st) →
      let running := st.dst = 0 ∧ (j.jstate = 1 ∨ j.jstate = 2 ∨ j.jstate = 5)
      (¬running → gives { f with exp := rx.first, rx := none, nack := some (2, rx.first) }) ∧
      (∀ cid cd, running → ioCnd j st.df.outs = some (cid, cd) →
        let size := 32 + slotBytes cd.df.fmt
        let bad := tag.cid ≠ rx.rcid ∨ tag.fmt ≠ cd.df.fmt ∨ cd.df.trows ≤ tag.trow ∨ cd.df.tcols ≤ tag.tcol ∨ bytes.length ≠ size
        (bytes.length < size → gives { passed f p with rx := some rx }) ∧
        (size ≤ bytes.length → tag.digest ≠ crc32c slot → gives { f with exp := rx.first, rx := none, nack := some (3, rx.first) }) ∧
        (size ≤ bytes.length → tag.digest = crc32c slot → bad → gives { passed f p with rx := none, nack := some (4, p.psn) }) ∧
        (∀ k it t1, size ≤ bytes.length → tag.digest = crc32c slot → ¬bad → let ord := tag.trow * cd.df.tcols + tag.tcol
          let u := (beginIntake s f n).setFlow n { f with rx := some rx }
          s.liveItems.find? (fun (_, i) => i.job == jn && i.sid == sid && i.step == tag.step && i.ords.contains ord) = some (k, it) →
          it.wrote.any (fun w => w.ord == ord) = false →
          rqWrites u (itemRq u k it) [(j.slotVa cid cd (cd.ordinal j.s0 it.step 0 0 + ord), slot)] = (true, t1) →
          ∃ t, exec (.tile p) s = .next t ∧ t.item k = some { it with wrote := it.wrote ++ [⟨0, ord, tag.rows, tag.cols, tag.zpad⟩] } ∧
            (∀ g, t1.flow n = some g → t.flow n = some { passed g p with rx := none }) ∧
            t.fab.arrived = dropFirst (fun q => q == p) s.fab.arrived ∧ ∀ b, ¬EntryByte s n b → t.byte b = t1.byte b)))) ∧
  (∀ (p : Packet) (f : FlowSt) (s : State), Returned s p 7 f → NoNewAck f p →
    let gives (g : FlowSt) : Prop := ∃ t, exec (.nack p) s = .next t ∧ FlowBecomes s t p g ∧ MemKept s t p.dflow
    let tile := ∃ k ∈ f.sent, k.pkt.psn = p.psn ∧ k.pkt.type = 9
    (p.subop = 1 ∨ p.subop = 3 → gives (sendsFrom f p.psn)) ∧
    (p.subop = 2 → ¬tile → gives (sendsFrom f p.psn)) ∧
    (p.subop = 2 → tile → gives (sendsFrom { f with credit := none } p.psn)) ∧
    (∀ k i it, p.subop = 4 → Owed f { p with tagid := k.pkt.tagid } 9 k → k.src = .tile i → s.item i = some it →
      ∃ u, AnswersBy (.nack p) s u ∧ FlowTakes s u p (answeredFlow f p.psn) ∧
        u.item i = some { it with err := some (it.err.getD (stFlowErr, 0, 0)), log := [] } ∧ ∀ m, m ≠ i → u.item m = s.item m)) ∧
  (∀ (p : Packet) (f : FlowSt) (k : SentPkt) (type : Nat) (s : State), Returned s p 8 f → NoNewAck f p → type ≤ 3 →
    Owed f { p with tagid := k.pkt.tagid } type k →
    let g := answeredFlow f p.psn
    let c := Instr.errresp p
    let hx := pgRtr f.hx
    let notCmd := ∀ q i a, k.src ≠ .cmd q i a
    (∀ q idx a, k.src = .cmd q idx a → ∃ u, FlowTakes s u p { f with outq := f.outq.filter (fun o => !isCmd q idx o.src) } ∧
      exec c s = .next (answered (finishDesc u q idx 0x31 (p.subop % 256 * 2 ^ 56 + k.pkt.gaddr % 2 ^ 46)) p.dflow p.psn)) ∧
    (notCmd → type = 1 → (∀ h, k.src ≠ .hart h) → f.hx < 2 → ∃ u, AnswersBy c s u ∧ u.flow p.dflow = some g ∧
      u.reg (regAddr hx 0x138) = BitVec.ofNat 64 k.pkt.gaddr ∧
      u.reg (regAddr hx 0x140) = BitVec.ofNat 64 (min (s.regF hx 0x140 63 32 + 1) 0xFFFFFFFF * 2 ^ 32 + p.subop % 256) ∧
      u.err hx = setBit 8 (s.err hx) true) ∧
    (∀ h, k.src = .hart h → type ≠ 1 → ∃ u, AnswersBy c s u ∧ FlowTakes s u p g ∧ u.items = s.items ∧
      u.outs = .refusedAccess k.pkt.gaddr :: s.outs) ∧
    (∀ rid ga, k.src = .fetch rid ga → type = 2 → ∃ u, AnswersBy c s u ∧ FlowBecomes s u p g ∧ u.fab.fetched = s.fab.fetched ++
      [if p.subop = 5 then (rid, ga, List.replicate k.pkt.len 0, true) else (rid, ga, [], false)]) ∧
    (∀ i it, k.src = .commitAtom i → type = 3 → s.item i = some it →
      (p.subop = 5 → ∃ u, AnswersBy c s u ∧ FlowTakes s u p g ∧
        u.item i = some { it with err := some (it.err.getD (stMemErr, 0, 0)), log := [] }) ∧
      (p.subop ≠ 5 → ∃ u, AnswersBy c s u ∧ inSump u (itemWaiter 0 (uDie (it.die * 576 + it.owner)) (uSite (it.die * 576 + it.owner)) i) = true ∧
        u.flow p.dflow = some (answeredFlow { f with outq := f.outq ++ [⟨3, k.pkt.subop, k.pkt.gaddr, k.pkt.len, k.pkt.payload, k.src⟩] } p.psn))) ∧
    (∀ un req l gr it, k.src = .load un req → type = 2 → (s.cu un).loads = [l] → (∃ th off va, (th, LoadAt.remote req off va) ∈ l.todo) →
      s.grp un l.group = some gr → s.item gr.item = some it →
      (p.subop = 5 → ∃ u, AnswersBy c s u ∧ u.item gr.item = some { it with err := some (it.err.getD (stMemErr, 0, 0)), log := [] }) ∧
      (p.subop ≠ 5 → ∃ u, AnswersBy c s u ∧ inSump u (groupWaiter un gr.item l.group) = true ∧
        u.flow p.dflow = some (answeredFlow { f with outq := f.outq ++ [⟨2, 0, k.pkt.gaddr, k.pkt.len, [], k.src⟩] } p.psn))))

/-- A flow has become FAILED with a cause: nothing of it is left to send; its tile items end with FLOWERR; FLOWFAIL is set
but for a peer's CLOSE (R397, R400, R472). -/
def FlowFails (s t : State) (n : Nat) (f : FlowSt) (cause : Nat) : Prop :=
  (∃ g, t.flow n = some g ∧ g.st = 4 ∧ g.fcause = cause ∧ g.sent = [] ∧ g.outq = [] ∧ g.rnode = f.rnode ∧ g.exp = f.exp) ∧
  (∀ i ∈ flowItems s n, ∀ it, s.item i = some it → ∃ it', t.item i = some it' ∧ it'.err.isSome = true ∧ it'.log = []) ∧
  (cause ≠ 2 → f.hx < 2 → t.err (pgRtr f.hx) = setBit 11 (s.err (pgRtr f.hx)) true) ∧
  t.jobs = s.jobs ∧ (∀ m, m ≠ n → t.flow m = s.flow m)

/-- Nothing but flow n uses it: no descriptor, seat or pair, and no packet of it is owed. -/
def FlowAlone (s : State) (n : Nat) (f : FlowSt) : Prop :=
  flowCmds s n = [] ∧ flowSeats s n = [] ∧ s.pair = none ∧ (∀ k ∈ f.sent, k.src = .post) ∧ (∀ o ∈ f.outq, o.src = .post)

/-- An engine serves a flow of another module in a slice in which no early packet is next and no FSEND item has a tile. -/
def SliceOf (s : State) (x e n : Nat) (f : FlowSt) : Prop :=
  live s = true ∧ EvQuiet s ∧ x < 2 ∧ harRuns s x e = true ∧ s.flow n = some f ∧ serveDie s f.hx = x ∧ (f.st = 1 ∨ f.st = 2) ∧
  armedAt s (pgHar x e) 8 = false ∧ (∀ q ∈ f.early, q.psn ≠ f.exp) ∧ f.rnode < 2 ^ 18 ∧ f.rnode ≠ myNode s

/-- The slice sends packets of the flow and, if one is due, an acknowledgement, and leaves flow g. -/
def SliceSends (s : State) (x e n : Nat) (f : FlowSt) (ps : List Packet) (g : FlowSt) : Prop :=
  ∃ t, exec (.harSlice x e n) s = .next t ∧ t.flow n = some { g with ackDue := false } ∧ (∀ m, m ≠ n → t.flow m = s.flow m) ∧
    t.fab.rq = s.fab.rq ++ (ps ++ if f.ackDue then [control s f 6 0 0 0 []] else []).map (fun p => (f.hx, p)) ∧
    t.fab.arrived = s.fab.arrived ∧ t.jobs = s.jobs ∧ t.items = s.items ∧ t.queues = s.queues ∧ t.regs = s.regs ∧ t.errs = s.errs ∧
    t.outs = s.outs ∧ MemKept s t n

/-- FOPEN ends FLOWSTATE, NORESOURCE or MALFORMED, or makes the flow OPENING with the entry's fields and OPEN to
send; OPEN is answered OPENACK; with OPENACK both sent and received the flow is OPEN and FOPEN ends OK; under
STRICT with other digests it is CLOSED with cause 3, at its time limit with cause 4 and NOPEER. FCLOSE makes an
OPEN flow CLOSING and a FAILED one CLOSED; a CLOSING flow with nothing left sends CLOSE and is CLOSED. CLOSE of
the peer, RETRIES beyond RETRYMAX, and the loss of every engine fail it. CREDIT sets its mark. An expiry sends
again from UNAPSN. FPUT and FGET queue their packets; FFENCE waits for owed writes. A slice sends one packet:
control, NACK, response, one sent again, or a new one with the next PSN, kept until acknowledged; and an ACK if
due. An FSEND item's tile under the mark is sent with the peer's CID. A beacon's digest is compared and a
mismatch is reported. (spec/14_holarn_fabric.md (R396, R397, R399, R400, R401, R403, R404, R405, R407, R408,
R409, R410), spec/17_faults_and_replay.md (R471, R472)) -/
def Obligations.FlowsOpenSendAndClose : Prop :=
  (∀ (q idx : Nat) (d : Desc) (s : State), Starts s q idx 0x40 d → EvQuiet s → s.elog.armed = [] →
    let n := d.op 24 4
    let a := flowAddr s n
    let e := s.bytes a 256
    let ends (st : Nat) : Prop := ∃ u, exec (.fopen q idx) s = .next (finishDesc u q idx st 0) ∧ u.fab = s.fab ∧ u.mem = s.mem ∧ u.queues = s.queues
    (2 ^ flowLog s ≤ n ∨ s.flow n ≠ none → ends 0x32) ∧
    (n < 2 ^ flowLog s → s.flow n = none → (∀ b, a ≤ b → b < a + 256 → s.poisoned b = false) →
      let none_ := ringSize s (fieldAt e 1 1 / 64 % 2) = 0 ∨ myNode s = 0x3FFFF
      (fieldAt e 0 1 % 8 ≠ 0 → ends 0x32) ∧ (fieldAt e 0 1 % 8 = 0 → none_ → ends stNoResource) ∧
      (fieldAt e 0 1 % 8 = 0 → ¬none_ → flowEntryOk e = false → ends stMalformed) ∧
      (fieldAt e 0 1 % 8 = 0 → ¬none_ → flowEntryOk e = true →
        ∃ t, exec (.fopen q idx) s = .next t ∧ descAt t q idx = some { d with stage := .started, waits := 0 } ∧ MemKept s t n ∧
          t.byte a = 1 ∧ t.flow n = some (flowOpening s e q idx) ∧ (∀ m, m ≠ n → t.flow m = s.flow m) ∧ t.jobs = s.jobs))) ∧
  (∀ (q idx : Nat) (d : Desc) (s : State), Starts s q idx 0x41 d → let n := d.op 24 4
    (2 ^ flowLog s ≤ n ∨ s.flow n = none → exec (.fclose q idx) s = .next (finishDesc s q idx 0x32 0)) ∧
    (∀ f, n < 2 ^ flowLog s → s.flow n = some f →
      (f.st = 4 → ∃ u, exec (.fclose q idx) s = .next (finishDesc u q idx stOk 0) ∧ u.flow n = none ∧ u.byte (flowAddr s n) = 0 ∧ MemKept s u n) ∧
      (f.st = 2 → ∃ t, exec (.fclose q idx) s = .next t ∧ t.flow n = some { f with st := 3, cmd := some (q, idx) } ∧
        t.byte (flowAddr s n) = 3 ∧ MemKept s t n ∧ descAt t q idx = some { d with stage := .started, waits := 0 }) ∧
      (f.st ≠ 2 → f.st ≠ 4 → exec (.fclose q idx) s = .next (finishDesc s q idx 0x32 0)))) ∧
  (∀ (q idx opc : Nat) (c : Instr) (d : Desc) (s : State), (c, opc) ∈ [(Instr.fput q idx, 0x42), (.fget q idx, 0x43)] → Starts s q idx opc d →
    let n := d.op 24 4
    let len := d.op 48 8
    let cuts := packetCuts (len / 4096 + 1) 0 len
    ((∀ f, s.flow n = some f → f.st ≠ 2) → exec c s = .next (finishDesc s q idx 0x32 0)) ∧
    (∀ f, n < 2 ^ flowLog s → s.flow n = some f → f.st = 2 →
      let queued (u : State) (type : Nat) (body : Nat × Nat → List Byte) : Prop := ∃ t, exec c s = .next t ∧
        descAt t q idx = some { d with stage := .started, waits := 0 } ∧ (∀ b, ¬EntryByte s n b → t.byte b = u.byte b) ∧
        t.flow n = some { f with outq := f.outq ++ cuts.map (fun k => ⟨type, 0, f.rnode * 2 ^ 46 + d.op 40 8 + k.1, k.2, body k, .cmd q idx (d.op 32 8 + k.1)⟩) }
      (∀ bs u, opc = 0x42 → rqRead s (flowRq s q d f) (d.op 32 8) len = (some (bs, false), u) → u.flow n = some f →
        queued u 1 (fun k => (bs.drop k.1).take k.2)) ∧
      (∀ bs u, opc = 0x42 → rqRead s (flowRq s q d f) (d.op 32 8) len = (some (bs, true), u) → exec c s = .next (finishDesc u q idx stMemErr 0)) ∧
      (∀ u, opc = 0x43 → rqProbe (flowRq s q d f) [(d.op 32 8, len)] s = (true, u) → u.flow n = some f → queued u 2 (fun _ => [])))) ∧
  (∀ (q idx : Nat) (d : Desc) (s : State), Starts s q idx 0x44 d →
    (fenceOwed s q d = false → exec (.ffence q idx) s = .next (finishDesc s q idx stOk 0)) ∧
    (fenceOwed s q d = true → ∃ t, exec (.ffence q idx) s = .next t ∧ descAt t q idx = some { d with stage := .started, waits := 0 } ∧
      t.fab = s.fab ∧ t.mem = s.mem)) ∧
  (∀ (p : Packet) (f : FlowSt) (s : State), FromPeer s p 0xC f →
    let n := p.dflow
    let differs := bit 0 (s.reg (regAddr (pgRtr 0) 0x108)) = true ∧ p.payload.take 48 ≠ ownDigest s
    let gives (c : Instr) (g : FlowSt) : Prop := ∃ t, exec c s = .next t ∧ FlowBecomes s t p g ∧ MemKept s t n
    let opens (c : Instr) (g : FlowSt) : Prop := ∃ u, FlowBecomes s u p { g with st := 2, cmd := none } ∧ MemKept s u n ∧
      exec c s = .next (match f.cmd with | some (q, idx) => finishDesc u q idx stOk 0 | none => u)
    let refuses (c : Instr) : Prop := ∃ u, u.flow n = none ∧ MemKept s u n ∧ u.byte (flowAddr s n) = 0 ∧ u.byte (flowAddr s n + 45) = 3 ∧
      exec c s = .next (match f.cmd with | some (q, idx) => finishDesc u q idx 0x33 0 | none => u)
    (p.subop = 1 → (f.st = 2 → gives (.flowctlOpen p) { f with ctl := f.ctl ++ [(2, 0)] }) ∧
      (f.st = 1 → (differs → refuses (.flowctlOpen p)) ∧
        (¬differs → f.ackGot = false → gives (.flowctlOpen p) { f with ctl := f.ctl ++ [(2, 0)], ackSent := true }) ∧
        (¬differs → f.ackGot = true → opens (.flowctlOpen p) { f with ctl := f.ctl ++ [(2, 0)], ackSent := true }))) ∧
    (p.subop = 2 → f.st = 1 → (differs → refuses (.flowctlOpenack p)) ∧
      (¬differs → f.ackSent = false → gives (.flowctlOpenack p) { f with ackGot := true }) ∧
      (¬differs → f.ackSent = true → opens (.flowctlOpenack p) { f with ackGot := true })) ∧
    (p.subop = 3 → f.st = 2 → FlowAlone s n f → ∃ t, exec (.flowctlClose p) s = .next t ∧ FlowFails s t n f 2) ∧
    (p.subop = 4 → f.st = 2 → gives (.flowctlCredit p) { f with credit := some (fieldAt p.payload 0 8) })) ∧
  (∀ (n : Nat) (f : FlowSt) (s : State), live s = true → s.elog.armed = [] → s.flow n = some f →
    let c := Instr.flowRtoExpire n
    (f.st = 1 → exec c s = .next (s.setFlow n { f with ctl := f.ctl ++ [(1, 0)] })) ∧
    (f.st = 2 ∨ f.st = 3 → (f.sent = [] → exec c s = .next s) ∧
      (f.sent ≠ [] → f.retries < f.retrymax → exec c s = .next (s.setFlow n { f with retries := f.retries + 1, resend := some f.una })) ∧
      (f.sent ≠ [] → f.retrymax ≤ f.retries → FlowAlone s n f → ∃ t, exec c s = .next t ∧ FlowFails s t n f 1)) ∧
    (f.st ≠ 1 → exec (.flowOpenTimeout n) s = .next s) ∧
    (f.st = 1 → ∃ u, u.flow n = none ∧ MemKept s u n ∧ u.byte (flowAddr s n) = 0 ∧ u.byte (flowAddr s n + 45) = 4 ∧ u.queues = s.queues ∧
      exec (.flowOpenTimeout n) s = .next (match f.cmd with | some (q, idx) => finishDesc u q idx 0x30 0 | none => u))) ∧
  (∀ (x e n : Nat) (f : FlowSt) (s : State), SliceOf s x e n f → (∀ i ∈ s.liveItems, i.2.kind ≠ 0x11) →
    (∀ sub v rest, f.ctl = (sub, v) :: rest → SliceSends s x e n f
      [control s f 0xC sub 0 0 (if sub = 4 then leBytes 8 v else ownDigest s)] { f with ctl := rest }) ∧
    (f.ctl = [] → (∀ sub psn, f.nack = some (sub, psn) → SliceSends s x e n f [control s f 7 sub psn 0 []] { f with nack := none }) ∧
      (f.nack = none → (∀ r rest, f.resps = r :: rest → r.gaddr / 2 ^ 46 ≠ myNode s → SliceSends s x e n f [r] { f with resps := rest }) ∧
        (f.resps = [] →
          (∀ k, resendable f = some k → k.src ≠ .lockstep → k.pkt.gaddr / 2 ^ 46 ≠ myNode s → SliceSends s x e n f [k.pkt]
            { f with resend := if (k.pkt.psn + 1) % 2 ^ 32 = f.nxt then none else some ((k.pkt.psn + 1) % 2 ^ 32) }) ∧
          (∀ o, resendable f = none → sendable s f = some o → o.src ≠ .lockstep → o.gaddr / 2 ^ 46 ≠ myNode s →
            let p := sealed s f o.type o.subop o.gaddr f.nxt (if o.type = 2 ∨ o.type = 3 then f.nxt % 2 ^ 16 else 0) o.len o.payload
            p.psn = f.nxt ∧ idxSub f.nxt f.una < f.swin ∧ SliceSends s x e n f [p] { f with nxt := (f.nxt + 1) % 2 ^ 32, txb := (f.txb + o.payload.length) % 2 ^ 64, sent := f.sent ++ [⟨p, o.src, false⟩], outq := dropFirst (fun y => y == o) f.outq }) ∧
          (resendable f = none → sendable s f = none → SliceSends s x e n f [] f))))) ∧
  (∀ (x e n k o cid : Nat) (cd : Cnd) (f : FlowSt) (it : Item) (j : Job) (st : Stn) (tag slot : List Byte) (s u : State), SliceOf s x e n f →
    f.st = 2 → f.ctl = [] → f.nack = none → f.resps = [] → f.resend = none → f.sent = [] → f.outq = [] → s.liveItems = [(k, it)] →
    it.kind = 0x11 → it.err = none → it.tagsOk = true → itemWaits s k = false → s.job it.job = some j → j.stn it.sid = some st →
    par st.df 0 4 = n → ioCnd j st.df.ins = some (cid, cd) → (∃ m, f.credit = some m ∧ tileMark it.step o ≤ m) →
    it.ords.find? (fun i => !it.computed.contains i && (match f.credit with | some m => decide (tileMark it.step i ≤ m) | none => false)) = some o →
    let ord := cd.ordinal j.s0 it.step 0 0 + o
    rqReads (itemRq (beginSlice s x e n) k it) [(j.tagVa cid cd ord, 32), (j.slotVa cid cd ord, slotBytes cd.df.fmt)] (beginSlice s x e n) =
      (some ([tag, slot], false), u) → u.flow n = some f → tag.length = 32 → slot.length = slotBytes cd.df.fmt →
    ∃ t g, exec (.harSlice x e n) s = .next t ∧ t.item k = some { it with computed := it.computed ++ [o] } ∧ t.flow n = some g ∧
      (g.sent.map (fun y => y.pkt.payload) ++ g.outq.map (fun y => y.payload)).flatten =
        tag.take 20 ++ leBytes 2 (par st.df 4 2) ++ tag.drop 22 ++ slot) ∧
  (∀ (x e n : Nat) (f : FlowSt) (s : State), live s = true → EvQuiet s → x < 2 → harRuns s x e = true → s.flow n = some f →
    (serveDie s f.hx = x → armedAt s (pgHar x e) 8 = false → (∀ q ∈ f.early, q.psn ≠ f.exp) → f.rnode < 2 ^ 18 → f.rnode ≠ myNode s →
      f.st = 3 → f.sent = [] → f.outq = [] → f.resps = [] → f.ctl = [] → f.nack = none → f.ackDue = false → f.resend = none →
      ∃ u, u.flow n = none ∧ MemKept s u n ∧ u.byte (flowAddr s n) = 0 ∧ u.fab.rq = s.fab.rq ++ [(f.hx, control s f 0xC 3 0 0 [])] ∧
        exec (.harSlice x e n) s = .next (match f.cmd with | some (q, idx) => finishDesc u q idx stOk 0 | none => u)) ∧
    (s.elog.armed = [] → let dead := s.fab.harDead ++ [x * 64 + e]
      let left := { s with fab := { s.fab with harDead := dead } }
      let c := Instr.harSliceTimeout x e n
      (harAny left 0 = true ∨ harAny left 1 = true → ∃ t, exec c s = .next t ∧ t.fab.harDead = dead ∧
        t.err (pgHar x e) = setBit 8 (s.err (pgHar x e)) true ∧
        t.flow n = some { f with nack := some (3, f.exp), resend := if f.sent = [] then none else some f.una }) ∧
      (harAny left 0 = false → harAny left 1 = false → s.fab.flows = [(n, some f)] → f.st = 2 → FlowAlone s n f →
        ∃ t, exec c s = .next t ∧ t.fab.harDead = dead ∧ FlowFails s t n f 5))) ∧
  (∀ (g : Nat) (dig : List Byte) (s : State), live s = true → EvQuiet s → s.elog.armed = [] → g < 20 → isRouterPort s g = true → portUp s g = true →
    let stat := regAddr (pgHlp g) 0x120
    let old := s.reg stat
    let was := bit 0 old
    (dig.length = 48 → ∃ t, exec (.beacon g dig) s = .next t ∧ t.fab.flows = s.fab.flows ∧ (t.port g).digAt = some s.now ∧
      t.reg (regAddr (pgHlp g) 0x128) = BitVec.ofNat 64 (fieldAt dig 0 8) ∧
      (dig = ownDigest s → t.reg stat = setBit 0 old true ∧ bit g (t.reg (regAddr pgSec 0x218)) = false ∧ isolated t g = false) ∧
      (dig ≠ ownDigest s → isolated t g = digStrict s g ∧
        (was = true → t.reg stat = setBit 0 (satFld 31 16 old 1) false ∧ bit g (t.reg (regAddr pgSec 0x218)) = true ∧
          t.err (pgHlp g) = setBit 11 (s.err (pgHlp g)) true) ∧
        (was = false → t.reg stat = old ∧ t.errs = s.errs))) ∧
    (∃ t, exec (.beaconLoss g) s = .next t ∧ t.err (pgHlp g) = setBit 12 (s.err (pgHlp g)) true ∧ Trains s t g false) ∧
    ((∀ h, h < 20 → h ≠ g → portUp s h = false) → portRoom s g = true → roleOf s g = 1 →
      ∃ t p, exec .beaconTimer s = .next t ∧ PortSends s t g p ∧ p.type = 0xB ∧ p.vc = 4 ∧ p.gaddr = (s.port g).peer * 2 ^ 46 ∧
        p.payload = ownDigest s ++ leBytes 3 (myNode s) ∧ p.check = p.checkBytes ∧ t.fab.flows = s.fab.flows ∧ t.regs = s.regs))

/-- An LRA page serves a bound channel (R433, R436). -/
def SeatServes (s : State) (g r : Nat) : Prop := live s = true ∧ EvQuiet s ∧ lraServes s g = true ∧ r < 16 ∧ (binding s g r).v = true

/-- Only the seat of a channel has changed, to x, of what seats, flows, items, jobs, queues and registers hold. -/
def SeatBecomes (c : Instr) (s : State) (g r : Nat) (x : Seat) : Prop :=
  ∃ t, exec c s = .next t ∧ t.seat g r = x ∧ (∀ h k, h < 20 → k < 16 → ¬(h = g ∧ k = r) → t.seat h k = s.seat h k) ∧
    t.fab.flows = s.fab.flows ∧ t.items = s.items ∧ t.jobs = s.jobs ∧ t.queues = s.queues ∧ t.regs = s.regs ∧ t.mem = s.mem

/-- The seat sends a REDUCE packet to a member on the flow that the group table names, which holds packets f, and is left
as x (R419, R427). -/
def SeatSends (c : Instr) (s : State) (g r rep level chunk dir : Nat) (det : Bool) (step tiles : Nat) (data : List Byte) (x : Seat) : Prop :=
  let b := binding s g r
  let e := tableEntry s g r rep
  let payload := leBytes 8 step ++ leBytes 4 b.nrep ++ leBytes 2 b.grpid ++ leBytes 2 tiles ++ data
  ∀ f, s.flow e.2.2.1 = some f → ∃ t, exec c s = .next t ∧ t.seat g r = x ∧ t.items = s.items ∧ t.regs = s.regs ∧
    MemKept s t e.2.2.1 ∧ t.flow e.2.2.1 = some { f with outq := f.outq ++ [⟨0xA, b.wire * 128 + level * 4 + det.toNat * 2 + dir,
      e.2.2.2 * 2 ^ 46 + r * 2 ^ 42 + b.myrep * 2 ^ 24 + chunk, payload.length, payload, .reduce (g * 16 + r)⟩] }

/-- A REDUCE packet next in order on an OPEN flow reaches the seat of its channel, which has lost nothing. -/
def ReducesAt (s : State) (p : Packet) (f : FlowSt) (g : Nat) : Prop :=
  FromPeer s p 0xA f ∧ f.st = 2 ∧ NoNewAck f p ∧ p.psn = f.exp ∧ (∀ q ∈ f.early, q.psn ≠ (p.psn + 1) % 2 ^ 32) ∧
  seatPage s (redPkt p).rvc = some g ∧ (s.seat g (redPkt p).rvc).lost = false

/-- The seat with a step adopted from a packet, if it had none. -/
def adopted (s : State) (x : Seat) (y : RedPkt) : Seat :=
  if x.step.isSome then x else { x with step := some y.step, tiles := some y.tiles, det := detm s }

/-- A REDUCE packet in order passes its flow: a child's node of the next step becomes an input within the window; a
result is kept, forwarded and frees its chunk; a duplicate is dropped; a packet of a later step is refused
NOCREDIT; one that disagrees sets REDERR; a pull makes a child's results, or the parent's nodes, due again. On a
serving page an action reads the next local chunk, combines the first unused input (a slot's parity loss drops
the chunk and pulls), sends the lowest node up or a result down, or writes a result chunk. LRA_BIND is rejected
while the channel is in use or if invalid, else it takes its value with no step and an empty seat; LRA_GTAB
likewise. RTR_RTDATA sets the entry of RTR_RTIDX, but is rejected with V = 1 and ESC above 19. Deferred adds of
the lowest step that has committed: one address takes its old value plus the canonical sum of its adds, and the
job holds them no more. (spec/15_fabric_reduction.md (R418, R419, R422, R424, R426, R427, R428, R429, R430,
R432, R433, R434, R435), spec/14_holarn_fabric.md (R390, R413), spec/16_determinism.md (R442)) -/
def Obligations.SeatsAndDeferredAddsCombineInOrder : Prop :=
  (∀ (p : Packet) (f : FlowSt) (g : Nat) (s : State), ReducesAt s p f g →
    let x := redPkt p
    let y := s.seat g x.rvc
    let z := adopted s y x
    let last := lraStep s g x.rvc
    let next := last = noStep ∨ x.step = last + 1
    let gives (c : Instr) (w : Seat) : Prop := ∃ t, exec c s = .next t ∧ FlowBecomes s t p (passed f p) ∧ MemKept s t p.dflow ∧ t.seat g x.rvc = w
    (nbit 0 p.subop = false →
      (next → (y.step = none ∨ y.step = some x.step) → redAgrees s g x = true →
        (∀ e ∈ z.ress, e.chunk ≠ x.chunk) → (∀ e ∈ z.ins, ¬(e.chunk = x.chunk ∧ e.level = x.level ∧ e.rep = x.rep)) → z.base ≤ x.chunk →
        (x.chunk + 1 - z.base ≤ z.win ∨ mayHold (adoptStep s g x) g x.rvc (x.chunk + 1 - z.base) = true) →
        gives (.reduceNodeUp p) { z with win := max z.win (x.chunk + 1 - z.base), ins := z.ins ++ [(⟨x.chunk, x.level, x.rep, x.data, false⟩ : RedIn)] }) ∧
      (last ≠ noStep → x.step ≤ last → gives (.reduceNodeUp p) y) ∧
      (last ≠ noStep → last + 1 < x.step → ∃ t, exec (.reduceNodeUp p) s = .next t ∧ FlowBecomes s t p { f with nack := some (2, p.psn) } ∧
        t.seats = s.seats) ∧
      (next → y.step = some x.step → redAgrees s g x = false → ∃ t, exec (.reduceNodeUp p) s = .next t ∧ t.flow p.dflow = some (passed f p) ∧
        t.err (pgLra g) = setBit 8 (s.err (pgLra g)) true ∧ t.seats = s.seats ∧
        ∀ i it, (i, it) ∈ seatItems s g x.rvc → ∃ it', t.item i = some it' ∧ it'.err.isSome = true)) ∧
    (nbit 0 p.subop = true → p.len ≠ 16 → next → (y.step = none ∨ y.step = some x.step) → redAgrees s g x = true →
      ((∀ e ∈ z.ress, e.chunk ≠ x.chunk) → let w := { z with ins := z.ins.filter (fun e => e.chunk != x.chunk), nodes := z.nodes.filter (fun e => e.chunk != x.chunk), ress := z.ress ++ [(⟨x.chunk, x.data, (binding s g x.rvc).children.map Prod.snd, false⟩ : RedRes)] }
        gives (.reduceResultDown p) { w with win := z.base + z.win - w.base }) ∧
      ((∃ e ∈ z.ress, e.chunk = x.chunk) → gives (.reduceResultDown p) z)) ∧
    (nbit 0 p.subop = true → p.len = 16 → x.nrep = (binding s g x.rvc).nrep → x.grpid = (binding s g x.rvc).grpid → y.step = some x.step →
      ((binding s g x.rvc).parent = some x.rep →
        gives (.reducePull p) { y with nodes := y.nodes.map (fun (n : RedNode) => { n with sent := false }) }) ∧
      ((binding s g x.rvc).parent ≠ some x.rep → (∃ c ∈ (binding s g x.rvc).children, c.2 = x.rep) →
        gives (.reducePull p) { y with ress := y.ress.map (fun (e : RedRes) => { e with todo := if e.todo.contains x.rep then e.todo else e.todo ++ [x.rep] }) }))) ∧
  (∀ (g r : Nat) (s : State), SeatServes s g r →
    let x := s.seat g r
    let b := binding s g r
    let c := Instr.lraSeatAction g r
    (∀ k n it j st s1 cid cd bs s2, nextLocal s g r = some k → seatItem s g r (k / 4) = some (n, it) → it.tagsOk = true →
      s.job it.job = some j → j.stn it.sid = some st → reach s g r k = some s1 → ioCnd j st.df.ins = some (cid, cd) →
      rqRead s1 (itemRq s1 n it) (j.slotVa cid cd (cd.ordinal j.s0 it.step 0 0 + k / 4) + k % 4 * 2048) 2048 = (some (bs, false), s2) →
      let y := s2.seat g r
      exec (c 0) s = .next (formNodes (dropFetched (s2.setSeat g r { y with ins := y.ins ++ [⟨k, b.span, b.myrep, bs, true⟩] }) (ridItem n)) g r k)) ∧
    (∀ e, x.ins.find? (fun i => !i.used) = some e → armedAt s (pgLra g) 9 = false →
      let ins := updFirst (fun i => !i.used) (fun (i : RedIn) => { i with used := true }) x.ins
      (∀ lo hi par, b.hops = [(lo, hi)] → hi = b.top → b.parent = some par →
        let reps := hopReps b.nrep b.myrep lo hi
        let here := ins.filter (fun i => i.chunk == e.chunk && i.level == lo && i.used && reps.contains i.rep)
        (∀ i ∈ x.ins, ¬(i.chunk = e.chunk ∧ i.level = hi ∧ i.rep = b.myrep)) →
        (here.length < reps.length → SeatBecomes (c 1) s g r { x with ins := ins }) ∧
        (reps.length ≤ here.length → x.det = false →
          let data := wireBytes ((columns (here.map (fun i => wireWords i.data))).map (hopNormal b.wire))
          ∃ t, exec (c 1) s = .next t ∧ t.items = s.items ∧ t.fab = s.fab ∧ t.mem = s.mem ∧ t.seat g r = { x with ins := ins ++ [⟨e.chunk, hi, b.myrep, data, true⟩], nodes := x.nodes ++ [⟨e.chunk, hi, data, false⟩] }))) ∧
    (∀ e, x.ins.find? (fun i => !i.used) = some e → armedAt s (pgLra g) 9 = true → ∃ t, exec (c 1) s = .next t ∧
      t.err (pgLra g) = setBit 9 (s.err (pgLra g)) true ∧ t.items = s.items ∧ t.seat g r = { x with ins := x.ins.filter (fun i => i.chunk != e.chunk), nodes := x.nodes.filter (fun i => i.chunk != e.chunk) }) ∧
    (∀ n rep step, n ∈ x.nodes → n.sent = false → (∀ m ∈ x.nodes, m.sent = false → m = n ∨ n.chunk < m.chunk) → b.parent = some rep →
      x.step = some step → SeatSends (c 2) s g r rep n.level n.chunk 0 x.det step (x.tiles.getD 0) n.data
        { x with nodes := updFirst (fun m => m.chunk == n.chunk) (fun (m : RedNode) => { m with sent := true }) x.nodes }) ∧
    (∀ e k step, x.prev = none → owedResult x.ress = some (e, k) → x.step = some step →
      SeatSends (c 3) s g r k (treeLevels b.nrep) e.chunk 1 x.det step (x.tiles.getD 0) e.data { x with ress := sentResult x.ress e.chunk k }) ∧
    (∀ e n it j st ic a oc o tag dirty s1 s2, x.ress.find? (fun i => !i.written && (seatItem s g r (i.chunk / 4)).isSome) = some e →
      seatItem s g r (e.chunk / 4) = some (n, it) → s.job it.job = some j → j.stn it.sid = some st → ioCnd j st.df.ins = some (ic, a) →
      ioCnd j st.df.outs = some (oc, o) → let bs := resultBytes b o.df.fmt e.data
      rqRead s (itemRq s n it) (j.tagVa ic a (a.ordinal j.s0 it.step 0 0 + e.chunk / 4)) 32 = (some (tag, dirty), s1) →
      rqWrites s1 (itemRq s n it) [(j.slotVa oc o (o.ordinal j.s0 it.step 0 0 + e.chunk / 4) + e.chunk % 4 * bs.length, bs)] = (true, s2) →
      let y := s2.seat g r
      let ress := updFirst (fun z => z.chunk == e.chunk) (fun (z : RedRes) => { z with written := true }) y.ress
      let whole := (List.range 4).all (fun i => ress.any (fun z => z.chunk == 4 * (e.chunk / 4) + i && z.written)) = true
      ∃ t, exec (c 4) s = .next t ∧ t.mem = s2.mem ∧ t.seat g r = { y with ress := ress } ∧ t.item n = (if whole then
        some { it with wrote := it.wrote ++ [⟨0, e.chunk / 4, (tagOf tag).rows, (tagOf tag).cols, (tagOf tag).zpad⟩] } else s2.item n))) ∧
  (∀ (g r : Nat) (v : W64) (s : State), live s = true → lraInForce s g = true → r < 16 →
    let b := bindingOf v
    let bad := (b.v = true ∧ bindOk s g r b = false) ∨ tabOk s (gtabBase s g r) b.nrep = false
    let tabBad := tabOk s (fld 51 12 v * 4096) (binding s g r).nrep = false
    ((s.seat g r).busy = true → ∀ tab, exec (.lraBindWrite g r tab v) s = .next (raise s (pgLra g) 0)) ∧
    ((s.seat g r).busy = false →
      (bad → exec (.lraBindWrite g r false v) s = .next (raise s (pgLra g) 0)) ∧
      (¬bad → ∃ t, exec (.lraBindWrite g r false v) s = .next t ∧ binding t g r = b ∧ lraStep t g r = 2 ^ 64 - 1 ∧ t.seat g r = Seat.reset ∧
        t.errs = s.errs ∧ t.fab = s.fab ∧ t.mem = s.mem) ∧
      (tabBad → exec (.lraBindWrite g r true v) s = .next (raise s (pgLra g) 0)) ∧
      (¬tabBad → exec (.lraBindWrite g r true v) s = .next (s.setReg (regAddr (pgLra g) (0x208 + 16 * r)) (v &&& 0xFFFFFFFFFF000))))) ∧
  (∀ (x : Nat) (v : W64) (s : State), live s = true → x < 2 → let i := s.regF (pgRtr x) 0x128 13 0
    (bit 63 v = true ∧ 19 < fld 28 24 v → exec (.rtrRtdataWrite x v) s = .next (raise s (pgRtr x) 0)) ∧
    (¬(bit 63 v = true ∧ 19 < fld 28 24 v) → i < 8224 → ∃ t, exec (.rtrRtdataWrite x v) s = .next t ∧ routeAt t x i = v &&& 0x800000001F0FFFFF ∧
      (∀ y k, y < 2 → k < 8224 → ¬(y = x ∧ k = i) → routeAt t y k = routeAt s y k) ∧ t.fab.flows = s.fab.flows ∧ t.regs = s.regs ∧ t.mem = s.mem)) ∧
  (∀ (jn a : Nat) (j : Job) (e : DefAdd) (s : State), live s = true → EvQuiet s → s.elog.armed = [] → s.job jn = some j → e ∈ j.defers →
    (∀ d ∈ j.defers, e.step ≤ d.step) →
    let due := j.defers.filter (fun d => d.step == e.step)
    (allCommitted j e.step = false → exec (.deferredAddsApplied jn) s = .next s) ∧
    (allCommitted j e.step = true → (∀ d ∈ due, d.addr = a) → a % 4 = 0 → s.poisoned a = false →
      let sum := f32add (leNat (s.bytes a 4)) (canonical32 ((due.mergeSort DefAdd.before).map (fun d => d.v)) % 2 ^ 32)
      ∃ u, exec (.deferredAddsApplied jn) s = .next (afterCommit u jn) ∧ u.items = s.items ∧
        u.job jn = some { j with defers := j.defers.filter (fun d => d.step != e.step) } ∧
        ∀ b, u.byte b = if a ≤ b ∧ b < a + 4 then (leBytes 4 sum).getD (b - a) 0 else s.byte b))

/-- REGEN ends BADSTATE without a LOADED job, DETMODE outside deterministic mode, STEPRANGE with STEP before S0 or
all ones, NOREGEN (0x34) for a station without output or with FRECV or LREDUCE in its cone; otherwise the job
runs that step alone in deterministic mode with the descriptor's seed. LSPAIR ends BADSTATE, FLOWSTATE,
NORESOURCE for an area that is not near memory exported for reads and writes; otherwise GLB_LSSTAT, LSCMP and
LSDIFF name the waiting pair. LOCKSTEP_COMPARE: equal greetings start comparing, others end LSPAIR in MISMATCH
with 0x35; a step that both completed with equal digests becomes LSCMP and is told the peer; with the peer's
log, the first difference goes to LSDIFF and LSPAIR ends DIVERGED with 0x36 and the step. LSEND ends the pair
IDLE with LSPAIR OK and LSCMP. GLB_DETCTL obeys LOCK and running jobs that ask for it; GLB_REDCTL with no job
sets RESERVE and JDEPTH of its level. (spec/16_determinism.md (R439, R450, R451, R453, R454, R455, R457, R458,
R459), spec/17_faults_and_replay.md (R480)) -/
def Obligations.RegenerationAndPairsFollowTheirRules : Prop :=
  (∀ (q idx : Nat) (d : Desc) (s : State), Starts s q idx 0x60 d →
    let jn := d.op 24 1 % 64
    let sid := d.op 26 2
    let step := d.op 32 8
    let s0 := d.op 40 8
    let ends (st : Nat) : Prop := exec (.regen q idx) s = .next (finishDesc s q idx st 0)
    ((∀ j, s.job jn = some j → j.jstate ≠ 0) → ends stBadState) ∧
    (∀ j, s.job jn = some j → j.jstate = 0 →
      let bad := step < s0 ∨ step = 2 ^ 64 - 1
      let able := ∃ st, j.stn sid = some st ∧ st.df.outList ≠ [] ∧
        ∀ n ∈ coneOf j sid, ∀ x, j.stn n = some x → x.df.kind ≠ 0x12 ∧ x.df.kind ≠ 0x13
      (detm s = false → ends stDetMode) ∧ (detm s = true → bad → ends stStepRange) ∧ (detm s = true → ¬bad → ¬able → ends 0x34) ∧
      (detm s = true → ¬bad → able → ∃ t k, exec (.regen q idx) s = .next t ∧ t.job jn = some k ∧ k.jstate = 1 ∧ k.s0 = s0 ∧
        k.seed = d.op 48 8 ∧ k.admitted = step - s0 + 1 ∧ k.low = step - s0 ∧ k.dets = [(s0, true)] ∧ k.defers = [] ∧ k.digs = [] ∧
        k.regen = some ⟨q, idx, step, sid, coneOf j sid, d.op 56 8, qaspace s q⟩ ∧ k.stns.length = j.stns.length ∧
        (∀ c ∈ k.cnds, c.pubs = [] ∧ c.reserved = [] ∧ c.w = (step - s0) * (c.df.trows * c.df.tcols)) ∧
        k.cnds.map (fun c => c.df) = j.cnds.map (fun c => c.df) ∧ descAt t q idx = some { d with stage := .started, waits := 0 } ∧
        (∀ m, m ≠ jn → t.job m = s.job m) ∧ t.items = s.items ∧ t.mem = s.mem ∧ t.regs = s.regs))) ∧
  (∀ (q idx : Nat) (d : Desc) (s : State), Starts s q idx 0x61 d →
    let jn := d.op 24 1 % 64
    let g := d.op 25 1
    let lbase := d.op 40 8
    let ends (st : Nat) : Prop := exec (.lspair q idx) s = .next (finishDesc s q idx st 0)
    ((∀ j, s.job jn = some j → j.jstate ≠ 0) ∨ s.pair ≠ none → ends stBadState) ∧
    (∀ j, s.job jn = some j → j.jstate = 0 → s.pair = none →
      (pairFlowOk s g (d.op 28 4) = false → ends 0x32) ∧
      (pairFlowOk s g (d.op 28 4) = true → pairAreaOk s j lbase = false → ends stNoResource) ∧
      (pairFlowOk s g (d.op 28 4) = true → pairAreaOk s j lbase = true → ∃ t, exec (.lspair q idx) s = .next t ∧
        t.pair = some ⟨jn, g, d.op 28 4, d.op 32 8, lbase, q, idx⟩ ∧ t.reg (regAddr pgGlb 0x118) = BitVec.ofNat 64 (jn * 256 + 1) ∧
        t.reg (regAddr pgGlb 0x120) = BitVec.ofNat 64 (2 ^ 64 - 1) ∧ t.reg (regAddr pgGlb 0x128) = 0 ∧
        descAt t q idx = some { d with stage := .started, waits := 0 } ∧ t.jobs = s.jobs ∧ t.fab = s.fab ∧ t.mem = s.mem))) ∧
  (∀ (q idx : Nat) (d : Desc) (s : State), Starts s q idx 0x62 d →
    (∀ p, s.pair = some p → p.job = d.op 24 1 % 64 → ∃ u, u.pair = none ∧ u.regF pgGlb 0x118 2 0 = 0 ∧ u.queues = s.queues ∧ u.fab = s.fab ∧
      exec (.lsend q idx) s = .next (finishDesc (finishDesc u p.q p.idx stOk (lsCmp s)) q idx stOk 0)) ∧
    ((∀ p, s.pair = some p → p.job ≠ d.op 24 1 % 64) → exec (.lsend q idx) s = .next (finishDesc s q idx stOk 0))) ∧
  (∀ s : State, s.pair = none → exec .lockstepCompare s = .next s) ∧
  (∀ (p : Pair) (j : Job) (s : State), live s = true → s.pair = some p → s.job p.job = some j →
    let c := Instr.lockstepCompare
    let ended (st : Nat) (u : State) : Prop := u.pair = none ∧ u.regF pgGlb 0x118 2 0 = st ∧ u.queues = s.queues ∧ u.mem = s.mem ∧ u.jobs = s.jobs
    (lsState s = 1 → (j.jstate = 0 ∨ j.regen ≠ none → exec c s = .next s) ∧
      (j.jstate ≠ 0 → j.regen = none → let got := s.bytes p.lbase 71
        (got.drop 70 ≠ [0x55] → exec c s = .next s) ∧
        (got.drop 70 = [0x55] → got.take 70 = greeting j → exec c s = .next (s.setRegF pgGlb 0x118 2 0 2)) ∧
        (got.drop 70 = [0x55] → got.take 70 ≠ greeting j → ∃ u, ended 4 u ∧ exec c s = .next (finishDesc u p.q p.idx 0x35 0)))) ∧
    (lsState s = 2 →
      let step := if lsCmp s = 2 ^ 64 - 1 then j.s0 else lsCmp s + 1
      let slot := p.lbase + 0x1000 + step % 16 * lsSr j
      let theirs (n : Nat) : Nat := leNat (s.bytes (slot + 64 + 8 * n) 8)
      let both := j.s0 ≤ step ∧ step < j.s0 + j.low ∧ leNat (s.bytes slot 8) = step
      (¬both → exec c s = .next s) ∧
      (both → (∀ n, n < j.stns.length → stationDigest j step n = theirs n) → ∀ f, s.flow p.flow = some f →
        ∃ t, exec c s = .next t ∧ lsCmp t = step % 2 ^ 64 ∧ t.pair = s.pair ∧ t.jobs = s.jobs ∧ t.items = s.items ∧
          t.flow p.flow = some { f with outq := f.outq ++ [⟨1, 0, f.rnode * 2 ^ 46 + p.rbase + 0x80, 8, leBytes 8 step, .lockstep⟩] }) ∧
      (∀ n st peer u, both → n < j.stns.length → stationDigest j step n ≠ theirs n → (∀ m, m < n → stationDigest j step m = theirs m) →
        j.stn n = some st → askLog s p j step st.df = (some peer, u) →
        let x := firstDiff s p j step st.df peer
        ∃ v, ended 3 v ∧ lsCmp v = step % 2 ^ 64 ∧ v.reg (regAddr pgGlb 0x128) = BitVec.ofNat 64 (n * 2 ^ 48 + x.1 * 2 ^ 32 + x.2) ∧
          exec c s = .next (finishDesc v p.q p.idx 0x36 step)))) ∧
  (∀ (v : W64) (s : State), live s = true → let old := s.reg (regAddr pgGlb 0x100)
    let held := bit 1 old = true ∨ (bit 0 old = true ∧ bit 0 v = false ∧
      ∃ e ∈ s.jobs, ∃ j, e.2 = some j ∧ (j.jstate = 1 ∨ j.jstate = 2 ∨ j.jstate = 5) ∧ j.detreq = true)
    (held → exec (.glbDetctlWrite v) s = .next (raise s pgGlb 0)) ∧
    (¬held → ∃ t, exec (.glbDetctlWrite v) s = .next t ∧ t.reg (regAddr pgGlb 0x100) = v &&& 3 ∧
      (∀ a, a ≠ regAddr pgGlb 0x100 → t.reg a = s.reg a) ∧ t.jobs = s.jobs ∧ t.errs = s.errs ∧ t.mem = s.mem) ∧
    (s.jobs ≠ [] → exec (.glbRedctlWrite v) s = .next (raise s pgGlb 0)) ∧
    (s.jobs = [] → ∃ t, exec (.glbRedctlWrite v) s = .next t ∧ t.reg (regAddr pgGlb 0x130) = v &&& 3 ∧ t.items = s.items ∧
      (∀ d, hasCdie s d = true → t.regF (pgDie d) 0x118 5 0 = [0, 0, 8, 16].getD (fld 1 0 v) 0) ∧
      (∀ u, u < 576 * s.fuses.variant.cdies → siteHere s u = true → t.regF (uCu u) 0x108 9 8 = [0, 1, 2, 2].getD (fld 1 0 v) 0)))

/-- What R487 makes of modelled power (mW) against a budget (W): far above it, above it, below it with work waiting, or
neither. -/
def adjusted (pmw b : Nat) (waiting : Bool) (far above below hold : Nat) : Nat :=
  if b * 1050 < pmw then far else if b * 1000 < pmw then above else if pmw < b * 970 ∧ waiting = true then below else hold

/-- CAPSET with the cap and the shares in force goes to every die fitted (R489). -/
def CapsetSent (s t : State) : Prop :=
  t.pwr.capSeq = (s.pwr.capSeq + 1) % 2 ^ 16 ∧ t.pwr.capsets = s.pwr.capsets ++
    (diesOf s).map (fun d => (d, (s.pwr.capSeq + 1) % 2 ^ 16, effCap t, (t.reg (regAddr (pgPwr 2) 0x108)).toNat % 2 ^ 56))

/-- The C-dies have woken to RS0 (R498). -/
def Woken (s t : State) : Prop :=
  t.regF (pgPwr 2) 0x128 2 0 = 0 ∧ t.regF (pgPwr 2) 0x128 63 32 = (s.regF (pgPwr 2) 0x128 63 32 + 1) % 2 ^ 32 ∧ t.pwr.railSave = [] ∧
  (∀ d r, hasCdie s d = true → r < 16 → railSet t d r = min (s.pwr.railSave.getD (d * 16 + r) (railSet s d r)) s.fuses.siteVmax % 256) ∧
  (2 ≤ s.regF (pgPwr 2) 0x128 2 0 → ∀ u ∈ s.units.map Prod.fst, (t.cu u).held = false) ∧ t.items = s.items ∧ t.jobs = s.jobs ∧ t.mem = s.mem

/-- PWR_WINDOW lowers the budget by 2 % while TMAX exceeds TLIM, restores it at TLIM - 2, sets THERM at entry,
reports the budget, power and flags, and moves rails, rates or the frequency limit as R487's table says; rails
stay while the C-dies rest. PWR_REPORT adds each queue's energy with its part of the static energy and the rest
to the unattributed count. CAPSET is applied if later. HINT_LAPSE ends the hint and keeps rail 0's set point in
its class. PACE_CHECK adds the waiting and follows SLACK. PWR_CAP takes 1,000 to 3,600 W and PWR_SHARE valid
unlocked shares, sending CAPSET when the effective cap changes or LOCK is set. THERMAL_TRIP at 115 degrees is
FATAL cause 4; a failed sensor sets SENSOR. A unit holds below 580 mV and goes on above 600. Idle C-dies enter
the deepest state allowed; a request or a lower tolerance wakes them. GLB_ELOGCFG is fixed while EN = 1 and
resets the indices when EN rises; GLB_ELOGCONS stays within the ring. (spec/18_power_and_thermal.md (R484, R485,
R486, R487, R489, R490, R492, R493, R494, R496, R497), spec/04_compute_units.md (R102),
spec/17_faults_and_replay.md (R463)) -/
def Obligations.PowerControllersKeepTheirBudgets : Prop :=
  (∀ (d staticMw tmax : Nat) (acts : List (Nat × Nat × Nat)) (w sw : Bool) (s : State), live s = true → EvQuiet s → s.elog.armed = [] →
    hasDie s d = true →
    let p := s.pdie d
    let stat := regAddr (pgPwr d) 0x180
    let tlim := s.regF (pgPwr d) 0x188 7 0
    let tm := if p.sensorsBad * 2 ≤ (if d < 2 then 64 else if d = 2 then 32 else 16) then tmax else tlim + 1
    let down := if tlim < tm then min 100 (p.thermDown + 2) else if tm + 2 ≤ tlim then p.thermDown - 2 else p.thermDown
    let b := p.cap * (p.shares / 2 ^ (8 * d) % 256) / 100 * (100 - max down p.paceDown) / 100
    let pw := windowMw s d false acts + staticMw
    let side := windowMw s d true acts
    let sb := sideBudget s p d
    let adj := adjusted pw b w
    let sadj := adjusted side sb sw
    ∃ t, exec (.pwrWindow d acts staticMw tmax w sw) s = .next t ∧ (t.pdie d).thermDown = down ∧
      fld 63 56 (t.reg stat) = tm % 256 ∧ fld 49 49 (t.reg stat) = (if 0 < down then 1 else 0) ∧ fld 15 0 (t.reg stat) = b % 65536 ∧
      fld 31 16 (t.reg stat) = sb % 65536 ∧ fld 47 32 (t.reg stat) = pw / 1000 % 65536 ∧ fld 48 48 (t.reg stat) = (if b * 1000 < pw then 1 else 0) ∧
      t.err (pgPwr d) = (if tlim < tm ∧ p.thermDown = 0 then setBit 9 (s.err (pgPwr d)) true else s.err (pgPwr d)) ∧
      (d < 2 → ∀ r, r < 16 → let v := railSet s d r
        railSet t d r = if s.regF (pgPwr 2) 0x128 2 0 = 0 then min (adj (max 124 (v - 4)) (max 124 (v - 1)) (v + 1) v) s.fuses.siteVmax % 256 else v) ∧
      (2 < d → (t.pdie d).mainStep = if p.hint.isSome then p.mainStep else adj (min 15 (p.mainStep + 4)) (min 15 (p.mainStep + 1)) (p.mainStep - 1) p.mainStep) ∧
      (d = 2 → let f := s.fuses.coreFmax
        (t.pdie d).mainStep = adj (max 40 (hLimit s - 4 * (f * 5 / 100))) (max 40 (hLimit s - f * 5 / 100)) (min f (hLimit s + f * 5 / 100)) (hLimit s)) ∧
      (d ≠ 2 → (t.pdie d).sideStep = sadj (min 15 (p.sideStep + 4)) (min 15 (p.sideStep + 1)) (p.sideStep - 1) p.sideStep) ∧
      (∀ e, e ≠ d → t.pdie e = s.pdie e) ∧ t.jobs = s.jobs ∧ t.items = s.items ∧ t.queues = s.queues) ∧
  (∀ (d unattr static tmax pinW einUj pmodW : Nat) (per : List (Nat × Nat)) (s : State), live s = true → hasDie s d = true →
    (per.map Prod.fst).Nodup → (∀ e ∈ per, e.1 < 4096) →
    let tot := (per.map Prod.snd).sum
    let un := regAddr (pgPwr 2) 0x140
    ∃ t, exec (.pwrReport d per unattr static tmax pinW einUj pmodW) s = .next t ∧ fld 63 56 (t.reg (regAddr (pgPwr d) 0x180)) = tmax % 256 ∧
      (tot = 0 → t.reg un = s.reg un + BitVec.ofNat 64 (unattr + static)) ∧
      (0 < tot → t.reg un = s.reg un + BitVec.ofNat 64 (unattr + (static - (per.map (fun e => static * e.2 / tot)).sum)) ∧
        ∀ e ∈ per, t.reg (regAddr (pgQue e.1) 0x158) = s.reg (regAddr (pgQue e.1) 0x158) + BitVec.ofNat 64 (e.2 + static * e.2 / tot)) ∧
      (d = 2 → t.reg (regAddr (pgPwr 2) 0x148) = s.reg (regAddr (pgPwr 2) 0x148) + BitVec.ofNat 64 einUj ∧
        t.regF (pgPwr 2) 0x110 63 48 = pinW % 65536 ∧ t.regF (pgPwr 2) 0x110 47 32 = pmodW % 65536) ∧ t.pwr = s.pwr ∧ t.mem = s.mem) ∧
  (∀ (d seq q cap shares : Nat) (s : State), live s = true → s.pwr.capsets.find? (fun m => m.1 == d && m.2.1 == seq) = some (d, q, cap, shares) →
    let ahead := (q + 2 ^ 16 - (s.pdie d).capSeq) % 2 ^ 16
    ∃ t, exec (.capset d seq) s = .next t ∧ t.pwr.capsets = s.pwr.capsets.filter (fun m => !(m.1 == d && m.2.1 == seq)) ∧ t.regs = s.regs ∧
      t.pdie d = (if 0 < ahead ∧ ahead < 2 ^ 15 then { s.pdie d with capSeq := q, cap := cap, shares := shares } else s.pdie d) ∧
      ∀ e, e ≠ d → t.pdie e = s.pdie e) ∧
  (∀ (d : Nat) (s : State), live s = true →
    ((s.pdie d).hint = none → exec (.hintLapse d) s = .next s) ∧
    (∀ h, (s.pdie d).hint = some h → h.pclass < 8 → ∃ t, exec (.hintLapse d) s = .next t ∧ t.pdie d = { s.pdie d with hint := none } ∧
      (d < 2 → classV t d h.pclass = railSet s d 0 ∧ ∀ a, a ≠ regAddr (pgPwr d) (0x500 + 8 * h.pclass) → t.reg a = s.reg a) ∧
      (2 ≤ d → t.regs = s.regs)) ∧
    (hasDie s d = true → s.elog.armed = [] → (s.pdie d).sensorsBad < (if d < 2 then 64 else if d = 2 then 32 else 16) →
      ∃ t, exec (.sensorFail d) s = .next t ∧ t.pdie d = { s.pdie d with sensorsBad := (s.pdie d).sensorsBad + 1 } ∧
        t.err (pgPwr d) = setBit 10 (s.err (pgPwr d)) true)) ∧
  (∀ (n : Nat) (s : State), live s = true →
    let ctl := s.reg (regAddr (pgPwr 2) 0x138)
    let slack := fld 7 0 ctl * 1000
    ∃ t, exec (.paceCheck n) s = .next t ∧ t.reg (regAddr (pgPwr 2) 0x130) = s.reg (regAddr (pgPwr 2) 0x130) + BitVec.ofNat 64 n ∧
      t.jobs = s.jobs ∧ t.mem = s.mem ∧ (bit 8 ctl = false → t.pwr = s.pwr) ∧
      (bit 8 ctl = true → ∀ d, hasCdie s d = true → let p := s.pdie d
        let down := if slack < n then min 100 (p.paceDown + 2) else if n * 2 < slack then p.paceDown - 2 else p.paceDown
        t.pdie d = { p with paceDown := down } ∧ t.regF (pgPwr d) 0x180 50 50 = if 0 < down then 1 else 0)) ∧
  (∀ (v : W64) (s : State), live s = true →
    let w := fld 15 0 v
    let f (i : Nat) : Nat := fld (8 * i + 7) (8 * i) v
    let valid := bit 56 (s.reg (regAddr (pgPwr 2) 0x108)) = false ∧ f 0 + f 1 + f 2 + f 3 + f 4 + f 5 + f 6 ≤ 100 ∧ 5 ≤ f 0 ∧ 5 ≤ f 2 ∧
      (hasCdie s 1 = true → 5 ≤ f 1)
    (w < 1000 ∨ 3600 < w → exec (.pwrCapWrite v) s = .next (raise s (pgPwr 2) 0)) ∧
    (1000 ≤ w → w ≤ 3600 → ∃ t, exec (.pwrCapWrite v) s = .next t ∧ t.reg (regAddr (pgPwr 2) 0x100) = BitVec.ofNat 64 w ∧
      effCap t = (if bit 3 (s.reg (regAddr (pgPwr 2) 0x200)) = true then min w 1800 else w) ∧ t.regF (pgPwr 2) 0x110 15 0 = effCap t ∧
      (effCap t = s.regF (pgPwr 2) 0x110 15 0 → t.pwr = s.pwr) ∧ (effCap t ≠ s.regF (pgPwr 2) 0x110 15 0 → CapsetSent s t) ∧ t.mem = s.mem) ∧
    (¬valid → exec (.pwrShareWrite v) s = .next (raise s (pgPwr 2) 0)) ∧
    (valid → ∃ t, exec (.pwrShareWrite v) s = .next t ∧ t.reg (regAddr (pgPwr 2) 0x108) = BitVec.ofNat 64 (fld 56 0 v) ∧
      (bit 56 v = true → CapsetSent s t) ∧ (bit 56 v = false → t.pwr = s.pwr) ∧ t.mem = s.mem)) ∧
  (∀ (d tmax : Nat) (s : State), s.phase = .running → hasDie s d = true →
    (tmax < 115 → exec (.thermalTrip d tmax) s = .next s) ∧
    (115 ≤ tmax → ∃ t u, exec (.thermalTrip d tmax) s = .next t ∧ FatalFrom u t 4 0 d ∧ u = s.setRegF (pgPwr d) 0x180 63 56 tmax)) ∧
  (∀ (u mv : Nat) (s : State), live s = true → siteHere s u = true →
    (exec (.cuSupplyLow u mv) s = .next (if mv < 580 then s.setCu u { s.cu u with held := true } else s)) ∧
    (exec (.cuSupplyRestore u mv) s = .next (if 600 < mv then s.setCu u { s.cu u with held := false } else s))) ∧
  (∀ (v : W64) (s : State), live s = true →
    let us := [0, 2, 40, 400, 20000]
    let rs := s.regF (pgPwr 2) 0x128 2 0
    (rs = 0 → exec .restWake s = .next s) ∧
    (rs ≠ 0 → ∃ t, exec .restWake s = .next t ∧ Woken s t) ∧
    (rs = 0 ∨ us.getD rs 20000 ≤ fld 31 0 v → exec (.pwrLattolWrite v) s =
      .next (s.setReg (regAddr (pgPwr 2) 0x118) (BitVec.ofNat 64 (fld 31 0 v)))) ∧
    (rs ≠ 0 → fld 31 0 v < us.getD rs 20000 → ∃ t, exec (.pwrLattolWrite v) s = .next t ∧ Woken s t ∧
      t.reg (regAddr (pgPwr 2) 0x118) = BitVec.ofNat 64 (fld 31 0 v)) ∧
    (rs ≠ 0 ∨ cdiesIdle s = false → exec .restEntry s = .next s) ∧
    (rs = 0 → cdiesIdle s = true →
      let may (k : Nat) : Prop := us.getD k 20000 ≤ s.regF (pgPwr 2) 0x118 31 0 ∧ k ≤ s.regF (pgPwr 2) 0x120 34 32
      ((∀ k, 1 ≤ k → k ≤ 4 → ¬may k) → exec .restEntry s = .next s) ∧
      (∀ k, 1 ≤ k → k ≤ 4 → may k → (∀ j, k < j → j ≤ 4 → ¬may j) → ∃ t, exec .restEntry s = .next t ∧ t.regF (pgPwr 2) 0x128 2 0 = k ∧
        (∀ d r, hasCdie s d = true → r < 16 → railSet t d r = min (if k = 1 then 124 else 110) s.fuses.siteVmax % 256 ∧
          t.pwr.railSave.getD (d * 16 + r) 0 = railSet s d r) ∧
        (2 ≤ k → ∀ u, u < 576 * s.fuses.variant.cdies → siteHere s u = true → (t.cu u).held = true) ∧
        (3 ≤ k → t.ls = [] ∧ t.cc = []) ∧ t.jobs = s.jobs ∧ t.items = s.items))) ∧
  (∀ (v : W64) (s : State), live s = true →
    let a := regAddr pgGlb 0x180
    let old := s.reg a
    let size := fld 4 0 v
    let bad := size < 6 ∨ 16 < size ∨ (bit 11 old = true ∧ (fld 51 12 v ≠ fld 51 12 old ∨ size ≠ fld 4 0 old)) ∨ elogRingOk s v = false
    let room := idxSub s.elog.prod (fld 31 0 v) ≤ 2 ^ fld 4 0 old
    (bad → exec (.elogCfgWrite v) s = .next (raise s pgGlb 0)) ∧
    (¬bad → ∃ t, exec (.elogCfgWrite v) s = .next t ∧ t.reg a = v &&& 0xFFFFFFFFFFC1F ∧ (∀ b, b ≠ a → t.reg b = s.reg b) ∧
      t.elog = (if bit 11 v = true ∧ bit 11 old = false then { s.elog with prod := 0, cons := 0 } else s.elog)) ∧
    (¬room → exec (.elogConsWrite v) s = .next (raise s pgGlb 0)) ∧
    (room → exec (.elogConsWrite v) s = .next { s with elog := { s.elog with cons := fld 31 0 v } }))

/-- Doublewords of the SEC page from an offset, as bytes: low byte first (R513, R520). -/
def SecWords (s : State) (off n : Nat) : List Byte :=
  (List.range n).flatMap (fun w => leBytes 8 (s.reg (regAddr pgSec (off + 8 * w))).toNat)

/-- The digest of a bank's image of a TYPE, by the manifest's first entry of it (R507, R514). -/
def imageDigest (bank : List Byte) (ty : Nat) : List Byte := sha384 (imageOf bank ty)

/-- A measurement slot extended once (R514). -/
def extended (old d : List Byte) : List Byte := sha384 (old ++ d)

/-- Boot is in a stage of a running module. -/
def InStage (s : State) (n : Nat) : Prop := s.phase = .running ∧ s.boot.stopped = false ∧ s.regF pgSec 0x100 11 8 = n

/-- Boot has stopped with a CODE (R512); s is the state whose other registers stay. -/
def BootStops (s t : State) (code : Nat) : Prop :=
  t.boot = { s.boot with stopped := true } ∧ t.regF pgSec 0x100 23 16 = code ∧ t.outs = .ibi s.mgmt.secActive :: s.outs ∧
  (∀ a, a ≠ regAddr pgSec 0x100 → t.reg a = s.reg a) ∧ t.phase = .running ∧ t.mem = s.mem ∧ t.keys = s.keys ∧ t.harts = s.harts

/-- The measurement an SPDM index names (R515, R516). -/
def spdmValue (s : State) (idx : Nat) : List Byte :=
  if idx = 9 then SecWords s 0x480 6
  else if idx = 10 then leBytes 8 (s.reg (regAddr pgSec 0x210)).toNat ++ leBytes 8 (s.reg (regAddr pgSec 0x100)).toNat
  else SecWords s (0x300 + 48 * (idx - 1)) 6

/-- A request's answer is shown on its own transport, PCIe or I3C, while that transport runs, and changes nothing else. -/
def SpdmAnswers (c : Instr) (s : State) (pcie : Bool) (r : SpdmReply) : Prop :=
  let runs := if pcie = true then s.phase = .running
    else (s.phase = .running ∨ s.phase = .fatal) ∧ (pathOf s s.mgmt.secActive).faulted = false
  (runs → exec c s = .next { s with outs := .spdm pcie r :: s.outs }) ∧ (¬runs → exec c s = .next s)

/-- A manifest is valid exactly on R508's conditions. BOOT_ROM_DONE boots bank A, else B with FALLBACK, reports its
SVN and measures the manifest and PFW into slot 0; with neither valid it stops with bank B's code. BOOT_PFW_DONE
goes on when the dies' identities hold, else stops with code 1. BOOT_DIES_DONE measures CFW and XFW, starts
rails at 0.70 V with CAPSET and well recovery. BOOT_MEMORY_DONE places and measures HFS, writes DIE_HBOOT,
releases hart 0, forms the digest and blows the fuses the manifest names. A stage that is late stops with code
6, and a stopped boot takes a rewritten bank. MEAS_EXTEND extends slots 3 to 7 by SEC_MEASIN and is rejected for
0 to 2. The digest's record has R517's layout; a write that changes it makes a digest due, and
CFG_DIGEST_RECOMPUTE forms it and counts SEQ. Each SPDM request is answered on its own transport while that
runs: the algorithms, certificate slot 0, indices 1 to 10 and 0xFF are served and others refused; what the
signatures cover is the model's reading (log entry 50). (spec/19_boot_and_attestation.md (R507, R508, R509,
R510, R511, R512, R513, R514, R515, R516, R517, R518, R520, R521), spec/12_host_cores.md (R343),
spec/18_power_and_thermal.md (R487, R489)) -/
def Obligations.BootStagesMeasureAndAttest : Prop :=
  (∀ (k : KeyFuses) (b : List Byte), manifestCode k b = 0 ↔
    (manifestFieldsOk b = true ∧ Config.ecdsaVerify (slice b 0x208 96) (slice b 0x2A0 96) (sha384 (slice b 0 0x2A0)) = true ∧
      Config.lmsVerify (slice b 0x268 56) (slice b 0x300 1772) (slice b 0 0x2A0) = true ∧
      (∃ i, i < 4 ∧ nbit i k.ecRev = false ∧ k.ecKeys[i]? = some (sha384 (slice b 0x208 96))) ∧
      (∃ i, i < 4 ∧ nbit i k.lmsRev = false ∧ k.lmsKeys[i]? = some (sha384 (slice b 0x268 56))) ∧
      k.svnMin ≤ fieldAt b 4 1 ∧ imagesOk b = true)) ∧
  (∀ (s : State), InStage s 0 → s.reg (regAddr pgSec 0x100) = 0 →
    let ca := manifestCode s.keys s.boot.bankA
    let bank := if ca = 0 then s.boot.bankA else s.boot.bankB
    let cb := manifestCode s.keys bank
    (cb ≠ 0 → ∃ t, exec .bootRomDone s = .next t ∧ BootStops s t cb ∧ t.reg (regAddr pgSec 0x100) = BitVec.ofNat 64 (cb * 65536 + 3)) ∧
    (cb = 0 → ∃ t, exec .bootRomDone s = .next t ∧ t.reg (regAddr pgSec 0x100) = (if ca = 0 then 0x100 else 0x103) ∧
      t.regF pgSec 0x108 13 8 = fieldAt bank 4 1 ∧
      SecWords t 0x300 6 = extended (extended (SecWords s 0x300 6) (sha384 (slice bank 0 0x2A0))) (imageDigest bank 1) ∧
      (∀ i, i < 4 → i = t.regF pgSec 0x110 13 12 → nbit i s.keys.ecRev = false ∧ s.keys.ecKeys[i]? = some (sha384 (slice bank 0x208 96))) ∧
      (∀ i, i < 4 → i = t.regF pgSec 0x110 15 14 → nbit i s.keys.lmsRev = false ∧ s.keys.lmsKeys[i]? = some (sha384 (slice bank 0x268 56))) ∧
      t.boot = s.boot ∧ t.keys = s.keys ∧ t.mem = s.mem ∧ t.outs = s.outs)) ∧
  (∀ (s : State), InStage s 1 →
    let same := (∀ d ∈ diesOf s, s.fuses.valids.getD d false = true ∧ s.fuses.serials.getD d 0 = s.fuses.serials.getD 2 0) ∧
      (∀ d ∈ diesOf s, ∀ e ∈ diesOf s, d ≠ e → s.fuses.dieNums.getD d 0 ≠ s.fuses.dieNums.getD e 0) ∧
      ∀ n, n < 10 → hasDlk s n = true → (dlkEnds[n]?).map Prod.snd = (s.fuses.farDies.find? (fun p => p.1 == n)).map Prod.snd
    ∃ t, exec .bootPfwDone s = .next t ∧ (∀ n, n < 10 → hasDlk s n = true → fld 0 0 (t.reg (regAddr (pgDlk n) 0x108)) = 1) ∧ t.mem = s.mem ∧
      (same → t.regF pgSec 0x100 11 8 = 2 ∧ t.boot = s.boot ∧ t.outs = s.outs) ∧
      (¬same → t.regF pgSec 0x100 11 8 = 1 ∧ t.regF pgSec 0x100 23 16 = 1 ∧ t.boot.stopped = true ∧ t.outs = .ibi s.mgmt.secActive :: s.outs)) ∧
  (∀ (s : State), InStage s 2 →
    let bank := if bit 1 (s.reg (regAddr pgSec 0x100)) then s.boot.bankB else s.boot.bankA
    ∃ t, exec .bootDiesDone s = .next t ∧ t.regF pgSec 0x100 11 8 = 3 ∧
      SecWords t 0x330 6 = extended (extended (SecWords s 0x330 6) (imageDigest bank 2)) (imageDigest bank 3) ∧
      (∀ d r, hasCdie s d = true → r < 16 → railSet t d r = 140 ∧ t.regF (pgPwr d) (0x400 + 8 * r) 23 16 = s.fuses.siteVmax % 256) ∧
      CapsetSent s t ∧ (∀ d ∈ diesOf s, (t.pdie d).cap = effCap s ∧
        (t.pdie d).shares = (s.reg (regAddr (pgPwr 2) 0x108)).toNat % 2 ^ 56) ∧
      (hasWell s = true → t.well = { s.well with recov := true }) ∧ t.boot = s.boot ∧ t.mem = s.mem) ∧
  (∀ (place entry : Nat) (s : State), InStage s 3 → isNear s place = true →
    let bank := if bit 1 (s.reg (regAddr pgSec 0x100)) then s.boot.bankB else s.boot.bankA
    let flags := fieldAt bank 6 2
    let keep (lo slot : Nat) (old new : Nat) : Prop := ∀ i, i < 4 → nbit i new = (nbit i old || (nbit (lo + i) flags && i != slot))
    ∃ t, exec (.bootMemoryDone place entry) s = .next t ∧ t.regF pgSec 0x100 11 8 = 4 ∧ t.mem = (s.putBytes place (imageOf bank 4)).mem ∧
      SecWords t 0x360 6 = extended (SecWords s 0x360 6) (imageDigest bank 4) ∧
      t.regF (pgDie 2) 0x120 51 2 = entry / 4 % 2 ^ 50 ∧
      (t.hart 0).startPc = (if (s.hart 0).startPc.isSome then (s.hart 0).startPc else some (entry / 4 % 2 ^ 50 * 4)) ∧
      (∀ h, h ≠ 0 → t.hart h = s.hart h) ∧
      SecWords t 0x480 6 = sha384 (cfgRecord t) ∧ t.regF pgSec 0x218 63 48 = (s.regF pgSec 0x218 63 48 + 1) % 65536 ∧
      t.boot = { s.boot with digestDue := false, digestFormed := true } ∧
      t.keys.svnMin = (if nbit 0 flags then max s.keys.svnMin (fieldAt bank 4 1) else s.keys.svnMin) ∧
      keep 8 (s.regF pgSec 0x110 13 12) s.keys.ecRev t.keys.ecRev ∧ keep 12 (s.regF pgSec 0x110 15 14) s.keys.lmsRev t.keys.lmsRev ∧
      t.keys.ecKeys = s.keys.ecKeys ∧ t.keys.lmsKeys = s.keys.lmsKeys) ∧
  (∀ (isB : Bool) (bytes : List Byte) (s : State), s.phase = .running →
    (∀ n, n < 4 → InStage s n → ∃ t, exec .bootStageTimeout s = .next t ∧ BootStops s t 6 ∧ t.regF pgSec 0x100 11 8 = n) ∧
    (InStage s 4 → exec .bootStageTimeout s = .next s) ∧
    (s.boot.stopped = true → (pathOf s s.mgmt.secActive).faulted = false → exec (.bootFlashRewrite isB bytes) s =
      .next { s with boot := if isB = true then { s.boot with bankB := bytes } else { s.boot with bankA := bytes } }) ∧
    (s.boot.stopped = false → exec (.bootFlashRewrite isB bytes) s = .next s)) ∧
  (∀ (n : Nat) (s : State), live s = true → n < 8 →
    (n < 3 → exec (.measExtend n) s = .next (raise s pgSec 0)) ∧
    (3 ≤ n → ∃ t, exec (.measExtend n) s = .next t ∧ SecWords t (0x300 + 48 * n) 6 = extended (SecWords s (0x300 + 48 * n) 6) (SecWords s 0x120 6) ∧
      (∀ a, (∀ w, w < 6 → a ≠ regAddr pgSec (0x300 + 48 * n + 8 * w)) → t.reg a = s.reg a) ∧ t.mem = s.mem ∧ t.outs = s.outs)) ∧
  (∀ (s : State), let r := cfgRecord s
    r.length = 256 ∧ slice r 0 96 = SecWords s 0x300 12 ∧ slice r 96 48 = SecWords s 0x4C0 6 ∧
    fieldAt r 144 8 = (s.reg (regAddr pgGlb 0x100)).toNat ∧ fieldAt r 152 8 = (s.reg (regAddr pgGlb 0x130)).toNat ∧
    fieldAt r 160 8 = (s.reg (regAddr (pgRtr 0) 0x108)).toNat ∧ fieldAt r 178 78 = 0 ∧
    ∀ g, g < 20 → fieldAt r 168 10 / 2 ^ (4 * g) % 16 =
      if s.fuses.variant.bonded g then (if x16Of s g then 8 else 0) + fld 2 0 (s.reg (regAddr (pgHlp g) 0x100)) else 0) ∧
  (∀ (v : W64) (w : Nat) (s : State), live s = true → w < 6 →
    let a := regAddr pgSec (0x4C0 + 8 * w)
    (∃ t, exec (.regWrite (.hart 0) true a 8 v) s = .next t ∧ t.reg a = v ∧ (∀ b, b ≠ a → t.reg b = s.reg b) ∧
      t.boot = { s.boot with digestDue := s.boot.digestDue || (s.boot.digestFormed && v != s.reg a) }) ∧
    (s.boot.digestDue = false → exec .cfgDigestRecompute s = .next s) ∧
    (s.boot.digestDue = true → EvQuiet s → ∃ t, exec .cfgDigestRecompute s = .next t ∧ SecWords t 0x480 6 = sha384 (cfgRecord s) ∧
      t.regF pgSec 0x218 63 48 = (s.regF pgSec 0x218 63 48 + 1) % 65536 ∧ t.boot = { s.boot with digestDue := false, digestFormed := true } ∧
      ((∀ g, g < 20 → portUp s g = false) → t.outs = s.outs) ∧
      (∀ g, g < 20 → isRouterPort s g = true → portUp s g = true → portRoom s g = true → roleOf s g = 1 → (∀ h, h < 20 → h ≠ g → portUp s h = false) →
        ∃ p, PortSends s t g p ∧ p.type = 0xB ∧ p.payload.take 48 = sha384 (cfgRecord s)))) ∧
  (∀ (pcie offered signed : Bool) (slot off len idx : Nat) (nonce : List Byte) (s : State),
    let chain := Config.certChain
    let all := (List.range 10).map (fun i => (i + 1, spdmValue s (i + 1)))
    let sum := sha384 (all.flatMap Prod.snd)
    let items := if idx = 0xFF then all else if 1 ≤ idx ∧ idx ≤ 10 then [(idx, spdmValue s idx)] else []
    let sig := if signed = true then Config.deviceSign (sha384 (nonce ++ items.flatMap Prod.snd)) else []
    SpdmAnswers (.getVersion pcie) s pcie .version ∧ SpdmAnswers (.getCapabilities pcie) s pcie .capabilities ∧
    SpdmAnswers (.negotiateAlgorithms pcie offered) s pcie (if offered = true then .algorithms else .error) ∧
    SpdmAnswers (.getDigests pcie) s pcie (.digests (sha384 chain)) ∧
    SpdmAnswers (.getCertificate pcie slot off len) s pcie
      (if slot = 0 then .certificate ((chain.drop off).take len) (chain.length - (off + len)) else .error) ∧
    SpdmAnswers (.challenge pcie slot nonce) s pcie
      (if slot = 0 then .challengeAuth (sha384 chain) nonce sum (Config.deviceSign (sha384 (sha384 chain ++ nonce ++ sum))) else .error) ∧
    SpdmAnswers (.getMeasurements pcie idx signed nonce) s pcie
      (if idx = 0xFF ∨ (1 ≤ idx ∧ idx ≤ 10) then .measurements items nonce sig else .error))

/-- The word of a group's state that SPACE 0x3 reads (R533): entry 0 of the stack is the one pushed first (log entry 73). -/
def groupStateWord (g : Group) (w : Nat) : Nat :=
  if w = 0 then g.pc else if w = 1 then g.active * 2 ^ 32 + g.live else if w = 2 then g.ctr % 2 ^ 16 + g.stack.length * 2 ^ 16
  else (g.stack.reverse[w - 3]?).elim 0 (fun e => e.pc % 2 ^ 32 * 2 ^ 32 + e.mask % 2 ^ 32)

/-- The DBG page of a C-die has latched a value (R533). -/
def Latched (s t : State) (d v : Nat) : Prop :=
  t = { ((s.setReg (regAddr (pgDbg d) 0x118) (BitVec.ofNat 64 v)).setRegF (pgDbg d) 0x108 18 18 1) with
    dbg := if d = 0 then { s.dbg with insp0 := none } else { s.dbg with insp1 := none } }

/-- MAILBOX_READ and MAILBOX_WRITE are rejected while EN = 0 or a request is outstanding, else they start one with
DBG_MBADDR and DBG_MBDATA. MAILBOX_DONE makes the access: a write is the REG_WRITE of the debug requester, an
aligned read puts the register in DBG_MBDATA, and DONE becomes 1 with GO 0. DBG_HALT of an INSERVICE site of a
die with none halted makes it HALTING; DBG_RESUME and DBG_STEP need that site HALTED, and others are rejected;
RESUME ends the halt, STEP lets each group with a ready instruction issue one. DBG_HALTED makes a halting unit
HALTED once its matrix operations and memory requests are complete, and not before. DBG_INSP selects SPACE and
INDEX on a HALTED unit and clears DVALID, else is rejected; DBG_INSP_LATCHED latches the doubleword R533 names
and sets DVALID, changing nothing else. (spec/20_counters_and_debug.md (R529, R530, R531, R532, R533, R534),
spec/04_compute_units.md (R119), spec/02_register_pages.md (R50, R53)) -/
def Obligations.DebugAccessHaltsInspectsAndServesTheMailbox : Prop :=
  (∀ (wr : Bool) (s : State), live s = true →
    let c : Instr := if wr = true then .mailboxWrite else .mailboxRead
    let ctl := regAddr (pgDbg 2) 0x118
    let may := bit 0 (s.reg (regAddr (pgDbg 2) 0x100)) = true ∧ s.dbg.mbox = none
    (¬may → exec c s = .next (raise s (pgDbg 2) 0)) ∧
    (may → ∃ t, exec c s = .next t ∧ t.reg ctl = (if wr = true then 3 else 1) ∧ (∀ a, a ≠ ctl → t.reg a = s.reg a) ∧ t.mem = s.mem ∧
      t.dbg = { s.dbg with mbox := some (wr, (s.reg (regAddr (pgDbg 2) 0x108)).toNat, s.reg (regAddr (pgDbg 2) 0x110)) })) ∧
  (∀ (wr : Bool) (addr : Nat) (v : W64) (s : State), live s = true → s.dbg.mbox = some (wr, addr, v) → inAperture addr = true → addr % 8 = 0 →
    let u := { s with dbg := { s.dbg with mbox := none } }
    let done (x : State) : State := x.setReg (regAddr (pgDbg 2) 0x118) ((x.reg (regAddr (pgDbg 2) 0x118) &&& 2) ||| 4)
    (wr = true → ∃ x, exec (.regWrite .debug false addr 8 v) u = .next x ∧ exec .mailboxDone s = .next (done x)) ∧
    (wr = false → exec .mailboxDone s = .next ((done u).setReg (regAddr (pgDbg 2) 0x110) (readReg u (pageOf addr) (offOf addr))))) ∧
  (∀ (s : State), live s = true → s.dbg.mbox = none → exec .mailboxDone s = .next s) ∧
  (∀ (d site : Nat) (s : State), live s = true → hasCdie s d = true → site < 1024 →
    let u := d * 576 + site
    let here := haltOf s d = some (site, true)
    let mayHalt := site < 576 ∧ inService s u = true ∧ haltOf s d = none
    let halt (x : Dbg) (h : Option (Nat × Bool)) : Dbg := if d = 0 then { x with halt0 := h } else { x with halt1 := h }
    (mayHalt → exec (.dbgHalt d site) s = .next { s with dbg := halt s.dbg (some (site, false)) }) ∧
    (¬mayHalt → exec (.dbgHalt d site) s = .next (raise s (pgDbg d) 0)) ∧
    (¬here → exec (.dbgResume d site) s = .next (raise s (pgDbg d) 0) ∧ exec (.dbgStep d site) s = .next (raise s (pgDbg d) 0)) ∧
    (here → ∃ t, exec (.dbgResume d site) s = .next t ∧ haltOf t d = none ∧ t.regs = s.regs ∧ t.errs = s.errs ∧ t.mem = s.mem ∧ t.groups = s.groups ∧
      t.vregs = s.vregs ∧ t.ls = s.ls ∧ t.jobs = s.jobs ∧ (∀ w, w ≠ u → t.cu w = s.cu w) ∧ (runningOn s u = [] → t.units = s.units ∧ t.items = s.items)) ∧
    (here → ∃ t, exec (.dbgStep d site) s = .next t ∧ t = { s with dbg := halt { s.dbg with steps := t.dbg.steps } (some (site, false)) } ∧
      (∀ k, k / 64 ≠ u → (k ∈ t.dbg.steps ↔ k ∈ s.dbg.steps)) ∧
      ∀ k, k / 64 = u → (k ∈ t.dbg.steps ↔ ∃ h g it, (h, g) ∈ residents s u ∧ gKey u h = k ∧ s.item g.item = some it ∧
        canIssue { s with dbg := halt s.dbg none } u h g it = true))) ∧
  (∀ (d site : Nat) (s : State), live s = true → hasCdie s d = true → haltOf s d = some (site, false) →
    let u := d * 576 + site
    let halt (x : Dbg) (h : Option (Nat × Bool)) : Dbg := if d = 0 then { x with halt0 := h } else { x with halt1 := h }
    let still := (s.cu u).mxq ≠ [] ∨ (s.cu u).loads ≠ [] ∨ (s.cu u).misses ≠ [] ∨ ∃ h ∈ readyGroups s u, gKey u h ∈ s.dbg.steps
    (still → exec (.dbgHalted d) s = .next s) ∧
    (¬still → exec (.dbgHalted d) s = .next { s with
      dbg := halt { s.dbg with steps := s.dbg.steps.filter (fun k => decide (k / 64 ≠ u)) } (some (site, true)) })) ∧
  (∀ (d : Nat) (v : W64) (s : State), live s = true → hasCdie s d = true →
    let ok := (∃ site, haltOf s d = some (site, true)) ∧ 1 ≤ fld 63 60 v ∧ fld 63 60 v ≤ 4
    (¬ok → exec (.dbgInsp d v) s = .next (raise s (pgDbg d) 0)) ∧
    (ok → ∃ t, exec (.dbgInsp d v) s = .next t ∧ inspOf t d = some (fld 63 60 v, fld 31 0 v) ∧ haltOf t d = haltOf s d ∧
      t.regF (pgDbg d) 0x108 18 18 = 0 ∧ (∀ a, a ≠ regAddr (pgDbg d) 0x108 → t.reg a = s.reg a) ∧ t.mem = s.mem ∧ t.items = s.items)) ∧
  (∀ (d site ix : Nat) (s : State), live s = true → hasCdie s d = true → haltOf s d = some (site, true) → ix < 2 ^ 32 →
    let u := d * 576 + site
    let c : Instr := .dbgInspLatched d
    (inspOf s d = none → exec c s = .next s) ∧
    (inspOf s d = some (1, ix) → ix % 8 = 0 → ∃ t, exec c s = .next t ∧ Latched s t d (leNat (lsBytes s u ix 8))) ∧
    (∀ h v th, v < 256 → th < 32 → ix = h * 2 ^ 13 + v * 2 ^ 5 + th → inspOf s d = some (2, ix) →
      (s.grp u h = none → ∃ t, exec c s = .next t ∧ Latched s t d 0) ∧
      (∀ g, s.grp u h = some g → ∃ t, exec c s = .next t ∧ Latched s t d (if v < g.regs then s.vreg u h v th else 0))) ∧
    (∀ h w, w < 64 → ix = h * 64 + w → inspOf s d = some (3, ix) → ∀ g, s.grp u h = some g →
      ∃ t, exec c s = .next t ∧ Latched s t d (groupStateWord g w)) ∧
    (∀ e w n it, w < 8 → ix = e * 8 + w → inspOf s d = some (4, ix) → (unitItems s u)[e]? = some (n, it) → it.bytes.length = 32 →
      it.home < 1024 → it.owner < 1024 → it.steals < 8 → it.attempt < 256 → it.jseq < 2 ^ 64 →
      let waiting := s.sump.recs.any (fun r => r.waiters.any (fun x => x.ofItem n))
      let est := if it.islot = none then 1 else if waiting = true then 3 else 2
      ∃ t, exec c s = .next t ∧ Latched s t d (if w < 4 then fieldAt it.bytes (8 * w) 8
        else if w = 4 then it.home + it.owner * 2 ^ 16 + est * 2 ^ 32 + it.steals * 2 ^ 40 + it.attempt * 2 ^ 48
        else if w = 5 then it.jseq else 0)))
end

