-- ==== Sys2Proof/Laws/Bits.lean ====
section
/-! SUPPORT. The laws of bit fields: reading a field after writing it or another, and the bytes of a
little-endian number. -/

namespace Sys2Proof.Laws

open Sys2Proof.Machine

/-- A number cut at a field: what lies above it, the field, what lies below. -/
theorem split_field (x lo w : Nat) :
    x = x / 2 ^ (lo + w) * 2 ^ (lo + w) + x / 2 ^ lo % 2 ^ w * 2 ^ lo + x % 2 ^ lo := by
  have h1 := Nat.div_add_mod x (2 ^ lo)
  have h2 := Nat.div_add_mod (x / 2 ^ lo) (2 ^ w)
  rw [Nat.div_div_eq_div_mul, ← pow_add] at h2
  have h3 : 2 ^ (lo + w) = 2 ^ lo * 2 ^ w := pow_add 2 lo w
  calc x = 2 ^ lo * (x / 2 ^ lo) + x % 2 ^ lo := h1.symm
    _ = 2 ^ lo * (2 ^ w * (x / 2 ^ (lo + w)) + x / 2 ^ lo % 2 ^ w) + x % 2 ^ lo := by rw [h2]
    _ = _ := by rw [h3]; ring

theorem sub_field (x lo w : Nat) :
    x - x / 2 ^ lo % 2 ^ w * 2 ^ lo = x / 2 ^ (lo + w) * 2 ^ (lo + w) + x % 2 ^ lo := by
  have := split_field x lo w
  omega

/-- The value of a register whose field was replaced. -/
theorem setFld_toNat (hi lo : Nat) (x : W64) (v : Nat) (h : hi < 64) (hl : lo ≤ hi) :
    (setFld hi lo x v).toNat =
      x.toNat / 2 ^ (hi + 1) * 2 ^ (hi + 1) + v % 2 ^ (hi - lo + 1) * 2 ^ lo + x.toNat % 2 ^ lo := by
  unfold setFld fld
  have e : lo + (hi - lo + 1) = hi + 1 := by omega
  have h1 := sub_field x.toNat lo (hi - lo + 1)
  rw [e] at h1
  rw [BitVec.toNat_ofNat, h1]
  have hb : v % 2 ^ (hi - lo + 1) * 2 ^ lo + x.toNat % 2 ^ lo < 2 ^ (hi + 1) := by
    have a := Nat.mod_lt v (Nat.two_pow_pos (hi - lo + 1))
    have b := Nat.mod_lt x.toNat (Nat.two_pow_pos lo)
    have c : 2 ^ (hi + 1) = 2 ^ (hi - lo + 1) * 2 ^ lo := by rw [← pow_add]; congr 1; omega
    have d : (v % 2 ^ (hi - lo + 1) + 1) * 2 ^ lo ≤ 2 ^ (hi - lo + 1) * 2 ^ lo := Nat.mul_le_mul_right _ a
    have e2 := Nat.succ_mul (v % 2 ^ (hi - lo + 1)) (2 ^ lo)
    simp only [Nat.succ_eq_add_one] at e2
    omega
  have hx : x.toNat / 2 ^ (hi + 1) * 2 ^ (hi + 1) + 2 ^ (hi + 1) ≤ 2 ^ 64 := by
    have q : x.toNat / 2 ^ (hi + 1) < 2 ^ (63 - hi) := by
      rw [Nat.div_lt_iff_lt_mul (Nat.two_pow_pos _), ← pow_add]
      have : 63 - hi + (hi + 1) = 64 := by omega
      rw [this]; exact x.isLt
    have r : (x.toNat / 2 ^ (hi + 1) + 1) * 2 ^ (hi + 1) ≤ 2 ^ (63 - hi) * 2 ^ (hi + 1) := Nat.mul_le_mul_right _ q
    have e2 := Nat.succ_mul (x.toNat / 2 ^ (hi + 1)) (2 ^ (hi + 1))
    simp only [Nat.succ_eq_add_one] at e2
    rw [← pow_add] at r
    have : 63 - hi + (hi + 1) = 64 := by omega
    rw [this] at r
    omega
  rw [Nat.mod_eq_of_lt (by omega)]
  omega

/-- A field just written reads back, cut to its width. -/
@[simp] theorem fld_setFld_same (hi lo : Nat) (x : W64) (v : Nat) (h : hi < 64) (hl : lo ≤ hi) :
    fld hi lo (setFld hi lo x v) = v % 2 ^ (hi - lo + 1) := by
  rw [fld, setFld_toNat hi lo x v h hl]
  have b := Nat.mod_lt x.toNat (Nat.two_pow_pos lo)
  have c : 2 ^ (hi + 1) = 2 ^ (hi - lo + 1) * 2 ^ lo := by rw [← pow_add]; congr 1; omega
  have e : x.toNat / 2 ^ (hi + 1) * 2 ^ (hi + 1) + v % 2 ^ (hi - lo + 1) * 2 ^ lo + x.toNat % 2 ^ lo
      = 2 ^ lo * (x.toNat / 2 ^ (hi + 1) * 2 ^ (hi - lo + 1) + v % 2 ^ (hi - lo + 1)) + x.toNat % 2 ^ lo := by
    rw [c]; ring
  rw [e, Nat.mul_add_div (Nat.two_pow_pos lo), Nat.div_eq_of_lt b]
  simp

/-- Writing a field leaves a field above it. -/
theorem fld_setFld_above (hi lo h2 l2 : Nat) (x : W64) (v : Nat) (h : hi < 64) (hl : lo ≤ hi) (ha : hi < l2) :
    fld h2 l2 (setFld hi lo x v) = fld h2 l2 x := by
  unfold fld
  rw [setFld_toNat hi lo x v h hl]
  congr 1
  have b := Nat.mod_lt x.toNat (Nat.two_pow_pos lo)
  have hb : v % 2 ^ (hi - lo + 1) * 2 ^ lo + x.toNat % 2 ^ lo < 2 ^ (hi + 1) := by
    have a := Nat.mod_lt v (Nat.two_pow_pos (hi - lo + 1))
    have c : 2 ^ (hi + 1) = 2 ^ (hi - lo + 1) * 2 ^ lo := by rw [← pow_add]; congr 1; omega
    have d : (v % 2 ^ (hi - lo + 1) + 1) * 2 ^ lo ≤ 2 ^ (hi - lo + 1) * 2 ^ lo := Nat.mul_le_mul_right _ a
    have e2 := Nat.succ_mul (v % 2 ^ (hi - lo + 1)) (2 ^ lo)
    simp only [Nat.succ_eq_add_one] at e2
    omega
  have e : 2 ^ l2 = 2 ^ (hi + 1) * 2 ^ (l2 - (hi + 1)) := by rw [← pow_add]; congr 1; omega
  rw [e, ← Nat.div_div_eq_div_mul, ← Nat.div_div_eq_div_mul]
  congr 1
  rw [show x.toNat / 2 ^ (hi + 1) * 2 ^ (hi + 1) + v % 2 ^ (hi - lo + 1) * 2 ^ lo + x.toNat % 2 ^ lo
      = 2 ^ (hi + 1) * (x.toNat / 2 ^ (hi + 1)) + (v % 2 ^ (hi - lo + 1) * 2 ^ lo + x.toNat % 2 ^ lo) by ring]
  rw [Nat.mul_add_div (Nat.two_pow_pos _), Nat.div_eq_of_lt hb]
  simp

/-- Writing a field leaves a field below it. -/
theorem fld_setFld_below (hi lo h2 l2 : Nat) (x : W64) (v : Nat) (h : hi < 64) (hl : lo ≤ hi) (ha : h2 < lo)
    (h3 : l2 ≤ h2) : fld h2 l2 (setFld hi lo x v) = fld h2 l2 x := by
  have cut : ∀ n : Nat, n / 2 ^ l2 % 2 ^ (h2 - l2 + 1) = n % 2 ^ lo / 2 ^ l2 % 2 ^ (h2 - l2 + 1) := by
    intro n
    have e : 2 ^ lo = 2 ^ l2 * 2 ^ (lo - l2) := by rw [← pow_add]; congr 1; omega
    rw [e, Nat.mod_mul_right_div_self]
    have d : 2 ^ (h2 - l2 + 1) ∣ 2 ^ (lo - l2) := pow_dvd_pow 2 (by omega)
    rw [Nat.mod_mod_of_dvd _ d]
  unfold fld
  rw [setFld_toNat hi lo x v h hl, cut, cut x.toNat]
  congr 2
  have e : x.toNat / 2 ^ (hi + 1) * 2 ^ (hi + 1) + v % 2 ^ (hi - lo + 1) * 2 ^ lo + x.toNat % 2 ^ lo
      = x.toNat % 2 ^ lo + 2 ^ lo * (x.toNat / 2 ^ (hi + 1) * 2 ^ (hi - lo + 1) + v % 2 ^ (hi - lo + 1)) := by
    have c : 2 ^ (hi + 1) = 2 ^ (hi - lo + 1) * 2 ^ lo := by rw [← pow_add]; congr 1; omega
    rw [c]; ring
  rw [e, Nat.add_mul_mod_self_left, Nat.mod_mod]

theorem bit_eq_fld (n : Nat) (x : W64) : bit n x = (fld n n x == 1) := by
  simp [bit, fld]

/-- A bit just written reads back. -/
@[simp] theorem bit_setBit_same (n : Nat) (x : W64) (b : Bool) (h : n < 64) : bit n (setBit n x b) = b := by
  rw [bit_eq_fld, setBit, fld_setFld_same n n x _ h (le_refl n)]
  cases b <;> simp

/-- Writing a bit leaves the others. -/
theorem bit_setBit_other (n m : Nat) (x : W64) (b : Bool) (h : n < 64) (hm : m ≠ n) :
    bit m (setBit n x b) = bit m x := by
  rw [bit_eq_fld, bit_eq_fld, setBit]
  rcases Nat.lt_or_gt_of_ne hm with g | g
  · rw [fld_setFld_below n n m m x _ h (le_refl n) g (le_refl m)]
  · rw [fld_setFld_above n n m m x _ h (le_refl n) g]

theorem fld_lt (hi lo : Nat) (x : W64) : fld hi lo x < 2 ^ (hi - lo + 1) := Nat.mod_lt _ (Nat.two_pow_pos _)

@[simp] theorem leBytes_length (w v : Nat) : (leBytes w v).length = w := by
  induction w generalizing v with
  | zero => rfl
  | succ w ih => simp [leBytes, ih]

end Sys2Proof.Laws
end

