-- ==== Sys2Proof/Laws/SMap.lean ====
section
/-! SUPPORT. The read-after-write laws of sparse maps, and that every operation keeps the canonical form. -/

namespace Sys2Proof.Laws

open Sys2Proof.Machine

variable {α : Type}

theorem find_ins_same (k : Nat) (v : α) (m : SMap α) (h : ∀ p ∈ m, p.1 ≠ k) :
    (SMap.ins k v m).find? (fun p => p.1 == k) = some (k, v) := by
  induction m with
  | nil => simp [SMap.ins]
  | cons p m ih =>
    have hp : p.1 ≠ k := h p (by simp)
    have hm : ∀ q ∈ m, q.1 ≠ k := fun q hq => h q (by simp [hq])
    by_cases hk : k < p.1
    · simp [SMap.ins, hk]
    · simp [SMap.ins, hk, hp, ih hm]

theorem find_ins_other (k j : Nat) (v : α) (m : SMap α) (h : j ≠ k) :
    (SMap.ins k v m).find? (fun p => p.1 == j) = m.find? (fun p => p.1 == j) := by
  induction m with
  | nil => simp [SMap.ins, Ne.symm h]
  | cons p m ih =>
    by_cases hk : k < p.1
    · simp [SMap.ins, hk, Ne.symm h]
    · simp only [SMap.ins, hk, if_false, List.find?_cons, ih]

theorem erase_ne (m : SMap α) (k : Nat) : ∀ p ∈ m.erase k, p.1 ≠ k := by
  intro p hp
  simpa using (List.mem_filter.mp hp).2

theorem find_erase_same (m : SMap α) (k : Nat) : (m.erase k).find? (fun p => p.1 == k) = none := by
  rw [List.find?_eq_none]
  intro p hp
  simpa using erase_ne m k p hp

theorem find_erase_other (m : SMap α) (k j : Nat) (h : j ≠ k) :
    (m.erase k).find? (fun p => p.1 == j) = m.find? (fun p => p.1 == j) := by
  induction m with
  | nil => rfl
  | cons p m ih =>
    by_cases hp : p.1 = k
    · have hj : ¬ p.1 = j := fun e => h (e.symm.trans hp)
      rw [SMap.erase, List.filter_cons_of_neg (by simp [hp]), List.find?_cons_of_neg (by simp [hj])]
      exact ih
    · rw [SMap.erase, List.filter_cons_of_pos (by simp [hp]), List.find?_cons, List.find?_cons]
      cases p.1 == j <;> simp_all [SMap.erase]

/-- Reading the key just written gives the value written. -/
@[simp] theorem get_put_same [DecidableEq α] (d : Nat → α) (m : SMap α) (k : Nat) (v : α) :
    (m.put d k v).get d k = v := by
  unfold SMap.put SMap.get
  by_cases h : v = d k
  · rw [if_pos h, find_erase_same]; exact h.symm
  · rw [if_neg h, find_ins_same k v _ (erase_ne m k)]

/-- Reading another key gives what it held. -/
theorem get_put_other [DecidableEq α] (d : Nat → α) (m : SMap α) (k j : Nat) (v : α) (h : j ≠ k) :
    (m.put d k v).get d j = m.get d j := by
  unfold SMap.put SMap.get
  by_cases hv : v = d k
  · rw [if_pos hv, find_erase_other m k j h]
  · rw [if_neg hv, find_ins_other k j v _ h, find_erase_other m k j h]

theorem get_put [DecidableEq α] (d : Nat → α) (m : SMap α) (k j : Nat) (v : α) :
    (m.put d k v).get d j = if j = k then v else m.get d j := by
  by_cases h : j = k
  · subst h; simp
  · simp [h, get_put_other d m k j v h]

theorem get_dropKeys (d : Nat → α) (p : Nat → Bool) (m : SMap α) (j : Nat) :
    (m.dropKeys p).get d j = if p j then d j else m.get d j := by
  unfold SMap.get SMap.dropKeys
  induction m with
  | nil => simp
  | cons q m ih =>
    by_cases hq : p q.1 = true
    · rw [List.filter_cons_of_neg (by simp [hq])]
      by_cases hj : q.1 = j
      · subst hj; simp only [hq, if_true] at ih ⊢; exact ih
      · rw [List.find?_cons_of_neg (by simp [hj])]; exact ih
    · rw [List.filter_cons_of_pos (by simp [hq])]
      by_cases hj : q.1 = j
      · subst hj; simp [hq]
      · rw [List.find?_cons_of_neg (by simp [hj]), List.find?_cons_of_neg (by simp [hj])]; exact ih

theorem wf_iff [DecidableEq α] (d : Nat → α) (m : SMap α) :
    m.wf d = true ↔ m.Pairwise (fun a b => a.1 < b.1) ∧ ∀ p ∈ m, p.2 ≠ d p.1 := by
  simp [SMap.wf]

theorem mem_ins {k : Nat} {v : α} {m : SMap α} {q : Nat × α} (h : q ∈ SMap.ins k v m) :
    q = (k, v) ∨ q ∈ m := by
  induction m with
  | nil => simpa [SMap.ins] using h
  | cons p m ih =>
    unfold SMap.ins at h
    split at h
    · simpa using h
    · rcases List.mem_cons.mp h with rfl | h
      · simp
      · rcases ih h with h | h <;> simp [h]

theorem pairwise_ins {k : Nat} {v : α} {m : SMap α} (hm : m.Pairwise (fun a b => a.1 < b.1))
    (hk : ∀ p ∈ m, p.1 ≠ k) : (SMap.ins k v m).Pairwise (fun a b => a.1 < b.1) := by
  induction m with
  | nil => simp [SMap.ins]
  | cons p m ih =>
    obtain ⟨hp, hm'⟩ := List.pairwise_cons.mp hm
    unfold SMap.ins
    split
    · next hlt =>
      refine List.pairwise_cons.mpr ⟨?_, hm⟩
      intro q hq
      rcases List.mem_cons.mp hq with rfl | hq
      · exact hlt
      · exact Nat.lt_trans hlt (hp q hq)
    · next hlt =>
      refine List.pairwise_cons.mpr ⟨?_, ih hm' (fun q hq => hk q (by simp [hq]))⟩
      intro q hq
      rcases mem_ins hq with rfl | hq
      · have := hk p (by simp); show p.1 < k; omega
      · exact hp q hq

theorem wf_filter [DecidableEq α] (d : Nat → α) (p : Nat × α → Bool) (m : SMap α) (h : m.wf d = true) :
    SMap.wf d (m.filter p) = true := by
  rw [wf_iff] at h ⊢
  exact ⟨h.1.sublist List.filter_sublist, fun q hq => h.2 q (List.mem_filter.mp hq).1⟩

/-- A write keeps the canonical form. -/
theorem wf_put [DecidableEq α] (d : Nat → α) (m : SMap α) (k : Nat) (v : α) (h : m.wf d = true) :
    (m.put d k v).wf d = true := by
  have he : (m.erase k).wf d = true := wf_filter d _ m h
  unfold SMap.put
  split
  · exact he
  · next hv =>
    rw [wf_iff] at he ⊢
    refine ⟨pairwise_ins he.1 (erase_ne m k), ?_⟩
    intro q hq
    rcases mem_ins hq with rfl | hq
    · exact hv
    · exact he.2 q hq

theorem wf_dropKeys [DecidableEq α] (d : Nat → α) (p : Nat → Bool) (m : SMap α) (h : m.wf d = true) :
    (m.dropKeys p).wf d = true := wf_filter d _ m h

end Sys2Proof.Laws
end

