-- ==== Sys2Proof/Laws/State.lean ====
section
/-! SUPPORT. What each named update of the state leaves of every field and of every named read, and what a read
after the update of the same table gives. -/

namespace Sys2Proof.Laws

open Sys2Proof.Machine

variable (s : State)

/-! ### setReg -/

@[simp] theorem setReg_fuses (a : Nat) (v : W64) : (s.setReg a v).fuses = s.fuses := rfl
@[simp] theorem setReg_keys (a : Nat) (v : W64) : (s.setReg a v).keys = s.keys := rfl
@[simp] theorem setReg_pins (a : Nat) (v : W64) : (s.setReg a v).pins = s.pins := rfl
@[simp] theorem setReg_phase (a : Nat) (v : W64) : (s.setReg a v).phase = s.phase := rfl
@[simp] theorem setReg_boot (a : Nat) (v : W64) : (s.setReg a v).boot = s.boot := rfl
@[simp] theorem setReg_mgmt (a : Nat) (v : W64) : (s.setReg a v).mgmt = s.mgmt := rfl
@[simp] theorem setReg_errs (a : Nat) (v : W64) : (s.setReg a v).errs = s.errs := rfl
@[simp] theorem setReg_dstates (a : Nat) (v : W64) : (s.setReg a v).dstates = s.dstates := rfl
@[simp] theorem setReg_mem (a : Nat) (v : W64) : (s.setReg a v).mem = s.mem := rfl
@[simp] theorem setReg_poison (a : Nat) (v : W64) : (s.setReg a v).poison = s.poison := rfl
@[simp] theorem setReg_sc (a : Nat) (v : W64) : (s.setReg a v).sc = s.sc := rfl
@[simp] theorem setReg_nmcs (a : Nat) (v : W64) : (s.setReg a v).nmcs = s.nmcs := rfl
@[simp] theorem setReg_fmcHeld (a : Nat) (v : W64) : (s.setReg a v).fmcHeld = s.fmcHeld := rfl
@[simp] theorem setReg_homes (a : Nat) (v : W64) : (s.setReg a v).homes = s.homes := rfl
@[simp] theorem setReg_dlinks (a : Nat) (v : W64) : (s.setReg a v).dlinks = s.dlinks := rfl
@[simp] theorem setReg_elog (a : Nat) (v : W64) : (s.setReg a v).elog = s.elog := rfl
@[simp] theorem setReg_ev (a : Nat) (v : W64) : (s.setReg a v).ev = s.ev := rfl
@[simp] theorem setReg_mmus (a : Nat) (v : W64) : (s.setReg a v).mmus = s.mmus := rfl
@[simp] theorem setReg_invs (a : Nat) (v : W64) : (s.setReg a v).invs = s.invs := rfl
@[simp] theorem setReg_invDone (a : Nat) (v : W64) : (s.setReg a v).invDone = s.invDone := rfl
@[simp] theorem setReg_sump (a : Nat) (v : W64) : (s.setReg a v).sump = s.sump := rfl
@[simp] theorem setReg_queues (a : Nat) (v : W64) : (s.setReg a v).queues = s.queues := rfl
@[simp] theorem setReg_accepted (a : Nat) (v : W64) : (s.setReg a v).accepted = s.accepted := rfl
@[simp] theorem setReg_jobs (a : Nat) (v : W64) : (s.setReg a v).jobs = s.jobs := rfl
@[simp] theorem setReg_items (a : Nat) (v : W64) : (s.setReg a v).items = s.items := rfl
@[simp] theorem setReg_nextItem (a : Nat) (v : W64) : (s.setReg a v).nextItem = s.nextItem := rfl
@[simp] theorem setReg_jseqs (a : Nat) (v : W64) : (s.setReg a v).jseqs = s.jseqs := rfl
@[simp] theorem setReg_units (a : Nat) (v : W64) : (s.setReg a v).units = s.units := rfl
@[simp] theorem setReg_groups (a : Nat) (v : W64) : (s.setReg a v).groups = s.groups := rfl
@[simp] theorem setReg_vregs (a : Nat) (v : W64) : (s.setReg a v).vregs = s.vregs := rfl
@[simp] theorem setReg_ls (a : Nat) (v : W64) : (s.setReg a v).ls = s.ls := rfl
@[simp] theorem setReg_lsWritten (a : Nat) (v : W64) : (s.setReg a v).lsWritten = s.lsWritten := rfl
@[simp] theorem setReg_cc (a : Nat) (v : W64) : (s.setReg a v).cc = s.cc := rfl
@[simp] theorem setReg_cmes (a : Nat) (v : W64) : (s.setReg a v).cmes = s.cmes := rfl
@[simp] theorem setReg_fab (a : Nat) (v : W64) : (s.setReg a v).fab = s.fab := rfl
@[simp] theorem setReg_seats (a : Nat) (v : W64) : (s.setReg a v).seats = s.seats := rfl
@[simp] theorem setReg_well (a : Nat) (v : W64) : (s.setReg a v).well = s.well := rfl
@[simp] theorem setReg_pair (a : Nat) (v : W64) : (s.setReg a v).pair = s.pair := rfl
@[simp] theorem setReg_harts (a : Nat) (v : W64) : (s.setReg a v).harts = s.harts := rfl
@[simp] theorem setReg_imsic (a : Nat) (v : W64) : (s.setReg a v).imsic = s.imsic := rfl
@[simp] theorem setReg_dbg (a : Nat) (v : W64) : (s.setReg a v).dbg = s.dbg := rfl
@[simp] theorem setReg_pwr (a : Nat) (v : W64) : (s.setReg a v).pwr = s.pwr := rfl
@[simp] theorem setReg_free (a : Nat) (v : W64) : (s.setReg a v).free = s.free := rfl
@[simp] theorem setReg_now (a : Nat) (v : W64) : (s.setReg a v).now = s.now := rfl
@[simp] theorem setReg_outs (a : Nat) (v : W64) : (s.setReg a v).outs = s.outs := rfl
@[simp] theorem setReg_pending (a : Nat) (v : W64) : (s.setReg a v).pending = s.pending := rfl
@[simp] theorem setReg_err (a : Nat) (v : W64) (i : Nat) : (s.setReg a v).err i = s.err i := rfl
@[simp] theorem setReg_dst (a : Nat) (v : W64) (i : Nat) : (s.setReg a v).dst i = s.dst i := rfl
@[simp] theorem setReg_byte (a : Nat) (v : W64) (i : Nat) : (s.setReg a v).byte i = s.byte i := rfl
@[simp] theorem setReg_poisoned (a : Nat) (v : W64) (i : Nat) : (s.setReg a v).poisoned i = s.poisoned i := rfl
@[simp] theorem setReg_irqPending (a : Nat) (v : W64) (i : Nat) : (s.setReg a v).irqPending i = s.irqPending i := rfl
@[simp] theorem setReg_evcnt (a : Nat) (v : W64) (i : Nat) : (s.setReg a v).evcnt i = s.evcnt i := rfl
@[simp] theorem setReg_queue (a : Nat) (v : W64) (i : Nat) : (s.setReg a v).queue i = s.queue i := rfl
@[simp] theorem setReg_pdie (a : Nat) (v : W64) (i : Nat) : (s.setReg a v).pdie i = s.pdie i := rfl
@[simp] theorem setReg_hart (a : Nat) (v : W64) (i : Nat) : (s.setReg a v).hart i = s.hart i := rfl
@[simp] theorem setReg_dlink (a : Nat) (v : W64) (i : Nat) : (s.setReg a v).dlink i = s.dlink i := rfl
@[simp] theorem setReg_cme (a : Nat) (v : W64) (i : Nat) : (s.setReg a v).cme i = s.cme i := rfl
@[simp] theorem setReg_cu (a : Nat) (v : W64) (i : Nat) : (s.setReg a v).cu i = s.cu i := rfl
@[simp] theorem setReg_ccWay (a : Nat) (v : W64) (i : Nat) : (s.setReg a v).ccWay i = s.ccWay i := rfl
@[simp] theorem setReg_scWay (a : Nat) (v : W64) (i : Nat) : (s.setReg a v).scWay i = s.scWay i := rfl
@[simp] theorem setReg_nmc (a : Nat) (v : W64) (i j : Nat) : (s.setReg a v).nmc i j = s.nmc i j := rfl
@[simp] theorem setReg_home (a : Nat) (v : W64) (i j : Nat) : (s.setReg a v).home i j = s.home i j := rfl
@[simp] theorem setReg_mmu (a : Nat) (v : W64) (i : Nat) : (s.setReg a v).mmu i = s.mmu i := rfl
@[simp] theorem setReg_job (a : Nat) (v : W64) (i : Nat) : (s.setReg a v).job i = s.job i := rfl
@[simp] theorem setReg_item (a : Nat) (v : W64) (i : Nat) : (s.setReg a v).item i = s.item i := rfl
@[simp] theorem setReg_grp (a : Nat) (v : W64) (i j : Nat) : (s.setReg a v).grp i j = s.grp i j := rfl
@[simp] theorem setReg_vreg (a : Nat) (v : W64) (i j k l : Nat) : (s.setReg a v).vreg i j k l = s.vreg i j k l := rfl
@[simp] theorem setReg_flow (a : Nat) (v : W64) (i : Nat) : (s.setReg a v).flow i = s.flow i := rfl
@[simp] theorem setReg_port (a : Nat) (v : W64) (i : Nat) : (s.setReg a v).port i = s.port i := rfl
@[simp] theorem setReg_seat (a : Nat) (v : W64) (i j : Nat) : (s.setReg a v).seat i j = s.seat i j := rfl

/-! ### setDst -/

@[simp] theorem setDst_fuses (p v : Nat) : (s.setDst p v).fuses = s.fuses := rfl
@[simp] theorem setDst_keys (p v : Nat) : (s.setDst p v).keys = s.keys := rfl
@[simp] theorem setDst_pins (p v : Nat) : (s.setDst p v).pins = s.pins := rfl
@[simp] theorem setDst_phase (p v : Nat) : (s.setDst p v).phase = s.phase := rfl
@[simp] theorem setDst_boot (p v : Nat) : (s.setDst p v).boot = s.boot := rfl
@[simp] theorem setDst_mgmt (p v : Nat) : (s.setDst p v).mgmt = s.mgmt := rfl
@[simp] theorem setDst_regs (p v : Nat) : (s.setDst p v).regs = s.regs := rfl
@[simp] theorem setDst_errs (p v : Nat) : (s.setDst p v).errs = s.errs := rfl
@[simp] theorem setDst_mem (p v : Nat) : (s.setDst p v).mem = s.mem := rfl
@[simp] theorem setDst_poison (p v : Nat) : (s.setDst p v).poison = s.poison := rfl
@[simp] theorem setDst_sc (p v : Nat) : (s.setDst p v).sc = s.sc := rfl
@[simp] theorem setDst_nmcs (p v : Nat) : (s.setDst p v).nmcs = s.nmcs := rfl
@[simp] theorem setDst_fmcHeld (p v : Nat) : (s.setDst p v).fmcHeld = s.fmcHeld := rfl
@[simp] theorem setDst_homes (p v : Nat) : (s.setDst p v).homes = s.homes := rfl
@[simp] theorem setDst_dlinks (p v : Nat) : (s.setDst p v).dlinks = s.dlinks := rfl
@[simp] theorem setDst_elog (p v : Nat) : (s.setDst p v).elog = s.elog := rfl
@[simp] theorem setDst_ev (p v : Nat) : (s.setDst p v).ev = s.ev := rfl
@[simp] theorem setDst_mmus (p v : Nat) : (s.setDst p v).mmus = s.mmus := rfl
@[simp] theorem setDst_invs (p v : Nat) : (s.setDst p v).invs = s.invs := rfl
@[simp] theorem setDst_invDone (p v : Nat) : (s.setDst p v).invDone = s.invDone := rfl
@[simp] theorem setDst_sump (p v : Nat) : (s.setDst p v).sump = s.sump := rfl
@[simp] theorem setDst_queues (p v : Nat) : (s.setDst p v).queues = s.queues := rfl
@[simp] theorem setDst_accepted (p v : Nat) : (s.setDst p v).accepted = s.accepted := rfl
@[simp] theorem setDst_jobs (p v : Nat) : (s.setDst p v).jobs = s.jobs := rfl
@[simp] theorem setDst_items (p v : Nat) : (s.setDst p v).items = s.items := rfl
@[simp] theorem setDst_nextItem (p v : Nat) : (s.setDst p v).nextItem = s.nextItem := rfl
@[simp] theorem setDst_jseqs (p v : Nat) : (s.setDst p v).jseqs = s.jseqs := rfl
@[simp] theorem setDst_units (p v : Nat) : (s.setDst p v).units = s.units := rfl
@[simp] theorem setDst_groups (p v : Nat) : (s.setDst p v).groups = s.groups := rfl
@[simp] theorem setDst_vregs (p v : Nat) : (s.setDst p v).vregs = s.vregs := rfl
@[simp] theorem setDst_ls (p v : Nat) : (s.setDst p v).ls = s.ls := rfl
@[simp] theorem setDst_lsWritten (p v : Nat) : (s.setDst p v).lsWritten = s.lsWritten := rfl
@[simp] theorem setDst_cc (p v : Nat) : (s.setDst p v).cc = s.cc := rfl
@[simp] theorem setDst_cmes (p v : Nat) : (s.setDst p v).cmes = s.cmes := rfl
@[simp] theorem setDst_fab (p v : Nat) : (s.setDst p v).fab = s.fab := rfl
@[simp] theorem setDst_seats (p v : Nat) : (s.setDst p v).seats = s.seats := rfl
@[simp] theorem setDst_well (p v : Nat) : (s.setDst p v).well = s.well := rfl
@[simp] theorem setDst_pair (p v : Nat) : (s.setDst p v).pair = s.pair := rfl
@[simp] theorem setDst_harts (p v : Nat) : (s.setDst p v).harts = s.harts := rfl
@[simp] theorem setDst_imsic (p v : Nat) : (s.setDst p v).imsic = s.imsic := rfl
@[simp] theorem setDst_dbg (p v : Nat) : (s.setDst p v).dbg = s.dbg := rfl
@[simp] theorem setDst_pwr (p v : Nat) : (s.setDst p v).pwr = s.pwr := rfl
@[simp] theorem setDst_free (p v : Nat) : (s.setDst p v).free = s.free := rfl
@[simp] theorem setDst_now (p v : Nat) : (s.setDst p v).now = s.now := rfl
@[simp] theorem setDst_outs (p v : Nat) : (s.setDst p v).outs = s.outs := rfl
@[simp] theorem setDst_pending (p v : Nat) : (s.setDst p v).pending = s.pending := rfl
@[simp] theorem setDst_reg (p v : Nat) (i : Nat) : (s.setDst p v).reg i = s.reg i := rfl
@[simp] theorem setDst_err (p v : Nat) (i : Nat) : (s.setDst p v).err i = s.err i := rfl
@[simp] theorem setDst_byte (p v : Nat) (i : Nat) : (s.setDst p v).byte i = s.byte i := rfl
@[simp] theorem setDst_poisoned (p v : Nat) (i : Nat) : (s.setDst p v).poisoned i = s.poisoned i := rfl
@[simp] theorem setDst_irqPending (p v : Nat) (i : Nat) : (s.setDst p v).irqPending i = s.irqPending i := rfl
@[simp] theorem setDst_evcnt (p v : Nat) (i : Nat) : (s.setDst p v).evcnt i = s.evcnt i := rfl
@[simp] theorem setDst_queue (p v : Nat) (i : Nat) : (s.setDst p v).queue i = s.queue i := rfl
@[simp] theorem setDst_pdie (p v : Nat) (i : Nat) : (s.setDst p v).pdie i = s.pdie i := rfl
@[simp] theorem setDst_hart (p v : Nat) (i : Nat) : (s.setDst p v).hart i = s.hart i := rfl
@[simp] theorem setDst_dlink (p v : Nat) (i : Nat) : (s.setDst p v).dlink i = s.dlink i := rfl
@[simp] theorem setDst_cme (p v : Nat) (i : Nat) : (s.setDst p v).cme i = s.cme i := rfl
@[simp] theorem setDst_cu (p v : Nat) (i : Nat) : (s.setDst p v).cu i = s.cu i := rfl
@[simp] theorem setDst_ccWay (p v : Nat) (i : Nat) : (s.setDst p v).ccWay i = s.ccWay i := rfl
@[simp] theorem setDst_scWay (p v : Nat) (i : Nat) : (s.setDst p v).scWay i = s.scWay i := rfl
@[simp] theorem setDst_nmc (p v : Nat) (i j : Nat) : (s.setDst p v).nmc i j = s.nmc i j := rfl
@[simp] theorem setDst_home (p v : Nat) (i j : Nat) : (s.setDst p v).home i j = s.home i j := rfl
@[simp] theorem setDst_mmu (p v : Nat) (i : Nat) : (s.setDst p v).mmu i = s.mmu i := rfl
@[simp] theorem setDst_job (p v : Nat) (i : Nat) : (s.setDst p v).job i = s.job i := rfl
@[simp] theorem setDst_item (p v : Nat) (i : Nat) : (s.setDst p v).item i = s.item i := rfl
@[simp] theorem setDst_grp (p v : Nat) (i j : Nat) : (s.setDst p v).grp i j = s.grp i j := rfl
@[simp] theorem setDst_vreg (p v : Nat) (i j k l : Nat) : (s.setDst p v).vreg i j k l = s.vreg i j k l := rfl
@[simp] theorem setDst_flow (p v : Nat) (i : Nat) : (s.setDst p v).flow i = s.flow i := rfl
@[simp] theorem setDst_port (p v : Nat) (i : Nat) : (s.setDst p v).port i = s.port i := rfl
@[simp] theorem setDst_seat (p v : Nat) (i j : Nat) : (s.setDst p v).seat i j = s.seat i j := rfl

/-! ### setByte -/

@[simp] theorem setByte_fuses (a : Nat) (b : Byte) : (s.setByte a b).fuses = s.fuses := rfl
@[simp] theorem setByte_keys (a : Nat) (b : Byte) : (s.setByte a b).keys = s.keys := rfl
@[simp] theorem setByte_pins (a : Nat) (b : Byte) : (s.setByte a b).pins = s.pins := rfl
@[simp] theorem setByte_phase (a : Nat) (b : Byte) : (s.setByte a b).phase = s.phase := rfl
@[simp] theorem setByte_boot (a : Nat) (b : Byte) : (s.setByte a b).boot = s.boot := rfl
@[simp] theorem setByte_mgmt (a : Nat) (b : Byte) : (s.setByte a b).mgmt = s.mgmt := rfl
@[simp] theorem setByte_regs (a : Nat) (b : Byte) : (s.setByte a b).regs = s.regs := rfl
@[simp] theorem setByte_errs (a : Nat) (b : Byte) : (s.setByte a b).errs = s.errs := rfl
@[simp] theorem setByte_dstates (a : Nat) (b : Byte) : (s.setByte a b).dstates = s.dstates := rfl
@[simp] theorem setByte_poison (a : Nat) (b : Byte) : (s.setByte a b).poison = s.poison := rfl
@[simp] theorem setByte_sc (a : Nat) (b : Byte) : (s.setByte a b).sc = s.sc := rfl
@[simp] theorem setByte_nmcs (a : Nat) (b : Byte) : (s.setByte a b).nmcs = s.nmcs := rfl
@[simp] theorem setByte_fmcHeld (a : Nat) (b : Byte) : (s.setByte a b).fmcHeld = s.fmcHeld := rfl
@[simp] theorem setByte_homes (a : Nat) (b : Byte) : (s.setByte a b).homes = s.homes := rfl
@[simp] theorem setByte_dlinks (a : Nat) (b : Byte) : (s.setByte a b).dlinks = s.dlinks := rfl
@[simp] theorem setByte_elog (a : Nat) (b : Byte) : (s.setByte a b).elog = s.elog := rfl
@[simp] theorem setByte_ev (a : Nat) (b : Byte) : (s.setByte a b).ev = s.ev := rfl
@[simp] theorem setByte_mmus (a : Nat) (b : Byte) : (s.setByte a b).mmus = s.mmus := rfl
@[simp] theorem setByte_invs (a : Nat) (b : Byte) : (s.setByte a b).invs = s.invs := rfl
@[simp] theorem setByte_invDone (a : Nat) (b : Byte) : (s.setByte a b).invDone = s.invDone := rfl
@[simp] theorem setByte_sump (a : Nat) (b : Byte) : (s.setByte a b).sump = s.sump := rfl
@[simp] theorem setByte_queues (a : Nat) (b : Byte) : (s.setByte a b).queues = s.queues := rfl
@[simp] theorem setByte_accepted (a : Nat) (b : Byte) : (s.setByte a b).accepted = s.accepted := rfl
@[simp] theorem setByte_jobs (a : Nat) (b : Byte) : (s.setByte a b).jobs = s.jobs := rfl
@[simp] theorem setByte_items (a : Nat) (b : Byte) : (s.setByte a b).items = s.items := rfl
@[simp] theorem setByte_nextItem (a : Nat) (b : Byte) : (s.setByte a b).nextItem = s.nextItem := rfl
@[simp] theorem setByte_jseqs (a : Nat) (b : Byte) : (s.setByte a b).jseqs = s.jseqs := rfl
@[simp] theorem setByte_units (a : Nat) (b : Byte) : (s.setByte a b).units = s.units := rfl
@[simp] theorem setByte_groups (a : Nat) (b : Byte) : (s.setByte a b).groups = s.groups := rfl
@[simp] theorem setByte_vregs (a : Nat) (b : Byte) : (s.setByte a b).vregs = s.vregs := rfl
@[simp] theorem setByte_ls (a : Nat) (b : Byte) : (s.setByte a b).ls = s.ls := rfl
@[simp] theorem setByte_lsWritten (a : Nat) (b : Byte) : (s.setByte a b).lsWritten = s.lsWritten := rfl
@[simp] theorem setByte_cc (a : Nat) (b : Byte) : (s.setByte a b).cc = s.cc := rfl
@[simp] theorem setByte_cmes (a : Nat) (b : Byte) : (s.setByte a b).cmes = s.cmes := rfl
@[simp] theorem setByte_fab (a : Nat) (b : Byte) : (s.setByte a b).fab = s.fab := rfl
@[simp] theorem setByte_seats (a : Nat) (b : Byte) : (s.setByte a b).seats = s.seats := rfl
@[simp] theorem setByte_well (a : Nat) (b : Byte) : (s.setByte a b).well = s.well := rfl
@[simp] theorem setByte_pair (a : Nat) (b : Byte) : (s.setByte a b).pair = s.pair := rfl
@[simp] theorem setByte_harts (a : Nat) (b : Byte) : (s.setByte a b).harts = s.harts := rfl
@[simp] theorem setByte_imsic (a : Nat) (b : Byte) : (s.setByte a b).imsic = s.imsic := rfl
@[simp] theorem setByte_dbg (a : Nat) (b : Byte) : (s.setByte a b).dbg = s.dbg := rfl
@[simp] theorem setByte_pwr (a : Nat) (b : Byte) : (s.setByte a b).pwr = s.pwr := rfl
@[simp] theorem setByte_free (a : Nat) (b : Byte) : (s.setByte a b).free = s.free := rfl
@[simp] theorem setByte_now (a : Nat) (b : Byte) : (s.setByte a b).now = s.now := rfl
@[simp] theorem setByte_outs (a : Nat) (b : Byte) : (s.setByte a b).outs = s.outs := rfl
@[simp] theorem setByte_pending (a : Nat) (b : Byte) : (s.setByte a b).pending = s.pending := rfl
@[simp] theorem setByte_reg (a : Nat) (b : Byte) (i : Nat) : (s.setByte a b).reg i = s.reg i := rfl
@[simp] theorem setByte_err (a : Nat) (b : Byte) (i : Nat) : (s.setByte a b).err i = s.err i := rfl
@[simp] theorem setByte_dst (a : Nat) (b : Byte) (i : Nat) : (s.setByte a b).dst i = s.dst i := rfl
@[simp] theorem setByte_poisoned (a : Nat) (b : Byte) (i : Nat) : (s.setByte a b).poisoned i = s.poisoned i := rfl
@[simp] theorem setByte_irqPending (a : Nat) (b : Byte) (i : Nat) : (s.setByte a b).irqPending i = s.irqPending i := rfl
@[simp] theorem setByte_evcnt (a : Nat) (b : Byte) (i : Nat) : (s.setByte a b).evcnt i = s.evcnt i := rfl
@[simp] theorem setByte_queue (a : Nat) (b : Byte) (i : Nat) : (s.setByte a b).queue i = s.queue i := rfl
@[simp] theorem setByte_pdie (a : Nat) (b : Byte) (i : Nat) : (s.setByte a b).pdie i = s.pdie i := rfl
@[simp] theorem setByte_hart (a : Nat) (b : Byte) (i : Nat) : (s.setByte a b).hart i = s.hart i := rfl
@[simp] theorem setByte_dlink (a : Nat) (b : Byte) (i : Nat) : (s.setByte a b).dlink i = s.dlink i := rfl
@[simp] theorem setByte_cme (a : Nat) (b : Byte) (i : Nat) : (s.setByte a b).cme i = s.cme i := rfl
@[simp] theorem setByte_cu (a : Nat) (b : Byte) (i : Nat) : (s.setByte a b).cu i = s.cu i := rfl
@[simp] theorem setByte_ccWay (a : Nat) (b : Byte) (i : Nat) : (s.setByte a b).ccWay i = s.ccWay i := rfl
@[simp] theorem setByte_scWay (a : Nat) (b : Byte) (i : Nat) : (s.setByte a b).scWay i = s.scWay i := rfl
@[simp] theorem setByte_nmc (a : Nat) (b : Byte) (i j : Nat) : (s.setByte a b).nmc i j = s.nmc i j := rfl
@[simp] theorem setByte_home (a : Nat) (b : Byte) (i j : Nat) : (s.setByte a b).home i j = s.home i j := rfl
@[simp] theorem setByte_mmu (a : Nat) (b : Byte) (i : Nat) : (s.setByte a b).mmu i = s.mmu i := rfl
@[simp] theorem setByte_job (a : Nat) (b : Byte) (i : Nat) : (s.setByte a b).job i = s.job i := rfl
@[simp] theorem setByte_item (a : Nat) (b : Byte) (i : Nat) : (s.setByte a b).item i = s.item i := rfl
@[simp] theorem setByte_grp (a : Nat) (b : Byte) (i j : Nat) : (s.setByte a b).grp i j = s.grp i j := rfl
@[simp] theorem setByte_vreg (a : Nat) (b : Byte) (i j k l : Nat) : (s.setByte a b).vreg i j k l = s.vreg i j k l := rfl
@[simp] theorem setByte_flow (a : Nat) (b : Byte) (i : Nat) : (s.setByte a b).flow i = s.flow i := rfl
@[simp] theorem setByte_port (a : Nat) (b : Byte) (i : Nat) : (s.setByte a b).port i = s.port i := rfl
@[simp] theorem setByte_seat (a : Nat) (b : Byte) (i j : Nat) : (s.setByte a b).seat i j = s.seat i j := rfl

/-! ### putBytes -/

@[simp] theorem putBytes_fuses (a : Nat) (bs : List Byte) : (s.putBytes a bs).fuses = s.fuses := rfl
@[simp] theorem putBytes_keys (a : Nat) (bs : List Byte) : (s.putBytes a bs).keys = s.keys := rfl
@[simp] theorem putBytes_pins (a : Nat) (bs : List Byte) : (s.putBytes a bs).pins = s.pins := rfl
@[simp] theorem putBytes_phase (a : Nat) (bs : List Byte) : (s.putBytes a bs).phase = s.phase := rfl
@[simp] theorem putBytes_boot (a : Nat) (bs : List Byte) : (s.putBytes a bs).boot = s.boot := rfl
@[simp] theorem putBytes_mgmt (a : Nat) (bs : List Byte) : (s.putBytes a bs).mgmt = s.mgmt := rfl
@[simp] theorem putBytes_regs (a : Nat) (bs : List Byte) : (s.putBytes a bs).regs = s.regs := rfl
@[simp] theorem putBytes_errs (a : Nat) (bs : List Byte) : (s.putBytes a bs).errs = s.errs := rfl
@[simp] theorem putBytes_dstates (a : Nat) (bs : List Byte) : (s.putBytes a bs).dstates = s.dstates := rfl
@[simp] theorem putBytes_poison (a : Nat) (bs : List Byte) : (s.putBytes a bs).poison = s.poison := rfl
@[simp] theorem putBytes_sc (a : Nat) (bs : List Byte) : (s.putBytes a bs).sc = s.sc := rfl
@[simp] theorem putBytes_nmcs (a : Nat) (bs : List Byte) : (s.putBytes a bs).nmcs = s.nmcs := rfl
@[simp] theorem putBytes_fmcHeld (a : Nat) (bs : List Byte) : (s.putBytes a bs).fmcHeld = s.fmcHeld := rfl
@[simp] theorem putBytes_homes (a : Nat) (bs : List Byte) : (s.putBytes a bs).homes = s.homes := rfl
@[simp] theorem putBytes_dlinks (a : Nat) (bs : List Byte) : (s.putBytes a bs).dlinks = s.dlinks := rfl
@[simp] theorem putBytes_elog (a : Nat) (bs : List Byte) : (s.putBytes a bs).elog = s.elog := rfl
@[simp] theorem putBytes_ev (a : Nat) (bs : List Byte) : (s.putBytes a bs).ev = s.ev := rfl
@[simp] theorem putBytes_mmus (a : Nat) (bs : List Byte) : (s.putBytes a bs).mmus = s.mmus := rfl
@[simp] theorem putBytes_invs (a : Nat) (bs : List Byte) : (s.putBytes a bs).invs = s.invs := rfl
@[simp] theorem putBytes_invDone (a : Nat) (bs : List Byte) : (s.putBytes a bs).invDone = s.invDone := rfl
@[simp] theorem putBytes_sump (a : Nat) (bs : List Byte) : (s.putBytes a bs).sump = s.sump := rfl
@[simp] theorem putBytes_queues (a : Nat) (bs : List Byte) : (s.putBytes a bs).queues = s.queues := rfl
@[simp] theorem putBytes_accepted (a : Nat) (bs : List Byte) : (s.putBytes a bs).accepted = s.accepted := rfl
@[simp] theorem putBytes_jobs (a : Nat) (bs : List Byte) : (s.putBytes a bs).jobs = s.jobs := rfl
@[simp] theorem putBytes_items (a : Nat) (bs : List Byte) : (s.putBytes a bs).items = s.items := rfl
@[simp] theorem putBytes_nextItem (a : Nat) (bs : List Byte) : (s.putBytes a bs).nextItem = s.nextItem := rfl
@[simp] theorem putBytes_jseqs (a : Nat) (bs : List Byte) : (s.putBytes a bs).jseqs = s.jseqs := rfl
@[simp] theorem putBytes_units (a : Nat) (bs : List Byte) : (s.putBytes a bs).units = s.units := rfl
@[simp] theorem putBytes_groups (a : Nat) (bs : List Byte) : (s.putBytes a bs).groups = s.groups := rfl
@[simp] theorem putBytes_vregs (a : Nat) (bs : List Byte) : (s.putBytes a bs).vregs = s.vregs := rfl
@[simp] theorem putBytes_ls (a : Nat) (bs : List Byte) : (s.putBytes a bs).ls = s.ls := rfl
@[simp] theorem putBytes_lsWritten (a : Nat) (bs : List Byte) : (s.putBytes a bs).lsWritten = s.lsWritten := rfl
@[simp] theorem putBytes_cc (a : Nat) (bs : List Byte) : (s.putBytes a bs).cc = s.cc := rfl
@[simp] theorem putBytes_cmes (a : Nat) (bs : List Byte) : (s.putBytes a bs).cmes = s.cmes := rfl
@[simp] theorem putBytes_fab (a : Nat) (bs : List Byte) : (s.putBytes a bs).fab = s.fab := rfl
@[simp] theorem putBytes_seats (a : Nat) (bs : List Byte) : (s.putBytes a bs).seats = s.seats := rfl
@[simp] theorem putBytes_well (a : Nat) (bs : List Byte) : (s.putBytes a bs).well = s.well := rfl
@[simp] theorem putBytes_pair (a : Nat) (bs : List Byte) : (s.putBytes a bs).pair = s.pair := rfl
@[simp] theorem putBytes_harts (a : Nat) (bs : List Byte) : (s.putBytes a bs).harts = s.harts := rfl
@[simp] theorem putBytes_imsic (a : Nat) (bs : List Byte) : (s.putBytes a bs).imsic = s.imsic := rfl
@[simp] theorem putBytes_dbg (a : Nat) (bs : List Byte) : (s.putBytes a bs).dbg = s.dbg := rfl
@[simp] theorem putBytes_pwr (a : Nat) (bs : List Byte) : (s.putBytes a bs).pwr = s.pwr := rfl
@[simp] theorem putBytes_free (a : Nat) (bs : List Byte) : (s.putBytes a bs).free = s.free := rfl
@[simp] theorem putBytes_now (a : Nat) (bs : List Byte) : (s.putBytes a bs).now = s.now := rfl
@[simp] theorem putBytes_outs (a : Nat) (bs : List Byte) : (s.putBytes a bs).outs = s.outs := rfl
@[simp] theorem putBytes_pending (a : Nat) (bs : List Byte) : (s.putBytes a bs).pending = s.pending := rfl
@[simp] theorem putBytes_reg (a : Nat) (bs : List Byte) (i : Nat) : (s.putBytes a bs).reg i = s.reg i := rfl
@[simp] theorem putBytes_err (a : Nat) (bs : List Byte) (i : Nat) : (s.putBytes a bs).err i = s.err i := rfl
@[simp] theorem putBytes_dst (a : Nat) (bs : List Byte) (i : Nat) : (s.putBytes a bs).dst i = s.dst i := rfl
@[simp] theorem putBytes_poisoned (a : Nat) (bs : List Byte) (i : Nat) : (s.putBytes a bs).poisoned i = s.poisoned i := rfl
@[simp] theorem putBytes_irqPending (a : Nat) (bs : List Byte) (i : Nat) : (s.putBytes a bs).irqPending i = s.irqPending i := rfl
@[simp] theorem putBytes_evcnt (a : Nat) (bs : List Byte) (i : Nat) : (s.putBytes a bs).evcnt i = s.evcnt i := rfl
@[simp] theorem putBytes_queue (a : Nat) (bs : List Byte) (i : Nat) : (s.putBytes a bs).queue i = s.queue i := rfl
@[simp] theorem putBytes_pdie (a : Nat) (bs : List Byte) (i : Nat) : (s.putBytes a bs).pdie i = s.pdie i := rfl
@[simp] theorem putBytes_hart (a : Nat) (bs : List Byte) (i : Nat) : (s.putBytes a bs).hart i = s.hart i := rfl
@[simp] theorem putBytes_dlink (a : Nat) (bs : List Byte) (i : Nat) : (s.putBytes a bs).dlink i = s.dlink i := rfl
@[simp] theorem putBytes_cme (a : Nat) (bs : List Byte) (i : Nat) : (s.putBytes a bs).cme i = s.cme i := rfl
@[simp] theorem putBytes_cu (a : Nat) (bs : List Byte) (i : Nat) : (s.putBytes a bs).cu i = s.cu i := rfl
@[simp] theorem putBytes_ccWay (a : Nat) (bs : List Byte) (i : Nat) : (s.putBytes a bs).ccWay i = s.ccWay i := rfl
@[simp] theorem putBytes_scWay (a : Nat) (bs : List Byte) (i : Nat) : (s.putBytes a bs).scWay i = s.scWay i := rfl
@[simp] theorem putBytes_nmc (a : Nat) (bs : List Byte) (i j : Nat) : (s.putBytes a bs).nmc i j = s.nmc i j := rfl
@[simp] theorem putBytes_home (a : Nat) (bs : List Byte) (i j : Nat) : (s.putBytes a bs).home i j = s.home i j := rfl
@[simp] theorem putBytes_mmu (a : Nat) (bs : List Byte) (i : Nat) : (s.putBytes a bs).mmu i = s.mmu i := rfl
@[simp] theorem putBytes_job (a : Nat) (bs : List Byte) (i : Nat) : (s.putBytes a bs).job i = s.job i := rfl
@[simp] theorem putBytes_item (a : Nat) (bs : List Byte) (i : Nat) : (s.putBytes a bs).item i = s.item i := rfl
@[simp] theorem putBytes_grp (a : Nat) (bs : List Byte) (i j : Nat) : (s.putBytes a bs).grp i j = s.grp i j := rfl
@[simp] theorem putBytes_vreg (a : Nat) (bs : List Byte) (i j k l : Nat) : (s.putBytes a bs).vreg i j k l = s.vreg i j k l := rfl
@[simp] theorem putBytes_flow (a : Nat) (bs : List Byte) (i : Nat) : (s.putBytes a bs).flow i = s.flow i := rfl
@[simp] theorem putBytes_port (a : Nat) (bs : List Byte) (i : Nat) : (s.putBytes a bs).port i = s.port i := rfl
@[simp] theorem putBytes_seat (a : Nat) (bs : List Byte) (i j : Nat) : (s.putBytes a bs).seat i j = s.seat i j := rfl

/-! ### setPoison -/

@[simp] theorem setPoison_fuses (a : Nat) (b : Bool) : (s.setPoison a b).fuses = s.fuses := rfl
@[simp] theorem setPoison_keys (a : Nat) (b : Bool) : (s.setPoison a b).keys = s.keys := rfl
@[simp] theorem setPoison_pins (a : Nat) (b : Bool) : (s.setPoison a b).pins = s.pins := rfl
@[simp] theorem setPoison_phase (a : Nat) (b : Bool) : (s.setPoison a b).phase = s.phase := rfl
@[simp] theorem setPoison_boot (a : Nat) (b : Bool) : (s.setPoison a b).boot = s.boot := rfl
@[simp] theorem setPoison_mgmt (a : Nat) (b : Bool) : (s.setPoison a b).mgmt = s.mgmt := rfl
@[simp] theorem setPoison_regs (a : Nat) (b : Bool) : (s.setPoison a b).regs = s.regs := rfl
@[simp] theorem setPoison_errs (a : Nat) (b : Bool) : (s.setPoison a b).errs = s.errs := rfl
@[simp] theorem setPoison_dstates (a : Nat) (b : Bool) : (s.setPoison a b).dstates = s.dstates := rfl
@[simp] theorem setPoison_mem (a : Nat) (b : Bool) : (s.setPoison a b).mem = s.mem := rfl
@[simp] theorem setPoison_sc (a : Nat) (b : Bool) : (s.setPoison a b).sc = s.sc := rfl
@[simp] theorem setPoison_nmcs (a : Nat) (b : Bool) : (s.setPoison a b).nmcs = s.nmcs := rfl
@[simp] theorem setPoison_fmcHeld (a : Nat) (b : Bool) : (s.setPoison a b).fmcHeld = s.fmcHeld := rfl
@[simp] theorem setPoison_homes (a : Nat) (b : Bool) : (s.setPoison a b).homes = s.homes := rfl
@[simp] theorem setPoison_dlinks (a : Nat) (b : Bool) : (s.setPoison a b).dlinks = s.dlinks := rfl
@[simp] theorem setPoison_elog (a : Nat) (b : Bool) : (s.setPoison a b).elog = s.elog := rfl
@[simp] theorem setPoison_ev (a : Nat) (b : Bool) : (s.setPoison a b).ev = s.ev := rfl
@[simp] theorem setPoison_mmus (a : Nat) (b : Bool) : (s.setPoison a b).mmus = s.mmus := rfl
@[simp] theorem setPoison_invs (a : Nat) (b : Bool) : (s.setPoison a b).invs = s.invs := rfl
@[simp] theorem setPoison_invDone (a : Nat) (b : Bool) : (s.setPoison a b).invDone = s.invDone := rfl
@[simp] theorem setPoison_sump (a : Nat) (b : Bool) : (s.setPoison a b).sump = s.sump := rfl
@[simp] theorem setPoison_queues (a : Nat) (b : Bool) : (s.setPoison a b).queues = s.queues := rfl
@[simp] theorem setPoison_accepted (a : Nat) (b : Bool) : (s.setPoison a b).accepted = s.accepted := rfl
@[simp] theorem setPoison_jobs (a : Nat) (b : Bool) : (s.setPoison a b).jobs = s.jobs := rfl
@[simp] theorem setPoison_items (a : Nat) (b : Bool) : (s.setPoison a b).items = s.items := rfl
@[simp] theorem setPoison_nextItem (a : Nat) (b : Bool) : (s.setPoison a b).nextItem = s.nextItem := rfl
@[simp] theorem setPoison_jseqs (a : Nat) (b : Bool) : (s.setPoison a b).jseqs = s.jseqs := rfl
@[simp] theorem setPoison_units (a : Nat) (b : Bool) : (s.setPoison a b).units = s.units := rfl
@[simp] theorem setPoison_groups (a : Nat) (b : Bool) : (s.setPoison a b).groups = s.groups := rfl
@[simp] theorem setPoison_vregs (a : Nat) (b : Bool) : (s.setPoison a b).vregs = s.vregs := rfl
@[simp] theorem setPoison_ls (a : Nat) (b : Bool) : (s.setPoison a b).ls = s.ls := rfl
@[simp] theorem setPoison_lsWritten (a : Nat) (b : Bool) : (s.setPoison a b).lsWritten = s.lsWritten := rfl
@[simp] theorem setPoison_cc (a : Nat) (b : Bool) : (s.setPoison a b).cc = s.cc := rfl
@[simp] theorem setPoison_cmes (a : Nat) (b : Bool) : (s.setPoison a b).cmes = s.cmes := rfl
@[simp] theorem setPoison_fab (a : Nat) (b : Bool) : (s.setPoison a b).fab = s.fab := rfl
@[simp] theorem setPoison_seats (a : Nat) (b : Bool) : (s.setPoison a b).seats = s.seats := rfl
@[simp] theorem setPoison_well (a : Nat) (b : Bool) : (s.setPoison a b).well = s.well := rfl
@[simp] theorem setPoison_pair (a : Nat) (b : Bool) : (s.setPoison a b).pair = s.pair := rfl
@[simp] theorem setPoison_harts (a : Nat) (b : Bool) : (s.setPoison a b).harts = s.harts := rfl
@[simp] theorem setPoison_imsic (a : Nat) (b : Bool) : (s.setPoison a b).imsic = s.imsic := rfl
@[simp] theorem setPoison_dbg (a : Nat) (b : Bool) : (s.setPoison a b).dbg = s.dbg := rfl
@[simp] theorem setPoison_pwr (a : Nat) (b : Bool) : (s.setPoison a b).pwr = s.pwr := rfl
@[simp] theorem setPoison_free (a : Nat) (b : Bool) : (s.setPoison a b).free = s.free := rfl
@[simp] theorem setPoison_now (a : Nat) (b : Bool) : (s.setPoison a b).now = s.now := rfl
@[simp] theorem setPoison_outs (a : Nat) (b : Bool) : (s.setPoison a b).outs = s.outs := rfl
@[simp] theorem setPoison_pending (a : Nat) (b : Bool) : (s.setPoison a b).pending = s.pending := rfl
@[simp] theorem setPoison_reg (a : Nat) (b : Bool) (i : Nat) : (s.setPoison a b).reg i = s.reg i := rfl
@[simp] theorem setPoison_err (a : Nat) (b : Bool) (i : Nat) : (s.setPoison a b).err i = s.err i := rfl
@[simp] theorem setPoison_dst (a : Nat) (b : Bool) (i : Nat) : (s.setPoison a b).dst i = s.dst i := rfl
@[simp] theorem setPoison_byte (a : Nat) (b : Bool) (i : Nat) : (s.setPoison a b).byte i = s.byte i := rfl
@[simp] theorem setPoison_irqPending (a : Nat) (b : Bool) (i : Nat) : (s.setPoison a b).irqPending i = s.irqPending i := rfl
@[simp] theorem setPoison_evcnt (a : Nat) (b : Bool) (i : Nat) : (s.setPoison a b).evcnt i = s.evcnt i := rfl
@[simp] theorem setPoison_queue (a : Nat) (b : Bool) (i : Nat) : (s.setPoison a b).queue i = s.queue i := rfl
@[simp] theorem setPoison_pdie (a : Nat) (b : Bool) (i : Nat) : (s.setPoison a b).pdie i = s.pdie i := rfl
@[simp] theorem setPoison_hart (a : Nat) (b : Bool) (i : Nat) : (s.setPoison a b).hart i = s.hart i := rfl
@[simp] theorem setPoison_dlink (a : Nat) (b : Bool) (i : Nat) : (s.setPoison a b).dlink i = s.dlink i := rfl
@[simp] theorem setPoison_cme (a : Nat) (b : Bool) (i : Nat) : (s.setPoison a b).cme i = s.cme i := rfl
@[simp] theorem setPoison_cu (a : Nat) (b : Bool) (i : Nat) : (s.setPoison a b).cu i = s.cu i := rfl
@[simp] theorem setPoison_ccWay (a : Nat) (b : Bool) (i : Nat) : (s.setPoison a b).ccWay i = s.ccWay i := rfl
@[simp] theorem setPoison_scWay (a : Nat) (b : Bool) (i : Nat) : (s.setPoison a b).scWay i = s.scWay i := rfl
@[simp] theorem setPoison_nmc (a : Nat) (b : Bool) (i j : Nat) : (s.setPoison a b).nmc i j = s.nmc i j := rfl
@[simp] theorem setPoison_home (a : Nat) (b : Bool) (i j : Nat) : (s.setPoison a b).home i j = s.home i j := rfl
@[simp] theorem setPoison_mmu (a : Nat) (b : Bool) (i : Nat) : (s.setPoison a b).mmu i = s.mmu i := rfl
@[simp] theorem setPoison_job (a : Nat) (b : Bool) (i : Nat) : (s.setPoison a b).job i = s.job i := rfl
@[simp] theorem setPoison_item (a : Nat) (b : Bool) (i : Nat) : (s.setPoison a b).item i = s.item i := rfl
@[simp] theorem setPoison_grp (a : Nat) (b : Bool) (i j : Nat) : (s.setPoison a b).grp i j = s.grp i j := rfl
@[simp] theorem setPoison_vreg (a : Nat) (b : Bool) (i j k l : Nat) : (s.setPoison a b).vreg i j k l = s.vreg i j k l := rfl
@[simp] theorem setPoison_flow (a : Nat) (b : Bool) (i : Nat) : (s.setPoison a b).flow i = s.flow i := rfl
@[simp] theorem setPoison_port (a : Nat) (b : Bool) (i : Nat) : (s.setPoison a b).port i = s.port i := rfl
@[simp] theorem setPoison_seat (a : Nat) (b : Bool) (i j : Nat) : (s.setPoison a b).seat i j = s.seat i j := rfl

/-! ### setEvcnt -/

@[simp] theorem setEvcnt_fuses (a : Nat) (v : W64) : (s.setEvcnt a v).fuses = s.fuses := rfl
@[simp] theorem setEvcnt_keys (a : Nat) (v : W64) : (s.setEvcnt a v).keys = s.keys := rfl
@[simp] theorem setEvcnt_pins (a : Nat) (v : W64) : (s.setEvcnt a v).pins = s.pins := rfl
@[simp] theorem setEvcnt_phase (a : Nat) (v : W64) : (s.setEvcnt a v).phase = s.phase := rfl
@[simp] theorem setEvcnt_boot (a : Nat) (v : W64) : (s.setEvcnt a v).boot = s.boot := rfl
@[simp] theorem setEvcnt_mgmt (a : Nat) (v : W64) : (s.setEvcnt a v).mgmt = s.mgmt := rfl
@[simp] theorem setEvcnt_regs (a : Nat) (v : W64) : (s.setEvcnt a v).regs = s.regs := rfl
@[simp] theorem setEvcnt_errs (a : Nat) (v : W64) : (s.setEvcnt a v).errs = s.errs := rfl
@[simp] theorem setEvcnt_dstates (a : Nat) (v : W64) : (s.setEvcnt a v).dstates = s.dstates := rfl
@[simp] theorem setEvcnt_mem (a : Nat) (v : W64) : (s.setEvcnt a v).mem = s.mem := rfl
@[simp] theorem setEvcnt_poison (a : Nat) (v : W64) : (s.setEvcnt a v).poison = s.poison := rfl
@[simp] theorem setEvcnt_sc (a : Nat) (v : W64) : (s.setEvcnt a v).sc = s.sc := rfl
@[simp] theorem setEvcnt_nmcs (a : Nat) (v : W64) : (s.setEvcnt a v).nmcs = s.nmcs := rfl
@[simp] theorem setEvcnt_fmcHeld (a : Nat) (v : W64) : (s.setEvcnt a v).fmcHeld = s.fmcHeld := rfl
@[simp] theorem setEvcnt_homes (a : Nat) (v : W64) : (s.setEvcnt a v).homes = s.homes := rfl
@[simp] theorem setEvcnt_dlinks (a : Nat) (v : W64) : (s.setEvcnt a v).dlinks = s.dlinks := rfl
@[simp] theorem setEvcnt_elog (a : Nat) (v : W64) : (s.setEvcnt a v).elog = s.elog := rfl
@[simp] theorem setEvcnt_mmus (a : Nat) (v : W64) : (s.setEvcnt a v).mmus = s.mmus := rfl
@[simp] theorem setEvcnt_invs (a : Nat) (v : W64) : (s.setEvcnt a v).invs = s.invs := rfl
@[simp] theorem setEvcnt_invDone (a : Nat) (v : W64) : (s.setEvcnt a v).invDone = s.invDone := rfl
@[simp] theorem setEvcnt_sump (a : Nat) (v : W64) : (s.setEvcnt a v).sump = s.sump := rfl
@[simp] theorem setEvcnt_queues (a : Nat) (v : W64) : (s.setEvcnt a v).queues = s.queues := rfl
@[simp] theorem setEvcnt_accepted (a : Nat) (v : W64) : (s.setEvcnt a v).accepted = s.accepted := rfl
@[simp] theorem setEvcnt_jobs (a : Nat) (v : W64) : (s.setEvcnt a v).jobs = s.jobs := rfl
@[simp] theorem setEvcnt_items (a : Nat) (v : W64) : (s.setEvcnt a v).items = s.items := rfl
@[simp] theorem setEvcnt_nextItem (a : Nat) (v : W64) : (s.setEvcnt a v).nextItem = s.nextItem := rfl
@[simp] theorem setEvcnt_jseqs (a : Nat) (v : W64) : (s.setEvcnt a v).jseqs = s.jseqs := rfl
@[simp] theorem setEvcnt_units (a : Nat) (v : W64) : (s.setEvcnt a v).units = s.units := rfl
@[simp] theorem setEvcnt_groups (a : Nat) (v : W64) : (s.setEvcnt a v).groups = s.groups := rfl
@[simp] theorem setEvcnt_vregs (a : Nat) (v : W64) : (s.setEvcnt a v).vregs = s.vregs := rfl
@[simp] theorem setEvcnt_ls (a : Nat) (v : W64) : (s.setEvcnt a v).ls = s.ls := rfl
@[simp] theorem setEvcnt_lsWritten (a : Nat) (v : W64) : (s.setEvcnt a v).lsWritten = s.lsWritten := rfl
@[simp] theorem setEvcnt_cc (a : Nat) (v : W64) : (s.setEvcnt a v).cc = s.cc := rfl
@[simp] theorem setEvcnt_cmes (a : Nat) (v : W64) : (s.setEvcnt a v).cmes = s.cmes := rfl
@[simp] theorem setEvcnt_fab (a : Nat) (v : W64) : (s.setEvcnt a v).fab = s.fab := rfl
@[simp] theorem setEvcnt_seats (a : Nat) (v : W64) : (s.setEvcnt a v).seats = s.seats := rfl
@[simp] theorem setEvcnt_well (a : Nat) (v : W64) : (s.setEvcnt a v).well = s.well := rfl
@[simp] theorem setEvcnt_pair (a : Nat) (v : W64) : (s.setEvcnt a v).pair = s.pair := rfl
@[simp] theorem setEvcnt_harts (a : Nat) (v : W64) : (s.setEvcnt a v).harts = s.harts := rfl
@[simp] theorem setEvcnt_imsic (a : Nat) (v : W64) : (s.setEvcnt a v).imsic = s.imsic := rfl
@[simp] theorem setEvcnt_dbg (a : Nat) (v : W64) : (s.setEvcnt a v).dbg = s.dbg := rfl
@[simp] theorem setEvcnt_pwr (a : Nat) (v : W64) : (s.setEvcnt a v).pwr = s.pwr := rfl
@[simp] theorem setEvcnt_free (a : Nat) (v : W64) : (s.setEvcnt a v).free = s.free := rfl
@[simp] theorem setEvcnt_now (a : Nat) (v : W64) : (s.setEvcnt a v).now = s.now := rfl
@[simp] theorem setEvcnt_outs (a : Nat) (v : W64) : (s.setEvcnt a v).outs = s.outs := rfl
@[simp] theorem setEvcnt_pending (a : Nat) (v : W64) : (s.setEvcnt a v).pending = s.pending := rfl
@[simp] theorem setEvcnt_reg (a : Nat) (v : W64) (i : Nat) : (s.setEvcnt a v).reg i = s.reg i := rfl
@[simp] theorem setEvcnt_err (a : Nat) (v : W64) (i : Nat) : (s.setEvcnt a v).err i = s.err i := rfl
@[simp] theorem setEvcnt_dst (a : Nat) (v : W64) (i : Nat) : (s.setEvcnt a v).dst i = s.dst i := rfl
@[simp] theorem setEvcnt_byte (a : Nat) (v : W64) (i : Nat) : (s.setEvcnt a v).byte i = s.byte i := rfl
@[simp] theorem setEvcnt_poisoned (a : Nat) (v : W64) (i : Nat) : (s.setEvcnt a v).poisoned i = s.poisoned i := rfl
@[simp] theorem setEvcnt_irqPending (a : Nat) (v : W64) (i : Nat) : (s.setEvcnt a v).irqPending i = s.irqPending i := rfl
@[simp] theorem setEvcnt_queue (a : Nat) (v : W64) (i : Nat) : (s.setEvcnt a v).queue i = s.queue i := rfl
@[simp] theorem setEvcnt_pdie (a : Nat) (v : W64) (i : Nat) : (s.setEvcnt a v).pdie i = s.pdie i := rfl
@[simp] theorem setEvcnt_hart (a : Nat) (v : W64) (i : Nat) : (s.setEvcnt a v).hart i = s.hart i := rfl
@[simp] theorem setEvcnt_dlink (a : Nat) (v : W64) (i : Nat) : (s.setEvcnt a v).dlink i = s.dlink i := rfl
@[simp] theorem setEvcnt_cme (a : Nat) (v : W64) (i : Nat) : (s.setEvcnt a v).cme i = s.cme i := rfl
@[simp] theorem setEvcnt_cu (a : Nat) (v : W64) (i : Nat) : (s.setEvcnt a v).cu i = s.cu i := rfl
@[simp] theorem setEvcnt_ccWay (a : Nat) (v : W64) (i : Nat) : (s.setEvcnt a v).ccWay i = s.ccWay i := rfl
@[simp] theorem setEvcnt_scWay (a : Nat) (v : W64) (i : Nat) : (s.setEvcnt a v).scWay i = s.scWay i := rfl
@[simp] theorem setEvcnt_nmc (a : Nat) (v : W64) (i j : Nat) : (s.setEvcnt a v).nmc i j = s.nmc i j := rfl
@[simp] theorem setEvcnt_home (a : Nat) (v : W64) (i j : Nat) : (s.setEvcnt a v).home i j = s.home i j := rfl
@[simp] theorem setEvcnt_mmu (a : Nat) (v : W64) (i : Nat) : (s.setEvcnt a v).mmu i = s.mmu i := rfl
@[simp] theorem setEvcnt_job (a : Nat) (v : W64) (i : Nat) : (s.setEvcnt a v).job i = s.job i := rfl
@[simp] theorem setEvcnt_item (a : Nat) (v : W64) (i : Nat) : (s.setEvcnt a v).item i = s.item i := rfl
@[simp] theorem setEvcnt_grp (a : Nat) (v : W64) (i j : Nat) : (s.setEvcnt a v).grp i j = s.grp i j := rfl
@[simp] theorem setEvcnt_vreg (a : Nat) (v : W64) (i j k l : Nat) : (s.setEvcnt a v).vreg i j k l = s.vreg i j k l := rfl
@[simp] theorem setEvcnt_flow (a : Nat) (v : W64) (i : Nat) : (s.setEvcnt a v).flow i = s.flow i := rfl
@[simp] theorem setEvcnt_port (a : Nat) (v : W64) (i : Nat) : (s.setEvcnt a v).port i = s.port i := rfl
@[simp] theorem setEvcnt_seat (a : Nat) (v : W64) (i j : Nat) : (s.setEvcnt a v).seat i j = s.seat i j := rfl

/-! ### setQueue -/

@[simp] theorem setQueue_fuses (q : Nat) (v : QueueSt) : (s.setQueue q v).fuses = s.fuses := rfl
@[simp] theorem setQueue_keys (q : Nat) (v : QueueSt) : (s.setQueue q v).keys = s.keys := rfl
@[simp] theorem setQueue_pins (q : Nat) (v : QueueSt) : (s.setQueue q v).pins = s.pins := rfl
@[simp] theorem setQueue_phase (q : Nat) (v : QueueSt) : (s.setQueue q v).phase = s.phase := rfl
@[simp] theorem setQueue_boot (q : Nat) (v : QueueSt) : (s.setQueue q v).boot = s.boot := rfl
@[simp] theorem setQueue_mgmt (q : Nat) (v : QueueSt) : (s.setQueue q v).mgmt = s.mgmt := rfl
@[simp] theorem setQueue_regs (q : Nat) (v : QueueSt) : (s.setQueue q v).regs = s.regs := rfl
@[simp] theorem setQueue_errs (q : Nat) (v : QueueSt) : (s.setQueue q v).errs = s.errs := rfl
@[simp] theorem setQueue_dstates (q : Nat) (v : QueueSt) : (s.setQueue q v).dstates = s.dstates := rfl
@[simp] theorem setQueue_mem (q : Nat) (v : QueueSt) : (s.setQueue q v).mem = s.mem := rfl
@[simp] theorem setQueue_poison (q : Nat) (v : QueueSt) : (s.setQueue q v).poison = s.poison := rfl
@[simp] theorem setQueue_sc (q : Nat) (v : QueueSt) : (s.setQueue q v).sc = s.sc := rfl
@[simp] theorem setQueue_nmcs (q : Nat) (v : QueueSt) : (s.setQueue q v).nmcs = s.nmcs := rfl
@[simp] theorem setQueue_fmcHeld (q : Nat) (v : QueueSt) : (s.setQueue q v).fmcHeld = s.fmcHeld := rfl
@[simp] theorem setQueue_homes (q : Nat) (v : QueueSt) : (s.setQueue q v).homes = s.homes := rfl
@[simp] theorem setQueue_dlinks (q : Nat) (v : QueueSt) : (s.setQueue q v).dlinks = s.dlinks := rfl
@[simp] theorem setQueue_elog (q : Nat) (v : QueueSt) : (s.setQueue q v).elog = s.elog := rfl
@[simp] theorem setQueue_ev (q : Nat) (v : QueueSt) : (s.setQueue q v).ev = s.ev := rfl
@[simp] theorem setQueue_mmus (q : Nat) (v : QueueSt) : (s.setQueue q v).mmus = s.mmus := rfl
@[simp] theorem setQueue_invs (q : Nat) (v : QueueSt) : (s.setQueue q v).invs = s.invs := rfl
@[simp] theorem setQueue_invDone (q : Nat) (v : QueueSt) : (s.setQueue q v).invDone = s.invDone := rfl
@[simp] theorem setQueue_sump (q : Nat) (v : QueueSt) : (s.setQueue q v).sump = s.sump := rfl
@[simp] theorem setQueue_accepted (q : Nat) (v : QueueSt) : (s.setQueue q v).accepted = s.accepted := rfl
@[simp] theorem setQueue_jobs (q : Nat) (v : QueueSt) : (s.setQueue q v).jobs = s.jobs := rfl
@[simp] theorem setQueue_items (q : Nat) (v : QueueSt) : (s.setQueue q v).items = s.items := rfl
@[simp] theorem setQueue_nextItem (q : Nat) (v : QueueSt) : (s.setQueue q v).nextItem = s.nextItem := rfl
@[simp] theorem setQueue_jseqs (q : Nat) (v : QueueSt) : (s.setQueue q v).jseqs = s.jseqs := rfl
@[simp] theorem setQueue_units (q : Nat) (v : QueueSt) : (s.setQueue q v).units = s.units := rfl
@[simp] theorem setQueue_groups (q : Nat) (v : QueueSt) : (s.setQueue q v).groups = s.groups := rfl
@[simp] theorem setQueue_vregs (q : Nat) (v : QueueSt) : (s.setQueue q v).vregs = s.vregs := rfl
@[simp] theorem setQueue_ls (q : Nat) (v : QueueSt) : (s.setQueue q v).ls = s.ls := rfl
@[simp] theorem setQueue_lsWritten (q : Nat) (v : QueueSt) : (s.setQueue q v).lsWritten = s.lsWritten := rfl
@[simp] theorem setQueue_cc (q : Nat) (v : QueueSt) : (s.setQueue q v).cc = s.cc := rfl
@[simp] theorem setQueue_cmes (q : Nat) (v : QueueSt) : (s.setQueue q v).cmes = s.cmes := rfl
@[simp] theorem setQueue_fab (q : Nat) (v : QueueSt) : (s.setQueue q v).fab = s.fab := rfl
@[simp] theorem setQueue_seats (q : Nat) (v : QueueSt) : (s.setQueue q v).seats = s.seats := rfl
@[simp] theorem setQueue_well (q : Nat) (v : QueueSt) : (s.setQueue q v).well = s.well := rfl
@[simp] theorem setQueue_pair (q : Nat) (v : QueueSt) : (s.setQueue q v).pair = s.pair := rfl
@[simp] theorem setQueue_harts (q : Nat) (v : QueueSt) : (s.setQueue q v).harts = s.harts := rfl
@[simp] theorem setQueue_imsic (q : Nat) (v : QueueSt) : (s.setQueue q v).imsic = s.imsic := rfl
@[simp] theorem setQueue_dbg (q : Nat) (v : QueueSt) : (s.setQueue q v).dbg = s.dbg := rfl
@[simp] theorem setQueue_pwr (q : Nat) (v : QueueSt) : (s.setQueue q v).pwr = s.pwr := rfl
@[simp] theorem setQueue_free (q : Nat) (v : QueueSt) : (s.setQueue q v).free = s.free := rfl
@[simp] theorem setQueue_now (q : Nat) (v : QueueSt) : (s.setQueue q v).now = s.now := rfl
@[simp] theorem setQueue_outs (q : Nat) (v : QueueSt) : (s.setQueue q v).outs = s.outs := rfl
@[simp] theorem setQueue_pending (q : Nat) (v : QueueSt) : (s.setQueue q v).pending = s.pending := rfl
@[simp] theorem setQueue_reg (q : Nat) (v : QueueSt) (i : Nat) : (s.setQueue q v).reg i = s.reg i := rfl
@[simp] theorem setQueue_err (q : Nat) (v : QueueSt) (i : Nat) : (s.setQueue q v).err i = s.err i := rfl
@[simp] theorem setQueue_dst (q : Nat) (v : QueueSt) (i : Nat) : (s.setQueue q v).dst i = s.dst i := rfl
@[simp] theorem setQueue_byte (q : Nat) (v : QueueSt) (i : Nat) : (s.setQueue q v).byte i = s.byte i := rfl
@[simp] theorem setQueue_poisoned (q : Nat) (v : QueueSt) (i : Nat) : (s.setQueue q v).poisoned i = s.poisoned i := rfl
@[simp] theorem setQueue_irqPending (q : Nat) (v : QueueSt) (i : Nat) : (s.setQueue q v).irqPending i = s.irqPending i := rfl
@[simp] theorem setQueue_evcnt (q : Nat) (v : QueueSt) (i : Nat) : (s.setQueue q v).evcnt i = s.evcnt i := rfl
@[simp] theorem setQueue_pdie (q : Nat) (v : QueueSt) (i : Nat) : (s.setQueue q v).pdie i = s.pdie i := rfl
@[simp] theorem setQueue_hart (q : Nat) (v : QueueSt) (i : Nat) : (s.setQueue q v).hart i = s.hart i := rfl
@[simp] theorem setQueue_dlink (q : Nat) (v : QueueSt) (i : Nat) : (s.setQueue q v).dlink i = s.dlink i := rfl
@[simp] theorem setQueue_cme (q : Nat) (v : QueueSt) (i : Nat) : (s.setQueue q v).cme i = s.cme i := rfl
@[simp] theorem setQueue_cu (q : Nat) (v : QueueSt) (i : Nat) : (s.setQueue q v).cu i = s.cu i := rfl
@[simp] theorem setQueue_ccWay (q : Nat) (v : QueueSt) (i : Nat) : (s.setQueue q v).ccWay i = s.ccWay i := rfl
@[simp] theorem setQueue_scWay (q : Nat) (v : QueueSt) (i : Nat) : (s.setQueue q v).scWay i = s.scWay i := rfl
@[simp] theorem setQueue_nmc (q : Nat) (v : QueueSt) (i j : Nat) : (s.setQueue q v).nmc i j = s.nmc i j := rfl
@[simp] theorem setQueue_home (q : Nat) (v : QueueSt) (i j : Nat) : (s.setQueue q v).home i j = s.home i j := rfl
@[simp] theorem setQueue_mmu (q : Nat) (v : QueueSt) (i : Nat) : (s.setQueue q v).mmu i = s.mmu i := rfl
@[simp] theorem setQueue_job (q : Nat) (v : QueueSt) (i : Nat) : (s.setQueue q v).job i = s.job i := rfl
@[simp] theorem setQueue_item (q : Nat) (v : QueueSt) (i : Nat) : (s.setQueue q v).item i = s.item i := rfl
@[simp] theorem setQueue_grp (q : Nat) (v : QueueSt) (i j : Nat) : (s.setQueue q v).grp i j = s.grp i j := rfl
@[simp] theorem setQueue_vreg (q : Nat) (v : QueueSt) (i j k l : Nat) : (s.setQueue q v).vreg i j k l = s.vreg i j k l := rfl
@[simp] theorem setQueue_flow (q : Nat) (v : QueueSt) (i : Nat) : (s.setQueue q v).flow i = s.flow i := rfl
@[simp] theorem setQueue_port (q : Nat) (v : QueueSt) (i : Nat) : (s.setQueue q v).port i = s.port i := rfl
@[simp] theorem setQueue_seat (q : Nat) (v : QueueSt) (i j : Nat) : (s.setQueue q v).seat i j = s.seat i j := rfl

/-! ### setPdie -/

@[simp] theorem setPdie_fuses (d : Nat) (v : PwrDie) : (s.setPdie d v).fuses = s.fuses := rfl
@[simp] theorem setPdie_keys (d : Nat) (v : PwrDie) : (s.setPdie d v).keys = s.keys := rfl
@[simp] theorem setPdie_pins (d : Nat) (v : PwrDie) : (s.setPdie d v).pins = s.pins := rfl
@[simp] theorem setPdie_phase (d : Nat) (v : PwrDie) : (s.setPdie d v).phase = s.phase := rfl
@[simp] theorem setPdie_boot (d : Nat) (v : PwrDie) : (s.setPdie d v).boot = s.boot := rfl
@[simp] theorem setPdie_mgmt (d : Nat) (v : PwrDie) : (s.setPdie d v).mgmt = s.mgmt := rfl
@[simp] theorem setPdie_regs (d : Nat) (v : PwrDie) : (s.setPdie d v).regs = s.regs := rfl
@[simp] theorem setPdie_errs (d : Nat) (v : PwrDie) : (s.setPdie d v).errs = s.errs := rfl
@[simp] theorem setPdie_dstates (d : Nat) (v : PwrDie) : (s.setPdie d v).dstates = s.dstates := rfl
@[simp] theorem setPdie_mem (d : Nat) (v : PwrDie) : (s.setPdie d v).mem = s.mem := rfl
@[simp] theorem setPdie_poison (d : Nat) (v : PwrDie) : (s.setPdie d v).poison = s.poison := rfl
@[simp] theorem setPdie_sc (d : Nat) (v : PwrDie) : (s.setPdie d v).sc = s.sc := rfl
@[simp] theorem setPdie_nmcs (d : Nat) (v : PwrDie) : (s.setPdie d v).nmcs = s.nmcs := rfl
@[simp] theorem setPdie_fmcHeld (d : Nat) (v : PwrDie) : (s.setPdie d v).fmcHeld = s.fmcHeld := rfl
@[simp] theorem setPdie_homes (d : Nat) (v : PwrDie) : (s.setPdie d v).homes = s.homes := rfl
@[simp] theorem setPdie_dlinks (d : Nat) (v : PwrDie) : (s.setPdie d v).dlinks = s.dlinks := rfl
@[simp] theorem setPdie_elog (d : Nat) (v : PwrDie) : (s.setPdie d v).elog = s.elog := rfl
@[simp] theorem setPdie_ev (d : Nat) (v : PwrDie) : (s.setPdie d v).ev = s.ev := rfl
@[simp] theorem setPdie_mmus (d : Nat) (v : PwrDie) : (s.setPdie d v).mmus = s.mmus := rfl
@[simp] theorem setPdie_invs (d : Nat) (v : PwrDie) : (s.setPdie d v).invs = s.invs := rfl
@[simp] theorem setPdie_invDone (d : Nat) (v : PwrDie) : (s.setPdie d v).invDone = s.invDone := rfl
@[simp] theorem setPdie_sump (d : Nat) (v : PwrDie) : (s.setPdie d v).sump = s.sump := rfl
@[simp] theorem setPdie_queues (d : Nat) (v : PwrDie) : (s.setPdie d v).queues = s.queues := rfl
@[simp] theorem setPdie_accepted (d : Nat) (v : PwrDie) : (s.setPdie d v).accepted = s.accepted := rfl
@[simp] theorem setPdie_jobs (d : Nat) (v : PwrDie) : (s.setPdie d v).jobs = s.jobs := rfl
@[simp] theorem setPdie_items (d : Nat) (v : PwrDie) : (s.setPdie d v).items = s.items := rfl
@[simp] theorem setPdie_nextItem (d : Nat) (v : PwrDie) : (s.setPdie d v).nextItem = s.nextItem := rfl
@[simp] theorem setPdie_jseqs (d : Nat) (v : PwrDie) : (s.setPdie d v).jseqs = s.jseqs := rfl
@[simp] theorem setPdie_units (d : Nat) (v : PwrDie) : (s.setPdie d v).units = s.units := rfl
@[simp] theorem setPdie_groups (d : Nat) (v : PwrDie) : (s.setPdie d v).groups = s.groups := rfl
@[simp] theorem setPdie_vregs (d : Nat) (v : PwrDie) : (s.setPdie d v).vregs = s.vregs := rfl
@[simp] theorem setPdie_ls (d : Nat) (v : PwrDie) : (s.setPdie d v).ls = s.ls := rfl
@[simp] theorem setPdie_lsWritten (d : Nat) (v : PwrDie) : (s.setPdie d v).lsWritten = s.lsWritten := rfl
@[simp] theorem setPdie_cc (d : Nat) (v : PwrDie) : (s.setPdie d v).cc = s.cc := rfl
@[simp] theorem setPdie_cmes (d : Nat) (v : PwrDie) : (s.setPdie d v).cmes = s.cmes := rfl
@[simp] theorem setPdie_fab (d : Nat) (v : PwrDie) : (s.setPdie d v).fab = s.fab := rfl
@[simp] theorem setPdie_seats (d : Nat) (v : PwrDie) : (s.setPdie d v).seats = s.seats := rfl
@[simp] theorem setPdie_well (d : Nat) (v : PwrDie) : (s.setPdie d v).well = s.well := rfl
@[simp] theorem setPdie_pair (d : Nat) (v : PwrDie) : (s.setPdie d v).pair = s.pair := rfl
@[simp] theorem setPdie_harts (d : Nat) (v : PwrDie) : (s.setPdie d v).harts = s.harts := rfl
@[simp] theorem setPdie_imsic (d : Nat) (v : PwrDie) : (s.setPdie d v).imsic = s.imsic := rfl
@[simp] theorem setPdie_dbg (d : Nat) (v : PwrDie) : (s.setPdie d v).dbg = s.dbg := rfl
@[simp] theorem setPdie_free (d : Nat) (v : PwrDie) : (s.setPdie d v).free = s.free := rfl
@[simp] theorem setPdie_now (d : Nat) (v : PwrDie) : (s.setPdie d v).now = s.now := rfl
@[simp] theorem setPdie_outs (d : Nat) (v : PwrDie) : (s.setPdie d v).outs = s.outs := rfl
@[simp] theorem setPdie_pending (d : Nat) (v : PwrDie) : (s.setPdie d v).pending = s.pending := rfl
@[simp] theorem setPdie_reg (d : Nat) (v : PwrDie) (i : Nat) : (s.setPdie d v).reg i = s.reg i := rfl
@[simp] theorem setPdie_err (d : Nat) (v : PwrDie) (i : Nat) : (s.setPdie d v).err i = s.err i := rfl
@[simp] theorem setPdie_dst (d : Nat) (v : PwrDie) (i : Nat) : (s.setPdie d v).dst i = s.dst i := rfl
@[simp] theorem setPdie_byte (d : Nat) (v : PwrDie) (i : Nat) : (s.setPdie d v).byte i = s.byte i := rfl
@[simp] theorem setPdie_poisoned (d : Nat) (v : PwrDie) (i : Nat) : (s.setPdie d v).poisoned i = s.poisoned i := rfl
@[simp] theorem setPdie_irqPending (d : Nat) (v : PwrDie) (i : Nat) : (s.setPdie d v).irqPending i = s.irqPending i := rfl
@[simp] theorem setPdie_evcnt (d : Nat) (v : PwrDie) (i : Nat) : (s.setPdie d v).evcnt i = s.evcnt i := rfl
@[simp] theorem setPdie_queue (d : Nat) (v : PwrDie) (i : Nat) : (s.setPdie d v).queue i = s.queue i := rfl
@[simp] theorem setPdie_hart (d : Nat) (v : PwrDie) (i : Nat) : (s.setPdie d v).hart i = s.hart i := rfl
@[simp] theorem setPdie_dlink (d : Nat) (v : PwrDie) (i : Nat) : (s.setPdie d v).dlink i = s.dlink i := rfl
@[simp] theorem setPdie_cme (d : Nat) (v : PwrDie) (i : Nat) : (s.setPdie d v).cme i = s.cme i := rfl
@[simp] theorem setPdie_cu (d : Nat) (v : PwrDie) (i : Nat) : (s.setPdie d v).cu i = s.cu i := rfl
@[simp] theorem setPdie_ccWay (d : Nat) (v : PwrDie) (i : Nat) : (s.setPdie d v).ccWay i = s.ccWay i := rfl
@[simp] theorem setPdie_scWay (d : Nat) (v : PwrDie) (i : Nat) : (s.setPdie d v).scWay i = s.scWay i := rfl
@[simp] theorem setPdie_nmc (d : Nat) (v : PwrDie) (i j : Nat) : (s.setPdie d v).nmc i j = s.nmc i j := rfl
@[simp] theorem setPdie_home (d : Nat) (v : PwrDie) (i j : Nat) : (s.setPdie d v).home i j = s.home i j := rfl
@[simp] theorem setPdie_mmu (d : Nat) (v : PwrDie) (i : Nat) : (s.setPdie d v).mmu i = s.mmu i := rfl
@[simp] theorem setPdie_job (d : Nat) (v : PwrDie) (i : Nat) : (s.setPdie d v).job i = s.job i := rfl
@[simp] theorem setPdie_item (d : Nat) (v : PwrDie) (i : Nat) : (s.setPdie d v).item i = s.item i := rfl
@[simp] theorem setPdie_grp (d : Nat) (v : PwrDie) (i j : Nat) : (s.setPdie d v).grp i j = s.grp i j := rfl
@[simp] theorem setPdie_vreg (d : Nat) (v : PwrDie) (i j k l : Nat) : (s.setPdie d v).vreg i j k l = s.vreg i j k l := rfl
@[simp] theorem setPdie_flow (d : Nat) (v : PwrDie) (i : Nat) : (s.setPdie d v).flow i = s.flow i := rfl
@[simp] theorem setPdie_port (d : Nat) (v : PwrDie) (i : Nat) : (s.setPdie d v).port i = s.port i := rfl
@[simp] theorem setPdie_seat (d : Nat) (v : PwrDie) (i j : Nat) : (s.setPdie d v).seat i j = s.seat i j := rfl

/-! ### setHart -/

@[simp] theorem setHart_fuses (h : Nat) (v : Hart) : (s.setHart h v).fuses = s.fuses := rfl
@[simp] theorem setHart_keys (h : Nat) (v : Hart) : (s.setHart h v).keys = s.keys := rfl
@[simp] theorem setHart_pins (h : Nat) (v : Hart) : (s.setHart h v).pins = s.pins := rfl
@[simp] theorem setHart_phase (h : Nat) (v : Hart) : (s.setHart h v).phase = s.phase := rfl
@[simp] theorem setHart_boot (h : Nat) (v : Hart) : (s.setHart h v).boot = s.boot := rfl
@[simp] theorem setHart_mgmt (h : Nat) (v : Hart) : (s.setHart h v).mgmt = s.mgmt := rfl
@[simp] theorem setHart_regs (h : Nat) (v : Hart) : (s.setHart h v).regs = s.regs := rfl
@[simp] theorem setHart_errs (h : Nat) (v : Hart) : (s.setHart h v).errs = s.errs := rfl
@[simp] theorem setHart_dstates (h : Nat) (v : Hart) : (s.setHart h v).dstates = s.dstates := rfl
@[simp] theorem setHart_mem (h : Nat) (v : Hart) : (s.setHart h v).mem = s.mem := rfl
@[simp] theorem setHart_poison (h : Nat) (v : Hart) : (s.setHart h v).poison = s.poison := rfl
@[simp] theorem setHart_sc (h : Nat) (v : Hart) : (s.setHart h v).sc = s.sc := rfl
@[simp] theorem setHart_nmcs (h : Nat) (v : Hart) : (s.setHart h v).nmcs = s.nmcs := rfl
@[simp] theorem setHart_fmcHeld (h : Nat) (v : Hart) : (s.setHart h v).fmcHeld = s.fmcHeld := rfl
@[simp] theorem setHart_homes (h : Nat) (v : Hart) : (s.setHart h v).homes = s.homes := rfl
@[simp] theorem setHart_dlinks (h : Nat) (v : Hart) : (s.setHart h v).dlinks = s.dlinks := rfl
@[simp] theorem setHart_elog (h : Nat) (v : Hart) : (s.setHart h v).elog = s.elog := rfl
@[simp] theorem setHart_ev (h : Nat) (v : Hart) : (s.setHart h v).ev = s.ev := rfl
@[simp] theorem setHart_mmus (h : Nat) (v : Hart) : (s.setHart h v).mmus = s.mmus := rfl
@[simp] theorem setHart_invs (h : Nat) (v : Hart) : (s.setHart h v).invs = s.invs := rfl
@[simp] theorem setHart_invDone (h : Nat) (v : Hart) : (s.setHart h v).invDone = s.invDone := rfl
@[simp] theorem setHart_sump (h : Nat) (v : Hart) : (s.setHart h v).sump = s.sump := rfl
@[simp] theorem setHart_queues (h : Nat) (v : Hart) : (s.setHart h v).queues = s.queues := rfl
@[simp] theorem setHart_accepted (h : Nat) (v : Hart) : (s.setHart h v).accepted = s.accepted := rfl
@[simp] theorem setHart_jobs (h : Nat) (v : Hart) : (s.setHart h v).jobs = s.jobs := rfl
@[simp] theorem setHart_items (h : Nat) (v : Hart) : (s.setHart h v).items = s.items := rfl
@[simp] theorem setHart_nextItem (h : Nat) (v : Hart) : (s.setHart h v).nextItem = s.nextItem := rfl
@[simp] theorem setHart_jseqs (h : Nat) (v : Hart) : (s.setHart h v).jseqs = s.jseqs := rfl
@[simp] theorem setHart_units (h : Nat) (v : Hart) : (s.setHart h v).units = s.units := rfl
@[simp] theorem setHart_groups (h : Nat) (v : Hart) : (s.setHart h v).groups = s.groups := rfl
@[simp] theorem setHart_vregs (h : Nat) (v : Hart) : (s.setHart h v).vregs = s.vregs := rfl
@[simp] theorem setHart_ls (h : Nat) (v : Hart) : (s.setHart h v).ls = s.ls := rfl
@[simp] theorem setHart_lsWritten (h : Nat) (v : Hart) : (s.setHart h v).lsWritten = s.lsWritten := rfl
@[simp] theorem setHart_cc (h : Nat) (v : Hart) : (s.setHart h v).cc = s.cc := rfl
@[simp] theorem setHart_cmes (h : Nat) (v : Hart) : (s.setHart h v).cmes = s.cmes := rfl
@[simp] theorem setHart_fab (h : Nat) (v : Hart) : (s.setHart h v).fab = s.fab := rfl
@[simp] theorem setHart_seats (h : Nat) (v : Hart) : (s.setHart h v).seats = s.seats := rfl
@[simp] theorem setHart_well (h : Nat) (v : Hart) : (s.setHart h v).well = s.well := rfl
@[simp] theorem setHart_pair (h : Nat) (v : Hart) : (s.setHart h v).pair = s.pair := rfl
@[simp] theorem setHart_imsic (h : Nat) (v : Hart) : (s.setHart h v).imsic = s.imsic := rfl
@[simp] theorem setHart_dbg (h : Nat) (v : Hart) : (s.setHart h v).dbg = s.dbg := rfl
@[simp] theorem setHart_pwr (h : Nat) (v : Hart) : (s.setHart h v).pwr = s.pwr := rfl
@[simp] theorem setHart_free (h : Nat) (v : Hart) : (s.setHart h v).free = s.free := rfl
@[simp] theorem setHart_now (h : Nat) (v : Hart) : (s.setHart h v).now = s.now := rfl
@[simp] theorem setHart_outs (h : Nat) (v : Hart) : (s.setHart h v).outs = s.outs := rfl
@[simp] theorem setHart_pending (h : Nat) (v : Hart) : (s.setHart h v).pending = s.pending := rfl
@[simp] theorem setHart_reg (h : Nat) (v : Hart) (i : Nat) : (s.setHart h v).reg i = s.reg i := rfl
@[simp] theorem setHart_err (h : Nat) (v : Hart) (i : Nat) : (s.setHart h v).err i = s.err i := rfl
@[simp] theorem setHart_dst (h : Nat) (v : Hart) (i : Nat) : (s.setHart h v).dst i = s.dst i := rfl
@[simp] theorem setHart_byte (h : Nat) (v : Hart) (i : Nat) : (s.setHart h v).byte i = s.byte i := rfl
@[simp] theorem setHart_poisoned (h : Nat) (v : Hart) (i : Nat) : (s.setHart h v).poisoned i = s.poisoned i := rfl
@[simp] theorem setHart_irqPending (h : Nat) (v : Hart) (i : Nat) : (s.setHart h v).irqPending i = s.irqPending i := rfl
@[simp] theorem setHart_evcnt (h : Nat) (v : Hart) (i : Nat) : (s.setHart h v).evcnt i = s.evcnt i := rfl
@[simp] theorem setHart_queue (h : Nat) (v : Hart) (i : Nat) : (s.setHart h v).queue i = s.queue i := rfl
@[simp] theorem setHart_pdie (h : Nat) (v : Hart) (i : Nat) : (s.setHart h v).pdie i = s.pdie i := rfl
@[simp] theorem setHart_dlink (h : Nat) (v : Hart) (i : Nat) : (s.setHart h v).dlink i = s.dlink i := rfl
@[simp] theorem setHart_cme (h : Nat) (v : Hart) (i : Nat) : (s.setHart h v).cme i = s.cme i := rfl
@[simp] theorem setHart_cu (h : Nat) (v : Hart) (i : Nat) : (s.setHart h v).cu i = s.cu i := rfl
@[simp] theorem setHart_ccWay (h : Nat) (v : Hart) (i : Nat) : (s.setHart h v).ccWay i = s.ccWay i := rfl
@[simp] theorem setHart_scWay (h : Nat) (v : Hart) (i : Nat) : (s.setHart h v).scWay i = s.scWay i := rfl
@[simp] theorem setHart_nmc (h : Nat) (v : Hart) (i j : Nat) : (s.setHart h v).nmc i j = s.nmc i j := rfl
@[simp] theorem setHart_home (h : Nat) (v : Hart) (i j : Nat) : (s.setHart h v).home i j = s.home i j := rfl
@[simp] theorem setHart_mmu (h : Nat) (v : Hart) (i : Nat) : (s.setHart h v).mmu i = s.mmu i := rfl
@[simp] theorem setHart_job (h : Nat) (v : Hart) (i : Nat) : (s.setHart h v).job i = s.job i := rfl
@[simp] theorem setHart_item (h : Nat) (v : Hart) (i : Nat) : (s.setHart h v).item i = s.item i := rfl
@[simp] theorem setHart_grp (h : Nat) (v : Hart) (i j : Nat) : (s.setHart h v).grp i j = s.grp i j := rfl
@[simp] theorem setHart_vreg (h : Nat) (v : Hart) (i j k l : Nat) : (s.setHart h v).vreg i j k l = s.vreg i j k l := rfl
@[simp] theorem setHart_flow (h : Nat) (v : Hart) (i : Nat) : (s.setHart h v).flow i = s.flow i := rfl
@[simp] theorem setHart_port (h : Nat) (v : Hart) (i : Nat) : (s.setHart h v).port i = s.port i := rfl
@[simp] theorem setHart_seat (h : Nat) (v : Hart) (i j : Nat) : (s.setHart h v).seat i j = s.seat i j := rfl

/-! ### setDlink -/

@[simp] theorem setDlink_fuses (n : Nat) (v : DieLink) : (s.setDlink n v).fuses = s.fuses := rfl
@[simp] theorem setDlink_keys (n : Nat) (v : DieLink) : (s.setDlink n v).keys = s.keys := rfl
@[simp] theorem setDlink_pins (n : Nat) (v : DieLink) : (s.setDlink n v).pins = s.pins := rfl
@[simp] theorem setDlink_phase (n : Nat) (v : DieLink) : (s.setDlink n v).phase = s.phase := rfl
@[simp] theorem setDlink_boot (n : Nat) (v : DieLink) : (s.setDlink n v).boot = s.boot := rfl
@[simp] theorem setDlink_mgmt (n : Nat) (v : DieLink) : (s.setDlink n v).mgmt = s.mgmt := rfl
@[simp] theorem setDlink_regs (n : Nat) (v : DieLink) : (s.setDlink n v).regs = s.regs := rfl
@[simp] theorem setDlink_errs (n : Nat) (v : DieLink) : (s.setDlink n v).errs = s.errs := rfl
@[simp] theorem setDlink_dstates (n : Nat) (v : DieLink) : (s.setDlink n v).dstates = s.dstates := rfl
@[simp] theorem setDlink_mem (n : Nat) (v : DieLink) : (s.setDlink n v).mem = s.mem := rfl
@[simp] theorem setDlink_poison (n : Nat) (v : DieLink) : (s.setDlink n v).poison = s.poison := rfl
@[simp] theorem setDlink_sc (n : Nat) (v : DieLink) : (s.setDlink n v).sc = s.sc := rfl
@[simp] theorem setDlink_nmcs (n : Nat) (v : DieLink) : (s.setDlink n v).nmcs = s.nmcs := rfl
@[simp] theorem setDlink_fmcHeld (n : Nat) (v : DieLink) : (s.setDlink n v).fmcHeld = s.fmcHeld := rfl
@[simp] theorem setDlink_homes (n : Nat) (v : DieLink) : (s.setDlink n v).homes = s.homes := rfl
@[simp] theorem setDlink_elog (n : Nat) (v : DieLink) : (s.setDlink n v).elog = s.elog := rfl
@[simp] theorem setDlink_ev (n : Nat) (v : DieLink) : (s.setDlink n v).ev = s.ev := rfl
@[simp] theorem setDlink_mmus (n : Nat) (v : DieLink) : (s.setDlink n v).mmus = s.mmus := rfl
@[simp] theorem setDlink_invs (n : Nat) (v : DieLink) : (s.setDlink n v).invs = s.invs := rfl
@[simp] theorem setDlink_invDone (n : Nat) (v : DieLink) : (s.setDlink n v).invDone = s.invDone := rfl
@[simp] theorem setDlink_sump (n : Nat) (v : DieLink) : (s.setDlink n v).sump = s.sump := rfl
@[simp] theorem setDlink_queues (n : Nat) (v : DieLink) : (s.setDlink n v).queues = s.queues := rfl
@[simp] theorem setDlink_accepted (n : Nat) (v : DieLink) : (s.setDlink n v).accepted = s.accepted := rfl
@[simp] theorem setDlink_jobs (n : Nat) (v : DieLink) : (s.setDlink n v).jobs = s.jobs := rfl
@[simp] theorem setDlink_items (n : Nat) (v : DieLink) : (s.setDlink n v).items = s.items := rfl
@[simp] theorem setDlink_nextItem (n : Nat) (v : DieLink) : (s.setDlink n v).nextItem = s.nextItem := rfl
@[simp] theorem setDlink_jseqs (n : Nat) (v : DieLink) : (s.setDlink n v).jseqs = s.jseqs := rfl
@[simp] theorem setDlink_units (n : Nat) (v : DieLink) : (s.setDlink n v).units = s.units := rfl
@[simp] theorem setDlink_groups (n : Nat) (v : DieLink) : (s.setDlink n v).groups = s.groups := rfl
@[simp] theorem setDlink_vregs (n : Nat) (v : DieLink) : (s.setDlink n v).vregs = s.vregs := rfl
@[simp] theorem setDlink_ls (n : Nat) (v : DieLink) : (s.setDlink n v).ls = s.ls := rfl
@[simp] theorem setDlink_lsWritten (n : Nat) (v : DieLink) : (s.setDlink n v).lsWritten = s.lsWritten := rfl
@[simp] theorem setDlink_cc (n : Nat) (v : DieLink) : (s.setDlink n v).cc = s.cc := rfl
@[simp] theorem setDlink_cmes (n : Nat) (v : DieLink) : (s.setDlink n v).cmes = s.cmes := rfl
@[simp] theorem setDlink_fab (n : Nat) (v : DieLink) : (s.setDlink n v).fab = s.fab := rfl
@[simp] theorem setDlink_seats (n : Nat) (v : DieLink) : (s.setDlink n v).seats = s.seats := rfl
@[simp] theorem setDlink_well (n : Nat) (v : DieLink) : (s.setDlink n v).well = s.well := rfl
@[simp] theorem setDlink_pair (n : Nat) (v : DieLink) : (s.setDlink n v).pair = s.pair := rfl
@[simp] theorem setDlink_harts (n : Nat) (v : DieLink) : (s.setDlink n v).harts = s.harts := rfl
@[simp] theorem setDlink_imsic (n : Nat) (v : DieLink) : (s.setDlink n v).imsic = s.imsic := rfl
@[simp] theorem setDlink_dbg (n : Nat) (v : DieLink) : (s.setDlink n v).dbg = s.dbg := rfl
@[simp] theorem setDlink_pwr (n : Nat) (v : DieLink) : (s.setDlink n v).pwr = s.pwr := rfl
@[simp] theorem setDlink_free (n : Nat) (v : DieLink) : (s.setDlink n v).free = s.free := rfl
@[simp] theorem setDlink_now (n : Nat) (v : DieLink) : (s.setDlink n v).now = s.now := rfl
@[simp] theorem setDlink_outs (n : Nat) (v : DieLink) : (s.setDlink n v).outs = s.outs := rfl
@[simp] theorem setDlink_pending (n : Nat) (v : DieLink) : (s.setDlink n v).pending = s.pending := rfl
@[simp] theorem setDlink_reg (n : Nat) (v : DieLink) (i : Nat) : (s.setDlink n v).reg i = s.reg i := rfl
@[simp] theorem setDlink_err (n : Nat) (v : DieLink) (i : Nat) : (s.setDlink n v).err i = s.err i := rfl
@[simp] theorem setDlink_dst (n : Nat) (v : DieLink) (i : Nat) : (s.setDlink n v).dst i = s.dst i := rfl
@[simp] theorem setDlink_byte (n : Nat) (v : DieLink) (i : Nat) : (s.setDlink n v).byte i = s.byte i := rfl
@[simp] theorem setDlink_poisoned (n : Nat) (v : DieLink) (i : Nat) : (s.setDlink n v).poisoned i = s.poisoned i := rfl
@[simp] theorem setDlink_irqPending (n : Nat) (v : DieLink) (i : Nat) : (s.setDlink n v).irqPending i = s.irqPending i := rfl
@[simp] theorem setDlink_evcnt (n : Nat) (v : DieLink) (i : Nat) : (s.setDlink n v).evcnt i = s.evcnt i := rfl
@[simp] theorem setDlink_queue (n : Nat) (v : DieLink) (i : Nat) : (s.setDlink n v).queue i = s.queue i := rfl
@[simp] theorem setDlink_pdie (n : Nat) (v : DieLink) (i : Nat) : (s.setDlink n v).pdie i = s.pdie i := rfl
@[simp] theorem setDlink_hart (n : Nat) (v : DieLink) (i : Nat) : (s.setDlink n v).hart i = s.hart i := rfl
@[simp] theorem setDlink_cme (n : Nat) (v : DieLink) (i : Nat) : (s.setDlink n v).cme i = s.cme i := rfl
@[simp] theorem setDlink_cu (n : Nat) (v : DieLink) (i : Nat) : (s.setDlink n v).cu i = s.cu i := rfl
@[simp] theorem setDlink_ccWay (n : Nat) (v : DieLink) (i : Nat) : (s.setDlink n v).ccWay i = s.ccWay i := rfl
@[simp] theorem setDlink_scWay (n : Nat) (v : DieLink) (i : Nat) : (s.setDlink n v).scWay i = s.scWay i := rfl
@[simp] theorem setDlink_nmc (n : Nat) (v : DieLink) (i j : Nat) : (s.setDlink n v).nmc i j = s.nmc i j := rfl
@[simp] theorem setDlink_home (n : Nat) (v : DieLink) (i j : Nat) : (s.setDlink n v).home i j = s.home i j := rfl
@[simp] theorem setDlink_mmu (n : Nat) (v : DieLink) (i : Nat) : (s.setDlink n v).mmu i = s.mmu i := rfl
@[simp] theorem setDlink_job (n : Nat) (v : DieLink) (i : Nat) : (s.setDlink n v).job i = s.job i := rfl
@[simp] theorem setDlink_item (n : Nat) (v : DieLink) (i : Nat) : (s.setDlink n v).item i = s.item i := rfl
@[simp] theorem setDlink_grp (n : Nat) (v : DieLink) (i j : Nat) : (s.setDlink n v).grp i j = s.grp i j := rfl
@[simp] theorem setDlink_vreg (n : Nat) (v : DieLink) (i j k l : Nat) : (s.setDlink n v).vreg i j k l = s.vreg i j k l := rfl
@[simp] theorem setDlink_flow (n : Nat) (v : DieLink) (i : Nat) : (s.setDlink n v).flow i = s.flow i := rfl
@[simp] theorem setDlink_port (n : Nat) (v : DieLink) (i : Nat) : (s.setDlink n v).port i = s.port i := rfl
@[simp] theorem setDlink_seat (n : Nat) (v : DieLink) (i j : Nat) : (s.setDlink n v).seat i j = s.seat i j := rfl

/-! ### setCme -/

@[simp] theorem setCme_fuses (d : Nat) (v : CmeSt) : (s.setCme d v).fuses = s.fuses := rfl
@[simp] theorem setCme_keys (d : Nat) (v : CmeSt) : (s.setCme d v).keys = s.keys := rfl
@[simp] theorem setCme_pins (d : Nat) (v : CmeSt) : (s.setCme d v).pins = s.pins := rfl
@[simp] theorem setCme_phase (d : Nat) (v : CmeSt) : (s.setCme d v).phase = s.phase := rfl
@[simp] theorem setCme_boot (d : Nat) (v : CmeSt) : (s.setCme d v).boot = s.boot := rfl
@[simp] theorem setCme_mgmt (d : Nat) (v : CmeSt) : (s.setCme d v).mgmt = s.mgmt := rfl
@[simp] theorem setCme_regs (d : Nat) (v : CmeSt) : (s.setCme d v).regs = s.regs := rfl
@[simp] theorem setCme_errs (d : Nat) (v : CmeSt) : (s.setCme d v).errs = s.errs := rfl
@[simp] theorem setCme_dstates (d : Nat) (v : CmeSt) : (s.setCme d v).dstates = s.dstates := rfl
@[simp] theorem setCme_mem (d : Nat) (v : CmeSt) : (s.setCme d v).mem = s.mem := rfl
@[simp] theorem setCme_poison (d : Nat) (v : CmeSt) : (s.setCme d v).poison = s.poison := rfl
@[simp] theorem setCme_sc (d : Nat) (v : CmeSt) : (s.setCme d v).sc = s.sc := rfl
@[simp] theorem setCme_nmcs (d : Nat) (v : CmeSt) : (s.setCme d v).nmcs = s.nmcs := rfl
@[simp] theorem setCme_fmcHeld (d : Nat) (v : CmeSt) : (s.setCme d v).fmcHeld = s.fmcHeld := rfl
@[simp] theorem setCme_homes (d : Nat) (v : CmeSt) : (s.setCme d v).homes = s.homes := rfl
@[simp] theorem setCme_dlinks (d : Nat) (v : CmeSt) : (s.setCme d v).dlinks = s.dlinks := rfl
@[simp] theorem setCme_elog (d : Nat) (v : CmeSt) : (s.setCme d v).elog = s.elog := rfl
@[simp] theorem setCme_ev (d : Nat) (v : CmeSt) : (s.setCme d v).ev = s.ev := rfl
@[simp] theorem setCme_mmus (d : Nat) (v : CmeSt) : (s.setCme d v).mmus = s.mmus := rfl
@[simp] theorem setCme_invs (d : Nat) (v : CmeSt) : (s.setCme d v).invs = s.invs := rfl
@[simp] theorem setCme_invDone (d : Nat) (v : CmeSt) : (s.setCme d v).invDone = s.invDone := rfl
@[simp] theorem setCme_sump (d : Nat) (v : CmeSt) : (s.setCme d v).sump = s.sump := rfl
@[simp] theorem setCme_queues (d : Nat) (v : CmeSt) : (s.setCme d v).queues = s.queues := rfl
@[simp] theorem setCme_accepted (d : Nat) (v : CmeSt) : (s.setCme d v).accepted = s.accepted := rfl
@[simp] theorem setCme_jobs (d : Nat) (v : CmeSt) : (s.setCme d v).jobs = s.jobs := rfl
@[simp] theorem setCme_items (d : Nat) (v : CmeSt) : (s.setCme d v).items = s.items := rfl
@[simp] theorem setCme_nextItem (d : Nat) (v : CmeSt) : (s.setCme d v).nextItem = s.nextItem := rfl
@[simp] theorem setCme_jseqs (d : Nat) (v : CmeSt) : (s.setCme d v).jseqs = s.jseqs := rfl
@[simp] theorem setCme_units (d : Nat) (v : CmeSt) : (s.setCme d v).units = s.units := rfl
@[simp] theorem setCme_groups (d : Nat) (v : CmeSt) : (s.setCme d v).groups = s.groups := rfl
@[simp] theorem setCme_vregs (d : Nat) (v : CmeSt) : (s.setCme d v).vregs = s.vregs := rfl
@[simp] theorem setCme_ls (d : Nat) (v : CmeSt) : (s.setCme d v).ls = s.ls := rfl
@[simp] theorem setCme_lsWritten (d : Nat) (v : CmeSt) : (s.setCme d v).lsWritten = s.lsWritten := rfl
@[simp] theorem setCme_cc (d : Nat) (v : CmeSt) : (s.setCme d v).cc = s.cc := rfl
@[simp] theorem setCme_fab (d : Nat) (v : CmeSt) : (s.setCme d v).fab = s.fab := rfl
@[simp] theorem setCme_seats (d : Nat) (v : CmeSt) : (s.setCme d v).seats = s.seats := rfl
@[simp] theorem setCme_well (d : Nat) (v : CmeSt) : (s.setCme d v).well = s.well := rfl
@[simp] theorem setCme_pair (d : Nat) (v : CmeSt) : (s.setCme d v).pair = s.pair := rfl
@[simp] theorem setCme_harts (d : Nat) (v : CmeSt) : (s.setCme d v).harts = s.harts := rfl
@[simp] theorem setCme_imsic (d : Nat) (v : CmeSt) : (s.setCme d v).imsic = s.imsic := rfl
@[simp] theorem setCme_dbg (d : Nat) (v : CmeSt) : (s.setCme d v).dbg = s.dbg := rfl
@[simp] theorem setCme_pwr (d : Nat) (v : CmeSt) : (s.setCme d v).pwr = s.pwr := rfl
@[simp] theorem setCme_free (d : Nat) (v : CmeSt) : (s.setCme d v).free = s.free := rfl
@[simp] theorem setCme_now (d : Nat) (v : CmeSt) : (s.setCme d v).now = s.now := rfl
@[simp] theorem setCme_outs (d : Nat) (v : CmeSt) : (s.setCme d v).outs = s.outs := rfl
@[simp] theorem setCme_pending (d : Nat) (v : CmeSt) : (s.setCme d v).pending = s.pending := rfl
@[simp] theorem setCme_reg (d : Nat) (v : CmeSt) (i : Nat) : (s.setCme d v).reg i = s.reg i := rfl
@[simp] theorem setCme_err (d : Nat) (v : CmeSt) (i : Nat) : (s.setCme d v).err i = s.err i := rfl
@[simp] theorem setCme_dst (d : Nat) (v : CmeSt) (i : Nat) : (s.setCme d v).dst i = s.dst i := rfl
@[simp] theorem setCme_byte (d : Nat) (v : CmeSt) (i : Nat) : (s.setCme d v).byte i = s.byte i := rfl
@[simp] theorem setCme_poisoned (d : Nat) (v : CmeSt) (i : Nat) : (s.setCme d v).poisoned i = s.poisoned i := rfl
@[simp] theorem setCme_irqPending (d : Nat) (v : CmeSt) (i : Nat) : (s.setCme d v).irqPending i = s.irqPending i := rfl
@[simp] theorem setCme_evcnt (d : Nat) (v : CmeSt) (i : Nat) : (s.setCme d v).evcnt i = s.evcnt i := rfl
@[simp] theorem setCme_queue (d : Nat) (v : CmeSt) (i : Nat) : (s.setCme d v).queue i = s.queue i := rfl
@[simp] theorem setCme_pdie (d : Nat) (v : CmeSt) (i : Nat) : (s.setCme d v).pdie i = s.pdie i := rfl
@[simp] theorem setCme_hart (d : Nat) (v : CmeSt) (i : Nat) : (s.setCme d v).hart i = s.hart i := rfl
@[simp] theorem setCme_dlink (d : Nat) (v : CmeSt) (i : Nat) : (s.setCme d v).dlink i = s.dlink i := rfl
@[simp] theorem setCme_cu (d : Nat) (v : CmeSt) (i : Nat) : (s.setCme d v).cu i = s.cu i := rfl
@[simp] theorem setCme_ccWay (d : Nat) (v : CmeSt) (i : Nat) : (s.setCme d v).ccWay i = s.ccWay i := rfl
@[simp] theorem setCme_scWay (d : Nat) (v : CmeSt) (i : Nat) : (s.setCme d v).scWay i = s.scWay i := rfl
@[simp] theorem setCme_nmc (d : Nat) (v : CmeSt) (i j : Nat) : (s.setCme d v).nmc i j = s.nmc i j := rfl
@[simp] theorem setCme_home (d : Nat) (v : CmeSt) (i j : Nat) : (s.setCme d v).home i j = s.home i j := rfl
@[simp] theorem setCme_mmu (d : Nat) (v : CmeSt) (i : Nat) : (s.setCme d v).mmu i = s.mmu i := rfl
@[simp] theorem setCme_job (d : Nat) (v : CmeSt) (i : Nat) : (s.setCme d v).job i = s.job i := rfl
@[simp] theorem setCme_item (d : Nat) (v : CmeSt) (i : Nat) : (s.setCme d v).item i = s.item i := rfl
@[simp] theorem setCme_grp (d : Nat) (v : CmeSt) (i j : Nat) : (s.setCme d v).grp i j = s.grp i j := rfl
@[simp] theorem setCme_vreg (d : Nat) (v : CmeSt) (i j k l : Nat) : (s.setCme d v).vreg i j k l = s.vreg i j k l := rfl
@[simp] theorem setCme_flow (d : Nat) (v : CmeSt) (i : Nat) : (s.setCme d v).flow i = s.flow i := rfl
@[simp] theorem setCme_port (d : Nat) (v : CmeSt) (i : Nat) : (s.setCme d v).port i = s.port i := rfl
@[simp] theorem setCme_seat (d : Nat) (v : CmeSt) (i j : Nat) : (s.setCme d v).seat i j = s.seat i j := rfl

/-! ### setCu -/

@[simp] theorem setCu_fuses (u : Nat) (v : CuSt) : (s.setCu u v).fuses = s.fuses := rfl
@[simp] theorem setCu_keys (u : Nat) (v : CuSt) : (s.setCu u v).keys = s.keys := rfl
@[simp] theorem setCu_pins (u : Nat) (v : CuSt) : (s.setCu u v).pins = s.pins := rfl
@[simp] theorem setCu_phase (u : Nat) (v : CuSt) : (s.setCu u v).phase = s.phase := rfl
@[simp] theorem setCu_boot (u : Nat) (v : CuSt) : (s.setCu u v).boot = s.boot := rfl
@[simp] theorem setCu_mgmt (u : Nat) (v : CuSt) : (s.setCu u v).mgmt = s.mgmt := rfl
@[simp] theorem setCu_regs (u : Nat) (v : CuSt) : (s.setCu u v).regs = s.regs := rfl
@[simp] theorem setCu_errs (u : Nat) (v : CuSt) : (s.setCu u v).errs = s.errs := rfl
@[simp] theorem setCu_dstates (u : Nat) (v : CuSt) : (s.setCu u v).dstates = s.dstates := rfl
@[simp] theorem setCu_mem (u : Nat) (v : CuSt) : (s.setCu u v).mem = s.mem := rfl
@[simp] theorem setCu_poison (u : Nat) (v : CuSt) : (s.setCu u v).poison = s.poison := rfl
@[simp] theorem setCu_sc (u : Nat) (v : CuSt) : (s.setCu u v).sc = s.sc := rfl
@[simp] theorem setCu_nmcs (u : Nat) (v : CuSt) : (s.setCu u v).nmcs = s.nmcs := rfl
@[simp] theorem setCu_fmcHeld (u : Nat) (v : CuSt) : (s.setCu u v).fmcHeld = s.fmcHeld := rfl
@[simp] theorem setCu_homes (u : Nat) (v : CuSt) : (s.setCu u v).homes = s.homes := rfl
@[simp] theorem setCu_dlinks (u : Nat) (v : CuSt) : (s.setCu u v).dlinks = s.dlinks := rfl
@[simp] theorem setCu_elog (u : Nat) (v : CuSt) : (s.setCu u v).elog = s.elog := rfl
@[simp] theorem setCu_ev (u : Nat) (v : CuSt) : (s.setCu u v).ev = s.ev := rfl
@[simp] theorem setCu_mmus (u : Nat) (v : CuSt) : (s.setCu u v).mmus = s.mmus := rfl
@[simp] theorem setCu_invs (u : Nat) (v : CuSt) : (s.setCu u v).invs = s.invs := rfl
@[simp] theorem setCu_invDone (u : Nat) (v : CuSt) : (s.setCu u v).invDone = s.invDone := rfl
@[simp] theorem setCu_sump (u : Nat) (v : CuSt) : (s.setCu u v).sump = s.sump := rfl
@[simp] theorem setCu_queues (u : Nat) (v : CuSt) : (s.setCu u v).queues = s.queues := rfl
@[simp] theorem setCu_accepted (u : Nat) (v : CuSt) : (s.setCu u v).accepted = s.accepted := rfl
@[simp] theorem setCu_jobs (u : Nat) (v : CuSt) : (s.setCu u v).jobs = s.jobs := rfl
@[simp] theorem setCu_items (u : Nat) (v : CuSt) : (s.setCu u v).items = s.items := rfl
@[simp] theorem setCu_nextItem (u : Nat) (v : CuSt) : (s.setCu u v).nextItem = s.nextItem := rfl
@[simp] theorem setCu_jseqs (u : Nat) (v : CuSt) : (s.setCu u v).jseqs = s.jseqs := rfl
@[simp] theorem setCu_groups (u : Nat) (v : CuSt) : (s.setCu u v).groups = s.groups := rfl
@[simp] theorem setCu_vregs (u : Nat) (v : CuSt) : (s.setCu u v).vregs = s.vregs := rfl
@[simp] theorem setCu_ls (u : Nat) (v : CuSt) : (s.setCu u v).ls = s.ls := rfl
@[simp] theorem setCu_lsWritten (u : Nat) (v : CuSt) : (s.setCu u v).lsWritten = s.lsWritten := rfl
@[simp] theorem setCu_cc (u : Nat) (v : CuSt) : (s.setCu u v).cc = s.cc := rfl
@[simp] theorem setCu_cmes (u : Nat) (v : CuSt) : (s.setCu u v).cmes = s.cmes := rfl
@[simp] theorem setCu_fab (u : Nat) (v : CuSt) : (s.setCu u v).fab = s.fab := rfl
@[simp] theorem setCu_seats (u : Nat) (v : CuSt) : (s.setCu u v).seats = s.seats := rfl
@[simp] theorem setCu_well (u : Nat) (v : CuSt) : (s.setCu u v).well = s.well := rfl
@[simp] theorem setCu_pair (u : Nat) (v : CuSt) : (s.setCu u v).pair = s.pair := rfl
@[simp] theorem setCu_harts (u : Nat) (v : CuSt) : (s.setCu u v).harts = s.harts := rfl
@[simp] theorem setCu_imsic (u : Nat) (v : CuSt) : (s.setCu u v).imsic = s.imsic := rfl
@[simp] theorem setCu_dbg (u : Nat) (v : CuSt) : (s.setCu u v).dbg = s.dbg := rfl
@[simp] theorem setCu_pwr (u : Nat) (v : CuSt) : (s.setCu u v).pwr = s.pwr := rfl
@[simp] theorem setCu_free (u : Nat) (v : CuSt) : (s.setCu u v).free = s.free := rfl
@[simp] theorem setCu_now (u : Nat) (v : CuSt) : (s.setCu u v).now = s.now := rfl
@[simp] theorem setCu_outs (u : Nat) (v : CuSt) : (s.setCu u v).outs = s.outs := rfl
@[simp] theorem setCu_pending (u : Nat) (v : CuSt) : (s.setCu u v).pending = s.pending := rfl
@[simp] theorem setCu_reg (u : Nat) (v : CuSt) (i : Nat) : (s.setCu u v).reg i = s.reg i := rfl
@[simp] theorem setCu_err (u : Nat) (v : CuSt) (i : Nat) : (s.setCu u v).err i = s.err i := rfl
@[simp] theorem setCu_dst (u : Nat) (v : CuSt) (i : Nat) : (s.setCu u v).dst i = s.dst i := rfl
@[simp] theorem setCu_byte (u : Nat) (v : CuSt) (i : Nat) : (s.setCu u v).byte i = s.byte i := rfl
@[simp] theorem setCu_poisoned (u : Nat) (v : CuSt) (i : Nat) : (s.setCu u v).poisoned i = s.poisoned i := rfl
@[simp] theorem setCu_irqPending (u : Nat) (v : CuSt) (i : Nat) : (s.setCu u v).irqPending i = s.irqPending i := rfl
@[simp] theorem setCu_evcnt (u : Nat) (v : CuSt) (i : Nat) : (s.setCu u v).evcnt i = s.evcnt i := rfl
@[simp] theorem setCu_queue (u : Nat) (v : CuSt) (i : Nat) : (s.setCu u v).queue i = s.queue i := rfl
@[simp] theorem setCu_pdie (u : Nat) (v : CuSt) (i : Nat) : (s.setCu u v).pdie i = s.pdie i := rfl
@[simp] theorem setCu_hart (u : Nat) (v : CuSt) (i : Nat) : (s.setCu u v).hart i = s.hart i := rfl
@[simp] theorem setCu_dlink (u : Nat) (v : CuSt) (i : Nat) : (s.setCu u v).dlink i = s.dlink i := rfl
@[simp] theorem setCu_cme (u : Nat) (v : CuSt) (i : Nat) : (s.setCu u v).cme i = s.cme i := rfl
@[simp] theorem setCu_ccWay (u : Nat) (v : CuSt) (i : Nat) : (s.setCu u v).ccWay i = s.ccWay i := rfl
@[simp] theorem setCu_scWay (u : Nat) (v : CuSt) (i : Nat) : (s.setCu u v).scWay i = s.scWay i := rfl
@[simp] theorem setCu_nmc (u : Nat) (v : CuSt) (i j : Nat) : (s.setCu u v).nmc i j = s.nmc i j := rfl
@[simp] theorem setCu_home (u : Nat) (v : CuSt) (i j : Nat) : (s.setCu u v).home i j = s.home i j := rfl
@[simp] theorem setCu_mmu (u : Nat) (v : CuSt) (i : Nat) : (s.setCu u v).mmu i = s.mmu i := rfl
@[simp] theorem setCu_job (u : Nat) (v : CuSt) (i : Nat) : (s.setCu u v).job i = s.job i := rfl
@[simp] theorem setCu_item (u : Nat) (v : CuSt) (i : Nat) : (s.setCu u v).item i = s.item i := rfl
@[simp] theorem setCu_grp (u : Nat) (v : CuSt) (i j : Nat) : (s.setCu u v).grp i j = s.grp i j := rfl
@[simp] theorem setCu_vreg (u : Nat) (v : CuSt) (i j k l : Nat) : (s.setCu u v).vreg i j k l = s.vreg i j k l := rfl
@[simp] theorem setCu_flow (u : Nat) (v : CuSt) (i : Nat) : (s.setCu u v).flow i = s.flow i := rfl
@[simp] theorem setCu_port (u : Nat) (v : CuSt) (i : Nat) : (s.setCu u v).port i = s.port i := rfl
@[simp] theorem setCu_seat (u : Nat) (v : CuSt) (i j : Nat) : (s.setCu u v).seat i j = s.seat i j := rfl

/-! ### setCcWay -/

@[simp] theorem setCcWay_fuses (w : Nat) (v : CcLine) : (s.setCcWay w v).fuses = s.fuses := rfl
@[simp] theorem setCcWay_keys (w : Nat) (v : CcLine) : (s.setCcWay w v).keys = s.keys := rfl
@[simp] theorem setCcWay_pins (w : Nat) (v : CcLine) : (s.setCcWay w v).pins = s.pins := rfl
@[simp] theorem setCcWay_phase (w : Nat) (v : CcLine) : (s.setCcWay w v).phase = s.phase := rfl
@[simp] theorem setCcWay_boot (w : Nat) (v : CcLine) : (s.setCcWay w v).boot = s.boot := rfl
@[simp] theorem setCcWay_mgmt (w : Nat) (v : CcLine) : (s.setCcWay w v).mgmt = s.mgmt := rfl
@[simp] theorem setCcWay_regs (w : Nat) (v : CcLine) : (s.setCcWay w v).regs = s.regs := rfl
@[simp] theorem setCcWay_errs (w : Nat) (v : CcLine) : (s.setCcWay w v).errs = s.errs := rfl
@[simp] theorem setCcWay_dstates (w : Nat) (v : CcLine) : (s.setCcWay w v).dstates = s.dstates := rfl
@[simp] theorem setCcWay_mem (w : Nat) (v : CcLine) : (s.setCcWay w v).mem = s.mem := rfl
@[simp] theorem setCcWay_poison (w : Nat) (v : CcLine) : (s.setCcWay w v).poison = s.poison := rfl
@[simp] theorem setCcWay_sc (w : Nat) (v : CcLine) : (s.setCcWay w v).sc = s.sc := rfl
@[simp] theorem setCcWay_nmcs (w : Nat) (v : CcLine) : (s.setCcWay w v).nmcs = s.nmcs := rfl
@[simp] theorem setCcWay_fmcHeld (w : Nat) (v : CcLine) : (s.setCcWay w v).fmcHeld = s.fmcHeld := rfl
@[simp] theorem setCcWay_homes (w : Nat) (v : CcLine) : (s.setCcWay w v).homes = s.homes := rfl
@[simp] theorem setCcWay_dlinks (w : Nat) (v : CcLine) : (s.setCcWay w v).dlinks = s.dlinks := rfl
@[simp] theorem setCcWay_elog (w : Nat) (v : CcLine) : (s.setCcWay w v).elog = s.elog := rfl
@[simp] theorem setCcWay_ev (w : Nat) (v : CcLine) : (s.setCcWay w v).ev = s.ev := rfl
@[simp] theorem setCcWay_mmus (w : Nat) (v : CcLine) : (s.setCcWay w v).mmus = s.mmus := rfl
@[simp] theorem setCcWay_invs (w : Nat) (v : CcLine) : (s.setCcWay w v).invs = s.invs := rfl
@[simp] theorem setCcWay_invDone (w : Nat) (v : CcLine) : (s.setCcWay w v).invDone = s.invDone := rfl
@[simp] theorem setCcWay_sump (w : Nat) (v : CcLine) : (s.setCcWay w v).sump = s.sump := rfl
@[simp] theorem setCcWay_queues (w : Nat) (v : CcLine) : (s.setCcWay w v).queues = s.queues := rfl
@[simp] theorem setCcWay_accepted (w : Nat) (v : CcLine) : (s.setCcWay w v).accepted = s.accepted := rfl
@[simp] theorem setCcWay_jobs (w : Nat) (v : CcLine) : (s.setCcWay w v).jobs = s.jobs := rfl
@[simp] theorem setCcWay_items (w : Nat) (v : CcLine) : (s.setCcWay w v).items = s.items := rfl
@[simp] theorem setCcWay_nextItem (w : Nat) (v : CcLine) : (s.setCcWay w v).nextItem = s.nextItem := rfl
@[simp] theorem setCcWay_jseqs (w : Nat) (v : CcLine) : (s.setCcWay w v).jseqs = s.jseqs := rfl
@[simp] theorem setCcWay_units (w : Nat) (v : CcLine) : (s.setCcWay w v).units = s.units := rfl
@[simp] theorem setCcWay_groups (w : Nat) (v : CcLine) : (s.setCcWay w v).groups = s.groups := rfl
@[simp] theorem setCcWay_vregs (w : Nat) (v : CcLine) : (s.setCcWay w v).vregs = s.vregs := rfl
@[simp] theorem setCcWay_ls (w : Nat) (v : CcLine) : (s.setCcWay w v).ls = s.ls := rfl
@[simp] theorem setCcWay_lsWritten (w : Nat) (v : CcLine) : (s.setCcWay w v).lsWritten = s.lsWritten := rfl
@[simp] theorem setCcWay_cmes (w : Nat) (v : CcLine) : (s.setCcWay w v).cmes = s.cmes := rfl
@[simp] theorem setCcWay_fab (w : Nat) (v : CcLine) : (s.setCcWay w v).fab = s.fab := rfl
@[simp] theorem setCcWay_seats (w : Nat) (v : CcLine) : (s.setCcWay w v).seats = s.seats := rfl
@[simp] theorem setCcWay_well (w : Nat) (v : CcLine) : (s.setCcWay w v).well = s.well := rfl
@[simp] theorem setCcWay_pair (w : Nat) (v : CcLine) : (s.setCcWay w v).pair = s.pair := rfl
@[simp] theorem setCcWay_harts (w : Nat) (v : CcLine) : (s.setCcWay w v).harts = s.harts := rfl
@[simp] theorem setCcWay_imsic (w : Nat) (v : CcLine) : (s.setCcWay w v).imsic = s.imsic := rfl
@[simp] theorem setCcWay_dbg (w : Nat) (v : CcLine) : (s.setCcWay w v).dbg = s.dbg := rfl
@[simp] theorem setCcWay_pwr (w : Nat) (v : CcLine) : (s.setCcWay w v).pwr = s.pwr := rfl
@[simp] theorem setCcWay_free (w : Nat) (v : CcLine) : (s.setCcWay w v).free = s.free := rfl
@[simp] theorem setCcWay_now (w : Nat) (v : CcLine) : (s.setCcWay w v).now = s.now := rfl
@[simp] theorem setCcWay_outs (w : Nat) (v : CcLine) : (s.setCcWay w v).outs = s.outs := rfl
@[simp] theorem setCcWay_pending (w : Nat) (v : CcLine) : (s.setCcWay w v).pending = s.pending := rfl
@[simp] theorem setCcWay_reg (w : Nat) (v : CcLine) (i : Nat) : (s.setCcWay w v).reg i = s.reg i := rfl
@[simp] theorem setCcWay_err (w : Nat) (v : CcLine) (i : Nat) : (s.setCcWay w v).err i = s.err i := rfl
@[simp] theorem setCcWay_dst (w : Nat) (v : CcLine) (i : Nat) : (s.setCcWay w v).dst i = s.dst i := rfl
@[simp] theorem setCcWay_byte (w : Nat) (v : CcLine) (i : Nat) : (s.setCcWay w v).byte i = s.byte i := rfl
@[simp] theorem setCcWay_poisoned (w : Nat) (v : CcLine) (i : Nat) : (s.setCcWay w v).poisoned i = s.poisoned i := rfl
@[simp] theorem setCcWay_irqPending (w : Nat) (v : CcLine) (i : Nat) : (s.setCcWay w v).irqPending i = s.irqPending i := rfl
@[simp] theorem setCcWay_evcnt (w : Nat) (v : CcLine) (i : Nat) : (s.setCcWay w v).evcnt i = s.evcnt i := rfl
@[simp] theorem setCcWay_queue (w : Nat) (v : CcLine) (i : Nat) : (s.setCcWay w v).queue i = s.queue i := rfl
@[simp] theorem setCcWay_pdie (w : Nat) (v : CcLine) (i : Nat) : (s.setCcWay w v).pdie i = s.pdie i := rfl
@[simp] theorem setCcWay_hart (w : Nat) (v : CcLine) (i : Nat) : (s.setCcWay w v).hart i = s.hart i := rfl
@[simp] theorem setCcWay_dlink (w : Nat) (v : CcLine) (i : Nat) : (s.setCcWay w v).dlink i = s.dlink i := rfl
@[simp] theorem setCcWay_cme (w : Nat) (v : CcLine) (i : Nat) : (s.setCcWay w v).cme i = s.cme i := rfl
@[simp] theorem setCcWay_cu (w : Nat) (v : CcLine) (i : Nat) : (s.setCcWay w v).cu i = s.cu i := rfl
@[simp] theorem setCcWay_scWay (w : Nat) (v : CcLine) (i : Nat) : (s.setCcWay w v).scWay i = s.scWay i := rfl
@[simp] theorem setCcWay_nmc (w : Nat) (v : CcLine) (i j : Nat) : (s.setCcWay w v).nmc i j = s.nmc i j := rfl
@[simp] theorem setCcWay_home (w : Nat) (v : CcLine) (i j : Nat) : (s.setCcWay w v).home i j = s.home i j := rfl
@[simp] theorem setCcWay_mmu (w : Nat) (v : CcLine) (i : Nat) : (s.setCcWay w v).mmu i = s.mmu i := rfl
@[simp] theorem setCcWay_job (w : Nat) (v : CcLine) (i : Nat) : (s.setCcWay w v).job i = s.job i := rfl
@[simp] theorem setCcWay_item (w : Nat) (v : CcLine) (i : Nat) : (s.setCcWay w v).item i = s.item i := rfl
@[simp] theorem setCcWay_grp (w : Nat) (v : CcLine) (i j : Nat) : (s.setCcWay w v).grp i j = s.grp i j := rfl
@[simp] theorem setCcWay_vreg (w : Nat) (v : CcLine) (i j k l : Nat) : (s.setCcWay w v).vreg i j k l = s.vreg i j k l := rfl
@[simp] theorem setCcWay_flow (w : Nat) (v : CcLine) (i : Nat) : (s.setCcWay w v).flow i = s.flow i := rfl
@[simp] theorem setCcWay_port (w : Nat) (v : CcLine) (i : Nat) : (s.setCcWay w v).port i = s.port i := rfl
@[simp] theorem setCcWay_seat (w : Nat) (v : CcLine) (i j : Nat) : (s.setCcWay w v).seat i j = s.seat i j := rfl

/-! ### setScWay -/

@[simp] theorem setScWay_fuses (w : Nat) (v : ScLine) : (s.setScWay w v).fuses = s.fuses := rfl
@[simp] theorem setScWay_keys (w : Nat) (v : ScLine) : (s.setScWay w v).keys = s.keys := rfl
@[simp] theorem setScWay_pins (w : Nat) (v : ScLine) : (s.setScWay w v).pins = s.pins := rfl
@[simp] theorem setScWay_phase (w : Nat) (v : ScLine) : (s.setScWay w v).phase = s.phase := rfl
@[simp] theorem setScWay_boot (w : Nat) (v : ScLine) : (s.setScWay w v).boot = s.boot := rfl
@[simp] theorem setScWay_mgmt (w : Nat) (v : ScLine) : (s.setScWay w v).mgmt = s.mgmt := rfl
@[simp] theorem setScWay_regs (w : Nat) (v : ScLine) : (s.setScWay w v).regs = s.regs := rfl
@[simp] theorem setScWay_errs (w : Nat) (v : ScLine) : (s.setScWay w v).errs = s.errs := rfl
@[simp] theorem setScWay_dstates (w : Nat) (v : ScLine) : (s.setScWay w v).dstates = s.dstates := rfl
@[simp] theorem setScWay_mem (w : Nat) (v : ScLine) : (s.setScWay w v).mem = s.mem := rfl
@[simp] theorem setScWay_poison (w : Nat) (v : ScLine) : (s.setScWay w v).poison = s.poison := rfl
@[simp] theorem setScWay_nmcs (w : Nat) (v : ScLine) : (s.setScWay w v).nmcs = s.nmcs := rfl
@[simp] theorem setScWay_fmcHeld (w : Nat) (v : ScLine) : (s.setScWay w v).fmcHeld = s.fmcHeld := rfl
@[simp] theorem setScWay_homes (w : Nat) (v : ScLine) : (s.setScWay w v).homes = s.homes := rfl
@[simp] theorem setScWay_dlinks (w : Nat) (v : ScLine) : (s.setScWay w v).dlinks = s.dlinks := rfl
@[simp] theorem setScWay_elog (w : Nat) (v : ScLine) : (s.setScWay w v).elog = s.elog := rfl
@[simp] theorem setScWay_ev (w : Nat) (v : ScLine) : (s.setScWay w v).ev = s.ev := rfl
@[simp] theorem setScWay_mmus (w : Nat) (v : ScLine) : (s.setScWay w v).mmus = s.mmus := rfl
@[simp] theorem setScWay_invs (w : Nat) (v : ScLine) : (s.setScWay w v).invs = s.invs := rfl
@[simp] theorem setScWay_invDone (w : Nat) (v : ScLine) : (s.setScWay w v).invDone = s.invDone := rfl
@[simp] theorem setScWay_sump (w : Nat) (v : ScLine) : (s.setScWay w v).sump = s.sump := rfl
@[simp] theorem setScWay_queues (w : Nat) (v : ScLine) : (s.setScWay w v).queues = s.queues := rfl
@[simp] theorem setScWay_accepted (w : Nat) (v : ScLine) : (s.setScWay w v).accepted = s.accepted := rfl
@[simp] theorem setScWay_jobs (w : Nat) (v : ScLine) : (s.setScWay w v).jobs = s.jobs := rfl
@[simp] theorem setScWay_items (w : Nat) (v : ScLine) : (s.setScWay w v).items = s.items := rfl
@[simp] theorem setScWay_nextItem (w : Nat) (v : ScLine) : (s.setScWay w v).nextItem = s.nextItem := rfl
@[simp] theorem setScWay_jseqs (w : Nat) (v : ScLine) : (s.setScWay w v).jseqs = s.jseqs := rfl
@[simp] theorem setScWay_units (w : Nat) (v : ScLine) : (s.setScWay w v).units = s.units := rfl
@[simp] theorem setScWay_groups (w : Nat) (v : ScLine) : (s.setScWay w v).groups = s.groups := rfl
@[simp] theorem setScWay_vregs (w : Nat) (v : ScLine) : (s.setScWay w v).vregs = s.vregs := rfl
@[simp] theorem setScWay_ls (w : Nat) (v : ScLine) : (s.setScWay w v).ls = s.ls := rfl
@[simp] theorem setScWay_lsWritten (w : Nat) (v : ScLine) : (s.setScWay w v).lsWritten = s.lsWritten := rfl
@[simp] theorem setScWay_cc (w : Nat) (v : ScLine) : (s.setScWay w v).cc = s.cc := rfl
@[simp] theorem setScWay_cmes (w : Nat) (v : ScLine) : (s.setScWay w v).cmes = s.cmes := rfl
@[simp] theorem setScWay_fab (w : Nat) (v : ScLine) : (s.setScWay w v).fab = s.fab := rfl
@[simp] theorem setScWay_seats (w : Nat) (v : ScLine) : (s.setScWay w v).seats = s.seats := rfl
@[simp] theorem setScWay_well (w : Nat) (v : ScLine) : (s.setScWay w v).well = s.well := rfl
@[simp] theorem setScWay_pair (w : Nat) (v : ScLine) : (s.setScWay w v).pair = s.pair := rfl
@[simp] theorem setScWay_harts (w : Nat) (v : ScLine) : (s.setScWay w v).harts = s.harts := rfl
@[simp] theorem setScWay_imsic (w : Nat) (v : ScLine) : (s.setScWay w v).imsic = s.imsic := rfl
@[simp] theorem setScWay_dbg (w : Nat) (v : ScLine) : (s.setScWay w v).dbg = s.dbg := rfl
@[simp] theorem setScWay_pwr (w : Nat) (v : ScLine) : (s.setScWay w v).pwr = s.pwr := rfl
@[simp] theorem setScWay_free (w : Nat) (v : ScLine) : (s.setScWay w v).free = s.free := rfl
@[simp] theorem setScWay_now (w : Nat) (v : ScLine) : (s.setScWay w v).now = s.now := rfl
@[simp] theorem setScWay_outs (w : Nat) (v : ScLine) : (s.setScWay w v).outs = s.outs := rfl
@[simp] theorem setScWay_pending (w : Nat) (v : ScLine) : (s.setScWay w v).pending = s.pending := rfl
@[simp] theorem setScWay_reg (w : Nat) (v : ScLine) (i : Nat) : (s.setScWay w v).reg i = s.reg i := rfl
@[simp] theorem setScWay_err (w : Nat) (v : ScLine) (i : Nat) : (s.setScWay w v).err i = s.err i := rfl
@[simp] theorem setScWay_dst (w : Nat) (v : ScLine) (i : Nat) : (s.setScWay w v).dst i = s.dst i := rfl
@[simp] theorem setScWay_byte (w : Nat) (v : ScLine) (i : Nat) : (s.setScWay w v).byte i = s.byte i := rfl
@[simp] theorem setScWay_poisoned (w : Nat) (v : ScLine) (i : Nat) : (s.setScWay w v).poisoned i = s.poisoned i := rfl
@[simp] theorem setScWay_irqPending (w : Nat) (v : ScLine) (i : Nat) : (s.setScWay w v).irqPending i = s.irqPending i := rfl
@[simp] theorem setScWay_evcnt (w : Nat) (v : ScLine) (i : Nat) : (s.setScWay w v).evcnt i = s.evcnt i := rfl
@[simp] theorem setScWay_queue (w : Nat) (v : ScLine) (i : Nat) : (s.setScWay w v).queue i = s.queue i := rfl
@[simp] theorem setScWay_pdie (w : Nat) (v : ScLine) (i : Nat) : (s.setScWay w v).pdie i = s.pdie i := rfl
@[simp] theorem setScWay_hart (w : Nat) (v : ScLine) (i : Nat) : (s.setScWay w v).hart i = s.hart i := rfl
@[simp] theorem setScWay_dlink (w : Nat) (v : ScLine) (i : Nat) : (s.setScWay w v).dlink i = s.dlink i := rfl
@[simp] theorem setScWay_cme (w : Nat) (v : ScLine) (i : Nat) : (s.setScWay w v).cme i = s.cme i := rfl
@[simp] theorem setScWay_cu (w : Nat) (v : ScLine) (i : Nat) : (s.setScWay w v).cu i = s.cu i := rfl
@[simp] theorem setScWay_ccWay (w : Nat) (v : ScLine) (i : Nat) : (s.setScWay w v).ccWay i = s.ccWay i := rfl
@[simp] theorem setScWay_nmc (w : Nat) (v : ScLine) (i j : Nat) : (s.setScWay w v).nmc i j = s.nmc i j := rfl
@[simp] theorem setScWay_home (w : Nat) (v : ScLine) (i j : Nat) : (s.setScWay w v).home i j = s.home i j := rfl
@[simp] theorem setScWay_mmu (w : Nat) (v : ScLine) (i : Nat) : (s.setScWay w v).mmu i = s.mmu i := rfl
@[simp] theorem setScWay_job (w : Nat) (v : ScLine) (i : Nat) : (s.setScWay w v).job i = s.job i := rfl
@[simp] theorem setScWay_item (w : Nat) (v : ScLine) (i : Nat) : (s.setScWay w v).item i = s.item i := rfl
@[simp] theorem setScWay_grp (w : Nat) (v : ScLine) (i j : Nat) : (s.setScWay w v).grp i j = s.grp i j := rfl
@[simp] theorem setScWay_vreg (w : Nat) (v : ScLine) (i j k l : Nat) : (s.setScWay w v).vreg i j k l = s.vreg i j k l := rfl
@[simp] theorem setScWay_flow (w : Nat) (v : ScLine) (i : Nat) : (s.setScWay w v).flow i = s.flow i := rfl
@[simp] theorem setScWay_port (w : Nat) (v : ScLine) (i : Nat) : (s.setScWay w v).port i = s.port i := rfl
@[simp] theorem setScWay_seat (w : Nat) (v : ScLine) (i j : Nat) : (s.setScWay w v).seat i j = s.seat i j := rfl

/-! ### setNmc -/

@[simp] theorem setNmc_fuses (d c : Nat) (v : NmcSt) : (s.setNmc d c v).fuses = s.fuses := rfl
@[simp] theorem setNmc_keys (d c : Nat) (v : NmcSt) : (s.setNmc d c v).keys = s.keys := rfl
@[simp] theorem setNmc_pins (d c : Nat) (v : NmcSt) : (s.setNmc d c v).pins = s.pins := rfl
@[simp] theorem setNmc_phase (d c : Nat) (v : NmcSt) : (s.setNmc d c v).phase = s.phase := rfl
@[simp] theorem setNmc_boot (d c : Nat) (v : NmcSt) : (s.setNmc d c v).boot = s.boot := rfl
@[simp] theorem setNmc_mgmt (d c : Nat) (v : NmcSt) : (s.setNmc d c v).mgmt = s.mgmt := rfl
@[simp] theorem setNmc_regs (d c : Nat) (v : NmcSt) : (s.setNmc d c v).regs = s.regs := rfl
@[simp] theorem setNmc_errs (d c : Nat) (v : NmcSt) : (s.setNmc d c v).errs = s.errs := rfl
@[simp] theorem setNmc_dstates (d c : Nat) (v : NmcSt) : (s.setNmc d c v).dstates = s.dstates := rfl
@[simp] theorem setNmc_mem (d c : Nat) (v : NmcSt) : (s.setNmc d c v).mem = s.mem := rfl
@[simp] theorem setNmc_poison (d c : Nat) (v : NmcSt) : (s.setNmc d c v).poison = s.poison := rfl
@[simp] theorem setNmc_sc (d c : Nat) (v : NmcSt) : (s.setNmc d c v).sc = s.sc := rfl
@[simp] theorem setNmc_fmcHeld (d c : Nat) (v : NmcSt) : (s.setNmc d c v).fmcHeld = s.fmcHeld := rfl
@[simp] theorem setNmc_homes (d c : Nat) (v : NmcSt) : (s.setNmc d c v).homes = s.homes := rfl
@[simp] theorem setNmc_dlinks (d c : Nat) (v : NmcSt) : (s.setNmc d c v).dlinks = s.dlinks := rfl
@[simp] theorem setNmc_elog (d c : Nat) (v : NmcSt) : (s.setNmc d c v).elog = s.elog := rfl
@[simp] theorem setNmc_ev (d c : Nat) (v : NmcSt) : (s.setNmc d c v).ev = s.ev := rfl
@[simp] theorem setNmc_mmus (d c : Nat) (v : NmcSt) : (s.setNmc d c v).mmus = s.mmus := rfl
@[simp] theorem setNmc_invs (d c : Nat) (v : NmcSt) : (s.setNmc d c v).invs = s.invs := rfl
@[simp] theorem setNmc_invDone (d c : Nat) (v : NmcSt) : (s.setNmc d c v).invDone = s.invDone := rfl
@[simp] theorem setNmc_sump (d c : Nat) (v : NmcSt) : (s.setNmc d c v).sump = s.sump := rfl
@[simp] theorem setNmc_queues (d c : Nat) (v : NmcSt) : (s.setNmc d c v).queues = s.queues := rfl
@[simp] theorem setNmc_accepted (d c : Nat) (v : NmcSt) : (s.setNmc d c v).accepted = s.accepted := rfl
@[simp] theorem setNmc_jobs (d c : Nat) (v : NmcSt) : (s.setNmc d c v).jobs = s.jobs := rfl
@[simp] theorem setNmc_items (d c : Nat) (v : NmcSt) : (s.setNmc d c v).items = s.items := rfl
@[simp] theorem setNmc_nextItem (d c : Nat) (v : NmcSt) : (s.setNmc d c v).nextItem = s.nextItem := rfl
@[simp] theorem setNmc_jseqs (d c : Nat) (v : NmcSt) : (s.setNmc d c v).jseqs = s.jseqs := rfl
@[simp] theorem setNmc_units (d c : Nat) (v : NmcSt) : (s.setNmc d c v).units = s.units := rfl
@[simp] theorem setNmc_groups (d c : Nat) (v : NmcSt) : (s.setNmc d c v).groups = s.groups := rfl
@[simp] theorem setNmc_vregs (d c : Nat) (v : NmcSt) : (s.setNmc d c v).vregs = s.vregs := rfl
@[simp] theorem setNmc_ls (d c : Nat) (v : NmcSt) : (s.setNmc d c v).ls = s.ls := rfl
@[simp] theorem setNmc_lsWritten (d c : Nat) (v : NmcSt) : (s.setNmc d c v).lsWritten = s.lsWritten := rfl
@[simp] theorem setNmc_cc (d c : Nat) (v : NmcSt) : (s.setNmc d c v).cc = s.cc := rfl
@[simp] theorem setNmc_cmes (d c : Nat) (v : NmcSt) : (s.setNmc d c v).cmes = s.cmes := rfl
@[simp] theorem setNmc_fab (d c : Nat) (v : NmcSt) : (s.setNmc d c v).fab = s.fab := rfl
@[simp] theorem setNmc_seats (d c : Nat) (v : NmcSt) : (s.setNmc d c v).seats = s.seats := rfl
@[simp] theorem setNmc_well (d c : Nat) (v : NmcSt) : (s.setNmc d c v).well = s.well := rfl
@[simp] theorem setNmc_pair (d c : Nat) (v : NmcSt) : (s.setNmc d c v).pair = s.pair := rfl
@[simp] theorem setNmc_harts (d c : Nat) (v : NmcSt) : (s.setNmc d c v).harts = s.harts := rfl
@[simp] theorem setNmc_imsic (d c : Nat) (v : NmcSt) : (s.setNmc d c v).imsic = s.imsic := rfl
@[simp] theorem setNmc_dbg (d c : Nat) (v : NmcSt) : (s.setNmc d c v).dbg = s.dbg := rfl
@[simp] theorem setNmc_pwr (d c : Nat) (v : NmcSt) : (s.setNmc d c v).pwr = s.pwr := rfl
@[simp] theorem setNmc_free (d c : Nat) (v : NmcSt) : (s.setNmc d c v).free = s.free := rfl
@[simp] theorem setNmc_now (d c : Nat) (v : NmcSt) : (s.setNmc d c v).now = s.now := rfl
@[simp] theorem setNmc_outs (d c : Nat) (v : NmcSt) : (s.setNmc d c v).outs = s.outs := rfl
@[simp] theorem setNmc_pending (d c : Nat) (v : NmcSt) : (s.setNmc d c v).pending = s.pending := rfl
@[simp] theorem setNmc_reg (d c : Nat) (v : NmcSt) (i : Nat) : (s.setNmc d c v).reg i = s.reg i := rfl
@[simp] theorem setNmc_err (d c : Nat) (v : NmcSt) (i : Nat) : (s.setNmc d c v).err i = s.err i := rfl
@[simp] theorem setNmc_dst (d c : Nat) (v : NmcSt) (i : Nat) : (s.setNmc d c v).dst i = s.dst i := rfl
@[simp] theorem setNmc_byte (d c : Nat) (v : NmcSt) (i : Nat) : (s.setNmc d c v).byte i = s.byte i := rfl
@[simp] theorem setNmc_poisoned (d c : Nat) (v : NmcSt) (i : Nat) : (s.setNmc d c v).poisoned i = s.poisoned i := rfl
@[simp] theorem setNmc_irqPending (d c : Nat) (v : NmcSt) (i : Nat) : (s.setNmc d c v).irqPending i = s.irqPending i := rfl
@[simp] theorem setNmc_evcnt (d c : Nat) (v : NmcSt) (i : Nat) : (s.setNmc d c v).evcnt i = s.evcnt i := rfl
@[simp] theorem setNmc_queue (d c : Nat) (v : NmcSt) (i : Nat) : (s.setNmc d c v).queue i = s.queue i := rfl
@[simp] theorem setNmc_pdie (d c : Nat) (v : NmcSt) (i : Nat) : (s.setNmc d c v).pdie i = s.pdie i := rfl
@[simp] theorem setNmc_hart (d c : Nat) (v : NmcSt) (i : Nat) : (s.setNmc d c v).hart i = s.hart i := rfl
@[simp] theorem setNmc_dlink (d c : Nat) (v : NmcSt) (i : Nat) : (s.setNmc d c v).dlink i = s.dlink i := rfl
@[simp] theorem setNmc_cme (d c : Nat) (v : NmcSt) (i : Nat) : (s.setNmc d c v).cme i = s.cme i := rfl
@[simp] theorem setNmc_cu (d c : Nat) (v : NmcSt) (i : Nat) : (s.setNmc d c v).cu i = s.cu i := rfl
@[simp] theorem setNmc_ccWay (d c : Nat) (v : NmcSt) (i : Nat) : (s.setNmc d c v).ccWay i = s.ccWay i := rfl
@[simp] theorem setNmc_scWay (d c : Nat) (v : NmcSt) (i : Nat) : (s.setNmc d c v).scWay i = s.scWay i := rfl
@[simp] theorem setNmc_home (d c : Nat) (v : NmcSt) (i j : Nat) : (s.setNmc d c v).home i j = s.home i j := rfl
@[simp] theorem setNmc_mmu (d c : Nat) (v : NmcSt) (i : Nat) : (s.setNmc d c v).mmu i = s.mmu i := rfl
@[simp] theorem setNmc_job (d c : Nat) (v : NmcSt) (i : Nat) : (s.setNmc d c v).job i = s.job i := rfl
@[simp] theorem setNmc_item (d c : Nat) (v : NmcSt) (i : Nat) : (s.setNmc d c v).item i = s.item i := rfl
@[simp] theorem setNmc_grp (d c : Nat) (v : NmcSt) (i j : Nat) : (s.setNmc d c v).grp i j = s.grp i j := rfl
@[simp] theorem setNmc_vreg (d c : Nat) (v : NmcSt) (i j k l : Nat) : (s.setNmc d c v).vreg i j k l = s.vreg i j k l := rfl
@[simp] theorem setNmc_flow (d c : Nat) (v : NmcSt) (i : Nat) : (s.setNmc d c v).flow i = s.flow i := rfl
@[simp] theorem setNmc_port (d c : Nat) (v : NmcSt) (i : Nat) : (s.setNmc d c v).port i = s.port i := rfl
@[simp] theorem setNmc_seat (d c : Nat) (v : NmcSt) (i j : Nat) : (s.setNmc d c v).seat i j = s.seat i j := rfl

/-! ### setHome -/

@[simp] theorem setHome_fuses (d h : Nat) (v : HomeSt) : (s.setHome d h v).fuses = s.fuses := rfl
@[simp] theorem setHome_keys (d h : Nat) (v : HomeSt) : (s.setHome d h v).keys = s.keys := rfl
@[simp] theorem setHome_pins (d h : Nat) (v : HomeSt) : (s.setHome d h v).pins = s.pins := rfl
@[simp] theorem setHome_phase (d h : Nat) (v : HomeSt) : (s.setHome d h v).phase = s.phase := rfl
@[simp] theorem setHome_boot (d h : Nat) (v : HomeSt) : (s.setHome d h v).boot = s.boot := rfl
@[simp] theorem setHome_mgmt (d h : Nat) (v : HomeSt) : (s.setHome d h v).mgmt = s.mgmt := rfl
@[simp] theorem setHome_regs (d h : Nat) (v : HomeSt) : (s.setHome d h v).regs = s.regs := rfl
@[simp] theorem setHome_errs (d h : Nat) (v : HomeSt) : (s.setHome d h v).errs = s.errs := rfl
@[simp] theorem setHome_dstates (d h : Nat) (v : HomeSt) : (s.setHome d h v).dstates = s.dstates := rfl
@[simp] theorem setHome_mem (d h : Nat) (v : HomeSt) : (s.setHome d h v).mem = s.mem := rfl
@[simp] theorem setHome_poison (d h : Nat) (v : HomeSt) : (s.setHome d h v).poison = s.poison := rfl
@[simp] theorem setHome_sc (d h : Nat) (v : HomeSt) : (s.setHome d h v).sc = s.sc := rfl
@[simp] theorem setHome_nmcs (d h : Nat) (v : HomeSt) : (s.setHome d h v).nmcs = s.nmcs := rfl
@[simp] theorem setHome_fmcHeld (d h : Nat) (v : HomeSt) : (s.setHome d h v).fmcHeld = s.fmcHeld := rfl
@[simp] theorem setHome_dlinks (d h : Nat) (v : HomeSt) : (s.setHome d h v).dlinks = s.dlinks := rfl
@[simp] theorem setHome_elog (d h : Nat) (v : HomeSt) : (s.setHome d h v).elog = s.elog := rfl
@[simp] theorem setHome_ev (d h : Nat) (v : HomeSt) : (s.setHome d h v).ev = s.ev := rfl
@[simp] theorem setHome_mmus (d h : Nat) (v : HomeSt) : (s.setHome d h v).mmus = s.mmus := rfl
@[simp] theorem setHome_invs (d h : Nat) (v : HomeSt) : (s.setHome d h v).invs = s.invs := rfl
@[simp] theorem setHome_invDone (d h : Nat) (v : HomeSt) : (s.setHome d h v).invDone = s.invDone := rfl
@[simp] theorem setHome_sump (d h : Nat) (v : HomeSt) : (s.setHome d h v).sump = s.sump := rfl
@[simp] theorem setHome_queues (d h : Nat) (v : HomeSt) : (s.setHome d h v).queues = s.queues := rfl
@[simp] theorem setHome_accepted (d h : Nat) (v : HomeSt) : (s.setHome d h v).accepted = s.accepted := rfl
@[simp] theorem setHome_jobs (d h : Nat) (v : HomeSt) : (s.setHome d h v).jobs = s.jobs := rfl
@[simp] theorem setHome_items (d h : Nat) (v : HomeSt) : (s.setHome d h v).items = s.items := rfl
@[simp] theorem setHome_nextItem (d h : Nat) (v : HomeSt) : (s.setHome d h v).nextItem = s.nextItem := rfl
@[simp] theorem setHome_jseqs (d h : Nat) (v : HomeSt) : (s.setHome d h v).jseqs = s.jseqs := rfl
@[simp] theorem setHome_units (d h : Nat) (v : HomeSt) : (s.setHome d h v).units = s.units := rfl
@[simp] theorem setHome_groups (d h : Nat) (v : HomeSt) : (s.setHome d h v).groups = s.groups := rfl
@[simp] theorem setHome_vregs (d h : Nat) (v : HomeSt) : (s.setHome d h v).vregs = s.vregs := rfl
@[simp] theorem setHome_ls (d h : Nat) (v : HomeSt) : (s.setHome d h v).ls = s.ls := rfl
@[simp] theorem setHome_lsWritten (d h : Nat) (v : HomeSt) : (s.setHome d h v).lsWritten = s.lsWritten := rfl
@[simp] theorem setHome_cc (d h : Nat) (v : HomeSt) : (s.setHome d h v).cc = s.cc := rfl
@[simp] theorem setHome_cmes (d h : Nat) (v : HomeSt) : (s.setHome d h v).cmes = s.cmes := rfl
@[simp] theorem setHome_fab (d h : Nat) (v : HomeSt) : (s.setHome d h v).fab = s.fab := rfl
@[simp] theorem setHome_seats (d h : Nat) (v : HomeSt) : (s.setHome d h v).seats = s.seats := rfl
@[simp] theorem setHome_well (d h : Nat) (v : HomeSt) : (s.setHome d h v).well = s.well := rfl
@[simp] theorem setHome_pair (d h : Nat) (v : HomeSt) : (s.setHome d h v).pair = s.pair := rfl
@[simp] theorem setHome_harts (d h : Nat) (v : HomeSt) : (s.setHome d h v).harts = s.harts := rfl
@[simp] theorem setHome_imsic (d h : Nat) (v : HomeSt) : (s.setHome d h v).imsic = s.imsic := rfl
@[simp] theorem setHome_dbg (d h : Nat) (v : HomeSt) : (s.setHome d h v).dbg = s.dbg := rfl
@[simp] theorem setHome_pwr (d h : Nat) (v : HomeSt) : (s.setHome d h v).pwr = s.pwr := rfl
@[simp] theorem setHome_free (d h : Nat) (v : HomeSt) : (s.setHome d h v).free = s.free := rfl
@[simp] theorem setHome_now (d h : Nat) (v : HomeSt) : (s.setHome d h v).now = s.now := rfl
@[simp] theorem setHome_outs (d h : Nat) (v : HomeSt) : (s.setHome d h v).outs = s.outs := rfl
@[simp] theorem setHome_pending (d h : Nat) (v : HomeSt) : (s.setHome d h v).pending = s.pending := rfl
@[simp] theorem setHome_reg (d h : Nat) (v : HomeSt) (i : Nat) : (s.setHome d h v).reg i = s.reg i := rfl
@[simp] theorem setHome_err (d h : Nat) (v : HomeSt) (i : Nat) : (s.setHome d h v).err i = s.err i := rfl
@[simp] theorem setHome_dst (d h : Nat) (v : HomeSt) (i : Nat) : (s.setHome d h v).dst i = s.dst i := rfl
@[simp] theorem setHome_byte (d h : Nat) (v : HomeSt) (i : Nat) : (s.setHome d h v).byte i = s.byte i := rfl
@[simp] theorem setHome_poisoned (d h : Nat) (v : HomeSt) (i : Nat) : (s.setHome d h v).poisoned i = s.poisoned i := rfl
@[simp] theorem setHome_irqPending (d h : Nat) (v : HomeSt) (i : Nat) : (s.setHome d h v).irqPending i = s.irqPending i := rfl
@[simp] theorem setHome_evcnt (d h : Nat) (v : HomeSt) (i : Nat) : (s.setHome d h v).evcnt i = s.evcnt i := rfl
@[simp] theorem setHome_queue (d h : Nat) (v : HomeSt) (i : Nat) : (s.setHome d h v).queue i = s.queue i := rfl
@[simp] theorem setHome_pdie (d h : Nat) (v : HomeSt) (i : Nat) : (s.setHome d h v).pdie i = s.pdie i := rfl
@[simp] theorem setHome_hart (d h : Nat) (v : HomeSt) (i : Nat) : (s.setHome d h v).hart i = s.hart i := rfl
@[simp] theorem setHome_dlink (d h : Nat) (v : HomeSt) (i : Nat) : (s.setHome d h v).dlink i = s.dlink i := rfl
@[simp] theorem setHome_cme (d h : Nat) (v : HomeSt) (i : Nat) : (s.setHome d h v).cme i = s.cme i := rfl
@[simp] theorem setHome_cu (d h : Nat) (v : HomeSt) (i : Nat) : (s.setHome d h v).cu i = s.cu i := rfl
@[simp] theorem setHome_ccWay (d h : Nat) (v : HomeSt) (i : Nat) : (s.setHome d h v).ccWay i = s.ccWay i := rfl
@[simp] theorem setHome_scWay (d h : Nat) (v : HomeSt) (i : Nat) : (s.setHome d h v).scWay i = s.scWay i := rfl
@[simp] theorem setHome_nmc (d h : Nat) (v : HomeSt) (i j : Nat) : (s.setHome d h v).nmc i j = s.nmc i j := rfl
@[simp] theorem setHome_mmu (d h : Nat) (v : HomeSt) (i : Nat) : (s.setHome d h v).mmu i = s.mmu i := rfl
@[simp] theorem setHome_job (d h : Nat) (v : HomeSt) (i : Nat) : (s.setHome d h v).job i = s.job i := rfl
@[simp] theorem setHome_item (d h : Nat) (v : HomeSt) (i : Nat) : (s.setHome d h v).item i = s.item i := rfl
@[simp] theorem setHome_grp (d h : Nat) (v : HomeSt) (i j : Nat) : (s.setHome d h v).grp i j = s.grp i j := rfl
@[simp] theorem setHome_vreg (d h : Nat) (v : HomeSt) (i j k l : Nat) : (s.setHome d h v).vreg i j k l = s.vreg i j k l := rfl
@[simp] theorem setHome_flow (d h : Nat) (v : HomeSt) (i : Nat) : (s.setHome d h v).flow i = s.flow i := rfl
@[simp] theorem setHome_port (d h : Nat) (v : HomeSt) (i : Nat) : (s.setHome d h v).port i = s.port i := rfl
@[simp] theorem setHome_seat (d h : Nat) (v : HomeSt) (i j : Nat) : (s.setHome d h v).seat i j = s.seat i j := rfl

/-! ### setMmu -/

@[simp] theorem setMmu_fuses (d : Nat) (v : MmuSt) : (s.setMmu d v).fuses = s.fuses := rfl
@[simp] theorem setMmu_keys (d : Nat) (v : MmuSt) : (s.setMmu d v).keys = s.keys := rfl
@[simp] theorem setMmu_pins (d : Nat) (v : MmuSt) : (s.setMmu d v).pins = s.pins := rfl
@[simp] theorem setMmu_phase (d : Nat) (v : MmuSt) : (s.setMmu d v).phase = s.phase := rfl
@[simp] theorem setMmu_boot (d : Nat) (v : MmuSt) : (s.setMmu d v).boot = s.boot := rfl
@[simp] theorem setMmu_mgmt (d : Nat) (v : MmuSt) : (s.setMmu d v).mgmt = s.mgmt := rfl
@[simp] theorem setMmu_regs (d : Nat) (v : MmuSt) : (s.setMmu d v).regs = s.regs := rfl
@[simp] theorem setMmu_errs (d : Nat) (v : MmuSt) : (s.setMmu d v).errs = s.errs := rfl
@[simp] theorem setMmu_dstates (d : Nat) (v : MmuSt) : (s.setMmu d v).dstates = s.dstates := rfl
@[simp] theorem setMmu_mem (d : Nat) (v : MmuSt) : (s.setMmu d v).mem = s.mem := rfl
@[simp] theorem setMmu_poison (d : Nat) (v : MmuSt) : (s.setMmu d v).poison = s.poison := rfl
@[simp] theorem setMmu_sc (d : Nat) (v : MmuSt) : (s.setMmu d v).sc = s.sc := rfl
@[simp] theorem setMmu_nmcs (d : Nat) (v : MmuSt) : (s.setMmu d v).nmcs = s.nmcs := rfl
@[simp] theorem setMmu_fmcHeld (d : Nat) (v : MmuSt) : (s.setMmu d v).fmcHeld = s.fmcHeld := rfl
@[simp] theorem setMmu_homes (d : Nat) (v : MmuSt) : (s.setMmu d v).homes = s.homes := rfl
@[simp] theorem setMmu_dlinks (d : Nat) (v : MmuSt) : (s.setMmu d v).dlinks = s.dlinks := rfl
@[simp] theorem setMmu_elog (d : Nat) (v : MmuSt) : (s.setMmu d v).elog = s.elog := rfl
@[simp] theorem setMmu_ev (d : Nat) (v : MmuSt) : (s.setMmu d v).ev = s.ev := rfl
@[simp] theorem setMmu_invs (d : Nat) (v : MmuSt) : (s.setMmu d v).invs = s.invs := rfl
@[simp] theorem setMmu_invDone (d : Nat) (v : MmuSt) : (s.setMmu d v).invDone = s.invDone := rfl
@[simp] theorem setMmu_sump (d : Nat) (v : MmuSt) : (s.setMmu d v).sump = s.sump := rfl
@[simp] theorem setMmu_queues (d : Nat) (v : MmuSt) : (s.setMmu d v).queues = s.queues := rfl
@[simp] theorem setMmu_accepted (d : Nat) (v : MmuSt) : (s.setMmu d v).accepted = s.accepted := rfl
@[simp] theorem setMmu_jobs (d : Nat) (v : MmuSt) : (s.setMmu d v).jobs = s.jobs := rfl
@[simp] theorem setMmu_items (d : Nat) (v : MmuSt) : (s.setMmu d v).items = s.items := rfl
@[simp] theorem setMmu_nextItem (d : Nat) (v : MmuSt) : (s.setMmu d v).nextItem = s.nextItem := rfl
@[simp] theorem setMmu_jseqs (d : Nat) (v : MmuSt) : (s.setMmu d v).jseqs = s.jseqs := rfl
@[simp] theorem setMmu_units (d : Nat) (v : MmuSt) : (s.setMmu d v).units = s.units := rfl
@[simp] theorem setMmu_groups (d : Nat) (v : MmuSt) : (s.setMmu d v).groups = s.groups := rfl
@[simp] theorem setMmu_vregs (d : Nat) (v : MmuSt) : (s.setMmu d v).vregs = s.vregs := rfl
@[simp] theorem setMmu_ls (d : Nat) (v : MmuSt) : (s.setMmu d v).ls = s.ls := rfl
@[simp] theorem setMmu_lsWritten (d : Nat) (v : MmuSt) : (s.setMmu d v).lsWritten = s.lsWritten := rfl
@[simp] theorem setMmu_cc (d : Nat) (v : MmuSt) : (s.setMmu d v).cc = s.cc := rfl
@[simp] theorem setMmu_cmes (d : Nat) (v : MmuSt) : (s.setMmu d v).cmes = s.cmes := rfl
@[simp] theorem setMmu_fab (d : Nat) (v : MmuSt) : (s.setMmu d v).fab = s.fab := rfl
@[simp] theorem setMmu_seats (d : Nat) (v : MmuSt) : (s.setMmu d v).seats = s.seats := rfl
@[simp] theorem setMmu_well (d : Nat) (v : MmuSt) : (s.setMmu d v).well = s.well := rfl
@[simp] theorem setMmu_pair (d : Nat) (v : MmuSt) : (s.setMmu d v).pair = s.pair := rfl
@[simp] theorem setMmu_harts (d : Nat) (v : MmuSt) : (s.setMmu d v).harts = s.harts := rfl
@[simp] theorem setMmu_imsic (d : Nat) (v : MmuSt) : (s.setMmu d v).imsic = s.imsic := rfl
@[simp] theorem setMmu_dbg (d : Nat) (v : MmuSt) : (s.setMmu d v).dbg = s.dbg := rfl
@[simp] theorem setMmu_pwr (d : Nat) (v : MmuSt) : (s.setMmu d v).pwr = s.pwr := rfl
@[simp] theorem setMmu_free (d : Nat) (v : MmuSt) : (s.setMmu d v).free = s.free := rfl
@[simp] theorem setMmu_now (d : Nat) (v : MmuSt) : (s.setMmu d v).now = s.now := rfl
@[simp] theorem setMmu_outs (d : Nat) (v : MmuSt) : (s.setMmu d v).outs = s.outs := rfl
@[simp] theorem setMmu_pending (d : Nat) (v : MmuSt) : (s.setMmu d v).pending = s.pending := rfl
@[simp] theorem setMmu_reg (d : Nat) (v : MmuSt) (i : Nat) : (s.setMmu d v).reg i = s.reg i := rfl
@[simp] theorem setMmu_err (d : Nat) (v : MmuSt) (i : Nat) : (s.setMmu d v).err i = s.err i := rfl
@[simp] theorem setMmu_dst (d : Nat) (v : MmuSt) (i : Nat) : (s.setMmu d v).dst i = s.dst i := rfl
@[simp] theorem setMmu_byte (d : Nat) (v : MmuSt) (i : Nat) : (s.setMmu d v).byte i = s.byte i := rfl
@[simp] theorem setMmu_poisoned (d : Nat) (v : MmuSt) (i : Nat) : (s.setMmu d v).poisoned i = s.poisoned i := rfl
@[simp] theorem setMmu_irqPending (d : Nat) (v : MmuSt) (i : Nat) : (s.setMmu d v).irqPending i = s.irqPending i := rfl
@[simp] theorem setMmu_evcnt (d : Nat) (v : MmuSt) (i : Nat) : (s.setMmu d v).evcnt i = s.evcnt i := rfl
@[simp] theorem setMmu_queue (d : Nat) (v : MmuSt) (i : Nat) : (s.setMmu d v).queue i = s.queue i := rfl
@[simp] theorem setMmu_pdie (d : Nat) (v : MmuSt) (i : Nat) : (s.setMmu d v).pdie i = s.pdie i := rfl
@[simp] theorem setMmu_hart (d : Nat) (v : MmuSt) (i : Nat) : (s.setMmu d v).hart i = s.hart i := rfl
@[simp] theorem setMmu_dlink (d : Nat) (v : MmuSt) (i : Nat) : (s.setMmu d v).dlink i = s.dlink i := rfl
@[simp] theorem setMmu_cme (d : Nat) (v : MmuSt) (i : Nat) : (s.setMmu d v).cme i = s.cme i := rfl
@[simp] theorem setMmu_cu (d : Nat) (v : MmuSt) (i : Nat) : (s.setMmu d v).cu i = s.cu i := rfl
@[simp] theorem setMmu_ccWay (d : Nat) (v : MmuSt) (i : Nat) : (s.setMmu d v).ccWay i = s.ccWay i := rfl
@[simp] theorem setMmu_scWay (d : Nat) (v : MmuSt) (i : Nat) : (s.setMmu d v).scWay i = s.scWay i := rfl
@[simp] theorem setMmu_nmc (d : Nat) (v : MmuSt) (i j : Nat) : (s.setMmu d v).nmc i j = s.nmc i j := rfl
@[simp] theorem setMmu_home (d : Nat) (v : MmuSt) (i j : Nat) : (s.setMmu d v).home i j = s.home i j := rfl
@[simp] theorem setMmu_job (d : Nat) (v : MmuSt) (i : Nat) : (s.setMmu d v).job i = s.job i := rfl
@[simp] theorem setMmu_item (d : Nat) (v : MmuSt) (i : Nat) : (s.setMmu d v).item i = s.item i := rfl
@[simp] theorem setMmu_grp (d : Nat) (v : MmuSt) (i j : Nat) : (s.setMmu d v).grp i j = s.grp i j := rfl
@[simp] theorem setMmu_vreg (d : Nat) (v : MmuSt) (i j k l : Nat) : (s.setMmu d v).vreg i j k l = s.vreg i j k l := rfl
@[simp] theorem setMmu_flow (d : Nat) (v : MmuSt) (i : Nat) : (s.setMmu d v).flow i = s.flow i := rfl
@[simp] theorem setMmu_port (d : Nat) (v : MmuSt) (i : Nat) : (s.setMmu d v).port i = s.port i := rfl
@[simp] theorem setMmu_seat (d : Nat) (v : MmuSt) (i j : Nat) : (s.setMmu d v).seat i j = s.seat i j := rfl

/-! ### setJob -/

@[simp] theorem setJob_fuses (jn : Nat) (v : Option Job) : (s.setJob jn v).fuses = s.fuses := rfl
@[simp] theorem setJob_keys (jn : Nat) (v : Option Job) : (s.setJob jn v).keys = s.keys := rfl
@[simp] theorem setJob_pins (jn : Nat) (v : Option Job) : (s.setJob jn v).pins = s.pins := rfl
@[simp] theorem setJob_phase (jn : Nat) (v : Option Job) : (s.setJob jn v).phase = s.phase := rfl
@[simp] theorem setJob_boot (jn : Nat) (v : Option Job) : (s.setJob jn v).boot = s.boot := rfl
@[simp] theorem setJob_mgmt (jn : Nat) (v : Option Job) : (s.setJob jn v).mgmt = s.mgmt := rfl
@[simp] theorem setJob_regs (jn : Nat) (v : Option Job) : (s.setJob jn v).regs = s.regs := rfl
@[simp] theorem setJob_errs (jn : Nat) (v : Option Job) : (s.setJob jn v).errs = s.errs := rfl
@[simp] theorem setJob_dstates (jn : Nat) (v : Option Job) : (s.setJob jn v).dstates = s.dstates := rfl
@[simp] theorem setJob_mem (jn : Nat) (v : Option Job) : (s.setJob jn v).mem = s.mem := rfl
@[simp] theorem setJob_poison (jn : Nat) (v : Option Job) : (s.setJob jn v).poison = s.poison := rfl
@[simp] theorem setJob_sc (jn : Nat) (v : Option Job) : (s.setJob jn v).sc = s.sc := rfl
@[simp] theorem setJob_nmcs (jn : Nat) (v : Option Job) : (s.setJob jn v).nmcs = s.nmcs := rfl
@[simp] theorem setJob_fmcHeld (jn : Nat) (v : Option Job) : (s.setJob jn v).fmcHeld = s.fmcHeld := rfl
@[simp] theorem setJob_homes (jn : Nat) (v : Option Job) : (s.setJob jn v).homes = s.homes := rfl
@[simp] theorem setJob_dlinks (jn : Nat) (v : Option Job) : (s.setJob jn v).dlinks = s.dlinks := rfl
@[simp] theorem setJob_elog (jn : Nat) (v : Option Job) : (s.setJob jn v).elog = s.elog := rfl
@[simp] theorem setJob_ev (jn : Nat) (v : Option Job) : (s.setJob jn v).ev = s.ev := rfl
@[simp] theorem setJob_mmus (jn : Nat) (v : Option Job) : (s.setJob jn v).mmus = s.mmus := rfl
@[simp] theorem setJob_invs (jn : Nat) (v : Option Job) : (s.setJob jn v).invs = s.invs := rfl
@[simp] theorem setJob_invDone (jn : Nat) (v : Option Job) : (s.setJob jn v).invDone = s.invDone := rfl
@[simp] theorem setJob_sump (jn : Nat) (v : Option Job) : (s.setJob jn v).sump = s.sump := rfl
@[simp] theorem setJob_queues (jn : Nat) (v : Option Job) : (s.setJob jn v).queues = s.queues := rfl
@[simp] theorem setJob_accepted (jn : Nat) (v : Option Job) : (s.setJob jn v).accepted = s.accepted := rfl
@[simp] theorem setJob_items (jn : Nat) (v : Option Job) : (s.setJob jn v).items = s.items := rfl
@[simp] theorem setJob_nextItem (jn : Nat) (v : Option Job) : (s.setJob jn v).nextItem = s.nextItem := rfl
@[simp] theorem setJob_jseqs (jn : Nat) (v : Option Job) : (s.setJob jn v).jseqs = s.jseqs := rfl
@[simp] theorem setJob_units (jn : Nat) (v : Option Job) : (s.setJob jn v).units = s.units := rfl
@[simp] theorem setJob_groups (jn : Nat) (v : Option Job) : (s.setJob jn v).groups = s.groups := rfl
@[simp] theorem setJob_vregs (jn : Nat) (v : Option Job) : (s.setJob jn v).vregs = s.vregs := rfl
@[simp] theorem setJob_ls (jn : Nat) (v : Option Job) : (s.setJob jn v).ls = s.ls := rfl
@[simp] theorem setJob_lsWritten (jn : Nat) (v : Option Job) : (s.setJob jn v).lsWritten = s.lsWritten := rfl
@[simp] theorem setJob_cc (jn : Nat) (v : Option Job) : (s.setJob jn v).cc = s.cc := rfl
@[simp] theorem setJob_cmes (jn : Nat) (v : Option Job) : (s.setJob jn v).cmes = s.cmes := rfl
@[simp] theorem setJob_fab (jn : Nat) (v : Option Job) : (s.setJob jn v).fab = s.fab := rfl
@[simp] theorem setJob_seats (jn : Nat) (v : Option Job) : (s.setJob jn v).seats = s.seats := rfl
@[simp] theorem setJob_well (jn : Nat) (v : Option Job) : (s.setJob jn v).well = s.well := rfl
@[simp] theorem setJob_pair (jn : Nat) (v : Option Job) : (s.setJob jn v).pair = s.pair := rfl
@[simp] theorem setJob_harts (jn : Nat) (v : Option Job) : (s.setJob jn v).harts = s.harts := rfl
@[simp] theorem setJob_imsic (jn : Nat) (v : Option Job) : (s.setJob jn v).imsic = s.imsic := rfl
@[simp] theorem setJob_dbg (jn : Nat) (v : Option Job) : (s.setJob jn v).dbg = s.dbg := rfl
@[simp] theorem setJob_pwr (jn : Nat) (v : Option Job) : (s.setJob jn v).pwr = s.pwr := rfl
@[simp] theorem setJob_free (jn : Nat) (v : Option Job) : (s.setJob jn v).free = s.free := rfl
@[simp] theorem setJob_now (jn : Nat) (v : Option Job) : (s.setJob jn v).now = s.now := rfl
@[simp] theorem setJob_outs (jn : Nat) (v : Option Job) : (s.setJob jn v).outs = s.outs := rfl
@[simp] theorem setJob_pending (jn : Nat) (v : Option Job) : (s.setJob jn v).pending = s.pending := rfl
@[simp] theorem setJob_reg (jn : Nat) (v : Option Job) (i : Nat) : (s.setJob jn v).reg i = s.reg i := rfl
@[simp] theorem setJob_err (jn : Nat) (v : Option Job) (i : Nat) : (s.setJob jn v).err i = s.err i := rfl
@[simp] theorem setJob_dst (jn : Nat) (v : Option Job) (i : Nat) : (s.setJob jn v).dst i = s.dst i := rfl
@[simp] theorem setJob_byte (jn : Nat) (v : Option Job) (i : Nat) : (s.setJob jn v).byte i = s.byte i := rfl
@[simp] theorem setJob_poisoned (jn : Nat) (v : Option Job) (i : Nat) : (s.setJob jn v).poisoned i = s.poisoned i := rfl
@[simp] theorem setJob_irqPending (jn : Nat) (v : Option Job) (i : Nat) : (s.setJob jn v).irqPending i = s.irqPending i := rfl
@[simp] theorem setJob_evcnt (jn : Nat) (v : Option Job) (i : Nat) : (s.setJob jn v).evcnt i = s.evcnt i := rfl
@[simp] theorem setJob_queue (jn : Nat) (v : Option Job) (i : Nat) : (s.setJob jn v).queue i = s.queue i := rfl
@[simp] theorem setJob_pdie (jn : Nat) (v : Option Job) (i : Nat) : (s.setJob jn v).pdie i = s.pdie i := rfl
@[simp] theorem setJob_hart (jn : Nat) (v : Option Job) (i : Nat) : (s.setJob jn v).hart i = s.hart i := rfl
@[simp] theorem setJob_dlink (jn : Nat) (v : Option Job) (i : Nat) : (s.setJob jn v).dlink i = s.dlink i := rfl
@[simp] theorem setJob_cme (jn : Nat) (v : Option Job) (i : Nat) : (s.setJob jn v).cme i = s.cme i := rfl
@[simp] theorem setJob_cu (jn : Nat) (v : Option Job) (i : Nat) : (s.setJob jn v).cu i = s.cu i := rfl
@[simp] theorem setJob_ccWay (jn : Nat) (v : Option Job) (i : Nat) : (s.setJob jn v).ccWay i = s.ccWay i := rfl
@[simp] theorem setJob_scWay (jn : Nat) (v : Option Job) (i : Nat) : (s.setJob jn v).scWay i = s.scWay i := rfl
@[simp] theorem setJob_nmc (jn : Nat) (v : Option Job) (i j : Nat) : (s.setJob jn v).nmc i j = s.nmc i j := rfl
@[simp] theorem setJob_home (jn : Nat) (v : Option Job) (i j : Nat) : (s.setJob jn v).home i j = s.home i j := rfl
@[simp] theorem setJob_mmu (jn : Nat) (v : Option Job) (i : Nat) : (s.setJob jn v).mmu i = s.mmu i := rfl
@[simp] theorem setJob_item (jn : Nat) (v : Option Job) (i : Nat) : (s.setJob jn v).item i = s.item i := rfl
@[simp] theorem setJob_grp (jn : Nat) (v : Option Job) (i j : Nat) : (s.setJob jn v).grp i j = s.grp i j := rfl
@[simp] theorem setJob_vreg (jn : Nat) (v : Option Job) (i j k l : Nat) : (s.setJob jn v).vreg i j k l = s.vreg i j k l := rfl
@[simp] theorem setJob_flow (jn : Nat) (v : Option Job) (i : Nat) : (s.setJob jn v).flow i = s.flow i := rfl
@[simp] theorem setJob_port (jn : Nat) (v : Option Job) (i : Nat) : (s.setJob jn v).port i = s.port i := rfl
@[simp] theorem setJob_seat (jn : Nat) (v : Option Job) (i j : Nat) : (s.setJob jn v).seat i j = s.seat i j := rfl

/-! ### setItem -/

@[simp] theorem setItem_fuses (n : Nat) (v : Option Item) : (s.setItem n v).fuses = s.fuses := rfl
@[simp] theorem setItem_keys (n : Nat) (v : Option Item) : (s.setItem n v).keys = s.keys := rfl
@[simp] theorem setItem_pins (n : Nat) (v : Option Item) : (s.setItem n v).pins = s.pins := rfl
@[simp] theorem setItem_phase (n : Nat) (v : Option Item) : (s.setItem n v).phase = s.phase := rfl
@[simp] theorem setItem_boot (n : Nat) (v : Option Item) : (s.setItem n v).boot = s.boot := rfl
@[simp] theorem setItem_mgmt (n : Nat) (v : Option Item) : (s.setItem n v).mgmt = s.mgmt := rfl
@[simp] theorem setItem_regs (n : Nat) (v : Option Item) : (s.setItem n v).regs = s.regs := rfl
@[simp] theorem setItem_errs (n : Nat) (v : Option Item) : (s.setItem n v).errs = s.errs := rfl
@[simp] theorem setItem_dstates (n : Nat) (v : Option Item) : (s.setItem n v).dstates = s.dstates := rfl
@[simp] theorem setItem_mem (n : Nat) (v : Option Item) : (s.setItem n v).mem = s.mem := rfl
@[simp] theorem setItem_poison (n : Nat) (v : Option Item) : (s.setItem n v).poison = s.poison := rfl
@[simp] theorem setItem_sc (n : Nat) (v : Option Item) : (s.setItem n v).sc = s.sc := rfl
@[simp] theorem setItem_nmcs (n : Nat) (v : Option Item) : (s.setItem n v).nmcs = s.nmcs := rfl
@[simp] theorem setItem_fmcHeld (n : Nat) (v : Option Item) : (s.setItem n v).fmcHeld = s.fmcHeld := rfl
@[simp] theorem setItem_homes (n : Nat) (v : Option Item) : (s.setItem n v).homes = s.homes := rfl
@[simp] theorem setItem_dlinks (n : Nat) (v : Option Item) : (s.setItem n v).dlinks = s.dlinks := rfl
@[simp] theorem setItem_elog (n : Nat) (v : Option Item) : (s.setItem n v).elog = s.elog := rfl
@[simp] theorem setItem_ev (n : Nat) (v : Option Item) : (s.setItem n v).ev = s.ev := rfl
@[simp] theorem setItem_mmus (n : Nat) (v : Option Item) : (s.setItem n v).mmus = s.mmus := rfl
@[simp] theorem setItem_invs (n : Nat) (v : Option Item) : (s.setItem n v).invs = s.invs := rfl
@[simp] theorem setItem_invDone (n : Nat) (v : Option Item) : (s.setItem n v).invDone = s.invDone := rfl
@[simp] theorem setItem_sump (n : Nat) (v : Option Item) : (s.setItem n v).sump = s.sump := rfl
@[simp] theorem setItem_queues (n : Nat) (v : Option Item) : (s.setItem n v).queues = s.queues := rfl
@[simp] theorem setItem_accepted (n : Nat) (v : Option Item) : (s.setItem n v).accepted = s.accepted := rfl
@[simp] theorem setItem_jobs (n : Nat) (v : Option Item) : (s.setItem n v).jobs = s.jobs := rfl
@[simp] theorem setItem_nextItem (n : Nat) (v : Option Item) : (s.setItem n v).nextItem = s.nextItem := rfl
@[simp] theorem setItem_jseqs (n : Nat) (v : Option Item) : (s.setItem n v).jseqs = s.jseqs := rfl
@[simp] theorem setItem_units (n : Nat) (v : Option Item) : (s.setItem n v).units = s.units := rfl
@[simp] theorem setItem_groups (n : Nat) (v : Option Item) : (s.setItem n v).groups = s.groups := rfl
@[simp] theorem setItem_vregs (n : Nat) (v : Option Item) : (s.setItem n v).vregs = s.vregs := rfl
@[simp] theorem setItem_ls (n : Nat) (v : Option Item) : (s.setItem n v).ls = s.ls := rfl
@[simp] theorem setItem_lsWritten (n : Nat) (v : Option Item) : (s.setItem n v).lsWritten = s.lsWritten := rfl
@[simp] theorem setItem_cc (n : Nat) (v : Option Item) : (s.setItem n v).cc = s.cc := rfl
@[simp] theorem setItem_cmes (n : Nat) (v : Option Item) : (s.setItem n v).cmes = s.cmes := rfl
@[simp] theorem setItem_fab (n : Nat) (v : Option Item) : (s.setItem n v).fab = s.fab := rfl
@[simp] theorem setItem_seats (n : Nat) (v : Option Item) : (s.setItem n v).seats = s.seats := rfl
@[simp] theorem setItem_well (n : Nat) (v : Option Item) : (s.setItem n v).well = s.well := rfl
@[simp] theorem setItem_pair (n : Nat) (v : Option Item) : (s.setItem n v).pair = s.pair := rfl
@[simp] theorem setItem_harts (n : Nat) (v : Option Item) : (s.setItem n v).harts = s.harts := rfl
@[simp] theorem setItem_imsic (n : Nat) (v : Option Item) : (s.setItem n v).imsic = s.imsic := rfl
@[simp] theorem setItem_dbg (n : Nat) (v : Option Item) : (s.setItem n v).dbg = s.dbg := rfl
@[simp] theorem setItem_pwr (n : Nat) (v : Option Item) : (s.setItem n v).pwr = s.pwr := rfl
@[simp] theorem setItem_free (n : Nat) (v : Option Item) : (s.setItem n v).free = s.free := rfl
@[simp] theorem setItem_now (n : Nat) (v : Option Item) : (s.setItem n v).now = s.now := rfl
@[simp] theorem setItem_outs (n : Nat) (v : Option Item) : (s.setItem n v).outs = s.outs := rfl
@[simp] theorem setItem_pending (n : Nat) (v : Option Item) : (s.setItem n v).pending = s.pending := rfl
@[simp] theorem setItem_reg (n : Nat) (v : Option Item) (i : Nat) : (s.setItem n v).reg i = s.reg i := rfl
@[simp] theorem setItem_err (n : Nat) (v : Option Item) (i : Nat) : (s.setItem n v).err i = s.err i := rfl
@[simp] theorem setItem_dst (n : Nat) (v : Option Item) (i : Nat) : (s.setItem n v).dst i = s.dst i := rfl
@[simp] theorem setItem_byte (n : Nat) (v : Option Item) (i : Nat) : (s.setItem n v).byte i = s.byte i := rfl
@[simp] theorem setItem_poisoned (n : Nat) (v : Option Item) (i : Nat) : (s.setItem n v).poisoned i = s.poisoned i := rfl
@[simp] theorem setItem_irqPending (n : Nat) (v : Option Item) (i : Nat) : (s.setItem n v).irqPending i = s.irqPending i := rfl
@[simp] theorem setItem_evcnt (n : Nat) (v : Option Item) (i : Nat) : (s.setItem n v).evcnt i = s.evcnt i := rfl
@[simp] theorem setItem_queue (n : Nat) (v : Option Item) (i : Nat) : (s.setItem n v).queue i = s.queue i := rfl
@[simp] theorem setItem_pdie (n : Nat) (v : Option Item) (i : Nat) : (s.setItem n v).pdie i = s.pdie i := rfl
@[simp] theorem setItem_hart (n : Nat) (v : Option Item) (i : Nat) : (s.setItem n v).hart i = s.hart i := rfl
@[simp] theorem setItem_dlink (n : Nat) (v : Option Item) (i : Nat) : (s.setItem n v).dlink i = s.dlink i := rfl
@[simp] theorem setItem_cme (n : Nat) (v : Option Item) (i : Nat) : (s.setItem n v).cme i = s.cme i := rfl
@[simp] theorem setItem_cu (n : Nat) (v : Option Item) (i : Nat) : (s.setItem n v).cu i = s.cu i := rfl
@[simp] theorem setItem_ccWay (n : Nat) (v : Option Item) (i : Nat) : (s.setItem n v).ccWay i = s.ccWay i := rfl
@[simp] theorem setItem_scWay (n : Nat) (v : Option Item) (i : Nat) : (s.setItem n v).scWay i = s.scWay i := rfl
@[simp] theorem setItem_nmc (n : Nat) (v : Option Item) (i j : Nat) : (s.setItem n v).nmc i j = s.nmc i j := rfl
@[simp] theorem setItem_home (n : Nat) (v : Option Item) (i j : Nat) : (s.setItem n v).home i j = s.home i j := rfl
@[simp] theorem setItem_mmu (n : Nat) (v : Option Item) (i : Nat) : (s.setItem n v).mmu i = s.mmu i := rfl
@[simp] theorem setItem_job (n : Nat) (v : Option Item) (i : Nat) : (s.setItem n v).job i = s.job i := rfl
@[simp] theorem setItem_grp (n : Nat) (v : Option Item) (i j : Nat) : (s.setItem n v).grp i j = s.grp i j := rfl
@[simp] theorem setItem_vreg (n : Nat) (v : Option Item) (i j k l : Nat) : (s.setItem n v).vreg i j k l = s.vreg i j k l := rfl
@[simp] theorem setItem_flow (n : Nat) (v : Option Item) (i : Nat) : (s.setItem n v).flow i = s.flow i := rfl
@[simp] theorem setItem_port (n : Nat) (v : Option Item) (i : Nat) : (s.setItem n v).port i = s.port i := rfl
@[simp] theorem setItem_seat (n : Nat) (v : Option Item) (i j : Nat) : (s.setItem n v).seat i j = s.seat i j := rfl

/-! ### setGrp -/

@[simp] theorem setGrp_fuses (u h : Nat) (v : Option Group) : (s.setGrp u h v).fuses = s.fuses := rfl
@[simp] theorem setGrp_keys (u h : Nat) (v : Option Group) : (s.setGrp u h v).keys = s.keys := rfl
@[simp] theorem setGrp_pins (u h : Nat) (v : Option Group) : (s.setGrp u h v).pins = s.pins := rfl
@[simp] theorem setGrp_phase (u h : Nat) (v : Option Group) : (s.setGrp u h v).phase = s.phase := rfl
@[simp] theorem setGrp_boot (u h : Nat) (v : Option Group) : (s.setGrp u h v).boot = s.boot := rfl
@[simp] theorem setGrp_mgmt (u h : Nat) (v : Option Group) : (s.setGrp u h v).mgmt = s.mgmt := rfl
@[simp] theorem setGrp_regs (u h : Nat) (v : Option Group) : (s.setGrp u h v).regs = s.regs := rfl
@[simp] theorem setGrp_errs (u h : Nat) (v : Option Group) : (s.setGrp u h v).errs = s.errs := rfl
@[simp] theorem setGrp_dstates (u h : Nat) (v : Option Group) : (s.setGrp u h v).dstates = s.dstates := rfl
@[simp] theorem setGrp_mem (u h : Nat) (v : Option Group) : (s.setGrp u h v).mem = s.mem := rfl
@[simp] theorem setGrp_poison (u h : Nat) (v : Option Group) : (s.setGrp u h v).poison = s.poison := rfl
@[simp] theorem setGrp_sc (u h : Nat) (v : Option Group) : (s.setGrp u h v).sc = s.sc := rfl
@[simp] theorem setGrp_nmcs (u h : Nat) (v : Option Group) : (s.setGrp u h v).nmcs = s.nmcs := rfl
@[simp] theorem setGrp_fmcHeld (u h : Nat) (v : Option Group) : (s.setGrp u h v).fmcHeld = s.fmcHeld := rfl
@[simp] theorem setGrp_homes (u h : Nat) (v : Option Group) : (s.setGrp u h v).homes = s.homes := rfl
@[simp] theorem setGrp_dlinks (u h : Nat) (v : Option Group) : (s.setGrp u h v).dlinks = s.dlinks := rfl
@[simp] theorem setGrp_elog (u h : Nat) (v : Option Group) : (s.setGrp u h v).elog = s.elog := rfl
@[simp] theorem setGrp_ev (u h : Nat) (v : Option Group) : (s.setGrp u h v).ev = s.ev := rfl
@[simp] theorem setGrp_mmus (u h : Nat) (v : Option Group) : (s.setGrp u h v).mmus = s.mmus := rfl
@[simp] theorem setGrp_invs (u h : Nat) (v : Option Group) : (s.setGrp u h v).invs = s.invs := rfl
@[simp] theorem setGrp_invDone (u h : Nat) (v : Option Group) : (s.setGrp u h v).invDone = s.invDone := rfl
@[simp] theorem setGrp_sump (u h : Nat) (v : Option Group) : (s.setGrp u h v).sump = s.sump := rfl
@[simp] theorem setGrp_queues (u h : Nat) (v : Option Group) : (s.setGrp u h v).queues = s.queues := rfl
@[simp] theorem setGrp_accepted (u h : Nat) (v : Option Group) : (s.setGrp u h v).accepted = s.accepted := rfl
@[simp] theorem setGrp_jobs (u h : Nat) (v : Option Group) : (s.setGrp u h v).jobs = s.jobs := rfl
@[simp] theorem setGrp_items (u h : Nat) (v : Option Group) : (s.setGrp u h v).items = s.items := rfl
@[simp] theorem setGrp_nextItem (u h : Nat) (v : Option Group) : (s.setGrp u h v).nextItem = s.nextItem := rfl
@[simp] theorem setGrp_jseqs (u h : Nat) (v : Option Group) : (s.setGrp u h v).jseqs = s.jseqs := rfl
@[simp] theorem setGrp_units (u h : Nat) (v : Option Group) : (s.setGrp u h v).units = s.units := rfl
@[simp] theorem setGrp_vregs (u h : Nat) (v : Option Group) : (s.setGrp u h v).vregs = s.vregs := rfl
@[simp] theorem setGrp_ls (u h : Nat) (v : Option Group) : (s.setGrp u h v).ls = s.ls := rfl
@[simp] theorem setGrp_lsWritten (u h : Nat) (v : Option Group) : (s.setGrp u h v).lsWritten = s.lsWritten := rfl
@[simp] theorem setGrp_cc (u h : Nat) (v : Option Group) : (s.setGrp u h v).cc = s.cc := rfl
@[simp] theorem setGrp_cmes (u h : Nat) (v : Option Group) : (s.setGrp u h v).cmes = s.cmes := rfl
@[simp] theorem setGrp_fab (u h : Nat) (v : Option Group) : (s.setGrp u h v).fab = s.fab := rfl
@[simp] theorem setGrp_seats (u h : Nat) (v : Option Group) : (s.setGrp u h v).seats = s.seats := rfl
@[simp] theorem setGrp_well (u h : Nat) (v : Option Group) : (s.setGrp u h v).well = s.well := rfl
@[simp] theorem setGrp_pair (u h : Nat) (v : Option Group) : (s.setGrp u h v).pair = s.pair := rfl
@[simp] theorem setGrp_harts (u h : Nat) (v : Option Group) : (s.setGrp u h v).harts = s.harts := rfl
@[simp] theorem setGrp_imsic (u h : Nat) (v : Option Group) : (s.setGrp u h v).imsic = s.imsic := rfl
@[simp] theorem setGrp_dbg (u h : Nat) (v : Option Group) : (s.setGrp u h v).dbg = s.dbg := rfl
@[simp] theorem setGrp_pwr (u h : Nat) (v : Option Group) : (s.setGrp u h v).pwr = s.pwr := rfl
@[simp] theorem setGrp_free (u h : Nat) (v : Option Group) : (s.setGrp u h v).free = s.free := rfl
@[simp] theorem setGrp_now (u h : Nat) (v : Option Group) : (s.setGrp u h v).now = s.now := rfl
@[simp] theorem setGrp_outs (u h : Nat) (v : Option Group) : (s.setGrp u h v).outs = s.outs := rfl
@[simp] theorem setGrp_pending (u h : Nat) (v : Option Group) : (s.setGrp u h v).pending = s.pending := rfl
@[simp] theorem setGrp_reg (u h : Nat) (v : Option Group) (i : Nat) : (s.setGrp u h v).reg i = s.reg i := rfl
@[simp] theorem setGrp_err (u h : Nat) (v : Option Group) (i : Nat) : (s.setGrp u h v).err i = s.err i := rfl
@[simp] theorem setGrp_dst (u h : Nat) (v : Option Group) (i : Nat) : (s.setGrp u h v).dst i = s.dst i := rfl
@[simp] theorem setGrp_byte (u h : Nat) (v : Option Group) (i : Nat) : (s.setGrp u h v).byte i = s.byte i := rfl
@[simp] theorem setGrp_poisoned (u h : Nat) (v : Option Group) (i : Nat) : (s.setGrp u h v).poisoned i = s.poisoned i := rfl
@[simp] theorem setGrp_irqPending (u h : Nat) (v : Option Group) (i : Nat) : (s.setGrp u h v).irqPending i = s.irqPending i := rfl
@[simp] theorem setGrp_evcnt (u h : Nat) (v : Option Group) (i : Nat) : (s.setGrp u h v).evcnt i = s.evcnt i := rfl
@[simp] theorem setGrp_queue (u h : Nat) (v : Option Group) (i : Nat) : (s.setGrp u h v).queue i = s.queue i := rfl
@[simp] theorem setGrp_pdie (u h : Nat) (v : Option Group) (i : Nat) : (s.setGrp u h v).pdie i = s.pdie i := rfl
@[simp] theorem setGrp_hart (u h : Nat) (v : Option Group) (i : Nat) : (s.setGrp u h v).hart i = s.hart i := rfl
@[simp] theorem setGrp_dlink (u h : Nat) (v : Option Group) (i : Nat) : (s.setGrp u h v).dlink i = s.dlink i := rfl
@[simp] theorem setGrp_cme (u h : Nat) (v : Option Group) (i : Nat) : (s.setGrp u h v).cme i = s.cme i := rfl
@[simp] theorem setGrp_cu (u h : Nat) (v : Option Group) (i : Nat) : (s.setGrp u h v).cu i = s.cu i := rfl
@[simp] theorem setGrp_ccWay (u h : Nat) (v : Option Group) (i : Nat) : (s.setGrp u h v).ccWay i = s.ccWay i := rfl
@[simp] theorem setGrp_scWay (u h : Nat) (v : Option Group) (i : Nat) : (s.setGrp u h v).scWay i = s.scWay i := rfl
@[simp] theorem setGrp_nmc (u h : Nat) (v : Option Group) (i j : Nat) : (s.setGrp u h v).nmc i j = s.nmc i j := rfl
@[simp] theorem setGrp_home (u h : Nat) (v : Option Group) (i j : Nat) : (s.setGrp u h v).home i j = s.home i j := rfl
@[simp] theorem setGrp_mmu (u h : Nat) (v : Option Group) (i : Nat) : (s.setGrp u h v).mmu i = s.mmu i := rfl
@[simp] theorem setGrp_job (u h : Nat) (v : Option Group) (i : Nat) : (s.setGrp u h v).job i = s.job i := rfl
@[simp] theorem setGrp_item (u h : Nat) (v : Option Group) (i : Nat) : (s.setGrp u h v).item i = s.item i := rfl
@[simp] theorem setGrp_vreg (u h : Nat) (v : Option Group) (i j k l : Nat) : (s.setGrp u h v).vreg i j k l = s.vreg i j k l := rfl
@[simp] theorem setGrp_flow (u h : Nat) (v : Option Group) (i : Nat) : (s.setGrp u h v).flow i = s.flow i := rfl
@[simp] theorem setGrp_port (u h : Nat) (v : Option Group) (i : Nat) : (s.setGrp u h v).port i = s.port i := rfl
@[simp] theorem setGrp_seat (u h : Nat) (v : Option Group) (i j : Nat) : (s.setGrp u h v).seat i j = s.seat i j := rfl

/-! ### setVreg -/

@[simp] theorem setVreg_fuses (u h r t v : Nat) : (s.setVreg u h r t v).fuses = s.fuses := rfl
@[simp] theorem setVreg_keys (u h r t v : Nat) : (s.setVreg u h r t v).keys = s.keys := rfl
@[simp] theorem setVreg_pins (u h r t v : Nat) : (s.setVreg u h r t v).pins = s.pins := rfl
@[simp] theorem setVreg_phase (u h r t v : Nat) : (s.setVreg u h r t v).phase = s.phase := rfl
@[simp] theorem setVreg_boot (u h r t v : Nat) : (s.setVreg u h r t v).boot = s.boot := rfl
@[simp] theorem setVreg_mgmt (u h r t v : Nat) : (s.setVreg u h r t v).mgmt = s.mgmt := rfl
@[simp] theorem setVreg_regs (u h r t v : Nat) : (s.setVreg u h r t v).regs = s.regs := rfl
@[simp] theorem setVreg_errs (u h r t v : Nat) : (s.setVreg u h r t v).errs = s.errs := rfl
@[simp] theorem setVreg_dstates (u h r t v : Nat) : (s.setVreg u h r t v).dstates = s.dstates := rfl
@[simp] theorem setVreg_mem (u h r t v : Nat) : (s.setVreg u h r t v).mem = s.mem := rfl
@[simp] theorem setVreg_poison (u h r t v : Nat) : (s.setVreg u h r t v).poison = s.poison := rfl
@[simp] theorem setVreg_sc (u h r t v : Nat) : (s.setVreg u h r t v).sc = s.sc := rfl
@[simp] theorem setVreg_nmcs (u h r t v : Nat) : (s.setVreg u h r t v).nmcs = s.nmcs := rfl
@[simp] theorem setVreg_fmcHeld (u h r t v : Nat) : (s.setVreg u h r t v).fmcHeld = s.fmcHeld := rfl
@[simp] theorem setVreg_homes (u h r t v : Nat) : (s.setVreg u h r t v).homes = s.homes := rfl
@[simp] theorem setVreg_dlinks (u h r t v : Nat) : (s.setVreg u h r t v).dlinks = s.dlinks := rfl
@[simp] theorem setVreg_elog (u h r t v : Nat) : (s.setVreg u h r t v).elog = s.elog := rfl
@[simp] theorem setVreg_ev (u h r t v : Nat) : (s.setVreg u h r t v).ev = s.ev := rfl
@[simp] theorem setVreg_mmus (u h r t v : Nat) : (s.setVreg u h r t v).mmus = s.mmus := rfl
@[simp] theorem setVreg_invs (u h r t v : Nat) : (s.setVreg u h r t v).invs = s.invs := rfl
@[simp] theorem setVreg_invDone (u h r t v : Nat) : (s.setVreg u h r t v).invDone = s.invDone := rfl
@[simp] theorem setVreg_sump (u h r t v : Nat) : (s.setVreg u h r t v).sump = s.sump := rfl
@[simp] theorem setVreg_queues (u h r t v : Nat) : (s.setVreg u h r t v).queues = s.queues := rfl
@[simp] theorem setVreg_accepted (u h r t v : Nat) : (s.setVreg u h r t v).accepted = s.accepted := rfl
@[simp] theorem setVreg_jobs (u h r t v : Nat) : (s.setVreg u h r t v).jobs = s.jobs := rfl
@[simp] theorem setVreg_items (u h r t v : Nat) : (s.setVreg u h r t v).items = s.items := rfl
@[simp] theorem setVreg_nextItem (u h r t v : Nat) : (s.setVreg u h r t v).nextItem = s.nextItem := rfl
@[simp] theorem setVreg_jseqs (u h r t v : Nat) : (s.setVreg u h r t v).jseqs = s.jseqs := rfl
@[simp] theorem setVreg_units (u h r t v : Nat) : (s.setVreg u h r t v).units = s.units := rfl
@[simp] theorem setVreg_groups (u h r t v : Nat) : (s.setVreg u h r t v).groups = s.groups := rfl
@[simp] theorem setVreg_ls (u h r t v : Nat) : (s.setVreg u h r t v).ls = s.ls := rfl
@[simp] theorem setVreg_lsWritten (u h r t v : Nat) : (s.setVreg u h r t v).lsWritten = s.lsWritten := rfl
@[simp] theorem setVreg_cc (u h r t v : Nat) : (s.setVreg u h r t v).cc = s.cc := rfl
@[simp] theorem setVreg_cmes (u h r t v : Nat) : (s.setVreg u h r t v).cmes = s.cmes := rfl
@[simp] theorem setVreg_fab (u h r t v : Nat) : (s.setVreg u h r t v).fab = s.fab := rfl
@[simp] theorem setVreg_seats (u h r t v : Nat) : (s.setVreg u h r t v).seats = s.seats := rfl
@[simp] theorem setVreg_well (u h r t v : Nat) : (s.setVreg u h r t v).well = s.well := rfl
@[simp] theorem setVreg_pair (u h r t v : Nat) : (s.setVreg u h r t v).pair = s.pair := rfl
@[simp] theorem setVreg_harts (u h r t v : Nat) : (s.setVreg u h r t v).harts = s.harts := rfl
@[simp] theorem setVreg_imsic (u h r t v : Nat) : (s.setVreg u h r t v).imsic = s.imsic := rfl
@[simp] theorem setVreg_dbg (u h r t v : Nat) : (s.setVreg u h r t v).dbg = s.dbg := rfl
@[simp] theorem setVreg_pwr (u h r t v : Nat) : (s.setVreg u h r t v).pwr = s.pwr := rfl
@[simp] theorem setVreg_free (u h r t v : Nat) : (s.setVreg u h r t v).free = s.free := rfl
@[simp] theorem setVreg_now (u h r t v : Nat) : (s.setVreg u h r t v).now = s.now := rfl
@[simp] theorem setVreg_outs (u h r t v : Nat) : (s.setVreg u h r t v).outs = s.outs := rfl
@[simp] theorem setVreg_pending (u h r t v : Nat) : (s.setVreg u h r t v).pending = s.pending := rfl
@[simp] theorem setVreg_reg (u h r t v : Nat) (i : Nat) : (s.setVreg u h r t v).reg i = s.reg i := rfl
@[simp] theorem setVreg_err (u h r t v : Nat) (i : Nat) : (s.setVreg u h r t v).err i = s.err i := rfl
@[simp] theorem setVreg_dst (u h r t v : Nat) (i : Nat) : (s.setVreg u h r t v).dst i = s.dst i := rfl
@[simp] theorem setVreg_byte (u h r t v : Nat) (i : Nat) : (s.setVreg u h r t v).byte i = s.byte i := rfl
@[simp] theorem setVreg_poisoned (u h r t v : Nat) (i : Nat) : (s.setVreg u h r t v).poisoned i = s.poisoned i := rfl
@[simp] theorem setVreg_irqPending (u h r t v : Nat) (i : Nat) : (s.setVreg u h r t v).irqPending i = s.irqPending i := rfl
@[simp] theorem setVreg_evcnt (u h r t v : Nat) (i : Nat) : (s.setVreg u h r t v).evcnt i = s.evcnt i := rfl
@[simp] theorem setVreg_queue (u h r t v : Nat) (i : Nat) : (s.setVreg u h r t v).queue i = s.queue i := rfl
@[simp] theorem setVreg_pdie (u h r t v : Nat) (i : Nat) : (s.setVreg u h r t v).pdie i = s.pdie i := rfl
@[simp] theorem setVreg_hart (u h r t v : Nat) (i : Nat) : (s.setVreg u h r t v).hart i = s.hart i := rfl
@[simp] theorem setVreg_dlink (u h r t v : Nat) (i : Nat) : (s.setVreg u h r t v).dlink i = s.dlink i := rfl
@[simp] theorem setVreg_cme (u h r t v : Nat) (i : Nat) : (s.setVreg u h r t v).cme i = s.cme i := rfl
@[simp] theorem setVreg_cu (u h r t v : Nat) (i : Nat) : (s.setVreg u h r t v).cu i = s.cu i := rfl
@[simp] theorem setVreg_ccWay (u h r t v : Nat) (i : Nat) : (s.setVreg u h r t v).ccWay i = s.ccWay i := rfl
@[simp] theorem setVreg_scWay (u h r t v : Nat) (i : Nat) : (s.setVreg u h r t v).scWay i = s.scWay i := rfl
@[simp] theorem setVreg_nmc (u h r t v : Nat) (i j : Nat) : (s.setVreg u h r t v).nmc i j = s.nmc i j := rfl
@[simp] theorem setVreg_home (u h r t v : Nat) (i j : Nat) : (s.setVreg u h r t v).home i j = s.home i j := rfl
@[simp] theorem setVreg_mmu (u h r t v : Nat) (i : Nat) : (s.setVreg u h r t v).mmu i = s.mmu i := rfl
@[simp] theorem setVreg_job (u h r t v : Nat) (i : Nat) : (s.setVreg u h r t v).job i = s.job i := rfl
@[simp] theorem setVreg_item (u h r t v : Nat) (i : Nat) : (s.setVreg u h r t v).item i = s.item i := rfl
@[simp] theorem setVreg_grp (u h r t v : Nat) (i j : Nat) : (s.setVreg u h r t v).grp i j = s.grp i j := rfl
@[simp] theorem setVreg_flow (u h r t v : Nat) (i : Nat) : (s.setVreg u h r t v).flow i = s.flow i := rfl
@[simp] theorem setVreg_port (u h r t v : Nat) (i : Nat) : (s.setVreg u h r t v).port i = s.port i := rfl
@[simp] theorem setVreg_seat (u h r t v : Nat) (i j : Nat) : (s.setVreg u h r t v).seat i j = s.seat i j := rfl

/-! ### setPort -/

@[simp] theorem setPort_fuses (g : Nat) (v : PortSt) : (s.setPort g v).fuses = s.fuses := rfl
@[simp] theorem setPort_keys (g : Nat) (v : PortSt) : (s.setPort g v).keys = s.keys := rfl
@[simp] theorem setPort_pins (g : Nat) (v : PortSt) : (s.setPort g v).pins = s.pins := rfl
@[simp] theorem setPort_phase (g : Nat) (v : PortSt) : (s.setPort g v).phase = s.phase := rfl
@[simp] theorem setPort_boot (g : Nat) (v : PortSt) : (s.setPort g v).boot = s.boot := rfl
@[simp] theorem setPort_mgmt (g : Nat) (v : PortSt) : (s.setPort g v).mgmt = s.mgmt := rfl
@[simp] theorem setPort_regs (g : Nat) (v : PortSt) : (s.setPort g v).regs = s.regs := rfl
@[simp] theorem setPort_errs (g : Nat) (v : PortSt) : (s.setPort g v).errs = s.errs := rfl
@[simp] theorem setPort_dstates (g : Nat) (v : PortSt) : (s.setPort g v).dstates = s.dstates := rfl
@[simp] theorem setPort_mem (g : Nat) (v : PortSt) : (s.setPort g v).mem = s.mem := rfl
@[simp] theorem setPort_poison (g : Nat) (v : PortSt) : (s.setPort g v).poison = s.poison := rfl
@[simp] theorem setPort_sc (g : Nat) (v : PortSt) : (s.setPort g v).sc = s.sc := rfl
@[simp] theorem setPort_nmcs (g : Nat) (v : PortSt) : (s.setPort g v).nmcs = s.nmcs := rfl
@[simp] theorem setPort_fmcHeld (g : Nat) (v : PortSt) : (s.setPort g v).fmcHeld = s.fmcHeld := rfl
@[simp] theorem setPort_homes (g : Nat) (v : PortSt) : (s.setPort g v).homes = s.homes := rfl
@[simp] theorem setPort_dlinks (g : Nat) (v : PortSt) : (s.setPort g v).dlinks = s.dlinks := rfl
@[simp] theorem setPort_elog (g : Nat) (v : PortSt) : (s.setPort g v).elog = s.elog := rfl
@[simp] theorem setPort_ev (g : Nat) (v : PortSt) : (s.setPort g v).ev = s.ev := rfl
@[simp] theorem setPort_mmus (g : Nat) (v : PortSt) : (s.setPort g v).mmus = s.mmus := rfl
@[simp] theorem setPort_invs (g : Nat) (v : PortSt) : (s.setPort g v).invs = s.invs := rfl
@[simp] theorem setPort_invDone (g : Nat) (v : PortSt) : (s.setPort g v).invDone = s.invDone := rfl
@[simp] theorem setPort_sump (g : Nat) (v : PortSt) : (s.setPort g v).sump = s.sump := rfl
@[simp] theorem setPort_queues (g : Nat) (v : PortSt) : (s.setPort g v).queues = s.queues := rfl
@[simp] theorem setPort_accepted (g : Nat) (v : PortSt) : (s.setPort g v).accepted = s.accepted := rfl
@[simp] theorem setPort_jobs (g : Nat) (v : PortSt) : (s.setPort g v).jobs = s.jobs := rfl
@[simp] theorem setPort_items (g : Nat) (v : PortSt) : (s.setPort g v).items = s.items := rfl
@[simp] theorem setPort_nextItem (g : Nat) (v : PortSt) : (s.setPort g v).nextItem = s.nextItem := rfl
@[simp] theorem setPort_jseqs (g : Nat) (v : PortSt) : (s.setPort g v).jseqs = s.jseqs := rfl
@[simp] theorem setPort_units (g : Nat) (v : PortSt) : (s.setPort g v).units = s.units := rfl
@[simp] theorem setPort_groups (g : Nat) (v : PortSt) : (s.setPort g v).groups = s.groups := rfl
@[simp] theorem setPort_vregs (g : Nat) (v : PortSt) : (s.setPort g v).vregs = s.vregs := rfl
@[simp] theorem setPort_ls (g : Nat) (v : PortSt) : (s.setPort g v).ls = s.ls := rfl
@[simp] theorem setPort_lsWritten (g : Nat) (v : PortSt) : (s.setPort g v).lsWritten = s.lsWritten := rfl
@[simp] theorem setPort_cc (g : Nat) (v : PortSt) : (s.setPort g v).cc = s.cc := rfl
@[simp] theorem setPort_cmes (g : Nat) (v : PortSt) : (s.setPort g v).cmes = s.cmes := rfl
@[simp] theorem setPort_seats (g : Nat) (v : PortSt) : (s.setPort g v).seats = s.seats := rfl
@[simp] theorem setPort_well (g : Nat) (v : PortSt) : (s.setPort g v).well = s.well := rfl
@[simp] theorem setPort_pair (g : Nat) (v : PortSt) : (s.setPort g v).pair = s.pair := rfl
@[simp] theorem setPort_harts (g : Nat) (v : PortSt) : (s.setPort g v).harts = s.harts := rfl
@[simp] theorem setPort_imsic (g : Nat) (v : PortSt) : (s.setPort g v).imsic = s.imsic := rfl
@[simp] theorem setPort_dbg (g : Nat) (v : PortSt) : (s.setPort g v).dbg = s.dbg := rfl
@[simp] theorem setPort_pwr (g : Nat) (v : PortSt) : (s.setPort g v).pwr = s.pwr := rfl
@[simp] theorem setPort_free (g : Nat) (v : PortSt) : (s.setPort g v).free = s.free := rfl
@[simp] theorem setPort_now (g : Nat) (v : PortSt) : (s.setPort g v).now = s.now := rfl
@[simp] theorem setPort_outs (g : Nat) (v : PortSt) : (s.setPort g v).outs = s.outs := rfl
@[simp] theorem setPort_pending (g : Nat) (v : PortSt) : (s.setPort g v).pending = s.pending := rfl
@[simp] theorem setPort_reg (g : Nat) (v : PortSt) (i : Nat) : (s.setPort g v).reg i = s.reg i := rfl
@[simp] theorem setPort_err (g : Nat) (v : PortSt) (i : Nat) : (s.setPort g v).err i = s.err i := rfl
@[simp] theorem setPort_dst (g : Nat) (v : PortSt) (i : Nat) : (s.setPort g v).dst i = s.dst i := rfl
@[simp] theorem setPort_byte (g : Nat) (v : PortSt) (i : Nat) : (s.setPort g v).byte i = s.byte i := rfl
@[simp] theorem setPort_poisoned (g : Nat) (v : PortSt) (i : Nat) : (s.setPort g v).poisoned i = s.poisoned i := rfl
@[simp] theorem setPort_irqPending (g : Nat) (v : PortSt) (i : Nat) : (s.setPort g v).irqPending i = s.irqPending i := rfl
@[simp] theorem setPort_evcnt (g : Nat) (v : PortSt) (i : Nat) : (s.setPort g v).evcnt i = s.evcnt i := rfl
@[simp] theorem setPort_queue (g : Nat) (v : PortSt) (i : Nat) : (s.setPort g v).queue i = s.queue i := rfl
@[simp] theorem setPort_pdie (g : Nat) (v : PortSt) (i : Nat) : (s.setPort g v).pdie i = s.pdie i := rfl
@[simp] theorem setPort_hart (g : Nat) (v : PortSt) (i : Nat) : (s.setPort g v).hart i = s.hart i := rfl
@[simp] theorem setPort_dlink (g : Nat) (v : PortSt) (i : Nat) : (s.setPort g v).dlink i = s.dlink i := rfl
@[simp] theorem setPort_cme (g : Nat) (v : PortSt) (i : Nat) : (s.setPort g v).cme i = s.cme i := rfl
@[simp] theorem setPort_cu (g : Nat) (v : PortSt) (i : Nat) : (s.setPort g v).cu i = s.cu i := rfl
@[simp] theorem setPort_ccWay (g : Nat) (v : PortSt) (i : Nat) : (s.setPort g v).ccWay i = s.ccWay i := rfl
@[simp] theorem setPort_scWay (g : Nat) (v : PortSt) (i : Nat) : (s.setPort g v).scWay i = s.scWay i := rfl
@[simp] theorem setPort_nmc (g : Nat) (v : PortSt) (i j : Nat) : (s.setPort g v).nmc i j = s.nmc i j := rfl
@[simp] theorem setPort_home (g : Nat) (v : PortSt) (i j : Nat) : (s.setPort g v).home i j = s.home i j := rfl
@[simp] theorem setPort_mmu (g : Nat) (v : PortSt) (i : Nat) : (s.setPort g v).mmu i = s.mmu i := rfl
@[simp] theorem setPort_job (g : Nat) (v : PortSt) (i : Nat) : (s.setPort g v).job i = s.job i := rfl
@[simp] theorem setPort_item (g : Nat) (v : PortSt) (i : Nat) : (s.setPort g v).item i = s.item i := rfl
@[simp] theorem setPort_grp (g : Nat) (v : PortSt) (i j : Nat) : (s.setPort g v).grp i j = s.grp i j := rfl
@[simp] theorem setPort_vreg (g : Nat) (v : PortSt) (i j k l : Nat) : (s.setPort g v).vreg i j k l = s.vreg i j k l := rfl
@[simp] theorem setPort_seat (g : Nat) (v : PortSt) (i j : Nat) : (s.setPort g v).seat i j = s.seat i j := rfl

/-! ### setSeat -/

@[simp] theorem setSeat_fuses (g r : Nat) (v : Seat) : (s.setSeat g r v).fuses = s.fuses := rfl
@[simp] theorem setSeat_keys (g r : Nat) (v : Seat) : (s.setSeat g r v).keys = s.keys := rfl
@[simp] theorem setSeat_pins (g r : Nat) (v : Seat) : (s.setSeat g r v).pins = s.pins := rfl
@[simp] theorem setSeat_phase (g r : Nat) (v : Seat) : (s.setSeat g r v).phase = s.phase := rfl
@[simp] theorem setSeat_boot (g r : Nat) (v : Seat) : (s.setSeat g r v).boot = s.boot := rfl
@[simp] theorem setSeat_mgmt (g r : Nat) (v : Seat) : (s.setSeat g r v).mgmt = s.mgmt := rfl
@[simp] theorem setSeat_regs (g r : Nat) (v : Seat) : (s.setSeat g r v).regs = s.regs := rfl
@[simp] theorem setSeat_errs (g r : Nat) (v : Seat) : (s.setSeat g r v).errs = s.errs := rfl
@[simp] theorem setSeat_dstates (g r : Nat) (v : Seat) : (s.setSeat g r v).dstates = s.dstates := rfl
@[simp] theorem setSeat_mem (g r : Nat) (v : Seat) : (s.setSeat g r v).mem = s.mem := rfl
@[simp] theorem setSeat_poison (g r : Nat) (v : Seat) : (s.setSeat g r v).poison = s.poison := rfl
@[simp] theorem setSeat_sc (g r : Nat) (v : Seat) : (s.setSeat g r v).sc = s.sc := rfl
@[simp] theorem setSeat_nmcs (g r : Nat) (v : Seat) : (s.setSeat g r v).nmcs = s.nmcs := rfl
@[simp] theorem setSeat_fmcHeld (g r : Nat) (v : Seat) : (s.setSeat g r v).fmcHeld = s.fmcHeld := rfl
@[simp] theorem setSeat_homes (g r : Nat) (v : Seat) : (s.setSeat g r v).homes = s.homes := rfl
@[simp] theorem setSeat_dlinks (g r : Nat) (v : Seat) : (s.setSeat g r v).dlinks = s.dlinks := rfl
@[simp] theorem setSeat_elog (g r : Nat) (v : Seat) : (s.setSeat g r v).elog = s.elog := rfl
@[simp] theorem setSeat_ev (g r : Nat) (v : Seat) : (s.setSeat g r v).ev = s.ev := rfl
@[simp] theorem setSeat_mmus (g r : Nat) (v : Seat) : (s.setSeat g r v).mmus = s.mmus := rfl
@[simp] theorem setSeat_invs (g r : Nat) (v : Seat) : (s.setSeat g r v).invs = s.invs := rfl
@[simp] theorem setSeat_invDone (g r : Nat) (v : Seat) : (s.setSeat g r v).invDone = s.invDone := rfl
@[simp] theorem setSeat_sump (g r : Nat) (v : Seat) : (s.setSeat g r v).sump = s.sump := rfl
@[simp] theorem setSeat_queues (g r : Nat) (v : Seat) : (s.setSeat g r v).queues = s.queues := rfl
@[simp] theorem setSeat_accepted (g r : Nat) (v : Seat) : (s.setSeat g r v).accepted = s.accepted := rfl
@[simp] theorem setSeat_jobs (g r : Nat) (v : Seat) : (s.setSeat g r v).jobs = s.jobs := rfl
@[simp] theorem setSeat_items (g r : Nat) (v : Seat) : (s.setSeat g r v).items = s.items := rfl
@[simp] theorem setSeat_nextItem (g r : Nat) (v : Seat) : (s.setSeat g r v).nextItem = s.nextItem := rfl
@[simp] theorem setSeat_jseqs (g r : Nat) (v : Seat) : (s.setSeat g r v).jseqs = s.jseqs := rfl
@[simp] theorem setSeat_units (g r : Nat) (v : Seat) : (s.setSeat g r v).units = s.units := rfl
@[simp] theorem setSeat_groups (g r : Nat) (v : Seat) : (s.setSeat g r v).groups = s.groups := rfl
@[simp] theorem setSeat_vregs (g r : Nat) (v : Seat) : (s.setSeat g r v).vregs = s.vregs := rfl
@[simp] theorem setSeat_ls (g r : Nat) (v : Seat) : (s.setSeat g r v).ls = s.ls := rfl
@[simp] theorem setSeat_lsWritten (g r : Nat) (v : Seat) : (s.setSeat g r v).lsWritten = s.lsWritten := rfl
@[simp] theorem setSeat_cc (g r : Nat) (v : Seat) : (s.setSeat g r v).cc = s.cc := rfl
@[simp] theorem setSeat_cmes (g r : Nat) (v : Seat) : (s.setSeat g r v).cmes = s.cmes := rfl
@[simp] theorem setSeat_fab (g r : Nat) (v : Seat) : (s.setSeat g r v).fab = s.fab := rfl
@[simp] theorem setSeat_well (g r : Nat) (v : Seat) : (s.setSeat g r v).well = s.well := rfl
@[simp] theorem setSeat_pair (g r : Nat) (v : Seat) : (s.setSeat g r v).pair = s.pair := rfl
@[simp] theorem setSeat_harts (g r : Nat) (v : Seat) : (s.setSeat g r v).harts = s.harts := rfl
@[simp] theorem setSeat_imsic (g r : Nat) (v : Seat) : (s.setSeat g r v).imsic = s.imsic := rfl
@[simp] theorem setSeat_dbg (g r : Nat) (v : Seat) : (s.setSeat g r v).dbg = s.dbg := rfl
@[simp] theorem setSeat_pwr (g r : Nat) (v : Seat) : (s.setSeat g r v).pwr = s.pwr := rfl
@[simp] theorem setSeat_free (g r : Nat) (v : Seat) : (s.setSeat g r v).free = s.free := rfl
@[simp] theorem setSeat_now (g r : Nat) (v : Seat) : (s.setSeat g r v).now = s.now := rfl
@[simp] theorem setSeat_outs (g r : Nat) (v : Seat) : (s.setSeat g r v).outs = s.outs := rfl
@[simp] theorem setSeat_pending (g r : Nat) (v : Seat) : (s.setSeat g r v).pending = s.pending := rfl
@[simp] theorem setSeat_reg (g r : Nat) (v : Seat) (i : Nat) : (s.setSeat g r v).reg i = s.reg i := rfl
@[simp] theorem setSeat_err (g r : Nat) (v : Seat) (i : Nat) : (s.setSeat g r v).err i = s.err i := rfl
@[simp] theorem setSeat_dst (g r : Nat) (v : Seat) (i : Nat) : (s.setSeat g r v).dst i = s.dst i := rfl
@[simp] theorem setSeat_byte (g r : Nat) (v : Seat) (i : Nat) : (s.setSeat g r v).byte i = s.byte i := rfl
@[simp] theorem setSeat_poisoned (g r : Nat) (v : Seat) (i : Nat) : (s.setSeat g r v).poisoned i = s.poisoned i := rfl
@[simp] theorem setSeat_irqPending (g r : Nat) (v : Seat) (i : Nat) : (s.setSeat g r v).irqPending i = s.irqPending i := rfl
@[simp] theorem setSeat_evcnt (g r : Nat) (v : Seat) (i : Nat) : (s.setSeat g r v).evcnt i = s.evcnt i := rfl
@[simp] theorem setSeat_queue (g r : Nat) (v : Seat) (i : Nat) : (s.setSeat g r v).queue i = s.queue i := rfl
@[simp] theorem setSeat_pdie (g r : Nat) (v : Seat) (i : Nat) : (s.setSeat g r v).pdie i = s.pdie i := rfl
@[simp] theorem setSeat_hart (g r : Nat) (v : Seat) (i : Nat) : (s.setSeat g r v).hart i = s.hart i := rfl
@[simp] theorem setSeat_dlink (g r : Nat) (v : Seat) (i : Nat) : (s.setSeat g r v).dlink i = s.dlink i := rfl
@[simp] theorem setSeat_cme (g r : Nat) (v : Seat) (i : Nat) : (s.setSeat g r v).cme i = s.cme i := rfl
@[simp] theorem setSeat_cu (g r : Nat) (v : Seat) (i : Nat) : (s.setSeat g r v).cu i = s.cu i := rfl
@[simp] theorem setSeat_ccWay (g r : Nat) (v : Seat) (i : Nat) : (s.setSeat g r v).ccWay i = s.ccWay i := rfl
@[simp] theorem setSeat_scWay (g r : Nat) (v : Seat) (i : Nat) : (s.setSeat g r v).scWay i = s.scWay i := rfl
@[simp] theorem setSeat_nmc (g r : Nat) (v : Seat) (i j : Nat) : (s.setSeat g r v).nmc i j = s.nmc i j := rfl
@[simp] theorem setSeat_home (g r : Nat) (v : Seat) (i j : Nat) : (s.setSeat g r v).home i j = s.home i j := rfl
@[simp] theorem setSeat_mmu (g r : Nat) (v : Seat) (i : Nat) : (s.setSeat g r v).mmu i = s.mmu i := rfl
@[simp] theorem setSeat_job (g r : Nat) (v : Seat) (i : Nat) : (s.setSeat g r v).job i = s.job i := rfl
@[simp] theorem setSeat_item (g r : Nat) (v : Seat) (i : Nat) : (s.setSeat g r v).item i = s.item i := rfl
@[simp] theorem setSeat_grp (g r : Nat) (v : Seat) (i j : Nat) : (s.setSeat g r v).grp i j = s.grp i j := rfl
@[simp] theorem setSeat_vreg (g r : Nat) (v : Seat) (i j k l : Nat) : (s.setSeat g r v).vreg i j k l = s.vreg i j k l := rfl
@[simp] theorem setSeat_flow (g r : Nat) (v : Seat) (i : Nat) : (s.setSeat g r v).flow i = s.flow i := rfl
@[simp] theorem setSeat_port (g r : Nat) (v : Seat) (i : Nat) : (s.setSeat g r v).port i = s.port i := rfl

/-! ### A read after the write -/

@[simp] theorem setReg_reg (a : Nat) (v : W64) (i : Nat) : (s.setReg a v).reg i = if i = a then v else s.reg i :=
  get_put _ _ _ _ _
@[simp] theorem setDst_dst (p v : Nat) (i : Nat) : (s.setDst p v).dst i = if i = p then v else s.dst i :=
  get_put _ _ _ _ _
@[simp] theorem setByte_byte (a : Nat) (b : Byte) (i : Nat) : (s.setByte a b).byte i = if i = a then b else s.byte i :=
  get_put _ _ _ _ _
@[simp] theorem setEvcnt_evcnt (a : Nat) (v : W64) (i : Nat) : (s.setEvcnt a v).evcnt i = if i = a then v else s.evcnt i :=
  get_put _ _ _ _ _
@[simp] theorem setQueue_queue (q : Nat) (v : QueueSt) (i : Nat) : (s.setQueue q v).queue i = if i = q then v else s.queue i :=
  get_put _ _ _ _ _
@[simp] theorem setPdie_pdie (d : Nat) (v : PwrDie) (i : Nat) : (s.setPdie d v).pdie i = if i = d then v else s.pdie i :=
  get_put _ _ _ _ _
@[simp] theorem setHart_hart (h : Nat) (v : Hart) (i : Nat) : (s.setHart h v).hart i = if i = h then v else s.hart i :=
  get_put _ _ _ _ _
@[simp] theorem setDlink_dlink (n : Nat) (v : DieLink) (i : Nat) : (s.setDlink n v).dlink i = if i = n then v else s.dlink i :=
  get_put _ _ _ _ _
@[simp] theorem setCme_cme (d : Nat) (v : CmeSt) (i : Nat) : (s.setCme d v).cme i = if i = d then v else s.cme i :=
  get_put _ _ _ _ _
@[simp] theorem setCu_cu (u : Nat) (v : CuSt) (i : Nat) : (s.setCu u v).cu i = if i = u then v else s.cu i :=
  get_put _ _ _ _ _
@[simp] theorem setCcWay_ccWay (w : Nat) (v : CcLine) (i : Nat) : (s.setCcWay w v).ccWay i = if i = w then v else s.ccWay i :=
  get_put _ _ _ _ _
@[simp] theorem setScWay_scWay (w : Nat) (v : ScLine) (i : Nat) : (s.setScWay w v).scWay i = if i = w then v else s.scWay i :=
  get_put _ _ _ _ _
@[simp] theorem setMmu_mmu (d : Nat) (v : MmuSt) (i : Nat) : (s.setMmu d v).mmu i = if i = d then v else s.mmu i :=
  get_put _ _ _ _ _
@[simp] theorem setJob_job (jn : Nat) (v : Option Job) (i : Nat) : (s.setJob jn v).job i = if i = jn then v else s.job i :=
  get_put _ _ _ _ _
@[simp] theorem setItem_item (n : Nat) (v : Option Item) (i : Nat) : (s.setItem n v).item i = if i = n then v else s.item i :=
  get_put _ _ _ _ _
@[simp] theorem setPort_port (g : Nat) (v : PortSt) (i : Nat) : (s.setPort g v).port i = if i = g then v else s.port i :=
  get_put _ _ _ _ _
@[simp] theorem setNmc_nmc (d c : Nat) (v : NmcSt) (i j : Nat) : (s.setNmc d c v).nmc i j = if i * 16 + j = d * 16 + c then v else s.nmc i j :=
  get_put _ _ _ _ _
@[simp] theorem setHome_home (d h : Nat) (v : HomeSt) (i j : Nat) : (s.setHome d h v).home i j = if i * 16 + j = d * 16 + h then v else s.home i j :=
  get_put _ _ _ _ _
@[simp] theorem setGrp_grp (u h : Nat) (v : Option Group) (i j : Nat) : (s.setGrp u h v).grp i j = if gKey i j = gKey u h then v else s.grp i j :=
  get_put _ _ _ _ _
@[simp] theorem setSeat_seat (g r : Nat) (v : Seat) (i j : Nat) : (s.setSeat g r v).seat i j = if seatKey i j = seatKey g r then v else s.seat i j :=
  get_put _ _ _ _ _
@[simp] theorem setPoison_poisoned (a : Nat) (b : Bool) (i : Nat) : (s.setPoison a b).poisoned i = if i / 128 = a / 128 then b else s.poisoned i :=
  get_put _ _ _ _ _
@[simp] theorem setVreg_vreg (u h r t v i j k l : Nat) :
    (s.setVreg u h r t v).vreg i j k l = if vKey i j k l = vKey u h r t then v % 2 ^ 32 else s.vreg i j k l := by
  unfold State.setVreg State.vreg
  rw [get_put]
  split <;> simp
@[simp] theorem setPort_flow (g : Nat) (v : PortSt) (i : Nat) : (s.setPort g v).flow i = s.flow i := rfl
@[simp] theorem setRegF_eq (p o hi lo v : Nat) :
    s.setRegF p o hi lo v = s.setReg (regAddr p o) (setFld hi lo (s.reg (regAddr p o)) v) := rfl

/-- Reading the bytes just stored. -/
theorem putBytes_byte (bs : List Byte) (a i : Nat) :
    (s.putBytes a bs).byte i = if a ≤ i ∧ i < a + bs.length then bs.getD (i - a) 0 else s.byte i := by
  have h : ∀ (bs : List Byte) (m : SMap Byte) (a : Nat), (memPut m a bs).get memDflt i =
      if a ≤ i ∧ i < a + bs.length then bs.getD (i - a) 0 else m.get memDflt i := by
    intro bs
    induction bs with
    | nil => intro m a; simp [memPut] <;> omega
    | cons b bs ih =>
      intro m a
      rw [memPut, ih, get_put]
      by_cases h1 : i = a
      · subst h1; simp <;> omega
      · by_cases h2 : a ≤ i ∧ i < a + (b :: bs).length
        · have h3 : a + 1 ≤ i ∧ i < a + 1 + bs.length := by simp at h2; omega
          have h4 : i - a = (i - (a + 1)) + 1 := by omega
          rw [if_pos h2, if_pos h3, h4, List.getD_cons_succ]
        · have h3 : ¬ (a + 1 ≤ i ∧ i < a + 1 + bs.length) := by simp at h2; omega
          rw [if_neg h2, if_neg h3, if_neg h1]
  exact h bs s.mem a

end Sys2Proof.Laws
end

