-- ==== Sys2Proof/Laws/Ops.lean ====
section
/-! SUPPORT. What the shared operations change: events, errors, records, interrupts. One law per operation says which
parts of the state it can change (both sides agree once those parts are blanked), and from it what the operation
leaves of every other field and read. -/

namespace Sys2Proof.Laws

open Sys2Proof.Machine

/-- The state but for events, memory, pending interrupts and what was shown. -/
def quiet (s : State) : State :=
  { s with ev := ⟨[], 0, false, false⟩, mem := [], imsic := [], outs := [] }

/-- The state but for these, the error bits and the error log. -/
def quietErr (s : State) : State :=
  { s with ev := ⟨[], 0, false, false⟩, mem := [], imsic := [], outs := [], errs := [], elog := ⟨0, 0, 0, 0, [], []⟩ }

/-- The state but for events, memory, pending interrupts, what was shown, and the queues. -/
def quietRec (s : State) : State :=
  { s with ev := ⟨[], 0, false, false⟩, mem := [], imsic := [], outs := [], queues := [] }

/-- The state but for these, the cache-maintenance engines and the fabric. -/
def quietDesc (s : State) : State :=
  { s with ev := ⟨[], 0, false, false⟩, mem := [], imsic := [], outs := [], queues := [], cmes := [], fab := FabSt.reset }

/-- The state but for the registers, what was shown and the phase. -/
def quietStop (s : State) : State :=
  { s with regs := [], outs := [], phase := .fatal }

theorem quietErr_of {s t : State} (h : quiet t = quiet s) : quietErr t = quietErr s := (congrArg quietErr h :)
theorem quietRec_of {s t : State} (h : quiet t = quiet s) : quietRec t = quietRec s := (congrArg quietRec h :)
theorem quietDesc_of {s t : State} (h : quietRec t = quietRec s) : quietDesc t = quietDesc s := (congrArg quietDesc h :)

/-- A fold of steps each of which changes only events, memory, pending interrupts and what is shown. -/
theorem quiet_foldl {α : Type} {g : State → α → State} (hg : ∀ t a, quiet (g t a) = quiet t) (l : List α) (s : State) :
    quiet (l.foldl g s) = quiet s := by
  induction l generalizing s with
  | nil => rfl
  | cons a l ih => rw [List.foldl_cons, ih, hg]

variable (s : State)

theorem quietRec_ite {c : Prop} [Decidable c] {a b : State} (ha : quietRec a = quietRec s) (hb : quietRec b = quietRec s) :
    quietRec (if c then a else b) = quietRec s := by
  split
  · exact ha
  · exact hb
theorem setEvcnt_quiet (a : Nat) (v : W64) : quiet (s.setEvcnt a v) = quiet s := rfl
theorem putBytes_quiet (a : Nat) (bs : List Byte) : quiet (s.putBytes a bs) = quiet s := rfl
theorem setQueue_quietRec (q : Nat) (v : QueueSt) : quietRec (s.setQueue q v) = quietRec s := rfl
theorem setCme_quietDesc (d : Nat) (v : CmeSt) : quietDesc (s.setCme d v) = quietDesc s := rfl
theorem ev_quiet (e : Events) : quiet { s with ev := e } = quiet s := rfl
theorem errs_quietErr (m : SMap W64) : quietErr { s with errs := m } = quietErr s := rfl
theorem elog_err (e : Elog) (i : Nat) : State.err { s with elog := e } i = s.err i := rfl
theorem elog_quietErr (e : Elog) : quietErr { s with elog := e } = quietErr s := rfl

/-! ### msiWrite -/

theorem msiWrite_quiet (a v : Nat) : quiet (msiWrite s a v) = quiet s := by
  unfold msiWrite
  split
  · split <;> rfl
  · split <;> rfl

@[simp] theorem msiWrite_fuses (a v : Nat) : (msiWrite s a v).fuses = s.fuses := (congrArg State.fuses (msiWrite_quiet s a v) :)
@[simp] theorem msiWrite_keys (a v : Nat) : (msiWrite s a v).keys = s.keys := (congrArg State.keys (msiWrite_quiet s a v) :)
@[simp] theorem msiWrite_pins (a v : Nat) : (msiWrite s a v).pins = s.pins := (congrArg State.pins (msiWrite_quiet s a v) :)
@[simp] theorem msiWrite_phase (a v : Nat) : (msiWrite s a v).phase = s.phase := (congrArg State.phase (msiWrite_quiet s a v) :)
@[simp] theorem msiWrite_boot (a v : Nat) : (msiWrite s a v).boot = s.boot := (congrArg State.boot (msiWrite_quiet s a v) :)
@[simp] theorem msiWrite_mgmt (a v : Nat) : (msiWrite s a v).mgmt = s.mgmt := (congrArg State.mgmt (msiWrite_quiet s a v) :)
@[simp] theorem msiWrite_regs (a v : Nat) : (msiWrite s a v).regs = s.regs := (congrArg State.regs (msiWrite_quiet s a v) :)
@[simp] theorem msiWrite_errs (a v : Nat) : (msiWrite s a v).errs = s.errs := (congrArg State.errs (msiWrite_quiet s a v) :)
@[simp] theorem msiWrite_dstates (a v : Nat) : (msiWrite s a v).dstates = s.dstates := (congrArg State.dstates (msiWrite_quiet s a v) :)
@[simp] theorem msiWrite_poison (a v : Nat) : (msiWrite s a v).poison = s.poison := (congrArg State.poison (msiWrite_quiet s a v) :)
@[simp] theorem msiWrite_sc (a v : Nat) : (msiWrite s a v).sc = s.sc := (congrArg State.sc (msiWrite_quiet s a v) :)
@[simp] theorem msiWrite_nmcs (a v : Nat) : (msiWrite s a v).nmcs = s.nmcs := (congrArg State.nmcs (msiWrite_quiet s a v) :)
@[simp] theorem msiWrite_fmcHeld (a v : Nat) : (msiWrite s a v).fmcHeld = s.fmcHeld := (congrArg State.fmcHeld (msiWrite_quiet s a v) :)
@[simp] theorem msiWrite_homes (a v : Nat) : (msiWrite s a v).homes = s.homes := (congrArg State.homes (msiWrite_quiet s a v) :)
@[simp] theorem msiWrite_dlinks (a v : Nat) : (msiWrite s a v).dlinks = s.dlinks := (congrArg State.dlinks (msiWrite_quiet s a v) :)
@[simp] theorem msiWrite_elog (a v : Nat) : (msiWrite s a v).elog = s.elog := (congrArg State.elog (msiWrite_quiet s a v) :)
@[simp] theorem msiWrite_mmus (a v : Nat) : (msiWrite s a v).mmus = s.mmus := (congrArg State.mmus (msiWrite_quiet s a v) :)
@[simp] theorem msiWrite_invs (a v : Nat) : (msiWrite s a v).invs = s.invs := (congrArg State.invs (msiWrite_quiet s a v) :)
@[simp] theorem msiWrite_invDone (a v : Nat) : (msiWrite s a v).invDone = s.invDone := (congrArg State.invDone (msiWrite_quiet s a v) :)
@[simp] theorem msiWrite_sump (a v : Nat) : (msiWrite s a v).sump = s.sump := (congrArg State.sump (msiWrite_quiet s a v) :)
@[simp] theorem msiWrite_queues (a v : Nat) : (msiWrite s a v).queues = s.queues := (congrArg State.queues (msiWrite_quiet s a v) :)
@[simp] theorem msiWrite_accepted (a v : Nat) : (msiWrite s a v).accepted = s.accepted := (congrArg State.accepted (msiWrite_quiet s a v) :)
@[simp] theorem msiWrite_jobs (a v : Nat) : (msiWrite s a v).jobs = s.jobs := (congrArg State.jobs (msiWrite_quiet s a v) :)
@[simp] theorem msiWrite_items (a v : Nat) : (msiWrite s a v).items = s.items := (congrArg State.items (msiWrite_quiet s a v) :)
@[simp] theorem msiWrite_nextItem (a v : Nat) : (msiWrite s a v).nextItem = s.nextItem := (congrArg State.nextItem (msiWrite_quiet s a v) :)
@[simp] theorem msiWrite_jseqs (a v : Nat) : (msiWrite s a v).jseqs = s.jseqs := (congrArg State.jseqs (msiWrite_quiet s a v) :)
@[simp] theorem msiWrite_units (a v : Nat) : (msiWrite s a v).units = s.units := (congrArg State.units (msiWrite_quiet s a v) :)
@[simp] theorem msiWrite_groups (a v : Nat) : (msiWrite s a v).groups = s.groups := (congrArg State.groups (msiWrite_quiet s a v) :)
@[simp] theorem msiWrite_vregs (a v : Nat) : (msiWrite s a v).vregs = s.vregs := (congrArg State.vregs (msiWrite_quiet s a v) :)
@[simp] theorem msiWrite_ls (a v : Nat) : (msiWrite s a v).ls = s.ls := (congrArg State.ls (msiWrite_quiet s a v) :)
@[simp] theorem msiWrite_lsWritten (a v : Nat) : (msiWrite s a v).lsWritten = s.lsWritten := (congrArg State.lsWritten (msiWrite_quiet s a v) :)
@[simp] theorem msiWrite_cc (a v : Nat) : (msiWrite s a v).cc = s.cc := (congrArg State.cc (msiWrite_quiet s a v) :)
@[simp] theorem msiWrite_cmes (a v : Nat) : (msiWrite s a v).cmes = s.cmes := (congrArg State.cmes (msiWrite_quiet s a v) :)
@[simp] theorem msiWrite_fab (a v : Nat) : (msiWrite s a v).fab = s.fab := (congrArg State.fab (msiWrite_quiet s a v) :)
@[simp] theorem msiWrite_seats (a v : Nat) : (msiWrite s a v).seats = s.seats := (congrArg State.seats (msiWrite_quiet s a v) :)
@[simp] theorem msiWrite_well (a v : Nat) : (msiWrite s a v).well = s.well := (congrArg State.well (msiWrite_quiet s a v) :)
@[simp] theorem msiWrite_pair (a v : Nat) : (msiWrite s a v).pair = s.pair := (congrArg State.pair (msiWrite_quiet s a v) :)
@[simp] theorem msiWrite_harts (a v : Nat) : (msiWrite s a v).harts = s.harts := (congrArg State.harts (msiWrite_quiet s a v) :)
@[simp] theorem msiWrite_dbg (a v : Nat) : (msiWrite s a v).dbg = s.dbg := (congrArg State.dbg (msiWrite_quiet s a v) :)
@[simp] theorem msiWrite_pwr (a v : Nat) : (msiWrite s a v).pwr = s.pwr := (congrArg State.pwr (msiWrite_quiet s a v) :)
@[simp] theorem msiWrite_free (a v : Nat) : (msiWrite s a v).free = s.free := (congrArg State.free (msiWrite_quiet s a v) :)
@[simp] theorem msiWrite_now (a v : Nat) : (msiWrite s a v).now = s.now := (congrArg State.now (msiWrite_quiet s a v) :)
@[simp] theorem msiWrite_pending (a v : Nat) : (msiWrite s a v).pending = s.pending := (congrArg State.pending (msiWrite_quiet s a v) :)
@[simp] theorem msiWrite_reg (a v : Nat) (i : Nat) : (msiWrite s a v).reg i = s.reg i :=
  (congrArg (fun t => State.reg t i) (msiWrite_quiet s a v) :)
@[simp] theorem msiWrite_err (a v : Nat) (i : Nat) : (msiWrite s a v).err i = s.err i :=
  (congrArg (fun t => State.err t i) (msiWrite_quiet s a v) :)
@[simp] theorem msiWrite_dst (a v : Nat) (i : Nat) : (msiWrite s a v).dst i = s.dst i :=
  (congrArg (fun t => State.dst t i) (msiWrite_quiet s a v) :)
@[simp] theorem msiWrite_poisoned (a v : Nat) (i : Nat) : (msiWrite s a v).poisoned i = s.poisoned i :=
  (congrArg (fun t => State.poisoned t i) (msiWrite_quiet s a v) :)
@[simp] theorem msiWrite_queue (a v : Nat) (i : Nat) : (msiWrite s a v).queue i = s.queue i :=
  (congrArg (fun t => State.queue t i) (msiWrite_quiet s a v) :)
@[simp] theorem msiWrite_pdie (a v : Nat) (i : Nat) : (msiWrite s a v).pdie i = s.pdie i :=
  (congrArg (fun t => State.pdie t i) (msiWrite_quiet s a v) :)
@[simp] theorem msiWrite_hart (a v : Nat) (i : Nat) : (msiWrite s a v).hart i = s.hart i :=
  (congrArg (fun t => State.hart t i) (msiWrite_quiet s a v) :)
@[simp] theorem msiWrite_dlink (a v : Nat) (i : Nat) : (msiWrite s a v).dlink i = s.dlink i :=
  (congrArg (fun t => State.dlink t i) (msiWrite_quiet s a v) :)
@[simp] theorem msiWrite_cme (a v : Nat) (i : Nat) : (msiWrite s a v).cme i = s.cme i :=
  (congrArg (fun t => State.cme t i) (msiWrite_quiet s a v) :)
@[simp] theorem msiWrite_cu (a v : Nat) (i : Nat) : (msiWrite s a v).cu i = s.cu i :=
  (congrArg (fun t => State.cu t i) (msiWrite_quiet s a v) :)
@[simp] theorem msiWrite_ccWay (a v : Nat) (i : Nat) : (msiWrite s a v).ccWay i = s.ccWay i :=
  (congrArg (fun t => State.ccWay t i) (msiWrite_quiet s a v) :)
@[simp] theorem msiWrite_scWay (a v : Nat) (i : Nat) : (msiWrite s a v).scWay i = s.scWay i :=
  (congrArg (fun t => State.scWay t i) (msiWrite_quiet s a v) :)
@[simp] theorem msiWrite_nmc (a v : Nat) (i j : Nat) : (msiWrite s a v).nmc i j = s.nmc i j :=
  (congrArg (fun t => State.nmc t i j) (msiWrite_quiet s a v) :)
@[simp] theorem msiWrite_home (a v : Nat) (i j : Nat) : (msiWrite s a v).home i j = s.home i j :=
  (congrArg (fun t => State.home t i j) (msiWrite_quiet s a v) :)
@[simp] theorem msiWrite_mmu (a v : Nat) (i : Nat) : (msiWrite s a v).mmu i = s.mmu i :=
  (congrArg (fun t => State.mmu t i) (msiWrite_quiet s a v) :)
@[simp] theorem msiWrite_job (a v : Nat) (i : Nat) : (msiWrite s a v).job i = s.job i :=
  (congrArg (fun t => State.job t i) (msiWrite_quiet s a v) :)
@[simp] theorem msiWrite_item (a v : Nat) (i : Nat) : (msiWrite s a v).item i = s.item i :=
  (congrArg (fun t => State.item t i) (msiWrite_quiet s a v) :)
@[simp] theorem msiWrite_grp (a v : Nat) (i j : Nat) : (msiWrite s a v).grp i j = s.grp i j :=
  (congrArg (fun t => State.grp t i j) (msiWrite_quiet s a v) :)
@[simp] theorem msiWrite_vreg (a v : Nat) (i j k l : Nat) : (msiWrite s a v).vreg i j k l = s.vreg i j k l :=
  (congrArg (fun t => State.vreg t i j k l) (msiWrite_quiet s a v) :)
@[simp] theorem msiWrite_flow (a v : Nat) (i : Nat) : (msiWrite s a v).flow i = s.flow i :=
  (congrArg (fun t => State.flow t i) (msiWrite_quiet s a v) :)
@[simp] theorem msiWrite_port (a v : Nat) (i : Nat) : (msiWrite s a v).port i = s.port i :=
  (congrArg (fun t => State.port t i) (msiWrite_quiet s a v) :)
@[simp] theorem msiWrite_seat (a v : Nat) (i j : Nat) : (msiWrite s a v).seat i j = s.seat i j :=
  (congrArg (fun t => State.seat t i j) (msiWrite_quiet s a v) :)

/-! ### evInterrupt -/

theorem evInterrupt_quiet  : quiet (evInterrupt s) = quiet s := by
  unfold evInterrupt
  extract_lets a
  split
  · split
    · exact ev_quiet s _
    · exact (msiWrite_quiet _ _ _).trans (ev_quiet s _)
  · rfl

/-! ### evOverflowed -/

theorem evOverflowed_quiet (p n : Nat) : quiet (evOverflowed s p n) = quiet s := by
  unfold evOverflowed
  split
  · rfl
  · exact (evInterrupt_quiet _).trans (ev_quiet s _)

/-! ### evAdd -/

theorem evAdd_quiet (p c n : Nat) : quiet (evAdd s p c n) = quiet s := by
  unfold evAdd
  extract_lets old sum ovf wraps t
  have ht : quiet t = quiet s := setEvcnt_quiet s _ _
  clear_value t
  split
  · exact (evOverflowed_quiet t p c).trans ht
  · exact ht

/-! ### countEv -/

theorem countEv_quiet (p src n : Nat) : quiet (countEv s p src n) = quiet s := by
  unfold countEv
  dsimp only
  split
  · rfl
  · have h1 : ∀ l : List Nat, ∀ t : State,
        quiet (l.foldl (fun t c => if counts t p c src then evAdd t p c n else t) t) = quiet t :=
      fun l t => quiet_foldl (fun t c => by split; exact evAdd_quiet t p c n; rfl) l t
    have h2 : ∀ l : List Nat, ∀ t : State, quiet (l.foldl (fun t c =>
        if countsX t (p / 8192) p (c + 4) src then evAdd t (pgDie (p / 8192)) (c + 4) n else t) t) = quiet t :=
      fun l t => quiet_foldl (fun t c => by split; exact evAdd_quiet t _ _ n; rfl) l t
    split
    · rw [h2, h1]
    · rw [h1]

@[simp] theorem countEv_fuses (p src n : Nat) : (countEv s p src n).fuses = s.fuses := (congrArg State.fuses (countEv_quiet s p src n) :)
@[simp] theorem countEv_keys (p src n : Nat) : (countEv s p src n).keys = s.keys := (congrArg State.keys (countEv_quiet s p src n) :)
@[simp] theorem countEv_pins (p src n : Nat) : (countEv s p src n).pins = s.pins := (congrArg State.pins (countEv_quiet s p src n) :)
@[simp] theorem countEv_phase (p src n : Nat) : (countEv s p src n).phase = s.phase := (congrArg State.phase (countEv_quiet s p src n) :)
@[simp] theorem countEv_boot (p src n : Nat) : (countEv s p src n).boot = s.boot := (congrArg State.boot (countEv_quiet s p src n) :)
@[simp] theorem countEv_mgmt (p src n : Nat) : (countEv s p src n).mgmt = s.mgmt := (congrArg State.mgmt (countEv_quiet s p src n) :)
@[simp] theorem countEv_regs (p src n : Nat) : (countEv s p src n).regs = s.regs := (congrArg State.regs (countEv_quiet s p src n) :)
@[simp] theorem countEv_errs (p src n : Nat) : (countEv s p src n).errs = s.errs := (congrArg State.errs (countEv_quiet s p src n) :)
@[simp] theorem countEv_dstates (p src n : Nat) : (countEv s p src n).dstates = s.dstates := (congrArg State.dstates (countEv_quiet s p src n) :)
@[simp] theorem countEv_poison (p src n : Nat) : (countEv s p src n).poison = s.poison := (congrArg State.poison (countEv_quiet s p src n) :)
@[simp] theorem countEv_sc (p src n : Nat) : (countEv s p src n).sc = s.sc := (congrArg State.sc (countEv_quiet s p src n) :)
@[simp] theorem countEv_nmcs (p src n : Nat) : (countEv s p src n).nmcs = s.nmcs := (congrArg State.nmcs (countEv_quiet s p src n) :)
@[simp] theorem countEv_fmcHeld (p src n : Nat) : (countEv s p src n).fmcHeld = s.fmcHeld := (congrArg State.fmcHeld (countEv_quiet s p src n) :)
@[simp] theorem countEv_homes (p src n : Nat) : (countEv s p src n).homes = s.homes := (congrArg State.homes (countEv_quiet s p src n) :)
@[simp] theorem countEv_dlinks (p src n : Nat) : (countEv s p src n).dlinks = s.dlinks := (congrArg State.dlinks (countEv_quiet s p src n) :)
@[simp] theorem countEv_elog (p src n : Nat) : (countEv s p src n).elog = s.elog := (congrArg State.elog (countEv_quiet s p src n) :)
@[simp] theorem countEv_mmus (p src n : Nat) : (countEv s p src n).mmus = s.mmus := (congrArg State.mmus (countEv_quiet s p src n) :)
@[simp] theorem countEv_invs (p src n : Nat) : (countEv s p src n).invs = s.invs := (congrArg State.invs (countEv_quiet s p src n) :)
@[simp] theorem countEv_invDone (p src n : Nat) : (countEv s p src n).invDone = s.invDone := (congrArg State.invDone (countEv_quiet s p src n) :)
@[simp] theorem countEv_sump (p src n : Nat) : (countEv s p src n).sump = s.sump := (congrArg State.sump (countEv_quiet s p src n) :)
@[simp] theorem countEv_queues (p src n : Nat) : (countEv s p src n).queues = s.queues := (congrArg State.queues (countEv_quiet s p src n) :)
@[simp] theorem countEv_accepted (p src n : Nat) : (countEv s p src n).accepted = s.accepted := (congrArg State.accepted (countEv_quiet s p src n) :)
@[simp] theorem countEv_jobs (p src n : Nat) : (countEv s p src n).jobs = s.jobs := (congrArg State.jobs (countEv_quiet s p src n) :)
@[simp] theorem countEv_items (p src n : Nat) : (countEv s p src n).items = s.items := (congrArg State.items (countEv_quiet s p src n) :)
@[simp] theorem countEv_nextItem (p src n : Nat) : (countEv s p src n).nextItem = s.nextItem := (congrArg State.nextItem (countEv_quiet s p src n) :)
@[simp] theorem countEv_jseqs (p src n : Nat) : (countEv s p src n).jseqs = s.jseqs := (congrArg State.jseqs (countEv_quiet s p src n) :)
@[simp] theorem countEv_units (p src n : Nat) : (countEv s p src n).units = s.units := (congrArg State.units (countEv_quiet s p src n) :)
@[simp] theorem countEv_groups (p src n : Nat) : (countEv s p src n).groups = s.groups := (congrArg State.groups (countEv_quiet s p src n) :)
@[simp] theorem countEv_vregs (p src n : Nat) : (countEv s p src n).vregs = s.vregs := (congrArg State.vregs (countEv_quiet s p src n) :)
@[simp] theorem countEv_ls (p src n : Nat) : (countEv s p src n).ls = s.ls := (congrArg State.ls (countEv_quiet s p src n) :)
@[simp] theorem countEv_lsWritten (p src n : Nat) : (countEv s p src n).lsWritten = s.lsWritten := (congrArg State.lsWritten (countEv_quiet s p src n) :)
@[simp] theorem countEv_cc (p src n : Nat) : (countEv s p src n).cc = s.cc := (congrArg State.cc (countEv_quiet s p src n) :)
@[simp] theorem countEv_cmes (p src n : Nat) : (countEv s p src n).cmes = s.cmes := (congrArg State.cmes (countEv_quiet s p src n) :)
@[simp] theorem countEv_fab (p src n : Nat) : (countEv s p src n).fab = s.fab := (congrArg State.fab (countEv_quiet s p src n) :)
@[simp] theorem countEv_seats (p src n : Nat) : (countEv s p src n).seats = s.seats := (congrArg State.seats (countEv_quiet s p src n) :)
@[simp] theorem countEv_well (p src n : Nat) : (countEv s p src n).well = s.well := (congrArg State.well (countEv_quiet s p src n) :)
@[simp] theorem countEv_pair (p src n : Nat) : (countEv s p src n).pair = s.pair := (congrArg State.pair (countEv_quiet s p src n) :)
@[simp] theorem countEv_harts (p src n : Nat) : (countEv s p src n).harts = s.harts := (congrArg State.harts (countEv_quiet s p src n) :)
@[simp] theorem countEv_dbg (p src n : Nat) : (countEv s p src n).dbg = s.dbg := (congrArg State.dbg (countEv_quiet s p src n) :)
@[simp] theorem countEv_pwr (p src n : Nat) : (countEv s p src n).pwr = s.pwr := (congrArg State.pwr (countEv_quiet s p src n) :)
@[simp] theorem countEv_free (p src n : Nat) : (countEv s p src n).free = s.free := (congrArg State.free (countEv_quiet s p src n) :)
@[simp] theorem countEv_now (p src n : Nat) : (countEv s p src n).now = s.now := (congrArg State.now (countEv_quiet s p src n) :)
@[simp] theorem countEv_pending (p src n : Nat) : (countEv s p src n).pending = s.pending := (congrArg State.pending (countEv_quiet s p src n) :)
@[simp] theorem countEv_reg (p src n : Nat) (i : Nat) : (countEv s p src n).reg i = s.reg i :=
  (congrArg (fun t => State.reg t i) (countEv_quiet s p src n) :)
@[simp] theorem countEv_err (p src n : Nat) (i : Nat) : (countEv s p src n).err i = s.err i :=
  (congrArg (fun t => State.err t i) (countEv_quiet s p src n) :)
@[simp] theorem countEv_dst (p src n : Nat) (i : Nat) : (countEv s p src n).dst i = s.dst i :=
  (congrArg (fun t => State.dst t i) (countEv_quiet s p src n) :)
@[simp] theorem countEv_poisoned (p src n : Nat) (i : Nat) : (countEv s p src n).poisoned i = s.poisoned i :=
  (congrArg (fun t => State.poisoned t i) (countEv_quiet s p src n) :)
@[simp] theorem countEv_queue (p src n : Nat) (i : Nat) : (countEv s p src n).queue i = s.queue i :=
  (congrArg (fun t => State.queue t i) (countEv_quiet s p src n) :)
@[simp] theorem countEv_pdie (p src n : Nat) (i : Nat) : (countEv s p src n).pdie i = s.pdie i :=
  (congrArg (fun t => State.pdie t i) (countEv_quiet s p src n) :)
@[simp] theorem countEv_hart (p src n : Nat) (i : Nat) : (countEv s p src n).hart i = s.hart i :=
  (congrArg (fun t => State.hart t i) (countEv_quiet s p src n) :)
@[simp] theorem countEv_dlink (p src n : Nat) (i : Nat) : (countEv s p src n).dlink i = s.dlink i :=
  (congrArg (fun t => State.dlink t i) (countEv_quiet s p src n) :)
@[simp] theorem countEv_cme (p src n : Nat) (i : Nat) : (countEv s p src n).cme i = s.cme i :=
  (congrArg (fun t => State.cme t i) (countEv_quiet s p src n) :)
@[simp] theorem countEv_cu (p src n : Nat) (i : Nat) : (countEv s p src n).cu i = s.cu i :=
  (congrArg (fun t => State.cu t i) (countEv_quiet s p src n) :)
@[simp] theorem countEv_ccWay (p src n : Nat) (i : Nat) : (countEv s p src n).ccWay i = s.ccWay i :=
  (congrArg (fun t => State.ccWay t i) (countEv_quiet s p src n) :)
@[simp] theorem countEv_scWay (p src n : Nat) (i : Nat) : (countEv s p src n).scWay i = s.scWay i :=
  (congrArg (fun t => State.scWay t i) (countEv_quiet s p src n) :)
@[simp] theorem countEv_nmc (p src n : Nat) (i j : Nat) : (countEv s p src n).nmc i j = s.nmc i j :=
  (congrArg (fun t => State.nmc t i j) (countEv_quiet s p src n) :)
@[simp] theorem countEv_home (p src n : Nat) (i j : Nat) : (countEv s p src n).home i j = s.home i j :=
  (congrArg (fun t => State.home t i j) (countEv_quiet s p src n) :)
@[simp] theorem countEv_mmu (p src n : Nat) (i : Nat) : (countEv s p src n).mmu i = s.mmu i :=
  (congrArg (fun t => State.mmu t i) (countEv_quiet s p src n) :)
@[simp] theorem countEv_job (p src n : Nat) (i : Nat) : (countEv s p src n).job i = s.job i :=
  (congrArg (fun t => State.job t i) (countEv_quiet s p src n) :)
@[simp] theorem countEv_item (p src n : Nat) (i : Nat) : (countEv s p src n).item i = s.item i :=
  (congrArg (fun t => State.item t i) (countEv_quiet s p src n) :)
@[simp] theorem countEv_grp (p src n : Nat) (i j : Nat) : (countEv s p src n).grp i j = s.grp i j :=
  (congrArg (fun t => State.grp t i j) (countEv_quiet s p src n) :)
@[simp] theorem countEv_vreg (p src n : Nat) (i j k l : Nat) : (countEv s p src n).vreg i j k l = s.vreg i j k l :=
  (congrArg (fun t => State.vreg t i j k l) (countEv_quiet s p src n) :)
@[simp] theorem countEv_flow (p src n : Nat) (i : Nat) : (countEv s p src n).flow i = s.flow i :=
  (congrArg (fun t => State.flow t i) (countEv_quiet s p src n) :)
@[simp] theorem countEv_port (p src n : Nat) (i : Nat) : (countEv s p src n).port i = s.port i :=
  (congrArg (fun t => State.port t i) (countEv_quiet s p src n) :)
@[simp] theorem countEv_seat (p src n : Nat) (i j : Nat) : (countEv s p src n).seat i j = s.seat i j :=
  (congrArg (fun t => State.seat t i j) (countEv_quiet s p src n) :)

/-! ### logError -/

theorem logError_quietErr (p : Nat) (b : Block) (k n : Nat) (e : ErrInfo) : quietErr (logError s p b k n e) = quietErr s := by
  unfold logError
  extract_lets cfg size i
  split
  · rfl
  · split
    · rfl
    · split
      · rfl
      · rename_i s1 spans src s2 _ _ _
        have h2 : quietErr s2 = quietErr s := (elog_quietErr _ _).trans (quietErr_of (putBytes_quiet s _ _))
        clear_value s2
        split
        · rw [quietErr_of (msiWrite_quiet _ _ _)]; exact h2
        · exact h2

/-! ### raiseWith -/

theorem raiseWith_quietErr (p n : Nat) (e : ErrInfo) : quietErr (raiseWith s p n e) = quietErr s := by
  unfold raiseWith
  split
  · rfl
  · rename_i b i _
    extract_lets t
    have ht : quietErr t = quietErr s := errs_quietErr s _
    clear_value t
    split
    · exact ht
    · rw [logError_quietErr]; exact ht

@[simp] theorem raiseWith_fuses (p n : Nat) (e : ErrInfo) : (raiseWith s p n e).fuses = s.fuses := (congrArg State.fuses (raiseWith_quietErr s p n e) :)
@[simp] theorem raiseWith_keys (p n : Nat) (e : ErrInfo) : (raiseWith s p n e).keys = s.keys := (congrArg State.keys (raiseWith_quietErr s p n e) :)
@[simp] theorem raiseWith_pins (p n : Nat) (e : ErrInfo) : (raiseWith s p n e).pins = s.pins := (congrArg State.pins (raiseWith_quietErr s p n e) :)
@[simp] theorem raiseWith_phase (p n : Nat) (e : ErrInfo) : (raiseWith s p n e).phase = s.phase := (congrArg State.phase (raiseWith_quietErr s p n e) :)
@[simp] theorem raiseWith_boot (p n : Nat) (e : ErrInfo) : (raiseWith s p n e).boot = s.boot := (congrArg State.boot (raiseWith_quietErr s p n e) :)
@[simp] theorem raiseWith_mgmt (p n : Nat) (e : ErrInfo) : (raiseWith s p n e).mgmt = s.mgmt := (congrArg State.mgmt (raiseWith_quietErr s p n e) :)
@[simp] theorem raiseWith_regs (p n : Nat) (e : ErrInfo) : (raiseWith s p n e).regs = s.regs := (congrArg State.regs (raiseWith_quietErr s p n e) :)
@[simp] theorem raiseWith_dstates (p n : Nat) (e : ErrInfo) : (raiseWith s p n e).dstates = s.dstates := (congrArg State.dstates (raiseWith_quietErr s p n e) :)
@[simp] theorem raiseWith_poison (p n : Nat) (e : ErrInfo) : (raiseWith s p n e).poison = s.poison := (congrArg State.poison (raiseWith_quietErr s p n e) :)
@[simp] theorem raiseWith_sc (p n : Nat) (e : ErrInfo) : (raiseWith s p n e).sc = s.sc := (congrArg State.sc (raiseWith_quietErr s p n e) :)
@[simp] theorem raiseWith_nmcs (p n : Nat) (e : ErrInfo) : (raiseWith s p n e).nmcs = s.nmcs := (congrArg State.nmcs (raiseWith_quietErr s p n e) :)
@[simp] theorem raiseWith_fmcHeld (p n : Nat) (e : ErrInfo) : (raiseWith s p n e).fmcHeld = s.fmcHeld := (congrArg State.fmcHeld (raiseWith_quietErr s p n e) :)
@[simp] theorem raiseWith_homes (p n : Nat) (e : ErrInfo) : (raiseWith s p n e).homes = s.homes := (congrArg State.homes (raiseWith_quietErr s p n e) :)
@[simp] theorem raiseWith_dlinks (p n : Nat) (e : ErrInfo) : (raiseWith s p n e).dlinks = s.dlinks := (congrArg State.dlinks (raiseWith_quietErr s p n e) :)
@[simp] theorem raiseWith_mmus (p n : Nat) (e : ErrInfo) : (raiseWith s p n e).mmus = s.mmus := (congrArg State.mmus (raiseWith_quietErr s p n e) :)
@[simp] theorem raiseWith_invs (p n : Nat) (e : ErrInfo) : (raiseWith s p n e).invs = s.invs := (congrArg State.invs (raiseWith_quietErr s p n e) :)
@[simp] theorem raiseWith_invDone (p n : Nat) (e : ErrInfo) : (raiseWith s p n e).invDone = s.invDone := (congrArg State.invDone (raiseWith_quietErr s p n e) :)
@[simp] theorem raiseWith_sump (p n : Nat) (e : ErrInfo) : (raiseWith s p n e).sump = s.sump := (congrArg State.sump (raiseWith_quietErr s p n e) :)
@[simp] theorem raiseWith_queues (p n : Nat) (e : ErrInfo) : (raiseWith s p n e).queues = s.queues := (congrArg State.queues (raiseWith_quietErr s p n e) :)
@[simp] theorem raiseWith_accepted (p n : Nat) (e : ErrInfo) : (raiseWith s p n e).accepted = s.accepted := (congrArg State.accepted (raiseWith_quietErr s p n e) :)
@[simp] theorem raiseWith_jobs (p n : Nat) (e : ErrInfo) : (raiseWith s p n e).jobs = s.jobs := (congrArg State.jobs (raiseWith_quietErr s p n e) :)
@[simp] theorem raiseWith_items (p n : Nat) (e : ErrInfo) : (raiseWith s p n e).items = s.items := (congrArg State.items (raiseWith_quietErr s p n e) :)
@[simp] theorem raiseWith_nextItem (p n : Nat) (e : ErrInfo) : (raiseWith s p n e).nextItem = s.nextItem := (congrArg State.nextItem (raiseWith_quietErr s p n e) :)
@[simp] theorem raiseWith_jseqs (p n : Nat) (e : ErrInfo) : (raiseWith s p n e).jseqs = s.jseqs := (congrArg State.jseqs (raiseWith_quietErr s p n e) :)
@[simp] theorem raiseWith_units (p n : Nat) (e : ErrInfo) : (raiseWith s p n e).units = s.units := (congrArg State.units (raiseWith_quietErr s p n e) :)
@[simp] theorem raiseWith_groups (p n : Nat) (e : ErrInfo) : (raiseWith s p n e).groups = s.groups := (congrArg State.groups (raiseWith_quietErr s p n e) :)
@[simp] theorem raiseWith_vregs (p n : Nat) (e : ErrInfo) : (raiseWith s p n e).vregs = s.vregs := (congrArg State.vregs (raiseWith_quietErr s p n e) :)
@[simp] theorem raiseWith_ls (p n : Nat) (e : ErrInfo) : (raiseWith s p n e).ls = s.ls := (congrArg State.ls (raiseWith_quietErr s p n e) :)
@[simp] theorem raiseWith_lsWritten (p n : Nat) (e : ErrInfo) : (raiseWith s p n e).lsWritten = s.lsWritten := (congrArg State.lsWritten (raiseWith_quietErr s p n e) :)
@[simp] theorem raiseWith_cc (p n : Nat) (e : ErrInfo) : (raiseWith s p n e).cc = s.cc := (congrArg State.cc (raiseWith_quietErr s p n e) :)
@[simp] theorem raiseWith_cmes (p n : Nat) (e : ErrInfo) : (raiseWith s p n e).cmes = s.cmes := (congrArg State.cmes (raiseWith_quietErr s p n e) :)
@[simp] theorem raiseWith_fab (p n : Nat) (e : ErrInfo) : (raiseWith s p n e).fab = s.fab := (congrArg State.fab (raiseWith_quietErr s p n e) :)
@[simp] theorem raiseWith_seats (p n : Nat) (e : ErrInfo) : (raiseWith s p n e).seats = s.seats := (congrArg State.seats (raiseWith_quietErr s p n e) :)
@[simp] theorem raiseWith_well (p n : Nat) (e : ErrInfo) : (raiseWith s p n e).well = s.well := (congrArg State.well (raiseWith_quietErr s p n e) :)
@[simp] theorem raiseWith_pair (p n : Nat) (e : ErrInfo) : (raiseWith s p n e).pair = s.pair := (congrArg State.pair (raiseWith_quietErr s p n e) :)
@[simp] theorem raiseWith_harts (p n : Nat) (e : ErrInfo) : (raiseWith s p n e).harts = s.harts := (congrArg State.harts (raiseWith_quietErr s p n e) :)
@[simp] theorem raiseWith_dbg (p n : Nat) (e : ErrInfo) : (raiseWith s p n e).dbg = s.dbg := (congrArg State.dbg (raiseWith_quietErr s p n e) :)
@[simp] theorem raiseWith_pwr (p n : Nat) (e : ErrInfo) : (raiseWith s p n e).pwr = s.pwr := (congrArg State.pwr (raiseWith_quietErr s p n e) :)
@[simp] theorem raiseWith_free (p n : Nat) (e : ErrInfo) : (raiseWith s p n e).free = s.free := (congrArg State.free (raiseWith_quietErr s p n e) :)
@[simp] theorem raiseWith_now (p n : Nat) (e : ErrInfo) : (raiseWith s p n e).now = s.now := (congrArg State.now (raiseWith_quietErr s p n e) :)
@[simp] theorem raiseWith_pending (p n : Nat) (e : ErrInfo) : (raiseWith s p n e).pending = s.pending := (congrArg State.pending (raiseWith_quietErr s p n e) :)
@[simp] theorem raiseWith_reg (p n : Nat) (e : ErrInfo) (i : Nat) : (raiseWith s p n e).reg i = s.reg i :=
  (congrArg (fun t => State.reg t i) (raiseWith_quietErr s p n e) :)
@[simp] theorem raiseWith_dst (p n : Nat) (e : ErrInfo) (i : Nat) : (raiseWith s p n e).dst i = s.dst i :=
  (congrArg (fun t => State.dst t i) (raiseWith_quietErr s p n e) :)
@[simp] theorem raiseWith_poisoned (p n : Nat) (e : ErrInfo) (i : Nat) : (raiseWith s p n e).poisoned i = s.poisoned i :=
  (congrArg (fun t => State.poisoned t i) (raiseWith_quietErr s p n e) :)
@[simp] theorem raiseWith_queue (p n : Nat) (e : ErrInfo) (i : Nat) : (raiseWith s p n e).queue i = s.queue i :=
  (congrArg (fun t => State.queue t i) (raiseWith_quietErr s p n e) :)
@[simp] theorem raiseWith_pdie (p n : Nat) (e : ErrInfo) (i : Nat) : (raiseWith s p n e).pdie i = s.pdie i :=
  (congrArg (fun t => State.pdie t i) (raiseWith_quietErr s p n e) :)
@[simp] theorem raiseWith_hart (p n : Nat) (e : ErrInfo) (i : Nat) : (raiseWith s p n e).hart i = s.hart i :=
  (congrArg (fun t => State.hart t i) (raiseWith_quietErr s p n e) :)
@[simp] theorem raiseWith_dlink (p n : Nat) (e : ErrInfo) (i : Nat) : (raiseWith s p n e).dlink i = s.dlink i :=
  (congrArg (fun t => State.dlink t i) (raiseWith_quietErr s p n e) :)
@[simp] theorem raiseWith_cme (p n : Nat) (e : ErrInfo) (i : Nat) : (raiseWith s p n e).cme i = s.cme i :=
  (congrArg (fun t => State.cme t i) (raiseWith_quietErr s p n e) :)
@[simp] theorem raiseWith_cu (p n : Nat) (e : ErrInfo) (i : Nat) : (raiseWith s p n e).cu i = s.cu i :=
  (congrArg (fun t => State.cu t i) (raiseWith_quietErr s p n e) :)
@[simp] theorem raiseWith_ccWay (p n : Nat) (e : ErrInfo) (i : Nat) : (raiseWith s p n e).ccWay i = s.ccWay i :=
  (congrArg (fun t => State.ccWay t i) (raiseWith_quietErr s p n e) :)
@[simp] theorem raiseWith_scWay (p n : Nat) (e : ErrInfo) (i : Nat) : (raiseWith s p n e).scWay i = s.scWay i :=
  (congrArg (fun t => State.scWay t i) (raiseWith_quietErr s p n e) :)
@[simp] theorem raiseWith_nmc (p n : Nat) (e : ErrInfo) (i j : Nat) : (raiseWith s p n e).nmc i j = s.nmc i j :=
  (congrArg (fun t => State.nmc t i j) (raiseWith_quietErr s p n e) :)
@[simp] theorem raiseWith_home (p n : Nat) (e : ErrInfo) (i j : Nat) : (raiseWith s p n e).home i j = s.home i j :=
  (congrArg (fun t => State.home t i j) (raiseWith_quietErr s p n e) :)
@[simp] theorem raiseWith_mmu (p n : Nat) (e : ErrInfo) (i : Nat) : (raiseWith s p n e).mmu i = s.mmu i :=
  (congrArg (fun t => State.mmu t i) (raiseWith_quietErr s p n e) :)
@[simp] theorem raiseWith_job (p n : Nat) (e : ErrInfo) (i : Nat) : (raiseWith s p n e).job i = s.job i :=
  (congrArg (fun t => State.job t i) (raiseWith_quietErr s p n e) :)
@[simp] theorem raiseWith_item (p n : Nat) (e : ErrInfo) (i : Nat) : (raiseWith s p n e).item i = s.item i :=
  (congrArg (fun t => State.item t i) (raiseWith_quietErr s p n e) :)
@[simp] theorem raiseWith_grp (p n : Nat) (e : ErrInfo) (i j : Nat) : (raiseWith s p n e).grp i j = s.grp i j :=
  (congrArg (fun t => State.grp t i j) (raiseWith_quietErr s p n e) :)
@[simp] theorem raiseWith_vreg (p n : Nat) (e : ErrInfo) (i j k l : Nat) : (raiseWith s p n e).vreg i j k l = s.vreg i j k l :=
  (congrArg (fun t => State.vreg t i j k l) (raiseWith_quietErr s p n e) :)
@[simp] theorem raiseWith_flow (p n : Nat) (e : ErrInfo) (i : Nat) : (raiseWith s p n e).flow i = s.flow i :=
  (congrArg (fun t => State.flow t i) (raiseWith_quietErr s p n e) :)
@[simp] theorem raiseWith_port (p n : Nat) (e : ErrInfo) (i : Nat) : (raiseWith s p n e).port i = s.port i :=
  (congrArg (fun t => State.port t i) (raiseWith_quietErr s p n e) :)
@[simp] theorem raiseWith_seat (p n : Nat) (e : ErrInfo) (i j : Nat) : (raiseWith s p n e).seat i j = s.seat i j :=
  (congrArg (fun t => State.seat t i j) (raiseWith_quietErr s p n e) :)

/-! ### raise -/

theorem raise_quietErr (p n : Nat) : quietErr (raise s p n) = quietErr s := by
  exact raiseWith_quietErr s p n _

@[simp] theorem raise_fuses (p n : Nat) : (raise s p n).fuses = s.fuses := (congrArg State.fuses (raise_quietErr s p n) :)
@[simp] theorem raise_keys (p n : Nat) : (raise s p n).keys = s.keys := (congrArg State.keys (raise_quietErr s p n) :)
@[simp] theorem raise_pins (p n : Nat) : (raise s p n).pins = s.pins := (congrArg State.pins (raise_quietErr s p n) :)
@[simp] theorem raise_phase (p n : Nat) : (raise s p n).phase = s.phase := (congrArg State.phase (raise_quietErr s p n) :)
@[simp] theorem raise_boot (p n : Nat) : (raise s p n).boot = s.boot := (congrArg State.boot (raise_quietErr s p n) :)
@[simp] theorem raise_mgmt (p n : Nat) : (raise s p n).mgmt = s.mgmt := (congrArg State.mgmt (raise_quietErr s p n) :)
@[simp] theorem raise_regs (p n : Nat) : (raise s p n).regs = s.regs := (congrArg State.regs (raise_quietErr s p n) :)
@[simp] theorem raise_dstates (p n : Nat) : (raise s p n).dstates = s.dstates := (congrArg State.dstates (raise_quietErr s p n) :)
@[simp] theorem raise_poison (p n : Nat) : (raise s p n).poison = s.poison := (congrArg State.poison (raise_quietErr s p n) :)
@[simp] theorem raise_sc (p n : Nat) : (raise s p n).sc = s.sc := (congrArg State.sc (raise_quietErr s p n) :)
@[simp] theorem raise_nmcs (p n : Nat) : (raise s p n).nmcs = s.nmcs := (congrArg State.nmcs (raise_quietErr s p n) :)
@[simp] theorem raise_fmcHeld (p n : Nat) : (raise s p n).fmcHeld = s.fmcHeld := (congrArg State.fmcHeld (raise_quietErr s p n) :)
@[simp] theorem raise_homes (p n : Nat) : (raise s p n).homes = s.homes := (congrArg State.homes (raise_quietErr s p n) :)
@[simp] theorem raise_dlinks (p n : Nat) : (raise s p n).dlinks = s.dlinks := (congrArg State.dlinks (raise_quietErr s p n) :)
@[simp] theorem raise_mmus (p n : Nat) : (raise s p n).mmus = s.mmus := (congrArg State.mmus (raise_quietErr s p n) :)
@[simp] theorem raise_invs (p n : Nat) : (raise s p n).invs = s.invs := (congrArg State.invs (raise_quietErr s p n) :)
@[simp] theorem raise_invDone (p n : Nat) : (raise s p n).invDone = s.invDone := (congrArg State.invDone (raise_quietErr s p n) :)
@[simp] theorem raise_sump (p n : Nat) : (raise s p n).sump = s.sump := (congrArg State.sump (raise_quietErr s p n) :)
@[simp] theorem raise_queues (p n : Nat) : (raise s p n).queues = s.queues := (congrArg State.queues (raise_quietErr s p n) :)
@[simp] theorem raise_accepted (p n : Nat) : (raise s p n).accepted = s.accepted := (congrArg State.accepted (raise_quietErr s p n) :)
@[simp] theorem raise_jobs (p n : Nat) : (raise s p n).jobs = s.jobs := (congrArg State.jobs (raise_quietErr s p n) :)
@[simp] theorem raise_items (p n : Nat) : (raise s p n).items = s.items := (congrArg State.items (raise_quietErr s p n) :)
@[simp] theorem raise_nextItem (p n : Nat) : (raise s p n).nextItem = s.nextItem := (congrArg State.nextItem (raise_quietErr s p n) :)
@[simp] theorem raise_jseqs (p n : Nat) : (raise s p n).jseqs = s.jseqs := (congrArg State.jseqs (raise_quietErr s p n) :)
@[simp] theorem raise_units (p n : Nat) : (raise s p n).units = s.units := (congrArg State.units (raise_quietErr s p n) :)
@[simp] theorem raise_groups (p n : Nat) : (raise s p n).groups = s.groups := (congrArg State.groups (raise_quietErr s p n) :)
@[simp] theorem raise_vregs (p n : Nat) : (raise s p n).vregs = s.vregs := (congrArg State.vregs (raise_quietErr s p n) :)
@[simp] theorem raise_ls (p n : Nat) : (raise s p n).ls = s.ls := (congrArg State.ls (raise_quietErr s p n) :)
@[simp] theorem raise_lsWritten (p n : Nat) : (raise s p n).lsWritten = s.lsWritten := (congrArg State.lsWritten (raise_quietErr s p n) :)
@[simp] theorem raise_cc (p n : Nat) : (raise s p n).cc = s.cc := (congrArg State.cc (raise_quietErr s p n) :)
@[simp] theorem raise_cmes (p n : Nat) : (raise s p n).cmes = s.cmes := (congrArg State.cmes (raise_quietErr s p n) :)
@[simp] theorem raise_fab (p n : Nat) : (raise s p n).fab = s.fab := (congrArg State.fab (raise_quietErr s p n) :)
@[simp] theorem raise_seats (p n : Nat) : (raise s p n).seats = s.seats := (congrArg State.seats (raise_quietErr s p n) :)
@[simp] theorem raise_well (p n : Nat) : (raise s p n).well = s.well := (congrArg State.well (raise_quietErr s p n) :)
@[simp] theorem raise_pair (p n : Nat) : (raise s p n).pair = s.pair := (congrArg State.pair (raise_quietErr s p n) :)
@[simp] theorem raise_harts (p n : Nat) : (raise s p n).harts = s.harts := (congrArg State.harts (raise_quietErr s p n) :)
@[simp] theorem raise_dbg (p n : Nat) : (raise s p n).dbg = s.dbg := (congrArg State.dbg (raise_quietErr s p n) :)
@[simp] theorem raise_pwr (p n : Nat) : (raise s p n).pwr = s.pwr := (congrArg State.pwr (raise_quietErr s p n) :)
@[simp] theorem raise_free (p n : Nat) : (raise s p n).free = s.free := (congrArg State.free (raise_quietErr s p n) :)
@[simp] theorem raise_now (p n : Nat) : (raise s p n).now = s.now := (congrArg State.now (raise_quietErr s p n) :)
@[simp] theorem raise_pending (p n : Nat) : (raise s p n).pending = s.pending := (congrArg State.pending (raise_quietErr s p n) :)
@[simp] theorem raise_reg (p n : Nat) (i : Nat) : (raise s p n).reg i = s.reg i :=
  (congrArg (fun t => State.reg t i) (raise_quietErr s p n) :)
@[simp] theorem raise_dst (p n : Nat) (i : Nat) : (raise s p n).dst i = s.dst i :=
  (congrArg (fun t => State.dst t i) (raise_quietErr s p n) :)
@[simp] theorem raise_poisoned (p n : Nat) (i : Nat) : (raise s p n).poisoned i = s.poisoned i :=
  (congrArg (fun t => State.poisoned t i) (raise_quietErr s p n) :)
@[simp] theorem raise_queue (p n : Nat) (i : Nat) : (raise s p n).queue i = s.queue i :=
  (congrArg (fun t => State.queue t i) (raise_quietErr s p n) :)
@[simp] theorem raise_pdie (p n : Nat) (i : Nat) : (raise s p n).pdie i = s.pdie i :=
  (congrArg (fun t => State.pdie t i) (raise_quietErr s p n) :)
@[simp] theorem raise_hart (p n : Nat) (i : Nat) : (raise s p n).hart i = s.hart i :=
  (congrArg (fun t => State.hart t i) (raise_quietErr s p n) :)
@[simp] theorem raise_dlink (p n : Nat) (i : Nat) : (raise s p n).dlink i = s.dlink i :=
  (congrArg (fun t => State.dlink t i) (raise_quietErr s p n) :)
@[simp] theorem raise_cme (p n : Nat) (i : Nat) : (raise s p n).cme i = s.cme i :=
  (congrArg (fun t => State.cme t i) (raise_quietErr s p n) :)
@[simp] theorem raise_cu (p n : Nat) (i : Nat) : (raise s p n).cu i = s.cu i :=
  (congrArg (fun t => State.cu t i) (raise_quietErr s p n) :)
@[simp] theorem raise_ccWay (p n : Nat) (i : Nat) : (raise s p n).ccWay i = s.ccWay i :=
  (congrArg (fun t => State.ccWay t i) (raise_quietErr s p n) :)
@[simp] theorem raise_scWay (p n : Nat) (i : Nat) : (raise s p n).scWay i = s.scWay i :=
  (congrArg (fun t => State.scWay t i) (raise_quietErr s p n) :)
@[simp] theorem raise_nmc (p n : Nat) (i j : Nat) : (raise s p n).nmc i j = s.nmc i j :=
  (congrArg (fun t => State.nmc t i j) (raise_quietErr s p n) :)
@[simp] theorem raise_home (p n : Nat) (i j : Nat) : (raise s p n).home i j = s.home i j :=
  (congrArg (fun t => State.home t i j) (raise_quietErr s p n) :)
@[simp] theorem raise_mmu (p n : Nat) (i : Nat) : (raise s p n).mmu i = s.mmu i :=
  (congrArg (fun t => State.mmu t i) (raise_quietErr s p n) :)
@[simp] theorem raise_job (p n : Nat) (i : Nat) : (raise s p n).job i = s.job i :=
  (congrArg (fun t => State.job t i) (raise_quietErr s p n) :)
@[simp] theorem raise_item (p n : Nat) (i : Nat) : (raise s p n).item i = s.item i :=
  (congrArg (fun t => State.item t i) (raise_quietErr s p n) :)
@[simp] theorem raise_grp (p n : Nat) (i j : Nat) : (raise s p n).grp i j = s.grp i j :=
  (congrArg (fun t => State.grp t i j) (raise_quietErr s p n) :)
@[simp] theorem raise_vreg (p n : Nat) (i j k l : Nat) : (raise s p n).vreg i j k l = s.vreg i j k l :=
  (congrArg (fun t => State.vreg t i j k l) (raise_quietErr s p n) :)
@[simp] theorem raise_flow (p n : Nat) (i : Nat) : (raise s p n).flow i = s.flow i :=
  (congrArg (fun t => State.flow t i) (raise_quietErr s p n) :)
@[simp] theorem raise_port (p n : Nat) (i : Nat) : (raise s p n).port i = s.port i :=
  (congrArg (fun t => State.port t i) (raise_quietErr s p n) :)
@[simp] theorem raise_seat (p n : Nat) (i j : Nat) : (raise s p n).seat i j = s.seat i j :=
  (congrArg (fun t => State.seat t i j) (raise_quietErr s p n) :)

/-! ### raiseInfo -/

theorem raiseInfo_quietErr (p n x : Nat) : quietErr (raiseInfo s p n x) = quietErr s := by
  exact raiseWith_quietErr s p n { ErrInfo.plain with info := x }

@[simp] theorem raiseInfo_fuses (p n x : Nat) : (raiseInfo s p n x).fuses = s.fuses := (congrArg State.fuses (raiseInfo_quietErr s p n x) :)
@[simp] theorem raiseInfo_keys (p n x : Nat) : (raiseInfo s p n x).keys = s.keys := (congrArg State.keys (raiseInfo_quietErr s p n x) :)
@[simp] theorem raiseInfo_pins (p n x : Nat) : (raiseInfo s p n x).pins = s.pins := (congrArg State.pins (raiseInfo_quietErr s p n x) :)
@[simp] theorem raiseInfo_phase (p n x : Nat) : (raiseInfo s p n x).phase = s.phase := (congrArg State.phase (raiseInfo_quietErr s p n x) :)
@[simp] theorem raiseInfo_boot (p n x : Nat) : (raiseInfo s p n x).boot = s.boot := (congrArg State.boot (raiseInfo_quietErr s p n x) :)
@[simp] theorem raiseInfo_mgmt (p n x : Nat) : (raiseInfo s p n x).mgmt = s.mgmt := (congrArg State.mgmt (raiseInfo_quietErr s p n x) :)
@[simp] theorem raiseInfo_regs (p n x : Nat) : (raiseInfo s p n x).regs = s.regs := (congrArg State.regs (raiseInfo_quietErr s p n x) :)
@[simp] theorem raiseInfo_dstates (p n x : Nat) : (raiseInfo s p n x).dstates = s.dstates := (congrArg State.dstates (raiseInfo_quietErr s p n x) :)
@[simp] theorem raiseInfo_poison (p n x : Nat) : (raiseInfo s p n x).poison = s.poison := (congrArg State.poison (raiseInfo_quietErr s p n x) :)
@[simp] theorem raiseInfo_sc (p n x : Nat) : (raiseInfo s p n x).sc = s.sc := (congrArg State.sc (raiseInfo_quietErr s p n x) :)
@[simp] theorem raiseInfo_nmcs (p n x : Nat) : (raiseInfo s p n x).nmcs = s.nmcs := (congrArg State.nmcs (raiseInfo_quietErr s p n x) :)
@[simp] theorem raiseInfo_fmcHeld (p n x : Nat) : (raiseInfo s p n x).fmcHeld = s.fmcHeld := (congrArg State.fmcHeld (raiseInfo_quietErr s p n x) :)
@[simp] theorem raiseInfo_homes (p n x : Nat) : (raiseInfo s p n x).homes = s.homes := (congrArg State.homes (raiseInfo_quietErr s p n x) :)
@[simp] theorem raiseInfo_dlinks (p n x : Nat) : (raiseInfo s p n x).dlinks = s.dlinks := (congrArg State.dlinks (raiseInfo_quietErr s p n x) :)
@[simp] theorem raiseInfo_mmus (p n x : Nat) : (raiseInfo s p n x).mmus = s.mmus := (congrArg State.mmus (raiseInfo_quietErr s p n x) :)
@[simp] theorem raiseInfo_invs (p n x : Nat) : (raiseInfo s p n x).invs = s.invs := (congrArg State.invs (raiseInfo_quietErr s p n x) :)
@[simp] theorem raiseInfo_invDone (p n x : Nat) : (raiseInfo s p n x).invDone = s.invDone := (congrArg State.invDone (raiseInfo_quietErr s p n x) :)
@[simp] theorem raiseInfo_sump (p n x : Nat) : (raiseInfo s p n x).sump = s.sump := (congrArg State.sump (raiseInfo_quietErr s p n x) :)
@[simp] theorem raiseInfo_queues (p n x : Nat) : (raiseInfo s p n x).queues = s.queues := (congrArg State.queues (raiseInfo_quietErr s p n x) :)
@[simp] theorem raiseInfo_accepted (p n x : Nat) : (raiseInfo s p n x).accepted = s.accepted := (congrArg State.accepted (raiseInfo_quietErr s p n x) :)
@[simp] theorem raiseInfo_jobs (p n x : Nat) : (raiseInfo s p n x).jobs = s.jobs := (congrArg State.jobs (raiseInfo_quietErr s p n x) :)
@[simp] theorem raiseInfo_items (p n x : Nat) : (raiseInfo s p n x).items = s.items := (congrArg State.items (raiseInfo_quietErr s p n x) :)
@[simp] theorem raiseInfo_nextItem (p n x : Nat) : (raiseInfo s p n x).nextItem = s.nextItem := (congrArg State.nextItem (raiseInfo_quietErr s p n x) :)
@[simp] theorem raiseInfo_jseqs (p n x : Nat) : (raiseInfo s p n x).jseqs = s.jseqs := (congrArg State.jseqs (raiseInfo_quietErr s p n x) :)
@[simp] theorem raiseInfo_units (p n x : Nat) : (raiseInfo s p n x).units = s.units := (congrArg State.units (raiseInfo_quietErr s p n x) :)
@[simp] theorem raiseInfo_groups (p n x : Nat) : (raiseInfo s p n x).groups = s.groups := (congrArg State.groups (raiseInfo_quietErr s p n x) :)
@[simp] theorem raiseInfo_vregs (p n x : Nat) : (raiseInfo s p n x).vregs = s.vregs := (congrArg State.vregs (raiseInfo_quietErr s p n x) :)
@[simp] theorem raiseInfo_ls (p n x : Nat) : (raiseInfo s p n x).ls = s.ls := (congrArg State.ls (raiseInfo_quietErr s p n x) :)
@[simp] theorem raiseInfo_lsWritten (p n x : Nat) : (raiseInfo s p n x).lsWritten = s.lsWritten := (congrArg State.lsWritten (raiseInfo_quietErr s p n x) :)
@[simp] theorem raiseInfo_cc (p n x : Nat) : (raiseInfo s p n x).cc = s.cc := (congrArg State.cc (raiseInfo_quietErr s p n x) :)
@[simp] theorem raiseInfo_cmes (p n x : Nat) : (raiseInfo s p n x).cmes = s.cmes := (congrArg State.cmes (raiseInfo_quietErr s p n x) :)
@[simp] theorem raiseInfo_fab (p n x : Nat) : (raiseInfo s p n x).fab = s.fab := (congrArg State.fab (raiseInfo_quietErr s p n x) :)
@[simp] theorem raiseInfo_seats (p n x : Nat) : (raiseInfo s p n x).seats = s.seats := (congrArg State.seats (raiseInfo_quietErr s p n x) :)
@[simp] theorem raiseInfo_well (p n x : Nat) : (raiseInfo s p n x).well = s.well := (congrArg State.well (raiseInfo_quietErr s p n x) :)
@[simp] theorem raiseInfo_pair (p n x : Nat) : (raiseInfo s p n x).pair = s.pair := (congrArg State.pair (raiseInfo_quietErr s p n x) :)
@[simp] theorem raiseInfo_harts (p n x : Nat) : (raiseInfo s p n x).harts = s.harts := (congrArg State.harts (raiseInfo_quietErr s p n x) :)
@[simp] theorem raiseInfo_dbg (p n x : Nat) : (raiseInfo s p n x).dbg = s.dbg := (congrArg State.dbg (raiseInfo_quietErr s p n x) :)
@[simp] theorem raiseInfo_pwr (p n x : Nat) : (raiseInfo s p n x).pwr = s.pwr := (congrArg State.pwr (raiseInfo_quietErr s p n x) :)
@[simp] theorem raiseInfo_free (p n x : Nat) : (raiseInfo s p n x).free = s.free := (congrArg State.free (raiseInfo_quietErr s p n x) :)
@[simp] theorem raiseInfo_now (p n x : Nat) : (raiseInfo s p n x).now = s.now := (congrArg State.now (raiseInfo_quietErr s p n x) :)
@[simp] theorem raiseInfo_pending (p n x : Nat) : (raiseInfo s p n x).pending = s.pending := (congrArg State.pending (raiseInfo_quietErr s p n x) :)
@[simp] theorem raiseInfo_reg (p n x : Nat) (i : Nat) : (raiseInfo s p n x).reg i = s.reg i :=
  (congrArg (fun t => State.reg t i) (raiseInfo_quietErr s p n x) :)
@[simp] theorem raiseInfo_dst (p n x : Nat) (i : Nat) : (raiseInfo s p n x).dst i = s.dst i :=
  (congrArg (fun t => State.dst t i) (raiseInfo_quietErr s p n x) :)
@[simp] theorem raiseInfo_poisoned (p n x : Nat) (i : Nat) : (raiseInfo s p n x).poisoned i = s.poisoned i :=
  (congrArg (fun t => State.poisoned t i) (raiseInfo_quietErr s p n x) :)
@[simp] theorem raiseInfo_queue (p n x : Nat) (i : Nat) : (raiseInfo s p n x).queue i = s.queue i :=
  (congrArg (fun t => State.queue t i) (raiseInfo_quietErr s p n x) :)
@[simp] theorem raiseInfo_pdie (p n x : Nat) (i : Nat) : (raiseInfo s p n x).pdie i = s.pdie i :=
  (congrArg (fun t => State.pdie t i) (raiseInfo_quietErr s p n x) :)
@[simp] theorem raiseInfo_hart (p n x : Nat) (i : Nat) : (raiseInfo s p n x).hart i = s.hart i :=
  (congrArg (fun t => State.hart t i) (raiseInfo_quietErr s p n x) :)
@[simp] theorem raiseInfo_dlink (p n x : Nat) (i : Nat) : (raiseInfo s p n x).dlink i = s.dlink i :=
  (congrArg (fun t => State.dlink t i) (raiseInfo_quietErr s p n x) :)
@[simp] theorem raiseInfo_cme (p n x : Nat) (i : Nat) : (raiseInfo s p n x).cme i = s.cme i :=
  (congrArg (fun t => State.cme t i) (raiseInfo_quietErr s p n x) :)
@[simp] theorem raiseInfo_cu (p n x : Nat) (i : Nat) : (raiseInfo s p n x).cu i = s.cu i :=
  (congrArg (fun t => State.cu t i) (raiseInfo_quietErr s p n x) :)
@[simp] theorem raiseInfo_ccWay (p n x : Nat) (i : Nat) : (raiseInfo s p n x).ccWay i = s.ccWay i :=
  (congrArg (fun t => State.ccWay t i) (raiseInfo_quietErr s p n x) :)
@[simp] theorem raiseInfo_scWay (p n x : Nat) (i : Nat) : (raiseInfo s p n x).scWay i = s.scWay i :=
  (congrArg (fun t => State.scWay t i) (raiseInfo_quietErr s p n x) :)
@[simp] theorem raiseInfo_nmc (p n x : Nat) (i j : Nat) : (raiseInfo s p n x).nmc i j = s.nmc i j :=
  (congrArg (fun t => State.nmc t i j) (raiseInfo_quietErr s p n x) :)
@[simp] theorem raiseInfo_home (p n x : Nat) (i j : Nat) : (raiseInfo s p n x).home i j = s.home i j :=
  (congrArg (fun t => State.home t i j) (raiseInfo_quietErr s p n x) :)
@[simp] theorem raiseInfo_mmu (p n x : Nat) (i : Nat) : (raiseInfo s p n x).mmu i = s.mmu i :=
  (congrArg (fun t => State.mmu t i) (raiseInfo_quietErr s p n x) :)
@[simp] theorem raiseInfo_job (p n x : Nat) (i : Nat) : (raiseInfo s p n x).job i = s.job i :=
  (congrArg (fun t => State.job t i) (raiseInfo_quietErr s p n x) :)
@[simp] theorem raiseInfo_item (p n x : Nat) (i : Nat) : (raiseInfo s p n x).item i = s.item i :=
  (congrArg (fun t => State.item t i) (raiseInfo_quietErr s p n x) :)
@[simp] theorem raiseInfo_grp (p n x : Nat) (i j : Nat) : (raiseInfo s p n x).grp i j = s.grp i j :=
  (congrArg (fun t => State.grp t i j) (raiseInfo_quietErr s p n x) :)
@[simp] theorem raiseInfo_vreg (p n x : Nat) (i j k l : Nat) : (raiseInfo s p n x).vreg i j k l = s.vreg i j k l :=
  (congrArg (fun t => State.vreg t i j k l) (raiseInfo_quietErr s p n x) :)
@[simp] theorem raiseInfo_flow (p n x : Nat) (i : Nat) : (raiseInfo s p n x).flow i = s.flow i :=
  (congrArg (fun t => State.flow t i) (raiseInfo_quietErr s p n x) :)
@[simp] theorem raiseInfo_port (p n x : Nat) (i : Nat) : (raiseInfo s p n x).port i = s.port i :=
  (congrArg (fun t => State.port t i) (raiseInfo_quietErr s p n x) :)
@[simp] theorem raiseInfo_seat (p n x : Nat) (i j : Nat) : (raiseInfo s p n x).seat i j = s.seat i j :=
  (congrArg (fun t => State.seat t i j) (raiseInfo_quietErr s p n x) :)

/-! ### reject -/

theorem reject_quietErr (p : Nat) : quietErr (reject s p) = quietErr s := by
  exact raiseWith_quietErr s p 0 _

@[simp] theorem reject_fuses (p : Nat) : (reject s p).fuses = s.fuses := (congrArg State.fuses (reject_quietErr s p) :)
@[simp] theorem reject_keys (p : Nat) : (reject s p).keys = s.keys := (congrArg State.keys (reject_quietErr s p) :)
@[simp] theorem reject_pins (p : Nat) : (reject s p).pins = s.pins := (congrArg State.pins (reject_quietErr s p) :)
@[simp] theorem reject_phase (p : Nat) : (reject s p).phase = s.phase := (congrArg State.phase (reject_quietErr s p) :)
@[simp] theorem reject_boot (p : Nat) : (reject s p).boot = s.boot := (congrArg State.boot (reject_quietErr s p) :)
@[simp] theorem reject_mgmt (p : Nat) : (reject s p).mgmt = s.mgmt := (congrArg State.mgmt (reject_quietErr s p) :)
@[simp] theorem reject_regs (p : Nat) : (reject s p).regs = s.regs := (congrArg State.regs (reject_quietErr s p) :)
@[simp] theorem reject_dstates (p : Nat) : (reject s p).dstates = s.dstates := (congrArg State.dstates (reject_quietErr s p) :)
@[simp] theorem reject_poison (p : Nat) : (reject s p).poison = s.poison := (congrArg State.poison (reject_quietErr s p) :)
@[simp] theorem reject_sc (p : Nat) : (reject s p).sc = s.sc := (congrArg State.sc (reject_quietErr s p) :)
@[simp] theorem reject_nmcs (p : Nat) : (reject s p).nmcs = s.nmcs := (congrArg State.nmcs (reject_quietErr s p) :)
@[simp] theorem reject_fmcHeld (p : Nat) : (reject s p).fmcHeld = s.fmcHeld := (congrArg State.fmcHeld (reject_quietErr s p) :)
@[simp] theorem reject_homes (p : Nat) : (reject s p).homes = s.homes := (congrArg State.homes (reject_quietErr s p) :)
@[simp] theorem reject_dlinks (p : Nat) : (reject s p).dlinks = s.dlinks := (congrArg State.dlinks (reject_quietErr s p) :)
@[simp] theorem reject_mmus (p : Nat) : (reject s p).mmus = s.mmus := (congrArg State.mmus (reject_quietErr s p) :)
@[simp] theorem reject_invs (p : Nat) : (reject s p).invs = s.invs := (congrArg State.invs (reject_quietErr s p) :)
@[simp] theorem reject_invDone (p : Nat) : (reject s p).invDone = s.invDone := (congrArg State.invDone (reject_quietErr s p) :)
@[simp] theorem reject_sump (p : Nat) : (reject s p).sump = s.sump := (congrArg State.sump (reject_quietErr s p) :)
@[simp] theorem reject_queues (p : Nat) : (reject s p).queues = s.queues := (congrArg State.queues (reject_quietErr s p) :)
@[simp] theorem reject_accepted (p : Nat) : (reject s p).accepted = s.accepted := (congrArg State.accepted (reject_quietErr s p) :)
@[simp] theorem reject_jobs (p : Nat) : (reject s p).jobs = s.jobs := (congrArg State.jobs (reject_quietErr s p) :)
@[simp] theorem reject_items (p : Nat) : (reject s p).items = s.items := (congrArg State.items (reject_quietErr s p) :)
@[simp] theorem reject_nextItem (p : Nat) : (reject s p).nextItem = s.nextItem := (congrArg State.nextItem (reject_quietErr s p) :)
@[simp] theorem reject_jseqs (p : Nat) : (reject s p).jseqs = s.jseqs := (congrArg State.jseqs (reject_quietErr s p) :)
@[simp] theorem reject_units (p : Nat) : (reject s p).units = s.units := (congrArg State.units (reject_quietErr s p) :)
@[simp] theorem reject_groups (p : Nat) : (reject s p).groups = s.groups := (congrArg State.groups (reject_quietErr s p) :)
@[simp] theorem reject_vregs (p : Nat) : (reject s p).vregs = s.vregs := (congrArg State.vregs (reject_quietErr s p) :)
@[simp] theorem reject_ls (p : Nat) : (reject s p).ls = s.ls := (congrArg State.ls (reject_quietErr s p) :)
@[simp] theorem reject_lsWritten (p : Nat) : (reject s p).lsWritten = s.lsWritten := (congrArg State.lsWritten (reject_quietErr s p) :)
@[simp] theorem reject_cc (p : Nat) : (reject s p).cc = s.cc := (congrArg State.cc (reject_quietErr s p) :)
@[simp] theorem reject_cmes (p : Nat) : (reject s p).cmes = s.cmes := (congrArg State.cmes (reject_quietErr s p) :)
@[simp] theorem reject_fab (p : Nat) : (reject s p).fab = s.fab := (congrArg State.fab (reject_quietErr s p) :)
@[simp] theorem reject_seats (p : Nat) : (reject s p).seats = s.seats := (congrArg State.seats (reject_quietErr s p) :)
@[simp] theorem reject_well (p : Nat) : (reject s p).well = s.well := (congrArg State.well (reject_quietErr s p) :)
@[simp] theorem reject_pair (p : Nat) : (reject s p).pair = s.pair := (congrArg State.pair (reject_quietErr s p) :)
@[simp] theorem reject_harts (p : Nat) : (reject s p).harts = s.harts := (congrArg State.harts (reject_quietErr s p) :)
@[simp] theorem reject_dbg (p : Nat) : (reject s p).dbg = s.dbg := (congrArg State.dbg (reject_quietErr s p) :)
@[simp] theorem reject_pwr (p : Nat) : (reject s p).pwr = s.pwr := (congrArg State.pwr (reject_quietErr s p) :)
@[simp] theorem reject_free (p : Nat) : (reject s p).free = s.free := (congrArg State.free (reject_quietErr s p) :)
@[simp] theorem reject_now (p : Nat) : (reject s p).now = s.now := (congrArg State.now (reject_quietErr s p) :)
@[simp] theorem reject_pending (p : Nat) : (reject s p).pending = s.pending := (congrArg State.pending (reject_quietErr s p) :)
@[simp] theorem reject_reg (p : Nat) (i : Nat) : (reject s p).reg i = s.reg i :=
  (congrArg (fun t => State.reg t i) (reject_quietErr s p) :)
@[simp] theorem reject_dst (p : Nat) (i : Nat) : (reject s p).dst i = s.dst i :=
  (congrArg (fun t => State.dst t i) (reject_quietErr s p) :)
@[simp] theorem reject_poisoned (p : Nat) (i : Nat) : (reject s p).poisoned i = s.poisoned i :=
  (congrArg (fun t => State.poisoned t i) (reject_quietErr s p) :)
@[simp] theorem reject_queue (p : Nat) (i : Nat) : (reject s p).queue i = s.queue i :=
  (congrArg (fun t => State.queue t i) (reject_quietErr s p) :)
@[simp] theorem reject_pdie (p : Nat) (i : Nat) : (reject s p).pdie i = s.pdie i :=
  (congrArg (fun t => State.pdie t i) (reject_quietErr s p) :)
@[simp] theorem reject_hart (p : Nat) (i : Nat) : (reject s p).hart i = s.hart i :=
  (congrArg (fun t => State.hart t i) (reject_quietErr s p) :)
@[simp] theorem reject_dlink (p : Nat) (i : Nat) : (reject s p).dlink i = s.dlink i :=
  (congrArg (fun t => State.dlink t i) (reject_quietErr s p) :)
@[simp] theorem reject_cme (p : Nat) (i : Nat) : (reject s p).cme i = s.cme i :=
  (congrArg (fun t => State.cme t i) (reject_quietErr s p) :)
@[simp] theorem reject_cu (p : Nat) (i : Nat) : (reject s p).cu i = s.cu i :=
  (congrArg (fun t => State.cu t i) (reject_quietErr s p) :)
@[simp] theorem reject_ccWay (p : Nat) (i : Nat) : (reject s p).ccWay i = s.ccWay i :=
  (congrArg (fun t => State.ccWay t i) (reject_quietErr s p) :)
@[simp] theorem reject_scWay (p : Nat) (i : Nat) : (reject s p).scWay i = s.scWay i :=
  (congrArg (fun t => State.scWay t i) (reject_quietErr s p) :)
@[simp] theorem reject_nmc (p : Nat) (i j : Nat) : (reject s p).nmc i j = s.nmc i j :=
  (congrArg (fun t => State.nmc t i j) (reject_quietErr s p) :)
@[simp] theorem reject_home (p : Nat) (i j : Nat) : (reject s p).home i j = s.home i j :=
  (congrArg (fun t => State.home t i j) (reject_quietErr s p) :)
@[simp] theorem reject_mmu (p : Nat) (i : Nat) : (reject s p).mmu i = s.mmu i :=
  (congrArg (fun t => State.mmu t i) (reject_quietErr s p) :)
@[simp] theorem reject_job (p : Nat) (i : Nat) : (reject s p).job i = s.job i :=
  (congrArg (fun t => State.job t i) (reject_quietErr s p) :)
@[simp] theorem reject_item (p : Nat) (i : Nat) : (reject s p).item i = s.item i :=
  (congrArg (fun t => State.item t i) (reject_quietErr s p) :)
@[simp] theorem reject_grp (p : Nat) (i j : Nat) : (reject s p).grp i j = s.grp i j :=
  (congrArg (fun t => State.grp t i j) (reject_quietErr s p) :)
@[simp] theorem reject_vreg (p : Nat) (i j k l : Nat) : (reject s p).vreg i j k l = s.vreg i j k l :=
  (congrArg (fun t => State.vreg t i j k l) (reject_quietErr s p) :)
@[simp] theorem reject_flow (p : Nat) (i : Nat) : (reject s p).flow i = s.flow i :=
  (congrArg (fun t => State.flow t i) (reject_quietErr s p) :)
@[simp] theorem reject_port (p : Nat) (i : Nat) : (reject s p).port i = s.port i :=
  (congrArg (fun t => State.port t i) (reject_quietErr s p) :)
@[simp] theorem reject_seat (p : Nat) (i j : Nat) : (reject s p).seat i j = s.seat i j :=
  (congrArg (fun t => State.seat t i j) (reject_quietErr s p) :)

/-- The error bit is set; the page's other error bits and other pages' stay. -/
theorem raiseWith_err (p n : Nat) (e : ErrInfo) (i : Nat) (b : Block) (k : Nat) (hp : blockAt p = some (b, k)) :
    (raiseWith s p n e).err i = if i = p then setBit n (s.err p) true else s.err i := by
  have h : ∀ t : State, ∀ x, (logError t p b k n x).err i = t.err i := by
    intro t x
    unfold logError
    extract_lets cfg size i
    split
    · rfl
    · split
      · rfl
      · split
        · rfl
        · rename_i s1 spans src s2 _ _ _
          have h2 : ∀ j, s2.err j = t.err j := fun j => (elog_err s1 _ j).trans (putBytes_err t _ _ j)
          clear_value s2
          split
          · rw [msiWrite_err]; exact h2 _
          · exact h2 _
  have h1 : ∀ v, State.err { s with errs := SMap.put (fun _ => 0) s.errs p v } i = if i = p then v else s.err i :=
    fun v => get_put _ _ _ _ _
  unfold raiseWith
  split
  · rename_i h0
    rw [hp] at h0
    cases h0
  · rename_i h0
    rw [hp] at h0
    cases h0
    extract_lets t
    have ht : t.err i = if i = p then setBit n (s.err p) true else s.err i := h1 _
    clear_value t
    split
    · exact ht
    · exact (h t e).trans ht

theorem raise_err (p n i : Nat) (b : Block) (k : Nat) (hp : blockAt p = some (b, k)) :
    (raise s p n).err i = if i = p then setBit n (s.err p) true else s.err i := raiseWith_err s p n _ i b k hp

theorem raiseInfo_err (p n x i : Nat) (b : Block) (k : Nat) (hp : blockAt p = some (b, k)) :
    (raiseInfo s p n x).err i = if i = p then setBit n (s.err p) true else s.err i := raiseWith_err s p n _ i b k hp

/-- A rejected write sets REGWR, bit 0. -/
theorem reject_err (p i : Nat) (b : Block) (k : Nat) (hp : blockAt p = some (b, k)) :
    (reject s p).err i = if i = p then setBit 0 (s.err p) true else s.err i := raiseWith_err s p 0 _ i b k hp

/-! ### writeRec -/

theorem writeRec_quietRec (q : Nat) (r : Rec) : quietRec (writeRec s q r) = quietRec s := by
  unfold writeRec
  extract_lets c j byte1 s1 s2 s3 cfg
  have h2 : quietRec s2 = quietRec s := (setQueue_quietRec s1 _ _).trans (quietRec_of (putBytes_quiet s _ _))
  have h3 : quietRec s3 = quietRec s := (quietRec_of (countEv_quiet s2 _ _ _)).trans h2
  clear_value s3
  apply quietRec_ite
  · exact (quietRec_of (countEv_quiet _ _ _ _)).trans ((quietRec_of (msiWrite_quiet _ _ _)).trans h3)
  · exact h3

/-! ### postRec -/

theorem postRec_quietRec (q : Nat) (f : RecF) : quietRec (postRec s q f) = quietRec s := by
  unfold postRec
  extract_lets c
  split
  · exact writeRec_quietRec s q _
  · rfl

@[simp] theorem postRec_fuses (q : Nat) (f : RecF) : (postRec s q f).fuses = s.fuses := (congrArg State.fuses (postRec_quietRec s q f) :)
@[simp] theorem postRec_keys (q : Nat) (f : RecF) : (postRec s q f).keys = s.keys := (congrArg State.keys (postRec_quietRec s q f) :)
@[simp] theorem postRec_pins (q : Nat) (f : RecF) : (postRec s q f).pins = s.pins := (congrArg State.pins (postRec_quietRec s q f) :)
@[simp] theorem postRec_phase (q : Nat) (f : RecF) : (postRec s q f).phase = s.phase := (congrArg State.phase (postRec_quietRec s q f) :)
@[simp] theorem postRec_boot (q : Nat) (f : RecF) : (postRec s q f).boot = s.boot := (congrArg State.boot (postRec_quietRec s q f) :)
@[simp] theorem postRec_mgmt (q : Nat) (f : RecF) : (postRec s q f).mgmt = s.mgmt := (congrArg State.mgmt (postRec_quietRec s q f) :)
@[simp] theorem postRec_regs (q : Nat) (f : RecF) : (postRec s q f).regs = s.regs := (congrArg State.regs (postRec_quietRec s q f) :)
@[simp] theorem postRec_errs (q : Nat) (f : RecF) : (postRec s q f).errs = s.errs := (congrArg State.errs (postRec_quietRec s q f) :)
@[simp] theorem postRec_dstates (q : Nat) (f : RecF) : (postRec s q f).dstates = s.dstates := (congrArg State.dstates (postRec_quietRec s q f) :)
@[simp] theorem postRec_poison (q : Nat) (f : RecF) : (postRec s q f).poison = s.poison := (congrArg State.poison (postRec_quietRec s q f) :)
@[simp] theorem postRec_sc (q : Nat) (f : RecF) : (postRec s q f).sc = s.sc := (congrArg State.sc (postRec_quietRec s q f) :)
@[simp] theorem postRec_nmcs (q : Nat) (f : RecF) : (postRec s q f).nmcs = s.nmcs := (congrArg State.nmcs (postRec_quietRec s q f) :)
@[simp] theorem postRec_fmcHeld (q : Nat) (f : RecF) : (postRec s q f).fmcHeld = s.fmcHeld := (congrArg State.fmcHeld (postRec_quietRec s q f) :)
@[simp] theorem postRec_homes (q : Nat) (f : RecF) : (postRec s q f).homes = s.homes := (congrArg State.homes (postRec_quietRec s q f) :)
@[simp] theorem postRec_dlinks (q : Nat) (f : RecF) : (postRec s q f).dlinks = s.dlinks := (congrArg State.dlinks (postRec_quietRec s q f) :)
@[simp] theorem postRec_elog (q : Nat) (f : RecF) : (postRec s q f).elog = s.elog := (congrArg State.elog (postRec_quietRec s q f) :)
@[simp] theorem postRec_mmus (q : Nat) (f : RecF) : (postRec s q f).mmus = s.mmus := (congrArg State.mmus (postRec_quietRec s q f) :)
@[simp] theorem postRec_invs (q : Nat) (f : RecF) : (postRec s q f).invs = s.invs := (congrArg State.invs (postRec_quietRec s q f) :)
@[simp] theorem postRec_invDone (q : Nat) (f : RecF) : (postRec s q f).invDone = s.invDone := (congrArg State.invDone (postRec_quietRec s q f) :)
@[simp] theorem postRec_sump (q : Nat) (f : RecF) : (postRec s q f).sump = s.sump := (congrArg State.sump (postRec_quietRec s q f) :)
@[simp] theorem postRec_accepted (q : Nat) (f : RecF) : (postRec s q f).accepted = s.accepted := (congrArg State.accepted (postRec_quietRec s q f) :)
@[simp] theorem postRec_jobs (q : Nat) (f : RecF) : (postRec s q f).jobs = s.jobs := (congrArg State.jobs (postRec_quietRec s q f) :)
@[simp] theorem postRec_items (q : Nat) (f : RecF) : (postRec s q f).items = s.items := (congrArg State.items (postRec_quietRec s q f) :)
@[simp] theorem postRec_nextItem (q : Nat) (f : RecF) : (postRec s q f).nextItem = s.nextItem := (congrArg State.nextItem (postRec_quietRec s q f) :)
@[simp] theorem postRec_jseqs (q : Nat) (f : RecF) : (postRec s q f).jseqs = s.jseqs := (congrArg State.jseqs (postRec_quietRec s q f) :)
@[simp] theorem postRec_units (q : Nat) (f : RecF) : (postRec s q f).units = s.units := (congrArg State.units (postRec_quietRec s q f) :)
@[simp] theorem postRec_groups (q : Nat) (f : RecF) : (postRec s q f).groups = s.groups := (congrArg State.groups (postRec_quietRec s q f) :)
@[simp] theorem postRec_vregs (q : Nat) (f : RecF) : (postRec s q f).vregs = s.vregs := (congrArg State.vregs (postRec_quietRec s q f) :)
@[simp] theorem postRec_ls (q : Nat) (f : RecF) : (postRec s q f).ls = s.ls := (congrArg State.ls (postRec_quietRec s q f) :)
@[simp] theorem postRec_lsWritten (q : Nat) (f : RecF) : (postRec s q f).lsWritten = s.lsWritten := (congrArg State.lsWritten (postRec_quietRec s q f) :)
@[simp] theorem postRec_cc (q : Nat) (f : RecF) : (postRec s q f).cc = s.cc := (congrArg State.cc (postRec_quietRec s q f) :)
@[simp] theorem postRec_cmes (q : Nat) (f : RecF) : (postRec s q f).cmes = s.cmes := (congrArg State.cmes (postRec_quietRec s q f) :)
@[simp] theorem postRec_fab (q : Nat) (f : RecF) : (postRec s q f).fab = s.fab := (congrArg State.fab (postRec_quietRec s q f) :)
@[simp] theorem postRec_seats (q : Nat) (f : RecF) : (postRec s q f).seats = s.seats := (congrArg State.seats (postRec_quietRec s q f) :)
@[simp] theorem postRec_well (q : Nat) (f : RecF) : (postRec s q f).well = s.well := (congrArg State.well (postRec_quietRec s q f) :)
@[simp] theorem postRec_pair (q : Nat) (f : RecF) : (postRec s q f).pair = s.pair := (congrArg State.pair (postRec_quietRec s q f) :)
@[simp] theorem postRec_harts (q : Nat) (f : RecF) : (postRec s q f).harts = s.harts := (congrArg State.harts (postRec_quietRec s q f) :)
@[simp] theorem postRec_dbg (q : Nat) (f : RecF) : (postRec s q f).dbg = s.dbg := (congrArg State.dbg (postRec_quietRec s q f) :)
@[simp] theorem postRec_pwr (q : Nat) (f : RecF) : (postRec s q f).pwr = s.pwr := (congrArg State.pwr (postRec_quietRec s q f) :)
@[simp] theorem postRec_free (q : Nat) (f : RecF) : (postRec s q f).free = s.free := (congrArg State.free (postRec_quietRec s q f) :)
@[simp] theorem postRec_now (q : Nat) (f : RecF) : (postRec s q f).now = s.now := (congrArg State.now (postRec_quietRec s q f) :)
@[simp] theorem postRec_pending (q : Nat) (f : RecF) : (postRec s q f).pending = s.pending := (congrArg State.pending (postRec_quietRec s q f) :)
@[simp] theorem postRec_reg (q : Nat) (f : RecF) (i : Nat) : (postRec s q f).reg i = s.reg i :=
  (congrArg (fun t => State.reg t i) (postRec_quietRec s q f) :)
@[simp] theorem postRec_err (q : Nat) (f : RecF) (i : Nat) : (postRec s q f).err i = s.err i :=
  (congrArg (fun t => State.err t i) (postRec_quietRec s q f) :)
@[simp] theorem postRec_dst (q : Nat) (f : RecF) (i : Nat) : (postRec s q f).dst i = s.dst i :=
  (congrArg (fun t => State.dst t i) (postRec_quietRec s q f) :)
@[simp] theorem postRec_poisoned (q : Nat) (f : RecF) (i : Nat) : (postRec s q f).poisoned i = s.poisoned i :=
  (congrArg (fun t => State.poisoned t i) (postRec_quietRec s q f) :)
@[simp] theorem postRec_pdie (q : Nat) (f : RecF) (i : Nat) : (postRec s q f).pdie i = s.pdie i :=
  (congrArg (fun t => State.pdie t i) (postRec_quietRec s q f) :)
@[simp] theorem postRec_hart (q : Nat) (f : RecF) (i : Nat) : (postRec s q f).hart i = s.hart i :=
  (congrArg (fun t => State.hart t i) (postRec_quietRec s q f) :)
@[simp] theorem postRec_dlink (q : Nat) (f : RecF) (i : Nat) : (postRec s q f).dlink i = s.dlink i :=
  (congrArg (fun t => State.dlink t i) (postRec_quietRec s q f) :)
@[simp] theorem postRec_cme (q : Nat) (f : RecF) (i : Nat) : (postRec s q f).cme i = s.cme i :=
  (congrArg (fun t => State.cme t i) (postRec_quietRec s q f) :)
@[simp] theorem postRec_cu (q : Nat) (f : RecF) (i : Nat) : (postRec s q f).cu i = s.cu i :=
  (congrArg (fun t => State.cu t i) (postRec_quietRec s q f) :)
@[simp] theorem postRec_ccWay (q : Nat) (f : RecF) (i : Nat) : (postRec s q f).ccWay i = s.ccWay i :=
  (congrArg (fun t => State.ccWay t i) (postRec_quietRec s q f) :)
@[simp] theorem postRec_scWay (q : Nat) (f : RecF) (i : Nat) : (postRec s q f).scWay i = s.scWay i :=
  (congrArg (fun t => State.scWay t i) (postRec_quietRec s q f) :)
@[simp] theorem postRec_nmc (q : Nat) (f : RecF) (i j : Nat) : (postRec s q f).nmc i j = s.nmc i j :=
  (congrArg (fun t => State.nmc t i j) (postRec_quietRec s q f) :)
@[simp] theorem postRec_home (q : Nat) (f : RecF) (i j : Nat) : (postRec s q f).home i j = s.home i j :=
  (congrArg (fun t => State.home t i j) (postRec_quietRec s q f) :)
@[simp] theorem postRec_mmu (q : Nat) (f : RecF) (i : Nat) : (postRec s q f).mmu i = s.mmu i :=
  (congrArg (fun t => State.mmu t i) (postRec_quietRec s q f) :)
@[simp] theorem postRec_job (q : Nat) (f : RecF) (i : Nat) : (postRec s q f).job i = s.job i :=
  (congrArg (fun t => State.job t i) (postRec_quietRec s q f) :)
@[simp] theorem postRec_item (q : Nat) (f : RecF) (i : Nat) : (postRec s q f).item i = s.item i :=
  (congrArg (fun t => State.item t i) (postRec_quietRec s q f) :)
@[simp] theorem postRec_grp (q : Nat) (f : RecF) (i j : Nat) : (postRec s q f).grp i j = s.grp i j :=
  (congrArg (fun t => State.grp t i j) (postRec_quietRec s q f) :)
@[simp] theorem postRec_vreg (q : Nat) (f : RecF) (i j k l : Nat) : (postRec s q f).vreg i j k l = s.vreg i j k l :=
  (congrArg (fun t => State.vreg t i j k l) (postRec_quietRec s q f) :)
@[simp] theorem postRec_flow (q : Nat) (f : RecF) (i : Nat) : (postRec s q f).flow i = s.flow i :=
  (congrArg (fun t => State.flow t i) (postRec_quietRec s q f) :)
@[simp] theorem postRec_port (q : Nat) (f : RecF) (i : Nat) : (postRec s q f).port i = s.port i :=
  (congrArg (fun t => State.port t i) (postRec_quietRec s q f) :)
@[simp] theorem postRec_seat (q : Nat) (f : RecF) (i j : Nat) : (postRec s q f).seat i j = s.seat i j :=
  (congrArg (fun t => State.seat t i j) (postRec_quietRec s q f) :)

/-! ### cmeFeed -/

theorem cmeFeed_quietDesc (n d : Nat) : quietDesc (cmeFeed n s d) = quietDesc s := by
  induction n generalizing s with
  | zero => rfl
  | succ n ih =>
    unfold cmeFeed
    dsimp only
    split
    · rfl
    · split
      · rw [ih]; rfl
      · rfl

/-! ### finishDesc -/

theorem finishDesc_quietDesc (q x st v : Nat) : quietDesc (finishDesc s q x st v) = quietDesc s := by
  unfold finishDesc
  split
  · rfl
  · split
    · have h : ∀ (l : List Nat) (g : Nat → CmeReq) (t : State), quietDesc (l.foldl (fun t c => cmeAsk t c (g c)) t) = quietDesc t := by
        intro l g
        induction l with
        | nil => intro t; rfl
        | cons a l ih =>
          intro t
          rw [List.foldl_cons, ih]
          unfold cmeAsk
          dsimp only
          rw [cmeFeed_quietDesc]
          rfl
      exact (h _ _ _).trans rfl
    · unfold recordDesc dropFetched
      dsimp only
      exact (congrArg (fun t => quietDesc { t with fab := FabSt.reset }) (postRec_quietRec _ q _) :)

@[simp] theorem finishDesc_fuses (q x st v : Nat) : (finishDesc s q x st v).fuses = s.fuses := (congrArg State.fuses (finishDesc_quietDesc s q x st v) :)
@[simp] theorem finishDesc_keys (q x st v : Nat) : (finishDesc s q x st v).keys = s.keys := (congrArg State.keys (finishDesc_quietDesc s q x st v) :)
@[simp] theorem finishDesc_pins (q x st v : Nat) : (finishDesc s q x st v).pins = s.pins := (congrArg State.pins (finishDesc_quietDesc s q x st v) :)
@[simp] theorem finishDesc_phase (q x st v : Nat) : (finishDesc s q x st v).phase = s.phase := (congrArg State.phase (finishDesc_quietDesc s q x st v) :)
@[simp] theorem finishDesc_boot (q x st v : Nat) : (finishDesc s q x st v).boot = s.boot := (congrArg State.boot (finishDesc_quietDesc s q x st v) :)
@[simp] theorem finishDesc_mgmt (q x st v : Nat) : (finishDesc s q x st v).mgmt = s.mgmt := (congrArg State.mgmt (finishDesc_quietDesc s q x st v) :)
@[simp] theorem finishDesc_regs (q x st v : Nat) : (finishDesc s q x st v).regs = s.regs := (congrArg State.regs (finishDesc_quietDesc s q x st v) :)
@[simp] theorem finishDesc_errs (q x st v : Nat) : (finishDesc s q x st v).errs = s.errs := (congrArg State.errs (finishDesc_quietDesc s q x st v) :)
@[simp] theorem finishDesc_dstates (q x st v : Nat) : (finishDesc s q x st v).dstates = s.dstates := (congrArg State.dstates (finishDesc_quietDesc s q x st v) :)
@[simp] theorem finishDesc_poison (q x st v : Nat) : (finishDesc s q x st v).poison = s.poison := (congrArg State.poison (finishDesc_quietDesc s q x st v) :)
@[simp] theorem finishDesc_sc (q x st v : Nat) : (finishDesc s q x st v).sc = s.sc := (congrArg State.sc (finishDesc_quietDesc s q x st v) :)
@[simp] theorem finishDesc_nmcs (q x st v : Nat) : (finishDesc s q x st v).nmcs = s.nmcs := (congrArg State.nmcs (finishDesc_quietDesc s q x st v) :)
@[simp] theorem finishDesc_fmcHeld (q x st v : Nat) : (finishDesc s q x st v).fmcHeld = s.fmcHeld := (congrArg State.fmcHeld (finishDesc_quietDesc s q x st v) :)
@[simp] theorem finishDesc_homes (q x st v : Nat) : (finishDesc s q x st v).homes = s.homes := (congrArg State.homes (finishDesc_quietDesc s q x st v) :)
@[simp] theorem finishDesc_dlinks (q x st v : Nat) : (finishDesc s q x st v).dlinks = s.dlinks := (congrArg State.dlinks (finishDesc_quietDesc s q x st v) :)
@[simp] theorem finishDesc_elog (q x st v : Nat) : (finishDesc s q x st v).elog = s.elog := (congrArg State.elog (finishDesc_quietDesc s q x st v) :)
@[simp] theorem finishDesc_mmus (q x st v : Nat) : (finishDesc s q x st v).mmus = s.mmus := (congrArg State.mmus (finishDesc_quietDesc s q x st v) :)
@[simp] theorem finishDesc_invs (q x st v : Nat) : (finishDesc s q x st v).invs = s.invs := (congrArg State.invs (finishDesc_quietDesc s q x st v) :)
@[simp] theorem finishDesc_invDone (q x st v : Nat) : (finishDesc s q x st v).invDone = s.invDone := (congrArg State.invDone (finishDesc_quietDesc s q x st v) :)
@[simp] theorem finishDesc_sump (q x st v : Nat) : (finishDesc s q x st v).sump = s.sump := (congrArg State.sump (finishDesc_quietDesc s q x st v) :)
@[simp] theorem finishDesc_accepted (q x st v : Nat) : (finishDesc s q x st v).accepted = s.accepted := (congrArg State.accepted (finishDesc_quietDesc s q x st v) :)
@[simp] theorem finishDesc_jobs (q x st v : Nat) : (finishDesc s q x st v).jobs = s.jobs := (congrArg State.jobs (finishDesc_quietDesc s q x st v) :)
@[simp] theorem finishDesc_items (q x st v : Nat) : (finishDesc s q x st v).items = s.items := (congrArg State.items (finishDesc_quietDesc s q x st v) :)
@[simp] theorem finishDesc_nextItem (q x st v : Nat) : (finishDesc s q x st v).nextItem = s.nextItem := (congrArg State.nextItem (finishDesc_quietDesc s q x st v) :)
@[simp] theorem finishDesc_jseqs (q x st v : Nat) : (finishDesc s q x st v).jseqs = s.jseqs := (congrArg State.jseqs (finishDesc_quietDesc s q x st v) :)
@[simp] theorem finishDesc_units (q x st v : Nat) : (finishDesc s q x st v).units = s.units := (congrArg State.units (finishDesc_quietDesc s q x st v) :)
@[simp] theorem finishDesc_groups (q x st v : Nat) : (finishDesc s q x st v).groups = s.groups := (congrArg State.groups (finishDesc_quietDesc s q x st v) :)
@[simp] theorem finishDesc_vregs (q x st v : Nat) : (finishDesc s q x st v).vregs = s.vregs := (congrArg State.vregs (finishDesc_quietDesc s q x st v) :)
@[simp] theorem finishDesc_ls (q x st v : Nat) : (finishDesc s q x st v).ls = s.ls := (congrArg State.ls (finishDesc_quietDesc s q x st v) :)
@[simp] theorem finishDesc_lsWritten (q x st v : Nat) : (finishDesc s q x st v).lsWritten = s.lsWritten := (congrArg State.lsWritten (finishDesc_quietDesc s q x st v) :)
@[simp] theorem finishDesc_cc (q x st v : Nat) : (finishDesc s q x st v).cc = s.cc := (congrArg State.cc (finishDesc_quietDesc s q x st v) :)
@[simp] theorem finishDesc_seats (q x st v : Nat) : (finishDesc s q x st v).seats = s.seats := (congrArg State.seats (finishDesc_quietDesc s q x st v) :)
@[simp] theorem finishDesc_well (q x st v : Nat) : (finishDesc s q x st v).well = s.well := (congrArg State.well (finishDesc_quietDesc s q x st v) :)
@[simp] theorem finishDesc_pair (q x st v : Nat) : (finishDesc s q x st v).pair = s.pair := (congrArg State.pair (finishDesc_quietDesc s q x st v) :)
@[simp] theorem finishDesc_harts (q x st v : Nat) : (finishDesc s q x st v).harts = s.harts := (congrArg State.harts (finishDesc_quietDesc s q x st v) :)
@[simp] theorem finishDesc_dbg (q x st v : Nat) : (finishDesc s q x st v).dbg = s.dbg := (congrArg State.dbg (finishDesc_quietDesc s q x st v) :)
@[simp] theorem finishDesc_pwr (q x st v : Nat) : (finishDesc s q x st v).pwr = s.pwr := (congrArg State.pwr (finishDesc_quietDesc s q x st v) :)
@[simp] theorem finishDesc_free (q x st v : Nat) : (finishDesc s q x st v).free = s.free := (congrArg State.free (finishDesc_quietDesc s q x st v) :)
@[simp] theorem finishDesc_now (q x st v : Nat) : (finishDesc s q x st v).now = s.now := (congrArg State.now (finishDesc_quietDesc s q x st v) :)
@[simp] theorem finishDesc_pending (q x st v : Nat) : (finishDesc s q x st v).pending = s.pending := (congrArg State.pending (finishDesc_quietDesc s q x st v) :)
@[simp] theorem finishDesc_reg (q x st v : Nat) (i : Nat) : (finishDesc s q x st v).reg i = s.reg i :=
  (congrArg (fun t => State.reg t i) (finishDesc_quietDesc s q x st v) :)
@[simp] theorem finishDesc_err (q x st v : Nat) (i : Nat) : (finishDesc s q x st v).err i = s.err i :=
  (congrArg (fun t => State.err t i) (finishDesc_quietDesc s q x st v) :)
@[simp] theorem finishDesc_dst (q x st v : Nat) (i : Nat) : (finishDesc s q x st v).dst i = s.dst i :=
  (congrArg (fun t => State.dst t i) (finishDesc_quietDesc s q x st v) :)
@[simp] theorem finishDesc_poisoned (q x st v : Nat) (i : Nat) : (finishDesc s q x st v).poisoned i = s.poisoned i :=
  (congrArg (fun t => State.poisoned t i) (finishDesc_quietDesc s q x st v) :)
@[simp] theorem finishDesc_pdie (q x st v : Nat) (i : Nat) : (finishDesc s q x st v).pdie i = s.pdie i :=
  (congrArg (fun t => State.pdie t i) (finishDesc_quietDesc s q x st v) :)
@[simp] theorem finishDesc_hart (q x st v : Nat) (i : Nat) : (finishDesc s q x st v).hart i = s.hart i :=
  (congrArg (fun t => State.hart t i) (finishDesc_quietDesc s q x st v) :)
@[simp] theorem finishDesc_dlink (q x st v : Nat) (i : Nat) : (finishDesc s q x st v).dlink i = s.dlink i :=
  (congrArg (fun t => State.dlink t i) (finishDesc_quietDesc s q x st v) :)
@[simp] theorem finishDesc_cu (q x st v : Nat) (i : Nat) : (finishDesc s q x st v).cu i = s.cu i :=
  (congrArg (fun t => State.cu t i) (finishDesc_quietDesc s q x st v) :)
@[simp] theorem finishDesc_ccWay (q x st v : Nat) (i : Nat) : (finishDesc s q x st v).ccWay i = s.ccWay i :=
  (congrArg (fun t => State.ccWay t i) (finishDesc_quietDesc s q x st v) :)
@[simp] theorem finishDesc_scWay (q x st v : Nat) (i : Nat) : (finishDesc s q x st v).scWay i = s.scWay i :=
  (congrArg (fun t => State.scWay t i) (finishDesc_quietDesc s q x st v) :)
@[simp] theorem finishDesc_nmc (q x st v : Nat) (i j : Nat) : (finishDesc s q x st v).nmc i j = s.nmc i j :=
  (congrArg (fun t => State.nmc t i j) (finishDesc_quietDesc s q x st v) :)
@[simp] theorem finishDesc_home (q x st v : Nat) (i j : Nat) : (finishDesc s q x st v).home i j = s.home i j :=
  (congrArg (fun t => State.home t i j) (finishDesc_quietDesc s q x st v) :)
@[simp] theorem finishDesc_mmu (q x st v : Nat) (i : Nat) : (finishDesc s q x st v).mmu i = s.mmu i :=
  (congrArg (fun t => State.mmu t i) (finishDesc_quietDesc s q x st v) :)
@[simp] theorem finishDesc_job (q x st v : Nat) (i : Nat) : (finishDesc s q x st v).job i = s.job i :=
  (congrArg (fun t => State.job t i) (finishDesc_quietDesc s q x st v) :)
@[simp] theorem finishDesc_item (q x st v : Nat) (i : Nat) : (finishDesc s q x st v).item i = s.item i :=
  (congrArg (fun t => State.item t i) (finishDesc_quietDesc s q x st v) :)
@[simp] theorem finishDesc_grp (q x st v : Nat) (i j : Nat) : (finishDesc s q x st v).grp i j = s.grp i j :=
  (congrArg (fun t => State.grp t i j) (finishDesc_quietDesc s q x st v) :)
@[simp] theorem finishDesc_vreg (q x st v : Nat) (i j k l : Nat) : (finishDesc s q x st v).vreg i j k l = s.vreg i j k l :=
  (congrArg (fun t => State.vreg t i j k l) (finishDesc_quietDesc s q x st v) :)
@[simp] theorem finishDesc_seat (q x st v : Nat) (i j : Nat) : (finishDesc s q x st v).seat i j = s.seat i j :=
  (congrArg (fun t => State.seat t i j) (finishDesc_quietDesc s q x st v) :)

/-! ### fatalStop -/

theorem fatalStop_quietStop (c x d : Nat) : quietStop (fatalStop s c x d) = quietStop s := by
  unfold fatalStop ibi
  dsimp only
  split <;> rfl

@[simp] theorem fatalStop_fuses (c x d : Nat) : (fatalStop s c x d).fuses = s.fuses := (congrArg State.fuses (fatalStop_quietStop s c x d) :)
@[simp] theorem fatalStop_keys (c x d : Nat) : (fatalStop s c x d).keys = s.keys := (congrArg State.keys (fatalStop_quietStop s c x d) :)
@[simp] theorem fatalStop_pins (c x d : Nat) : (fatalStop s c x d).pins = s.pins := (congrArg State.pins (fatalStop_quietStop s c x d) :)
@[simp] theorem fatalStop_boot (c x d : Nat) : (fatalStop s c x d).boot = s.boot := (congrArg State.boot (fatalStop_quietStop s c x d) :)
@[simp] theorem fatalStop_mgmt (c x d : Nat) : (fatalStop s c x d).mgmt = s.mgmt := (congrArg State.mgmt (fatalStop_quietStop s c x d) :)
@[simp] theorem fatalStop_errs (c x d : Nat) : (fatalStop s c x d).errs = s.errs := (congrArg State.errs (fatalStop_quietStop s c x d) :)
@[simp] theorem fatalStop_dstates (c x d : Nat) : (fatalStop s c x d).dstates = s.dstates := (congrArg State.dstates (fatalStop_quietStop s c x d) :)
@[simp] theorem fatalStop_mem (c x d : Nat) : (fatalStop s c x d).mem = s.mem := (congrArg State.mem (fatalStop_quietStop s c x d) :)
@[simp] theorem fatalStop_poison (c x d : Nat) : (fatalStop s c x d).poison = s.poison := (congrArg State.poison (fatalStop_quietStop s c x d) :)
@[simp] theorem fatalStop_sc (c x d : Nat) : (fatalStop s c x d).sc = s.sc := (congrArg State.sc (fatalStop_quietStop s c x d) :)
@[simp] theorem fatalStop_nmcs (c x d : Nat) : (fatalStop s c x d).nmcs = s.nmcs := (congrArg State.nmcs (fatalStop_quietStop s c x d) :)
@[simp] theorem fatalStop_fmcHeld (c x d : Nat) : (fatalStop s c x d).fmcHeld = s.fmcHeld := (congrArg State.fmcHeld (fatalStop_quietStop s c x d) :)
@[simp] theorem fatalStop_homes (c x d : Nat) : (fatalStop s c x d).homes = s.homes := (congrArg State.homes (fatalStop_quietStop s c x d) :)
@[simp] theorem fatalStop_dlinks (c x d : Nat) : (fatalStop s c x d).dlinks = s.dlinks := (congrArg State.dlinks (fatalStop_quietStop s c x d) :)
@[simp] theorem fatalStop_elog (c x d : Nat) : (fatalStop s c x d).elog = s.elog := (congrArg State.elog (fatalStop_quietStop s c x d) :)
@[simp] theorem fatalStop_ev (c x d : Nat) : (fatalStop s c x d).ev = s.ev := (congrArg State.ev (fatalStop_quietStop s c x d) :)
@[simp] theorem fatalStop_mmus (c x d : Nat) : (fatalStop s c x d).mmus = s.mmus := (congrArg State.mmus (fatalStop_quietStop s c x d) :)
@[simp] theorem fatalStop_invs (c x d : Nat) : (fatalStop s c x d).invs = s.invs := (congrArg State.invs (fatalStop_quietStop s c x d) :)
@[simp] theorem fatalStop_invDone (c x d : Nat) : (fatalStop s c x d).invDone = s.invDone := (congrArg State.invDone (fatalStop_quietStop s c x d) :)
@[simp] theorem fatalStop_sump (c x d : Nat) : (fatalStop s c x d).sump = s.sump := (congrArg State.sump (fatalStop_quietStop s c x d) :)
@[simp] theorem fatalStop_queues (c x d : Nat) : (fatalStop s c x d).queues = s.queues := (congrArg State.queues (fatalStop_quietStop s c x d) :)
@[simp] theorem fatalStop_accepted (c x d : Nat) : (fatalStop s c x d).accepted = s.accepted := (congrArg State.accepted (fatalStop_quietStop s c x d) :)
@[simp] theorem fatalStop_jobs (c x d : Nat) : (fatalStop s c x d).jobs = s.jobs := (congrArg State.jobs (fatalStop_quietStop s c x d) :)
@[simp] theorem fatalStop_items (c x d : Nat) : (fatalStop s c x d).items = s.items := (congrArg State.items (fatalStop_quietStop s c x d) :)
@[simp] theorem fatalStop_nextItem (c x d : Nat) : (fatalStop s c x d).nextItem = s.nextItem := (congrArg State.nextItem (fatalStop_quietStop s c x d) :)
@[simp] theorem fatalStop_jseqs (c x d : Nat) : (fatalStop s c x d).jseqs = s.jseqs := (congrArg State.jseqs (fatalStop_quietStop s c x d) :)
@[simp] theorem fatalStop_units (c x d : Nat) : (fatalStop s c x d).units = s.units := (congrArg State.units (fatalStop_quietStop s c x d) :)
@[simp] theorem fatalStop_groups (c x d : Nat) : (fatalStop s c x d).groups = s.groups := (congrArg State.groups (fatalStop_quietStop s c x d) :)
@[simp] theorem fatalStop_vregs (c x d : Nat) : (fatalStop s c x d).vregs = s.vregs := (congrArg State.vregs (fatalStop_quietStop s c x d) :)
@[simp] theorem fatalStop_ls (c x d : Nat) : (fatalStop s c x d).ls = s.ls := (congrArg State.ls (fatalStop_quietStop s c x d) :)
@[simp] theorem fatalStop_lsWritten (c x d : Nat) : (fatalStop s c x d).lsWritten = s.lsWritten := (congrArg State.lsWritten (fatalStop_quietStop s c x d) :)
@[simp] theorem fatalStop_cc (c x d : Nat) : (fatalStop s c x d).cc = s.cc := (congrArg State.cc (fatalStop_quietStop s c x d) :)
@[simp] theorem fatalStop_cmes (c x d : Nat) : (fatalStop s c x d).cmes = s.cmes := (congrArg State.cmes (fatalStop_quietStop s c x d) :)
@[simp] theorem fatalStop_fab (c x d : Nat) : (fatalStop s c x d).fab = s.fab := (congrArg State.fab (fatalStop_quietStop s c x d) :)
@[simp] theorem fatalStop_seats (c x d : Nat) : (fatalStop s c x d).seats = s.seats := (congrArg State.seats (fatalStop_quietStop s c x d) :)
@[simp] theorem fatalStop_well (c x d : Nat) : (fatalStop s c x d).well = s.well := (congrArg State.well (fatalStop_quietStop s c x d) :)
@[simp] theorem fatalStop_pair (c x d : Nat) : (fatalStop s c x d).pair = s.pair := (congrArg State.pair (fatalStop_quietStop s c x d) :)
@[simp] theorem fatalStop_harts (c x d : Nat) : (fatalStop s c x d).harts = s.harts := (congrArg State.harts (fatalStop_quietStop s c x d) :)
@[simp] theorem fatalStop_imsic (c x d : Nat) : (fatalStop s c x d).imsic = s.imsic := (congrArg State.imsic (fatalStop_quietStop s c x d) :)
@[simp] theorem fatalStop_dbg (c x d : Nat) : (fatalStop s c x d).dbg = s.dbg := (congrArg State.dbg (fatalStop_quietStop s c x d) :)
@[simp] theorem fatalStop_pwr (c x d : Nat) : (fatalStop s c x d).pwr = s.pwr := (congrArg State.pwr (fatalStop_quietStop s c x d) :)
@[simp] theorem fatalStop_free (c x d : Nat) : (fatalStop s c x d).free = s.free := (congrArg State.free (fatalStop_quietStop s c x d) :)
@[simp] theorem fatalStop_now (c x d : Nat) : (fatalStop s c x d).now = s.now := (congrArg State.now (fatalStop_quietStop s c x d) :)
@[simp] theorem fatalStop_pending (c x d : Nat) : (fatalStop s c x d).pending = s.pending := (congrArg State.pending (fatalStop_quietStop s c x d) :)
@[simp] theorem fatalStop_err (c x d : Nat) (i : Nat) : (fatalStop s c x d).err i = s.err i :=
  (congrArg (fun t => State.err t i) (fatalStop_quietStop s c x d) :)
@[simp] theorem fatalStop_dst (c x d : Nat) (i : Nat) : (fatalStop s c x d).dst i = s.dst i :=
  (congrArg (fun t => State.dst t i) (fatalStop_quietStop s c x d) :)
@[simp] theorem fatalStop_byte (c x d : Nat) (i : Nat) : (fatalStop s c x d).byte i = s.byte i :=
  (congrArg (fun t => State.byte t i) (fatalStop_quietStop s c x d) :)
@[simp] theorem fatalStop_poisoned (c x d : Nat) (i : Nat) : (fatalStop s c x d).poisoned i = s.poisoned i :=
  (congrArg (fun t => State.poisoned t i) (fatalStop_quietStop s c x d) :)
@[simp] theorem fatalStop_irqPending (c x d : Nat) (i : Nat) : (fatalStop s c x d).irqPending i = s.irqPending i :=
  (congrArg (fun t => State.irqPending t i) (fatalStop_quietStop s c x d) :)
@[simp] theorem fatalStop_evcnt (c x d : Nat) (i : Nat) : (fatalStop s c x d).evcnt i = s.evcnt i :=
  (congrArg (fun t => State.evcnt t i) (fatalStop_quietStop s c x d) :)
@[simp] theorem fatalStop_queue (c x d : Nat) (i : Nat) : (fatalStop s c x d).queue i = s.queue i :=
  (congrArg (fun t => State.queue t i) (fatalStop_quietStop s c x d) :)
@[simp] theorem fatalStop_pdie (c x d : Nat) (i : Nat) : (fatalStop s c x d).pdie i = s.pdie i :=
  (congrArg (fun t => State.pdie t i) (fatalStop_quietStop s c x d) :)
@[simp] theorem fatalStop_hart (c x d : Nat) (i : Nat) : (fatalStop s c x d).hart i = s.hart i :=
  (congrArg (fun t => State.hart t i) (fatalStop_quietStop s c x d) :)
@[simp] theorem fatalStop_dlink (c x d : Nat) (i : Nat) : (fatalStop s c x d).dlink i = s.dlink i :=
  (congrArg (fun t => State.dlink t i) (fatalStop_quietStop s c x d) :)
@[simp] theorem fatalStop_cme (c x d : Nat) (i : Nat) : (fatalStop s c x d).cme i = s.cme i :=
  (congrArg (fun t => State.cme t i) (fatalStop_quietStop s c x d) :)
@[simp] theorem fatalStop_cu (c x d : Nat) (i : Nat) : (fatalStop s c x d).cu i = s.cu i :=
  (congrArg (fun t => State.cu t i) (fatalStop_quietStop s c x d) :)
@[simp] theorem fatalStop_ccWay (c x d : Nat) (i : Nat) : (fatalStop s c x d).ccWay i = s.ccWay i :=
  (congrArg (fun t => State.ccWay t i) (fatalStop_quietStop s c x d) :)
@[simp] theorem fatalStop_scWay (c x d : Nat) (i : Nat) : (fatalStop s c x d).scWay i = s.scWay i :=
  (congrArg (fun t => State.scWay t i) (fatalStop_quietStop s c x d) :)
@[simp] theorem fatalStop_nmc (c x d : Nat) (i j : Nat) : (fatalStop s c x d).nmc i j = s.nmc i j :=
  (congrArg (fun t => State.nmc t i j) (fatalStop_quietStop s c x d) :)
@[simp] theorem fatalStop_home (c x d : Nat) (i j : Nat) : (fatalStop s c x d).home i j = s.home i j :=
  (congrArg (fun t => State.home t i j) (fatalStop_quietStop s c x d) :)
@[simp] theorem fatalStop_mmu (c x d : Nat) (i : Nat) : (fatalStop s c x d).mmu i = s.mmu i :=
  (congrArg (fun t => State.mmu t i) (fatalStop_quietStop s c x d) :)
@[simp] theorem fatalStop_job (c x d : Nat) (i : Nat) : (fatalStop s c x d).job i = s.job i :=
  (congrArg (fun t => State.job t i) (fatalStop_quietStop s c x d) :)
@[simp] theorem fatalStop_item (c x d : Nat) (i : Nat) : (fatalStop s c x d).item i = s.item i :=
  (congrArg (fun t => State.item t i) (fatalStop_quietStop s c x d) :)
@[simp] theorem fatalStop_grp (c x d : Nat) (i j : Nat) : (fatalStop s c x d).grp i j = s.grp i j :=
  (congrArg (fun t => State.grp t i j) (fatalStop_quietStop s c x d) :)
@[simp] theorem fatalStop_vreg (c x d : Nat) (i j k l : Nat) : (fatalStop s c x d).vreg i j k l = s.vreg i j k l :=
  (congrArg (fun t => State.vreg t i j k l) (fatalStop_quietStop s c x d) :)
@[simp] theorem fatalStop_flow (c x d : Nat) (i : Nat) : (fatalStop s c x d).flow i = s.flow i :=
  (congrArg (fun t => State.flow t i) (fatalStop_quietStop s c x d) :)
@[simp] theorem fatalStop_port (c x d : Nat) (i : Nat) : (fatalStop s c x d).port i = s.port i :=
  (congrArg (fun t => State.port t i) (fatalStop_quietStop s c x d) :)
@[simp] theorem fatalStop_seat (c x d : Nat) (i j : Nat) : (fatalStop s c x d).seat i j = s.seat i j :=
  (congrArg (fun t => State.seat t i j) (fatalStop_quietStop s c x d) :)

@[simp] theorem fatalStop_phase (c x d : Nat) : (fatalStop s c x d).phase = .fatal := rfl

end Sys2Proof.Laws
end

