-- ==== Sys2Proof/Laws/Pages.lean ====
section
/-! SUPPORT. Register addresses and the page and offset they name. -/

namespace Sys2Proof.Laws

open Sys2Proof.Machine

/-- A register's address names its page and offset. -/
theorem pageOf_regAddr {page off : Nat} (h : page < 65536) (ho : off < 65536) :
    pageOf (regAddr page off) = page ∧ offOf (regAddr page off) = off ∧ inAperture (regAddr page off) = true := by
  unfold pageOf offOf regAddr inAperture apertureBase
  simp
  omega

/-- Every page that names a block lies in the aperture. -/
theorem blockAt_lt {page : Nat} {b : Block} {i : Nat} (h : blockAt page = some (b, i)) : page < 65536 := by
  by_contra hc
  have : 8 ≤ page / 8192 := by omega
  simp [blockAt, this] at h

/-- A present page names its block. -/
theorem blockAt_of_present {s : State} {page : Nat} {b : Block} {i : Nat} (h : presentPage s page = some (b, i)) :
    blockAt page = some (b, i) := by
  unfold presentPage at h
  cases hb : blockAt page with
  | none => simp [hb] at h
  | some p =>
    obtain ⟨b', i'⟩ := p
    simp only [hb] at h
    generalize (decide (page / 8192 = 7) || hasDie s (page / 8192)) = x at h
    simp only [Option.ite_none_right_eq_some] at h
    rw [h.2]

/-- Different offsets of a page are different addresses. -/
theorem regAddr_inj {p q o o' : Nat} (ho : o < 65536) (ho' : o' < 65536) :
    regAddr p o = regAddr q o' ↔ p = q ∧ o = o' := by
  unfold regAddr
  omega

end Sys2Proof.Laws
end

