-- ==== Sys2Proof/Laws/Effects.lean ====
section
/-! SUPPORT. What further operations write: a stop of the module, the effective cap, one-feed mode. -/

namespace Sys2Proof.Laws

open Sys2Proof.Machine

variable (s : State)

/-- A FATAL error writes SEC_FATAL, if it holds no cause yet, and no other register. -/
theorem fatalStop_reg (c x d a : Nat) :
    (fatalStop s c x d).reg a =
      if a = regAddr pgSec 0x210 then
        (if bit 63 (s.reg (regAddr pgSec 0x210)) then s.reg (regAddr pgSec 0x210)
         else BitVec.ofNat 64 (2 ^ 63 + x % 256 * 2 ^ 16 + c * 2 ^ 8 + d % 8))
      else s.reg a := by
  have h : ∀ t : State, (ibi { t with phase := .fatal }).reg a = t.reg a := fun _ => rfl
  unfold fatalStop
  rw [h]
  by_cases hb : bit 63 (s.reg (regAddr pgSec 0x210)) = true
  · rw [if_pos hb]
    by_cases ha : a = regAddr pgSec 0x210
    · subst ha; simp [hb]
    · simp [ha]
  · rw [if_neg hb, setReg_reg]
    by_cases ha : a = regAddr pgSec 0x210
    · rw [if_pos ha, if_pos ha, if_neg hb]
    · rw [if_neg ha, if_neg ha]

/-- A FATAL error raises one in-band interrupt on the active path. -/
@[simp] theorem fatalStop_outs (c x d : Nat) : (fatalStop s c x d).outs = .ibi s.mgmt.secActive :: s.outs := by
  have h : ∀ t : State, (ibi { t with phase := .fatal }).outs = .ibi t.mgmt.secActive :: t.outs := fun _ => rfl
  unfold fatalStop
  rw [h]
  split <;> rfl

/-- The effective cap is within the register's field. -/
theorem effCap_lt : effCap s < 65536 := by
  have h := fld_lt 15 0 (s.reg (regAddr (pgPwr 2) 0x100))
  unfold effCap State.regF
  dsimp only
  split
  · exact Nat.lt_of_le_of_lt (Nat.min_le_left _ _) h
  · exact h

end Sys2Proof.Laws
end

