-- ==== Sys2Proof/Laws/Keeps.lean ====
section
/-! SUPPORT. `Keeps s0 s`: s has the fuses and the waiting commands of s0, and its tables are in canonical form
if those of s0 are. Every operation of the machine keeps it; here the rules the other files of this kind use:
the record update of an untracked field, and one write of each table. -/

namespace Sys2Proof.Laws

open Sys2Proof.Machine

/-- What no command changes, and the form every command keeps. -/
def Keeps (s0 s : State) : Prop :=
  s.fuses = s0.fuses ∧ s.pending = s0.pending ∧ (Canonical s0 → Canonical s)

/-- The same of an outcome, of an optional state and of a state within a tuple. -/
structure KeepsOut (s0 : State) (o : Out) : Prop where
  of : ∀ t, o = .next t → Keeps s0 t
structure KeepsOpt (s0 : State) (o : Option State) : Prop where
  of : ∀ t, o = some t → Keeps s0 t
structure KeepsFst {β : Type} (s0 : State) (p : State × β) : Prop where
  of : Keeps s0 p.1
structure KeepsSnd {α : Type} (s0 : State) (p : α × State) : Prop where
  of : Keeps s0 p.2
structure KeepsThd {α β : Type} (s0 : State) (p : α × β × State) : Prop where
  of : Keeps s0 p.2.2
structure KeepsOptFst {β : Type} (s0 : State) (o : Option (State × β)) : Prop where
  of : ∀ a t, o = some (t, a) → Keeps s0 t
structure KeepsOptSnd {α : Type} (s0 : State) (o : Option (α × State)) : Prop where
  of : ∀ a t, o = some (a, t) → Keeps s0 t

theorem keeps_refl (s : State) : Keeps s s := ⟨rfl, rfl, id⟩

theorem keeps_trans {a b c : State} (h : Keeps a b) (k : Keeps b c) : Keeps a c :=
  ⟨k.1.trans h.1, k.2.1.trans h.2.1, fun x => k.2.2 (h.2.2 x)⟩

theorem keeps_ite {s0 : State} {c : Prop} [Decidable c] {a b : State} (ha : Keeps s0 a) (hb : Keeps s0 b) :
    Keeps s0 (if c then a else b) := by
  split
  · exact ha
  · exact hb

theorem keepsOut_ite {s0 : State} {c : Prop} [Decidable c] {a b : Out} (ha : KeepsOut s0 a) (hb : KeepsOut s0 b) :
    KeepsOut s0 (if c then a else b) := by
  split
  · exact ha
  · exact hb

theorem keepsOpt_ite {s0 : State} {c : Prop} [Decidable c] {a b : Option State} (ha : KeepsOpt s0 a) (hb : KeepsOpt s0 b) :
    KeepsOpt s0 (if c then a else b) := by
  split
  · exact ha
  · exact hb

theorem keepsFst_ite {β : Type} {s0 : State} {c : Prop} [Decidable c] {a b : State × β} (ha : KeepsFst s0 a) (hb : KeepsFst s0 b) :
    KeepsFst s0 (if c then a else b) := by
  split
  · exact ha
  · exact hb

theorem keepsSnd_ite {α : Type} {s0 : State} {c : Prop} [Decidable c] {a b : α × State} (ha : KeepsSnd s0 a) (hb : KeepsSnd s0 b) :
    KeepsSnd s0 (if c then a else b) := by
  split
  · exact ha
  · exact hb

theorem keepsThd_ite {α : Type} {β : Type} {s0 : State} {c : Prop} [Decidable c] {a b : α × β × State} (ha : KeepsThd s0 a) (hb : KeepsThd s0 b) :
    KeepsThd s0 (if c then a else b) := by
  split
  · exact ha
  · exact hb

theorem keepsOptFst_ite {β : Type} {s0 : State} {c : Prop} [Decidable c] {a b : Option (State × β)} (ha : KeepsOptFst s0 a) (hb : KeepsOptFst s0 b) :
    KeepsOptFst s0 (if c then a else b) := by
  split
  · exact ha
  · exact hb

theorem keepsOptSnd_ite {α : Type} {s0 : State} {c : Prop} [Decidable c] {a b : Option (α × State)} (ha : KeepsOptSnd s0 a) (hb : KeepsOptSnd s0 b) :
    KeepsOptSnd s0 (if c then a else b) := by
  split
  · exact ha
  · exact hb

theorem keepsOut_next {s0 s : State} (h : Keeps s0 s) : KeepsOut s0 (.next s) := by
  constructor; intro t e; cases e; exact h

theorem keepsOpt_some {s0 s : State} (h : Keeps s0 s) : KeepsOpt s0 (some s) := by
  constructor; intro t e; cases e; exact h

theorem keepsOpt_none {s0 : State} : KeepsOpt s0 none := by
  constructor; intro t e; cases e

theorem keepsOptFst_some {β : Type} {s0 s : State} {a : β} (h : Keeps s0 s) : KeepsOptFst s0 (some (s, a)) := by
  constructor; intro b t e; cases e; exact h

theorem keepsOptFst_none {β : Type} {s0 : State} : KeepsOptFst s0 (none : Option (State × β)) := by
  constructor; intro b t e; cases e

theorem keepsOptSnd_some {α : Type} {s0 s : State} {a : α} (h : Keeps s0 s) : KeepsOptSnd s0 (some (a, s)) := by
  constructor; intro b t e; cases e; exact h

theorem keepsOptSnd_none {α : Type} {s0 : State} : KeepsOptSnd s0 (none : Option (α × State)) := by
  constructor; intro b t e; cases e

theorem keepsFst_mk {β : Type} {s0 s : State} {a : β} (h : Keeps s0 s) : KeepsFst s0 (s, a) := ⟨h⟩
theorem keepsSnd_mk {α : Type} {s0 s : State} {a : α} (h : Keeps s0 s) : KeepsSnd s0 (a, s) := ⟨h⟩
theorem keepsThd_mk {α β : Type} {s0 s : State} {a : α} {b : β} (h : Keeps s0 s) : KeepsThd s0 (a, b, s) := ⟨h⟩

theorem keepsFst_eq {β : Type} {s0 s : State} {a : β} {p : State × β} (e : p = (s, a)) (h : KeepsFst s0 p) :
    Keeps s0 s := by subst e; exact h.of
theorem keepsSnd_eq {α : Type} {s0 s : State} {a : α} {p : α × State} (e : p = (a, s)) (h : KeepsSnd s0 p) :
    Keeps s0 s := by subst e; exact h.of
theorem keepsThd_eq {α β : Type} {s0 s : State} {a : α} {b : β} {p : α × β × State} (e : p = (a, b, s))
    (h : KeepsThd s0 p) : Keeps s0 s := by subst e; exact h.of

theorem keepsOpt_eq {s0 s : State} {o : Option State} (e : o = some s) (h : KeepsOpt s0 o) : Keeps s0 s := h.of s e
theorem keepsOptFst_eq {β : Type} {s0 s : State} {a : β} {o : Option (State × β)} (e : o = some (s, a))
    (h : KeepsOptFst s0 o) : Keeps s0 s := h.of a s e
theorem keepsOptSnd_eq {α : Type} {s0 s : State} {a : α} {o : Option (α × State)} (e : o = some (a, s))
    (h : KeepsOptSnd s0 o) : Keeps s0 s := h.of a s e

/-- A state made from what an optional operation answers. -/
theorem keepsOpt_map {α : Type} {s0 : State} {o : Option (α × State)} {f : α × State → State}
    (hf : ∀ a t, Keeps s0 t → Keeps s0 (f (a, t))) (h : KeepsOptSnd s0 o) : KeepsOpt s0 (o.map f) := by
  constructor
  intro t e
  cases o with
  | none => cases e
  | some p => cases e; exact hf p.1 p.2 (h.of p.1 p.2 rfl)

/-- A fold of steps each of which keeps it. -/
theorem keeps_foldl {α : Type} {s0 : State} {g : State → α → State} {l : List α} {s : State}
    (hg : ∀ t a, Keeps s0 t → Keeps s0 (g t a)) (h : Keeps s0 s) : Keeps s0 (l.foldl g s) := by
  induction l generalizing s with
  | nil => exact h
  | cons a l ih => exact ih (hg s a h)

/-- The same of a fold over pairs that ends in a state. -/
theorem keepsSnd_foldl {α β : Type} {s0 : State} {g : α × State → β → α × State} {l : List β} {p : α × State}
    (hg : ∀ t a, KeepsSnd s0 t → KeepsSnd s0 (g t a)) (h : KeepsSnd s0 p) : KeepsSnd s0 (l.foldl g p) := by
  induction l generalizing p with
  | nil => exact h
  | cons a l ih => exact ih (hg p a h)

/-- An update of fields that are neither fuses nor queue nor tables. -/
theorem keeps_mk {s0 s : State} (h : Keeps s0 s)
    {keys' : KeyFuses} {pins' : Pins} {phase' : Phase} {boot' : Boot} {mgmt' : Mgmt} {fmcHeld' : List Nat}
    {elog' : Elog} {ev' : Events} {invs' : List InvReq} {invDone' : Nat} {sump' : Sump} {accepted' : Nat}
    {nextItem' : Nat} {fab' : FabSt} {well' : WellSt} {pair' : Option Pair} {dbg' : Dbg} {pwr' : Pwr}
    {free' : Nat} {now' : Nat} {outs' : List Shown} (hcnt : ev'.cnt = s.ev.cnt)
    (hflows : fab'.flows = s.fab.flows) (hroutes : fab'.routes = s.fab.routes)
    (hports : fab'.ports = s.fab.ports) (hdies : pwr'.dies = s.pwr.dies) :
    Keeps s0 (State.mk s.fuses keys' pins' phase' boot' mgmt' s.regs s.errs s.dstates s.mem s.poison s.sc s.nmcs
      fmcHeld' s.homes s.dlinks elog' ev' s.mmus invs' invDone' sump' s.queues accepted' s.jobs
      s.items nextItem' s.jseqs s.units s.groups s.vregs s.ls s.lsWritten s.cc s.cmes fab' s.seats
      well' pair' s.harts s.imsic dbg' pwr' free' now' outs' s.pending) :=
  ⟨h.1, h.2.1, fun c => let k := h.2.2 c
    { regs := k.regs, errs := k.errs, dstates := k.dstates, mem := k.mem, poison := k.poison, sc := k.sc, nmcs := k.nmcs, homes := k.homes, dlinks := k.dlinks, mmus := k.mmus, queues := k.queues, jobs := k.jobs, items := k.items, jseqs := k.jseqs, units := k.units, groups := k.groups, vregs := k.vregs, ls := k.ls, lsWritten := k.lsWritten, cc := k.cc, cmes := k.cmes, seats := k.seats, harts := k.harts, imsic := k.imsic,
      counters := hcnt ▸ k.counters, flows := hflows ▸ k.flows, routes := hroutes ▸ k.routes, ports := hports ▸ k.ports, powerDies := hdies ▸ k.powerDies }⟩

/-- The same, as a rewriting rule. -/
theorem keeps_mk_iff {s0 s : State}
    {keys' : KeyFuses} {pins' : Pins} {phase' : Phase} {boot' : Boot} {mgmt' : Mgmt} {fmcHeld' : List Nat}
    {elog' : Elog} {ev' : Events} {invs' : List InvReq} {invDone' : Nat} {sump' : Sump} {accepted' : Nat}
    {nextItem' : Nat} {fab' : FabSt} {well' : WellSt} {pair' : Option Pair} {dbg' : Dbg} {pwr' : Pwr}
    {free' : Nat} {now' : Nat} {outs' : List Shown} (hcnt : ev'.cnt = s.ev.cnt)
    (hflows : fab'.flows = s.fab.flows) (hroutes : fab'.routes = s.fab.routes)
    (hports : fab'.ports = s.fab.ports) (hdies : pwr'.dies = s.pwr.dies) :
    Keeps s0 (State.mk s.fuses keys' pins' phase' boot' mgmt' s.regs s.errs s.dstates s.mem s.poison s.sc s.nmcs
      fmcHeld' s.homes s.dlinks elog' ev' s.mmus invs' invDone' sump' s.queues accepted' s.jobs
      s.items nextItem' s.jseqs s.units s.groups s.vregs s.ls s.lsWritten s.cc s.cmes fab' s.seats
      well' pair' s.harts s.imsic dbg' pwr' free' now' outs' s.pending) ↔ Keeps s0 s :=
  ⟨fun h => keeps_mk h hcnt.symm hflows.symm hroutes.symm hports.symm hdies.symm,
   fun h => keeps_mk h hcnt hflows hroutes hports hdies⟩

/-- An update of any field but the fuses and the queue, each table of it in canonical form. -/
theorem keeps_all {s0 s : State} (h : Keeps s0 s)
    {keys' : KeyFuses} {pins' : Pins} {phase' : Phase} {boot' : Boot} {mgmt' : Mgmt} {regs' : SMap W64}
    {errs' : SMap W64} {dstates' : SMap Nat} {mem' : SMap Byte} {poison' : SMap Bool} {sc' : SMap ScLine}
    {nmcs' : SMap NmcSt} {fmcHeld' : List Nat} {homes' : SMap HomeSt} {dlinks' : SMap DieLink}
    {elog' : Elog} {ev' : Events} {mmus' : SMap MmuSt} {invs' : List InvReq} {invDone' : Nat} {sump' : Sump}
    {queues' : SMap QueueSt} {accepted' : Nat} {jobs' : SMap (Option Job)} {items' : SMap (Option Item)}
    {nextItem' : Nat} {jseqs' : SMap Nat} {units' : SMap CuSt} {groups' : SMap (Option Group)}
    {vregs' : SMap W32} {ls' : SMap Byte} {lsWritten' : SMap Bool} {cc' : SMap CcLine} {cmes' : SMap CmeSt}
    {fab' : FabSt} {seats' : SMap Seat} {well' : WellSt} {pair' : Option Pair} {harts' : SMap Hart}
    {imsic' : SMap Bool} {dbg' : Dbg} {pwr' : Pwr} {free' : Nat} {now' : Nat} {outs' : List Shown}
    (hregs : SMap.wf (regReset s.fuses) s.regs = true → SMap.wf (regReset s.fuses) regs' = true)
    (herrs : SMap.wf (fun _ => (0 : W64)) s.errs = true → SMap.wf (fun _ => (0 : W64)) errs' = true)
    (hdstates : SMap.wf (fun _ => 0) s.dstates = true → SMap.wf (fun _ => 0) dstates' = true)
    (hmem : SMap.wf (memDflt) s.mem = true → SMap.wf (memDflt) mem' = true)
    (hpoison : SMap.wf (fun _ => false) s.poison = true → SMap.wf (fun _ => false) poison' = true)
    (hsc : SMap.wf (fun _ => ScLine.empty) s.sc = true → SMap.wf (fun _ => ScLine.empty) sc' = true)
    (hnmcs : SMap.wf (fun _ => NmcSt.reset) s.nmcs = true → SMap.wf (fun _ => NmcSt.reset) nmcs' = true)
    (hhomes : SMap.wf (fun _ => HomeSt.reset) s.homes = true → SMap.wf (fun _ => HomeSt.reset) homes' = true)
    (hdlinks : SMap.wf (fun _ => (⟨0xFFFF, 0, 0, [], 0⟩ : DieLink)) s.dlinks = true → SMap.wf (fun _ => (⟨0xFFFF, 0, 0, [], 0⟩ : DieLink)) dlinks' = true)
    (hmmus : SMap.wf (fun _ => (⟨[], []⟩ : MmuSt)) s.mmus = true → SMap.wf (fun _ => (⟨[], []⟩ : MmuSt)) mmus' = true)
    (hqueues : SMap.wf (fun _ => QueueSt.idle) s.queues = true → SMap.wf (fun _ => QueueSt.idle) queues' = true)
    (hjobs : SMap.wf (fun _ => (none : Option Job)) s.jobs = true → SMap.wf (fun _ => (none : Option Job)) jobs' = true)
    (hitems : SMap.wf (fun _ => (none : Option Item)) s.items = true → SMap.wf (fun _ => (none : Option Item)) items' = true)
    (hjseqs : SMap.wf (fun _ => 0) s.jseqs = true → SMap.wf (fun _ => 0) jseqs' = true)
    (hunits : SMap.wf (fun _ => CuSt.reset) s.units = true → SMap.wf (fun _ => CuSt.reset) units' = true)
    (hgroups : SMap.wf (fun _ => (none : Option Group)) s.groups = true → SMap.wf (fun _ => (none : Option Group)) groups' = true)
    (hvregs : SMap.wf (fun _ => (0 : W32)) s.vregs = true → SMap.wf (fun _ => (0 : W32)) vregs' = true)
    (hls : SMap.wf (fun _ => (0 : Byte)) s.ls = true → SMap.wf (fun _ => (0 : Byte)) ls' = true)
    (hlsWritten : SMap.wf (fun _ => false) s.lsWritten = true → SMap.wf (fun _ => false) lsWritten' = true)
    (hcc : SMap.wf (fun _ => CcLine.empty) s.cc = true → SMap.wf (fun _ => CcLine.empty) cc' = true)
    (hcmes : SMap.wf (fun _ => CmeSt.reset) s.cmes = true → SMap.wf (fun _ => CmeSt.reset) cmes' = true)
    (hseats : SMap.wf (fun _ => Seat.reset) s.seats = true → SMap.wf (fun _ => Seat.reset) seats' = true)
    (hharts : SMap.wf (fun _ => Hart.reset) s.harts = true → SMap.wf (fun _ => Hart.reset) harts' = true)
    (himsic : SMap.wf (fun _ => false) s.imsic = true → SMap.wf (fun _ => false) imsic' = true)
    (hcounters : SMap.wf (fun _ => (0 : W64)) s.ev.cnt = true → SMap.wf (fun _ => (0 : W64)) ev'.cnt = true)
    (hflows : SMap.wf (fun _ => (none : Option FlowSt)) s.fab.flows = true → SMap.wf (fun _ => (none : Option FlowSt)) fab'.flows = true)
    (hroutes : SMap.wf (fun _ => (0 : W64)) s.fab.routes = true → SMap.wf (fun _ => (0 : W64)) fab'.routes = true)
    (hports : SMap.wf (fun _ => PortSt.reset) s.fab.ports = true → SMap.wf (fun _ => PortSt.reset) fab'.ports = true)
    (hpowerDies : SMap.wf (fun _ => PwrDie.reset) s.pwr.dies = true → SMap.wf (fun _ => PwrDie.reset) pwr'.dies = true) :
    Keeps s0 (State.mk s.fuses keys' pins' phase' boot' mgmt' regs' errs' dstates' mem' poison' sc' nmcs' fmcHeld'
      homes' dlinks' elog' ev' mmus' invs' invDone' sump' queues' accepted' jobs' items' nextItem'
      jseqs' units' groups' vregs' ls' lsWritten' cc' cmes' fab' seats' well' pair' harts' imsic' dbg'
      pwr' free' now' outs' s.pending) :=
  ⟨h.1, h.2.1, fun c => let k := h.2.2 c
    { regs := hregs k.regs,
      errs := herrs k.errs,
      dstates := hdstates k.dstates,
      mem := hmem k.mem,
      poison := hpoison k.poison,
      sc := hsc k.sc,
      nmcs := hnmcs k.nmcs,
      homes := hhomes k.homes,
      dlinks := hdlinks k.dlinks,
      mmus := hmmus k.mmus,
      queues := hqueues k.queues,
      jobs := hjobs k.jobs,
      items := hitems k.items,
      jseqs := hjseqs k.jseqs,
      units := hunits k.units,
      groups := hgroups k.groups,
      vregs := hvregs k.vregs,
      ls := hls k.ls,
      lsWritten := hlsWritten k.lsWritten,
      cc := hcc k.cc,
      cmes := hcmes k.cmes,
      seats := hseats k.seats,
      harts := hharts k.harts,
      imsic := himsic k.imsic,
      counters := hcounters k.counters,
      flows := hflows k.flows,
      routes := hroutes k.routes,
      ports := hports k.ports,
      powerDies := hpowerDies k.powerDies }⟩

/-- Storing bytes keeps memory's canonical form. -/
theorem wf_memPut (bs : List Byte) (m : SMap Byte) (a : Nat) (h : SMap.wf memDflt m = true) :
    SMap.wf memDflt (memPut m a bs) = true := by
  induction bs generalizing m a with
  | nil => exact h
  | cons b bs ih => exact ih _ _ (wf_put _ _ _ _ h)

theorem wf_memPutMask (bs : List Byte) (m : SMap Byte) (a k : Nat) (h : SMap.wf memDflt m = true) :
    SMap.wf memDflt (memPutMask m a k bs) = true := by
  induction bs generalizing m a k with
  | nil => exact h
  | cons b bs ih =>
    unfold memPutMask
    apply ih
    split
    · exact wf_put _ _ _ _ h
    · exact h

end Sys2Proof.Laws
end

