-- ==== Sys2Proof/Laws/KeepsOps.lean ====
section
/-! SUPPORT. One lemma per operation of the shared operations, translation, the shared cache and memory channels, home slices: it keeps the fuses, the waiting commands and the canonical
form of every table (Laws/Keeps.lean). -/

set_option linter.unusedSimpArgs false
set_option linter.tactic.unusedName false
set_option linter.unusedVariables false

namespace Sys2Proof.Laws

open Sys2Proof.Machine

/-! ### Ops -/

theorem whenLive_keeps {z0 : State} {s : State} {t : State} (h_s : Keeps z0 s) (h_t : Keeps z0 t) :
    KeepsOut z0 (whenLive s t) := by
  unfold whenLive
  try dsimp only
  repeat' first
    | with_reducible assumption
    | intro _
    | with_reducible apply keeps_ite
    | with_reducible apply keepsOut_ite
    | with_reducible apply keepsOut_next

theorem setReg_keeps {z0 : State} {s : State} {a : Nat} {v : W64} (h_s : Keeps z0 s) :
    Keeps z0 (State.setReg s a v) := by
  unfold State.setReg
  try dsimp only
  repeat' first
    | with_reducible assumption
    | intro _
    | simp only [keeps_mk_iff]
    | (with_reducible apply keeps_all (by assumption) <;> first | exact id | exact wf_put _ _ _ _ | exact wf_memPut _ _ _ | exact wf_memPutMask _ _ _ _ | exact wf_dropKeys _ _ _ | exact fun _ => rfl)

theorem setRegF_keeps {z0 : State} {s : State} {page : Nat} {off : Nat} {hi : Nat} {lo : Nat} {v : Nat} (h_s : Keeps z0 s) :
    Keeps z0 (State.setRegF s page off hi lo v) := by
  unfold State.setRegF
  try dsimp only
  repeat' first
    | with_reducible assumption
    | intro _
    | with_reducible apply setReg_keeps

theorem setDst_keeps {z0 : State} {s : State} {page : Nat} {v : Nat} (h_s : Keeps z0 s) :
    Keeps z0 (State.setDst s page v) := by
  unfold State.setDst
  try dsimp only
  repeat' first
    | with_reducible assumption
    | intro _
    | simp only [keeps_mk_iff]
    | (with_reducible apply keeps_all (by assumption) <;> first | exact id | exact wf_put _ _ _ _ | exact wf_memPut _ _ _ | exact wf_memPutMask _ _ _ _ | exact wf_dropKeys _ _ _ | exact fun _ => rfl)

theorem addReg_keeps {z0 : State} {s : State} {a : Nat} {n : Nat} (h_s : Keeps z0 s) :
    Keeps z0 (State.addReg s a n) := by
  unfold State.addReg
  try dsimp only
  repeat' first
    | with_reducible assumption
    | intro _
    | with_reducible apply setReg_keeps

theorem setByte_keeps {z0 : State} {s : State} {a : Nat} {b : Byte} (h_s : Keeps z0 s) :
    Keeps z0 (State.setByte s a b) := by
  unfold State.setByte
  try dsimp only
  repeat' first
    | with_reducible assumption
    | intro _
    | simp only [keeps_mk_iff]
    | (with_reducible apply keeps_all (by assumption) <;> first | exact id | exact wf_put _ _ _ _ | exact wf_memPut _ _ _ | exact wf_memPutMask _ _ _ _ | exact wf_dropKeys _ _ _ | exact fun _ => rfl)

theorem putBytes_keeps {z0 : State} {s : State} {a : Nat} {bs : List Byte} (h_s : Keeps z0 s) :
    Keeps z0 (State.putBytes s a bs) := by
  unfold State.putBytes
  try dsimp only
  repeat' first
    | with_reducible assumption
    | intro _
    | simp only [keeps_mk_iff]
    | (with_reducible apply keeps_all (by assumption) <;> first | exact id | exact wf_put _ _ _ _ | exact wf_memPut _ _ _ | exact wf_memPutMask _ _ _ _ | exact wf_dropKeys _ _ _ | exact fun _ => rfl)

theorem setPoison_keeps {z0 : State} {s : State} {a : Nat} {b : Bool} (h_s : Keeps z0 s) :
    Keeps z0 (State.setPoison s a b) := by
  unfold State.setPoison
  try dsimp only
  repeat' first
    | with_reducible assumption
    | intro _
    | simp only [keeps_mk_iff]
    | (with_reducible apply keeps_all (by assumption) <;> first | exact id | exact wf_put _ _ _ _ | exact wf_memPut _ _ _ | exact wf_memPutMask _ _ _ _ | exact wf_dropKeys _ _ _ | exact fun _ => rfl)

theorem msiWrite_keeps {z0 : State} {s : State} {a : Nat} {v : Nat} (h_s : Keeps z0 s) :
    Keeps z0 (msiWrite s a v) := by
  unfold msiWrite
  try dsimp only
  repeat' first
    | with_reducible assumption
    | intro _
    | with_reducible apply putBytes_keeps
    | with_reducible apply keeps_ite
    | with_reducible apply keepsOpt_some
    | with_reducible exact keepsOpt_none
    | with_reducible apply keepsOpt_map
    | simp only [keeps_mk_iff]
    | split
    | (with_reducible apply keeps_all (by assumption) <;> first | exact id | exact wf_put _ _ _ _ | exact wf_memPut _ _ _ | exact wf_memPutMask _ _ _ _ | exact wf_dropKeys _ _ _ | exact fun _ => rfl)

theorem setEvcnt_keeps {z0 : State} {s : State} {a : Nat} {v : W64} (h_s : Keeps z0 s) :
    Keeps z0 (State.setEvcnt s a v) := by
  unfold State.setEvcnt
  try dsimp only
  repeat' first
    | with_reducible assumption
    | intro _
    | simp only [keeps_mk_iff]
    | (with_reducible apply keeps_all (by assumption) <;> first | exact id | exact wf_put _ _ _ _ | exact wf_memPut _ _ _ | exact wf_memPutMask _ _ _ _ | exact wf_dropKeys _ _ _ | exact fun _ => rfl)

theorem evInterrupt_keeps {z0 : State} {s : State} (h_s : Keeps z0 s) :
    Keeps z0 (evInterrupt s) := by
  unfold evInterrupt
  try dsimp only
  repeat' first
    | with_reducible assumption
    | intro _
    | with_reducible apply msiWrite_keeps
    | with_reducible apply keeps_ite
    | simp only [keeps_mk_iff]

theorem evOverflowed_keeps {z0 : State} {s : State} {page : Nat} {n : Nat} (h_s : Keeps z0 s) :
    Keeps z0 (evOverflowed s page n) := by
  unfold evOverflowed
  try dsimp only
  repeat' first
    | with_reducible assumption
    | intro _
    | with_reducible apply evInterrupt_keeps
    | with_reducible apply keepsOpt_some
    | with_reducible exact keepsOpt_none
    | with_reducible apply keepsOpt_map
    | simp only [keeps_mk_iff]
    | split

theorem evAdd_keeps {z0 : State} {s : State} {page : Nat} {c : Nat} {n : Nat} (h_s : Keeps z0 s) :
    Keeps z0 (evAdd s page c n) := by
  unfold evAdd
  try dsimp only
  repeat' first
    | with_reducible assumption
    | intro _
    | with_reducible apply setEvcnt_keeps
    | with_reducible apply evOverflowed_keeps
    | with_reducible apply keeps_ite

theorem countEv_keeps {z0 : State} {s : State} {page : Nat} {src : Nat} {n : Nat} (h_s : Keeps z0 s) :
    Keeps z0 (countEv s page src n) := by
  unfold countEv
  try dsimp only
  repeat' first
    | with_reducible assumption
    | intro _
    | with_reducible apply evAdd_keeps
    | with_reducible apply keeps_ite
    | with_reducible apply keepsOpt_some
    | with_reducible exact keepsOpt_none
    | with_reducible apply keepsOpt_map
    | with_reducible apply keeps_foldl

theorem logError_keeps {z0 : State} {s : State} {page : Nat} {b : Block} {x3 : Nat} {n : Nat} {e : ErrInfo} (h_s : Keeps z0 s) :
    Keeps z0 (logError s page b x3 n e) := by
  unfold logError
  try dsimp only
  repeat' first
    | with_reducible assumption
    | intro _
    | with_reducible apply putBytes_keeps
    | with_reducible apply msiWrite_keeps
    | with_reducible apply keeps_ite
    | simp only [keeps_mk_iff]

theorem raiseWith_keeps {z0 : State} {s : State} {page : Nat} {n : Nat} {e : ErrInfo} (h_s : Keeps z0 s) :
    Keeps z0 (raiseWith s page n e) := by
  unfold raiseWith
  try dsimp only
  repeat' first
    | with_reducible assumption
    | intro _
    | with_reducible apply logError_keeps
    | with_reducible apply keeps_ite
    | with_reducible apply keepsOpt_some
    | with_reducible exact keepsOpt_none
    | with_reducible apply keepsOpt_map
    | simp only [keeps_mk_iff]
    | split
    | (with_reducible apply keeps_all (by assumption) <;> first | exact id | exact wf_put _ _ _ _ | exact wf_memPut _ _ _ | exact wf_memPutMask _ _ _ _ | exact wf_dropKeys _ _ _ | exact fun _ => rfl)

theorem setDlink_keeps {z0 : State} {s : State} {n : Nat} {v : DieLink} (h_s : Keeps z0 s) :
    Keeps z0 (State.setDlink s n v) := by
  unfold State.setDlink
  try dsimp only
  repeat' first
    | with_reducible assumption
    | intro _
    | simp only [keeps_mk_iff]
    | (with_reducible apply keeps_all (by assumption) <;> first | exact id | exact wf_put _ _ _ _ | exact wf_memPut _ _ _ | exact wf_memPutMask _ _ _ _ | exact wf_dropKeys _ _ _ | exact fun _ => rfl)

theorem raise_keeps {z0 : State} {s : State} {page : Nat} {n : Nat} (h_s : Keeps z0 s) :
    Keeps z0 (raise s page n) := by
  unfold raise
  try dsimp only
  repeat' first
    | with_reducible assumption
    | intro _
    | with_reducible apply raiseWith_keeps
    | simp only [keeps_mk_iff]

theorem raiseInfo_keeps {z0 : State} {s : State} {page : Nat} {n : Nat} {info : Nat} (h_s : Keeps z0 s) :
    Keeps z0 (raiseInfo s page n info) := by
  unfold raiseInfo
  try dsimp only
  repeat' first
    | with_reducible assumption
    | intro _
    | with_reducible apply raiseWith_keeps

theorem reject_keeps {z0 : State} {s : State} {page : Nat} (h_s : Keeps z0 s) :
    Keeps z0 (reject s page) := by
  unfold reject
  try dsimp only
  repeat' first
    | with_reducible assumption
    | intro _
    | with_reducible apply raise_keeps

theorem disarm_keeps {z0 : State} {s : State} {page : Nat} {n : Nat} (h_s : Keeps z0 s) :
    Keeps z0 (disarm s page n) := by
  unfold disarm
  try dsimp only
  repeat' first
    | with_reducible assumption
    | intro _
    | simp only [keeps_mk_iff]

theorem setQueue_keeps {z0 : State} {s : State} {q : Nat} {v : QueueSt} (h_s : Keeps z0 s) :
    Keeps z0 (State.setQueue s q v) := by
  unfold State.setQueue
  try dsimp only
  repeat' first
    | with_reducible assumption
    | intro _
    | simp only [keeps_mk_iff]
    | (with_reducible apply keeps_all (by assumption) <;> first | exact id | exact wf_put _ _ _ _ | exact wf_memPut _ _ _ | exact wf_memPutMask _ _ _ _ | exact wf_dropKeys _ _ _ | exact fun _ => rfl)

theorem writeRec_keeps {z0 : State} {s : State} {q : Nat} {r : Rec} (h_s : Keeps z0 s) :
    Keeps z0 (writeRec s q r) := by
  unfold writeRec
  try dsimp only
  repeat' first
    | with_reducible assumption
    | intro _
    | with_reducible apply putBytes_keeps
    | with_reducible apply setQueue_keeps
    | with_reducible apply countEv_keeps
    | with_reducible apply msiWrite_keeps
    | with_reducible apply keeps_ite

theorem postRec_keeps {z0 : State} {s : State} {q : Nat} {f : RecF} (h_s : Keeps z0 s) :
    Keeps z0 (postRec s q f) := by
  unfold postRec
  try dsimp only
  repeat' first
    | with_reducible assumption
    | intro _
    | with_reducible apply writeRec_keeps
    | with_reducible apply setQueue_keeps
    | with_reducible apply keeps_ite

theorem flushRecs_keeps {z0 : State} {q : Nat} {x1 : Nat} {x2 : State} (h_x2 : Keeps z0 x2) :
    Keeps z0 (flushRecs q x1 x2) := by
  induction x1 generalizing x2 with
  | zero =>
    unfold flushRecs
    try dsimp only
    repeat' first
      | with_reducible assumption
  | succ m ih =>
    unfold flushRecs
    try dsimp only
    repeat' first
      | with_reducible assumption
      | intro _
      | with_reducible apply ih
      | with_reducible apply writeRec_keeps
      | with_reducible apply setQueue_keeps
      | with_reducible apply writeRec_keeps
      | with_reducible apply setQueue_keeps
      | with_reducible apply keeps_ite
      | simp only [keeps_mk_iff]
      | split

theorem ibi_keeps {z0 : State} {s : State} (h_s : Keeps z0 s) :
    Keeps z0 (ibi s) := by
  unfold ibi
  try dsimp only
  repeat' first
    | with_reducible assumption
    | intro _
    | simp only [keeps_mk_iff]

theorem fatalStop_keeps {z0 : State} {s : State} {cause : Nat} {info : Nat} {die : Nat} (h_s : Keeps z0 s) :
    Keeps z0 (fatalStop s cause info die) := by
  unfold fatalStop
  try dsimp only
  repeat' first
    | with_reducible assumption
    | intro _
    | with_reducible apply setReg_keeps
    | with_reducible apply ibi_keeps
    | with_reducible apply keeps_ite
    | simp only [keeps_mk_iff]

theorem takeFree_keeps {z0 : State} {s : State} (h_s : Keeps z0 s) :
    KeepsSnd z0 (State.takeFree s) := by
  unfold State.takeFree
  try dsimp only
  repeat' first
    | with_reducible assumption
    | intro _
    | with_reducible apply keepsSnd_mk
    | simp only [keeps_mk_iff]

/-! ### PowerOps -/

theorem setPdie_keeps {z0 : State} {s : State} {d : Nat} {p : PwrDie} (h_s : Keeps z0 s) :
    Keeps z0 (State.setPdie s d p) := by
  unfold State.setPdie
  try dsimp only
  repeat' first
    | with_reducible assumption
    | intro _
    | simp only [keeps_mk_iff]
    | (with_reducible apply keeps_all (by assumption) <;> first | exact id | exact wf_put _ _ _ _ | exact wf_memPut _ _ _ | exact wf_memPutMask _ _ _ _ | exact wf_dropKeys _ _ _ | exact fun _ => rfl)

theorem sendCapset_keeps {z0 : State} {s : State} (h_s : Keeps z0 s) :
    Keeps z0 (sendCapset s) := by
  unfold sendCapset
  try dsimp only
  repeat' first
    | with_reducible assumption
    | intro _
    | with_reducible apply keepsOpt_some
    | with_reducible exact keepsOpt_none
    | with_reducible apply keepsOpt_map
    | simp only [keeps_mk_iff]

theorem capRefresh_keeps {z0 : State} {s : State} (h_s : Keeps z0 s) :
    Keeps z0 (capRefresh s) := by
  unfold capRefresh
  try dsimp only
  repeat' first
    | with_reducible assumption
    | intro _
    | with_reducible apply sendCapset_keeps
    | with_reducible apply setRegF_keeps
    | with_reducible apply keeps_ite

theorem setRail_keeps {z0 : State} {s : State} {d : Nat} {r : Nat} {v : Nat} (h_s : Keeps z0 s) :
    Keeps z0 (setRail s d r v) := by
  unfold setRail
  try dsimp only
  repeat' first
    | with_reducible assumption
    | intro _
    | with_reducible apply setRegF_keeps

theorem mapRails_keeps {z0 : State} {s : State} {d : Nat} {f : Nat → Nat} (h_s : Keeps z0 s) :
    Keeps z0 (mapRails s d f) := by
  unfold mapRails
  try dsimp only
  repeat' first
    | with_reducible assumption
    | intro _
    | with_reducible apply setRail_keeps
    | with_reducible apply keepsOpt_some
    | with_reducible exact keepsOpt_none
    | with_reducible apply keepsOpt_map
    | with_reducible apply keeps_foldl

theorem setHart_keeps {z0 : State} {s : State} {h : Nat} {v : Hart} (h_s : Keeps z0 s) :
    Keeps z0 (State.setHart s h v) := by
  unfold State.setHart
  try dsimp only
  repeat' first
    | with_reducible assumption
    | intro _
    | simp only [keeps_mk_iff]
    | (with_reducible apply keeps_all (by assumption) <;> first | exact id | exact wf_put _ _ _ _ | exact wf_memPut _ _ _ | exact wf_memPutMask _ _ _ _ | exact wf_dropKeys _ _ _ | exact fun _ => rfl)

theorem freqUpdate_keeps {z0 : State} {s : State} {c : Nat} (h_s : Keeps z0 s) :
    Keeps z0 (freqUpdate s c) := by
  unfold freqUpdate
  try dsimp only
  repeat' first
    | with_reducible assumption
    | intro _
    | with_reducible apply setHart_keeps
    | with_reducible apply keeps_ite

theorem freqUpdateAll_keeps {z0 : State} {s : State} (h_s : Keeps z0 s) :
    Keeps z0 (freqUpdateAll s) := by
  unfold freqUpdateAll
  try dsimp only
  repeat' first
    | with_reducible assumption
    | intro _
    | with_reducible apply freqUpdate_keeps
    | with_reducible apply keeps_foldl

theorem hintLapse_keeps {z0 : State} {s : State} {d : Nat} (h_s : Keeps z0 s) :
    Keeps z0 (hintLapse s d) := by
  unfold hintLapse
  try dsimp only
  repeat' first
    | with_reducible assumption
    | intro _
    | with_reducible apply setPdie_keeps
    | with_reducible apply setRegF_keeps
    | with_reducible apply keeps_ite
    | with_reducible apply keepsOpt_some
    | with_reducible exact keepsOpt_none
    | with_reducible apply keepsOpt_map
    | simp only [keeps_mk_iff]
    | split

theorem hintApply_keeps {z0 : State} {s : State} {d : Nat} {h : PHint} (h_s : Keeps z0 s) :
    Keeps z0 (hintApply s d h) := by
  unfold hintApply
  try dsimp only
  repeat' first
    | with_reducible assumption
    | intro _
    | with_reducible apply hintLapse_keeps
    | with_reducible apply mapRails_keeps
    | with_reducible apply setPdie_keeps
    | with_reducible apply countEv_keeps
    | with_reducible apply keeps_ite

theorem hintsAtDispatch_keeps {z0 : State} {s : State} {d : Nat} {job : Nat} {step : Nat} (h_s : Keeps z0 s) :
    Keeps z0 (hintsAtDispatch s d job step) := by
  unfold hintsAtDispatch
  try dsimp only
  repeat' first
    | with_reducible assumption
    | intro _
    | with_reducible apply setPdie_keeps
    | with_reducible apply hintApply_keeps
    | with_reducible apply keeps_ite
    | with_reducible apply keeps_foldl

/-! ### Translate -/

theorem setMmu_keeps {z0 : State} {s : State} {d : Nat} {m : MmuSt} (h_s : Keeps z0 s) :
    Keeps z0 (State.setMmu s d m) := by
  unfold State.setMmu
  try dsimp only
  repeat' first
    | with_reducible assumption
    | intro _
    | simp only [keeps_mk_iff]
    | (with_reducible apply keeps_all (by assumption) <;> first | exact id | exact wf_put _ _ _ _ | exact wf_memPut _ _ _ | exact wf_memPutMask _ _ _ _ | exact wf_dropKeys _ _ _ | exact fun _ => rfl)

theorem findLeaf_keeps {z0 : State} {s : State} {d : Nat} {aspace : Nat} {va : Nat} (h_s : Keeps z0 s) :
    KeepsSnd z0 (findLeaf s d aspace va) := by
  unfold findLeaf
  split
  · exact keepsSnd_mk h_s
  · dsimp only
    split
    · exact keepsSnd_mk h_s
    · split
      · exact keepsSnd_mk h_s
      · generalize walkStart (s.mmu d) aspace va _ = w
        obtain ⟨l, table⟩ := w
        dsimp only
        generalize walkFrom s aspace va l table = w
        obtain ⟨r, ws⟩ := w
        dsimp only
        split
        · exact keepsSnd_mk (setMmu_keeps (countEv_keeps (countEv_keeps (countEv_keeps h_s))))
        · exact keepsSnd_mk (countEv_keeps (countEv_keeps (countEv_keeps h_s)))

theorem translate_keeps {z0 : State} {s : State} {d : Nat} {aspace : Nat} {va : Nat} {acc : Option Machine.Acc} (h_s : Keeps z0 s) :
    KeepsSnd z0 (Machine.translate s d aspace va acc) := by
  unfold Machine.translate
  have h := (findLeaf_keeps (d := d) (aspace := aspace) (va := va) h_s).of
  cases hf : findLeaf s d aspace va with
  | mk r s1 =>
    rw [hf] at h
    cases r <;> exact keepsSnd_mk h

theorem dropTranslations_keeps {z0 : State} {s : State} {r : InvReq} (h_s : Keeps z0 s) :
    Keeps z0 (dropTranslations s r) := by
  unfold dropTranslations
  try dsimp only
  repeat' first
    | with_reducible assumption
    | intro _
    | with_reducible apply setMmu_keeps
    | with_reducible apply setQueue_keeps
    | with_reducible apply keepsOpt_some
    | with_reducible exact keepsOpt_none
    | with_reducible apply keepsOpt_map
    | with_reducible apply keeps_foldl

theorem sumpWrite_keeps {z0 : State} {s : State} {r : SRec} (h_s : Keeps z0 s) :
    Keeps z0 (sumpWrite s r) := by
  unfold sumpWrite
  try dsimp only
  repeat' first
    | with_reducible assumption
    | intro _
    | with_reducible apply putBytes_keeps
    | with_reducible apply countEv_keeps
    | with_reducible apply msiWrite_keeps
    | with_reducible apply keeps_ite
    | with_reducible apply keepsOpt_some
    | with_reducible exact keepsOpt_none
    | with_reducible apply keepsOpt_map
    | simp only [keeps_mk_iff]

theorem sumpDrain_keeps {z0 : State} {x0 : Nat} {x1 : State} (h_x1 : Keeps z0 x1) :
    Keeps z0 (sumpDrain x0 x1) := by
  induction x0 generalizing x1 with
  | zero =>
    unfold sumpDrain
    try dsimp only
    repeat' first
      | with_reducible assumption
  | succ m ih =>
    unfold sumpDrain
    try dsimp only
    repeat' first
      | with_reducible assumption
      | intro _
      | with_reducible apply ih
      | with_reducible apply sumpWrite_keeps
      | with_reducible apply sumpWrite_keeps
      | with_reducible apply keeps_ite
      | with_reducible apply keepsOpt_some
      | with_reducible exact keepsOpt_none
      | with_reducible apply keepsOpt_map
      | simp only [keeps_mk_iff]
      | split

theorem openRec_keeps {z0 : State} {s : State} {n : Nat} {f : SFault} (h_s : Keeps z0 s) :
    Keeps z0 (openRec s n f) := by
  unfold openRec
  try dsimp only
  repeat' first
    | with_reducible assumption
    | intro _
    | with_reducible apply keepsOpt_some
    | with_reducible exact keepsOpt_none
    | with_reducible apply keepsOpt_map
    | simp only [keeps_mk_iff]

theorem sumpFault_keeps {z0 : State} {s : State} {f : SFault} (h_s : Keeps z0 s) :
    Keeps z0 (sumpFault s f) := by
  unfold sumpFault
  try dsimp only
  repeat' first
    | with_reducible assumption
    | intro _
    | with_reducible apply countEv_keeps
    | with_reducible apply openRec_keeps
    | with_reducible apply keeps_ite
    | with_reducible apply keepsOpt_some
    | with_reducible exact keepsOpt_none
    | with_reducible apply keepsOpt_map
    | simp only [keeps_mk_iff]
    | split

theorem sumpNoResume_keeps {z0 : State} {s : State} {f : SFault} (h_s : Keeps z0 s) :
    Keeps z0 (sumpNoResume s f) := by
  unfold sumpNoResume
  try dsimp only
  repeat' first
    | with_reducible assumption
    | intro _
    | with_reducible apply sumpDrain_keeps
    | with_reducible apply keepsOpt_some
    | with_reducible exact keepsOpt_none
    | with_reducible apply keepsOpt_map
    | simp only [keeps_mk_iff]

theorem withdraw_keeps {z0 : State} {s : State} {p : Waiter → Bool} (h_s : Keeps z0 s) :
    Keeps z0 (withdraw s p) := by
  unfold withdraw
  try dsimp only
  repeat' first
    | with_reducible assumption
    | intro _
    | with_reducible apply keepsOpt_some
    | with_reducible exact keepsOpt_none
    | with_reducible apply keepsOpt_map
    | simp only [keeps_mk_iff]

theorem closeSlot_keeps {z0 : State} {s : State} {n : Nat} (h_s : Keeps z0 s) :
    Keeps z0 (closeSlot s n) := by
  unfold closeSlot
  try dsimp only
  repeat' first
    | with_reducible assumption
    | intro _
    | with_reducible apply sumpFault_keeps
    | with_reducible apply keeps_foldl
    | simp only [keeps_mk_iff]

/-! ### Memory -/

theorem setScWay_keeps {z0 : State} {s : State} {k : Nat} {v : ScLine} (h_s : Keeps z0 s) :
    Keeps z0 (State.setScWay s k v) := by
  unfold State.setScWay
  try dsimp only
  repeat' first
    | with_reducible assumption
    | intro _
    | simp only [keeps_mk_iff]
    | (with_reducible apply keeps_all (by assumption) <;> first | exact id | exact wf_put _ _ _ _ | exact wf_memPut _ _ _ | exact wf_memPutMask _ _ _ _ | exact wf_dropKeys _ _ _ | exact fun _ => rfl)

theorem scTouch_keeps {z0 : State} {s : State} {d : Nat} {a : Nat} {way : Nat} (h_s : Keeps z0 s) :
    Keeps z0 (scTouch s d a way) := by
  unfold scTouch
  try dsimp only
  repeat' first
    | with_reducible assumption
    | intro _
    | with_reducible apply setScWay_keeps
    | with_reducible apply keeps_ite
    | with_reducible apply keeps_foldl

theorem setNmc_keeps {z0 : State} {s : State} {d : Nat} {ch : Nat} {v : NmcSt} (h_s : Keeps z0 s) :
    Keeps z0 (State.setNmc s d ch v) := by
  unfold State.setNmc
  try dsimp only
  repeat' first
    | with_reducible assumption
    | intro _
    | simp only [keeps_mk_iff]
    | (with_reducible apply keeps_all (by assumption) <;> first | exact id | exact wf_put _ _ _ _ | exact wf_memPut _ _ _ | exact wf_memPutMask _ _ _ _ | exact wf_dropKeys _ _ _ | exact fun _ => rfl)

theorem armedNmc_keeps {z0 : State} {s : State} {page : Nat} {e : LineErr} (h_s : Keeps z0 s) :
    KeepsThd z0 (armedNmc s page e) := by
  unfold armedNmc
  try dsimp only
  repeat' first
    | with_reducible assumption
    | intro _
    | with_reducible apply disarm_keeps
    | with_reducible apply keeps_ite
    | with_reducible apply keepsThd_ite
    | with_reducible apply keepsThd_mk

theorem packageRead_keeps {z0 : State} {s : State} {d : Nat} {ch : Nat} {line : Nat} {e : LineErr} (h_s : Keeps z0 s) :
    Keeps z0 (packageRead s d ch line e) := by
  unfold packageRead
  try dsimp only
  repeat' first
    | with_reducible assumption
    | intro _
    | with_reducible apply countEv_keeps
    | with_reducible apply armedNmc_keeps
    | with_reducible apply setReg_keeps
    | with_reducible apply raiseWith_keeps
    | with_reducible apply setPoison_keeps
    | with_reducible apply keepsOpt_some
    | with_reducible exact keepsOpt_none
    | with_reducible apply keepsOpt_map
    | simp only [keeps_mk_iff]
    | with_reducible apply KeepsThd.of
    | with_reducible refine keepsThd_eq (by with_reducible assumption) ?_
    | split

theorem wcWriteOut_keeps {z0 : State} {s : State} {d : Nat} {ch : Nat} {line : Nat} {mask : Nat} (h_s : Keeps z0 s) :
    Keeps z0 (wcWriteOut s d ch line mask) := by
  unfold wcWriteOut
  try dsimp only
  repeat' first
    | with_reducible assumption
    | intro _
    | with_reducible apply setNmc_keeps
    | with_reducible apply countEv_keeps
    | with_reducible apply packageRead_keeps
    | with_reducible apply keeps_ite

theorem channelWrite_keeps {z0 : State} {s : State} {a : Nat} {mask : Nat} (h_s : Keeps z0 s) :
    Keeps z0 (channelWrite s a mask) := by
  unfold channelWrite
  try dsimp only
  repeat' first
    | with_reducible assumption
    | intro _
    | with_reducible apply countEv_keeps
    | with_reducible apply setPoison_keeps
    | with_reducible apply setNmc_keeps
    | with_reducible apply packageRead_keeps
    | with_reducible apply wcWriteOut_keeps
    | with_reducible apply keeps_ite
    | with_reducible apply keepsOpt_some
    | with_reducible exact keepsOpt_none
    | with_reducible apply keepsOpt_map
    | simp only [keeps_mk_iff]
    | split

theorem memoryWrite_keeps {z0 : State} {s : State} {a : Nat} {mask : Nat} (h_s : Keeps z0 s) :
    Keeps z0 (memoryWrite s a mask) := by
  unfold memoryWrite
  try dsimp only
  repeat' first
    | with_reducible assumption
    | intro _
    | with_reducible apply channelWrite_keeps
    | with_reducible apply setPoison_keeps
    | with_reducible apply countEv_keeps
    | with_reducible apply keeps_ite
    | simp only [keeps_mk_iff]
    | split

theorem memoryRead_keeps {z0 : State} {s : State} {a : Nat} (h_s : Keeps z0 s) :
    Keeps z0 (memoryRead s a) := by
  unfold memoryRead
  try dsimp only
  repeat' first
    | with_reducible assumption
    | intro _
    | with_reducible apply packageRead_keeps
    | with_reducible apply countEv_keeps
    | with_reducible apply raiseWith_keeps
    | with_reducible apply setPoison_keeps
    | with_reducible apply disarm_keeps
    | with_reducible apply keeps_ite
    | with_reducible apply keepsOpt_some
    | with_reducible exact keepsOpt_none
    | with_reducible apply keepsOpt_map
    | simp only [keeps_mk_iff]
    | split

theorem deliverPoison_keeps {z0 : State} {s : State} {a : Nat} (h_s : Keeps z0 s) :
    Keeps z0 (deliverPoison s a) := by
  unfold deliverPoison
  try dsimp only
  repeat' first
    | with_reducible assumption
    | intro _
    | with_reducible apply raiseInfo_keeps
    | simp only [keeps_mk_iff]
    | split

theorem writeBack_keeps {z0 : State} {s : State} {a : Nat} {mask : Nat} (h_s : Keeps z0 s) :
    Keeps z0 (writeBack s a mask) := by
  unfold writeBack
  try dsimp only
  repeat' first
    | with_reducible assumption
    | intro _
    | with_reducible apply raiseWith_keeps
    | with_reducible apply setPoison_keeps
    | with_reducible apply disarm_keeps
    | with_reducible apply memoryWrite_keeps
    | with_reducible apply keeps_ite
    | with_reducible apply keepsOpt_some
    | with_reducible exact keepsOpt_none
    | with_reducible apply keepsOpt_map
    | split

theorem scEvict_keeps {z0 : State} {s : State} {d : Nat} {k : Nat} (h_s : Keeps z0 s) :
    Keeps z0 (scEvict s d k) := by
  unfold scEvict
  try dsimp only
  repeat' first
    | with_reducible assumption
    | intro _
    | with_reducible apply setScWay_keeps
    | with_reducible apply countEv_keeps
    | with_reducible apply writeBack_keeps
    | with_reducible apply keeps_ite

theorem scInjected_keeps {z0 : State} {s : State} {d : Nat} {a : Nat} {dirty : Bool} (h_s : Keeps z0 s) :
    Keeps z0 (scInjected s d a dirty) := by
  unfold scInjected
  try dsimp only
  repeat' first
    | with_reducible assumption
    | intro _
    | with_reducible apply raiseWith_keeps
    | with_reducible apply disarm_keeps
    | with_reducible apply memoryRead_keeps
    | with_reducible apply setPoison_keeps
    | with_reducible apply keeps_ite

theorem scRead_keeps {z0 : State} {s : State} {cls : Nat} {a : Nat} {sectors : Nat} (h_s : Keeps z0 s) :
    Keeps z0 (scRead s cls a sectors) := by
  unfold scRead
  try dsimp only
  repeat' first
    | with_reducible assumption
    | intro _
    | with_reducible apply scInjected_keeps
    | with_reducible apply countEv_keeps
    | with_reducible apply memoryRead_keeps
    | with_reducible apply scTouch_keeps
    | with_reducible apply setScWay_keeps
    | with_reducible apply scEvict_keeps
    | with_reducible apply keeps_ite
    | with_reducible apply keepsOpt_some
    | with_reducible exact keepsOpt_none
    | with_reducible apply keepsOpt_map
    | simp only [keeps_mk_iff]
    | split

theorem scWrite_keeps {z0 : State} {s : State} {cls : Nat} {a : Nat} {mask : Nat} (h_s : Keeps z0 s) :
    Keeps z0 (scWrite s cls a mask) := by
  unfold scWrite
  try dsimp only
  repeat' first
    | with_reducible assumption
    | intro _
    | with_reducible apply memoryRead_keeps
    | with_reducible apply scTouch_keeps
    | with_reducible apply setScWay_keeps
    | with_reducible apply memoryWrite_keeps
    | with_reducible apply countEv_keeps
    | with_reducible apply scEvict_keeps
    | with_reducible apply keeps_ite
    | with_reducible apply keepsOpt_some
    | with_reducible exact keepsOpt_none
    | with_reducible apply keepsOpt_map
    | simp only [keeps_mk_iff]
    | split

theorem scClean_keeps {z0 : State} {s : State} {a : Nat} (h_s : Keeps z0 s) :
    Keeps z0 (scClean s a) := by
  unfold scClean
  try dsimp only
  repeat' first
    | with_reducible assumption
    | intro _
    | with_reducible apply writeBack_keeps
    | with_reducible apply setScWay_keeps
    | with_reducible apply keeps_ite
    | with_reducible apply keepsOpt_some
    | with_reducible exact keepsOpt_none
    | with_reducible apply keepsOpt_map
    | simp only [keeps_mk_iff]
    | split

theorem scFlush_keeps {z0 : State} {s : State} {a : Nat} (h_s : Keeps z0 s) :
    Keeps z0 (scFlush s a) := by
  unfold scFlush
  try dsimp only
  repeat' first
    | with_reducible assumption
    | intro _
    | with_reducible apply scClean_keeps
    | with_reducible apply setScWay_keeps
    | with_reducible apply keepsOpt_some
    | with_reducible exact keepsOpt_none
    | with_reducible apply keepsOpt_map
    | simp only [keeps_mk_iff]
    | split

theorem setHome_keeps {z0 : State} {s : State} {d : Nat} {h : Nat} {v : HomeSt} (h_s : Keeps z0 s) :
    Keeps z0 (State.setHome s d h v) := by
  unfold State.setHome
  try dsimp only
  repeat' first
    | with_reducible assumption
    | intro _
    | simp only [keeps_mk_iff]
    | (with_reducible apply keeps_all (by assumption) <;> first | exact id | exact wf_put _ _ _ _ | exact wf_memPut _ _ _ | exact wf_memPutMask _ _ _ _ | exact wf_dropKeys _ _ _ | exact fun _ => rfl)

theorem dropCopies_keeps {z0 : State} {s : State} {a : Nat} (h_s : Keeps z0 s) :
    Keeps z0 (dropCopies s a) := by
  unfold dropCopies
  try dsimp only
  repeat' first
    | with_reducible assumption
    | intro _
    | with_reducible apply setHome_keeps
    | with_reducible apply countEv_keeps
    | with_reducible apply keeps_ite
    | with_reducible apply keepsOpt_some
    | with_reducible exact keepsOpt_none
    | with_reducible apply keepsOpt_map
    | simp only [keeps_mk_iff]
    | split

theorem performWrite_keeps {z0 : State} {s : State} {cls : Nat} {a : Nat} {mask : Nat} {data : List Byte} (h_s : Keeps z0 s) :
    Keeps z0 (performWrite s cls a mask data) := by
  unfold performWrite
  have h1 := scWrite_keeps (cls := cls) (a := a) (mask := mask) h_s
  have h2 : Keeps z0 { scWrite s cls a mask with mem := memPutMask (scWrite s cls a mask).mem (a / 128 * 128) mask data } := by
    apply keeps_all h1 <;> first | exact id | exact wf_memPutMask _ _ _ _
  dsimp only
  split
  · exact setPoison_keeps h2
  · exact h2

theorem performRead_keeps {z0 : State} {s : State} {cls : Nat} {a : Nat} {sectors : Nat} (h_s : Keeps z0 s) :
    KeepsSnd z0 (performRead s cls a sectors) := by
  unfold performRead
  try dsimp only
  repeat' first
    | with_reducible assumption
    | intro _
    | with_reducible apply scRead_keeps
    | with_reducible apply deliverPoison_keeps
    | with_reducible apply keeps_ite
    | with_reducible apply keepsSnd_ite
    | with_reducible apply keepsSnd_mk

theorem homeWriteLine_keeps {z0 : State} {s : State} {cls : Nat} {a : Nat} {mask : Nat} {data : List Byte} (h_s : Keeps z0 s) :
    Keeps z0 (homeWriteLine s cls a mask data) := by
  unfold homeWriteLine
  try dsimp only
  repeat' first
    | with_reducible assumption
    | intro _
    | with_reducible apply performWrite_keeps
    | with_reducible apply dropCopies_keeps
    | with_reducible apply countEv_keeps
    | with_reducible apply keeps_ite

theorem homeReadLine_keeps {z0 : State} {s : State} {cls : Nat} {a : Nat} {sectors : Nat} (h_s : Keeps z0 s) :
    KeepsSnd z0 (homeReadLine s cls a sectors) := by
  unfold homeReadLine
  try dsimp only
  repeat' first
    | with_reducible assumption
    | intro _
    | with_reducible apply countEv_keeps
    | with_reducible apply performRead_keeps
    | with_reducible apply keeps_ite

theorem homeWriteN_keeps {z0 : State} {cls : Nat} {x1 : Nat} {x2 : State} {x3 : Nat} {x4 : List Byte} (h_x2 : Keeps z0 x2) :
    Keeps z0 (homeWriteN cls x1 x2 x3 x4) := by
  induction x1 generalizing x2 x3 x4 with
  | zero =>
    unfold homeWriteN
    try dsimp only
    repeat' first
      | with_reducible assumption
  | succ m ih =>
    unfold homeWriteN
    try dsimp only
    repeat' first
      | with_reducible assumption
      | intro _
      | with_reducible apply ih
      | with_reducible apply homeWriteLine_keeps
      | with_reducible apply homeWriteLine_keeps
      | with_reducible apply keeps_ite

theorem homeWrite_keeps {z0 : State} {s : State} {cls : Nat} {a : Nat} {bs : List Byte} (h_s : Keeps z0 s) :
    Keeps z0 (homeWrite s cls a bs) := by
  unfold homeWrite
  try dsimp only
  repeat' first
    | with_reducible assumption
    | intro _
    | with_reducible apply homeWriteN_keeps

theorem homeReadN_keeps {z0 : State} {cls : Nat} {x1 : Nat} {x2 : State} {x3 : Nat} {x4 : Nat} (h_x2 : Keeps z0 x2) :
    KeepsThd z0 (homeReadN cls x1 x2 x3 x4) := by
  induction x1 generalizing x2 x3 x4 with
  | zero =>
    unfold homeReadN
    try dsimp only
    repeat' first
      | with_reducible assumption
      | intro _
      | with_reducible apply homeReadLine_keeps
      | with_reducible apply homeReadLine_keeps
      | with_reducible apply keeps_ite
      | with_reducible apply keepsThd_ite
      | with_reducible apply keepsThd_mk
  | succ m ih =>
    unfold homeReadN
    try dsimp only
    repeat' first
      | with_reducible assumption
      | intro _
      | with_reducible apply ih
      | with_reducible apply homeReadLine_keeps
      | with_reducible apply homeReadLine_keeps
      | with_reducible apply keeps_ite
      | with_reducible apply keepsThd_ite
      | with_reducible apply keepsThd_mk
      | with_reducible apply KeepsThd.of
      | with_reducible apply KeepsSnd.of

theorem homeRead_keeps {z0 : State} {s : State} {cls : Nat} {a : Nat} {n : Nat} (h_s : Keeps z0 s) :
    KeepsThd z0 (homeRead s cls a n) := by
  unfold homeRead
  try dsimp only
  repeat' first
    | with_reducible assumption
    | intro _
    | with_reducible apply homeReadN_keeps

/-! ### Home -/

theorem respond_keeps {z0 : State} {s : State} {d : Nat} {h : Nat} {r : HResp} (h_s : Keeps z0 s) :
    Keeps z0 (respond s d h r) := by
  unfold respond
  try dsimp only
  repeat' first
    | with_reducible assumption
    | intro _
    | with_reducible apply setHome_keeps

theorem answerData_keeps {z0 : State} {s : State} {d : Nat} {h : Nat} {agent : Option Nat} {cls : Nat} {line : Nat} (h_s : Keeps z0 s) :
    Keeps z0 (answerData s d h agent cls line) := by
  unfold answerData
  try dsimp only
  repeat' first
    | with_reducible assumption
    | intro _
    | with_reducible apply performRead_keeps
    | with_reducible apply respond_keeps
    | with_reducible apply keeps_ite
    | with_reducible apply keepsOpt_some
    | with_reducible exact keepsOpt_none
    | with_reducible apply keepsOpt_map
    | with_reducible apply KeepsSnd.of

theorem setDir_keeps {z0 : State} {s : State} {d : Nat} {h : Nat} {k : Nat} {e : DirEnt} (h_s : Keeps z0 s) :
    Keeps z0 (setDir s d h k e) := by
  unfold setDir
  try dsimp only
  repeat' first
    | with_reducible assumption
    | intro _
    | with_reducible apply setHome_keeps

theorem performAtomic_keeps {z0 : State} {s : State} {cls : Nat} {op : Nat} {w : Nat} {addr : Nat} {v : Nat} (h_s : Keeps z0 s) :
    KeepsSnd z0 (performAtomic s cls op w addr v) := by
  unfold performAtomic
  try dsimp only
  repeat' first
    | with_reducible assumption
    | intro _
    | with_reducible apply performRead_keeps
    | with_reducible apply performWrite_keeps
    | with_reducible apply countEv_keeps
    | with_reducible apply keepsSnd_mk
    | with_reducible apply KeepsSnd.of

theorem predStep_keeps {z0 : State} {s : State} {d : Nat} {h : Nat} {line : Nat} {up : Bool} (h_s : Keeps z0 s) :
    Keeps z0 (predStep s d h line up) := by
  unfold predStep
  try dsimp only
  repeat' first
    | with_reducible assumption
    | intro _
    | with_reducible apply setHome_keeps
    | (with_reducible apply keeps_all (by assumption) <;> first | exact id | exact wf_put _ _ _ _ | exact wf_memPut _ _ _ | exact wf_memPutMask _ _ _ _ | exact wf_dropKeys _ _ _ | exact fun _ => rfl)

theorem predict_keeps {z0 : State} {s : State} {d : Nat} {h : Nat} {r : HReq} (h_s : Keeps z0 s) :
    Keeps z0 (predict s d h r) := by
  unfold predict
  try dsimp only
  repeat' first
    | with_reducible assumption
    | intro _
    | with_reducible apply predStep_keeps
    | with_reducible apply keeps_ite
    | with_reducible apply keepsOpt_some
    | with_reducible exact keepsOpt_none
    | with_reducible apply keepsOpt_map
    | simp only [keeps_mk_iff]
    | split

theorem placed_keeps {z0 : State} {s : State} {d : Nat} {h : Nat} {r : HReq} (h_s : Keeps z0 s) :
    KeepsSnd z0 (placed s d h r) := by
  cases r with
  | hostAmo l p op w a v =>
    unfold placed
    dsimp only
    split
    · exact keepsSnd_mk (predict_keeps h_s)
    · exact keepsSnd_mk (countEv_keeps (predict_keeps h_s))
  | atFar a l op w b v =>
    cases a
    · exact keepsSnd_mk (predict_keeps h_s)
    · exact keepsSnd_mk h_s
  | _ => exact keepsSnd_mk h_s

theorem reserveWay_keeps {z0 : State} {s : State} {d : Nat} {h : Nat} (h_s : Keeps z0 s) :
    Keeps z0 (reserveWay s d h) := by
  unfold reserveWay
  try dsimp only
  repeat' first
    | with_reducible assumption
    | intro _
    | with_reducible apply countEv_keeps
    | with_reducible apply setHome_keeps
    | with_reducible apply keepsOpt_some
    | with_reducible exact keepsOpt_none
    | with_reducible apply keepsOpt_map
    | simp only [keeps_mk_iff]
    | split

theorem openTxn_keeps {z0 : State} {s : State} {d : Nat} {h : Nat} {k : Nat} {fwd : Nat} {vec : Nat} {req : HReq} {way : Option Nat} (h_s : Keeps z0 s) :
    Keeps z0 (openTxn s d h k fwd vec req way) := by
  unfold openTxn
  try dsimp only
  repeat' first
    | with_reducible assumption
    | intro _
    | with_reducible apply setHome_keeps
    | with_reducible apply countEv_keeps
    | with_reducible apply keeps_ite

theorem fillWay_keeps {z0 : State} {s : State} {d : Nat} {h : Nat} {k : Nat} {line : Nat} {p : Nat} (h_s : Keeps z0 s) :
    Keeps z0 (fillWay s d h k line p) := by
  unfold fillWay
  try dsimp only
  repeat' first
    | with_reducible assumption
    | intro _
    | with_reducible apply setHome_keeps
    | with_reducible apply answerData_keeps

theorem takeWay_keeps {z0 : State} {s : State} {d : Nat} {h : Nat} {k : Nat} {line : Nat} {p : Nat} {r : HReq} (h_s : Keeps z0 s) :
    Keeps z0 (takeWay s d h k line p r) := by
  unfold takeWay
  try dsimp only
  repeat' first
    | with_reducible assumption
    | intro _
    | with_reducible apply countEv_keeps
    | with_reducible apply openTxn_keeps
    | with_reducible apply fillWay_keeps
    | with_reducible apply keeps_ite

theorem allocate_keeps {z0 : State} {s : State} {d : Nat} {h : Nat} {line : Nat} {p : Nat} {r : HReq} {way : Option Nat} (h_s : Keeps z0 s) :
    Keeps z0 (allocate s d h line p r way) := by
  unfold allocate
  try dsimp only
  repeat' first
    | with_reducible assumption
    | intro _
    | with_reducible apply fillWay_keeps
    | with_reducible apply setHome_keeps
    | with_reducible apply reserveWay_keeps
    | with_reducible apply countEv_keeps
    | with_reducible apply respond_keeps
    | with_reducible apply takeWay_keeps
    | with_reducible apply keeps_ite
    | with_reducible apply keepsOpt_some
    | with_reducible exact keepsOpt_none
    | with_reducible apply keepsOpt_map
    | simp only [keeps_mk_iff]
    | split

theorem serve_keeps {z0 : State} {s : State} {d : Nat} {h : Nat} {r : HReq} {way : Option Nat} (h_s : Keeps z0 s) :
    Keeps z0 (serve s d h r way) := by
  unfold serve
  try dsimp only
  repeat' first
    | with_reducible assumption
    | intro _
    | with_reducible apply allocate_keeps
    | with_reducible apply openTxn_keeps
    | with_reducible apply answerData_keeps
    | with_reducible apply setDir_keeps
    | with_reducible apply respond_keeps
    | with_reducible apply performWrite_keeps
    | with_reducible apply performAtomic_keeps
    | with_reducible apply keeps_ite
    | with_reducible apply keepsOpt_some
    | with_reducible exact keepsOpt_none
    | with_reducible apply keepsOpt_map
    | simp only [keeps_mk_iff]
    | with_reducible apply KeepsSnd.of
    | with_reducible refine keepsSnd_eq (by with_reducible assumption) ?_
    | split

theorem accept_keeps {z0 : State} {s : State} {d : Nat} {h : Nat} {r : HReq} (h_s : Keeps z0 s) :
    Keeps z0 (accept s d h r) := by
  unfold accept
  try dsimp only
  repeat' first
    | with_reducible assumption
    | intro _
    | with_reducible apply countEv_keeps
    | with_reducible apply raiseWith_keeps
    | with_reducible apply disarm_keeps
    | with_reducible apply placed_keeps
    | with_reducible apply openTxn_keeps
    | with_reducible apply setDir_keeps
    | with_reducible apply serve_keeps
    | with_reducible apply keeps_ite
    | with_reducible apply keepsOpt_some
    | with_reducible exact keepsOpt_none
    | with_reducible apply keepsOpt_map
    | simp only [keeps_mk_iff]
    | with_reducible apply KeepsSnd.of
    | with_reducible refine keepsSnd_eq (by with_reducible assumption) ?_
    | split

theorem arrive_keeps {z0 : State} {s : State} {r : HReq} (h_s : Keeps z0 s) :
    Keeps z0 (arrive s r) := by
  unfold arrive
  try dsimp only
  repeat' first
    | with_reducible assumption
    | intro _
    | with_reducible apply setHome_keeps
    | with_reducible apply countEv_keeps
    | with_reducible apply accept_keeps
    | with_reducible apply keeps_ite

theorem drainInq_keeps {z0 : State} {s : State} {d : Nat} {h : Nat} (h_s : Keeps z0 s) :
    Keeps z0 (drainInq s d h) := by
  unfold drainInq
  try dsimp only
  repeat' first
    | with_reducible assumption
    | intro _
    | with_reducible apply setHome_keeps
    | with_reducible apply accept_keeps
    | with_reducible apply keeps_ite
    | with_reducible apply keeps_foldl

theorem completeTxn_keeps {z0 : State} {s : State} {d : Nat} {h : Nat} {t : Txn} (h_s : Keeps z0 s) :
    Keeps z0 (completeTxn s d h t) := by
  unfold completeTxn
  try dsimp only
  repeat' first
    | with_reducible assumption
    | intro _
    | with_reducible apply setHome_keeps
    | with_reducible apply drainInq_keeps
    | with_reducible apply reserveWay_keeps
    | with_reducible apply serve_keeps
    | with_reducible apply setDir_keeps
    | with_reducible apply respond_keeps
    | with_reducible apply answerData_keeps
    | with_reducible apply scWrite_keeps
    | with_reducible apply keeps_ite
    | with_reducible apply keepsOpt_some
    | with_reducible exact keepsOpt_none
    | with_reducible apply keepsOpt_map
    | simp only [keeps_mk_iff]
    | split

theorem updTxn_keeps {z0 : State} {s : State} {d : Nat} {h : Nat} {t : Txn} {t' : Txn} (h_s : Keeps z0 s) :
    Keeps z0 (updTxn s d h t t') := by
  unfold updTxn
  try dsimp only
  repeat' first
    | with_reducible assumption
    | intro _
    | with_reducible apply setHome_keeps
    | with_reducible apply completeTxn_keeps
    | with_reducible apply keeps_ite

theorem execRdShared_keeps {z0 : State} {p : Nat} {addr : Nat} {s : State} (h_s : Keeps z0 s) :
    KeepsOut z0 (execRdShared p addr s) := by
  unfold execRdShared
  try dsimp only
  repeat' first
    | with_reducible assumption
    | intro _
    | with_reducible apply whenLive_keeps
    | with_reducible apply arrive_keeps
    | with_reducible apply keeps_ite

theorem execRdOwn_keeps {z0 : State} {p : Nat} {addr : Nat} {amo : Option (Nat × Nat × Nat)} {s : State} (h_s : Keeps z0 s) :
    KeepsOut z0 (execRdOwn p addr amo s) := by
  unfold execRdOwn
  try dsimp only
  repeat' first
    | with_reducible assumption
    | intro _
    | with_reducible apply whenLive_keeps
    | with_reducible apply arrive_keeps
    | with_reducible apply keeps_ite
    | with_reducible apply keepsOut_ite
    | with_reducible apply keepsOut_next
    | with_reducible apply keepsOpt_some
    | with_reducible exact keepsOpt_none
    | with_reducible apply keepsOpt_map
    | simp only [keeps_mk_iff]
    | split

theorem execRdOnce_keeps {z0 : State} {cls : Nat} {addr : Nat} {s : State} (h_s : Keeps z0 s) :
    KeepsOut z0 (execRdOnce cls addr s) := by
  unfold execRdOnce
  try dsimp only
  repeat' first
    | with_reducible assumption
    | intro _
    | with_reducible apply whenLive_keeps
    | with_reducible apply arrive_keeps
    | with_reducible apply keeps_ite

theorem execWrNc_keeps {z0 : State} {cls : Nat} {addr : Nat} {mask : Nat} {data : List Byte} {s : State} (h_s : Keeps z0 s) :
    KeepsOut z0 (execWrNc cls addr mask data s) := by
  unfold execWrNc
  try dsimp only
  repeat' first
    | with_reducible assumption
    | intro _
    | with_reducible apply whenLive_keeps
    | with_reducible apply arrive_keeps
    | with_reducible apply keeps_ite

theorem execAtFar_keeps {z0 : State} {op : Nat} {w : Nat} {addr : Nat} {v : Nat} {s : State} (h_s : Keeps z0 s) :
    KeepsOut z0 (execAtFar op w addr v s) := by
  unfold execAtFar
  try dsimp only
  repeat' first
    | with_reducible assumption
    | intro _
    | with_reducible apply whenLive_keeps
    | with_reducible apply arrive_keeps
    | with_reducible apply keeps_ite

theorem evictAgent_keeps {z0 : State} {s : State} {d : Nat} {h : Nat} {k : Nat} {p : Nat} (h_s : Keeps z0 s) :
    Keeps z0 (evictAgent s d h k p) := by
  unfold evictAgent
  try dsimp only
  repeat' first
    | with_reducible assumption
    | intro _
    | with_reducible apply reserveWay_keeps
    | with_reducible apply setDir_keeps
    | with_reducible apply keeps_ite

theorem crossed_keeps {z0 : State} {s : State} {d : Nat} {h : Nat} {line : Nat} {p : Nat} (h_s : Keeps z0 s) :
    Keeps z0 (crossed s d h line p) := by
  unfold crossed
  try dsimp only
  repeat' first
    | with_reducible assumption
    | intro _
    | with_reducible apply updTxn_keeps
    | with_reducible apply keeps_ite
    | with_reducible apply keepsOpt_some
    | with_reducible exact keepsOpt_none
    | with_reducible apply keepsOpt_map
    | simp only [keeps_mk_iff]
    | split

theorem execEvClean_keeps {z0 : State} {p : Nat} {addr : Nat} {s : State} (h_s : Keeps z0 s) :
    KeepsOut z0 (execEvClean p addr s) := by
  unfold execEvClean
  try dsimp only
  repeat' first
    | with_reducible assumption
    | intro _
    | with_reducible apply whenLive_keeps
    | with_reducible apply crossed_keeps
    | with_reducible apply evictAgent_keeps
    | with_reducible apply keeps_ite
    | with_reducible apply keepsOut_ite
    | with_reducible apply keepsOut_next
    | with_reducible apply keepsOpt_some
    | with_reducible exact keepsOpt_none
    | with_reducible apply keepsOpt_map
    | simp only [keeps_mk_iff]
    | split

theorem execWbDirty_keeps {z0 : State} {p : Nat} {addr : Nat} {data : List Byte} {s : State} (h_s : Keeps z0 s) :
    KeepsOut z0 (execWbDirty p addr data s) := by
  unfold execWbDirty
  try dsimp only
  repeat' first
    | with_reducible assumption
    | intro _
    | with_reducible apply whenLive_keeps
    | with_reducible apply crossed_keeps
    | with_reducible apply evictAgent_keeps
    | with_reducible apply performWrite_keeps
    | with_reducible apply keeps_ite
    | with_reducible apply keepsOut_ite
    | with_reducible apply keepsOut_next
    | with_reducible apply keepsOpt_some
    | with_reducible exact keepsOpt_none
    | with_reducible apply keepsOpt_map
    | simp only [keeps_mk_iff]
    | split

theorem takeForward_keeps {z0 : State} {s : State} {fwd : Nat} {agent : Nat} {addr : Nat} {ans : FwdAns} {data : List Byte} (h_s : Keeps z0 s) :
    Keeps z0 (takeForward s fwd agent addr ans data) := by
  unfold takeForward
  try dsimp only
  repeat' first
    | with_reducible assumption
    | intro _
    | with_reducible apply updTxn_keeps
    | with_reducible apply respond_keeps
    | with_reducible apply keeps_ite
    | with_reducible apply keepsOpt_some
    | with_reducible exact keepsOpt_none
    | with_reducible apply keepsOpt_map
    | simp only [keeps_mk_iff]
    | split
    | (with_reducible apply keeps_all (by assumption) <;> first | exact id | exact wf_put _ _ _ _ | exact wf_memPut _ _ _ | exact wf_memPutMask _ _ _ _ | exact wf_dropKeys _ _ _ | exact fun _ => rfl)

theorem execFwdShared_keeps {z0 : State} {agent : Nat} {addr : Nat} {ans : FwdAns} {data : List Byte} {s : State} (h_s : Keeps z0 s) :
    KeepsOut z0 (execFwdShared agent addr ans data s) := by
  unfold execFwdShared
  try dsimp only
  repeat' first
    | with_reducible assumption
    | intro _
    | with_reducible apply whenLive_keeps
    | with_reducible apply takeForward_keeps

theorem execFwdOwn_keeps {z0 : State} {agent : Nat} {addr : Nat} {ans : FwdAns} {data : List Byte} {s : State} (h_s : Keeps z0 s) :
    KeepsOut z0 (execFwdOwn agent addr ans data s) := by
  unfold execFwdOwn
  try dsimp only
  repeat' first
    | with_reducible assumption
    | intro _
    | with_reducible apply whenLive_keeps
    | with_reducible apply takeForward_keeps

theorem execFwdOnce_keeps {z0 : State} {agent : Nat} {addr : Nat} {ans : FwdAns} {data : List Byte} {s : State} (h_s : Keeps z0 s) :
    KeepsOut z0 (execFwdOnce agent addr ans data s) := by
  unfold execFwdOnce
  try dsimp only
  repeat' first
    | with_reducible assumption
    | intro _
    | with_reducible apply whenLive_keeps
    | with_reducible apply takeForward_keeps

theorem execInval_keeps {z0 : State} {agent : Nat} {addr : Nat} {s : State} (h_s : Keeps z0 s) :
    KeepsOut z0 (execInval agent addr s) := by
  unfold execInval
  try dsimp only
  repeat' first
    | with_reducible assumption
    | intro _
    | with_reducible apply whenLive_keeps
    | with_reducible apply takeForward_keeps

theorem execRecall_keeps {z0 : State} {agent : Nat} {addr : Nat} {ans : FwdAns} {data : List Byte} {s : State} (h_s : Keeps z0 s) :
    KeepsOut z0 (execRecall agent addr ans data s) := by
  unfold execRecall
  try dsimp only
  repeat' first
    | with_reducible assumption
    | intro _
    | with_reducible apply whenLive_keeps
    | with_reducible apply takeForward_keeps

theorem execTokReady_keeps {z0 : State} {d : Nat} {h : Nat} {s : State} (h_s : Keeps z0 s) :
    KeepsOut z0 (execTokReady d h s) := by
  unfold execTokReady
  try dsimp only
  repeat' first
    | with_reducible assumption
    | intro _
    | with_reducible apply whenLive_keeps
    | with_reducible apply countEv_keeps
    | with_reducible apply setHome_keeps
    | with_reducible apply takeWay_keeps
    | with_reducible apply serve_keeps
    | with_reducible apply reserveWay_keeps
    | with_reducible apply keeps_ite
    | with_reducible apply keepsOut_ite
    | with_reducible apply keepsOut_next
    | with_reducible apply keepsOpt_some
    | with_reducible exact keepsOpt_none
    | with_reducible apply keepsOpt_map
    | simp only [keeps_mk_iff]
    | split

theorem consume_keeps {z0 : State} {s : State} {kind : Nat} {agent : Option Nat} {addr : Nat} (h_s : Keeps z0 s) :
    Keeps z0 (consume s kind agent addr) := by
  unfold consume
  try dsimp only
  repeat' first
    | with_reducible assumption
    | intro _
    | with_reducible apply setHome_keeps

theorem execData_keeps {z0 : State} {p : Nat} {addr : Nat} {s : State} (h_s : Keeps z0 s) :
    KeepsOut z0 (execData p addr s) := by
  unfold execData
  try dsimp only
  repeat' first
    | with_reducible assumption
    | intro _
    | with_reducible apply whenLive_keeps
    | with_reducible apply consume_keeps

theorem execDataOnce_keeps {z0 : State} {addr : Nat} {s : State} (h_s : Keeps z0 s) :
    KeepsOut z0 (execDataOnce addr s) := by
  unfold execDataOnce
  try dsimp only
  repeat' first
    | with_reducible assumption
    | intro _
    | with_reducible apply whenLive_keeps
    | with_reducible apply consume_keeps

theorem execCmp_keeps {z0 : State} {agent : Option Nat} {addr : Nat} {s : State} (h_s : Keeps z0 s) :
    KeepsOut z0 (execCmp agent addr s) := by
  unfold execCmp
  try dsimp only
  repeat' first
    | with_reducible assumption
    | intro _
    | with_reducible apply whenLive_keeps
    | with_reducible apply consume_keeps

theorem execAtResult_keeps {z0 : State} {agent : Option Nat} {addr : Nat} {s : State} (h_s : Keeps z0 s) :
    KeepsOut z0 (execAtResult agent addr s) := by
  unfold execAtResult
  try dsimp only
  repeat' first
    | with_reducible assumption
    | intro _
    | with_reducible apply whenLive_keeps
    | with_reducible apply consume_keeps

theorem execRetry_keeps {z0 : State} {p : Nat} {addr : Nat} {s : State} (h_s : Keeps z0 s) :
    KeepsOut z0 (execRetry p addr s) := by
  unfold execRetry
  try dsimp only
  repeat' first
    | with_reducible assumption
    | intro _
    | with_reducible apply whenLive_keeps
    | with_reducible apply consume_keeps

theorem takeAck_keeps {z0 : State} {s : State} {kinds : List Nat} {agent : Nat} {addr : Nat} (h_s : Keeps z0 s) :
    Keeps z0 (takeAck s kinds agent addr) := by
  unfold takeAck
  try dsimp only
  repeat' first
    | with_reducible assumption
    | intro _
    | with_reducible apply updTxn_keeps
    | with_reducible apply keeps_ite
    | with_reducible apply keepsOpt_some
    | with_reducible exact keepsOpt_none
    | with_reducible apply keepsOpt_map
    | simp only [keeps_mk_iff]
    | split

theorem execInvAck_keeps {z0 : State} {agent : Nat} {addr : Nat} {s : State} (h_s : Keeps z0 s) :
    KeepsOut z0 (execInvAck agent addr s) := by
  unfold execInvAck
  try dsimp only
  repeat' first
    | with_reducible assumption
    | intro _
    | with_reducible apply whenLive_keeps
    | with_reducible apply takeAck_keeps

theorem execFwdAck_keeps {z0 : State} {agent : Nat} {addr : Nat} {s : State} (h_s : Keeps z0 s) :
    KeepsOut z0 (execFwdAck agent addr s) := by
  unfold execFwdAck
  try dsimp only
  repeat' first
    | with_reducible assumption
    | intro _
    | with_reducible apply whenLive_keeps
    | with_reducible apply takeAck_keeps

theorem execRecallAck_keeps {z0 : State} {agent : Nat} {addr : Nat} {s : State} (h_s : Keeps z0 s) :
    KeepsOut z0 (execRecallAck agent addr s) := by
  unfold execRecallAck
  try dsimp only
  repeat' first
    | with_reducible assumption
    | intro _
    | with_reducible apply whenLive_keeps
    | with_reducible apply takeAck_keeps

theorem execHomeAckTimeout_keeps {z0 : State} {addr : Nat} {s : State} (h_s : Keeps z0 s) :
    KeepsOut z0 (execHomeAckTimeout addr s) := by
  unfold execHomeAckTimeout
  try dsimp only
  repeat' first
    | with_reducible assumption
    | intro _
    | with_reducible apply whenLive_keeps
    | with_reducible apply setPoison_keeps
    | with_reducible apply raiseInfo_keeps
    | with_reducible apply drainInq_keeps
    | with_reducible apply reserveWay_keeps
    | with_reducible apply serve_keeps
    | with_reducible apply setHome_keeps
    | with_reducible apply keepsOut_next
    | with_reducible apply keepsOpt_some
    | with_reducible exact keepsOpt_none
    | with_reducible apply keepsOpt_map
    | simp only [keeps_mk_iff]
    | split

theorem homeAtcfgWrite_keeps {z0 : State} {s : State} {d : Nat} {h : Nat} {v : W64} (h_s : Keeps z0 s) :
    Keeps z0 (homeAtcfgWrite s d h v) := by
  unfold homeAtcfgWrite
  try dsimp only
  repeat' first
    | with_reducible assumption
    | intro _
    | with_reducible apply reject_keeps
    | with_reducible apply setRegF_keeps
    | with_reducible apply setHome_keeps
    | with_reducible apply keeps_ite

theorem execHomeAtcfgClr_keeps {z0 : State} {d : Nat} {h : Nat} {mode : Nat} {s : State} (h_s : Keeps z0 s) :
    KeepsOut z0 (execHomeAtcfgClr d h mode s) := by
  unfold execHomeAtcfgClr
  try dsimp only
  repeat' first
    | with_reducible assumption
    | intro _
    | with_reducible apply whenLive_keeps
    | with_reducible apply homeAtcfgWrite_keeps
    | with_reducible apply keeps_ite

/-! ### NearFar -/

theorem execScWaymaskWrite_keeps {z0 : State} {d : Nat} {n : Nat} {v : W64} {s : State} (h_s : Keeps z0 s) :
    KeepsOut z0 (execScWaymaskWrite d n v s) := by
  unfold execScWaymaskWrite
  try dsimp only
  repeat' first
    | with_reducible assumption
    | intro _
    | with_reducible apply whenLive_keeps
    | with_reducible apply setReg_keeps
    | with_reducible apply keeps_ite

theorem execNmcWrite_keeps {z0 : State} {addr : Nat} {mask : Nat} {data : List Byte} {s : State} (h_s : Keeps z0 s) :
    KeepsOut z0 (execNmcWrite addr mask data s) := by
  unfold execNmcWrite
  try dsimp only
  repeat' first
    | with_reducible assumption
    | intro _
    | with_reducible apply whenLive_keeps
    | with_reducible apply channelWrite_keeps
    | with_reducible apply keeps_ite
    | with_reducible apply keepsOut_ite
    | with_reducible apply keepsOut_next
    | simp only [keeps_mk_iff]
    | split
    | (with_reducible apply keeps_all (by assumption) <;> first | exact id | exact wf_put _ _ _ _ | exact wf_memPut _ _ _ | exact wf_memPutMask _ _ _ _ | exact wf_dropKeys _ _ _ | exact fun _ => rfl)

theorem execNmcRead_keeps {z0 : State} {addr : Nat} {e : LineErr} {s : State} (h_s : Keeps z0 s) :
    KeepsOut z0 (execNmcRead addr e s) := by
  unfold execNmcRead
  try dsimp only
  repeat' first
    | with_reducible assumption
    | intro _
    | with_reducible apply whenLive_keeps
    | with_reducible apply packageRead_keeps
    | with_reducible apply deliverPoison_keeps
    | with_reducible apply keeps_ite
    | with_reducible apply keepsOut_ite
    | with_reducible apply keepsOut_next
    | simp only [keeps_mk_iff]

theorem execWcAgeTimeout_keeps {z0 : State} {d : Nat} {ch : Nat} {s : State} (h_s : Keeps z0 s) :
    KeepsOut z0 (execWcAgeTimeout d ch s) := by
  unfold execWcAgeTimeout
  try dsimp only
  repeat' first
    | with_reducible assumption
    | intro _
    | with_reducible apply whenLive_keeps
    | with_reducible apply wcWriteOut_keeps
    | with_reducible apply keeps_ite
    | with_reducible apply keepsOut_ite
    | with_reducible apply keepsOut_next
    | simp only [keeps_mk_iff]
    | split

theorem execPatrolScrub_keeps {z0 : State} {d : Nat} {ch : Nat} {e : LineErr} {s : State} (h_s : Keeps z0 s) :
    KeepsOut z0 (execPatrolScrub d ch e s) := by
  unfold execPatrolScrub
  try dsimp only
  repeat' first
    | with_reducible assumption
    | intro _
    | with_reducible apply whenLive_keeps
    | with_reducible apply packageRead_keeps
    | with_reducible apply setNmc_keeps
    | with_reducible apply keeps_ite

theorem execLpddrOvertemp_keeps {z0 : State} {d : Nat} {ch : Nat} {temp : Nat} {hot : Bool} {s : State} (h_s : Keeps z0 s) :
    KeepsOut z0 (execLpddrOvertemp d ch temp hot s) := by
  unfold execLpddrOvertemp
  try dsimp only
  repeat' first
    | with_reducible assumption
    | intro _
    | with_reducible apply whenLive_keeps
    | with_reducible apply setNmc_keeps
    | with_reducible apply setReg_keeps
    | with_reducible apply keeps_ite

theorem execFmcLinkUp_keeps {z0 : State} {g : Nat} {devcap : Nat} {width : Nat} {s : State} (h_s : Keeps z0 s) :
    KeepsOut z0 (execFmcLinkUp g devcap width s) := by
  unfold execFmcLinkUp
  try dsimp only
  repeat' first
    | with_reducible assumption
    | intro _
    | with_reducible apply whenLive_keeps
    | with_reducible apply setReg_keeps
    | with_reducible apply keeps_ite

theorem fmcDown_keeps {z0 : State} {s : State} {g : Nat} (h_s : Keeps z0 s) :
    Keeps z0 (fmcDown s g) := by
  unfold fmcDown
  try dsimp only
  repeat' first
    | with_reducible assumption
    | intro _
    | with_reducible apply setReg_keeps
    | with_reducible apply raise_keeps
    | with_reducible apply keeps_ite
    | simp only [keeps_mk_iff]

theorem execFmcLinkDown_keeps {z0 : State} {g : Nat} {s : State} (h_s : Keeps z0 s) :
    KeepsOut z0 (execFmcLinkDown g s) := by
  unfold execFmcLinkDown
  try dsimp only
  repeat' first
    | with_reducible assumption
    | intro _
    | with_reducible apply whenLive_keeps
    | with_reducible apply fmcDown_keeps
    | with_reducible apply keeps_ite

theorem wccfgWrite_keeps {z0 : State} {s : State} {d : Nat} {ch : Nat} {v : W64} (h_s : Keeps z0 s) :
    Keeps z0 (wccfgWrite s d ch v) := by
  unfold wccfgWrite
  try dsimp only
  repeat' first
    | with_reducible assumption
    | intro _
    | with_reducible apply reject_keeps
    | with_reducible apply setReg_keeps
    | with_reducible apply keeps_ite

theorem fmcCfgWrite_keeps {z0 : State} {s : State} {g : Nat} {v : W64} (h_s : Keeps z0 s) :
    Keeps z0 (fmcCfgWrite s g v) := by
  unfold fmcCfgWrite
  try dsimp only
  repeat' first
    | with_reducible assumption
    | intro _
    | with_reducible apply reject_keeps
    | with_reducible apply setReg_keeps
    | with_reducible apply keeps_ite

end Sys2Proof.Laws
end

