-- ==== Sys2Proof/Laws/KeepsUnits.lean ====
section
/-! SUPPORT. One lemma per operation of compute units: local store, caches, accesses to virtual memory, thread groups, queues, movers and matrix engines: it keeps the fuses, the waiting commands and the canonical
form of every table (Laws/Keeps.lean). -/

set_option linter.unusedSimpArgs false
set_option linter.tactic.unusedName false
set_option linter.unusedVariables false

namespace Sys2Proof.Laws

open Sys2Proof.Machine

/-! ### FabricOps -/

theorem setFlow_keeps {z0 : State} {s : State} {n : Nat} {f : FlowSt} (h_s : Keeps z0 s) :
    Keeps z0 (State.setFlow s n f) := by
  unfold State.setFlow
  try dsimp only
  repeat' first
    | with_reducible assumption
    | intro _
    | with_reducible apply putBytes_keeps
    | with_reducible apply setByte_keeps
    | with_reducible apply keepsOpt_some
    | with_reducible exact keepsOpt_none
    | with_reducible apply keepsOpt_map
    | simp only [keeps_mk_iff]
    | (with_reducible apply keeps_all (by assumption) <;> first | exact id | exact wf_put _ _ _ _ | exact wf_memPut _ _ _ | exact wf_memPutMask _ _ _ _ | exact wf_dropKeys _ _ _ | exact fun _ => rfl)

theorem closeFlow_keeps {z0 : State} {s : State} {n : Nat} {fcause : Nat} (h_s : Keeps z0 s) :
    Keeps z0 (State.closeFlow s n fcause) := by
  unfold State.closeFlow
  try dsimp only
  repeat' first
    | with_reducible assumption
    | intro _
    | with_reducible apply putBytes_keeps
    | with_reducible apply setByte_keeps
    | with_reducible apply keepsOpt_some
    | with_reducible exact keepsOpt_none
    | with_reducible apply keepsOpt_map
    | simp only [keeps_mk_iff]
    | (with_reducible apply keeps_all (by assumption) <;> first | exact id | exact wf_put _ _ _ _ | exact wf_memPut _ _ _ | exact wf_memPutMask _ _ _ _ | exact wf_dropKeys _ _ _ | exact fun _ => rfl)

theorem enqueue_keeps {z0 : State} {s : State} {flow : Nat} {p : OutPkt} (h_s : Keeps z0 s) :
    Keeps z0 (enqueue s flow p) := by
  unfold enqueue
  try dsimp only
  repeat' first
    | with_reducible assumption
    | intro _
    | with_reducible apply setFlow_keeps
    | with_reducible apply keepsOpt_some
    | with_reducible exact keepsOpt_none
    | with_reducible apply keepsOpt_map
    | simp only [keeps_mk_iff]
    | split

theorem enqueueWrites_keeps {z0 : State} {s : State} {flow : Nat} {ga : Nat} {bs : List Byte} {src : PktSrc} (h_s : Keeps z0 s) :
    Keeps z0 (enqueueWrites s flow ga bs src) := by
  unfold enqueueWrites
  try dsimp only
  repeat' first
    | with_reducible assumption
    | intro _
    | with_reducible apply enqueue_keeps
    | with_reducible apply keeps_foldl

/-! ### CuMem -/

theorem setCu_keeps {z0 : State} {s : State} {u : Nat} {c : CuSt} (h_s : Keeps z0 s) :
    Keeps z0 (State.setCu s u c) := by
  unfold State.setCu
  try dsimp only
  repeat' first
    | with_reducible assumption
    | intro _
    | simp only [keeps_mk_iff]
    | (with_reducible apply keeps_all (by assumption) <;> first | exact id | exact wf_put _ _ _ _ | exact wf_memPut _ _ _ | exact wf_memPutMask _ _ _ _ | exact wf_dropKeys _ _ _ | exact fun _ => rfl)

theorem unitXlat_keeps {z0 : State} {s : State} {u : Nat} {aspace : Nat} {va : Nat} {n : Nat} {acc : Machine.Acc} (h_s : Keeps z0 s) :
    KeepsSnd z0 (unitXlat s u aspace va n acc) := by
  unfold unitXlat
  dsimp only
  apply keepsSnd_ite
  · exact keepsSnd_mk h_s
  · cases List.find? (fun e => e.covers aspace va) (s.cu u).tlb with
    | some e => exact keepsSnd_mk h_s
    | none =>
      have h1 := (findLeaf_keeps (d := uDie u) (aspace := aspace) (va := va) h_s).of
      revert h1
      dsimp only
      generalize findLeaf s (uDie u) aspace va = w
      intro h1
      obtain ⟨r, s1⟩ := w
      cases r
      · exact keepsSnd_mk (setCu_keeps h1)
      · exact keepsSnd_mk h1

theorem dropUnitTlbs_keeps {z0 : State} {s : State} {r : InvReq} (h_s : Keeps z0 s) :
    Keeps z0 (dropUnitTlbs s r) := by
  unfold dropUnitTlbs
  try dsimp only
  repeat' first
    | with_reducible assumption
    | intro _
    | with_reducible apply setCu_keeps
    | with_reducible apply keepsOpt_some
    | with_reducible exact keepsOpt_none
    | with_reducible apply keepsOpt_map
    | with_reducible apply keeps_foldl

theorem lsPut_keeps {z0 : State} {s : State} {u : Nat} {a : Nat} {b : Byte} (h_s : Keeps z0 s) :
    Keeps z0 (lsPut s u a b) := by
  unfold lsPut
  try dsimp only
  repeat' first
    | with_reducible assumption
    | intro _
    | simp only [keeps_mk_iff]
    | (with_reducible apply keeps_all (by assumption) <;> first | exact id | exact wf_put _ _ _ _ | exact wf_memPut _ _ _ | exact wf_memPutMask _ _ _ _ | exact wf_dropKeys _ _ _ | exact fun _ => rfl)

theorem lsPuts_keeps {z0 : State} {s : State} {u : Nat} {a : Nat} {x3 : List Byte} (h_s : Keeps z0 s) :
    Keeps z0 (lsPuts s u a x3) := by
  induction x3 generalizing  s a with
  | nil =>
    unfold lsPuts
    try dsimp only
    repeat' first
      | with_reducible assumption
  | cons y ys ih =>
    unfold lsPuts
    try dsimp only
    repeat' first
      | with_reducible assumption
      | intro _
      | with_reducible apply ih
      | with_reducible apply lsPut_keeps

theorem lsClear_keeps {z0 : State} {s : State} {u : Nat} {a : Nat} {n : Nat} (h_s : Keeps z0 s) :
    Keeps z0 (lsClear s u a n) := by
  unfold lsClear
  try dsimp only
  repeat' first
    | with_reducible assumption
    | intro _
    | simp only [keeps_mk_iff]
    | (with_reducible apply keeps_all (by assumption) <;> first | exact id | exact wf_put _ _ _ _ | exact wf_memPut _ _ _ | exact wf_memPutMask _ _ _ _ | exact wf_dropKeys _ _ _ | exact fun _ => rfl)

theorem setCcWay_keeps {z0 : State} {s : State} {k : Nat} {l : CcLine} (h_s : Keeps z0 s) :
    Keeps z0 (State.setCcWay s k l) := by
  unfold State.setCcWay
  try dsimp only
  repeat' first
    | with_reducible assumption
    | intro _
    | simp only [keeps_mk_iff]
    | (with_reducible apply keeps_all (by assumption) <;> first | exact id | exact wf_put _ _ _ _ | exact wf_memPut _ _ _ | exact wf_memPutMask _ _ _ _ | exact wf_dropKeys _ _ _ | exact fun _ => rfl)

theorem ccTouch_keeps {z0 : State} {s : State} {u : Nat} {line : Nat} {way : Nat} (h_s : Keeps z0 s) :
    Keeps z0 (ccTouch s u line way) := by
  unfold ccTouch
  try dsimp only
  repeat' first
    | with_reducible assumption
    | intro _
    | with_reducible apply setCcWay_keeps
    | with_reducible apply keeps_ite
    | with_reducible apply keeps_foldl

theorem ccSend_keeps {z0 : State} {s : State} {u : Nat} {l : CcLine} (h_s : Keeps z0 s) :
    Keeps z0 (ccSend s u l) := by
  unfold ccSend
  try dsimp only
  repeat' first
    | with_reducible assumption
    | intro _
    | with_reducible apply countEv_keeps
    | with_reducible apply homeWriteLine_keeps
    | with_reducible apply setPoison_keeps
    | with_reducible apply raiseWith_keeps
    | with_reducible apply disarm_keeps
    | with_reducible apply keeps_ite
    | with_reducible apply keepsOpt_some
    | with_reducible exact keepsOpt_none
    | with_reducible apply keepsOpt_map
    | split

theorem ccWriteBack_keeps {z0 : State} {s : State} {u : Nat} {k : Nat} (h_s : Keeps z0 s) :
    Keeps z0 (ccWriteBack s u k) := by
  unfold ccWriteBack
  try dsimp only
  repeat' first
    | with_reducible assumption
    | intro _
    | with_reducible apply ccSend_keeps
    | with_reducible apply setCcWay_keeps
    | with_reducible apply keeps_ite
    | with_reducible apply keepsOpt_some
    | with_reducible exact keepsOpt_none
    | with_reducible apply keepsOpt_map
    | simp only [keeps_mk_iff]

theorem ccEvict_keeps {z0 : State} {s : State} {u : Nat} {k : Nat} (h_s : Keeps z0 s) :
    Keeps z0 (ccEvict s u k) := by
  unfold ccEvict
  try dsimp only
  repeat' first
    | with_reducible assumption
    | intro _
    | with_reducible apply setCcWay_keeps
    | with_reducible apply ccWriteBack_keeps

theorem ccAlloc_keeps {z0 : State} {s : State} {u : Nat} {line : Nat} (h_s : Keeps z0 s) :
    KeepsOptSnd z0 (ccAlloc s u line) := by
  unfold ccAlloc
  try dsimp only
  repeat' first
    | with_reducible assumption
    | intro _
    | with_reducible apply ccTouch_keeps
    | with_reducible apply setCcWay_keeps
    | with_reducible apply ccEvict_keeps
    | with_reducible apply keepsOpt_some
    | with_reducible exact keepsOpt_none
    | with_reducible apply keepsOpt_map
    | with_reducible apply keepsOptSnd_some
    | with_reducible exact keepsOptSnd_none
    | simp only [keeps_mk_iff]
    | split

theorem setSec_keeps {z0 : State} {s : State} {k : Nat} {i : Nat} {x : CcSec} (h_s : Keeps z0 s) :
    Keeps z0 (setSec s k i x) := by
  unfold setSec
  try dsimp only
  repeat' first
    | with_reducible assumption
    | intro _
    | with_reducible apply setCcWay_keeps

theorem ccStore_keeps {z0 : State} {s : State} {u : Nat} {a : Nat} {bs : List Byte} (h_s : Keeps z0 s) :
    KeepsOpt z0 (ccStore s u a bs) := by
  unfold ccStore
  try dsimp only
  repeat' first
    | with_reducible assumption
    | intro _
    | with_reducible apply homeWriteLine_keeps
    | with_reducible apply ccTouch_keeps
    | with_reducible apply setSec_keeps
    | with_reducible apply ccAlloc_keeps
    | with_reducible apply keeps_ite
    | with_reducible apply keepsOpt_ite
    | with_reducible apply keepsOpt_some
    | with_reducible exact keepsOpt_none
    | with_reducible apply keepsOpt_map
    | with_reducible apply keeps_foldl
    | simp only [keeps_mk_iff]
    | with_reducible refine keepsOptSnd_eq (by with_reducible assumption) ?_
    | split

theorem ccRelease_keeps {z0 : State} {s : State} {u : Nat} (h_s : Keeps z0 s) :
    Keeps z0 (ccRelease s u) := by
  unfold ccRelease
  try dsimp only
  repeat' first
    | with_reducible assumption
    | intro _
    | with_reducible apply ccWriteBack_keeps
    | with_reducible apply keeps_foldl

theorem ccAcquire_keeps {z0 : State} {s : State} {u : Nat} (h_s : Keeps z0 s) :
    Keeps z0 (ccAcquire s u) := by
  unfold ccAcquire
  try dsimp only
  repeat' first
    | with_reducible assumption
    | intro _
    | with_reducible apply setCcWay_keeps
    | with_reducible apply keeps_ite
    | with_reducible apply keepsOpt_some
    | with_reducible exact keepsOpt_none
    | with_reducible apply keepsOpt_map
    | with_reducible apply keeps_foldl

theorem ccCleanRange_keeps {z0 : State} {s : State} {u : Nat} {a : Nat} {n : Nat} (h_s : Keeps z0 s) :
    Keeps z0 (ccCleanRange s u a n) := by
  unfold ccCleanRange
  try dsimp only
  repeat' first
    | with_reducible assumption
    | intro _
    | with_reducible apply ccWriteBack_keeps
    | with_reducible apply keeps_ite
    | with_reducible apply keeps_foldl

theorem ccDropRange_keeps {z0 : State} {s : State} {u : Nat} {a : Nat} {n : Nat} (h_s : Keeps z0 s) :
    Keeps z0 (ccDropRange s u a n) := by
  unfold ccDropRange
  try dsimp only
  repeat' first
    | with_reducible assumption
    | intro _
    | with_reducible apply setCcWay_keeps
    | with_reducible apply keeps_ite
    | with_reducible apply keeps_foldl

theorem ccSectorsOut_keeps {z0 : State} {s : State} {u : Nat} {line : Nat} {sectors : Nat} (h_s : Keeps z0 s) :
    Keeps z0 (ccSectorsOut s u line sectors) := by
  unfold ccSectorsOut
  try dsimp only
  repeat' first
    | with_reducible assumption
    | intro _
    | with_reducible apply ccSend_keeps
    | with_reducible apply setCcWay_keeps
    | with_reducible apply keeps_ite
    | with_reducible apply keepsOpt_some
    | with_reducible exact keepsOpt_none
    | with_reducible apply keepsOpt_map
    | simp only [keeps_mk_iff]
    | split

theorem moverWriteLine_keeps {z0 : State} {s : State} {u : Nat} {a : Nat} {mask : Nat} {data : List Byte} (h_s : Keeps z0 s) :
    Keeps z0 (moverWriteLine s u a mask data) := by
  unfold moverWriteLine
  try dsimp only
  repeat' first
    | with_reducible assumption
    | intro _
    | with_reducible apply homeWriteLine_keeps
    | with_reducible apply ccSectorsOut_keeps

theorem moverWriteN_keeps {z0 : State} {u : Nat} {x1 : Nat} {x2 : State} {x3 : Nat} {x4 : List Byte} (h_x2 : Keeps z0 x2) :
    Keeps z0 (moverWriteN u x1 x2 x3 x4) := by
  induction x1 generalizing x2 x3 x4 with
  | zero =>
    unfold moverWriteN
    try dsimp only
    repeat' first
      | with_reducible assumption
  | succ m ih =>
    unfold moverWriteN
    try dsimp only
    repeat' first
      | with_reducible assumption
      | intro _
      | with_reducible apply ih
      | with_reducible apply moverWriteLine_keeps
      | with_reducible apply moverWriteLine_keeps
      | with_reducible apply keeps_ite

theorem ccueFires_keeps {z0 : State} {s : State} {u : Nat} {line : Nat} {sectors : Nat} (h_s : Keeps z0 s) :
    Keeps z0 (ccueFires s u line sectors) := by
  unfold ccueFires
  try dsimp only
  repeat' first
    | with_reducible assumption
    | intro _
    | with_reducible apply ccSectorsOut_keeps
    | with_reducible apply keeps_ite
    | with_reducible apply keepsOpt_some
    | with_reducible exact keepsOpt_none
    | with_reducible apply keepsOpt_map
    | simp only [keeps_mk_iff]
    | split

theorem ccueFiresOver_keeps {z0 : State} {s : State} {u : Nat} {a : Nat} {n : Nat} (h_s : Keeps z0 s) :
    Keeps z0 (ccueFiresOver s u a n) := by
  unfold ccueFiresOver
  try dsimp only
  repeat' first
    | with_reducible assumption
    | intro _
    | with_reducible apply ccueFires_keeps
    | with_reducible apply keeps_ite
    | with_reducible apply keeps_foldl
    | split

theorem moverRead_keeps {z0 : State} {s : State} {u : Nat} {a : Nat} {n : Nat} (h_s : Keeps z0 s) :
    KeepsThd z0 (moverRead s u a n) := by
  unfold moverRead
  try dsimp only
  repeat' first
    | with_reducible assumption
    | intro _
    | with_reducible apply homeRead_keeps
    | with_reducible apply ccueFiresOver_keeps
    | with_reducible apply keeps_ite
    | with_reducible apply keepsThd_ite
    | with_reducible apply keepsOpt_some
    | with_reducible exact keepsOpt_none
    | with_reducible apply keepsOpt_map
    | with_reducible apply keepsThd_mk
    | simp only [keeps_mk_iff]
    | with_reducible apply KeepsThd.of
    | with_reducible refine keepsThd_eq (by with_reducible assumption) ?_
    | split

theorem takeSplit_keeps {z0 : State} {s : State} {u : Nat} {split : Nat} (h_s : Keeps z0 s) :
    Keeps z0 (takeSplit s u split) := by
  unfold takeSplit
  try dsimp only
  repeat' first
    | with_reducible assumption
    | intro _
    | with_reducible apply ccEvict_keeps
    | with_reducible apply setCcWay_keeps
    | with_reducible apply countEv_keeps
    | with_reducible apply setCu_keeps
    | with_reducible apply keeps_ite
    | with_reducible apply keepsOpt_some
    | with_reducible exact keepsOpt_none
    | with_reducible apply keepsOpt_map
    | with_reducible apply keeps_foldl

/-! ### Stations -/

theorem setJob_keeps {z0 : State} {s : State} {j : Nat} {v : Option Job} (h_s : Keeps z0 s) :
    Keeps z0 (State.setJob s j v) := by
  unfold State.setJob
  try dsimp only
  repeat' first
    | with_reducible assumption
    | intro _
    | with_reducible apply keepsOpt_some
    | with_reducible exact keepsOpt_none
    | with_reducible apply keepsOpt_map
    | simp only [keeps_mk_iff]
    | (with_reducible apply keeps_all (by assumption) <;> first | exact id | exact wf_put _ _ _ _ | exact wf_memPut _ _ _ | exact wf_memPutMask _ _ _ _ | exact wf_dropKeys _ _ _ | exact fun _ => rfl)

theorem setItem_keeps {z0 : State} {s : State} {n : Nat} {v : Option Item} (h_s : Keeps z0 s) :
    Keeps z0 (State.setItem s n v) := by
  unfold State.setItem
  try dsimp only
  repeat' first
    | with_reducible assumption
    | intro _
    | with_reducible apply keepsOpt_some
    | with_reducible exact keepsOpt_none
    | with_reducible apply keepsOpt_map
    | simp only [keeps_mk_iff]
    | (with_reducible apply keeps_all (by assumption) <;> first | exact id | exact wf_put _ _ _ _ | exact wf_memPut _ _ _ | exact wf_memPutMask _ _ _ _ | exact wf_dropKeys _ _ _ | exact fun _ => rfl)

theorem unitError_keeps {z0 : State} {s : State} {u : Nat} {page : Nat} {bitNo : Nat} {inj : Bool} {job : Option (Nat × Nat)} (h_s : Keeps z0 s) :
    Keeps z0 (unitError s u page bitNo inj job) := by
  unfold unitError
  try dsimp only
  repeat' first
    | with_reducible assumption
    | intro _
    | with_reducible apply raiseWith_keeps
    | with_reducible apply setCu_keeps

theorem countTdc_keeps {z0 : State} {s : State} {bitNo : Nat} {n : Nat} (h_s : Keeps z0 s) :
    Keeps z0 (countTdc s bitNo n) := by
  unfold countTdc
  try dsimp only
  repeat' first
    | with_reducible assumption
    | intro _
    | with_reducible apply setReg_keeps
    | with_reducible apply keeps_ite

/-! ### Access -/

theorem rqXlat_keeps {z0 : State} {s : State} {r : Rq} {va : Nat} {n : Nat} {acc : Machine.Acc} (h_s : Keeps z0 s) :
    KeepsSnd z0 (rqXlat s r va n acc) := by
  unfold rqXlat
  split
  · exact keepsSnd_mk h_s
  · split
    · exact unitXlat_keeps h_s
    · rename_i d _ _
      exact keepsSnd_mk (translate_keeps h_s).of

theorem rqSpanN_keeps {z0 : State} {r : Rq} {acc : Machine.Acc} {x2 : Nat} {x3 : State} {x4 : Nat} {x5 : Nat} (h_x3 : Keeps z0 x3) :
    KeepsSnd z0 (rqSpanN r acc x2 x3 x4 x5) := by
  induction x2 generalizing x3 x4 x5 with
  | zero => exact keepsSnd_mk h_x3
  | succ f ih =>
    unfold rqSpanN
    split
    · exact keepsSnd_mk h_x3
    · have h1 := (rqXlat_keeps (r := r) (va := x4) (n := min (4096 - x4 % 4096) x5) (acc := acc) h_x3).of
      revert h1
      dsimp only
      generalize rqXlat x3 r x4 _ acc = w
      intro h1
      obtain ⟨w, s1⟩ := w
      cases w
      · exact keepsSnd_mk (ih h1).of
      · exact keepsSnd_mk (ih h1).of
      · exact keepsSnd_mk h1

theorem rqSpan_keeps {z0 : State} {s : State} {r : Rq} {va : Nat} {n : Nat} {acc : Machine.Acc} (h_s : Keeps z0 s) :
    KeepsSnd z0 (rqSpan s r va n acc) := by
  exact rqSpanN_keeps h_s

theorem rqFault_keeps {z0 : State} {s : State} {r : Rq} {acc : Machine.Acc} {k : XKind} {level : Nat} {pte : W64} {va : Nat} (h_s : Keeps z0 s) :
    Keeps z0 (rqFault s r acc k level pte va) := by
  unfold rqFault
  try dsimp only
  repeat' first
    | with_reducible assumption
    | intro _
    | with_reducible apply sumpFault_keeps

theorem portRead_keeps {z0 : State} {s : State} {p : Port} {a : Nat} {n : Nat} (h_s : Keeps z0 s) :
    KeepsThd z0 (portRead s p a n) := by
  cases p
  · exact moverRead_keeps h_s
  · exact homeRead_keeps h_s

theorem portWrite_keeps {z0 : State} {s : State} {p : Port} {a : Nat} {bs : List Byte} (h_s : Keeps z0 s) :
    Keeps z0 (portWrite s p a bs) := by
  cases p
  · exact moverWriteN_keeps h_s
  · exact homeWrite_keeps h_s

theorem askRuns_keeps {z0 : State} {s : State} {rid : Nat} {flow : Nat} {ga : Nat} {n : Nat} (h_s : Keeps z0 s) :
    KeepsSnd z0 (askRuns s rid flow ga n) := by
  unfold askRuns
  dsimp only
  split
  · exact keepsSnd_mk h_s
  · refine keepsSnd_mk (keeps_foldl ?_ h_s)
    intro t a h
    split
    · exact h
    · simp only [keeps_mk_iff]
      exact enqueue_keeps h

theorem rqRefused_keeps {z0 : State} {s : State} {r : Rq} {va : Nat} {ga : Nat} {n : Nat} (h_s : Keeps z0 s) :
    Keeps z0 (rqRefused s r va ga n) := by
  unfold rqRefused
  dsimp only
  apply rqFault_keeps
  exact keeps_mk h_s rfl rfl rfl rfl rfl

theorem runHead_keeps {z0 : State} {s : State} {r : Rq} {w : Where} {va n : Nat} (h : Keeps z0 s) :
    KeepsSnd z0 (match w with
      | .pa a =>
        let (bs, p, t) := portRead s r.port a n
        (some (bs, p), t)
      | .win f ga =>
        match askRuns s r.rid f ga n with
        | (none, t) => (none, t)
        | (some (l, p), t) =>
          if l.any List.isEmpty then (none, rqRefused t r va ga n) else (some (l.flatten, p), t)
      | .fault _ _ _ => (none, s) : Option (List Byte × Bool) × State) := by
  cases w with
  | pa a => exact keepsSnd_mk (portRead_keeps h).of
  | win f ga =>
    have h1 := (askRuns_keeps (rid := r.rid) (flow := f) (ga := ga) (n := n) h).of
    revert h1
    dsimp only
    generalize askRuns s r.rid f ga n = w
    intro h1
    obtain ⟨o, t⟩ := w
    cases o
    · exact keepsSnd_mk h1
    · exact keepsSnd_ite (keepsSnd_mk (rqRefused_keeps h1)) (keepsSnd_mk h1)
  | fault k l p => exact keepsSnd_mk h

theorem readRuns_keeps {z0 : State} {r : Rq} {x1 : List (Where × Nat)} {x2 : State} {x3 : Nat} (h_x2 : Keeps z0 x2) :
    KeepsSnd z0 (readRuns r x1 x2 x3) := by
  induction x1 generalizing x2 x3 with
  | nil => exact keepsSnd_mk h_x2
  | cons y ys ih =>
    obtain ⟨w, n⟩ := y
    have h1 := (runHead_keeps (r := r) (w := w) (va := x3) (n := n) h_x2).of
    unfold readRuns
    dsimp only
    exact keepsSnd_mk (ih h1).of

theorem rqRead_keeps {z0 : State} {s : State} {r : Rq} {va : Nat} {n : Nat} (h_s : Keeps z0 s) :
    KeepsSnd z0 (rqRead s r va n) := by
  unfold rqRead
  have h1 := (rqSpan_keeps (r := r) (va := va) (n := n) (acc := .rd) h_s).of
  revert h1
  generalize rqSpan s r va n .rd = w
  intro h1
  obtain ⟨sp, s1⟩ := w
  dsimp only
  split
  · exact keepsSnd_mk (rqFault_keeps h1)
  · exact readRuns_keeps h1

theorem writeRuns_keeps {z0 : State} {r : Rq} {x1 : List (Where × Nat)} {x2 : State} {x3 : List Byte} (h_x2 : Keeps z0 x2) :
    Keeps z0 (writeRuns r x1 x2 x3) := by
  induction x1 generalizing x2 x3 with
  | nil => exact h_x2
  | cons y ys ih =>
    obtain ⟨w, n⟩ := y
    unfold writeRuns
    refine ih ?_
    cases w
    · exact portWrite_keeps h_x2
    · exact enqueueWrites_keeps h_x2
    · exact h_x2

theorem rqWrite_keeps {z0 : State} {s : State} {r : Rq} {va : Nat} {bs : List Byte} (h_s : Keeps z0 s) :
    KeepsSnd z0 (rqWrite s r va bs) := by
  unfold rqWrite
  have h1 := (rqSpan_keeps (r := r) (va := va) (n := bs.length) (acc := .wr) h_s).of
  revert h1
  generalize rqSpan s r va bs.length .wr = w
  intro h1
  obtain ⟨sp, s1⟩ := w
  dsimp only
  split
  · exact keepsSnd_mk (rqFault_keeps h1)
  · exact keepsSnd_mk (writeRuns_keeps h1)

theorem rqReads_keeps {z0 : State} {r : Rq} {x1 : List (Nat × Nat)} {x2 : State} (h_x2 : Keeps z0 x2) :
    KeepsSnd z0 (rqReads r x1 x2) := by
  induction x1 generalizing x2 with
  | nil => exact keepsSnd_mk h_x2
  | cons y ys ih =>
    obtain ⟨va, n⟩ := y
    unfold rqReads
    have h1 := (rqRead_keeps (r := r) (va := va) (n := n) h_x2).of
    revert h1
    generalize rqRead x2 r va n = w
    intro h1
    obtain ⟨o, s1⟩ := w
    cases o with
    | none => exact keepsSnd_mk h1
    | some p =>
      obtain ⟨bs, q⟩ := p
      have h2 := (ih h1).of
      revert h2
      dsimp only
      generalize rqReads r ys s1 = w
      intro h2
      obtain ⟨o, s2⟩ := w
      cases o <;> exact keepsSnd_mk h2

theorem rqProbe_keeps {z0 : State} {r : Rq} {x1 : List (Nat × Nat)} {x2 : State} (h_x2 : Keeps z0 x2) :
    KeepsSnd z0 (rqProbe r x1 x2) := by
  induction x1 generalizing x2 with
  | nil => exact keepsSnd_mk h_x2
  | cons y ys ih =>
    obtain ⟨va, n⟩ := y
    unfold rqProbe
    have h1 := (rqSpan_keeps (r := r) (va := va) (n := n) (acc := .wr) h_x2).of
    revert h1
    generalize rqSpan x2 r va n .wr = w
    intro h1
    obtain ⟨sp, s1⟩ := w
    dsimp only
    split
    · exact keepsSnd_mk (rqFault_keeps h1)
    · exact ih h1

theorem rqWrites_keeps {z0 : State} {s : State} {r : Rq} {l : List (Nat × List Byte)} (h_s : Keeps z0 s) :
    KeepsSnd z0 (rqWrites s r l) := by
  unfold rqWrites
  have h1 := (rqProbe_keeps (r := r) (x1 := l.map (fun p => (p.1, p.2.length))) h_s).of
  revert h1
  generalize rqProbe r _ s = w
  intro h1
  obtain ⟨ok, s1⟩ := w
  cases ok
  · exact keepsSnd_mk h1
  · exact keepsSnd_mk (keeps_foldl (fun t a h => (rqWrite_keeps h).of) h1)

theorem rqPrefetch_keeps {z0 : State} {r : Rq} {pages : List Nat} {s : State} (h_s : Keeps z0 s) :
    Keeps z0 (rqPrefetch r pages s) := by
  exact keeps_foldl (fun t a h => (rqXlat_keeps h).of) h_s

theorem dropFetched_keeps {z0 : State} {s : State} {rid : Nat} (h_s : Keeps z0 s) :
    Keeps z0 (dropFetched s rid) := by
  unfold dropFetched
  simp only [keeps_mk_iff]
  exact h_s

/-! ### GroupOps -/

theorem setGrp_keeps {z0 : State} {s : State} {u : Nat} {h : Nat} {g : Option Group} (h_s : Keeps z0 s) :
    Keeps z0 (State.setGrp s u h g) := by
  unfold State.setGrp
  try dsimp only
  repeat' first
    | with_reducible assumption
    | intro _
    | with_reducible apply keepsOpt_some
    | with_reducible exact keepsOpt_none
    | with_reducible apply keepsOpt_map
    | simp only [keeps_mk_iff]
    | (with_reducible apply keeps_all (by assumption) <;> first | exact id | exact wf_put _ _ _ _ | exact wf_memPut _ _ _ | exact wf_memPutMask _ _ _ _ | exact wf_dropKeys _ _ _ | exact fun _ => rfl)

theorem setVreg_keeps {z0 : State} {s : State} {u : Nat} {h : Nat} {r : Nat} {t : Nat} {v : Nat} (h_s : Keeps z0 s) :
    Keeps z0 (State.setVreg s u h r t v) := by
  unfold State.setVreg
  try dsimp only
  repeat' first
    | with_reducible assumption
    | intro _
    | simp only [keeps_mk_iff]
    | (with_reducible apply keeps_all (by assumption) <;> first | exact id | exact wf_put _ _ _ _ | exact wf_memPut _ _ _ | exact wf_memPutMask _ _ _ _ | exact wf_dropKeys _ _ _ | exact fun _ => rfl)

theorem writeThreads_keeps {z0 : State} {s : State} {u : Nat} {h : Nat} {r : Nat} {f : Nat → Nat} {ts : List Nat} (h_s : Keeps z0 s) :
    Keeps z0 (writeThreads s u h r f ts) := by
  unfold writeThreads
  try dsimp only
  repeat' first
    | with_reducible assumption
    | intro _
    | with_reducible apply setVreg_keeps
    | with_reducible apply keeps_foldl

theorem clearRegs_keeps {z0 : State} {s : State} {u : Nat} {h : Nat} (h_s : Keeps z0 s) :
    Keeps z0 (clearRegs s u h) := by
  unfold clearRegs
  try dsimp only
  repeat' first
    | with_reducible assumption
    | intro _
    | simp only [keeps_mk_iff]
    | (with_reducible apply keeps_all (by assumption) <;> first | exact id | exact wf_put _ _ _ _ | exact wf_memPut _ _ _ | exact wf_memPutMask _ _ _ _ | exact wf_dropKeys _ _ _ | exact fun _ => rfl)

theorem lsStore_keeps {z0 : State} {s : State} {u : Nat} {a : Nat} {bs : List Byte} (h_s : Keeps z0 s) :
    Keeps z0 (lsStore s u a bs) := by
  unfold lsStore
  try dsimp only
  repeat' first
    | with_reducible assumption
    | intro _
    | with_reducible apply lsPuts_keeps
    | with_reducible apply setCu_keeps
    | with_reducible apply keeps_ite
    | with_reducible apply keepsOpt_some
    | with_reducible exact keepsOpt_none
    | with_reducible apply keepsOpt_map
    | simp only [keeps_mk_iff]
    | split

theorem groupFault_keeps {z0 : State} {s : State} {u : Nat} {h : Nat} {cause : Nat} {tag : Nat} (h_s : Keeps z0 s) :
    Keeps z0 (groupFault s u h cause tag) := by
  unfold groupFault
  try dsimp only
  repeat' first
    | with_reducible assumption
    | intro _
    | with_reducible apply setReg_keeps
    | with_reducible apply countEv_keeps
    | with_reducible apply setItem_keeps
    | with_reducible apply keeps_ite
    | with_reducible apply keepsOpt_some
    | with_reducible exact keepsOpt_none
    | with_reducible apply keepsOpt_map
    | simp only [keeps_mk_iff]
    | split

theorem itemFault_keeps {z0 : State} {s : State} {n : Nat} {it : Item} {aspace : Nat} {va : Nat} {k : XKind} {level : Nat} {pte : W64} {acc : Machine.Acc} {w : Waiter} (h_s : Keeps z0 s) :
    Keeps z0 (itemFault s n it aspace va k level pte acc w) := by
  unfold itemFault
  try dsimp only
  repeat' first
    | with_reducible assumption
    | intro _
    | with_reducible apply sumpFault_keeps

theorem tryBarrier_keeps {z0 : State} {s : State} {u : Nat} {item : Nat} {n : Nat} (h_s : Keeps z0 s) :
    Keeps z0 (tryBarrier s u item n) := by
  unfold tryBarrier
  try dsimp only
  repeat' first
    | with_reducible assumption
    | intro _
    | with_reducible apply setGrp_keeps
    | with_reducible apply keeps_ite
    | with_reducible apply keepsOpt_some
    | with_reducible exact keepsOpt_none
    | with_reducible apply keepsOpt_map
    | with_reducible apply keeps_foldl

theorem tryBarriers_keeps {z0 : State} {s : State} {u : Nat} {item : Nat} (h_s : Keeps z0 s) :
    Keeps z0 (tryBarriers s u item) := by
  unfold tryBarriers
  try dsimp only
  repeat' first
    | with_reducible assumption
    | intro _
    | with_reducible apply tryBarrier_keeps
    | with_reducible apply keeps_foldl

theorem issue_keeps {z0 : State} {u : Nat} {h : Nat} {op : Nat} {f : GFields} {use : GUse} {body : Group → Item → State → Option State} {s : State} (h_s : Keeps z0 s) (k_body : ∀ (y1 : Group) (y2 : Item) (y3 : State), Keeps z0 y3 → KeepsOpt z0 (body y1 y2 y3)) :
    KeepsOut z0 (issue u h op f use body s) := by
  unfold issue
  try dsimp only
  repeat' first
    | with_reducible assumption
    | intro _
    | with_reducible apply whenLive_keeps
    | with_reducible apply countEv_keeps
    | with_reducible apply groupFault_keeps
    | with_reducible apply k_body
    | with_reducible apply keeps_ite
    | with_reducible apply keepsOut_ite
    | with_reducible apply keepsOut_next
    | with_reducible apply keepsOpt_some
    | with_reducible exact keepsOpt_none
    | with_reducible apply keepsOpt_map
    | simp only [keeps_mk_iff]
    | with_reducible refine keepsOpt_eq (by with_reducible assumption) ?_
    | split

theorem nextPc_keeps {z0 : State} {u : Nat} {h : Nat} {g : Group} {s : State} (h_s : Keeps z0 s) :
    Keeps z0 (nextPc u h g s) := by
  unfold nextPc
  try dsimp only
  repeat' first
    | with_reducible assumption
    | intro _
    | with_reducible apply setGrp_keeps

theorem issueAlu_keeps {z0 : State} {u : Nat} {h : Nat} {op : Nat} {f : GFields} {use : GUse} {val : State → Nat → Nat} {s : State} (h_s : Keeps z0 s) :
    KeepsOut z0 (issueAlu u h op f use val s) := by
  unfold issueAlu
  try dsimp only
  repeat' first
    | with_reducible assumption
    | intro _
    | with_reducible apply issue_keeps
    | with_reducible apply nextPc_keeps
    | with_reducible apply writeThreads_keeps
    | with_reducible apply keepsOut_next
    | with_reducible apply keepsOpt_some

theorem alu2_keeps {z0 : State} {u : Nat} {h : Nat} {op : Nat} {f : GFields} {g : Nat → Nat → Nat} {s : State} (h_s : Keeps z0 s) :
    KeepsOut z0 (alu2 u h op f g s) := by
  unfold alu2
  try dsimp only
  repeat' first
    | with_reducible assumption
    | intro _
    | with_reducible apply issueAlu_keeps

theorem alu1_keeps {z0 : State} {u : Nat} {h : Nat} {op : Nat} {f : GFields} {g : Nat → Nat} {s : State} (h_s : Keeps z0 s) :
    KeepsOut z0 (alu1 u h op f g s) := by
  unfold alu1
  try dsimp only
  repeat' first
    | with_reducible assumption
    | intro _
    | with_reducible apply issueAlu_keeps

/-! ### GroupAlu -/

theorem execGroupNop_keeps {z0 : State} {u : Nat} {h : Nat} {f : GFields} {s : State} (h_s : Keeps z0 s) :
    KeepsOut z0 (execGroupNop u h f s) := by
  unfold execGroupNop
  try dsimp only
  repeat' first
    | with_reducible assumption
    | intro _
    | with_reducible apply whenLive_keeps
    | with_reducible apply countEv_keeps
    | with_reducible apply groupFault_keeps
    | with_reducible apply issue_keeps
    | with_reducible apply nextPc_keeps
    | with_reducible apply keeps_ite
    | with_reducible apply keepsOut_ite
    | with_reducible apply keepsOut_next
    | with_reducible apply keepsOpt_some
    | with_reducible exact keepsOpt_none
    | with_reducible apply keepsOpt_map
    | simp only [keeps_mk_iff]
    | split

theorem execIadd_keeps {z0 : State} {u : Nat} {h : Nat} {f : GFields} {s : State} (h_s : Keeps z0 s) :
    KeepsOut z0 (execIadd u h f s) := by
  unfold execIadd
  try dsimp only
  repeat' first
    | with_reducible assumption
    | intro _
    | with_reducible apply alu2_keeps

theorem execIsub_keeps {z0 : State} {u : Nat} {h : Nat} {f : GFields} {s : State} (h_s : Keeps z0 s) :
    KeepsOut z0 (execIsub u h f s) := by
  unfold execIsub
  try dsimp only
  repeat' first
    | with_reducible assumption
    | intro _
    | with_reducible apply alu2_keeps

theorem execImul_keeps {z0 : State} {u : Nat} {h : Nat} {f : GFields} {s : State} (h_s : Keeps z0 s) :
    KeepsOut z0 (execImul u h f s) := by
  unfold execImul
  try dsimp only
  repeat' first
    | with_reducible assumption
    | intro _
    | with_reducible apply alu2_keeps

theorem execAnd_keeps {z0 : State} {u : Nat} {h : Nat} {f : GFields} {s : State} (h_s : Keeps z0 s) :
    KeepsOut z0 (execAnd u h f s) := by
  unfold execAnd
  try dsimp only
  repeat' first
    | with_reducible assumption
    | intro _
    | with_reducible apply alu2_keeps

theorem execOr_keeps {z0 : State} {u : Nat} {h : Nat} {f : GFields} {s : State} (h_s : Keeps z0 s) :
    KeepsOut z0 (execOr u h f s) := by
  unfold execOr
  try dsimp only
  repeat' first
    | with_reducible assumption
    | intro _
    | with_reducible apply alu2_keeps

theorem execXor_keeps {z0 : State} {u : Nat} {h : Nat} {f : GFields} {s : State} (h_s : Keeps z0 s) :
    KeepsOut z0 (execXor u h f s) := by
  unfold execXor
  try dsimp only
  repeat' first
    | with_reducible assumption
    | intro _
    | with_reducible apply alu2_keeps

theorem execShl_keeps {z0 : State} {u : Nat} {h : Nat} {f : GFields} {s : State} (h_s : Keeps z0 s) :
    KeepsOut z0 (execShl u h f s) := by
  unfold execShl
  try dsimp only
  repeat' first
    | with_reducible assumption
    | intro _
    | with_reducible apply alu2_keeps

theorem execShr_keeps {z0 : State} {u : Nat} {h : Nat} {f : GFields} {s : State} (h_s : Keeps z0 s) :
    KeepsOut z0 (execShr u h f s) := by
  unfold execShr
  try dsimp only
  repeat' first
    | with_reducible assumption
    | intro _
    | with_reducible apply alu2_keeps

theorem execSra_keeps {z0 : State} {u : Nat} {h : Nat} {f : GFields} {s : State} (h_s : Keeps z0 s) :
    KeepsOut z0 (execSra u h f s) := by
  unfold execSra
  try dsimp only
  repeat' first
    | with_reducible assumption
    | intro _
    | with_reducible apply alu2_keeps

theorem execIsetlt_keeps {z0 : State} {u : Nat} {h : Nat} {f : GFields} {s : State} (h_s : Keeps z0 s) :
    KeepsOut z0 (execIsetlt u h f s) := by
  unfold execIsetlt
  try dsimp only
  repeat' first
    | with_reducible assumption
    | intro _
    | with_reducible apply alu2_keeps

theorem execIseteq_keeps {z0 : State} {u : Nat} {h : Nat} {f : GFields} {s : State} (h_s : Keeps z0 s) :
    KeepsOut z0 (execIseteq u h f s) := by
  unfold execIseteq
  try dsimp only
  repeat' first
    | with_reducible assumption
    | intro _
    | with_reducible apply alu2_keeps

theorem execIaddi_keeps {z0 : State} {u : Nat} {h : Nat} {f : GFields} {s : State} (h_s : Keeps z0 s) :
    KeepsOut z0 (execIaddi u h f s) := by
  unfold execIaddi
  try dsimp only
  repeat' first
    | with_reducible assumption
    | intro _
    | with_reducible apply issueAlu_keeps

theorem execMovi_keeps {z0 : State} {u : Nat} {h : Nat} {f : GFields} {s : State} (h_s : Keeps z0 s) :
    KeepsOut z0 (execMovi u h f s) := by
  unfold execMovi
  try dsimp only
  repeat' first
    | with_reducible assumption
    | intro _
    | with_reducible apply issueAlu_keeps

theorem execOrhi_keeps {z0 : State} {u : Nat} {h : Nat} {f : GFields} {s : State} (h_s : Keeps z0 s) :
    KeepsOut z0 (execOrhi u h f s) := by
  unfold execOrhi
  try dsimp only
  repeat' first
    | with_reducible assumption
    | intro _
    | with_reducible apply issueAlu_keeps

theorem execFadd_keeps {z0 : State} {u : Nat} {h : Nat} {f : GFields} {s : State} (h_s : Keeps z0 s) :
    KeepsOut z0 (execFadd u h f s) := by
  unfold execFadd
  try dsimp only
  repeat' first
    | with_reducible assumption
    | intro _
    | with_reducible apply alu2_keeps

theorem execFmul_keeps {z0 : State} {u : Nat} {h : Nat} {f : GFields} {s : State} (h_s : Keeps z0 s) :
    KeepsOut z0 (execFmul u h f s) := by
  unfold execFmul
  try dsimp only
  repeat' first
    | with_reducible assumption
    | intro _
    | with_reducible apply alu2_keeps

theorem execFfma_keeps {z0 : State} {u : Nat} {h : Nat} {f : GFields} {s : State} (h_s : Keeps z0 s) :
    KeepsOut z0 (execFfma u h f s) := by
  unfold execFfma
  try dsimp only
  repeat' first
    | with_reducible assumption
    | intro _
    | with_reducible apply issueAlu_keeps

theorem execFmin_keeps {z0 : State} {u : Nat} {h : Nat} {f : GFields} {s : State} (h_s : Keeps z0 s) :
    KeepsOut z0 (execFmin u h f s) := by
  unfold execFmin
  try dsimp only
  repeat' first
    | with_reducible assumption
    | intro _
    | with_reducible apply alu2_keeps

theorem execFmax_keeps {z0 : State} {u : Nat} {h : Nat} {f : GFields} {s : State} (h_s : Keeps z0 s) :
    KeepsOut z0 (execFmax u h f s) := by
  unfold execFmax
  try dsimp only
  repeat' first
    | with_reducible assumption
    | intro _
    | with_reducible apply alu2_keeps

theorem execFsetlt_keeps {z0 : State} {u : Nat} {h : Nat} {f : GFields} {s : State} (h_s : Keeps z0 s) :
    KeepsOut z0 (execFsetlt u h f s) := by
  unfold execFsetlt
  try dsimp only
  repeat' first
    | with_reducible assumption
    | intro _
    | with_reducible apply alu2_keeps

theorem execFdiv_keeps {z0 : State} {u : Nat} {h : Nat} {f : GFields} {s : State} (h_s : Keeps z0 s) :
    KeepsOut z0 (execFdiv u h f s) := by
  unfold execFdiv
  try dsimp only
  repeat' first
    | with_reducible assumption
    | intro _
    | with_reducible apply alu2_keeps

theorem execFsqrt_keeps {z0 : State} {u : Nat} {h : Nat} {f : GFields} {s : State} (h_s : Keeps z0 s) :
    KeepsOut z0 (execFsqrt u h f s) := by
  unfold execFsqrt
  try dsimp only
  repeat' first
    | with_reducible assumption
    | intro _
    | with_reducible apply alu1_keeps

theorem execCvtif_keeps {z0 : State} {u : Nat} {h : Nat} {f : GFields} {s : State} (h_s : Keeps z0 s) :
    KeepsOut z0 (execCvtif u h f s) := by
  unfold execCvtif
  try dsimp only
  repeat' first
    | with_reducible assumption
    | intro _
    | with_reducible apply alu1_keeps

theorem execCvtfi_keeps {z0 : State} {u : Nat} {h : Nat} {f : GFields} {s : State} (h_s : Keeps z0 s) :
    KeepsOut z0 (execCvtfi u h f s) := by
  unfold execCvtfi
  try dsimp only
  repeat' first
    | with_reducible assumption
    | intro _
    | with_reducible apply alu1_keeps

theorem execCvtfn_keeps {z0 : State} {u : Nat} {h : Nat} {f : GFields} {s : State} (h_s : Keeps z0 s) :
    KeepsOut z0 (execCvtfn u h f s) := by
  unfold execCvtfn
  try dsimp only
  repeat' first
    | with_reducible assumption
    | intro _
    | with_reducible apply issue_keeps
    | with_reducible apply groupFault_keeps
    | with_reducible apply nextPc_keeps
    | with_reducible apply writeThreads_keeps
    | with_reducible apply keeps_ite
    | with_reducible apply keepsOut_ite
    | with_reducible apply keepsOut_next
    | with_reducible apply keepsOpt_some
    | with_reducible exact keepsOpt_none
    | with_reducible apply keepsOpt_map
    | simp only [keeps_mk_iff]
    | split

theorem execCvtnf_keeps {z0 : State} {u : Nat} {h : Nat} {f : GFields} {s : State} (h_s : Keeps z0 s) :
    KeepsOut z0 (execCvtnf u h f s) := by
  unfold execCvtnf
  try dsimp only
  repeat' first
    | with_reducible assumption
    | intro _
    | with_reducible apply issue_keeps
    | with_reducible apply groupFault_keeps
    | with_reducible apply nextPc_keeps
    | with_reducible apply writeThreads_keeps
    | with_reducible apply keepsOut_next
    | with_reducible apply keepsOpt_some
    | with_reducible exact keepsOpt_none
    | with_reducible apply keepsOpt_map
    | simp only [keeps_mk_iff]
    | split

theorem execShfl_keeps {z0 : State} {u : Nat} {h : Nat} {f : GFields} {s : State} (h_s : Keeps z0 s) :
    KeepsOut z0 (execShfl u h f s) := by
  unfold execShfl
  try dsimp only
  repeat' first
    | with_reducible assumption
    | intro _
    | with_reducible apply issue_keeps
    | with_reducible apply groupFault_keeps
    | with_reducible apply nextPc_keeps
    | with_reducible apply writeThreads_keeps
    | with_reducible apply keeps_ite
    | with_reducible apply keepsOut_ite
    | with_reducible apply keepsOut_next
    | with_reducible apply keepsOpt_some
    | with_reducible exact keepsOpt_none
    | with_reducible apply keepsOpt_map
    | split

theorem execSpec_keeps {z0 : State} {u : Nat} {h : Nat} {f : GFields} {s : State} (h_s : Keeps z0 s) :
    KeepsOut z0 (execSpec u h f s) := by
  unfold execSpec
  try dsimp only
  repeat' first
    | with_reducible assumption
    | intro _
    | with_reducible apply issue_keeps
    | with_reducible apply nextPc_keeps
    | with_reducible apply writeThreads_keeps
    | with_reducible apply groupFault_keeps
    | with_reducible apply keeps_ite
    | with_reducible apply keepsOut_ite
    | with_reducible apply keepsOut_next
    | with_reducible apply keepsOpt_some
    | with_reducible exact keepsOpt_none
    | with_reducible apply keepsOpt_map
    | split

theorem execTrap_keeps {z0 : State} {u : Nat} {h : Nat} {f : GFields} {s : State} (h_s : Keeps z0 s) :
    KeepsOut z0 (execTrap u h f s) := by
  unfold execTrap
  try dsimp only
  repeat' first
    | with_reducible assumption
    | intro _
    | with_reducible apply issue_keeps
    | with_reducible apply groupFault_keeps
    | with_reducible apply keepsOut_next
    | with_reducible apply keepsOpt_some

/-! ### GroupMem -/

theorem lsRead_keeps {z0 : State} {s : State} {u : Nat} {sectors : List Nat} (h_s : Keeps z0 s) :
    KeepsSnd z0 (lsRead s u sectors) := by
  unfold lsRead
  try dsimp only
  repeat' first
    | with_reducible assumption
    | intro _
    | with_reducible apply unitError_keeps
    | with_reducible apply disarm_keeps
    | with_reducible apply countEv_keeps
    | with_reducible apply keeps_ite
    | with_reducible apply keepsSnd_ite
    | with_reducible apply keepsSnd_mk
    | with_reducible apply KeepsSnd.of
    | with_reducible refine keepsSnd_eq (by with_reducible assumption) ?_
    | split

theorem execLdl_keeps {z0 : State} {u : Nat} {h : Nat} {f : GFields} {s : State} (h_s : Keeps z0 s) :
    KeepsOut z0 (execLdl u h f s) := by
  unfold execLdl
  try dsimp only
  repeat' first
    | with_reducible assumption
    | intro _
    | with_reducible apply issue_keeps
    | with_reducible apply groupFault_keeps
    | with_reducible apply lsRead_keeps
    | with_reducible apply nextPc_keeps
    | with_reducible apply countEv_keeps
    | with_reducible apply setVreg_keeps
    | with_reducible apply keeps_ite
    | with_reducible apply keepsOut_ite
    | with_reducible apply keepsOut_next
    | with_reducible apply keepsOpt_some
    | with_reducible exact keepsOpt_none
    | with_reducible apply keepsOpt_map
    | with_reducible apply keeps_foldl
    | simp only [keeps_mk_iff]
    | with_reducible apply KeepsSnd.of
    | with_reducible refine keepsSnd_eq (by with_reducible assumption) ?_
    | split

theorem lsMerge_keeps {z0 : State} {s : State} {u : Nat} {l : List (Nat × Byte)} (h_s : Keeps z0 s) :
    Keeps z0 (lsMerge s u l) := by
  unfold lsMerge
  try dsimp only
  repeat' first
    | with_reducible assumption
    | intro _
    | with_reducible apply takeFree_keeps
    | with_reducible apply lsStore_keeps
    | with_reducible apply keeps_foldl
    | with_reducible apply KeepsSnd.of

theorem execStl_keeps {z0 : State} {u : Nat} {h : Nat} {f : GFields} {s : State} (h_s : Keeps z0 s) :
    KeepsOut z0 (execStl u h f s) := by
  unfold execStl
  try dsimp only
  repeat' first
    | with_reducible assumption
    | intro _
    | with_reducible apply issue_keeps
    | with_reducible apply groupFault_keeps
    | with_reducible apply nextPc_keeps
    | with_reducible apply countEv_keeps
    | with_reducible apply lsMerge_keeps
    | with_reducible apply keepsOut_next
    | with_reducible apply keepsOpt_some
    | with_reducible exact keepsOpt_none
    | with_reducible apply keepsOpt_map
    | simp only [keeps_mk_iff]
    | split

theorem execAtoml_keeps {z0 : State} {u : Nat} {h : Nat} {f : GFields} {s : State} (h_s : Keeps z0 s) :
    KeepsOut z0 (execAtoml u h f s) := by
  unfold execAtoml
  try dsimp only
  repeat' first
    | with_reducible assumption
    | intro _
    | with_reducible apply issue_keeps
    | with_reducible apply groupFault_keeps
    | with_reducible apply lsRead_keeps
    | with_reducible apply setVreg_keeps
    | with_reducible apply lsStore_keeps
    | with_reducible apply nextPc_keeps
    | with_reducible apply countEv_keeps
    | with_reducible apply keeps_ite
    | with_reducible apply keepsOut_ite
    | with_reducible apply keepsOut_next
    | with_reducible apply keepsOpt_some
    | with_reducible exact keepsOpt_none
    | with_reducible apply keepsOpt_map
    | with_reducible apply keeps_foldl
    | simp only [keeps_mk_iff]
    | with_reducible apply KeepsSnd.of
    | with_reducible refine keepsSnd_eq (by with_reducible assumption) ?_
    | split

theorem placesOf_keeps {z0 : State} {s : State} {u : Nat} {aspace : Nat} {w : Nat} {acc : Machine.Acc} {x5 : List (Nat × Nat)} (h_s : Keeps z0 s) :
    KeepsThd z0 (placesOf s u aspace w acc x5) := by
  induction x5 generalizing s with
  | nil => exact keepsThd_mk h_s
  | cons y ys ih =>
    obtain ⟨t, va⟩ := y
    unfold placesOf
    have h1 := (unitXlat_keeps (u := u) (aspace := aspace) (va := va) (n := w) (acc := acc) h_s).of
    revert h1
    generalize unitXlat s u aspace va w acc = q
    intro h1
    obtain ⟨x, s1⟩ := q
    cases x
    · exact keepsThd_mk (ih h1).of
    · exact keepsThd_mk (ih h1).of
    · exact keepsThd_mk h1

theorem takeMiss_keeps {z0 : State} {s : State} {u : Nat} {line : Nat} {sectors : Nat} (h_s : Keeps z0 s) :
    KeepsOpt z0 (takeMiss s u line sectors) := by
  unfold takeMiss
  dsimp only
  split
  · split
    · exact keepsOpt_none
    · exact keepsOpt_some (countEv_keeps (setCu_keeps h_s))
  · split
    · exact keepsOpt_none
    · have h1 : KeepsOpt z0 (if ccWays s u = 0 then some s
          else match ccFind s u line with
            | some _ => some s
            | none => (ccAlloc s u line).map Prod.snd) := by
        split
        · exact keepsOpt_some h_s
        · split
          · exact keepsOpt_some h_s
          · exact keepsOpt_map (fun _ _ h => h) (ccAlloc_keeps h_s)
      revert h1
      generalize (if ccWays s u = 0 then some s else _ : Option State) = o
      intro h1
      cases o with
      | none => exact keepsOpt_none
      | some t => exact keepsOpt_some (countEv_keeps (setCu_keeps (h1.of t rfl)))

theorem takeMisses_keeps {z0 : State} {s : State} {u : Nat} {x2 : List Nat} (h_s : Keeps z0 s) :
    KeepsOpt z0 (takeMisses s u x2) := by
  induction x2 generalizing  s with
  | nil =>
    unfold takeMisses
    try dsimp only
    repeat' first
      | with_reducible assumption
      | intro _
      | with_reducible apply takeMiss_keeps
      | with_reducible apply takeMiss_keeps
      | with_reducible apply keepsOpt_some
  | cons y ys ih =>
    unfold takeMisses
    try dsimp only
    repeat' first
      | with_reducible assumption
      | intro _
      | with_reducible apply ih
      | with_reducible apply takeMiss_keeps
      | with_reducible apply takeMiss_keeps
      | with_reducible apply keepsOpt_some
      | with_reducible exact keepsOpt_none
      | with_reducible apply keepsOpt_map
      | simp only [keeps_mk_iff]
      | with_reducible refine keepsOpt_eq (by with_reducible assumption) ?_
      | split

theorem ccceFires_keeps {z0 : State} {s : State} {u : Nat} {hit : Bool} (h_s : Keeps z0 s) :
    Keeps z0 (ccceFires s u hit) := by
  unfold ccceFires
  try dsimp only
  repeat' first
    | with_reducible assumption
    | intro _
    | with_reducible apply raiseWith_keeps
    | with_reducible apply disarm_keeps
    | with_reducible apply keeps_ite

theorem execLdg_keeps {z0 : State} {u : Nat} {h : Nat} {f : GFields} {s : State} (h_s : Keeps z0 s) :
    KeepsOut z0 (execLdg u h f s) := by
  unfold execLdg
  try dsimp only
  repeat' first
    | with_reducible assumption
    | intro _
    | with_reducible apply issue_keeps
    | with_reducible apply groupFault_keeps
    | with_reducible apply placesOf_keeps
    | with_reducible apply itemFault_keeps
    | with_reducible apply ccueFires_keeps
    | with_reducible apply takeMisses_keeps
    | with_reducible apply ccTouch_keeps
    | with_reducible apply ccceFires_keeps
    | with_reducible apply countEv_keeps
    | with_reducible apply nextPc_keeps
    | with_reducible apply setVreg_keeps
    | with_reducible apply enqueue_keeps
    | with_reducible apply setCu_keeps
    | with_reducible apply keeps_ite
    | with_reducible apply keepsOut_ite
    | with_reducible apply keepsOut_next
    | with_reducible apply keepsOpt_some
    | with_reducible exact keepsOpt_none
    | with_reducible apply keepsOpt_map
    | with_reducible apply keeps_foldl
    | simp only [keeps_mk_iff]
    | with_reducible apply KeepsThd.of
    | with_reducible refine keepsThd_eq (by with_reducible assumption) ?_
    | with_reducible refine keepsOpt_eq (by with_reducible assumption) ?_
    | split

theorem ccStores_keeps {z0 : State} {s : State} {u : Nat} {x2 : List (Nat × Byte)} (h_s : Keeps z0 s) :
    KeepsOpt z0 (ccStores s u x2) := by
  induction x2 generalizing  s with
  | nil =>
    unfold ccStores
    try dsimp only
    repeat' first
      | with_reducible assumption
      | intro _
      | with_reducible apply ccStore_keeps
      | with_reducible apply ccStore_keeps
      | with_reducible apply keepsOpt_some
  | cons y ys ih =>
    unfold ccStores
    try dsimp only
    repeat' first
      | with_reducible assumption
      | intro _
      | with_reducible apply ih
      | with_reducible apply ccStore_keeps
      | with_reducible apply ccStore_keeps
      | with_reducible apply keepsOpt_some
      | with_reducible exact keepsOpt_none
      | with_reducible apply keepsOpt_map
      | simp only [keeps_mk_iff]
      | with_reducible refine keepsOpt_eq (by with_reducible assumption) ?_
      | split

theorem execStg_keeps {z0 : State} {u : Nat} {h : Nat} {f : GFields} {s : State} (h_s : Keeps z0 s) :
    KeepsOut z0 (execStg u h f s) := by
  unfold execStg
  try dsimp only
  repeat' first
    | with_reducible assumption
    | intro _
    | with_reducible apply issue_keeps
    | with_reducible apply groupFault_keeps
    | with_reducible apply placesOf_keeps
    | with_reducible apply itemFault_keeps
    | with_reducible apply takeFree_keeps
    | with_reducible apply ccStores_keeps
    | with_reducible apply enqueue_keeps
    | with_reducible apply nextPc_keeps
    | with_reducible apply countEv_keeps
    | with_reducible apply keeps_ite
    | with_reducible apply keepsOut_ite
    | with_reducible apply keepsOut_next
    | with_reducible apply keepsOpt_some
    | with_reducible exact keepsOpt_none
    | with_reducible apply keepsOpt_map
    | with_reducible apply keeps_foldl
    | simp only [keeps_mk_iff]
    | with_reducible apply KeepsThd.of
    | with_reducible apply KeepsSnd.of
    | with_reducible refine keepsThd_eq (by with_reducible assumption) ?_
    | with_reducible refine keepsSnd_eq (by with_reducible assumption) ?_
    | with_reducible refine keepsOpt_eq (by with_reducible assumption) ?_
    | split

theorem execAtomg_keeps {z0 : State} {u : Nat} {h : Nat} {f : GFields} {s : State} (h_s : Keeps z0 s) :
    KeepsOut z0 (execAtomg u h f s) := by
  unfold execAtomg
  try dsimp only
  repeat' first
    | with_reducible assumption
    | intro _
    | with_reducible apply issue_keeps
    | with_reducible apply groupFault_keeps
    | with_reducible apply unitXlat_keeps
    | with_reducible apply itemFault_keeps
    | with_reducible apply nextPc_keeps
    | with_reducible apply countEv_keeps
    | with_reducible apply setItem_keeps
    | with_reducible apply keeps_ite
    | with_reducible apply keepsOut_ite
    | with_reducible apply keepsOut_next
    | with_reducible apply keepsOpt_some
    | with_reducible exact keepsOpt_none
    | with_reducible apply keepsOpt_map
    | simp only [keeps_mk_iff]
    | with_reducible apply KeepsSnd.of
    | with_reducible refine keepsSnd_eq (by with_reducible assumption) ?_
    | split

theorem execMfenceOrder_keeps {z0 : State} {u : Nat} {h : Nat} {f : GFields} {s : State} (h_s : Keeps z0 s) :
    KeepsOut z0 (execMfenceOrder u h f s) := by
  unfold execMfenceOrder
  try dsimp only
  repeat' first
    | with_reducible assumption
    | intro _
    | with_reducible apply issue_keeps
    | with_reducible apply nextPc_keeps
    | with_reducible apply keeps_ite
    | with_reducible apply keepsOut_ite
    | with_reducible apply keepsOut_next
    | with_reducible apply keepsOpt_some
    | with_reducible exact keepsOpt_none
    | with_reducible apply keepsOpt_map
    | split

theorem execMfenceAcquire_keeps {z0 : State} {u : Nat} {h : Nat} {f : GFields} {s : State} (h_s : Keeps z0 s) :
    KeepsOut z0 (execMfenceAcquire u h f s) := by
  unfold execMfenceAcquire
  try dsimp only
  repeat' first
    | with_reducible assumption
    | intro _
    | with_reducible apply issue_keeps
    | with_reducible apply nextPc_keeps
    | with_reducible apply ccAcquire_keeps
    | with_reducible apply keeps_ite
    | with_reducible apply keepsOut_ite
    | with_reducible apply keepsOut_next
    | with_reducible apply keepsOpt_some
    | with_reducible exact keepsOpt_none
    | with_reducible apply keepsOpt_map
    | split

theorem execMfenceRelease_keeps {z0 : State} {u : Nat} {h : Nat} {f : GFields} {s : State} (h_s : Keeps z0 s) :
    KeepsOut z0 (execMfenceRelease u h f s) := by
  unfold execMfenceRelease
  try dsimp only
  repeat' first
    | with_reducible assumption
    | intro _
    | with_reducible apply issue_keeps
    | with_reducible apply ccRelease_keeps
    | with_reducible apply setGrp_keeps
    | with_reducible apply keeps_ite
    | with_reducible apply keepsOut_ite
    | with_reducible apply keepsOut_next
    | with_reducible apply keepsOpt_some
    | with_reducible exact keepsOpt_none
    | with_reducible apply keepsOpt_map
    | simp only [keeps_mk_iff]
    | split

theorem wakeAcks_keeps {z0 : State} {s : State} (h_s : Keeps z0 s) :
    Keeps z0 (wakeAcks s) := by
  unfold wakeAcks
  try dsimp only
  repeat' first
    | with_reducible assumption
    | intro _
    | with_reducible apply setGrp_keeps
    | with_reducible apply keeps_ite
    | with_reducible apply keepsOpt_some
    | with_reducible exact keepsOpt_none
    | with_reducible apply keepsOpt_map
    | with_reducible apply keeps_foldl
    | simp only [keeps_mk_iff]
    | split

theorem deliverLoad_keeps {z0 : State} {s : State} {u : Nat} {l : PendLoad} (h_s : Keeps z0 s) :
    Keeps z0 (deliverLoad s u l) := by
  unfold deliverLoad
  try dsimp only
  repeat' first
    | with_reducible assumption
    | intro _
    | with_reducible apply setVreg_keeps
    | with_reducible apply setCu_keeps
    | with_reducible apply keeps_ite
    | with_reducible apply keeps_foldl

theorem deliverAll_keeps {z0 : State} {s : State} {u : Nat} {val : LoadAt → Nat → Option Nat} (h_s : Keeps z0 s) :
    Keeps z0 (deliverAll s u val) := by
  unfold deliverAll
  try dsimp only
  repeat' first
    | with_reducible assumption
    | intro _
    | with_reducible apply deliverLoad_keeps
    | with_reducible apply setCu_keeps
    | with_reducible apply keepsOpt_some
    | with_reducible exact keepsOpt_none
    | with_reducible apply keepsOpt_map
    | with_reducible apply keeps_foldl
    | (with_reducible apply keeps_all (by assumption) <;> first | exact id | exact wf_put _ _ _ _ | exact wf_memPut _ _ _ | exact wf_memPutMask _ _ _ _ | exact wf_dropKeys _ _ _ | exact fun _ => rfl)

theorem poisonLoads_keeps {z0 : State} {s : State} {u : Nat} {line : Nat} (h_s : Keeps z0 s) :
    Keeps z0 (poisonLoads s u line) := by
  unfold poisonLoads
  try dsimp only
  repeat' first
    | with_reducible assumption
    | intro _
    | with_reducible apply setItem_keeps
    | with_reducible apply keepsOpt_some
    | with_reducible exact keepsOpt_none
    | with_reducible apply keepsOpt_map
    | with_reducible apply keeps_foldl
    | simp only [keeps_mk_iff]
    | split

theorem execCuCacheFill_keeps {z0 : State} {u : Nat} {line : Nat} {s : State} (h_s : Keeps z0 s) :
    KeepsOut z0 (execCuCacheFill u line s) := by
  unfold execCuCacheFill
  try dsimp only
  repeat' first
    | with_reducible assumption
    | intro _
    | with_reducible apply whenLive_keeps
    | with_reducible apply homeReadLine_keeps
    | with_reducible apply poisonLoads_keeps
    | with_reducible apply setSec_keeps
    | with_reducible apply ccTouch_keeps
    | with_reducible apply setCu_keeps
    | with_reducible apply deliverAll_keeps
    | with_reducible apply keeps_ite
    | with_reducible apply keepsOut_ite
    | with_reducible apply keepsOut_next
    | with_reducible apply keepsOpt_some
    | with_reducible exact keepsOpt_none
    | with_reducible apply keepsOpt_map
    | with_reducible apply keeps_foldl
    | simp only [keeps_mk_iff]
    | with_reducible apply KeepsSnd.of
    | with_reducible refine keepsSnd_eq (by with_reducible assumption) ?_
    | split

/-! ### GroupFlow -/

theorem execBra_keeps {z0 : State} {u : Nat} {h : Nat} {f : GFields} {s : State} (h_s : Keeps z0 s) :
    KeepsOut z0 (execBra u h f s) := by
  unfold execBra
  try dsimp only
  repeat' first
    | with_reducible assumption
    | intro _
    | with_reducible apply issue_keeps
    | with_reducible apply setGrp_keeps
    | with_reducible apply keepsOut_next
    | with_reducible apply keepsOpt_some

theorem execBrc_keeps {z0 : State} {u : Nat} {h : Nat} {f : GFields} {s : State} (h_s : Keeps z0 s) :
    KeepsOut z0 (execBrc u h f s) := by
  unfold execBrc
  try dsimp only
  repeat' first
    | with_reducible assumption
    | intro _
    | with_reducible apply issue_keeps
    | with_reducible apply nextPc_keeps
    | with_reducible apply setGrp_keeps
    | with_reducible apply groupFault_keeps
    | with_reducible apply countEv_keeps
    | with_reducible apply keeps_ite
    | with_reducible apply keepsOut_ite
    | with_reducible apply keepsOut_next
    | with_reducible apply keepsOpt_some
    | with_reducible exact keepsOpt_none
    | with_reducible apply keepsOpt_map
    | simp only [keeps_mk_iff]
    | split

theorem execJoin_keeps {z0 : State} {u : Nat} {h : Nat} {f : GFields} {s : State} (h_s : Keeps z0 s) :
    KeepsOut z0 (execJoin u h f s) := by
  unfold execJoin
  try dsimp only
  repeat' first
    | with_reducible assumption
    | intro _
    | with_reducible apply issue_keeps
    | with_reducible apply nextPc_keeps
    | with_reducible apply setGrp_keeps
    | with_reducible apply keeps_ite
    | with_reducible apply keepsOut_ite
    | with_reducible apply keepsOut_next
    | with_reducible apply keepsOpt_some
    | with_reducible exact keepsOpt_none
    | with_reducible apply keepsOpt_map
    | split

theorem execExit_keeps {z0 : State} {u : Nat} {h : Nat} {f : GFields} {s : State} (h_s : Keeps z0 s) :
    KeepsOut z0 (execExit u h f s) := by
  unfold execExit
  try dsimp only
  repeat' first
    | with_reducible assumption
    | intro _
    | with_reducible apply issue_keeps
    | with_reducible apply groupFault_keeps
    | with_reducible apply tryBarriers_keeps
    | with_reducible apply setGrp_keeps
    | with_reducible apply keeps_ite
    | with_reducible apply keepsOut_ite
    | with_reducible apply keepsOut_next
    | with_reducible apply keepsOpt_some
    | with_reducible exact keepsOpt_none
    | with_reducible apply keepsOpt_map
    | simp only [keeps_mk_iff]
    | split

theorem execBar_keeps {z0 : State} {u : Nat} {h : Nat} {f : GFields} {s : State} (h_s : Keeps z0 s) :
    KeepsOut z0 (execBar u h f s) := by
  unfold execBar
  try dsimp only
  repeat' first
    | with_reducible assumption
    | intro _
    | with_reducible apply issue_keeps
    | with_reducible apply tryBarrier_keeps
    | with_reducible apply setGrp_keeps
    | with_reducible apply keepsOut_next
    | with_reducible apply keepsOpt_some

theorem execBarrierTimeout_keeps {z0 : State} {u : Nat} {islot : Nat} {n : Nat} {s : State} (h_s : Keeps z0 s) :
    KeepsOut z0 (execBarrierTimeout u islot n s) := by
  unfold execBarrierTimeout
  try dsimp only
  repeat' first
    | with_reducible assumption
    | intro _
    | with_reducible apply whenLive_keeps
    | with_reducible apply groupFault_keeps
    | with_reducible apply keeps_ite
    | with_reducible apply keepsOut_ite
    | with_reducible apply keepsOut_next
    | with_reducible apply keepsOpt_some
    | with_reducible exact keepsOpt_none
    | with_reducible apply keepsOpt_map
    | simp only [keeps_mk_iff]
    | split

theorem execCollb_keeps {z0 : State} {u : Nat} {h : Nat} {f : GFields} {s : State} (h_s : Keeps z0 s) :
    KeepsOut z0 (execCollb u h f s) := by
  unfold execCollb
  try dsimp only
  repeat' first
    | with_reducible assumption
    | intro _
    | with_reducible apply issue_keeps
    | with_reducible apply groupFault_keeps
    | with_reducible apply nextPc_keeps
    | with_reducible apply keeps_ite
    | with_reducible apply keepsOut_ite
    | with_reducible apply keepsOut_next
    | with_reducible apply keepsOpt_some
    | with_reducible exact keepsOpt_none
    | with_reducible apply keepsOpt_map
    | simp only [keeps_mk_iff]
    | split

theorem execColle_keeps {z0 : State} {u : Nat} {h : Nat} {f : GFields} {s : State} (h_s : Keeps z0 s) :
    KeepsOut z0 (execColle u h f s) := by
  unfold execColle
  try dsimp only
  repeat' first
    | with_reducible assumption
    | intro _
    | with_reducible apply issue_keeps
    | with_reducible apply groupFault_keeps
    | with_reducible apply nextPc_keeps
    | with_reducible apply keeps_ite
    | with_reducible apply keepsOut_ite
    | with_reducible apply keepsOut_next
    | with_reducible apply keepsOpt_some
    | with_reducible exact keepsOpt_none
    | with_reducible apply keepsOpt_map
    | simp only [keeps_mk_iff]
    | split

theorem execMxissue_keeps {z0 : State} {u : Nat} {h : Nat} {f : GFields} {s : State} (h_s : Keeps z0 s) :
    KeepsOut z0 (execMxissue u h f s) := by
  unfold execMxissue
  try dsimp only
  repeat' first
    | with_reducible assumption
    | intro _
    | with_reducible apply issue_keeps
    | with_reducible apply groupFault_keeps
    | with_reducible apply lsRead_keeps
    | with_reducible apply nextPc_keeps
    | with_reducible apply setCu_keeps
    | with_reducible apply keeps_ite
    | with_reducible apply keepsOut_ite
    | with_reducible apply keepsOut_next
    | with_reducible apply keepsOpt_some
    | with_reducible exact keepsOpt_none
    | with_reducible apply keepsOpt_map
    | simp only [keeps_mk_iff]
    | with_reducible apply KeepsSnd.of
    | with_reducible refine keepsSnd_eq (by with_reducible assumption) ?_
    | split

theorem execMxwait_keeps {z0 : State} {u : Nat} {h : Nat} {f : GFields} {s : State} (h_s : Keeps z0 s) :
    KeepsOut z0 (execMxwait u h f s) := by
  unfold execMxwait
  try dsimp only
  repeat' first
    | with_reducible assumption
    | intro _
    | with_reducible apply issue_keeps
    | with_reducible apply nextPc_keeps
    | with_reducible apply groupFault_keeps
    | with_reducible apply setGrp_keeps
    | with_reducible apply keeps_ite
    | with_reducible apply keepsOut_ite
    | with_reducible apply keepsOut_next
    | with_reducible apply keepsOpt_some
    | with_reducible exact keepsOpt_none
    | with_reducible apply keepsOpt_map
    | simp only [keeps_mk_iff]
    | split

/-! ### Cme -/

theorem setCme_keeps {z0 : State} {s : State} {d : Nat} {c : CmeSt} (h_s : Keeps z0 s) :
    Keeps z0 (State.setCme s d c) := by
  unfold State.setCme
  try dsimp only
  repeat' first
    | with_reducible assumption
    | intro _
    | simp only [keeps_mk_iff]
    | (with_reducible apply keeps_all (by assumption) <;> first | exact id | exact wf_put _ _ _ _ | exact wf_memPut _ _ _ | exact wf_memPutMask _ _ _ _ | exact wf_dropKeys _ _ _ | exact fun _ => rfl)

theorem updDesc_keeps {z0 : State} {s : State} {q : Nat} {idx : Nat} {f : Desc → Desc} (h_s : Keeps z0 s) :
    Keeps z0 (updDesc s q idx f) := by
  unfold updDesc
  try dsimp only
  repeat' first
    | with_reducible assumption
    | intro _
    | with_reducible apply setQueue_keeps

theorem recordDesc_keeps {z0 : State} {s : State} {q : Nat} {d : Desc} {status : Nat} {value : Nat} (h_s : Keeps z0 s) :
    Keeps z0 (recordDesc s q d status value) := by
  unfold recordDesc
  try dsimp only
  repeat' first
    | with_reducible assumption
    | intro _
    | with_reducible apply setQueue_keeps
    | with_reducible apply dropFetched_keeps
    | with_reducible apply postRec_keeps

theorem cmeFeed_keeps {z0 : State} {x0 : Nat} {x1 : State} {x2 : Nat} (h_x1 : Keeps z0 x1) :
    Keeps z0 (cmeFeed x0 x1 x2) := by
  induction x0 generalizing x1 x2 with
  | zero =>
    unfold cmeFeed
    try dsimp only
    repeat' first
      | with_reducible assumption
  | succ m ih =>
    unfold cmeFeed
    try dsimp only
    repeat' first
      | with_reducible assumption
      | intro _
      | with_reducible apply ih
      | with_reducible apply setCme_keeps
      | with_reducible apply setCme_keeps
      | with_reducible apply keeps_ite
      | simp only [keeps_mk_iff]
      | split

theorem cmeAsk_keeps {z0 : State} {s : State} {d : Nat} {r : CmeReq} (h_s : Keeps z0 s) :
    Keeps z0 (cmeAsk s d r) := by
  unfold cmeAsk
  try dsimp only
  repeat' first
    | with_reducible assumption
    | intro _
    | with_reducible apply cmeFeed_keeps
    | with_reducible apply setCme_keeps

theorem finishDesc_keeps {z0 : State} {s : State} {q : Nat} {idx : Nat} {status : Nat} {value : Nat} (h_s : Keeps z0 s) :
    Keeps z0 (finishDesc s q idx status value) := by
  unfold finishDesc
  try dsimp only
  repeat' first
    | with_reducible assumption
    | intro _
    | with_reducible apply updDesc_keeps
    | with_reducible apply cmeAsk_keeps
    | with_reducible apply recordDesc_keeps
    | with_reducible apply keeps_ite
    | with_reducible apply keepsOpt_some
    | with_reducible exact keepsOpt_none
    | with_reducible apply keepsOpt_map
    | with_reducible apply keeps_foldl
    | simp only [keeps_mk_iff]
    | split

theorem descRequestDone_keeps {z0 : State} {s : State} {q : Nat} {idx : Nat} {skipped : Nat} (h_s : Keeps z0 s) :
    Keeps z0 (descRequestDone s q idx skipped) := by
  unfold descRequestDone
  try dsimp only
  repeat' first
    | with_reducible assumption
    | intro _
    | with_reducible apply updDesc_keeps
    | with_reducible apply recordDesc_keeps
    | with_reducible apply finishDesc_keeps
    | with_reducible apply keeps_ite
    | with_reducible apply keepsOpt_some
    | with_reducible exact keepsOpt_none
    | with_reducible apply keepsOpt_map
    | simp only [keeps_mk_iff]
    | split

theorem cmeRange_keeps {z0 : State} {s : State} {d : Nat} {r : CmeReq} {a : Nat} {n : Nat} (h_s : Keeps z0 s) :
    Keeps z0 (cmeRange s d r a n) := by
  unfold cmeRange
  try dsimp only
  repeat' first
    | with_reducible assumption
    | intro _
    | with_reducible apply ccCleanRange_keeps
    | with_reducible apply ccDropRange_keeps
    | with_reducible apply scClean_keeps
    | with_reducible apply scFlush_keeps
    | with_reducible apply keeps_ite
    | with_reducible apply keeps_foldl

theorem cmePages_keeps {z0 : State} {d : Nat} {r : CmeReq} {x2 : Nat} {x3 : State} {x4 : Nat} {x5 : Nat} (h_x3 : Keeps z0 x3) :
    KeepsSnd z0 (cmePages d r x2 x3 x4 x5) := by
  induction x2 generalizing x3 x4 x5 with
  | zero => exact keepsSnd_mk h_x3
  | succ f ih =>
    unfold cmePages
    split
    · exact keepsSnd_mk h_x3
    · have h1 := (translate_keeps (d := d) (aspace := r.aspace) (va := sext57 x4) (acc := none) h_x3).of
      revert h1
      dsimp only
      generalize Machine.translate x3 d r.aspace (sext57 x4) none = q
      intro h1
      obtain ⟨x, s1⟩ := q
      refine keepsSnd_mk (KeepsSnd.of (ih ?_))
      cases x with
      | pa a =>
        dsimp only
        split
        · exact countEv_keeps (countEv_keeps (cmeRange_keeps h1))
        · exact h1
      | _ => exact h1

theorem execCmeRequestDone_keeps {z0 : State} {d : Nat} {s : State} (h_s : Keeps z0 s) :
    KeepsOut z0 (execCmeRequestDone d s) := by
  unfold execCmeRequestDone
  try dsimp only
  repeat' first
    | with_reducible assumption
    | intro _
    | with_reducible apply whenLive_keeps
    | with_reducible apply cmePages_keeps
    | with_reducible apply countEv_keeps
    | with_reducible apply setCme_keeps
    | with_reducible apply postRec_keeps
    | with_reducible apply descRequestDone_keeps
    | with_reducible apply cmeFeed_keeps
    | with_reducible apply keeps_ite
    | with_reducible apply keepsOut_ite
    | with_reducible apply keepsOut_next
    | with_reducible apply keepsOpt_some
    | with_reducible exact keepsOpt_none
    | with_reducible apply keepsOpt_map
    | simp only [keeps_mk_iff]
    | with_reducible apply KeepsSnd.of
    | with_reducible refine keepsSnd_eq (by with_reducible assumption) ?_
    | split

theorem cmeGo_keeps {z0 : State} {s : State} {d : Nat} {v : W64} (h_s : Keeps z0 s) :
    Keeps z0 (cmeGo s d v) := by
  unfold cmeGo
  try dsimp only
  repeat' first
    | with_reducible assumption
    | intro _
    | with_reducible apply reject_keeps
    | with_reducible apply setCme_keeps
    | with_reducible apply keeps_ite

theorem cmeOpGo_keeps {z0 : State} {s : State} {d : Nat} {op : Nat} (h_s : Keeps z0 s) :
    Keeps z0 (cmeOpGo s d op) := by
  unfold cmeOpGo
  try dsimp only
  repeat' first
    | with_reducible assumption
    | intro _
    | with_reducible apply cmeGo_keeps
    | with_reducible apply keeps_ite

theorem execCmeClean_keeps {z0 : State} {d : Nat} {s : State} (h_s : Keeps z0 s) :
    KeepsOut z0 (execCmeClean d s) := by
  unfold execCmeClean
  try dsimp only
  repeat' first
    | with_reducible assumption
    | intro _
    | with_reducible apply whenLive_keeps
    | with_reducible apply cmeOpGo_keeps

theorem execCmeInval_keeps {z0 : State} {d : Nat} {s : State} (h_s : Keeps z0 s) :
    KeepsOut z0 (execCmeInval d s) := by
  unfold execCmeInval
  try dsimp only
  repeat' first
    | with_reducible assumption
    | intro _
    | with_reducible apply whenLive_keeps
    | with_reducible apply cmeOpGo_keeps

theorem execCmeFlush_keeps {z0 : State} {d : Nat} {s : State} (h_s : Keeps z0 s) :
    KeepsOut z0 (execCmeFlush d s) := by
  unfold execCmeFlush
  try dsimp only
  repeat' first
    | with_reducible assumption
    | intro _
    | with_reducible apply whenLive_keeps
    | with_reducible apply cmeOpGo_keeps

/-! ### Queue -/

theorem pretranslate_keeps {z0 : State} {aspace : Nat} {x1 : Nat} {x2 : State} {x3 : Nat} {x4 : Nat} (h_x2 : Keeps z0 x2) :
    KeepsSnd z0 (pretranslate aspace x1 x2 x3 x4) := by
  induction x1 generalizing x2 x3 x4 with
  | zero => exact keepsSnd_mk h_x2
  | succ f ih =>
    unfold pretranslate
    split
    · exact keepsSnd_mk h_x2
    · have h1 := (findLeaf_keeps (d := 0) (aspace := aspace) (va := x3) h_x2).of
      revert h1
      dsimp only
      generalize findLeaf x2 0 aspace x3 = q
      intro h1
      obtain ⟨x, s1⟩ := q
      cases x
      · exact keepsSnd_mk (ih h1).of
      · exact keepsSnd_mk h1

theorem fetchHalt_keeps {z0 : State} {s : State} {q : Nat} {mem : Bool} (h_s : Keeps z0 s) :
    Keeps z0 (fetchHalt s q mem) := by
  unfold fetchHalt
  try dsimp only
  repeat' first
    | with_reducible assumption
    | intro _
    | with_reducible apply raise_keeps
    | with_reducible apply setQueue_keeps
    | with_reducible apply setDst_keeps
    | with_reducible apply postRec_keeps

theorem readDesc_keeps {z0 : State} {s : State} {q : Nat} (h_s : Keeps z0 s) :
    Keeps z0 (readDesc s q) := by
  unfold readDesc
  have h1 := (homeRead_keeps (cls := 7) (a := descPa s q (s.queue q).fetch) (n := 64)
    (disarm_keeps (page := pgQue q) (n := 8) h_s)).of
  revert h1
  dsimp only
  generalize homeRead (disarm s (pgQue q) 8) 7 (descPa s q (s.queue q).fetch) 64 = w
  intro h1
  obtain ⟨b, poison, s1⟩ := w
  dsimp only at h1 ⊢
  split
  · exact fetchHalt_keeps (deliverPoison_keeps h1)
  · split
    · split
      · exact setQueue_keeps h1
      · split
        · exact fetchHalt_keeps h1
        · exact setQueue_keeps h1
    · split
      · exact postRec_keeps (setQueue_keeps h1)
      · have h2 : ∀ l (p : List TlbEntry × State), Keeps z0 p.2 → Keeps z0 (List.foldl (fun (x : List TlbEntry × State) (r : Nat × Nat) =>
            (x.1 ++ (pretranslate (qaspace x.2 q) (16 - x.1.length) x.2 r.1 r.2).1,
              (pretranslate (qaspace x.2 q) (16 - x.1.length) x.2 r.1 r.2).2)) p l).2 := by
          intro l
          induction l with
          | nil => intro p h; exact h
          | cons y ys ih => intro p h; exact ih _ (pretranslate_keeps h).of
        apply countEv_keeps
        simp only [keeps_mk_iff]
        exact setQueue_keeps (h2 _ _ (setQueue_keeps h1))

theorem execDescFetch_keeps {z0 : State} {q : Nat} {s : State} (h_s : Keeps z0 s) :
    KeepsOut z0 (execDescFetch q s) := by
  unfold execDescFetch
  try dsimp only
  repeat' first
    | with_reducible assumption
    | intro _
    | with_reducible apply whenLive_keeps
    | with_reducible apply readDesc_keeps
    | with_reducible apply keeps_ite

theorem execStaleReread_keeps {z0 : State} {q : Nat} {s : State} (h_s : Keeps z0 s) :
    KeepsOut z0 (execStaleReread q s) := by
  unfold execStaleReread
  try dsimp only
  repeat' first
    | with_reducible assumption
    | intro _
    | with_reducible apply whenLive_keeps
    | with_reducible apply readDesc_keeps
    | with_reducible apply countEv_keeps
    | with_reducible apply keeps_ite

theorem doorbellWrite_keeps {z0 : State} {s : State} {q : Nat} {v : W64} (h_s : Keeps z0 s) :
    Keeps z0 (doorbellWrite s q v) := by
  unfold doorbellWrite
  try dsimp only
  repeat' first
    | with_reducible assumption
    | intro _
    | with_reducible apply raise_keeps
    | with_reducible apply reject_keeps
    | with_reducible apply setQueue_keeps
    | with_reducible apply keeps_ite

theorem execDoorbell_keeps {z0 : State} {q : Nat} {v : W64} {s : State} (h_s : Keeps z0 s) :
    KeepsOut z0 (execDoorbell q v s) := by
  unfold execDoorbell
  try dsimp only
  repeat' first
    | with_reducible assumption
    | intro _
    | with_reducible apply whenLive_keeps
    | with_reducible apply doorbellWrite_keeps
    | with_reducible apply keeps_ite

theorem cconsWrite_keeps {z0 : State} {s : State} {q : Nat} {v : W64} (h_s : Keeps z0 s) :
    Keeps z0 (cconsWrite s q v) := by
  unfold cconsWrite
  try dsimp only
  repeat' first
    | with_reducible assumption
    | intro _
    | with_reducible apply reject_keeps
    | with_reducible apply flushRecs_keeps
    | with_reducible apply setQueue_keeps
    | with_reducible apply keeps_ite

theorem execQueCconsWrite_keeps {z0 : State} {q : Nat} {v : W64} {s : State} (h_s : Keeps z0 s) :
    KeepsOut z0 (execQueCconsWrite q v s) := by
  unfold execQueCconsWrite
  try dsimp only
  repeat' first
    | with_reducible assumption
    | intro _
    | with_reducible apply whenLive_keeps
    | with_reducible apply cconsWrite_keeps
    | with_reducible apply keeps_ite

theorem fetchWrite_keeps {z0 : State} {s : State} {q : Nat} {v : W64} (h_s : Keeps z0 s) :
    Keeps z0 (fetchWrite s q v) := by
  unfold fetchWrite
  try dsimp only
  repeat' first
    | with_reducible assumption
    | intro _
    | with_reducible apply reject_keeps
    | with_reducible apply setQueue_keeps
    | with_reducible apply keeps_ite

theorem execQueFetchWrite_keeps {z0 : State} {q : Nat} {v : W64} {s : State} (h_s : Keeps z0 s) :
    KeepsOut z0 (execQueFetchWrite q v s) := by
  unfold execQueFetchWrite
  try dsimp only
  repeat' first
    | with_reducible assumption
    | intro _
    | with_reducible apply whenLive_keeps
    | with_reducible apply fetchWrite_keeps
    | with_reducible apply keeps_ite

theorem descRow_keeps {z0 : State} {q : Nat} {idx : Nat} {opc : Nat} {body : Desc → State → State} {s : State} (h_s : Keeps z0 s) (k_body : ∀ (y1 : Desc) (y2 : State), Keeps z0 y2 → Keeps z0 (body y1 y2)) :
    KeepsOut z0 (descRow q idx opc body s) := by
  unfold descRow
  try dsimp only
  repeat' first
    | with_reducible assumption
    | intro _
    | with_reducible apply whenLive_keeps
    | with_reducible apply k_body
    | with_reducible apply keeps_ite
    | with_reducible apply keepsOut_ite
    | with_reducible apply keepsOut_next
    | with_reducible apply keepsOpt_some
    | with_reducible exact keepsOpt_none
    | with_reducible apply keepsOpt_map
    | simp only [keeps_mk_iff]
    | with_reducible refine keepsOpt_eq (by with_reducible assumption) ?_
    | split

theorem startDesc_keeps {z0 : State} {s : State} {q : Nat} {idx : Nat} {waits : Nat} (h_s : Keeps z0 s) :
    Keeps z0 (startDesc s q idx waits) := by
  unfold startDesc
  try dsimp only
  repeat' first
    | with_reducible assumption
    | intro _
    | with_reducible apply updDesc_keeps

theorem execNop_keeps {z0 : State} {q : Nat} {idx : Nat} {s : State} (h_s : Keeps z0 s) :
    KeepsOut z0 (execNop q idx s) := by
  unfold execNop
  try dsimp only
  repeat' first
    | with_reducible assumption
    | intro _
    | with_reducible apply descRow_keeps
    | with_reducible apply finishDesc_keeps

theorem cmeOpDesc_keeps {z0 : State} {q : Nat} {idx : Nat} {d : Desc} {s : State} (h_s : Keeps z0 s) :
    Keeps z0 (cmeOpDesc q idx d s) := by
  unfold cmeOpDesc
  try dsimp only
  repeat' first
    | with_reducible assumption
    | intro _
    | with_reducible apply finishDesc_keeps
    | with_reducible apply startDesc_keeps
    | with_reducible apply cmeAsk_keeps
    | with_reducible apply keeps_ite
    | with_reducible apply keepsOpt_some
    | with_reducible exact keepsOpt_none
    | with_reducible apply keepsOpt_map
    | with_reducible apply keeps_foldl

theorem cmeOpRow_keeps {z0 : State} {q : Nat} {idx : Nat} {op : Nat} {s : State} (h_s : Keeps z0 s) :
    KeepsOut z0 (cmeOpRow q idx op s) := by
  unfold cmeOpRow
  try dsimp only
  repeat' first
    | with_reducible assumption
    | intro _
    | with_reducible apply descRow_keeps
    | with_reducible apply cmeOpDesc_keeps
    | with_reducible apply keeps_ite
    | with_reducible apply keepsOut_ite
    | with_reducible apply keepsOut_next
    | with_reducible apply keepsOpt_some
    | with_reducible exact keepsOpt_none
    | with_reducible apply keepsOpt_map
    | simp only [keeps_mk_iff]
    | split

theorem execCmeopClean_keeps {z0 : State} {q : Nat} {idx : Nat} {s : State} (h_s : Keeps z0 s) :
    KeepsOut z0 (execCmeopClean q idx s) := by
  unfold execCmeopClean
  try dsimp only
  repeat' first
    | with_reducible assumption
    | intro _
    | with_reducible apply cmeOpRow_keeps

theorem execCmeopInval_keeps {z0 : State} {q : Nat} {idx : Nat} {s : State} (h_s : Keeps z0 s) :
    KeepsOut z0 (execCmeopInval q idx s) := by
  unfold execCmeopInval
  try dsimp only
  repeat' first
    | with_reducible assumption
    | intro _
    | with_reducible apply cmeOpRow_keeps

theorem execCmeopFlush_keeps {z0 : State} {q : Nat} {idx : Nat} {s : State} (h_s : Keeps z0 s) :
    KeepsOut z0 (execCmeopFlush q idx s) := by
  unfold execCmeopFlush
  try dsimp only
  repeat' first
    | with_reducible assumption
    | intro _
    | with_reducible apply cmeOpRow_keeps

theorem execHint_keeps {z0 : State} {q : Nat} {idx : Nat} {s : State} (h_s : Keeps z0 s) :
    KeepsOut z0 (execHint q idx s) := by
  unfold execHint
  try dsimp only
  repeat' first
    | with_reducible assumption
    | intro _
    | with_reducible apply descRow_keeps
    | with_reducible apply finishDesc_keeps
    | with_reducible apply startDesc_keeps
    | with_reducible apply keeps_ite
    | with_reducible apply keepsOut_ite
    | with_reducible apply keepsOut_next
    | with_reducible apply keepsOpt_some
    | with_reducible exact keepsOpt_none
    | with_reducible apply keepsOpt_map
    | simp only [keeps_mk_iff]
    | split

theorem hintTaken_keeps {z0 : State} {s : State} {d : Nat} {h : PHint} (h_s : Keeps z0 s) :
    Keeps z0 (hintTaken s d h) := by
  unfold hintTaken
  try dsimp only
  repeat' first
    | with_reducible assumption
    | intro _
    | with_reducible apply hintApply_keeps
    | with_reducible apply setPdie_keeps
    | with_reducible apply keeps_ite
    | with_reducible apply keepsOpt_some
    | with_reducible exact keepsOpt_none
    | with_reducible apply keepsOpt_map
    | simp only [keeps_mk_iff]
    | split

theorem execHintMsg_keeps {z0 : State} {d : Nat} {s : State} (h_s : Keeps z0 s) :
    KeepsOut z0 (execHintMsg d s) := by
  unfold execHintMsg
  try dsimp only
  repeat' first
    | with_reducible assumption
    | intro _
    | with_reducible apply whenLive_keeps
    | with_reducible apply hintTaken_keeps
    | with_reducible apply descRequestDone_keeps
    | with_reducible apply keeps_ite
    | with_reducible apply keepsOut_ite
    | with_reducible apply keepsOut_next
    | with_reducible apply keepsOpt_some
    | with_reducible exact keepsOpt_none
    | with_reducible apply keepsOpt_map
    | simp only [keeps_mk_iff]
    | split

/-! ### Units -/

theorem leaveUnit_keeps {z0 : State} {s : State} {u : Nat} {n : Nat} (h_s : Keeps z0 s) :
    Keeps z0 (leaveUnit s u n) := by
  unfold leaveUnit
  try dsimp only
  repeat' first
    | with_reducible assumption
    | intro _
    | with_reducible apply setGrp_keeps
    | with_reducible apply clearRegs_keeps
    | with_reducible apply setCu_keeps
    | with_reducible apply keeps_ite
    | with_reducible apply keepsOpt_some
    | with_reducible exact keepsOpt_none
    | with_reducible apply keepsOpt_map
    | with_reducible apply keeps_foldl
    | simp only [keeps_mk_iff]

theorem dropPackets_keeps {z0 : State} {s : State} {n : Nat} (h_s : Keeps z0 s) :
    Keeps z0 (dropPackets s n) := by
  unfold dropPackets
  try dsimp only
  repeat' first
    | with_reducible assumption
    | intro _
    | with_reducible apply setFlow_keeps
    | with_reducible apply keeps_ite
    | with_reducible apply keepsOpt_some
    | with_reducible exact keepsOpt_none
    | with_reducible apply keepsOpt_map
    | with_reducible apply keeps_foldl

theorem dropItem_keeps {z0 : State} {s : State} {n : Nat} (h_s : Keeps z0 s) :
    Keeps z0 (dropItem s n) := by
  unfold dropItem
  try dsimp only
  repeat' first
    | with_reducible assumption
    | intro _
    | with_reducible apply leaveUnit_keeps
    | with_reducible apply dropFetched_keeps
    | with_reducible apply withdraw_keeps
    | with_reducible apply dropPackets_keeps
    | with_reducible apply setItem_keeps
    | with_reducible apply keeps_ite
    | with_reducible apply keepsOpt_some
    | with_reducible exact keepsOpt_none
    | with_reducible apply keepsOpt_map
    | simp only [keeps_mk_iff]
    | split

theorem unreserveItem_keeps {z0 : State} {s : State} {it : Item} (h_s : Keeps z0 s) :
    Keeps z0 (unreserveItem s it) := by
  unfold unreserveItem
  try dsimp only
  repeat' first
    | with_reducible assumption
    | intro _
    | with_reducible apply setJob_keeps
    | with_reducible apply keepsOpt_some
    | with_reducible exact keepsOpt_none
    | with_reducible apply keepsOpt_map
    | simp only [keeps_mk_iff]
    | split

theorem faultJob_keeps {z0 : State} {s : State} {jn : Nat} {sid : Nat} {step : Nat} {status : Nat} {detail : Nat} (h_s : Keeps z0 s) :
    Keeps z0 (faultJob s jn sid step status detail) := by
  unfold faultJob
  try dsimp only
  repeat' first
    | with_reducible assumption
    | intro _
    | with_reducible apply setJob_keeps
    | with_reducible apply postRec_keeps
    | with_reducible apply keeps_ite
    | with_reducible apply keepsOpt_some
    | with_reducible exact keepsOpt_none
    | with_reducible apply keepsOpt_map
    | simp only [keeps_mk_iff]
    | split

theorem itemRecord_keeps {z0 : State} {s : State} {it : Item} {status : Nat} {detail : Nat} {tag : Nat} (h_s : Keeps z0 s) :
    Keeps z0 (itemRecord s it status detail tag) := by
  unfold itemRecord
  try dsimp only
  repeat' first
    | with_reducible assumption
    | intro _
    | with_reducible apply postRec_keeps
    | with_reducible apply keepsOpt_some
    | with_reducible exact keepsOpt_none
    | with_reducible apply keepsOpt_map
    | simp only [keeps_mk_iff]
    | split

theorem clearTags_keeps {z0 : State} {s : State} {r : Rq} {j : Job} (h_s : Keeps z0 s) :
    Keeps z0 (clearTags s r j) := by
  unfold clearTags
  try dsimp only
  repeat' first
    | with_reducible assumption
    | intro _
    | with_reducible apply rqRead_keeps
    | with_reducible apply rqWrite_keeps
    | with_reducible apply keepsOpt_some
    | with_reducible exact keepsOpt_none
    | with_reducible apply keepsOpt_map
    | with_reducible apply keeps_foldl
    | simp only [keeps_mk_iff]
    | with_reducible apply KeepsSnd.of
    | with_reducible refine keepsSnd_eq (by with_reducible assumption) ?_
    | split

theorem flushConduits_keeps {z0 : State} {s : State} {jn : Nat} (h_s : Keeps z0 s) :
    Keeps z0 (flushConduits s jn) := by
  unfold flushConduits
  try dsimp only
  repeat' first
    | with_reducible assumption
    | intro _
    | with_reducible apply clearTags_keeps
    | with_reducible apply setJob_keeps
    | with_reducible apply keepsOpt_some
    | with_reducible exact keepsOpt_none
    | with_reducible apply keepsOpt_map
    | simp only [keeps_mk_iff]
    | split

theorem endRegen_keeps {z0 : State} {s : State} {jn : Nat} {status : Nat} {value : Nat} (h_s : Keeps z0 s) :
    Keeps z0 (endRegen s jn status value) := by
  unfold endRegen
  try dsimp only
  repeat' first
    | with_reducible assumption
    | intro _
    | with_reducible apply flushConduits_keeps
    | with_reducible apply dropItem_keeps
    | with_reducible apply setJob_keeps
    | with_reducible apply finishDesc_keeps
    | with_reducible apply keepsOpt_some
    | with_reducible exact keepsOpt_none
    | with_reducible apply keepsOpt_map
    | with_reducible apply keeps_foldl
    | simp only [keeps_mk_iff]
    | split

theorem failItem_keeps {z0 : State} {s : State} {n : Nat} {status : Nat} {detail : Nat} {tag : Nat} (h_s : Keeps z0 s) :
    Keeps z0 (failItem s n status detail tag) := by
  unfold failItem
  try dsimp only
  repeat' first
    | with_reducible assumption
    | intro _
    | with_reducible apply itemRecord_keeps
    | with_reducible apply dropItem_keeps
    | with_reducible apply unreserveItem_keeps
    | with_reducible apply endRegen_keeps
    | with_reducible apply setJob_keeps
    | with_reducible apply faultJob_keeps
    | with_reducible apply keeps_ite
    | with_reducible apply keepsOpt_some
    | with_reducible exact keepsOpt_none
    | with_reducible apply keepsOpt_map
    | simp only [keeps_mk_iff]
    | split

theorem abortItem_keeps {z0 : State} {s : State} {n : Nat} (h_s : Keeps z0 s) :
    Keeps z0 (abortItem s n) := by
  unfold abortItem
  try dsimp only
  repeat' first
    | with_reducible assumption
    | intro _
    | with_reducible apply dropItem_keeps
    | with_reducible apply unreserveItem_keeps
    | with_reducible apply itemRecord_keeps
    | with_reducible apply keepsOpt_some
    | with_reducible exact keepsOpt_none
    | with_reducible apply keepsOpt_map
    | simp only [keeps_mk_iff]
    | split

theorem requeueOn_keeps {z0 : State} {s : State} {n : Nat} {v : Nat} {it : Item} (h_s : Keeps z0 s) :
    Keeps z0 (requeueOn s n v it) := by
  unfold requeueOn
  try dsimp only
  repeat' first
    | with_reducible assumption
    | intro _
    | with_reducible apply dropFetched_keeps
    | with_reducible apply withdraw_keeps
    | with_reducible apply setItem_keeps
    | with_reducible apply countEv_keeps
    | with_reducible apply setCu_keeps

theorem dealOne_keeps {z0 : State} {s : State} {order : List Nat} {n : Nat} (h_s : Keeps z0 s) :
    KeepsOptFst z0 (dealOne s order n) := by
  unfold dealOne
  try dsimp only
  repeat' first
    | with_reducible assumption
    | intro _
    | with_reducible apply requeueOn_keeps
    | with_reducible apply keepsOpt_some
    | with_reducible exact keepsOpt_none
    | with_reducible apply keepsOpt_map
    | with_reducible apply keepsOptFst_some
    | with_reducible exact keepsOptFst_none
    | simp only [keeps_mk_iff]
    | split

theorem dealAway_keeps {z0 : State} {s : State} {u : Nat} {n : Nat} (h_s : Keeps z0 s) :
    Keeps z0 (dealAway s u n) := by
  unfold dealAway
  try dsimp only
  repeat' first
    | with_reducible assumption
    | intro _
    | with_reducible apply requeueOn_keeps
    | with_reducible apply setItem_keeps
    | with_reducible apply faultJob_keeps
    | with_reducible apply dropItem_keeps
    | with_reducible apply unreserveItem_keeps
    | with_reducible apply keeps_ite
    | with_reducible apply keepsOpt_some
    | with_reducible exact keepsOpt_none
    | with_reducible apply keepsOpt_map
    | simp only [keeps_mk_iff]
    | split

theorem dealAll_keeps {z0 : State} {s : State} {u : Nat} {x2 : List Nat} {x3 : List Nat} (h_s : Keeps z0 s) :
    Keeps z0 (dealAll s u x2 x3) := by
  induction x3 generalizing x2 s with
  | nil =>
    unfold dealAll
    try dsimp only
    repeat' first
      | with_reducible assumption
  | cons y ys ih =>
    unfold dealAll
    try dsimp only
    repeat' first
      | with_reducible assumption
      | intro _
      | with_reducible apply ih
      | with_reducible apply dealOne_keeps
      | with_reducible apply dealAway_keeps
      | with_reducible apply dealOne_keeps
      | with_reducible apply dealAway_keeps
      | with_reducible apply keepsOpt_some
      | with_reducible exact keepsOpt_none
      | with_reducible apply keepsOpt_map
      | simp only [keeps_mk_iff]
      | with_reducible refine keepsOptFst_eq (by with_reducible assumption) ?_
      | split

theorem dealQueued_keeps {z0 : State} {s : State} {u : Nat} (h_s : Keeps z0 s) :
    Keeps z0 (dealQueued s u) := by
  unfold dealQueued
  try dsimp only
  repeat' first
    | with_reducible assumption
    | intro _
    | with_reducible apply dealAll_keeps

/-! ### CuWork -/

theorem startGroups_keeps {z0 : State} {s : State} {u : Nat} {n : Nat} {g : Nat} {regs : Nat} (h_s : Keeps z0 s) :
    Keeps z0 (startGroups s u n g regs) := by
  unfold startGroups
  try dsimp only
  repeat' first
    | with_reducible assumption
    | intro _
    | with_reducible apply setGrp_keeps
    | with_reducible apply clearRegs_keeps
    | with_reducible apply keepsOpt_some
    | with_reducible exact keepsOpt_none
    | with_reducible apply keepsOpt_map
    | with_reducible apply keeps_foldl

theorem dropVirtual_keeps {z0 : State} {u : Nat} {aspace : Nat} {x2 : Nat} {x3 : State} {x4 : Nat} {x5 : Nat} (h_x3 : Keeps z0 x3) :
    Keeps z0 (dropVirtual u aspace x2 x3 x4 x5) := by
  induction x2 generalizing x3 x4 x5 with
  | zero =>
    unfold dropVirtual
    try dsimp only
    repeat' first
      | with_reducible assumption
  | succ m ih =>
    unfold dropVirtual
    try dsimp only
    repeat' first
      | with_reducible assumption
      | intro _
      | with_reducible apply ih
      | with_reducible apply unitXlat_keeps
      | with_reducible apply ccDropRange_keeps
      | with_reducible apply unitXlat_keeps
      | with_reducible apply ccDropRange_keeps
      | with_reducible apply keeps_ite
      | simp only [keeps_mk_iff]
      | with_reducible apply KeepsSnd.of
      | with_reducible refine keepsSnd_eq (by with_reducible assumption) ?_
      | split

theorem dropReadSlots_keeps {z0 : State} {s : State} {u : Nat} {j : Job} {d : StnDef} {it : Item} (h_s : Keeps z0 s) :
    Keeps z0 (dropReadSlots s u j d it) := by
  unfold dropReadSlots
  try dsimp only
  repeat' first
    | with_reducible assumption
    | intro _
    | with_reducible apply dropVirtual_keeps
    | with_reducible apply keepsOpt_some
    | with_reducible exact keepsOpt_none
    | with_reducible apply keepsOpt_map
    | with_reducible apply keeps_foldl
    | simp only [keeps_mk_iff]
    | split

theorem checkTags_keeps {z0 : State} {s : State} {r : Rq} {j : Job} {d : StnDef} {it : Item} (h_s : Keeps z0 s) :
    KeepsSnd z0 (checkTags s r j d it) := by
  unfold checkTags
  have h1 := (rqReads_keeps (r := r) (x1 := (readOrds j d it).map (fun (cid, o, _, _) => match j.cnd cid with
      | some x => (j.tagVa cid x o, 32)
      | none => (0, 0))) h_s).of
  revert h1
  dsimp only
  generalize rqReads r _ s = w
  intro h1
  obtain ⟨o, s1⟩ := w
  cases o <;> exact keepsSnd_mk h1

theorem feedMatrix_keeps {z0 : State} {x0 : Nat} {x1 : State} {x2 : Nat} {x3 : Nat} (h_x1 : Keeps z0 x1) :
    Keeps z0 (feedMatrix x0 x1 x2 x3) := by
  induction x0 generalizing x1 x2 x3 with
  | zero =>
    unfold feedMatrix
    try dsimp only
    repeat' first
      | with_reducible assumption
  | succ m ih =>
    unfold feedMatrix
    try dsimp only
    repeat' first
      | with_reducible assumption
      | intro _
      | with_reducible apply ih
      | with_reducible apply setCu_keeps
      | with_reducible apply setItem_keeps
      | with_reducible apply setCu_keeps
      | with_reducible apply setItem_keeps
      | with_reducible apply keeps_ite
      | with_reducible apply keepsOpt_some
      | with_reducible exact keepsOpt_none
      | with_reducible apply keepsOpt_map
      | simp only [keeps_mk_iff]
      | split

theorem feedAll_keeps {z0 : State} {s : State} {u : Nat} (h_s : Keeps z0 s) :
    Keeps z0 (feedAll s u) := by
  unfold feedAll
  try dsimp only
  repeat' first
    | with_reducible assumption
    | intro _
    | with_reducible apply feedMatrix_keeps
    | with_reducible apply keeps_foldl

theorem startChecks_keeps {z0 : State} {s : State} {u : Nat} {n : Nat} {it : Item} (h_s : Keeps z0 s) :
    Keeps z0 (startChecks s u n it) := by
  unfold startChecks
  try dsimp only
  repeat' first
    | with_reducible assumption
    | intro _
    | with_reducible apply checkTags_keeps
    | with_reducible apply setItem_keeps
    | with_reducible apply feedAll_keeps
    | with_reducible apply keeps_ite
    | with_reducible apply keepsOpt_some
    | with_reducible exact keepsOpt_none
    | with_reducible apply keepsOpt_map
    | simp only [keeps_mk_iff]
    | with_reducible apply KeepsSnd.of
    | with_reducible refine keepsSnd_eq (by with_reducible assumption) ?_
    | split

theorem beginItem_keeps {z0 : State} {s : State} {u : Nat} {n : Nat} {it : Item} (h_s : Keeps z0 s) :
    Keeps z0 (beginItem s u n it) := by
  unfold beginItem
  try dsimp only
  repeat' first
    | with_reducible assumption
    | intro _
    | with_reducible apply unitError_keeps
    | with_reducible apply disarm_keeps
    | with_reducible apply takeSplit_keeps
    | with_reducible apply setCu_keeps
    | with_reducible apply setItem_keeps
    | with_reducible apply startGroups_keeps
    | with_reducible apply lsPuts_keeps
    | with_reducible apply lsClear_keeps
    | with_reducible apply countEv_keeps
    | with_reducible apply dropReadSlots_keeps
    | with_reducible apply startChecks_keeps
    | with_reducible apply keeps_ite
    | with_reducible apply keepsOpt_some
    | with_reducible exact keepsOpt_none
    | with_reducible apply keepsOpt_map
    | simp only [keeps_mk_iff]
    | split

theorem execCuItemStart_keeps {z0 : State} {u : Nat} {s : State} (h_s : Keeps z0 s) :
    KeepsOut z0 (execCuItemStart u s) := by
  unfold execCuItemStart
  try dsimp only
  repeat' first
    | with_reducible assumption
    | intro _
    | with_reducible apply whenLive_keeps
    | with_reducible apply startChecks_keeps
    | with_reducible apply beginItem_keeps
    | with_reducible apply keeps_ite
    | with_reducible apply keepsOut_ite
    | with_reducible apply keepsOut_next
    | with_reducible apply keepsOpt_some
    | with_reducible exact keepsOpt_none
    | with_reducible apply keepsOpt_map
    | simp only [keeps_mk_iff]
    | split

theorem steal_keeps {z0 : State} {s : State} {u : Nat} {v : Nat} {n : Nat} {it : Item} (h_s : Keeps z0 s) :
    Keeps z0 (steal s u v n it) := by
  unfold steal
  try dsimp only
  repeat' first
    | with_reducible assumption
    | intro _
    | with_reducible apply unitError_keeps
    | with_reducible apply disarm_keeps
    | with_reducible apply setItem_keeps
    | with_reducible apply countEv_keeps
    | with_reducible apply setCu_keeps
    | with_reducible apply keeps_ite

theorem probe_keeps {z0 : State} {u : Nat} {least : Nat} {x2 : List Nat} {x3 : State} (h_x3 : Keeps z0 x3) :
    KeepsSnd z0 (probe u least x2 x3) := by
  induction x2 generalizing x3 with
  | nil => exact keepsSnd_mk h_x3
  | cons y ys ih =>
    unfold probe
    split
    · exact keepsSnd_mk (steal_keeps h_x3)
    · exact ih (countEv_keeps h_x3)

theorem execCuNearRound_keeps {z0 : State} {u : Nat} {s : State} (h_s : Keeps z0 s) :
    KeepsOut z0 (execCuNearRound u s) := by
  unfold execCuNearRound
  try dsimp only
  repeat' first
    | with_reducible assumption
    | intro _
    | with_reducible apply whenLive_keeps
    | with_reducible apply probe_keeps
    | with_reducible apply setCu_keeps
    | with_reducible apply keeps_ite
    | with_reducible apply keepsOut_ite
    | with_reducible apply keepsOut_next
    | simp only [keeps_mk_iff]
    | with_reducible apply KeepsSnd.of

theorem execCuFarAttempt_keeps {z0 : State} {u : Nat} {s : State} (h_s : Keeps z0 s) :
    KeepsOut z0 (execCuFarAttempt u s) := by
  unfold execCuFarAttempt
  apply whenLive_keeps h_s
  split
  · exact h_s
  · cases hv : farVictim s u with
    | none => exact setCu_keeps h_s
    | some v =>
      have h1 := (probe_keeps (u := u) (least := farMin s u) (x2 := [v]) h_s).of
      revert h1
      dsimp only
      generalize probe u (farMin s u) [v] s = w
      intro h1
      obtain ⟨won, s1⟩ := w
      cases won
      · exact setCu_keeps h1
      · exact h1

theorem execCuStealWaitExpire_keeps {z0 : State} {u : Nat} {s : State} (h_s : Keeps z0 s) :
    KeepsOut z0 (execCuStealWaitExpire u s) := by
  unfold execCuStealWaitExpire
  try dsimp only
  repeat' first
    | with_reducible assumption
    | intro _
    | with_reducible apply whenLive_keeps
    | with_reducible apply setCu_keeps
    | with_reducible apply keeps_ite

theorem execCuRateWindow_keeps {z0 : State} {u : Nat} {beats : Nat} {s : State} (h_s : Keeps z0 s) :
    KeepsOut z0 (execCuRateWindow u beats s) := by
  unfold execCuRateWindow
  try dsimp only
  repeat' first
    | with_reducible assumption
    | intro _
    | with_reducible apply whenLive_keeps
    | with_reducible apply setReg_keeps
    | with_reducible apply setCu_keeps
    | with_reducible apply keeps_ite

theorem execCuSupplyLow_keeps {z0 : State} {u : Nat} {mv : Nat} {s : State} (h_s : Keeps z0 s) :
    KeepsOut z0 (execCuSupplyLow u mv s) := by
  unfold execCuSupplyLow
  try dsimp only
  repeat' first
    | with_reducible assumption
    | intro _
    | with_reducible apply whenLive_keeps
    | with_reducible apply setCu_keeps
    | with_reducible apply keeps_ite

theorem execCuSupplyRestore_keeps {z0 : State} {u : Nat} {mv : Nat} {s : State} (h_s : Keeps z0 s) :
    KeepsOut z0 (execCuSupplyRestore u mv s) := by
  unfold execCuSupplyRestore
  try dsimp only
  repeat' first
    | with_reducible assumption
    | intro _
    | with_reducible apply whenLive_keeps
    | with_reducible apply setCu_keeps
    | with_reducible apply keeps_ite

theorem setSite_keeps {z0 : State} {s : State} {u : Nat} {st : Nat} {cause : Nat} (h_s : Keeps z0 s) :
    Keeps z0 (setSite s u st cause) := by
  unfold setSite
  try dsimp only
  repeat' first
    | with_reducible assumption
    | intro _
    | with_reducible apply setRegF_keeps

theorem startSpare_keeps {z0 : State} {s : State} {d : Nat} {centre : Option Nat} (h_s : Keeps z0 s) :
    Keeps z0 (startSpare s d centre) := by
  unfold startSpare
  try dsimp only
  repeat' first
    | with_reducible assumption
    | intro _
    | with_reducible apply setCu_keeps
    | with_reducible apply keeps_ite
    | with_reducible apply keepsOpt_some
    | with_reducible exact keepsOpt_none
    | with_reducible apply keepsOpt_map
    | simp only [keeps_mk_iff]
    | split

theorem startSpares_keeps {z0 : State} {x0 : Nat} {x1 : State} {x2 : Nat} (h_x1 : Keeps z0 x1) :
    Keeps z0 (startSpares x0 x1 x2) := by
  induction x0 generalizing x1 x2 with
  | zero =>
    unfold startSpares
    try dsimp only
    repeat' first
      | with_reducible assumption
  | succ m ih =>
    unfold startSpares
    try dsimp only
    repeat' first
      | with_reducible assumption
      | intro _
      | with_reducible apply ih
      | with_reducible apply startSpare_keeps

theorem toSpare_keeps {z0 : State} {s : State} {u : Nat} (h_s : Keeps z0 s) :
    Keeps z0 (toSpare s u) := by
  unfold toSpare
  try dsimp only
  repeat' first
    | with_reducible assumption
    | intro _
    | with_reducible apply setCu_keeps
    | with_reducible apply setSite_keeps

theorem cucfgWrite_keeps {z0 : State} {s : State} {d : Nat} {v : W64} (h_s : Keeps z0 s) :
    Keeps z0 (cucfgWrite s d v) := by
  unfold cucfgWrite
  try dsimp only
  repeat' first
    | with_reducible assumption
    | intro _
    | with_reducible apply reject_keeps
    | with_reducible apply setRegF_keeps
    | with_reducible apply startSpares_keeps
    | with_reducible apply toSpare_keeps
    | with_reducible apply keeps_ite
    | with_reducible apply keeps_foldl

theorem execDieCucfgWrite_keeps {z0 : State} {d : Nat} {v : W64} {s : State} (h_s : Keeps z0 s) :
    KeepsOut z0 (execDieCucfgWrite d v s) := by
  unfold execDieCucfgWrite
  try dsimp only
  repeat' first
    | with_reducible assumption
    | intro _
    | with_reducible apply whenLive_keeps
    | with_reducible apply cucfgWrite_keeps
    | with_reducible apply keeps_ite

theorem execSpareSelftestDone_keeps {z0 : State} {u : Nat} {pass : Bool} {s : State} (h_s : Keeps z0 s) :
    KeepsOut z0 (execSpareSelftestDone u pass s) := by
  unfold execSpareSelftestDone
  try dsimp only
  repeat' first
    | with_reducible assumption
    | intro _
    | with_reducible apply whenLive_keeps
    | with_reducible apply setCu_keeps
    | with_reducible apply setSite_keeps
    | with_reducible apply startSpare_keeps
    | with_reducible apply keeps_ite
    | with_reducible apply keepsOut_ite
    | with_reducible apply keepsOut_next
    | with_reducible apply keepsOpt_some
    | with_reducible exact keepsOpt_none
    | with_reducible apply keepsOpt_map
    | simp only [keeps_mk_iff]
    | split

theorem stopRunning_keeps {z0 : State} {s : State} {u : Nat} {n : Nat} {it : Item} {fault : Bool} (h_s : Keeps z0 s) :
    Keeps z0 (stopRunning s u n it fault) := by
  unfold stopRunning
  try dsimp only
  repeat' first
    | with_reducible assumption
    | intro _
    | with_reducible apply failItem_keeps
    | with_reducible apply dropFetched_keeps
    | with_reducible apply withdraw_keeps
    | with_reducible apply leaveUnit_keeps
    | with_reducible apply setItem_keeps
    | with_reducible apply keeps_ite

theorem losePair_keeps {z0 : State} {s : State} {u : Nat} (h_s : Keeps z0 s) :
    Keeps z0 (losePair s u) := by
  unfold losePair
  try dsimp only
  repeat' first
    | with_reducible assumption
    | intro _
    | with_reducible apply faultJob_keeps
    | with_reducible apply dropItem_keeps
    | with_reducible apply unreserveItem_keeps
    | with_reducible apply keeps_foldl

theorem unhalt_keeps {z0 : State} {s : State} {u : Nat} (h_s : Keeps z0 s) :
    Keeps z0 (unhalt s u) := by
  unfold unhalt
  try dsimp only
  repeat' first
    | with_reducible assumption
    | intro _
    | with_reducible apply keeps_ite
    | with_reducible apply keepsOpt_some
    | with_reducible exact keepsOpt_none
    | with_reducible apply keepsOpt_map
    | simp only [keeps_mk_iff]

theorem retire_keeps {z0 : State} {s : State} {u : Nat} (h_s : Keeps z0 s) :
    Keeps z0 (retire s u) := by
  unfold retire
  try dsimp only
  repeat' first
    | with_reducible assumption
    | intro _
    | with_reducible apply raiseWith_keeps
    | with_reducible apply disarm_keeps
    | with_reducible apply ccRelease_keeps
    | with_reducible apply unhalt_keeps
    | with_reducible apply losePair_keeps
    | with_reducible apply stopRunning_keeps
    | with_reducible apply dealQueued_keeps
    | with_reducible apply setCu_keeps
    | with_reducible apply startSpare_keeps
    | with_reducible apply setSite_keeps
    | with_reducible apply keeps_ite
    | with_reducible apply keepsOpt_some
    | with_reducible exact keepsOpt_none
    | with_reducible apply keepsOpt_map
    | with_reducible apply keeps_foldl

theorem cuRetireWrite_keeps {z0 : State} {s : State} {u : Nat} {v : W64} (h_s : Keeps z0 s) :
    Keeps z0 (cuRetireWrite s u v) := by
  unfold cuRetireWrite
  try dsimp only
  repeat' first
    | with_reducible assumption
    | intro _
    | with_reducible apply reject_keeps
    | with_reducible apply retire_keeps
    | with_reducible apply setCu_keeps
    | with_reducible apply keeps_ite

theorem execCuRetire_keeps {z0 : State} {u : Nat} {v : W64} {s : State} (h_s : Keeps z0 s) :
    KeepsOut z0 (execCuRetire u v s) := by
  unfold execCuRetire
  try dsimp only
  repeat' first
    | with_reducible assumption
    | intro _
    | with_reducible apply whenLive_keeps
    | with_reducible apply cuRetireWrite_keeps
    | with_reducible apply keeps_ite

theorem execCuFaultRetire_keeps {z0 : State} {u : Nat} {s : State} (h_s : Keeps z0 s) :
    KeepsOut z0 (execCuFaultRetire u s) := by
  unfold execCuFaultRetire
  try dsimp only
  repeat' first
    | with_reducible assumption
    | intro _
    | with_reducible apply whenLive_keeps
    | with_reducible apply retire_keeps
    | with_reducible apply keeps_ite

theorem watchdog_keeps {z0 : State} {s : State} {u : Nat} {inj : Bool} (h_s : Keeps z0 s) :
    Keeps z0 (watchdog s u inj) := by
  unfold watchdog
  try dsimp only
  repeat' first
    | with_reducible assumption
    | intro _
    | with_reducible apply setCu_keeps
    | with_reducible apply unitError_keeps

theorem execCuHeartbeat_keeps {z0 : State} {u : Nat} {s : State} (h_s : Keeps z0 s) :
    KeepsOut z0 (execCuHeartbeat u s) := by
  unfold execCuHeartbeat
  try dsimp only
  repeat' first
    | with_reducible assumption
    | intro _
    | with_reducible apply whenLive_keeps
    | with_reducible apply watchdog_keeps
    | with_reducible apply disarm_keeps
    | with_reducible apply setCu_keeps
    | with_reducible apply keeps_ite

theorem execCuWatchdogExpire_keeps {z0 : State} {u : Nat} {beats : Nat} {s : State} (h_s : Keeps z0 s) :
    KeepsOut z0 (execCuWatchdogExpire u beats s) := by
  unfold execCuWatchdogExpire
  try dsimp only
  repeat' first
    | with_reducible assumption
    | intro _
    | with_reducible apply whenLive_keeps
    | with_reducible apply watchdog_keeps
    | with_reducible apply disarm_keeps
    | with_reducible apply setCu_keeps
    | with_reducible apply keeps_ite

/-! ### Mxe -/

theorem rejectOp_keeps {z0 : State} {s : State} {u : Nat} {it : Item} {o : MxOp} {cause : Nat} (h_s : Keeps z0 s) :
    Keeps z0 (rejectOp s u it o cause) := by
  unfold rejectOp
  try dsimp only
  repeat' first
    | with_reducible assumption
    | intro _
    | with_reducible apply setReg_keeps
    | with_reducible apply raiseWith_keeps
    | with_reducible apply groupFault_keeps
    | with_reducible apply setCu_keeps

theorem execMxeOpStart_keeps {z0 : State} {u : Nat} {s : State} (h_s : Keeps z0 s) :
    KeepsOut z0 (execMxeOpStart u s) := by
  unfold execMxeOpStart
  try dsimp only
  repeat' first
    | with_reducible assumption
    | intro _
    | with_reducible apply whenLive_keeps
    | with_reducible apply rejectOp_keeps
    | with_reducible apply setCu_keeps
    | with_reducible apply countEv_keeps
    | with_reducible apply keeps_ite
    | with_reducible apply keepsOut_ite
    | with_reducible apply keepsOut_next
    | with_reducible apply keepsOpt_some
    | with_reducible exact keepsOpt_none
    | with_reducible apply keepsOpt_map
    | simp only [keeps_mk_iff]
    | split

theorem mxWrite_keeps {z0 : State} {s : State} {u : Nat} {it : Item} {d : MxDesc} {t : MxTiles} (h_s : Keeps z0 s) :
    Keeps z0 (mxWrite s u it d t) := by
  unfold mxWrite
  try dsimp only
  repeat' first
    | with_reducible assumption
    | intro _
    | with_reducible apply lsStore_keeps
    | with_reducible apply keeps_ite
    | with_reducible apply keepsOpt_some
    | with_reducible exact keepsOpt_none
    | with_reducible apply keepsOpt_map
    | with_reducible apply keeps_foldl

theorem mxExecute_keeps {z0 : State} {s : State} {u : Nat} {it : Item} {d : MxDesc} (h_s : Keeps z0 s) :
    Keeps z0 (mxExecute s u it d) := by
  unfold mxExecute
  try dsimp only
  repeat' first
    | with_reducible assumption
    | intro _
    | with_reducible apply mxWrite_keeps
    | with_reducible apply countEv_keeps

theorem opCounted_keeps {z0 : State} {s : State} {u : Nat} {h : Nat} (h_s : Keeps z0 s) :
    Keeps z0 (opCounted s u h) := by
  unfold opCounted
  try dsimp only
  repeat' first
    | with_reducible assumption
    | intro _
    | with_reducible apply setGrp_keeps
    | with_reducible apply keeps_ite
    | with_reducible apply keepsOpt_some
    | with_reducible exact keepsOpt_none
    | with_reducible apply keepsOpt_map
    | simp only [keeps_mk_iff]
    | split

theorem execMxeOpComplete_keeps {z0 : State} {u : Nat} {s : State} (h_s : Keeps z0 s) :
    KeepsOut z0 (execMxeOpComplete u s) := by
  unfold execMxeOpComplete
  try dsimp only
  repeat' first
    | with_reducible assumption
    | intro _
    | with_reducible apply whenLive_keeps
    | with_reducible apply lsRead_keeps
    | with_reducible apply setCu_keeps
    | with_reducible apply mxExecute_keeps
    | with_reducible apply setItem_keeps
    | with_reducible apply feedAll_keeps
    | with_reducible apply opCounted_keeps
    | with_reducible apply countEv_keeps
    | with_reducible apply keeps_ite
    | with_reducible apply keepsOut_ite
    | with_reducible apply keepsOut_next
    | with_reducible apply keepsOpt_some
    | with_reducible exact keepsOpt_none
    | with_reducible apply keepsOpt_map
    | simp only [keeps_mk_iff]
    | with_reducible apply KeepsSnd.of
    | with_reducible refine keepsSnd_eq (by with_reducible assumption) ?_
    | split

/-! ### Movers -/

theorem countMatrix_keeps {z0 : State} {s : State} {u : Nat} {t : TileJob} {l : List (List Byte)} (h_s : Keeps z0 s) :
    Keeps z0 (countMatrix s u t l) := by
  unfold countMatrix
  try dsimp only
  repeat' first
    | with_reducible assumption
    | intro _
    | with_reducible apply countEv_keeps

theorem prefetchTiles_keeps {z0 : State} {s : State} {u : Nat} {r : Rq} {t : TileJob} (h_s : Keeps z0 s) :
    Keeps z0 (prefetchTiles s u r t) := by
  unfold prefetchTiles
  try dsimp only
  repeat' first
    | with_reducible assumption
    | intro _
    | with_reducible apply countEv_keeps
    | with_reducible apply rqPrefetch_keeps
    | with_reducible apply keeps_ite

theorem tileError_keeps {z0 : State} {s : State} {n : Nat} {status : Nat} {it : Item} (h_s : Keeps z0 s) :
    Keeps z0 (tileError s n status it) := by
  unfold tileError
  try dsimp only
  repeat' first
    | with_reducible assumption
    | intro _
    | with_reducible apply setItem_keeps

theorem moveTile_keeps {z0 : State} {s : State} {u : Nat} {n : Nat} {ord : Nat} {it : Item} {j : Job} {d : StnDef} (h_s : Keeps z0 s) :
    Keeps z0 (moveTile s u n ord it j d) := by
  unfold moveTile
  extract_lets r
  split
  rename_i free s0 he
  have h0 : Keeps z0 s0 := by
    split at he
    · exact keepsSnd_eq he (takeFree_keeps h_s)
    · cases he; exact h_s
  extract_lets cols t
  split
  · rename_i he
    exact keepsSnd_eq he (rqReads_keeps (prefetchTiles_keeps h0))
  · rename_i he
    have h1 := keepsSnd_eq he (rqReads_keeps (prefetchTiles_keeps h0))
    extract_lets tr
    split
    · rename_i he
      exact keepsSnd_eq he (rqReads_keeps h1)
    · rename_i he
      have h2 := keepsSnd_eq he (rqReads_keeps h1)
      split
      · exact tileError_keeps h2
      · rename_i sectors counted _ _ _ _ _
        have hc : ∀ t, Keeps z0 t → Keeps z0 (counted t) := by
          intro t h
          have ha := countEv_keeps (page := uPmp u) (src := 1) (n := 1) h
          have hb := countEv_keeps (page := uPmp u) (src := 3) (n := sectors) ha
          refine dropFetched_keeps ?_
          refine keeps_ite (countMatrix_keeps ?_) ?_ <;> exact keeps_ite (countEv_keeps hb) hb
        split
        · exact tileError_keeps h2
        · split
          rename_i he
          have h3 := keepsSnd_eq he (rqWrites_keeps h2)
          exact keeps_ite (hc _ (setItem_keeps h3)) h3
        · split
          · exact h2
          · split
            rename_i he
            have h3 := keepsSnd_eq he (rqWrites_keeps h2)
            exact keeps_ite (hc _ (setItem_keeps h3)) h3

theorem execMoverTileDone_keeps {z0 : State} {u : Nat} {islot : Nat} {ord : Nat} {s : State} (h_s : Keeps z0 s) :
    KeepsOut z0 (execMoverTileDone u islot ord s) := by
  unfold execMoverTileDone
  try dsimp only
  repeat' first
    | with_reducible assumption
    | intro _
    | with_reducible apply whenLive_keeps
    | with_reducible apply moveTile_keeps
    | with_reducible apply keeps_ite
    | with_reducible apply keepsOut_ite
    | with_reducible apply keepsOut_next
    | with_reducible apply keepsOpt_some
    | with_reducible exact keepsOpt_none
    | with_reducible apply keepsOpt_map
    | simp only [keeps_mk_iff]
    | split

end Sys2Proof.Laws
end

