-- ==== Sys2Proof/Laws/KeepsWork.lean ====
section
/-! SUPPORT. One lemma per operation of the work of jobs: seats, commits, dispatch, job commands, lock-step: it keeps the fuses, the waiting commands and the canonical
form of every table (Laws/Keeps.lean). -/

set_option linter.unusedSimpArgs false
set_option linter.tactic.unusedName false
set_option linter.unusedVariables false

namespace Sys2Proof.Laws

open Sys2Proof.Machine

/-! ### Lockstep -/

theorem endPair_keeps {z0 : State} {s : State} {st : Nat} {status : Nat} {value : Nat} (h_s : Keeps z0 s) :
    Keeps z0 (endPair s st status value) := by
  unfold endPair
  try dsimp only
  repeat' first
    | with_reducible assumption
    | intro _
    | with_reducible apply setRegF_keeps
    | with_reducible apply finishDesc_keeps
    | with_reducible apply keepsOpt_some
    | with_reducible exact keepsOpt_none
    | with_reducible apply keepsOpt_map
    | simp only [keeps_mk_iff]
    | split

theorem peerWrite_keeps {z0 : State} {s : State} {p : Pair} {off : Nat} {bs : List Byte} (h_s : Keeps z0 s) :
    Keeps z0 (peerWrite s p off bs) := by
  unfold peerWrite
  try dsimp only
  repeat' first
    | with_reducible assumption
    | intro _
    | with_reducible apply enqueue_keeps
    | with_reducible apply keepsOpt_some
    | with_reducible exact keepsOpt_none
    | with_reducible apply keepsOpt_map
    | with_reducible apply keeps_foldl
    | simp only [keeps_mk_iff]
    | split

theorem greet_keeps {z0 : State} {s : State} {jn : Nat} (h_s : Keeps z0 s) :
    Keeps z0 (greet s jn) := by
  unfold greet
  try dsimp only
  repeat' first
    | with_reducible assumption
    | intro _
    | with_reducible apply peerWrite_keeps
    | with_reducible apply keepsOpt_some
    | with_reducible exact keepsOpt_none
    | with_reducible apply keepsOpt_map
    | simp only [keeps_mk_iff]
    | split

theorem logTile_keeps {z0 : State} {s : State} {jn : Nat} {j : Job} {step : Nat} {cid : Nat} {ord : Nat} {dig : Nat} (h_s : Keeps z0 s) :
    Keeps z0 (logTile s jn j step cid ord dig) := by
  unfold logTile
  try dsimp only
  repeat' first
    | with_reducible assumption
    | intro _
    | with_reducible apply homeWrite_keeps
    | with_reducible apply keepsOpt_some
    | with_reducible exact keepsOpt_none
    | with_reducible apply keepsOpt_map
    | simp only [keeps_mk_iff]
    | split

theorem lsRecord_keeps {z0 : State} {s : State} {jn : Nat} {j : Job} {step : Nat} (h_s : Keeps z0 s) :
    Keeps z0 (lsRecord s jn j step) := by
  unfold lsRecord
  try dsimp only
  repeat' first
    | with_reducible assumption
    | intro _
    | with_reducible apply peerWrite_keeps
    | with_reducible apply keepsOpt_some
    | with_reducible exact keepsOpt_none
    | with_reducible apply keepsOpt_map
    | simp only [keeps_mk_iff]
    | split

theorem compareGreetings_keeps {z0 : State} {s : State} {p : Pair} {j : Job} (h_s : Keeps z0 s) :
    Keeps z0 (compareGreetings s p j) := by
  unfold compareGreetings
  try dsimp only
  repeat' first
    | with_reducible assumption
    | intro _
    | with_reducible apply setRegF_keeps
    | with_reducible apply endPair_keeps
    | with_reducible apply keeps_ite

theorem askLog_keeps {z0 : State} {s : State} {p : Pair} {j : Job} {step : Nat} {d : StnDef} (h_s : Keeps z0 s) :
    KeepsSnd z0 (askLog s p j step d) := by
  unfold askLog
  split
  · exact keepsSnd_mk h_s
  · dsimp only
    split
    · exact keepsSnd_mk h_s
    · refine keepsSnd_mk (keeps_foldl ?_ h_s)
      intro t a h
      split
      · exact h
      · simp only [keeps_mk_iff]
        exact enqueue_keeps h

theorem execLockstepCompare_keeps {z0 : State} {s : State} (h_s : Keeps z0 s) :
    KeepsOut z0 (execLockstepCompare s) := by
  unfold execLockstepCompare
  try dsimp only
  repeat' first
    | with_reducible assumption
    | intro _
    | with_reducible apply whenLive_keeps
    | with_reducible apply compareGreetings_keeps
    | with_reducible apply peerWrite_keeps
    | with_reducible apply setReg_keeps
    | with_reducible apply askLog_keeps
    | with_reducible apply endPair_keeps
    | with_reducible apply dropFetched_keeps
    | with_reducible apply keeps_ite
    | with_reducible apply keepsOut_ite
    | with_reducible apply keepsOut_next
    | with_reducible apply keepsOpt_some
    | with_reducible exact keepsOpt_none
    | with_reducible apply keepsOpt_map
    | simp only [keeps_mk_iff]
    | with_reducible apply KeepsSnd.of
    | with_reducible refine keepsSnd_eq (by with_reducible assumption) ?_
    | split

/-! ### Seats -/

theorem setLraStep_keeps {z0 : State} {s : State} {g : Nat} {r : Nat} {v : Nat} (h_s : Keeps z0 s) :
    Keeps z0 (setLraStep s g r v) := by
  unfold setLraStep
  try dsimp only
  repeat' first
    | with_reducible assumption
    | intro _
    | with_reducible apply setReg_keeps

theorem setSeat_keeps {z0 : State} {s : State} {g : Nat} {r : Nat} {v : Seat} (h_s : Keeps z0 s) :
    Keeps z0 (State.setSeat s g r v) := by
  unfold State.setSeat
  try dsimp only
  repeat' first
    | with_reducible assumption
    | intro _
    | simp only [keeps_mk_iff]
    | (with_reducible apply keeps_all (by assumption) <;> first | exact id | exact wf_put _ _ _ _ | exact wf_memPut _ _ _ | exact wf_memPutMask _ _ _ _ | exact wf_dropKeys _ _ _ | exact fun _ => rfl)

theorem reach_keeps {z0 : State} {s : State} {g : Nat} {r : Nat} {c : Nat} (h_s : Keeps z0 s) :
    KeepsOpt z0 (reach s g r c) := by
  unfold reach
  try dsimp only
  repeat' first
    | with_reducible assumption
    | intro _
    | with_reducible apply setSeat_keeps
    | with_reducible apply keeps_ite
    | with_reducible apply keepsOpt_ite
    | with_reducible apply keepsOpt_some
    | with_reducible exact keepsOpt_none

theorem sendReduce_keeps {z0 : State} {s : State} {g : Nat} {r : Nat} {rep : Nat} {level : Nat} {chunk : Nat} {dir : Nat} {det : Bool} {step : Nat} {tiles : Nat} {data : List Byte} (h_s : Keeps z0 s) :
    Keeps z0 (sendReduce s g r rep level chunk dir det step tiles data) := by
  unfold sendReduce
  try dsimp only
  repeat' first
    | with_reducible assumption
    | intro _
    | with_reducible apply enqueue_keeps

theorem sendPulls_keeps {z0 : State} {s : State} {g : Nat} {r : Nat} (h_s : Keeps z0 s) :
    Keeps z0 (sendPulls s g r) := by
  unfold sendPulls
  try dsimp only
  repeat' first
    | with_reducible assumption
    | intro _
    | with_reducible apply countEv_keeps
    | with_reducible apply sendReduce_keeps
    | with_reducible apply keepsOpt_some
    | with_reducible exact keepsOpt_none
    | with_reducible apply keepsOpt_map
    | with_reducible apply keeps_foldl

theorem resultIn_keeps {z0 : State} {s : State} {g : Nat} {r : Nat} {chunk : Nat} {data : List Byte} (h_s : Keeps z0 s) :
    Keeps z0 (resultIn s g r chunk data) := by
  unfold resultIn
  try dsimp only
  repeat' first
    | with_reducible assumption
    | intro _
    | with_reducible apply setSeat_keeps
    | with_reducible apply keeps_ite

theorem nodeFormed_keeps {z0 : State} {s : State} {g : Nat} {r : Nat} {chunk : Nat} {level : Nat} {data : List Byte} (h_s : Keeps z0 s) :
    Keeps z0 (nodeFormed s g r chunk level data) := by
  unfold nodeFormed
  try dsimp only
  repeat' first
    | with_reducible assumption
    | intro _
    | with_reducible apply resultIn_keeps
    | with_reducible apply setSeat_keeps
    | with_reducible apply keeps_ite

theorem tryHop_keeps {z0 : State} {g : Nat} {r : Nat} {chunk : Nat} {s : State} {hop : Nat × Nat} (h_s : Keeps z0 s) :
    Keeps z0 (tryHop g r chunk s hop) := by
  unfold tryHop
  try dsimp only
  repeat' first
    | with_reducible assumption
    | intro _
    | with_reducible apply setSeat_keeps
    | with_reducible apply countEv_keeps
    | with_reducible apply countTdc_keeps
    | with_reducible apply nodeFormed_keeps
    | with_reducible apply keeps_ite

theorem formNodes_keeps {z0 : State} {s : State} {g : Nat} {r : Nat} {chunk : Nat} (h_s : Keeps z0 s) :
    Keeps z0 (formNodes s g r chunk) := by
  unfold formNodes
  try dsimp only
  repeat' first
    | with_reducible assumption
    | intro _
    | with_reducible apply nodeFormed_keeps
    | with_reducible apply tryHop_keeps
    | with_reducible apply keeps_ite
    | with_reducible apply keepsOpt_some
    | with_reducible exact keepsOpt_none
    | with_reducible apply keepsOpt_map
    | with_reducible apply keeps_foldl
    | simp only [keeps_mk_iff]
    | split

theorem takeSeat_keeps {z0 : State} {s : State} {jn : Nat} {sid : Nat} {j : Job} {d : StnDef} {step : Nat} (h_s : Keeps z0 s) :
    KeepsThd z0 (takeSeat s jn sid j d step) := by
  unfold takeSeat
  dsimp only
  split
  · exact keepsThd_mk h_s
  · split
    · exact keepsThd_mk (raiseInfo_keeps h_s)
    · rename_i g _ _
      have h1 : ∀ v, Keeps z0 (s.setSeat g (rvcOf d) v) := fun v => setSeat_keeps h_s
      have h2 : ∀ v, Keeps z0 (if (s.seat g (rvcOf d)).lost then sendPulls (s.setSeat g (rvcOf d) v) g (rvcOf d)
          else s.setSeat g (rvcOf d) v) := by
        intro v
        split
        · exact sendPulls_keeps (h1 v)
        · exact h1 v
      exact keepsThd_ite (keepsThd_mk (h2 _)) (keepsThd_mk (raiseInfo_keeps (h2 _)))

theorem failSeat_keeps {z0 : State} {s : State} {g : Nat} {r : Nat} {status : Nat} (h_s : Keeps z0 s) :
    Keeps z0 (failSeat s g r status) := by
  unfold failSeat
  try dsimp only
  repeat' first
    | with_reducible assumption
    | intro _
    | with_reducible apply setItem_keeps
    | with_reducible apply keepsOpt_some
    | with_reducible exact keepsOpt_none
    | with_reducible apply keepsOpt_map
    | with_reducible apply keeps_foldl

theorem clearSeat_keeps {z0 : State} {s : State} {g : Nat} {r : Nat} {committed : Nat → Bool} (h_s : Keeps z0 s) :
    Keeps z0 (clearSeat s g r committed) := by
  unfold clearSeat
  try dsimp only
  repeat' first
    | with_reducible assumption
    | intro _
    | with_reducible apply setSeat_keeps
    | with_reducible apply keeps_ite

theorem clearStationSeat_keeps {z0 : State} {s : State} {jn : Nat} {sid : Nat} (h_s : Keeps z0 s) :
    Keeps z0 (clearStationSeat s jn sid) := by
  unfold clearStationSeat
  try dsimp only
  repeat' first
    | with_reducible assumption
    | intro _
    | with_reducible apply clearSeat_keeps
    | with_reducible apply keeps_ite
    | with_reducible apply keepsOpt_some
    | with_reducible exact keepsOpt_none
    | with_reducible apply keepsOpt_map
    | simp only [keeps_mk_iff]
    | split

theorem seatCommitted_keeps {z0 : State} {s : State} {it : Item} (h_s : Keeps z0 s) :
    Keeps z0 (seatCommitted s it) := by
  unfold seatCommitted
  try dsimp only
  repeat' first
    | with_reducible assumption
    | intro _
    | with_reducible apply setSeat_keeps
    | with_reducible apply setLraStep_keeps
    | with_reducible apply keeps_ite
    | with_reducible apply keepsOpt_some
    | with_reducible exact keepsOpt_none
    | with_reducible apply keepsOpt_map
    | simp only [keeps_mk_iff]
    | split

theorem startSeats_keeps {z0 : State} {s : State} {j : Job} (h_s : Keeps z0 s) :
    Keeps z0 (startSeats s j) := by
  unfold startSeats
  try dsimp only
  repeat' first
    | with_reducible assumption
    | intro _
    | with_reducible apply setLraStep_keeps
    | with_reducible apply keeps_ite
    | with_reducible apply keepsOpt_some
    | with_reducible exact keepsOpt_none
    | with_reducible apply keepsOpt_map
    | with_reducible apply keeps_foldl
    | simp only [keeps_mk_iff]
    | split

/-! ### Commit -/

theorem logPlaces_keeps {z0 : State} {u : Nat} {aspace : Nat} {x2 : List LogEnt} {x3 : State} (h_x3 : Keeps z0 x3) :
    KeepsThd z0 (logPlaces u aspace x2 x3) := by
  induction x2 generalizing x3 with
  | nil => exact keepsThd_mk h_x3
  | cons y ys ih =>
    unfold logPlaces
    have h1 := (unitXlat_keeps (u := u) (aspace := aspace) (va := y.va) (n := 4) (acc := .at) h_x3).of
    revert h1
    generalize unitXlat x3 u aspace y.va 4 .at = q
    intro h1
    obtain ⟨x, s1⟩ := q
    cases x
    · exact keepsThd_mk (ih h1).of
    · exact keepsThd_mk (ih h1).of
    · exact keepsThd_mk h1

theorem performEntry_keeps {z0 : State} {s : State} {e : LogEnt × Where} (h_s : Keeps z0 s) :
    Keeps z0 (performEntry s e) := by
  unfold performEntry
  try dsimp only
  repeat' first
    | with_reducible assumption
    | intro _
    | with_reducible apply performAtomic_keeps
    | with_reducible apply dropCopies_keeps
    | with_reducible apply countTdc_keeps
    | with_reducible apply keeps_ite
    | simp only [keeps_mk_iff]
    | with_reducible apply KeepsSnd.of
    | with_reducible refine keepsSnd_eq (by with_reducible assumption) ?_
    | split

theorem entrySectorOut_keeps {z0 : State} {u : Nat} {s : State} {e : LogEnt × Where} (h_s : Keeps z0 s) :
    Keeps z0 (entrySectorOut u s e) := by
  unfold entrySectorOut
  try dsimp only
  repeat' first
    | with_reducible assumption
    | intro _
    | with_reducible apply ccSectorsOut_keeps
    | simp only [keeps_mk_iff]
    | split

theorem cleanVirtual_keeps {z0 : State} {u : Nat} {aspace : Nat} {x2 : Nat} {x3 : State} {x4 : Nat} {x5 : Nat} (h_x3 : Keeps z0 x3) :
    Keeps z0 (cleanVirtual u aspace x2 x3 x4 x5) := by
  induction x2 generalizing x3 x4 x5 with
  | zero =>
    unfold cleanVirtual
    try dsimp only
    repeat' first
      | with_reducible assumption
  | succ m ih =>
    unfold cleanVirtual
    try dsimp only
    repeat' first
      | with_reducible assumption
      | intro _
      | with_reducible apply ih
      | with_reducible apply unitXlat_keeps
      | with_reducible apply ccCleanRange_keeps
      | with_reducible apply unitXlat_keeps
      | with_reducible apply ccCleanRange_keeps
      | with_reducible apply keeps_ite
      | simp only [keeps_mk_iff]
      | with_reducible apply KeepsSnd.of
      | with_reducible refine keepsSnd_eq (by with_reducible assumption) ?_
      | split

theorem wakeSyncs_keeps {z0 : State} {s : State} {jn : Nat} (h_s : Keeps z0 s) :
    Keeps z0 (wakeSyncs s jn) := by
  unfold wakeSyncs
  try dsimp only
  repeat' first
    | with_reducible assumption
    | intro _
    | with_reducible apply finishDesc_keeps
    | with_reducible apply keeps_ite
    | with_reducible apply keepsOpt_some
    | with_reducible exact keepsOpt_none
    | with_reducible apply keepsOpt_map
    | with_reducible apply keeps_foldl
    | simp only [keeps_mk_iff]
    | split

theorem advanceSteps_keeps {z0 : State} {x0 : Nat} {x1 : State} {x2 : Nat} (h_x1 : Keeps z0 x1) :
    Keeps z0 (advanceSteps x0 x1 x2) := by
  induction x0 generalizing x1 x2 with
  | zero =>
    unfold advanceSteps
    try dsimp only
    repeat' first
      | with_reducible assumption
  | succ m ih =>
    unfold advanceSteps
    try dsimp only
    repeat' first
      | with_reducible assumption
      | intro _
      | with_reducible apply ih
      | with_reducible apply lsRecord_keeps
      | with_reducible apply setReg_keeps
      | with_reducible apply setJob_keeps
      | with_reducible apply countEv_keeps
      | with_reducible apply postRec_keeps
      | with_reducible apply wakeSyncs_keeps
      | with_reducible apply lsRecord_keeps
      | with_reducible apply setReg_keeps
      | with_reducible apply setJob_keeps
      | with_reducible apply countEv_keeps
      | with_reducible apply postRec_keeps
      | with_reducible apply wakeSyncs_keeps
      | with_reducible apply keeps_ite
      | with_reducible apply keepsOpt_some
      | with_reducible exact keepsOpt_none
      | with_reducible apply keepsOpt_map
      | simp only [keeps_mk_iff]
      | split

theorem advanceRegen_keeps {z0 : State} {s : State} {jn : Nat} (h_s : Keeps z0 s) :
    Keeps z0 (advanceRegen s jn) := by
  unfold advanceRegen
  try dsimp only
  repeat' first
    | with_reducible assumption
    | intro _
    | with_reducible apply endRegen_keeps
    | with_reducible apply keeps_ite
    | with_reducible apply keepsOpt_some
    | with_reducible exact keepsOpt_none
    | with_reducible apply keepsOpt_map
    | simp only [keeps_mk_iff]
    | split

theorem afterCommit_keeps {z0 : State} {s : State} {jn : Nat} (h_s : Keeps z0 s) :
    Keeps z0 (afterCommit s jn) := by
  unfold afterCommit
  try dsimp only
  repeat' first
    | with_reducible assumption
    | intro _
    | with_reducible apply advanceRegen_keeps
    | with_reducible apply advanceSteps_keeps

theorem commitNow_keeps {z0 : State} {s : State} {n : Nat} {it : Item} {j : Job} {st : Stn} {ps : List (LogEnt × Where)} {defs : List DefAdd} {tiles : List (PubTile × List Byte)} {frees : List (Nat × Nat × List Byte)} (h_s : Keeps z0 s) :
    Keeps z0 (commitNow s n it j st ps defs tiles frees) := by
  unfold commitNow
  try dsimp only
  repeat' first
    | with_reducible assumption
    | intro _
    | with_reducible apply performEntry_keeps
    | with_reducible apply entrySectorOut_keeps
    | with_reducible apply rqWrite_keeps
    | with_reducible apply logTile_keeps
    | with_reducible apply afterCommit_keeps
    | with_reducible apply dropItem_keeps
    | with_reducible apply seatCommitted_keeps
    | with_reducible apply setJob_keeps
    | with_reducible apply keeps_ite
    | with_reducible apply keepsOpt_some
    | with_reducible exact keepsOpt_none
    | with_reducible apply keepsOpt_map
    | with_reducible apply keeps_foldl
    | simp only [keeps_mk_iff]
    | with_reducible apply KeepsSnd.of
    | with_reducible refine keepsSnd_eq (by with_reducible assumption) ?_
    | split

theorem commitReady_keeps {z0 : State} {s : State} {n : Nat} {it : Item} {j : Job} {st : Stn} {ps : List (LogEnt × Where)} {defs : List DefAdd} (h_s : Keeps z0 s) :
    Keeps z0 (commitReady s n it j st ps defs) := by
  unfold commitReady
  dsimp only
  have h0 : Keeps z0 (if it.kind = 2 then
        (pubTiles j st.df it (fun _ => (64, 64, false))).foldl (fun t p =>
          cleanVirtual (it.die * 576 + it.owner) (itemRq s n it).aspace (slotBytes p.c.df.fmt / 4096 + 2) t
            (j.slotVa p.cid p.c p.o) (slotBytes p.c.df.fmt)) s
      else s) := by
    split
    · exact keeps_foldl (fun t a h => cleanVirtual_keeps h) h_s
    · exact h_s
  revert h0
  generalize (if it.kind = 2 then _ else s : State) = s0
  intro h0
  generalize (_ ++ _ : List (Nat × Nat)) = ranges
  have h1 := (rqReads_keeps (r := itemRq s n it) (x1 := ranges) h0).of
  revert h1
  generalize rqReads (itemRq s n it) ranges s0 = w
  intro h1
  obtain ⟨o, s1⟩ := w
  cases o with
  | none => exact h1
  | some p =>
    obtain ⟨tags, q⟩ := p
    dsimp only
    generalize pubTiles j st.df it _ = pubs
    generalize (List.map _ pubs : List (Nat × Nat)) = slots
    have h2 := (rqReads_keeps (r := itemRq s n it) (x1 := slots) h1).of
    revert h2
    generalize rqReads (itemRq s n it) slots s1 = w
    intro h2
    obtain ⟨o, s2⟩ := w
    cases o with
    | none => exact h2
    | some p =>
      obtain ⟨slots, q⟩ := p
      dsimp only
      have h3 : ∀ l, Keeps z0 (rqProbe (itemRq s n it) l s2).2 := fun l => (rqProbe_keeps h2).of
      have h4 : ∀ (r : Rq) l m, Keeps z0 (rqProbe r m (rqProbe (itemRq s n it) l s2).2).2 :=
        fun r l m => (rqProbe_keeps (h3 l)).of
      cases regenOf j it with
      | none =>
        dsimp only
        split
        · exact commitNow_keeps (h3 _)
        · exact h3 _
      | some g =>
        dsimp only
        cases (rqProbe (itemRq s n it) _ s2).1
        · exact h3 _
        · simp only [if_true]
          split
          · exact commitNow_keeps (h4 _ _ _)
          · exact h4 _ _ _

theorem commitItem_keeps {z0 : State} {s : State} {n : Nat} {it : Item} {j : Job} {st : Stn} (h_s : Keeps z0 s) :
    Keeps z0 (commitItem s n it j st) := by
  unfold commitItem
  try dsimp only
  repeat' first
    | with_reducible assumption
    | intro _
    | with_reducible apply logPlaces_keeps
    | with_reducible apply itemFault_keeps
    | with_reducible apply enqueue_keeps
    | with_reducible apply setItem_keeps
    | with_reducible apply faultJob_keeps
    | with_reducible apply commitReady_keeps
    | with_reducible apply keeps_ite
    | with_reducible apply keepsOpt_some
    | with_reducible exact keepsOpt_none
    | with_reducible apply keepsOpt_map
    | with_reducible apply keeps_foldl
    | simp only [keeps_mk_iff]
    | with_reducible apply KeepsThd.of
    | with_reducible refine keepsThd_eq (by with_reducible assumption) ?_
    | split

theorem execItemCommit_keeps {z0 : State} {n : Nat} {s : State} (h_s : Keeps z0 s) :
    KeepsOut z0 (execItemCommit n s) := by
  unfold execItemCommit
  try dsimp only
  repeat' first
    | with_reducible assumption
    | intro _
    | with_reducible apply whenLive_keeps
    | with_reducible apply commitItem_keeps
    | with_reducible apply keeps_ite
    | with_reducible apply keepsOut_ite
    | with_reducible apply keepsOut_next
    | with_reducible apply keepsOpt_some
    | with_reducible exact keepsOpt_none
    | with_reducible apply keepsOpt_map
    | simp only [keeps_mk_iff]
    | split

theorem execItemError_keeps {z0 : State} {n : Nat} {s : State} (h_s : Keeps z0 s) :
    KeepsOut z0 (execItemError n s) := by
  unfold execItemError
  try dsimp only
  repeat' first
    | with_reducible assumption
    | intro _
    | with_reducible apply whenLive_keeps
    | with_reducible apply failItem_keeps
    | with_reducible apply keeps_ite
    | with_reducible apply keepsOut_ite
    | with_reducible apply keepsOut_next
    | with_reducible apply keepsOpt_some
    | with_reducible exact keepsOpt_none
    | with_reducible apply keepsOpt_map
    | simp only [keeps_mk_iff]
    | split

theorem applyAdds_keeps {z0 : State} {s : State} {addr : Nat} {l : List DefAdd} (h_s : Keeps z0 s) :
    Keeps z0 (applyAdds s addr l) := by
  unfold applyAdds
  try dsimp only
  repeat' first
    | with_reducible assumption
    | intro _
    | with_reducible apply performAtomic_keeps
    | with_reducible apply dropCopies_keeps
    | with_reducible apply keepsOpt_some
    | with_reducible exact keepsOpt_none
    | with_reducible apply keepsOpt_map
    | with_reducible apply KeepsSnd.of

theorem execDeferredAddsApplied_keeps {z0 : State} {jn : Nat} {s : State} (h_s : Keeps z0 s) :
    KeepsOut z0 (execDeferredAddsApplied jn s) := by
  unfold execDeferredAddsApplied
  try dsimp only
  repeat' first
    | with_reducible assumption
    | intro _
    | with_reducible apply whenLive_keeps
    | with_reducible apply applyAdds_keeps
    | with_reducible apply afterCommit_keeps
    | with_reducible apply setJob_keeps
    | with_reducible apply keeps_ite
    | with_reducible apply keepsOut_ite
    | with_reducible apply keepsOut_next
    | with_reducible apply keepsOpt_some
    | with_reducible exact keepsOpt_none
    | with_reducible apply keepsOpt_map
    | with_reducible apply keeps_foldl
    | simp only [keeps_mk_iff]
    | split

/-! ### Work -/

theorem finishAll_keeps {z0 : State} {s : State} {l : List (Nat × Desc)} {status : Nat} (h_s : Keeps z0 s) :
    Keeps z0 (finishAll s l status) := by
  unfold finishAll
  try dsimp only
  repeat' first
    | with_reducible assumption
    | intro _
    | with_reducible apply finishDesc_keeps
    | with_reducible apply keeps_foldl

theorem abortItems_keeps {z0 : State} {s : State} {l : List (Nat × Item)} (h_s : Keeps z0 s) :
    Keeps z0 (abortItems s l) := by
  unfold abortItems
  try dsimp only
  repeat' first
    | with_reducible assumption
    | intro _
    | with_reducible apply abortItem_keeps
    | with_reducible apply keeps_ite
    | with_reducible apply keeps_foldl

theorem enterItem_keeps {z0 : State} {s : State} {it : Item} {d : StnDef} (h_s : Keeps z0 s) :
    Keeps z0 (enterItem s it d) := by
  unfold enterItem
  try dsimp only
  repeat' first
    | with_reducible assumption
    | intro _
    | with_reducible apply setJob_keeps
    | with_reducible apply setItem_keeps
    | with_reducible apply keepsOpt_some
    | with_reducible exact keepsOpt_none
    | with_reducible apply keepsOpt_map
    | simp only [keeps_mk_iff]
    | split

theorem beginOn_keeps {z0 : State} {s : State} {jn : Nat} {d : Nat} {step : Nat} (h_s : Keeps z0 s) :
    Keeps z0 (beginOn s jn d step) := by
  unfold beginOn
  try dsimp only
  repeat' first
    | with_reducible assumption
    | intro _
    | with_reducible apply hintsAtDispatch_keeps
    | with_reducible apply setJob_keeps
    | with_reducible apply keeps_ite
    | with_reducible apply keepsOpt_some
    | with_reducible exact keepsOpt_none
    | with_reducible apply keepsOpt_map
    | simp only [keeps_mk_iff]
    | split

theorem dispatchUnit_keeps {z0 : State} {s : State} {jn : Nat} {sid : Nat} {step : Nat} {i : Nat} {j : Job} {d : StnDef} (h_s : Keeps z0 s) :
    Keeps z0 (dispatchUnit s jn sid step i j d) := by
  unfold dispatchUnit
  try dsimp only
  repeat' first
    | with_reducible assumption
    | intro _
    | with_reducible apply countEv_keeps
    | with_reducible apply enterItem_keeps
    | with_reducible apply setCu_keeps
    | with_reducible apply beginOn_keeps
    | with_reducible apply keeps_ite
    | with_reducible apply keepsOpt_some
    | with_reducible exact keepsOpt_none
    | with_reducible apply keepsOpt_map
    | simp only [keeps_mk_iff]
    | split
    | (with_reducible apply keeps_all (by assumption) <;> first | exact id | exact wf_put _ _ _ _ | exact wf_memPut _ _ _ | exact wf_memPutMask _ _ _ _ | exact wf_dropKeys _ _ _ | exact fun _ => rfl)

theorem pinTensor_keeps {z0 : State} {s : State} {jn : Nat} {sid : Nat} {j : Job} {st : Stn} (h_s : Keeps z0 s) :
    KeepsSnd z0 (pinTensor s jn sid j st) := by
  unfold pinTensor
  split
  · split <;> exact keepsSnd_mk h_s
  · split
    · exact keepsSnd_mk h_s
    · split
      · exact keepsSnd_mk h_s
      · exact keepsSnd_mk (countTdc_keeps (setJob_keeps h_s))

theorem dispatchWindlass_keeps {z0 : State} {s : State} {jn : Nat} {sid : Nat} {step : Nat} {i : Nat} {j : Job} {st : Stn} (h_s : Keeps z0 s) :
    Keeps z0 (dispatchWindlass s jn sid step i j st) := by
  unfold dispatchWindlass
  try dsimp only
  repeat' first
    | with_reducible assumption
    | intro _
    | with_reducible apply pinTensor_keeps
    | with_reducible apply enterItem_keeps
    | with_reducible apply keeps_ite
    | with_reducible apply keepsOpt_some
    | with_reducible exact keepsOpt_none
    | with_reducible apply keepsOpt_map
    | simp only [keeps_mk_iff]
    | with_reducible apply KeepsSnd.of
    | with_reducible refine keepsSnd_eq (by with_reducible assumption) ?_
    | split

theorem grantCredit_keeps {z0 : State} {s : State} {n : Nat} {mark : Nat} (h_s : Keeps z0 s) :
    Keeps z0 (grantCredit s n mark) := by
  unfold grantCredit
  try dsimp only
  repeat' first
    | with_reducible assumption
    | intro _
    | with_reducible apply setFlow_keeps
    | with_reducible apply keeps_ite
    | with_reducible apply keepsOpt_some
    | with_reducible exact keepsOpt_none
    | with_reducible apply keepsOpt_map
    | simp only [keeps_mk_iff]
    | split

theorem dispatchFlow_keeps {z0 : State} {s : State} {jn : Nat} {sid : Nat} {step : Nat} {i : Nat} {j : Job} {d : StnDef} (h_s : Keeps z0 s) :
    Keeps z0 (dispatchFlow s jn sid step i j d) := by
  unfold dispatchFlow
  try dsimp only
  repeat' first
    | with_reducible assumption
    | intro _
    | with_reducible apply enterItem_keeps
    | with_reducible apply grantCredit_keeps
    | with_reducible apply keeps_ite
    | with_reducible apply keepsOpt_some
    | with_reducible exact keepsOpt_none
    | with_reducible apply keepsOpt_map
    | simp only [keeps_mk_iff]
    | split

theorem dispatchReduce_keeps {z0 : State} {s : State} {jn : Nat} {sid : Nat} {step : Nat} {i : Nat} {j : Job} {d : StnDef} (h_s : Keeps z0 s) :
    Keeps z0 (dispatchReduce s jn sid step i j d) := by
  unfold dispatchReduce
  try dsimp only
  repeat' first
    | with_reducible assumption
    | intro _
    | with_reducible apply takeSeat_keeps
    | with_reducible apply enterItem_keeps
    | with_reducible apply keeps_ite
    | with_reducible apply keepsOpt_some
    | with_reducible exact keepsOpt_none
    | with_reducible apply keepsOpt_map
    | with_reducible apply KeepsThd.of

theorem execItemDispatch_keeps {z0 : State} {jn : Nat} {sid : Nat} {step : Nat} {ix : Nat} {s : State} (h_s : Keeps z0 s) :
    KeepsOut z0 (execItemDispatch jn sid step ix s) := by
  unfold execItemDispatch
  try dsimp only
  repeat' first
    | with_reducible assumption
    | intro _
    | with_reducible apply whenLive_keeps
    | with_reducible apply dispatchUnit_keeps
    | with_reducible apply dispatchWindlass_keeps
    | with_reducible apply dispatchReduce_keeps
    | with_reducible apply dispatchFlow_keeps
    | with_reducible apply keeps_ite
    | with_reducible apply keepsOut_ite
    | with_reducible apply keepsOut_next
    | with_reducible apply keepsOpt_some
    | with_reducible exact keepsOpt_none
    | with_reducible apply keepsOpt_map
    | simp only [keeps_mk_iff]
    | split

theorem setJobRegs_keeps {z0 : State} {s : State} {jn : Nat} {psc : Nat} {s0 : Nat} {seed : Nat} (h_s : Keeps z0 s) :
    Keeps z0 (setJobRegs s jn psc s0 seed) := by
  unfold setJobRegs
  try dsimp only
  repeat' first
    | with_reducible assumption
    | intro _
    | with_reducible apply setReg_keeps

theorem startJob_keeps {z0 : State} {s : State} {jn : Nat} {j : Job} {q : Nat} {s0 : Nat} {n : Nat} {seed : Nat} (h_s : Keeps z0 s) :
    Keeps z0 (startJob s jn j q s0 n seed) := by
  unfold startJob
  try dsimp only
  repeat' first
    | with_reducible assumption
    | intro _
    | with_reducible apply greet_keeps
    | with_reducible apply startSeats_keeps
    | with_reducible apply setJobRegs_keeps
    | with_reducible apply setJob_keeps

theorem execStart_keeps {z0 : State} {q : Nat} {idx : Nat} {s : State} (h_s : Keeps z0 s) :
    KeepsOut z0 (execStart q idx s) := by
  unfold execStart
  try dsimp only
  repeat' first
    | with_reducible assumption
    | intro _
    | with_reducible apply descRow_keeps
    | with_reducible apply finishDesc_keeps
    | with_reducible apply startJob_keeps
    | with_reducible apply keeps_ite
    | with_reducible apply keepsOut_ite
    | with_reducible apply keepsOut_next
    | with_reducible apply keepsOpt_some
    | with_reducible exact keepsOpt_none
    | with_reducible apply keepsOpt_map
    | simp only [keeps_mk_iff]
    | split

theorem execAdmit_keeps {z0 : State} {q : Nat} {idx : Nat} {s : State} (h_s : Keeps z0 s) :
    KeepsOut z0 (execAdmit q idx s) := by
  unfold execAdmit
  try dsimp only
  repeat' first
    | with_reducible assumption
    | intro _
    | with_reducible apply descRow_keeps
    | with_reducible apply finishDesc_keeps
    | with_reducible apply setJob_keeps
    | with_reducible apply keeps_ite
    | with_reducible apply keepsOut_ite
    | with_reducible apply keepsOut_next
    | with_reducible apply keepsOpt_some
    | with_reducible exact keepsOpt_none
    | with_reducible apply keepsOpt_map
    | simp only [keeps_mk_iff]
    | split

theorem stnRow_keeps {z0 : State} {q : Nat} {idx : Nat} {ctl : Nat} {body : State → Nat → Job → Nat → Stn → State} {s : State} (h_s : Keeps z0 s) (k_body : ∀ (y1 : State) (y2 : Nat) (y3 : Job) (y4 : Nat) (y5 : Stn), Keeps z0 y1 → Keeps z0 (body y1 y2 y3 y4 y5)) :
    KeepsOut z0 (stnRow q idx ctl body s) := by
  unfold stnRow
  try dsimp only
  repeat' first
    | with_reducible assumption
    | intro _
    | with_reducible apply descRow_keeps
    | with_reducible apply finishDesc_keeps
    | with_reducible apply k_body
    | with_reducible apply keeps_ite
    | with_reducible apply keepsOut_ite
    | with_reducible apply keepsOut_next
    | with_reducible apply keepsOpt_some
    | with_reducible exact keepsOpt_none
    | with_reducible apply keepsOpt_map
    | simp only [keeps_mk_iff]
    | with_reducible refine keepsOpt_eq (by with_reducible assumption) ?_
    | split

theorem execStnctlDrain_keeps {z0 : State} {q : Nat} {idx : Nat} {s : State} (h_s : Keeps z0 s) :
    KeepsOut z0 (execStnctlDrain q idx s) := by
  unfold execStnctlDrain
  try dsimp only
  repeat' first
    | with_reducible assumption
    | intro _
    | with_reducible apply stnRow_keeps
    | with_reducible apply startDesc_keeps
    | with_reducible apply setJob_keeps
    | with_reducible apply finishDesc_keeps
    | with_reducible apply keeps_ite

theorem abortStation_keeps {z0 : State} {s : State} {jn : Nat} {sid : Nat} (h_s : Keeps z0 s) :
    Keeps z0 (abortStation s jn sid) := by
  unfold abortStation
  try dsimp only
  repeat' first
    | with_reducible assumption
    | intro _
    | with_reducible apply clearStationSeat_keeps
    | with_reducible apply abortItems_keeps

theorem execStnctlAbort_keeps {z0 : State} {q : Nat} {idx : Nat} {s : State} (h_s : Keeps z0 s) :
    KeepsOut z0 (execStnctlAbort q idx s) := by
  unfold execStnctlAbort
  try dsimp only
  repeat' first
    | with_reducible assumption
    | intro _
    | with_reducible apply stnRow_keeps
    | with_reducible apply startDesc_keeps
    | with_reducible apply abortStation_keeps
    | with_reducible apply setJob_keeps
    | with_reducible apply finishDesc_keeps
    | with_reducible apply keeps_ite

theorem execStnctlResume_keeps {z0 : State} {q : Nat} {idx : Nat} {s : State} (h_s : Keeps z0 s) :
    KeepsOut z0 (execStnctlResume q idx s) := by
  unfold execStnctlResume
  try dsimp only
  repeat' first
    | with_reducible assumption
    | intro _
    | with_reducible apply stnRow_keeps
    | with_reducible apply finishDesc_keeps
    | with_reducible apply setJob_keeps
    | with_reducible apply keeps_ite

theorem execStationStopped_keeps {z0 : State} {jn : Nat} {sid : Nat} {s : State} (h_s : Keeps z0 s) :
    KeepsOut z0 (execStationStopped jn sid s) := by
  unfold execStationStopped
  try dsimp only
  repeat' first
    | with_reducible assumption
    | intro _
    | with_reducible apply whenLive_keeps
    | with_reducible apply setJob_keeps
    | with_reducible apply finishAll_keeps
    | with_reducible apply keeps_ite
    | with_reducible apply keepsOut_ite
    | with_reducible apply keepsOut_next
    | with_reducible apply keepsOpt_some
    | with_reducible exact keepsOpt_none
    | with_reducible apply keepsOpt_map
    | simp only [keeps_mk_iff]
    | split

theorem jobRow_keeps {z0 : State} {q : Nat} {idx : Nat} {ctl : Nat} {body : State → Nat → Job → State} {s : State} (h_s : Keeps z0 s) (k_body : ∀ (y1 : State) (y2 : Nat) (y3 : Job), Keeps z0 y1 → Keeps z0 (body y1 y2 y3)) :
    KeepsOut z0 (jobRow q idx ctl body s) := by
  unfold jobRow
  try dsimp only
  repeat' first
    | with_reducible assumption
    | intro _
    | with_reducible apply descRow_keeps
    | with_reducible apply finishDesc_keeps
    | with_reducible apply k_body
    | with_reducible apply keeps_ite
    | with_reducible apply keepsOut_ite
    | with_reducible apply keepsOut_next
    | with_reducible apply keepsOpt_some
    | with_reducible exact keepsOpt_none
    | with_reducible apply keepsOpt_map
    | simp only [keeps_mk_iff]
    | with_reducible refine keepsOpt_eq (by with_reducible assumption) ?_
    | split

theorem execJobctlDrain_keeps {z0 : State} {q : Nat} {idx : Nat} {s : State} (h_s : Keeps z0 s) :
    KeepsOut z0 (execJobctlDrain q idx s) := by
  unfold execJobctlDrain
  try dsimp only
  repeat' first
    | with_reducible assumption
    | intro _
    | with_reducible apply jobRow_keeps
    | with_reducible apply finishDesc_keeps
    | with_reducible apply startDesc_keeps
    | with_reducible apply setJob_keeps
    | with_reducible apply keeps_ite

theorem abortDone_keeps {z0 : State} {s : State} {jn : Nat} (h_s : Keeps z0 s) :
    Keeps z0 (abortDone s jn) := by
  unfold abortDone
  try dsimp only
  repeat' first
    | with_reducible assumption
    | intro _
    | with_reducible apply flushConduits_keeps
    | with_reducible apply setJob_keeps
    | with_reducible apply finishAll_keeps
    | with_reducible apply keeps_ite
    | with_reducible apply keepsOpt_some
    | with_reducible exact keepsOpt_none
    | with_reducible apply keepsOpt_map
    | simp only [keeps_mk_iff]
    | split

theorem abortJob_keeps {z0 : State} {s : State} {jn : Nat} {j : Job} (h_s : Keeps z0 s) :
    Keeps z0 (abortJob s jn j) := by
  unfold abortJob
  try dsimp only
  repeat' first
    | with_reducible assumption
    | intro _
    | with_reducible apply setJob_keeps
    | with_reducible apply finishAll_keeps
    | with_reducible apply finishDesc_keeps
    | with_reducible apply endPair_keeps
    | with_reducible apply clearStationSeat_keeps
    | with_reducible apply abortItems_keeps
    | with_reducible apply keeps_ite
    | with_reducible apply keepsOpt_some
    | with_reducible exact keepsOpt_none
    | with_reducible apply keepsOpt_map
    | with_reducible apply keeps_foldl
    | simp only [keeps_mk_iff]
    | split

theorem execJobctlAbort_keeps {z0 : State} {q : Nat} {idx : Nat} {s : State} (h_s : Keeps z0 s) :
    KeepsOut z0 (execJobctlAbort q idx s) := by
  unfold execJobctlAbort
  try dsimp only
  repeat' first
    | with_reducible assumption
    | intro _
    | with_reducible apply jobRow_keeps
    | with_reducible apply finishDesc_keeps
    | with_reducible apply abortDone_keeps
    | with_reducible apply startDesc_keeps
    | with_reducible apply abortJob_keeps
    | with_reducible apply keeps_ite

theorem dropStuck_keeps {z0 : State} {s : State} {jn : Nat} (h_s : Keeps z0 s) :
    Keeps z0 (dropStuck s jn) := by
  unfold dropStuck
  try dsimp only
  repeat' first
    | with_reducible assumption
    | intro _
    | with_reducible apply dropItem_keeps
    | with_reducible apply unreserveItem_keeps
    | with_reducible apply keeps_ite
    | with_reducible apply keeps_foldl

theorem execJobctlResume_keeps {z0 : State} {q : Nat} {idx : Nat} {s : State} (h_s : Keeps z0 s) :
    KeepsOut z0 (execJobctlResume q idx s) := by
  unfold execJobctlResume
  try dsimp only
  repeat' first
    | with_reducible assumption
    | intro _
    | with_reducible apply jobRow_keeps
    | with_reducible apply finishDesc_keeps
    | with_reducible apply dropStuck_keeps
    | with_reducible apply setJob_keeps
    | with_reducible apply wakeSyncs_keeps
    | with_reducible apply keeps_ite
    | with_reducible apply keepsOut_ite
    | with_reducible apply keepsOut_next
    | with_reducible apply keepsOpt_some
    | with_reducible exact keepsOpt_none
    | with_reducible apply keepsOpt_map
    | simp only [keeps_mk_iff]
    | split

theorem execJobStopped_keeps {z0 : State} {jn : Nat} {s : State} (h_s : Keeps z0 s) :
    KeepsOut z0 (execJobStopped jn s) := by
  unfold execJobStopped
  try dsimp only
  repeat' first
    | with_reducible assumption
    | intro _
    | with_reducible apply whenLive_keeps
    | with_reducible apply abortDone_keeps
    | with_reducible apply setJob_keeps
    | with_reducible apply finishAll_keeps
    | with_reducible apply keeps_ite
    | with_reducible apply keepsOut_ite
    | with_reducible apply keepsOut_next
    | with_reducible apply keepsOpt_some
    | with_reducible exact keepsOpt_none
    | with_reducible apply keepsOpt_map
    | simp only [keeps_mk_iff]
    | split

theorem queryWrite_keeps {z0 : State} {s : State} {q : Nat} {idx : Nat} {d : Desc} {block : List Byte} (h_s : Keeps z0 s) :
    Keeps z0 (queryWrite s q idx d block) := by
  unfold queryWrite
  try dsimp only
  repeat' first
    | with_reducible assumption
    | intro _
    | with_reducible apply rqWrite_keeps
    | with_reducible apply finishDesc_keeps
    | with_reducible apply updDesc_keeps
    | with_reducible apply keeps_ite
    | simp only [keeps_mk_iff]
    | with_reducible apply KeepsSnd.of
    | with_reducible refine keepsSnd_eq (by with_reducible assumption) ?_
    | split

theorem execQuery_keeps {z0 : State} {q : Nat} {idx : Nat} {s : State} (h_s : Keeps z0 s) :
    KeepsOut z0 (execQuery q idx s) := by
  unfold execQuery
  try dsimp only
  repeat' first
    | with_reducible assumption
    | intro _
    | with_reducible apply descRow_keeps
    | with_reducible apply queryWrite_keeps
    | with_reducible apply finishDesc_keeps
    | with_reducible apply keepsOut_next
    | with_reducible apply keepsOpt_some
    | with_reducible exact keepsOpt_none
    | with_reducible apply keepsOpt_map
    | simp only [keeps_mk_iff]
    | split

theorem execUnload_keeps {z0 : State} {q : Nat} {idx : Nat} {s : State} (h_s : Keeps z0 s) :
    KeepsOut z0 (execUnload q idx s) := by
  unfold execUnload
  try dsimp only
  repeat' first
    | with_reducible assumption
    | intro _
    | with_reducible apply descRow_keeps
    | with_reducible apply finishDesc_keeps
    | with_reducible apply finishAll_keeps
    | with_reducible apply endPair_keeps
    | with_reducible apply setJobRegs_keeps
    | with_reducible apply setJob_keeps
    | with_reducible apply keeps_ite
    | with_reducible apply keepsOut_ite
    | with_reducible apply keepsOut_next
    | with_reducible apply keepsOpt_some
    | with_reducible exact keepsOpt_none
    | with_reducible apply keepsOpt_map
    | simp only [keeps_mk_iff]
    | split

theorem execSync_keeps {z0 : State} {q : Nat} {idx : Nat} {s : State} (h_s : Keeps z0 s) :
    KeepsOut z0 (execSync q idx s) := by
  unfold execSync
  try dsimp only
  repeat' first
    | with_reducible assumption
    | intro _
    | with_reducible apply descRow_keeps
    | with_reducible apply finishDesc_keeps
    | with_reducible apply startDesc_keeps
    | with_reducible apply keeps_ite
    | with_reducible apply keepsOut_ite
    | with_reducible apply keepsOut_next
    | with_reducible apply keepsOpt_some
    | with_reducible exact keepsOpt_none
    | with_reducible apply keepsOpt_map
    | simp only [keeps_mk_iff]
    | split

/-! ### Regen -/

theorem beginRegen_keeps {z0 : State} {s : State} {q : Nat} {idx : Nat} {jn : Nat} {sid : Nat} {step : Nat} {s0 : Nat} {seed : Nat} {buf : Nat} {j : Job} (h_s : Keeps z0 s) :
    Keeps z0 (beginRegen s q idx jn sid step s0 seed buf j) := by
  unfold beginRegen
  try dsimp only
  repeat' first
    | with_reducible assumption
    | intro _
    | with_reducible apply startDesc_keeps
    | with_reducible apply setJob_keeps

theorem execRegen_keeps {z0 : State} {q : Nat} {idx : Nat} {s : State} (h_s : Keeps z0 s) :
    KeepsOut z0 (execRegen q idx s) := by
  unfold execRegen
  try dsimp only
  repeat' first
    | with_reducible assumption
    | intro _
    | with_reducible apply descRow_keeps
    | with_reducible apply finishDesc_keeps
    | with_reducible apply beginRegen_keeps
    | with_reducible apply keeps_ite
    | with_reducible apply keepsOut_ite
    | with_reducible apply keepsOut_next
    | with_reducible apply keepsOpt_some
    | with_reducible exact keepsOpt_none
    | with_reducible apply keepsOpt_map
    | simp only [keeps_mk_iff]
    | split

theorem execLspair_keeps {z0 : State} {q : Nat} {idx : Nat} {s : State} (h_s : Keeps z0 s) :
    KeepsOut z0 (execLspair q idx s) := by
  unfold execLspair
  try dsimp only
  repeat' first
    | with_reducible assumption
    | intro _
    | with_reducible apply descRow_keeps
    | with_reducible apply finishDesc_keeps
    | with_reducible apply setReg_keeps
    | with_reducible apply startDesc_keeps
    | with_reducible apply keeps_ite
    | with_reducible apply keepsOut_ite
    | with_reducible apply keepsOut_next
    | with_reducible apply keepsOpt_some
    | with_reducible exact keepsOpt_none
    | with_reducible apply keepsOpt_map
    | simp only [keeps_mk_iff]
    | split

theorem execLsend_keeps {z0 : State} {q : Nat} {idx : Nat} {s : State} (h_s : Keeps z0 s) :
    KeepsOut z0 (execLsend q idx s) := by
  unfold execLsend
  try dsimp only
  repeat' first
    | with_reducible assumption
    | intro _
    | with_reducible apply descRow_keeps
    | with_reducible apply endPair_keeps
    | with_reducible apply finishDesc_keeps
    | with_reducible apply keeps_ite

end Sys2Proof.Laws
end

