-- ==== Sys2Proof/Laws/KeepsModule.lean ====
section
/-! SUPPORT. One lemma per operation of power control, the module as a whole, boot: it keeps the fuses, the waiting commands and the canonical
form of every table (Laws/Keeps.lean). -/

set_option linter.unusedSimpArgs false
set_option linter.tactic.unusedName false
set_option linter.unusedVariables false

namespace Sys2Proof.Laws

open Sys2Proof.Machine

/-! ### Power -/

theorem thermStep_keeps {z0 : State} {s : State} {d : Nat} {tmax : Nat} (h_s : Keeps z0 s) :
    Keeps z0 (thermStep s d tmax) := by
  unfold thermStep
  try dsimp only
  repeat' first
    | with_reducible assumption
    | intro _
    | with_reducible apply disarm_keeps
    | with_reducible apply setPdie_keeps
    | with_reducible apply raiseWith_keeps
    | with_reducible apply setRegF_keeps
    | with_reducible apply countEv_keeps
    | with_reducible apply keeps_ite

theorem execPwrWindow_keeps {z0 : State} {d : Nat} {acts : List (Nat × Nat × Nat)} {staticMw : Nat} {tmax : Nat} {waiting : Bool} {sideWaiting : Bool} {s : State} (h_s : Keeps z0 s) :
    KeepsOut z0 (execPwrWindow d acts staticMw tmax waiting sideWaiting s) := by
  unfold execPwrWindow
  try dsimp only
  repeat' first
    | with_reducible assumption
    | intro _
    | with_reducible apply whenLive_keeps
    | with_reducible apply thermStep_keeps
    | with_reducible apply setPdie_keeps
    | with_reducible apply mapRails_keeps
    | with_reducible apply freqUpdateAll_keeps
    | with_reducible apply setRegF_keeps
    | with_reducible apply countEv_keeps
    | with_reducible apply keeps_ite

theorem execPwrReport_keeps {z0 : State} {d : Nat} {perQueue : List (Nat × Nat)} {unattr : Nat} {static : Nat} {tmax : Nat} {pinW : Nat} {einUj : Nat} {pmodW : Nat} {s : State} (h_s : Keeps z0 s) :
    KeepsOut z0 (execPwrReport d perQueue unattr static tmax pinW einUj pmodW s) := by
  unfold execPwrReport
  try dsimp only
  repeat' first
    | with_reducible assumption
    | intro _
    | with_reducible apply whenLive_keeps
    | with_reducible apply addReg_keeps
    | with_reducible apply setRegF_keeps
    | with_reducible apply keeps_ite
    | with_reducible apply keepsOut_ite
    | with_reducible apply keepsOut_next
    | with_reducible apply keeps_foldl

theorem execCapset_keeps {z0 : State} {d : Nat} {seq : Nat} {s : State} (h_s : Keeps z0 s) :
    KeepsOut z0 (execCapset d seq s) := by
  unfold execCapset
  try dsimp only
  repeat' first
    | with_reducible assumption
    | intro _
    | with_reducible apply whenLive_keeps
    | with_reducible apply setPdie_keeps
    | with_reducible apply keeps_ite
    | with_reducible apply keepsOut_ite
    | with_reducible apply keepsOut_next
    | with_reducible apply keepsOpt_some
    | with_reducible exact keepsOpt_none
    | with_reducible apply keepsOpt_map
    | simp only [keeps_mk_iff]
    | split

theorem execHintLapse_keeps {z0 : State} {d : Nat} {s : State} (h_s : Keeps z0 s) :
    KeepsOut z0 (execHintLapse d s) := by
  unfold execHintLapse
  try dsimp only
  repeat' first
    | with_reducible assumption
    | intro _
    | with_reducible apply whenLive_keeps
    | with_reducible apply hintLapse_keeps

theorem execPaceCheck_keeps {z0 : State} {waitCyc : Nat} {s : State} (h_s : Keeps z0 s) :
    KeepsOut z0 (execPaceCheck waitCyc s) := by
  unfold execPaceCheck
  try dsimp only
  repeat' first
    | with_reducible assumption
    | intro _
    | with_reducible apply whenLive_keeps
    | with_reducible apply addReg_keeps
    | with_reducible apply setRegF_keeps
    | with_reducible apply setPdie_keeps
    | with_reducible apply keeps_ite
    | with_reducible apply keepsOut_ite
    | with_reducible apply keepsOut_next
    | with_reducible apply keeps_foldl

theorem pwrCapWrite_keeps {z0 : State} {s : State} {v : W64} (h_s : Keeps z0 s) :
    Keeps z0 (pwrCapWrite s v) := by
  unfold pwrCapWrite
  try dsimp only
  repeat' first
    | with_reducible assumption
    | intro _
    | with_reducible apply reject_keeps
    | with_reducible apply capRefresh_keeps
    | with_reducible apply setReg_keeps
    | with_reducible apply keeps_ite

theorem execPwrCapWrite_keeps {z0 : State} {v : W64} {s : State} (h_s : Keeps z0 s) :
    KeepsOut z0 (execPwrCapWrite v s) := by
  unfold execPwrCapWrite
  try dsimp only
  repeat' first
    | with_reducible assumption
    | intro _
    | with_reducible apply whenLive_keeps
    | with_reducible apply pwrCapWrite_keeps

theorem pwrShareWrite_keeps {z0 : State} {s : State} {v : W64} (h_s : Keeps z0 s) :
    Keeps z0 (pwrShareWrite s v) := by
  unfold pwrShareWrite
  try dsimp only
  repeat' first
    | with_reducible assumption
    | intro _
    | with_reducible apply setReg_keeps
    | with_reducible apply sendCapset_keeps
    | with_reducible apply reject_keeps
    | with_reducible apply keeps_ite

theorem execPwrShareWrite_keeps {z0 : State} {v : W64} {s : State} (h_s : Keeps z0 s) :
    KeepsOut z0 (execPwrShareWrite v s) := by
  unfold execPwrShareWrite
  try dsimp only
  repeat' first
    | with_reducible assumption
    | intro _
    | with_reducible apply whenLive_keeps
    | with_reducible apply pwrShareWrite_keeps

theorem execThermalTrip_keeps {z0 : State} {d : Nat} {tmax : Nat} {s : State} (h_s : Keeps z0 s) :
    KeepsOut z0 (execThermalTrip d tmax s) := by
  unfold execThermalTrip
  try dsimp only
  repeat' first
    | with_reducible assumption
    | intro _
    | with_reducible apply fatalStop_keeps
    | with_reducible apply setRegF_keeps
    | with_reducible apply keeps_ite
    | with_reducible apply keepsOut_ite
    | with_reducible apply keepsOut_next

theorem execSensorFail_keeps {z0 : State} {d : Nat} {s : State} (h_s : Keeps z0 s) :
    KeepsOut z0 (execSensorFail d s) := by
  unfold execSensorFail
  try dsimp only
  repeat' first
    | with_reducible assumption
    | intro _
    | with_reducible apply whenLive_keeps
    | with_reducible apply raise_keeps
    | with_reducible apply setPdie_keeps
    | with_reducible apply keeps_ite

theorem corefreqWrite_keeps {z0 : State} {s : State} {c : Nat} {v : W64} (h_s : Keeps z0 s) :
    Keeps z0 (corefreqWrite s c v) := by
  unfold corefreqWrite
  try dsimp only
  repeat' first
    | with_reducible assumption
    | intro _
    | with_reducible apply reject_keeps
    | with_reducible apply freqUpdate_keeps
    | with_reducible apply setRegF_keeps
    | with_reducible apply keeps_ite

theorem execCorefreqWrite_keeps {z0 : State} {c : Nat} {v : W64} {s : State} (h_s : Keeps z0 s) :
    KeepsOut z0 (execCorefreqWrite c v s) := by
  unfold execCorefreqWrite
  try dsimp only
  repeat' first
    | with_reducible assumption
    | intro _
    | with_reducible apply whenLive_keeps
    | with_reducible apply corefreqWrite_keeps
    | with_reducible apply keeps_ite

theorem execFreqChangeDone_keeps {z0 : State} {c : Nat} {s : State} (h_s : Keeps z0 s) :
    KeepsOut z0 (execFreqChangeDone c s) := by
  unfold execFreqChangeDone
  try dsimp only
  repeat' first
    | with_reducible assumption
    | intro _
    | with_reducible apply whenLive_keeps
    | with_reducible apply setRegF_keeps
    | with_reducible apply setHart_keeps
    | with_reducible apply keepsOut_next
    | with_reducible apply keepsOpt_some
    | with_reducible exact keepsOpt_none
    | with_reducible apply keepsOpt_map
    | simp only [keeps_mk_iff]
    | split

theorem execCoreSupplyDroop_keeps {z0 : State} {c : Nat} {n : Nat} {low : Bool} {s : State} (h_s : Keeps z0 s) :
    KeepsOut z0 (execCoreSupplyDroop c n low s) := by
  unfold execCoreSupplyDroop
  try dsimp only
  repeat' first
    | with_reducible assumption
    | intro _
    | with_reducible apply whenLive_keeps
    | with_reducible apply setHart_keeps
    | with_reducible apply countEv_keeps
    | with_reducible apply keeps_ite

/-! ### Module -/

theorem moduleReset_keeps {z0 : State} {s : State} (h_s : Keeps z0 s) :
    Keeps z0 (moduleReset s) := by
  exact ⟨h_s.1, h_s.2.1, fun c => { h_s.2.2 c with
    regs := rfl, errs := rfl, dstates := rfl, sc := rfl, nmcs := rfl, homes := rfl, dlinks := rfl, counters := rfl,
    mmus := rfl, queues := rfl, jobs := rfl, items := rfl, jseqs := rfl, units := rfl, groups := rfl, vregs := rfl,
    ls := rfl, lsWritten := rfl, cc := rfl, cmes := rfl, flows := rfl, routes := rfl, ports := rfl, seats := rfl,
    harts := rfl, imsic := rfl, powerDies := rfl }⟩

theorem setOneFeed_keeps {z0 : State} {s : State} {b : Bool} (h_s : Keeps z0 s) :
    Keeps z0 (setOneFeed s b) := by
  unfold setOneFeed
  try dsimp only
  repeat' first
    | with_reducible assumption
    | intro _
    | with_reducible apply capRefresh_keeps
    | with_reducible apply raise_keeps
    | with_reducible apply setRegF_keeps
    | with_reducible apply keeps_ite

theorem inputLost_keeps {z0 : State} {s : State} (h_s : Keeps z0 s) :
    Keeps z0 (inputLost s) := by
  unfold inputLost
  apply keeps_all (moduleReset_keeps h_s) <;> first | exact id | exact fun _ => rfl

theorem afterFeed_keeps {z0 : State} {s : State} (h_s : Keeps z0 s) :
    Keeps z0 (afterFeed s) := by
  unfold afterFeed
  try dsimp only
  repeat' first
    | with_reducible assumption
    | intro _
    | with_reducible apply inputLost_keeps
    | with_reducible apply setOneFeed_keeps
    | with_reducible apply keeps_ite

theorem powerUp_keeps {z0 : State} {t : State} (h_t : Keeps z0 t) :
    Keeps z0 (powerUp t) := by
  unfold powerUp
  try dsimp only
  repeat' first
    | with_reducible assumption
    | intro _
    | simp only [keeps_mk_iff]

theorem resetPins_keeps {z0 : State} {s : State} (h_s : Keeps z0 s) :
    Keeps z0 (resetPins s) := by
  unfold resetPins
  try dsimp only
  repeat' first
    | with_reducible assumption
    | intro _
    | simp only [keeps_mk_iff]

theorem execModResetAssert_keeps {z0 : State} {s : State} (h_s : Keeps z0 s) :
    KeepsOut z0 (execModResetAssert s) := by
  unfold execModResetAssert
  try dsimp only
  repeat' first
    | with_reducible assumption
    | intro _
    | with_reducible apply resetPins_keeps
    | with_reducible apply moduleReset_keeps
    | with_reducible apply powerUp_keeps
    | with_reducible apply keeps_ite
    | with_reducible apply keepsOut_ite
    | with_reducible apply keepsOut_next
    | simp only [keeps_mk_iff]
    | split

theorem execModResetRelease_keeps {z0 : State} {s : State} (h_s : Keeps z0 s) :
    KeepsOut z0 (execModResetRelease s) := by
  unfold execModResetRelease
  try dsimp only
  repeat' first
    | with_reducible assumption
    | intro _
    | with_reducible apply afterFeed_keeps
    | with_reducible apply keeps_ite
    | with_reducible apply keepsOut_ite
    | with_reducible apply keepsOut_next
    | simp only [keeps_mk_iff]

theorem execRefLossDetect_keeps {z0 : State} {die : Nat} {s : State} (h_s : Keeps z0 s) :
    KeepsOut z0 (execRefLossDetect die s) := by
  unfold execRefLossDetect
  try dsimp only
  repeat' first
    | with_reducible assumption
    | intro _
    | with_reducible apply fatalStop_keeps
    | with_reducible apply setRegF_keeps
    | with_reducible apply keeps_ite
    | with_reducible apply keepsOut_ite
    | with_reducible apply keepsOut_next
    | simp only [keeps_mk_iff]

theorem execRailOutOfRegulation_keeps {z0 : State} {die : Nat} {rail : Nat} {s : State} (h_s : Keeps z0 s) :
    KeepsOut z0 (execRailOutOfRegulation die rail s) := by
  unfold execRailOutOfRegulation
  try dsimp only
  repeat' first
    | with_reducible assumption
    | intro _
    | with_reducible apply fatalStop_keeps
    | with_reducible apply keeps_ite
    | with_reducible apply keepsOut_ite
    | with_reducible apply keepsOut_next
    | simp only [keeps_mk_iff]

theorem execPwrgdRise_keeps {z0 : State} {s : State} (h_s : Keeps z0 s) :
    KeepsOut z0 (execPwrgdRise s) := by
  unfold execPwrgdRise
  try dsimp only
  repeat' first
    | with_reducible assumption
    | intro _
    | with_reducible apply keeps_ite
    | with_reducible apply keepsOut_ite
    | with_reducible apply keepsOut_next
    | simp only [keeps_mk_iff]

theorem updFeed_keeps {z0 : State} {s : State} {b : Bool} {f : Feed → Feed} (h_s : Keeps z0 s) :
    Keeps z0 (updFeed s b f) := by
  unfold updFeed
  try dsimp only
  repeat' first
    | with_reducible assumption
    | intro _
    | with_reducible apply keeps_ite
    | simp only [keeps_mk_iff]

theorem execWellPowerParked_keeps {z0 : State} {s : State} (h_s : Keeps z0 s) :
    KeepsOut z0 (execWellPowerParked s) := by
  unfold execWellPowerParked
  try dsimp only
  repeat' first
    | with_reducible assumption
    | intro _
    | with_reducible apply keeps_ite
    | with_reducible apply keepsOut_ite
    | with_reducible apply keepsOut_next
    | simp only [keeps_mk_iff]

theorem execFeedGood_keeps {z0 : State} {b : Bool} {dv : Nat} {s : State} (h_s : Keeps z0 s) :
    KeepsOut z0 (execFeedGood b dv s) := by
  unfold execFeedGood
  try dsimp only
  repeat' first
    | with_reducible assumption
    | intro _
    | with_reducible apply updFeed_keeps
    | with_reducible apply powerUp_keeps
    | with_reducible apply keeps_ite
    | with_reducible apply keepsOut_ite
    | with_reducible apply keepsOut_next

theorem execFeedOpen_keeps {z0 : State} {b : Bool} {dv : Nat} {s : State} (h_s : Keeps z0 s) :
    KeepsOut z0 (execFeedOpen b dv s) := by
  unfold execFeedOpen
  try dsimp only
  repeat' first
    | with_reducible assumption
    | intro _
    | with_reducible apply afterFeed_keeps
    | with_reducible apply updFeed_keeps
    | with_reducible apply keeps_ite
    | with_reducible apply keepsOut_ite
    | with_reducible apply keepsOut_next

theorem execFeedOutOfBand_keeps {z0 : State} {b : Bool} {dv : Nat} {s : State} (h_s : Keeps z0 s) :
    KeepsOut z0 (execFeedOutOfBand b dv s) := by
  unfold execFeedOutOfBand
  try dsimp only
  repeat' first
    | with_reducible assumption
    | intro _
    | with_reducible apply updFeed_keeps
    | with_reducible apply afterFeed_keeps
    | with_reducible apply keeps_ite
    | with_reducible apply keepsOut_ite
    | with_reducible apply keepsOut_next

theorem execFeedOvervoltage_keeps {z0 : State} {b : Bool} {dv : Nat} {s : State} (h_s : Keeps z0 s) :
    KeepsOut z0 (execFeedOvervoltage b dv s) := by
  unfold execFeedOvervoltage
  try dsimp only
  repeat' first
    | with_reducible assumption
    | intro _
    | with_reducible apply afterFeed_keeps
    | with_reducible apply updFeed_keeps
    | with_reducible apply keeps_ite
    | with_reducible apply keepsOut_ite
    | with_reducible apply keepsOut_next

theorem execFeedReclose_keeps {z0 : State} {b : Bool} {dv : Nat} {s : State} (h_s : Keeps z0 s) :
    KeepsOut z0 (execFeedReclose b dv s) := by
  unfold execFeedReclose
  try dsimp only
  repeat' first
    | with_reducible assumption
    | intro _
    | with_reducible apply updFeed_keeps
    | with_reducible apply powerUp_keeps
    | with_reducible apply keeps_ite
    | with_reducible apply keepsOut_ite
    | with_reducible apply keepsOut_next

theorem execFeedExternalShort_keeps {z0 : State} {b : Bool} {s : State} (h_s : Keeps z0 s) :
    KeepsOut z0 (execFeedExternalShort b s) := by
  unfold execFeedExternalShort
  try dsimp only
  repeat' first
    | with_reducible assumption
    | intro _
    | with_reducible apply afterFeed_keeps
    | with_reducible apply updFeed_keeps
    | with_reducible apply keepsOut_next

theorem execHotswapTrip_keeps {z0 : State} {b : Bool} {s : State} (h_s : Keeps z0 s) :
    KeepsOut z0 (execHotswapTrip b s) := by
  unfold execHotswapTrip
  try dsimp only
  repeat' first
    | with_reducible assumption
    | intro _
    | with_reducible apply updFeed_keeps
    | with_reducible apply afterFeed_keeps
    | with_reducible apply setRegF_keeps
    | with_reducible apply keeps_ite
    | with_reducible apply keepsOut_ite
    | with_reducible apply keepsOut_next

theorem execFullCapRestore_keeps {z0 : State} {s : State} (h_s : Keeps z0 s) :
    KeepsOut z0 (execFullCapRestore s) := by
  unfold execFullCapRestore
  try dsimp only
  repeat' first
    | with_reducible assumption
    | intro _
    | with_reducible apply setOneFeed_keeps
    | with_reducible apply keeps_ite
    | with_reducible apply keepsOut_ite
    | with_reducible apply keepsOut_next

theorem updPath_keeps {z0 : State} {s : State} {sec : Bool} {f : MgmtPath → MgmtPath} (h_s : Keeps z0 s) :
    Keeps z0 (updPath s sec f) := by
  unfold updPath
  try dsimp only
  repeat' first
    | with_reducible assumption
    | intro _
    | with_reducible apply keeps_ite
    | simp only [keeps_mk_iff]

theorem switchPath_keeps {z0 : State} {s : State} {sec : Bool} (h_s : Keeps z0 s) :
    Keeps z0 (switchPath s sec) := by
  unfold switchPath
  try dsimp only
  repeat' first
    | with_reducible assumption
    | intro _
    | simp only [keeps_mk_iff]

theorem pathRule_keeps {z0 : State} {s : State} (h_s : Keeps z0 s) :
    Keeps z0 (pathRule s) := by
  unfold pathRule
  try dsimp only
  repeat' first
    | with_reducible assumption
    | intro _
    | with_reducible apply ibi_keeps
    | with_reducible apply switchPath_keeps
    | split

theorem execI3cStuckLow_keeps {z0 : State} {sec : Bool} {sda : Bool} {s : State} (h_s : Keeps z0 s) :
    KeepsOut z0 (execI3cStuckLow sec sda s) := by
  unfold execI3cStuckLow
  try dsimp only
  repeat' first
    | with_reducible assumption
    | intro _
    | with_reducible apply pathRule_keeps
    | with_reducible apply updPath_keeps
    | with_reducible apply keeps_ite
    | with_reducible apply keepsOut_ite
    | with_reducible apply keepsOut_next

theorem execI3cOpenProbe_keeps {z0 : State} {sec : Bool} {sda : Bool} {failed : Bool} {s : State} (h_s : Keeps z0 s) :
    KeepsOut z0 (execI3cOpenProbe sec sda failed s) := by
  unfold execI3cOpenProbe
  try dsimp only
  repeat' first
    | with_reducible assumption
    | intro _
    | with_reducible apply updPath_keeps
    | with_reducible apply pathRule_keeps
    | with_reducible apply keeps_ite
    | with_reducible apply keepsOut_ite
    | with_reducible apply keepsOut_next

theorem execI3cLineClean_keeps {z0 : State} {sec : Bool} {sda : Bool} {s : State} (h_s : Keeps z0 s) :
    KeepsOut z0 (execI3cLineClean sec sda s) := by
  unfold execI3cLineClean
  try dsimp only
  repeat' first
    | with_reducible assumption
    | intro _
    | with_reducible apply pathRule_keeps
    | with_reducible apply updPath_keeps
    | with_reducible apply keeps_ite
    | with_reducible apply keepsOut_ite
    | with_reducible apply keepsOut_next

theorem execI3cGetstatus_keeps {z0 : State} {sec : Bool} {s : State} (h_s : Keeps z0 s) :
    KeepsOut z0 (execI3cGetstatus sec s) := by
  unfold execI3cGetstatus
  try dsimp only
  repeat' first
    | with_reducible assumption
    | intro _
    | with_reducible apply keeps_ite
    | with_reducible apply keepsOut_ite
    | with_reducible apply keepsOut_next
    | simp only [keeps_mk_iff]

theorem execPriReturn_keeps {z0 : State} {sec : Bool} {s : State} (h_s : Keeps z0 s) :
    KeepsOut z0 (execPriReturn sec s) := by
  unfold execPriReturn
  try dsimp only
  repeat' first
    | with_reducible assumption
    | intro _
    | with_reducible apply switchPath_keeps
    | with_reducible apply keeps_ite
    | with_reducible apply keepsOut_ite
    | with_reducible apply keepsOut_next

theorem execDynamicAddressAssignment_keeps {z0 : State} {sec : Bool} {addr : Nat} {s : State} (h_s : Keeps z0 s) :
    KeepsOut z0 (execDynamicAddressAssignment sec addr s) := by
  unfold execDynamicAddressAssignment
  try dsimp only
  repeat' first
    | with_reducible assumption
    | intro _
    | with_reducible apply updPath_keeps
    | with_reducible apply keeps_ite
    | with_reducible apply keepsOut_ite
    | with_reducible apply keepsOut_next
    | with_reducible apply keepsOpt_some
    | with_reducible exact keepsOpt_none
    | with_reducible apply keepsOpt_map
    | simp only [keeps_mk_iff]

/-! ### Boot -/

theorem bootStop_keeps {z0 : State} {s : State} {code : Nat} (h_s : Keeps z0 s) :
    Keeps z0 (bootStop s code) := by
  unfold bootStop
  try dsimp only
  repeat' first
    | with_reducible assumption
    | intro _
    | with_reducible apply setRegF_keeps
    | with_reducible apply ibi_keeps
    | simp only [keeps_mk_iff]

theorem setMeasSlot_keeps {z0 : State} {s : State} {n : Nat} {d : List Byte} (h_s : Keeps z0 s) :
    Keeps z0 (setMeasSlot s n d) := by
  unfold setMeasSlot
  try dsimp only
  repeat' first
    | with_reducible assumption
    | intro _
    | with_reducible apply setReg_keeps
    | with_reducible apply keeps_foldl

theorem extend_keeps {z0 : State} {s : State} {n : Nat} {d : List Byte} (h_s : Keeps z0 s) :
    Keeps z0 (extend s n d) := by
  unfold extend
  try dsimp only
  repeat' first
    | with_reducible assumption
    | intro _
    | with_reducible apply setMeasSlot_keeps

theorem execBootRomDone_keeps {z0 : State} {s : State} (h_s : Keeps z0 s) :
    KeepsOut z0 (execBootRomDone s) := by
  unfold execBootRomDone
  try dsimp only
  repeat' first
    | with_reducible assumption
    | intro _
    | with_reducible apply setRegF_keeps
    | with_reducible apply bootStop_keeps
    | with_reducible apply extend_keeps
    | with_reducible apply keeps_ite
    | with_reducible apply keepsOut_ite
    | with_reducible apply keepsOut_next

theorem dlkStat_keeps {z0 : State} {s : State} {n : Nat} {up : Bool} (h_s : Keeps z0 s) :
    Keeps z0 (dlkStat s n up) := by
  unfold dlkStat
  try dsimp only
  repeat' first
    | with_reducible assumption
    | intro _
    | with_reducible apply setReg_keeps

theorem execBootPfwDone_keeps {z0 : State} {s : State} (h_s : Keeps z0 s) :
    KeepsOut z0 (execBootPfwDone s) := by
  unfold execBootPfwDone
  try dsimp only
  repeat' first
    | with_reducible assumption
    | intro _
    | with_reducible apply dlkStat_keeps
    | with_reducible apply setRegF_keeps
    | with_reducible apply bootStop_keeps
    | with_reducible apply keeps_ite
    | with_reducible apply keepsOut_ite
    | with_reducible apply keepsOut_next
    | with_reducible apply keeps_foldl

theorem powerStart_keeps {z0 : State} {s : State} (h_s : Keeps z0 s) :
    Keeps z0 (powerStart s) := by
  unfold powerStart
  try dsimp only
  repeat' first
    | with_reducible assumption
    | intro _
    | with_reducible apply setRegF_keeps
    | with_reducible apply setPdie_keeps
    | with_reducible apply sendCapset_keeps
    | with_reducible apply keeps_foldl

theorem execBootDiesDone_keeps {z0 : State} {s : State} (h_s : Keeps z0 s) :
    KeepsOut z0 (execBootDiesDone s) := by
  unfold execBootDiesDone
  try dsimp only
  repeat' first
    | with_reducible assumption
    | intro _
    | with_reducible apply extend_keeps
    | with_reducible apply powerStart_keeps
    | with_reducible apply setRegF_keeps
    | with_reducible apply keeps_ite
    | with_reducible apply keepsOut_ite
    | with_reducible apply keepsOut_next
    | simp only [keeps_mk_iff]

theorem formDigest_keeps {z0 : State} {s : State} (h_s : Keeps z0 s) :
    Keeps z0 (formDigest s) := by
  unfold formDigest
  try dsimp only
  repeat' first
    | with_reducible assumption
    | intro _
    | with_reducible apply setReg_keeps
    | with_reducible apply setRegF_keeps
    | with_reducible apply keeps_foldl
    | simp only [keeps_mk_iff]

theorem noteDigest_keeps {z0 : State} {before : State} {after : State} (h_before : Keeps z0 before) (h_after : Keeps z0 after) :
    Keeps z0 (noteDigest before after) := by
  unfold noteDigest
  try dsimp only
  repeat' first
    | with_reducible assumption
    | intro _
    | with_reducible apply keeps_ite
    | simp only [keeps_mk_iff]

theorem fuseCommit_keeps {z0 : State} {s : State} (h_s : Keeps z0 s) :
    Keeps z0 (fuseCommit s) := by
  unfold fuseCommit
  try dsimp only
  repeat' first
    | with_reducible assumption
    | intro _
    | with_reducible apply keeps_ite
    | simp only [keeps_mk_iff]

theorem releaseHarts_keeps {z0 : State} {s : State} {base : Nat} {mask : Nat} (h_s : Keeps z0 s) :
    Keeps z0 (releaseHarts s base mask) := by
  unfold releaseHarts
  try dsimp only
  repeat' first
    | with_reducible assumption
    | intro _
    | with_reducible apply setHart_keeps
    | with_reducible apply setRegF_keeps
    | with_reducible apply keeps_ite
    | with_reducible apply keepsOpt_some
    | with_reducible exact keepsOpt_none
    | with_reducible apply keepsOpt_map
    | with_reducible apply keeps_foldl

theorem execBootMemoryDone_keeps {z0 : State} {place : Nat} {entry : Nat} {s : State} (h_s : Keeps z0 s) :
    KeepsOut z0 (execBootMemoryDone place entry s) := by
  unfold execBootMemoryDone
  try dsimp only
  repeat' first
    | with_reducible assumption
    | intro _
    | with_reducible apply setRegF_keeps
    | with_reducible apply extend_keeps
    | with_reducible apply putBytes_keeps
    | with_reducible apply releaseHarts_keeps
    | with_reducible apply setReg_keeps
    | with_reducible apply fuseCommit_keeps
    | with_reducible apply formDigest_keeps
    | with_reducible apply keeps_ite
    | with_reducible apply keepsOut_ite
    | with_reducible apply keepsOut_next
    | with_reducible apply keeps_foldl

theorem execBootStageTimeout_keeps {z0 : State} {s : State} (h_s : Keeps z0 s) :
    KeepsOut z0 (execBootStageTimeout s) := by
  unfold execBootStageTimeout
  try dsimp only
  repeat' first
    | with_reducible assumption
    | intro _
    | with_reducible apply bootStop_keeps
    | with_reducible apply keeps_ite
    | with_reducible apply keepsOut_ite
    | with_reducible apply keepsOut_next

theorem execBootFlashRewrite_keeps {z0 : State} {bankB : Bool} {bytes : List Byte} {s : State} (h_s : Keeps z0 s) :
    KeepsOut z0 (execBootFlashRewrite bankB bytes s) := by
  unfold execBootFlashRewrite
  try dsimp only
  repeat' first
    | with_reducible assumption
    | intro _
    | with_reducible apply keeps_ite
    | with_reducible apply keepsOut_ite
    | with_reducible apply keepsOut_next
    | simp only [keeps_mk_iff]

theorem measWrite_keeps {z0 : State} {s : State} {slot : Nat} (h_s : Keeps z0 s) :
    Keeps z0 (measWrite s slot) := by
  unfold measWrite
  try dsimp only
  repeat' first
    | with_reducible assumption
    | intro _
    | with_reducible apply reject_keeps
    | with_reducible apply extend_keeps
    | with_reducible apply keeps_ite

theorem execMeasExtend_keeps {z0 : State} {slot : Nat} {s : State} (h_s : Keeps z0 s) :
    KeepsOut z0 (execMeasExtend slot s) := by
  unfold execMeasExtend
  try dsimp only
  repeat' first
    | with_reducible assumption
    | intro _
    | with_reducible apply whenLive_keeps
    | with_reducible apply measWrite_keeps
    | with_reducible apply keeps_ite

theorem spdmAnswer_keeps {z0 : State} {s : State} {pcie : Bool} {r : SpdmReply} (h_s : Keeps z0 s) :
    KeepsOut z0 (spdmAnswer s pcie r) := by
  unfold spdmAnswer
  try dsimp only
  repeat' first
    | with_reducible assumption
    | intro _
    | with_reducible apply keeps_ite
    | with_reducible apply keepsOut_ite
    | with_reducible apply keepsOut_next
    | simp only [keeps_mk_iff]

theorem execGetVersion_keeps {z0 : State} {pcie : Bool} {s : State} (h_s : Keeps z0 s) :
    KeepsOut z0 (execGetVersion pcie s) := by
  unfold execGetVersion
  try dsimp only
  repeat' first
    | with_reducible assumption
    | intro _
    | with_reducible apply spdmAnswer_keeps

theorem execGetCapabilities_keeps {z0 : State} {pcie : Bool} {s : State} (h_s : Keeps z0 s) :
    KeepsOut z0 (execGetCapabilities pcie s) := by
  unfold execGetCapabilities
  try dsimp only
  repeat' first
    | with_reducible assumption
    | intro _
    | with_reducible apply spdmAnswer_keeps

theorem execNegotiateAlgorithms_keeps {z0 : State} {pcie : Bool} {offered : Bool} {s : State} (h_s : Keeps z0 s) :
    KeepsOut z0 (execNegotiateAlgorithms pcie offered s) := by
  unfold execNegotiateAlgorithms
  try dsimp only
  repeat' first
    | with_reducible assumption
    | intro _
    | with_reducible apply spdmAnswer_keeps

theorem execGetDigests_keeps {z0 : State} {pcie : Bool} {s : State} (h_s : Keeps z0 s) :
    KeepsOut z0 (execGetDigests pcie s) := by
  unfold execGetDigests
  try dsimp only
  repeat' first
    | with_reducible assumption
    | intro _
    | with_reducible apply spdmAnswer_keeps

theorem execGetCertificate_keeps {z0 : State} {pcie : Bool} {slot : Nat} {off : Nat} {len : Nat} {s : State} (h_s : Keeps z0 s) :
    KeepsOut z0 (execGetCertificate pcie slot off len s) := by
  unfold execGetCertificate
  try dsimp only
  repeat' first
    | with_reducible assumption
    | intro _
    | with_reducible apply spdmAnswer_keeps

theorem execChallenge_keeps {z0 : State} {pcie : Bool} {slot : Nat} {nonce : List Byte} {s : State} (h_s : Keeps z0 s) :
    KeepsOut z0 (execChallenge pcie slot nonce s) := by
  unfold execChallenge
  try dsimp only
  repeat' first
    | with_reducible assumption
    | intro _
    | with_reducible apply spdmAnswer_keeps

theorem execGetMeasurements_keeps {z0 : State} {pcie : Bool} {idx : Nat} {signed : Bool} {nonce : List Byte} {s : State} (h_s : Keeps z0 s) :
    KeepsOut z0 (execGetMeasurements pcie idx signed nonce s) := by
  unfold execGetMeasurements
  try dsimp only
  repeat' first
    | with_reducible assumption
    | intro _
    | with_reducible apply spdmAnswer_keeps

end Sys2Proof.Laws
end

