-- ==== Sys2Proof/Laws/KeepsFabric.lean ====
section
/-! SUPPORT. One lemma per operation of ports, reduction and the fabric: it keeps the fuses, the waiting commands and the canonical
form of every table (Laws/Keeps.lean). -/

set_option linter.unusedSimpArgs false
set_option linter.tactic.unusedName false
set_option linter.unusedVariables false

namespace Sys2Proof.Laws

open Sys2Proof.Machine

/-! ### Ports -/

theorem setPort_keeps {z0 : State} {s : State} {g : Nat} {p : PortSt} (h_s : Keeps z0 s) :
    Keeps z0 (State.setPort s g p) := by
  unfold State.setPort
  try dsimp only
  repeat' first
    | with_reducible assumption
    | intro _
    | simp only [keeps_mk_iff]
    | (with_reducible apply keeps_all (by assumption) <;> first | exact id | exact wf_put _ _ _ _ | exact wf_memPut _ _ _ | exact wf_memPutMask _ _ _ _ | exact wf_dropKeys _ _ _ | exact fun _ => rfl)

theorem hlpError_keeps {z0 : State} {s : State} {g : Nat} {n : Nat} {inj : Bool} (h_s : Keeps z0 s) :
    Keeps z0 (hlpError s g n inj) := by
  unfold hlpError
  try dsimp only
  repeat' first
    | with_reducible assumption
    | intro _
    | with_reducible apply raiseWith_keeps

theorem setMisport_keeps {z0 : State} {s : State} {g : Nat} {b : Bool} (h_s : Keeps z0 s) :
    Keeps z0 (setMisport s g b) := by
  unfold setMisport
  try dsimp only
  repeat' first
    | with_reducible assumption
    | intro _
    | with_reducible apply setReg_keeps

theorem isolate_keeps {z0 : State} {s : State} {g : Nat} (h_s : Keeps z0 s) :
    Keeps z0 (isolate s g) := by
  unfold isolate
  try dsimp only
  repeat' first
    | with_reducible assumption
    | intro _
    | with_reducible apply setReg_keeps

theorem digestIn_keeps {z0 : State} {s : State} {g : Nat} {dig : List Byte} {fresh : Bool} (h_s : Keeps z0 s) :
    Keeps z0 (digestIn s g dig fresh) := by
  unfold digestIn
  try dsimp only
  repeat' first
    | with_reducible assumption
    | intro _
    | with_reducible apply setReg_keeps
    | with_reducible apply disarm_keeps
    | with_reducible apply setPort_keeps
    | with_reducible apply isolate_keeps
    | with_reducible apply setMisport_keeps
    | with_reducible apply ibi_keeps
    | with_reducible apply countEv_keeps
    | with_reducible apply hlpError_keeps
    | with_reducible apply keeps_ite

theorem sendOnPort_keeps {z0 : State} {s : State} {g : Nat} {p : Packet} (h_s : Keeps z0 s) :
    Keeps z0 (sendOnPort s g p) := by
  unfold sendOnPort
  try dsimp only
  repeat' first
    | with_reducible assumption
    | intro _
    | with_reducible apply countEv_keeps
    | with_reducible apply setPort_keeps
    | with_reducible apply keeps_ite
    | simp only [keeps_mk_iff]

theorem sendBeacons_keeps {z0 : State} {s : State} (h_s : Keeps z0 s) :
    Keeps z0 (sendBeacons s) := by
  unfold sendBeacons
  try dsimp only
  repeat' first
    | with_reducible assumption
    | intro _
    | with_reducible apply sendOnPort_keeps
    | with_reducible apply keeps_ite
    | with_reducible apply keeps_foldl

theorem execBeaconTimer_keeps {z0 : State} {s : State} (h_s : Keeps z0 s) :
    KeepsOut z0 (execBeaconTimer s) := by
  unfold execBeaconTimer
  try dsimp only
  repeat' first
    | with_reducible assumption
    | intro _
    | with_reducible apply whenLive_keeps
    | with_reducible apply sendBeacons_keeps

theorem execCfgDigestRecompute_keeps {z0 : State} {s : State} (h_s : Keeps z0 s) :
    KeepsOut z0 (execCfgDigestRecompute s) := by
  unfold execCfgDigestRecompute
  try dsimp only
  repeat' first
    | with_reducible assumption
    | intro _
    | with_reducible apply whenLive_keeps
    | with_reducible apply sendBeacons_keeps
    | with_reducible apply formDigest_keeps
    | with_reducible apply keeps_ite

theorem startTraining_keeps {z0 : State} {s : State} {g : Nat} {requested : Bool} (h_s : Keeps z0 s) :
    Keeps z0 (startTraining s g requested) := by
  unfold startTraining
  try dsimp only
  repeat' first
    | with_reducible assumption
    | intro _
    | with_reducible apply setPort_keeps
    | with_reducible apply setReg_keeps

theorem resendAll_keeps {z0 : State} {s : State} (h_s : Keeps z0 s) :
    Keeps z0 (resendAll s) := by
  unfold resendAll
  try dsimp only
  repeat' first
    | with_reducible assumption
    | intro _
    | with_reducible apply setFlow_keeps
    | with_reducible apply keeps_ite
    | with_reducible apply keepsOpt_some
    | with_reducible exact keepsOpt_none
    | with_reducible apply keepsOpt_map
    | with_reducible apply keeps_foldl

theorem linkDown_keeps {z0 : State} {s : State} {g : Nat} (h_s : Keeps z0 s) :
    Keeps z0 (linkDown s g) := by
  unfold linkDown
  try dsimp only
  repeat' first
    | with_reducible assumption
    | intro _
    | with_reducible apply hlpError_keeps
    | with_reducible apply setPort_keeps
    | with_reducible apply setMisport_keeps
    | with_reducible apply setReg_keeps
    | with_reducible apply resendAll_keeps
    | with_reducible apply fmcDown_keeps
    | with_reducible apply keeps_ite

theorem execPortDown_keeps {z0 : State} {g : Nat} {s : State} (h_s : Keeps z0 s) :
    KeepsOut z0 (execPortDown g s) := by
  unfold execPortDown
  try dsimp only
  repeat' first
    | with_reducible assumption
    | intro _
    | with_reducible apply whenLive_keeps
    | with_reducible apply linkDown_keeps
    | with_reducible apply keeps_ite

theorem linkctlWrite_keeps {z0 : State} {s : State} {g : Nat} {v : W64} (h_s : Keeps z0 s) :
    Keeps z0 (linkctlWrite s g v) := by
  unfold linkctlWrite
  try dsimp only
  repeat' first
    | with_reducible assumption
    | intro _
    | with_reducible apply reject_keeps
    | with_reducible apply setReg_keeps
    | with_reducible apply startTraining_keeps
    | with_reducible apply isolate_keeps
    | with_reducible apply linkDown_keeps
    | with_reducible apply keeps_ite

theorem execHlpLinkenWrite_keeps {z0 : State} {g : Nat} {v : W64} {s : State} (h_s : Keeps z0 s) :
    KeepsOut z0 (execHlpLinkenWrite g v s) := by
  unfold execHlpLinkenWrite
  try dsimp only
  repeat' first
    | with_reducible assumption
    | intro _
    | with_reducible apply whenLive_keeps
    | with_reducible apply linkctlWrite_keeps
    | with_reducible apply keeps_ite

theorem execHlpRetrain_keeps {z0 : State} {g : Nat} {s : State} (h_s : Keeps z0 s) :
    KeepsOut z0 (execHlpRetrain g s) := by
  unfold execHlpRetrain
  try dsimp only
  repeat' first
    | with_reducible assumption
    | intro _
    | with_reducible apply whenLive_keeps
    | with_reducible apply linkctlWrite_keeps
    | with_reducible apply keeps_ite

theorem roleWrite_keeps {z0 : State} {s : State} {g : Nat} {v : W64} (h_s : Keeps z0 s) :
    Keeps z0 (roleWrite s g v) := by
  unfold roleWrite
  try dsimp only
  repeat' first
    | with_reducible assumption
    | intro _
    | with_reducible apply reject_keeps
    | with_reducible apply setReg_keeps
    | with_reducible apply keeps_ite

theorem execPartnerDetect_keeps {z0 : State} {g : Nat} {s : State} (h_s : Keeps z0 s) :
    KeepsOut z0 (execPartnerDetect g s) := by
  unfold execPartnerDetect
  try dsimp only
  repeat' first
    | with_reducible assumption
    | intro _
    | with_reducible apply whenLive_keeps
    | with_reducible apply startTraining_keeps
    | with_reducible apply keeps_ite

theorem execTrainRetry_keeps {z0 : State} {g : Nat} {s : State} (h_s : Keeps z0 s) :
    KeepsOut z0 (execTrainRetry g s) := by
  unfold execTrainRetry
  try dsimp only
  repeat' first
    | with_reducible assumption
    | intro _
    | with_reducible apply whenLive_keeps
    | with_reducible apply startTraining_keeps
    | with_reducible apply keeps_ite

theorem trainFailed_keeps {z0 : State} {s : State} {g : Nat} (h_s : Keeps z0 s) :
    Keeps z0 (trainFailed s g) := by
  unfold trainFailed
  try dsimp only
  repeat' first
    | with_reducible assumption
    | intro _
    | with_reducible apply linkDown_keeps
    | with_reducible apply setReg_keeps
    | with_reducible apply setPort_keeps
    | with_reducible apply keeps_ite

theorem trainUp_keeps {z0 : State} {s : State} {g : Nat} {width : Nat} {ver : Nat} {node : Nat} {dig : List Byte} (h_s : Keeps z0 s) :
    Keeps z0 (trainUp s g width ver node dig) := by
  unfold trainUp
  try dsimp only
  repeat' first
    | with_reducible assumption
    | intro _
    | with_reducible apply setReg_keeps
    | with_reducible apply setPort_keeps
    | with_reducible apply digestIn_keeps
    | with_reducible apply keeps_ite
    | with_reducible apply keepsOpt_some
    | with_reducible exact keepsOpt_none
    | with_reducible apply keepsOpt_map
    | simp only [keeps_mk_iff]

theorem execLinkTrainDone_keeps {z0 : State} {g : Nat} {lanes : List (Nat × Nat × Bool)} {farTx : Nat} {farVers : Nat} {node : Nat} {width : Nat} {dig : List Byte} {s : State} (h_s : Keeps z0 s) :
    KeepsOut z0 (execLinkTrainDone g lanes farTx farVers node width dig s) := by
  unfold execLinkTrainDone
  try dsimp only
  repeat' first
    | with_reducible assumption
    | intro _
    | with_reducible apply whenLive_keeps
    | with_reducible apply trainFailed_keeps
    | with_reducible apply trainUp_keeps
    | with_reducible apply setReg_keeps
    | with_reducible apply hlpError_keeps
    | with_reducible apply keeps_ite

theorem retireLane_keeps {z0 : State} {s : State} {g : Nat} {n : Nat} {code : Nat} {inj : Bool} (h_s : Keeps z0 s) :
    Keeps z0 (retireLane s g n code inj) := by
  unfold retireLane
  try dsimp only
  repeat' first
    | with_reducible assumption
    | intro _
    | with_reducible apply setReg_keeps
    | with_reducible apply setPort_keeps
    | with_reducible apply startTraining_keeps
    | with_reducible apply hlpError_keeps

theorem retireTx_keeps {z0 : State} {s : State} {g : Nat} {n : Nat} (h_s : Keeps z0 s) :
    Keeps z0 (retireTx s g n) := by
  unfold retireTx
  try dsimp only
  repeat' first
    | with_reducible assumption
    | intro _
    | with_reducible apply setReg_keeps
    | with_reducible apply setPort_keeps
    | with_reducible apply startTraining_keeps
    | with_reducible apply hlpError_keeps

theorem execLaneFail_keeps {z0 : State} {g : Nat} {n : Nat} {tx : Bool} {lost : Bool} {s : State} (h_s : Keeps z0 s) :
    KeepsOut z0 (execLaneFail g n tx lost s) := by
  unfold execLaneFail
  try dsimp only
  repeat' first
    | with_reducible assumption
    | intro _
    | with_reducible apply whenLive_keeps
    | with_reducible apply retireTx_keeps
    | with_reducible apply retireLane_keeps
    | with_reducible apply keeps_ite

theorem packetIn_keeps {z0 : State} {s : State} {g : Nat} {p : Packet} (h_s : Keeps z0 s) :
    Keeps z0 (packetIn s g p) := by
  unfold packetIn
  try dsimp only
  repeat' first
    | with_reducible assumption
    | intro _
    | with_reducible apply digestIn_keeps
    | with_reducible apply keeps_ite
    | simp only [keeps_mk_iff]

theorem execBeacon_keeps {z0 : State} {g : Nat} {dig : List Byte} {s : State} (h_s : Keeps z0 s) :
    KeepsOut z0 (execBeacon g dig s) := by
  unfold execBeacon
  try dsimp only
  repeat' first
    | with_reducible assumption
    | intro _
    | with_reducible apply whenLive_keeps
    | with_reducible apply digestIn_keeps
    | with_reducible apply countEv_keeps
    | with_reducible apply keeps_ite

theorem resendFrames_keeps {z0 : State} {s : State} {g : Nat} {from_ : Nat} (h_s : Keeps z0 s) :
    Keeps z0 (resendFrames s g from_) := by
  unfold resendFrames
  try dsimp only
  repeat' first
    | with_reducible assumption
    | intro _
    | with_reducible apply countEv_keeps
    | with_reducible apply setPort_keeps
    | with_reducible apply startTraining_keeps
    | with_reducible apply keeps_ite
    | with_reducible apply keepsOpt_some
    | with_reducible exact keepsOpt_none
    | with_reducible apply keepsOpt_map
    | simp only [keeps_mk_iff]

theorem execLlrFrameReceive_keeps {z0 : State} {g : Nat} {seq : Nat} {bytes : List Byte} {good : Bool} {ack : Option Nat} {again : Option Nat} {s : State} (h_s : Keeps z0 s) :
    KeepsOut z0 (execLlrFrameReceive g seq bytes good ack again s) := by
  unfold execLlrFrameReceive
  try dsimp only
  repeat' first
    | with_reducible assumption
    | intro _
    | with_reducible apply whenLive_keeps
    | with_reducible apply setPort_keeps
    | with_reducible apply resendFrames_keeps
    | with_reducible apply countEv_keeps
    | with_reducible apply packetIn_keeps
    | with_reducible apply keeps_ite
    | with_reducible apply keepsOut_ite
    | with_reducible apply keepsOut_next
    | with_reducible apply keepsOpt_some
    | with_reducible exact keepsOpt_none
    | with_reducible apply keepsOpt_map
    | simp only [keeps_mk_iff]
    | split

theorem execLlrAckTimeout_keeps {z0 : State} {g : Nat} {s : State} (h_s : Keeps z0 s) :
    KeepsOut z0 (execLlrAckTimeout g s) := by
  unfold execLlrAckTimeout
  try dsimp only
  repeat' first
    | with_reducible assumption
    | intro _
    | with_reducible apply whenLive_keeps
    | with_reducible apply startTraining_keeps
    | with_reducible apply keeps_ite

theorem execEthFrameReceive_keeps {z0 : State} {g : Nat} {frame : List Byte} {s : State} (h_s : Keeps z0 s) :
    KeepsOut z0 (execEthFrameReceive g frame s) := by
  unfold execEthFrameReceive
  try dsimp only
  repeat' first
    | with_reducible assumption
    | intro _
    | with_reducible apply whenLive_keeps
    | with_reducible apply countEv_keeps
    | with_reducible apply packetIn_keeps
    | with_reducible apply keeps_ite
    | with_reducible apply keepsOut_ite
    | with_reducible apply keepsOut_next
    | with_reducible apply keepsOpt_some
    | with_reducible exact keepsOpt_none
    | with_reducible apply keepsOpt_map
    | simp only [keeps_mk_iff]
    | split

theorem execBeaconLoss_keeps {z0 : State} {g : Nat} {s : State} (h_s : Keeps z0 s) :
    KeepsOut z0 (execBeaconLoss g s) := by
  unfold execBeaconLoss
  try dsimp only
  repeat' first
    | with_reducible assumption
    | intro _
    | with_reducible apply whenLive_keeps
    | with_reducible apply startTraining_keeps
    | with_reducible apply hlpError_keeps
    | with_reducible apply keeps_ite

/-! ### Reduce -/

theorem redErr_keeps {z0 : State} {s : State} {g : Nat} {r : Nat} (h_s : Keeps z0 s) :
    Keeps z0 (redErr s g r) := by
  unfold redErr
  try dsimp only
  repeat' first
    | with_reducible assumption
    | intro _
    | with_reducible apply failSeat_keeps
    | with_reducible apply raiseInfo_keeps

theorem pullIn_keeps {z0 : State} {s : State} {g : Nat} {x : RedPkt} (h_s : Keeps z0 s) :
    Keeps z0 (pullIn s g x) := by
  unfold pullIn
  try dsimp only
  repeat' first
    | with_reducible assumption
    | intro _
    | with_reducible apply redErr_keeps
    | with_reducible apply setSeat_keeps
    | with_reducible apply keeps_ite
    | with_reducible apply keepsOpt_some
    | with_reducible exact keepsOpt_none
    | with_reducible apply keepsOpt_map
    | simp only [keeps_mk_iff]
    | split

theorem dupDrop_keeps {z0 : State} {s : State} {g : Nat} (h_s : Keeps z0 s) :
    Keeps z0 (dupDrop s g) := by
  unfold dupDrop
  try dsimp only
  repeat' first
    | with_reducible assumption
    | intro _
    | with_reducible apply countEv_keeps

theorem adoptStep_keeps {z0 : State} {s : State} {g : Nat} {x : RedPkt} (h_s : Keeps z0 s) :
    Keeps z0 (adoptStep s g x) := by
  unfold adoptStep
  try dsimp only
  repeat' first
    | with_reducible assumption
    | intro _
    | with_reducible apply setSeat_keeps
    | with_reducible apply keeps_ite

theorem nodeIn_keeps {z0 : State} {s : State} {g : Nat} {x : RedPkt} (h_s : Keeps z0 s) :
    KeepsSnd z0 (nodeIn s g x) := by
  unfold nodeIn
  dsimp only
  split
  · exact keepsSnd_mk (dupDrop_keeps h_s)
  · split
    · exact keepsSnd_mk (countEv_keeps h_s)
    · rename_i s1 h
      exact keepsSnd_mk (setSeat_keeps ((reach_keeps h_s).of s1 h))

theorem reduceIn_keeps {z0 : State} {s : State} {p : Packet} (h_s : Keeps z0 s) :
    KeepsSnd z0 (reduceIn s p) := by
  unfold reduceIn
  dsimp only
  split
  · exact keepsSnd_mk h_s
  · have h1 : ∀ g, Keeps z0 (adoptStep s g (redPkt p)) := fun g => adoptStep_keeps h_s
    repeat' first
      | with_reducible apply keepsSnd_ite
      | with_reducible exact keepsSnd_mk (pullIn_keeps h_s)
      | with_reducible exact keepsSnd_mk (dupDrop_keeps h_s)
      | with_reducible exact keepsSnd_mk (redErr_keeps h_s)
      | with_reducible exact keepsSnd_mk (countEv_keeps h_s)
      | with_reducible exact keepsSnd_mk h_s
      | with_reducible exact keepsSnd_mk (dupDrop_keeps (h1 _))
      | with_reducible exact keepsSnd_mk (resultIn_keeps (h1 _))
      | with_reducible exact nodeIn_keeps (h1 _)

theorem readLocal_keeps {z0 : State} {s : State} {g : Nat} {r : Nat} (h_s : Keeps z0 s) :
    Keeps z0 (readLocal s g r) := by
  unfold readLocal
  try dsimp only
  repeat' first
    | with_reducible assumption
    | intro _
    | with_reducible apply checkTags_keeps
    | with_reducible apply setItem_keeps
    | with_reducible apply reach_keeps
    | with_reducible apply rqRead_keeps
    | with_reducible apply formNodes_keeps
    | with_reducible apply dropFetched_keeps
    | with_reducible apply setSeat_keeps
    | with_reducible apply keeps_ite
    | with_reducible apply keepsOpt_some
    | with_reducible exact keepsOpt_none
    | with_reducible apply keepsOpt_map
    | simp only [keeps_mk_iff]
    | with_reducible apply KeepsSnd.of
    | with_reducible refine keepsSnd_eq (by with_reducible assumption) ?_
    | with_reducible refine keepsOpt_eq (by with_reducible assumption) ?_
    | split

theorem slotLost_keeps {z0 : State} {s : State} {g : Nat} {r : Nat} {chunk : Nat} {inj : Bool} (h_s : Keeps z0 s) :
    Keeps z0 (slotLost s g r chunk inj) := by
  unfold slotLost
  try dsimp only
  repeat' first
    | with_reducible assumption
    | intro _
    | with_reducible apply setSeat_keeps
    | with_reducible apply sendPulls_keeps
    | with_reducible apply raiseWith_keeps

theorem combineOne_keeps {z0 : State} {s : State} {g : Nat} {r : Nat} (h_s : Keeps z0 s) :
    Keeps z0 (combineOne s g r) := by
  unfold combineOne
  try dsimp only
  repeat' first
    | with_reducible assumption
    | intro _
    | with_reducible apply slotLost_keeps
    | with_reducible apply disarm_keeps
    | with_reducible apply formNodes_keeps
    | with_reducible apply setSeat_keeps
    | with_reducible apply keeps_ite
    | with_reducible apply keepsOpt_some
    | with_reducible exact keepsOpt_none
    | with_reducible apply keepsOpt_map
    | simp only [keeps_mk_iff]
    | split

theorem sendNode_keeps {z0 : State} {s : State} {g : Nat} {r : Nat} (h_s : Keeps z0 s) :
    Keeps z0 (sendNode s g r) := by
  unfold sendNode
  try dsimp only
  repeat' first
    | with_reducible assumption
    | intro _
    | with_reducible apply setSeat_keeps
    | with_reducible apply countEv_keeps
    | with_reducible apply sendReduce_keeps
    | with_reducible apply keeps_ite
    | with_reducible apply keepsOpt_some
    | with_reducible exact keepsOpt_none
    | with_reducible apply keepsOpt_map
    | with_reducible apply keeps_foldl
    | simp only [keeps_mk_iff]
    | split

theorem sendResult_keeps {z0 : State} {s : State} {g : Nat} {r : Nat} (h_s : Keeps z0 s) :
    Keeps z0 (sendResult s g r) := by
  unfold sendResult
  try dsimp only
  repeat' first
    | with_reducible assumption
    | intro _
    | with_reducible apply countEv_keeps
    | with_reducible apply sendReduce_keeps
    | with_reducible apply setSeat_keeps
    | with_reducible apply keepsOpt_some
    | with_reducible exact keepsOpt_none
    | with_reducible apply keepsOpt_map
    | simp only [keeps_mk_iff]
    | split

theorem writeResult_keeps {z0 : State} {s : State} {g : Nat} {r : Nat} (h_s : Keeps z0 s) :
    Keeps z0 (writeResult s g r) := by
  unfold writeResult
  try dsimp only
  repeat' first
    | with_reducible assumption
    | intro _
    | with_reducible apply rqRead_keeps
    | with_reducible apply rqWrites_keeps
    | with_reducible apply setSeat_keeps
    | with_reducible apply setItem_keeps
    | with_reducible apply keeps_ite
    | with_reducible apply keepsOpt_some
    | with_reducible exact keepsOpt_none
    | with_reducible apply keepsOpt_map
    | simp only [keeps_mk_iff]
    | with_reducible apply KeepsSnd.of
    | with_reducible refine keepsSnd_eq (by with_reducible assumption) ?_
    | split

theorem execLraSeatAction_keeps {z0 : State} {g : Nat} {r : Nat} {act : Nat} {s : State} (h_s : Keeps z0 s) :
    KeepsOut z0 (execLraSeatAction g r act s) := by
  unfold execLraSeatAction
  try dsimp only
  repeat' first
    | with_reducible assumption
    | intro _
    | with_reducible apply whenLive_keeps
    | with_reducible apply readLocal_keeps
    | with_reducible apply combineOne_keeps
    | with_reducible apply sendNode_keeps
    | with_reducible apply sendResult_keeps
    | with_reducible apply writeResult_keeps
    | with_reducible apply keeps_ite

theorem lraBindWrite_keeps {z0 : State} {s : State} {g : Nat} {r : Nat} {tab : Bool} {v : W64} (h_s : Keeps z0 s) :
    Keeps z0 (lraBindWrite s g r tab v) := by
  unfold lraBindWrite
  try dsimp only
  repeat' first
    | with_reducible assumption
    | intro _
    | with_reducible apply reject_keeps
    | with_reducible apply setReg_keeps
    | with_reducible apply setSeat_keeps
    | with_reducible apply setLraStep_keeps
    | with_reducible apply keeps_ite

theorem execLraBindWrite_keeps {z0 : State} {g : Nat} {r : Nat} {tab : Bool} {v : W64} {s : State} (h_s : Keeps z0 s) :
    KeepsOut z0 (execLraBindWrite g r tab v s) := by
  unfold execLraBindWrite
  try dsimp only
  repeat' first
    | with_reducible assumption
    | intro _
    | with_reducible apply whenLive_keeps
    | with_reducible apply lraBindWrite_keeps
    | with_reducible apply keeps_ite

/-! ### Fabric -/

theorem takeRq_keeps {z0 : State} {s : State} {i : Nat} (h_s : Keeps z0 s) :
    Keeps z0 (takeRq s i) := by
  unfold takeRq
  try dsimp only
  repeat' first
    | with_reducible assumption
    | intro _
    | simp only [keeps_mk_iff]

theorem noRoute_keeps {z0 : State} {s : State} {x : Nat} (h_s : Keeps z0 s) :
    Keeps z0 (noRoute s x) := by
  unfold noRoute
  try dsimp only
  repeat' first
    | with_reducible assumption
    | intro _
    | with_reducible apply raise_keeps

theorem toEscape_keeps {z0 : State} {s : State} {i : Nat} {x : Nat} {q : Packet} (h_s : Keeps z0 s) :
    Keeps z0 (toEscape s i x q) := by
  unfold toEscape
  try dsimp only
  repeat' first
    | with_reducible assumption
    | intro _
    | with_reducible apply countEv_keeps
    | simp only [keeps_mk_iff]

theorem forward_keeps {z0 : State} {s : State} {i : Nat} {x : Nat} {p : Packet} {credits : List Nat} (h_s : Keeps z0 s) :
    Keeps z0 (forward s i x p credits) := by
  unfold forward
  try dsimp only
  repeat' first
    | with_reducible assumption
    | intro _
    | with_reducible apply sendOnPort_keeps
    | with_reducible apply countEv_keeps
    | with_reducible apply takeRq_keeps
    | with_reducible apply raiseWith_keeps
    | with_reducible apply disarm_keeps
    | with_reducible apply noRoute_keeps
    | with_reducible apply toEscape_keeps
    | with_reducible apply keeps_ite
    | with_reducible apply keepsOpt_some
    | with_reducible exact keepsOpt_none
    | with_reducible apply keepsOpt_map
    | simp only [keeps_mk_iff]
    | split

theorem execPacketForward_keeps {z0 : State} {k : Nat} {credits : List Nat} {s : State} (h_s : Keeps z0 s) :
    KeepsOut z0 (execPacketForward k credits s) := by
  unfold execPacketForward
  try dsimp only
  repeat' first
    | with_reducible assumption
    | intro _
    | with_reducible apply whenLive_keeps
    | with_reducible apply forward_keeps
    | with_reducible apply keepsOut_next
    | with_reducible apply keepsOpt_some
    | with_reducible exact keepsOpt_none
    | with_reducible apply keepsOpt_map
    | simp only [keeps_mk_iff]
    | split

theorem rtdataWrite_keeps {z0 : State} {s : State} {x : Nat} {v : W64} (h_s : Keeps z0 s) :
    Keeps z0 (rtdataWrite s x v) := by
  unfold rtdataWrite
  try dsimp only
  repeat' first
    | with_reducible assumption
    | intro _
    | with_reducible apply reject_keeps
    | with_reducible apply keeps_ite
    | simp only [keeps_mk_iff]
    | split
    | (with_reducible apply keeps_all (by assumption) <;> first | exact id | exact wf_put _ _ _ _ | exact wf_memPut _ _ _ | exact wf_memPutMask _ _ _ _ | exact wf_dropKeys _ _ _ | exact fun _ => rfl)

theorem execRtrRtdataWrite_keeps {z0 : State} {x : Nat} {v : W64} {s : State} (h_s : Keeps z0 s) :
    KeepsOut z0 (execRtrRtdataWrite x v s) := by
  unfold execRtrRtdataWrite
  try dsimp only
  repeat' first
    | with_reducible assumption
    | intro _
    | with_reducible apply whenLive_keeps
    | with_reducible apply rtdataWrite_keeps
    | with_reducible apply keeps_ite

theorem touchFlow_keeps {z0 : State} {s : State} {x : Nat} {n : Nat} (h_s : Keeps z0 s) :
    Keeps z0 (touchFlow s x n) := by
  unfold touchFlow
  try dsimp only
  repeat' first
    | with_reducible assumption
    | intro _
    | with_reducible apply keeps_ite
    | simp only [keeps_mk_iff]

theorem beginSlice_keeps {z0 : State} {s : State} {x : Nat} {e : Nat} {n : Nat} (h_s : Keeps z0 s) :
    Keeps z0 (beginSlice s x e n) := by
  unfold beginSlice
  try dsimp only
  repeat' first
    | with_reducible assumption
    | intro _
    | with_reducible apply countEv_keeps
    | with_reducible apply touchFlow_keeps
    | with_reducible apply keeps_ite

theorem beginIntake_keeps {z0 : State} {s : State} {f : FlowSt} {n : Nat} (h_s : Keeps z0 s) :
    Keeps z0 (beginIntake s f n) := by
  unfold beginIntake
  try dsimp only
  repeat' first
    | with_reducible assumption
    | intro _
    | with_reducible apply beginSlice_keeps
    | with_reducible apply keepsOpt_some
    | with_reducible exact keepsOpt_none
    | with_reducible apply keepsOpt_map
    | simp only [keeps_mk_iff]
    | split

theorem flowErrItem_keeps {z0 : State} {s : State} {n : Nat} (h_s : Keeps z0 s) :
    Keeps z0 (flowErrItem s n) := by
  unfold flowErrItem
  try dsimp only
  repeat' first
    | with_reducible assumption
    | intro _
    | with_reducible apply setItem_keeps
    | with_reducible apply keepsOpt_some
    | with_reducible exact keepsOpt_none
    | with_reducible apply keepsOpt_map
    | simp only [keeps_mk_iff]
    | split

theorem srcFailed_keeps {z0 : State} {s : State} {src : PktSrc} (h_s : Keeps z0 s) :
    Keeps z0 (srcFailed s src) := by
  unfold srcFailed
  try dsimp only
  repeat' first
    | with_reducible assumption
    | intro _
    | with_reducible apply flowErrItem_keeps
    | with_reducible apply finishDesc_keeps
    | with_reducible apply setHart_keeps
    | with_reducible apply keeps_ite
    | with_reducible apply keepsOpt_some
    | with_reducible exact keepsOpt_none
    | with_reducible apply keepsOpt_map
    | with_reducible apply keeps_foldl
    | simp only [keeps_mk_iff]
    | split

theorem failFlow_keeps {z0 : State} {s : State} {n : Nat} {cause : Nat} (h_s : Keeps z0 s) :
    Keeps z0 (failFlow s n cause) := by
  unfold failFlow
  try dsimp only
  repeat' first
    | with_reducible assumption
    | intro _
    | with_reducible apply setFlow_keeps
    | with_reducible apply raiseInfo_keeps
    | with_reducible apply srcFailed_keeps
    | with_reducible apply flowErrItem_keeps
    | with_reducible apply failSeat_keeps
    | with_reducible apply finishDesc_keeps
    | with_reducible apply endPair_keeps
    | with_reducible apply wakeAcks_keeps
    | with_reducible apply keeps_ite
    | with_reducible apply keepsOpt_some
    | with_reducible exact keepsOpt_none
    | with_reducible apply keepsOpt_map
    | with_reducible apply keeps_foldl
    | simp only [keeps_mk_iff]
    | split

theorem failAll_keeps {z0 : State} {s : State} (h_s : Keeps z0 s) :
    Keeps z0 (failAll s) := by
  unfold failAll
  try dsimp only
  repeat' first
    | with_reducible assumption
    | intro _
    | with_reducible apply failFlow_keeps
    | with_reducible apply keeps_ite
    | with_reducible apply keepsOpt_some
    | with_reducible exact keepsOpt_none
    | with_reducible apply keepsOpt_map
    | with_reducible apply keeps_foldl

theorem harFail_keeps {z0 : State} {s : State} {x : Nat} {e : Nat} {n : Nat} {inj : Bool} (h_s : Keeps z0 s) :
    Keeps z0 (harFail s x e n inj) := by
  unfold harFail
  try dsimp only
  repeat' first
    | with_reducible assumption
    | intro _
    | with_reducible apply raiseWith_keeps
    | with_reducible apply failAll_keeps
    | with_reducible apply setFlow_keeps
    | with_reducible apply keeps_ite
    | with_reducible apply keepsOpt_some
    | with_reducible exact keepsOpt_none
    | with_reducible apply keepsOpt_map
    | simp only [keeps_mk_iff]
    | split

theorem execHarSliceTimeout_keeps {z0 : State} {x : Nat} {e : Nat} {n : Nat} {s : State} (h_s : Keeps z0 s) :
    KeepsOut z0 (execHarSliceTimeout x e n s) := by
  unfold execHarSliceTimeout
  try dsimp only
  repeat' first
    | with_reducible assumption
    | intro _
    | with_reducible apply whenLive_keeps
    | with_reducible apply harFail_keeps
    | with_reducible apply keeps_ite

theorem cmdCheck_keeps {z0 : State} {s : State} {q : Nat} {idx : Nat} (h_s : Keeps z0 s) :
    Keeps z0 (cmdCheck s q idx) := by
  unfold cmdCheck
  try dsimp only
  repeat' first
    | with_reducible assumption
    | intro _
    | with_reducible apply finishDesc_keeps
    | with_reducible apply keeps_ite
    | with_reducible apply keepsOpt_some
    | with_reducible exact keepsOpt_none
    | with_reducible apply keepsOpt_map
    | simp only [keeps_mk_iff]
    | split

theorem fenceChecks_keeps {z0 : State} {s : State} (h_s : Keeps z0 s) :
    Keeps z0 (fenceChecks s) := by
  unfold fenceChecks
  try dsimp only
  repeat' first
    | with_reducible assumption
    | intro _
    | with_reducible apply finishDesc_keeps
    | with_reducible apply keeps_ite
    | with_reducible apply keepsOpt_some
    | with_reducible exact keepsOpt_none
    | with_reducible apply keepsOpt_map
    | with_reducible apply keeps_foldl

theorem srcAcked_keeps {z0 : State} {s : State} {p : SentPkt} (h_s : Keeps z0 s) :
    Keeps z0 (srcAcked s p) := by
  unfold srcAcked
  try dsimp only
  repeat' first
    | with_reducible assumption
    | intro _
    | with_reducible apply cmdCheck_keeps
    | with_reducible apply setHart_keeps
    | with_reducible apply keeps_ite
    | simp only [keeps_mk_iff]
    | split

theorem answer_keeps {z0 : State} {s : State} {n : Nat} {hit : SentPkt → Bool} (h_s : Keeps z0 s) :
    Keeps z0 (answer s n hit) := by
  unfold answer
  try dsimp only
  repeat' first
    | with_reducible assumption
    | intro _
    | with_reducible apply setFlow_keeps
    | with_reducible apply fenceChecks_keeps
    | with_reducible apply wakeAcks_keeps
    | with_reducible apply srcAcked_keeps
    | with_reducible apply keeps_ite
    | with_reducible apply keepsOpt_some
    | with_reducible exact keepsOpt_none
    | with_reducible apply keepsOpt_map
    | with_reducible apply keeps_foldl
    | simp only [keeps_mk_iff]
    | split

theorem applyAck_keeps {z0 : State} {s : State} {n : Nat} {a : Nat} (h_s : Keeps z0 s) :
    Keeps z0 (applyAck s n a) := by
  unfold applyAck
  try dsimp only
  repeat' first
    | with_reducible assumption
    | intro _
    | with_reducible apply answer_keeps
    | with_reducible apply keeps_ite
    | with_reducible apply keepsOpt_some
    | with_reducible exact keepsOpt_none
    | with_reducible apply keepsOpt_map
    | simp only [keeps_mk_iff]
    | split

theorem inject_keeps {z0 : State} {s : State} {f : FlowSt} {src : PktSrc} {p : Packet} (h_s : Keeps z0 s) :
    Keeps z0 (inject s f src p) := by
  unfold inject
  try dsimp only
  repeat' first
    | with_reducible assumption
    | intro _
    | with_reducible apply sendOnPort_keeps
    | with_reducible apply keeps_ite
    | with_reducible apply keepsOpt_some
    | with_reducible exact keepsOpt_none
    | with_reducible apply keepsOpt_map
    | simp only [keeps_mk_iff]
    | split

theorem sendNew_keeps {z0 : State} {s : State} {n : Nat} {f : FlowSt} {o : OutPkt} (h_s : Keeps z0 s) :
    Keeps z0 (sendNew s n f o) := by
  unfold sendNew
  try dsimp only
  repeat' first
    | with_reducible assumption
    | intro _
    | with_reducible apply setFlow_keeps
    | with_reducible apply inject_keeps

theorem feedTiles_keeps {z0 : State} {s : State} {n : Nat} (h_s : Keeps z0 s) :
    Keeps z0 (feedTiles s n) := by
  unfold feedTiles
  try dsimp only
  repeat' first
    | with_reducible assumption
    | intro _
    | with_reducible apply checkTags_keeps
    | with_reducible apply setItem_keeps
    | with_reducible apply rqReads_keeps
    | with_reducible apply dropFetched_keeps
    | with_reducible apply enqueue_keeps
    | with_reducible apply keeps_ite
    | with_reducible apply keepsOpt_some
    | with_reducible exact keepsOpt_none
    | with_reducible apply keepsOpt_map
    | with_reducible apply keeps_foldl
    | simp only [keeps_mk_iff]
    | with_reducible apply KeepsSnd.of
    | with_reducible refine keepsSnd_eq (by with_reducible assumption) ?_
    | split

theorem sendAck_keeps {z0 : State} {s : State} {n : Nat} (h_s : Keeps z0 s) :
    Keeps z0 (sendAck s n) := by
  unfold sendAck
  try dsimp only
  repeat' first
    | with_reducible assumption
    | intro _
    | with_reducible apply inject_keeps
    | with_reducible apply setFlow_keeps
    | with_reducible apply keeps_ite
    | with_reducible apply keepsOpt_some
    | with_reducible exact keepsOpt_none
    | with_reducible apply keepsOpt_map
    | simp only [keeps_mk_iff]
    | split

theorem closeIfDone_keeps {z0 : State} {s : State} {n : Nat} (h_s : Keeps z0 s) :
    Keeps z0 (closeIfDone s n) := by
  unfold closeIfDone
  try dsimp only
  repeat' first
    | with_reducible assumption
    | intro _
    | with_reducible apply inject_keeps
    | with_reducible apply closeFlow_keeps
    | with_reducible apply finishDesc_keeps
    | with_reducible apply keeps_ite
    | with_reducible apply keepsOpt_some
    | with_reducible exact keepsOpt_none
    | with_reducible apply keepsOpt_map
    | simp only [keeps_mk_iff]
    | split

theorem sliceSend_keeps {z0 : State} {page : Nat} {s : State} {n : Nat} (h_s : Keeps z0 s) :
    Keeps z0 (sliceSend page s n) := by
  unfold sliceSend
  try dsimp only
  repeat' first
    | with_reducible assumption
    | intro _
    | with_reducible apply inject_keeps
    | with_reducible apply setFlow_keeps
    | with_reducible apply countEv_keeps
    | with_reducible apply sendNew_keeps
    | with_reducible apply keeps_ite
    | with_reducible apply keepsOpt_some
    | with_reducible exact keepsOpt_none
    | with_reducible apply keepsOpt_map
    | simp only [keeps_mk_iff]
    | split

theorem flowRespond_keeps {z0 : State} {s : State} {n : Nat} {p : Packet} (h_s : Keeps z0 s) :
    Keeps z0 (flowRespond s n p) := by
  unfold flowRespond
  try dsimp only
  repeat' first
    | with_reducible assumption
    | intro _
    | with_reducible apply setFlow_keeps
    | with_reducible apply keepsOpt_some
    | with_reducible exact keepsOpt_none
    | with_reducible apply keepsOpt_map
    | simp only [keeps_mk_iff]
    | split

theorem performReq_keeps {z0 : State} {s : State} {n : Nat} {f : FlowSt} {p : Packet} (h_s : Keeps z0 s) :
    Keeps z0 (performReq s n f p) := by
  unfold performReq
  try dsimp only
  repeat' first
    | with_reducible assumption
    | intro _
    | with_reducible apply flowRespond_keeps
    | with_reducible apply homeWrite_keeps
    | with_reducible apply homeRead_keeps
    | with_reducible apply countTdc_keeps
    | with_reducible apply performAtomic_keeps
    | with_reducible apply dropCopies_keeps
    | with_reducible apply setFlow_keeps
    | with_reducible apply keeps_ite
    | with_reducible apply keepsOpt_some
    | with_reducible exact keepsOpt_none
    | with_reducible apply keepsOpt_map
    | simp only [keeps_mk_iff]
    | with_reducible apply KeepsThd.of
    | with_reducible apply KeepsSnd.of
    | with_reducible refine keepsThd_eq (by with_reducible assumption) ?_
    | with_reducible refine keepsSnd_eq (by with_reducible assumption) ?_
    | split

/-- The state of what a packet in order comes to. -/
def doneState : Done → State
  | .performed s => s
  | .refused s _ _ => s
  | .held s => s

theorem doneState_ite {z0 : State} {c : Prop} [Decidable c] {a b : Done} (ha : Keeps z0 (doneState a))
    (hb : Keeps z0 (doneState b)) : Keeps z0 (doneState (if c then a else b)) := by
  split
  · exact ha
  · exact hb

theorem dropRx_keeps {z0 : State} {n : Nat} {t : State} (h : Keeps z0 t) :
    Keeps z0 (match t.flow n with
      | some g => t.setFlow n { g with rx := none }
      | none => t) := by
  split
  · exact setFlow_keeps h
  · exact h

theorem tileWhole_keeps {z0 : State} {s : State} {n : Nat} {f : FlowSt} {p : Packet} {rx : RxTile} {bytes : List Byte}
    (h : Keeps z0 s) : Keeps z0 (doneState (tileWhole s n f p rx bytes)) := by
  unfold tileWhole
  dsimp only
  apply doneState_ite
  · exact dropRx_keeps (setFlow_keeps h)
  · split
    · exact dropRx_keeps h
    · rename_i jn j sid st _
      split
      · exact dropRx_keeps h
      · rename_i cid c _
        apply doneState_ite
        · exact dropRx_keeps h
        · split
          · exact dropRx_keeps (setFlow_keeps h)
          · rename_i k it _
            apply doneState_ite
            · exact dropRx_keeps h
            · apply doneState_ite
              · exact (rqWrites_keeps h).of
              · exact dropRx_keeps (setItem_keeps (rqWrites_keeps h).of)

theorem performTile_keeps {z0 : State} {s : State} {n : Nat} {f : FlowSt} {p : Packet} (h : Keeps z0 s) :
    Keeps z0 (doneState (performTile s n f p)) := by
  unfold performTile
  dsimp only
  split
  · exact h
  · apply doneState_ite
    · exact setFlow_keeps h
    · apply doneState_ite
      · exact setFlow_keeps h
      · exact tileWhole_keeps (setFlow_keeps h)

theorem perform_keeps {z0 : State} {s : State} {n : Nat} {f : FlowSt} {p : Packet} (h : Keeps z0 s) :
    Keeps z0 (doneState (perform s n f p)) := by
  unfold perform
  apply doneState_ite
  · exact performReq_keeps h
  · apply doneState_ite
    · exact performTile_keeps h
    · exact doneState_ite (reduceIn_keeps h).of (reduceIn_keeps h).of

theorem takeInOrder_keeps {z0 : State} {s : State} {n : Nat} {p : Packet} (h_s : Keeps z0 s) :
    KeepsSnd z0 (takeInOrder s n p) := by
  unfold takeInOrder
  split
  · exact keepsSnd_mk h_s
  · rename_i f _
    have h1 := perform_keeps (n := n) (f := f) (p := p) h_s
    have h2 : ∀ t, Keeps z0 t → Keeps z0 (match t.flow n with
        | none => t
        | some g => t.setFlow n { g with exp := (p.psn + 1) % 2 ^ 32, ackDue := true, rxb := (g.rxb + p.payload.length) % 2 ^ 64 }) := by
      intro t h
      split
      · exact h
      · exact setFlow_keeps h
    revert h1
    dsimp only
    generalize perform s n f p = w
    intro h1
    cases w with
    | performed t => exact keepsSnd_mk (h2 t h1)
    | held t => exact keepsSnd_mk h1
    | refused t sub psn =>
      have h3 : Keeps z0 (if sub = 4 then (match t.flow n with
        | none => t
        | some g => t.setFlow n { g with exp := (p.psn + 1) % 2 ^ 32, ackDue := true, rxb := (g.rxb + p.payload.length) % 2 ^ 64 }) else t) := by
        split
        · exact h2 t h1
        · exact h1
      dsimp only
      apply keepsSnd_mk
      split
      · exact h3
      · exact setFlow_keeps h3

theorem drainEarly_keeps {z0 : State} {x0 : Nat} {x1 : State} {x2 : Nat} (h_x1 : Keeps z0 x1) :
    Keeps z0 (drainEarly x0 x1 x2) := by
  induction x0 generalizing x1 x2 with
  | zero =>
    unfold drainEarly
    try dsimp only
    repeat' first
      | with_reducible assumption
  | succ m ih =>
    unfold drainEarly
    try dsimp only
    repeat' first
      | with_reducible assumption
      | intro _
      | with_reducible apply ih
      | with_reducible apply takeInOrder_keeps
      | with_reducible apply setFlow_keeps
      | with_reducible apply takeInOrder_keeps
      | with_reducible apply setFlow_keeps
      | with_reducible apply keeps_ite
      | with_reducible apply keepsOpt_some
      | with_reducible exact keepsOpt_none
      | with_reducible apply keepsOpt_map
      | simp only [keeps_mk_iff]
      | with_reducible apply KeepsSnd.of
      | with_reducible refine keepsSnd_eq (by with_reducible assumption) ?_
      | split

theorem takeArrived_keeps {z0 : State} {s : State} {p : Packet} (h_s : Keeps z0 s) :
    Keeps z0 (takeArrived s p) := by
  unfold takeArrived
  try dsimp only
  repeat' first
    | with_reducible assumption
    | intro _
    | simp only [keeps_mk_iff]

theorem setNack_keeps {z0 : State} {s : State} {n : Nat} {sub : Nat} {psn : Nat} (h_s : Keeps z0 s) :
    Keeps z0 (setNack s n sub psn) := by
  unfold setNack
  try dsimp only
  repeat' first
    | with_reducible assumption
    | intro _
    | with_reducible apply setFlow_keeps
    | with_reducible apply keepsOpt_some
    | with_reducible exact keepsOpt_none
    | with_reducible apply keepsOpt_map
    | simp only [keeps_mk_iff]
    | split

theorem noFlow_keeps {z0 : State} {s : State} {p : Packet} (h_s : Keeps z0 s) :
    Keeps z0 (noFlow s p) := by
  unfold noFlow
  try dsimp only
  repeat' first
    | with_reducible assumption
    | intro _
    | with_reducible apply keeps_ite
    | simp only [keeps_mk_iff]

theorem duplicate_keeps {z0 : State} {s : State} {n : Nat} {f : FlowSt} {p : Packet} (h_s : Keeps z0 s) :
    Keeps z0 (duplicate s n f p) := by
  unfold duplicate
  try dsimp only
  repeat' first
    | with_reducible assumption
    | intro _
    | with_reducible apply setFlow_keeps
    | with_reducible apply performReq_keeps
    | with_reducible apply flowRespond_keeps
    | with_reducible apply keeps_ite
    | with_reducible apply keepsOpt_some
    | with_reducible exact keepsOpt_none
    | with_reducible apply keepsOpt_map
    | simp only [keeps_mk_iff]
    | split

theorem sequenced_keeps {z0 : State} {s : State} {n : Nat} {f : FlowSt} {p : Packet} (h_s : Keeps z0 s) :
    Keeps z0 (sequenced s n f p) := by
  unfold sequenced
  try dsimp only
  repeat' first
    | with_reducible assumption
    | intro _
    | with_reducible apply takeInOrder_keeps
    | with_reducible apply takeArrived_keeps
    | with_reducible apply drainEarly_keeps
    | with_reducible apply duplicate_keeps
    | with_reducible apply countEv_keeps
    | with_reducible apply setFlow_keeps
    | with_reducible apply setNack_keeps
    | with_reducible apply keeps_ite
    | with_reducible apply keepsOpt_some
    | with_reducible exact keepsOpt_none
    | with_reducible apply keepsOpt_map
    | simp only [keeps_mk_iff]
    | with_reducible apply KeepsSnd.of
    | with_reducible refine keepsSnd_eq (by with_reducible assumption) ?_
    | split

theorem arrivalRow_keeps {z0 : State} {type : Nat} {p : Packet} {s : State} (h_s : Keeps z0 s) :
    KeepsOut z0 (arrivalRow type p s) := by
  unfold arrivalRow
  try dsimp only
  repeat' first
    | with_reducible assumption
    | intro _
    | with_reducible apply whenLive_keeps
    | with_reducible apply takeArrived_keeps
    | with_reducible apply setNack_keeps
    | with_reducible apply applyAck_keeps
    | with_reducible apply beginIntake_keeps
    | with_reducible apply sequenced_keeps
    | with_reducible apply noFlow_keeps
    | with_reducible apply keeps_ite
    | with_reducible apply keepsOut_ite
    | with_reducible apply keepsOut_next
    | with_reducible apply keepsOpt_some
    | with_reducible exact keepsOpt_none
    | with_reducible apply keepsOpt_map
    | simp only [keeps_mk_iff]
    | split

theorem execWrite_keeps {z0 : State} {p : Packet} {s : State} (h_s : Keeps z0 s) :
    KeepsOut z0 (execWrite p s) := by
  unfold execWrite
  try dsimp only
  repeat' first
    | with_reducible assumption
    | intro _
    | with_reducible apply arrivalRow_keeps

theorem execRead_keeps {z0 : State} {p : Packet} {s : State} (h_s : Keeps z0 s) :
    KeepsOut z0 (execRead p s) := by
  unfold execRead
  try dsimp only
  repeat' first
    | with_reducible assumption
    | intro _
    | with_reducible apply arrivalRow_keeps

theorem execAtomic_keeps {z0 : State} {p : Packet} {s : State} (h_s : Keeps z0 s) :
    KeepsOut z0 (execAtomic p s) := by
  unfold execAtomic
  try dsimp only
  repeat' first
    | with_reducible assumption
    | intro _
    | with_reducible apply arrivalRow_keeps

theorem execTile_keeps {z0 : State} {p : Packet} {s : State} (h_s : Keeps z0 s) :
    KeepsOut z0 (execTile p s) := by
  unfold execTile
  try dsimp only
  repeat' first
    | with_reducible assumption
    | intro _
    | with_reducible apply arrivalRow_keeps

theorem execReduceNodeUp_keeps {z0 : State} {p : Packet} {s : State} (h_s : Keeps z0 s) :
    KeepsOut z0 (execReduceNodeUp p s) := by
  unfold execReduceNodeUp
  try dsimp only
  repeat' first
    | with_reducible assumption
    | intro _
    | with_reducible apply arrivalRow_keeps
    | with_reducible apply keeps_ite
    | with_reducible apply keepsOut_ite
    | with_reducible apply keepsOut_next

theorem execReduceResultDown_keeps {z0 : State} {p : Packet} {s : State} (h_s : Keeps z0 s) :
    KeepsOut z0 (execReduceResultDown p s) := by
  unfold execReduceResultDown
  try dsimp only
  repeat' first
    | with_reducible assumption
    | intro _
    | with_reducible apply arrivalRow_keeps
    | with_reducible apply keeps_ite
    | with_reducible apply keepsOut_ite
    | with_reducible apply keepsOut_next

theorem execReducePull_keeps {z0 : State} {p : Packet} {s : State} (h_s : Keeps z0 s) :
    KeepsOut z0 (execReducePull p s) := by
  unfold execReducePull
  try dsimp only
  repeat' first
    | with_reducible assumption
    | intro _
    | with_reducible apply arrivalRow_keeps
    | with_reducible apply keeps_ite
    | with_reducible apply keepsOut_ite
    | with_reducible apply keepsOut_next

theorem controlRow_keeps {z0 : State} {type : Nat} {p : Packet} {body : State → FlowSt → State} {s : State} (h_s : Keeps z0 s) (k_body : ∀ (y1 : State) (y2 : FlowSt), Keeps z0 y1 → Keeps z0 (body y1 y2)) :
    KeepsOut z0 (controlRow type p body s) := by
  unfold controlRow
  try dsimp only
  repeat' first
    | with_reducible assumption
    | intro _
    | with_reducible apply whenLive_keeps
    | with_reducible apply takeArrived_keeps
    | with_reducible apply beginIntake_keeps
    | with_reducible apply applyAck_keeps
    | with_reducible apply k_body
    | with_reducible apply keeps_ite
    | with_reducible apply keepsOut_ite
    | with_reducible apply keepsOut_next
    | with_reducible apply keepsOpt_some
    | with_reducible exact keepsOpt_none
    | with_reducible apply keepsOpt_map
    | simp only [keeps_mk_iff]
    | with_reducible refine keepsOpt_eq (by with_reducible assumption) ?_
    | split

theorem execAck_keeps {z0 : State} {p : Packet} {s : State} (h_s : Keeps z0 s) :
    KeepsOut z0 (execAck p s) := by
  unfold execAck
  try dsimp only
  repeat' first
    | with_reducible assumption
    | intro _
    | with_reducible apply controlRow_keeps

theorem answered_keeps {z0 : State} {s : State} {n : Nat} {psn : Nat} (h_s : Keeps z0 s) :
    Keeps z0 (answered s n psn) := by
  unfold answered
  try dsimp only
  repeat' first
    | with_reducible assumption
    | intro _
    | with_reducible apply answer_keeps

theorem loadWords_keeps {z0 : State} {s : State} {u : Nat} {req : Nat} {bs : List Byte} (h_s : Keeps z0 s) :
    Keeps z0 (loadWords s u req bs) := by
  unfold loadWords
  try dsimp only
  repeat' first
    | with_reducible assumption
    | intro _
    | with_reducible apply deliverAll_keeps

theorem execReadresp_keeps {z0 : State} {p : Packet} {s : State} (h_s : Keeps z0 s) :
    KeepsOut z0 (execReadresp p s) := by
  unfold execReadresp
  try dsimp only
  repeat' first
    | with_reducible assumption
    | intro _
    | with_reducible apply controlRow_keeps
    | with_reducible apply answered_keeps
    | with_reducible apply loadWords_keeps
    | with_reducible apply rqWrite_keeps
    | with_reducible apply enqueue_keeps
    | with_reducible apply keeps_ite
    | with_reducible apply keepsOut_ite
    | with_reducible apply keepsOut_next
    | with_reducible apply keepsOpt_some
    | with_reducible exact keepsOpt_none
    | with_reducible apply keepsOpt_map
    | simp only [keeps_mk_iff]
    | with_reducible apply KeepsSnd.of
    | with_reducible refine keepsSnd_eq (by with_reducible assumption) ?_
    | split

theorem execAtomresp_keeps {z0 : State} {p : Packet} {s : State} (h_s : Keeps z0 s) :
    KeepsOut z0 (execAtomresp p s) := by
  unfold execAtomresp
  try dsimp only
  repeat' first
    | with_reducible assumption
    | intro _
    | with_reducible apply controlRow_keeps
    | with_reducible apply answered_keeps
    | with_reducible apply keepsOut_next
    | with_reducible apply keepsOpt_some
    | with_reducible exact keepsOpt_none
    | with_reducible apply keepsOpt_map
    | simp only [keeps_mk_iff]
    | split

theorem resendFrom_keeps {z0 : State} {s : State} {n : Nat} {psn : Nat} (h_s : Keeps z0 s) :
    Keeps z0 (resendFrom s n psn) := by
  unfold resendFrom
  try dsimp only
  repeat' first
    | with_reducible assumption
    | intro _
    | with_reducible apply setFlow_keeps
    | with_reducible apply keeps_ite
    | with_reducible apply keepsOpt_some
    | with_reducible exact keepsOpt_none
    | with_reducible apply keepsOpt_map
    | simp only [keeps_mk_iff]
    | split

theorem execNack_keeps {z0 : State} {p : Packet} {s : State} (h_s : Keeps z0 s) :
    KeepsOut z0 (execNack p s) := by
  unfold execNack
  try dsimp only
  repeat' first
    | with_reducible assumption
    | intro _
    | with_reducible apply controlRow_keeps
    | with_reducible apply answered_keeps
    | with_reducible apply flowErrItem_keeps
    | with_reducible apply resendFrom_keeps
    | with_reducible apply setFlow_keeps
    | with_reducible apply keeps_ite
    | with_reducible apply keepsOut_ite
    | with_reducible apply keepsOut_next
    | with_reducible apply keepsOpt_some
    | with_reducible exact keepsOpt_none
    | with_reducible apply keepsOpt_map
    | simp only [keeps_mk_iff]
    | split

theorem remoteErr_keeps {z0 : State} {s : State} {hx : Nat} {ga : Nat} {code : Nat} (h_s : Keeps z0 s) :
    Keeps z0 (remoteErr s hx ga code) := by
  unfold remoteErr
  try dsimp only
  repeat' first
    | with_reducible assumption
    | intro _
    | with_reducible apply setReg_keeps
    | with_reducible apply raiseInfo_keeps

theorem loadRefused_keeps {z0 : State} {s : State} {n : Nat} {u : Nat} {req : Nat} {k : SentPkt} (h_s : Keeps z0 s) :
    Keeps z0 (loadRefused s n u req k) := by
  unfold loadRefused
  try dsimp only
  repeat' first
    | with_reducible assumption
    | intro _
    | with_reducible apply enqueue_keeps
    | with_reducible apply itemFault_keeps
    | with_reducible apply keeps_ite
    | with_reducible apply keepsOpt_some
    | with_reducible exact keepsOpt_none
    | with_reducible apply keepsOpt_map
    | with_reducible apply keeps_foldl
    | simp only [keeps_mk_iff]
    | split

theorem atomRefused_keeps {z0 : State} {s : State} {n : Nat} {item : Nat} {k : SentPkt} (h_s : Keeps z0 s) :
    Keeps z0 (atomRefused s n item k) := by
  unfold atomRefused
  try dsimp only
  repeat' first
    | with_reducible assumption
    | intro _
    | with_reducible apply enqueue_keeps
    | with_reducible apply logPlaces_keeps
    | with_reducible apply itemFault_keeps
    | with_reducible apply keeps_ite
    | with_reducible apply keepsOpt_some
    | with_reducible exact keepsOpt_none
    | with_reducible apply keepsOpt_map
    | simp only [keeps_mk_iff]
    | with_reducible apply KeepsThd.of
    | with_reducible refine keepsThd_eq (by with_reducible assumption) ?_
    | split

theorem poisonItem_keeps {z0 : State} {s : State} {n : Nat} (h_s : Keeps z0 s) :
    Keeps z0 (poisonItem s n) := by
  unfold poisonItem
  try dsimp only
  repeat' first
    | with_reducible assumption
    | intro _
    | with_reducible apply setItem_keeps
    | with_reducible apply keepsOpt_some
    | with_reducible exact keepsOpt_none
    | with_reducible apply keepsOpt_map
    | simp only [keeps_mk_iff]
    | split

theorem poisonSrc_keeps {z0 : State} {s : State} {k : SentPkt} (h_s : Keeps z0 s) :
    Keeps z0 (poisonSrc s k) := by
  unfold poisonSrc
  try dsimp only
  repeat' first
    | with_reducible assumption
    | intro _
    | with_reducible apply poisonItem_keeps
    | with_reducible apply loadWords_keeps
    | with_reducible apply keepsOpt_some
    | with_reducible exact keepsOpt_none
    | with_reducible apply keepsOpt_map
    | with_reducible apply keeps_foldl
    | simp only [keeps_mk_iff]
    | split

theorem cmdRemote_keeps {z0 : State} {s : State} {n : Nat} {q : Nat} {idx : Nat} {code : Nat} {ga : Nat} (h_s : Keeps z0 s) :
    Keeps z0 (cmdRemote s n q idx code ga) := by
  unfold cmdRemote
  try dsimp only
  repeat' first
    | with_reducible assumption
    | intro _
    | with_reducible apply setFlow_keeps
    | with_reducible apply finishDesc_keeps
    | with_reducible apply keepsOpt_some
    | with_reducible exact keepsOpt_none
    | with_reducible apply keepsOpt_map
    | simp only [keeps_mk_iff]
    | split

theorem execErrresp_keeps {z0 : State} {p : Packet} {s : State} (h_s : Keeps z0 s) :
    KeepsOut z0 (execErrresp p s) := by
  unfold execErrresp
  try dsimp only
  repeat' first
    | with_reducible assumption
    | intro _
    | with_reducible apply controlRow_keeps
    | with_reducible apply cmdRemote_keeps
    | with_reducible apply remoteErr_keeps
    | with_reducible apply poisonSrc_keeps
    | with_reducible apply loadRefused_keeps
    | with_reducible apply atomRefused_keeps
    | with_reducible apply answered_keeps
    | with_reducible apply keeps_ite
    | with_reducible apply keepsOut_ite
    | with_reducible apply keepsOut_next
    | with_reducible apply keepsOpt_some
    | with_reducible exact keepsOpt_none
    | with_reducible apply keepsOpt_map
    | simp only [keeps_mk_iff]
    | split

theorem flowctlRow_keeps {z0 : State} {sub : Nat} {p : Packet} {body : State → FlowSt → State} {s : State} (h_s : Keeps z0 s) (k_body : ∀ (y1 : State) (y2 : FlowSt), Keeps z0 y1 → Keeps z0 (body y1 y2)) :
    KeepsOut z0 (flowctlRow sub p body s) := by
  unfold flowctlRow
  try dsimp only
  repeat' first
    | with_reducible assumption
    | intro _
    | with_reducible apply controlRow_keeps
    | with_reducible apply k_body
    | with_reducible apply keeps_ite
    | with_reducible apply keepsOut_ite
    | with_reducible apply keepsOut_next

theorem openIfDone_keeps {z0 : State} {s : State} {n : Nat} (h_s : Keeps z0 s) :
    Keeps z0 (openIfDone s n) := by
  unfold openIfDone
  try dsimp only
  repeat' first
    | with_reducible assumption
    | intro _
    | with_reducible apply setFlow_keeps
    | with_reducible apply finishDesc_keeps
    | with_reducible apply keeps_ite
    | with_reducible apply keepsOpt_some
    | with_reducible exact keepsOpt_none
    | with_reducible apply keepsOpt_map
    | simp only [keeps_mk_iff]
    | split

theorem openFails_keeps {z0 : State} {s : State} {n : Nat} {f : FlowSt} {cause : Nat} {status : Nat} (h_s : Keeps z0 s) :
    Keeps z0 (openFails s n f cause status) := by
  unfold openFails
  try dsimp only
  repeat' first
    | with_reducible assumption
    | intro _
    | with_reducible apply closeFlow_keeps
    | with_reducible apply finishDesc_keeps
    | with_reducible apply keepsOpt_some
    | with_reducible exact keepsOpt_none
    | with_reducible apply keepsOpt_map
    | simp only [keeps_mk_iff]
    | split

theorem execFlowctlOpen_keeps {z0 : State} {p : Packet} {s : State} (h_s : Keeps z0 s) :
    KeepsOut z0 (execFlowctlOpen p s) := by
  unfold execFlowctlOpen
  try dsimp only
  repeat' first
    | with_reducible assumption
    | intro _
    | with_reducible apply flowctlRow_keeps
    | with_reducible apply openFails_keeps
    | with_reducible apply openIfDone_keeps
    | with_reducible apply setFlow_keeps
    | with_reducible apply keeps_ite

theorem execFlowctlOpenack_keeps {z0 : State} {p : Packet} {s : State} (h_s : Keeps z0 s) :
    KeepsOut z0 (execFlowctlOpenack p s) := by
  unfold execFlowctlOpenack
  try dsimp only
  repeat' first
    | with_reducible assumption
    | intro _
    | with_reducible apply flowctlRow_keeps
    | with_reducible apply openFails_keeps
    | with_reducible apply openIfDone_keeps
    | with_reducible apply setFlow_keeps
    | with_reducible apply keeps_ite

theorem execFlowctlClose_keeps {z0 : State} {p : Packet} {s : State} (h_s : Keeps z0 s) :
    KeepsOut z0 (execFlowctlClose p s) := by
  unfold execFlowctlClose
  try dsimp only
  repeat' first
    | with_reducible assumption
    | intro _
    | with_reducible apply flowctlRow_keeps
    | with_reducible apply failFlow_keeps
    | with_reducible apply keeps_ite

theorem execFlowctlCredit_keeps {z0 : State} {p : Packet} {s : State} (h_s : Keeps z0 s) :
    KeepsOut z0 (execFlowctlCredit p s) := by
  unfold execFlowctlCredit
  try dsimp only
  repeat' first
    | with_reducible assumption
    | intro _
    | with_reducible apply flowctlRow_keeps
    | with_reducible apply setFlow_keeps
    | with_reducible apply keeps_ite

theorem execHarSlice_keeps {z0 : State} {x : Nat} {e : Nat} {n : Nat} {s : State} (h_s : Keeps z0 s) :
    KeepsOut z0 (execHarSlice x e n s) := by
  unfold execHarSlice
  try dsimp only
  repeat' first
    | with_reducible assumption
    | intro _
    | with_reducible apply whenLive_keeps
    | with_reducible apply harFail_keeps
    | with_reducible apply disarm_keeps
    | with_reducible apply drainEarly_keeps
    | with_reducible apply beginSlice_keeps
    | with_reducible apply closeIfDone_keeps
    | with_reducible apply sendAck_keeps
    | with_reducible apply sliceSend_keeps
    | with_reducible apply feedTiles_keeps
    | with_reducible apply keeps_ite
    | with_reducible apply keepsOut_ite
    | with_reducible apply keepsOut_next
    | with_reducible apply keepsOpt_some
    | with_reducible exact keepsOpt_none
    | with_reducible apply keepsOpt_map
    | simp only [keeps_mk_iff]
    | split

theorem execFlowRtoExpire_keeps {z0 : State} {n : Nat} {s : State} (h_s : Keeps z0 s) :
    KeepsOut z0 (execFlowRtoExpire n s) := by
  unfold execFlowRtoExpire
  try dsimp only
  repeat' first
    | with_reducible assumption
    | intro _
    | with_reducible apply whenLive_keeps
    | with_reducible apply setFlow_keeps
    | with_reducible apply failFlow_keeps
    | with_reducible apply keeps_ite
    | with_reducible apply keepsOut_ite
    | with_reducible apply keepsOut_next
    | with_reducible apply keepsOpt_some
    | with_reducible exact keepsOpt_none
    | with_reducible apply keepsOpt_map
    | simp only [keeps_mk_iff]
    | split

theorem execFlowOpenTimeout_keeps {z0 : State} {n : Nat} {s : State} (h_s : Keeps z0 s) :
    KeepsOut z0 (execFlowOpenTimeout n s) := by
  unfold execFlowOpenTimeout
  try dsimp only
  repeat' first
    | with_reducible assumption
    | intro _
    | with_reducible apply whenLive_keeps
    | with_reducible apply openFails_keeps
    | with_reducible apply keeps_ite
    | with_reducible apply keepsOut_ite
    | with_reducible apply keepsOut_next
    | with_reducible apply keepsOpt_some
    | with_reducible exact keepsOpt_none
    | with_reducible apply keepsOpt_map
    | simp only [keeps_mk_iff]
    | split

/-! ### FlowCmds -/

theorem flowOpenCmd_keeps {z0 : State} {q : Nat} {idx : Nat} {d : Desc} {s : State} (h_s : Keeps z0 s) :
    Keeps z0 (flowOpenCmd q idx d s) := by
  unfold flowOpenCmd
  try dsimp only
  repeat' first
    | with_reducible assumption
    | intro _
    | with_reducible apply finishDesc_keeps
    | with_reducible apply homeRead_keeps
    | with_reducible apply startDesc_keeps
    | with_reducible apply setFlow_keeps
    | with_reducible apply keeps_ite
    | with_reducible apply KeepsThd.of

theorem execFopen_keeps {z0 : State} {q : Nat} {idx : Nat} {s : State} (h_s : Keeps z0 s) :
    KeepsOut z0 (execFopen q idx s) := by
  unfold execFopen
  try dsimp only
  repeat' first
    | with_reducible assumption
    | intro _
    | with_reducible apply descRow_keeps
    | with_reducible apply flowOpenCmd_keeps

theorem flowCloseCmd_keeps {z0 : State} {q : Nat} {idx : Nat} {d : Desc} {s : State} (h_s : Keeps z0 s) :
    Keeps z0 (flowCloseCmd q idx d s) := by
  unfold flowCloseCmd
  try dsimp only
  repeat' first
    | with_reducible assumption
    | intro _
    | with_reducible apply finishDesc_keeps
    | with_reducible apply closeFlow_keeps
    | with_reducible apply startDesc_keeps
    | with_reducible apply setFlow_keeps
    | with_reducible apply keeps_ite
    | with_reducible apply keepsOpt_some
    | with_reducible exact keepsOpt_none
    | with_reducible apply keepsOpt_map
    | simp only [keeps_mk_iff]
    | split

theorem execFclose_keeps {z0 : State} {q : Nat} {idx : Nat} {s : State} (h_s : Keeps z0 s) :
    KeepsOut z0 (execFclose q idx s) := by
  unfold execFclose
  try dsimp only
  repeat' first
    | with_reducible assumption
    | intro _
    | with_reducible apply descRow_keeps
    | with_reducible apply flowCloseCmd_keeps

theorem fputCmd_keeps {z0 : State} {q : Nat} {idx : Nat} {d : Desc} {s : State} (h_s : Keeps z0 s) :
    Keeps z0 (fputCmd q idx d s) := by
  unfold fputCmd
  try dsimp only
  repeat' first
    | with_reducible assumption
    | intro _
    | with_reducible apply finishDesc_keeps
    | with_reducible apply rqRead_keeps
    | with_reducible apply startDesc_keeps
    | with_reducible apply enqueue_keeps
    | with_reducible apply keeps_ite
    | with_reducible apply keepsOpt_some
    | with_reducible exact keepsOpt_none
    | with_reducible apply keepsOpt_map
    | with_reducible apply keeps_foldl
    | simp only [keeps_mk_iff]
    | with_reducible apply KeepsSnd.of
    | with_reducible refine keepsSnd_eq (by with_reducible assumption) ?_
    | split

theorem execFput_keeps {z0 : State} {q : Nat} {idx : Nat} {s : State} (h_s : Keeps z0 s) :
    KeepsOut z0 (execFput q idx s) := by
  unfold execFput
  try dsimp only
  repeat' first
    | with_reducible assumption
    | intro _
    | with_reducible apply descRow_keeps
    | with_reducible apply fputCmd_keeps

theorem fgetCmd_keeps {z0 : State} {q : Nat} {idx : Nat} {d : Desc} {s : State} (h_s : Keeps z0 s) :
    Keeps z0 (fgetCmd q idx d s) := by
  unfold fgetCmd
  try dsimp only
  repeat' first
    | with_reducible assumption
    | intro _
    | with_reducible apply finishDesc_keeps
    | with_reducible apply rqProbe_keeps
    | with_reducible apply startDesc_keeps
    | with_reducible apply enqueue_keeps
    | with_reducible apply keeps_ite
    | with_reducible apply keepsOpt_some
    | with_reducible exact keepsOpt_none
    | with_reducible apply keepsOpt_map
    | with_reducible apply keeps_foldl
    | simp only [keeps_mk_iff]
    | with_reducible apply KeepsSnd.of
    | with_reducible refine keepsSnd_eq (by with_reducible assumption) ?_
    | split

theorem execFget_keeps {z0 : State} {q : Nat} {idx : Nat} {s : State} (h_s : Keeps z0 s) :
    KeepsOut z0 (execFget q idx s) := by
  unfold execFget
  try dsimp only
  repeat' first
    | with_reducible assumption
    | intro _
    | with_reducible apply descRow_keeps
    | with_reducible apply fgetCmd_keeps

theorem execFfence_keeps {z0 : State} {q : Nat} {idx : Nat} {s : State} (h_s : Keeps z0 s) :
    KeepsOut z0 (execFfence q idx s) := by
  unfold execFfence
  try dsimp only
  repeat' first
    | with_reducible assumption
    | intro _
    | with_reducible apply descRow_keeps
    | with_reducible apply startDesc_keeps
    | with_reducible apply finishDesc_keeps
    | with_reducible apply keeps_ite

theorem execFabricFenceLoad_keeps {z0 : State} {h : Nat} {s : State} (h_s : Keeps z0 s) :
    KeepsOut z0 (execFabricFenceLoad h s) := by
  unfold execFabricFenceLoad
  try dsimp only
  repeat' first
    | with_reducible assumption
    | intro _
    | with_reducible apply whenLive_keeps
    | with_reducible apply keeps_ite
    | with_reducible apply keepsOut_ite
    | with_reducible apply keepsOut_next
    | simp only [keeps_mk_iff]

theorem apertureAccess_keeps {z0 : State} {s : State} {h : Nat} {a : ApAcc} {addr : Nat} {size : Nat} (h_s : Keeps z0 s) :
    Keeps z0 (apertureAccess s h a addr size) := by
  unfold apertureAccess
  try dsimp only
  repeat' first
    | with_reducible assumption
    | intro _
    | with_reducible apply enqueue_keeps
    | with_reducible apply setHart_keeps
    | with_reducible apply keeps_ite
    | with_reducible apply keepsOpt_some
    | with_reducible exact keepsOpt_none
    | with_reducible apply keepsOpt_map
    | simp only [keeps_mk_iff]
    | split

theorem execHostFabricApertureAccess_keeps {z0 : State} {h : Nat} {a : ApAcc} {addr : Nat} {size : Nat} {s : State} (h_s : Keeps z0 s) :
    KeepsOut z0 (execHostFabricApertureAccess h a addr size s) := by
  unfold execHostFabricApertureAccess
  try dsimp only
  repeat' first
    | with_reducible assumption
    | intro _
    | with_reducible apply whenLive_keeps
    | with_reducible apply apertureAccess_keeps
    | with_reducible apply keeps_ite

end Sys2Proof.Laws
end

