-- ==== Sys2Proof/Laws/KeepsBlocks.lean ====
section
/-! SUPPORT. One lemma per operation of the blocks commands, the sump, the well, rest states, debug, devices, register accesses: it keeps the fuses, the waiting commands and the canonical
form of every table (Laws/Keeps.lean). -/

set_option linter.unusedSimpArgs false
set_option linter.tactic.unusedName false
set_option linter.unusedVariables false

namespace Sys2Proof.Laws

open Sys2Proof.Machine

/-! ### Blocks -/

theorem blockStopped_keeps {z0 : State} {s : State} {page : Nat} (h_s : Keeps z0 s) :
    Keeps z0 (blockStopped s page) := by
  unfold blockStopped
  try dsimp only
  repeat' first
    | with_reducible assumption
    | intro _
    | with_reducible apply setDst_keeps
    | with_reducible apply dealQueued_keeps
    | with_reducible apply keepsOpt_some
    | with_reducible exact keepsOpt_none
    | with_reducible apply keepsOpt_map
    | simp only [keeps_mk_iff]
    | split

theorem drainDone_keeps {z0 : State} {s : State} {page : Nat} (h_s : Keeps z0 s) :
    Keeps z0 (drainDone s page) := by
  unfold drainDone
  try dsimp only
  repeat' first
    | with_reducible assumption
    | intro _
    | with_reducible apply blockStopped_keeps
    | with_reducible apply keeps_ite

theorem cmeAborted_keeps {z0 : State} {d : Nat} {s : State} {r : CmeReq} (h_s : Keeps z0 s) :
    Keeps z0 (cmeAborted d s r) := by
  unfold cmeAborted
  try dsimp only
  repeat' first
    | with_reducible assumption
    | intro _
    | with_reducible apply postRec_keeps
    | with_reducible apply descRequestDone_keeps
    | with_reducible apply updDesc_keeps
    | with_reducible apply keepsOpt_some
    | with_reducible exact keepsOpt_none
    | with_reducible apply keepsOpt_map
    | simp only [keeps_mk_iff]
    | split

theorem dropCmeReqs_keeps {z0 : State} {s : State} {q : Nat} {idx : Nat} (h_s : Keeps z0 s) :
    Keeps z0 (dropCmeReqs s q idx) := by
  unfold dropCmeReqs
  try dsimp only
  repeat' first
    | with_reducible assumption
    | intro _
    | with_reducible apply cmeFeed_keeps
    | with_reducible apply setCme_keeps
    | with_reducible apply keepsOpt_some
    | with_reducible exact keepsOpt_none
    | with_reducible apply keepsOpt_map
    | with_reducible apply keeps_foldl

theorem dropMove_keeps {z0 : State} {s : State} {q : Nat} {idx : Nat} (h_s : Keeps z0 s) :
    Keeps z0 (dropMove s q idx) := by
  unfold dropMove
  try dsimp only
  repeat' first
    | with_reducible assumption
    | intro _
    | simp only [keeps_mk_iff]

theorem abortDesc_keeps {z0 : State} {q : Nat} {s : State} {d : Desc} (h_s : Keeps z0 s) :
    Keeps z0 (abortDesc q s d) := by
  unfold abortDesc
  try dsimp only
  repeat' first
    | with_reducible assumption
    | intro _
    | with_reducible apply withdraw_keeps
    | with_reducible apply dropCmeReqs_keeps
    | with_reducible apply recordDesc_keeps
    | with_reducible apply endRegen_keeps
    | with_reducible apply endPair_keeps
    | with_reducible apply dropMove_keeps
    | with_reducible apply closeFlow_keeps
    | with_reducible apply setFlow_keeps
    | with_reducible apply keeps_ite
    | with_reducible apply keepsOpt_some
    | with_reducible exact keepsOpt_none
    | with_reducible apply keepsOpt_map
    | simp only [keeps_mk_iff]
    | split

theorem abortQueue_keeps {z0 : State} {s : State} {q : Nat} (h_s : Keeps z0 s) :
    Keeps z0 (abortQueue s q) := by
  unfold abortQueue
  try dsimp only
  repeat' first
    | with_reducible assumption
    | intro _
    | with_reducible apply abortDesc_keeps
    | with_reducible apply setDst_keeps
    | with_reducible apply keeps_ite
    | with_reducible apply keeps_foldl

theorem stopIfIdle_keeps {z0 : State} {s : State} {page : Nat} (h_s : Keeps z0 s) :
    Keeps z0 (stopIfIdle s page) := by
  unfold stopIfIdle
  try dsimp only
  repeat' first
    | with_reducible assumption
    | intro _
    | with_reducible apply blockStopped_keeps
    | with_reducible apply keeps_ite

theorem abortBlock_keeps {z0 : State} {s : State} {page : Nat} (h_s : Keeps z0 s) :
    Keeps z0 (abortBlock s page) := by
  unfold abortBlock
  try dsimp only
  repeat' first
    | with_reducible assumption
    | intro _
    | with_reducible apply stopIfIdle_keeps
    | with_reducible apply abortItems_keeps
    | with_reducible apply blockStopped_keeps
    | with_reducible apply cmeAborted_keeps
    | with_reducible apply setCme_keeps
    | with_reducible apply abortQueue_keeps
    | with_reducible apply recordDesc_keeps
    | with_reducible apply dropMove_keeps
    | with_reducible apply clearStationSeat_keeps
    | with_reducible apply keepsOpt_some
    | with_reducible exact keepsOpt_none
    | with_reducible apply keepsOpt_map
    | with_reducible apply keeps_foldl
    | simp only [keeps_mk_iff]
    | split

theorem blockResumed_keeps {z0 : State} {s : State} {page : Nat} (h_s : Keeps z0 s) :
    Keeps z0 (blockResumed s page) := by
  unfold blockResumed
  try dsimp only
  repeat' first
    | with_reducible assumption
    | intro _
    | with_reducible apply setDst_keeps
    | with_reducible apply setQueue_keeps
    | with_reducible apply cmeFeed_keeps
    | with_reducible apply keepsOpt_some
    | with_reducible exact keepsOpt_none
    | with_reducible apply keepsOpt_map
    | simp only [keeps_mk_iff]
    | split

theorem drainWrite_keeps {z0 : State} {s : State} {page : Nat} {cmd : Nat} (h_s : Keeps z0 s) :
    Keeps z0 (drainWrite s page cmd) := by
  unfold drainWrite
  try dsimp only
  repeat' first
    | with_reducible assumption
    | intro _
    | with_reducible apply drainDone_keeps
    | with_reducible apply setDst_keeps
    | with_reducible apply reject_keeps
    | with_reducible apply blockResumed_keeps
    | with_reducible apply keeps_ite
    | with_reducible apply keepsOpt_some
    | with_reducible exact keepsOpt_none
    | with_reducible apply keepsOpt_map
    | simp only [keeps_mk_iff]
    | split

theorem execBlockDrain_keeps {z0 : State} {page : Nat} {s : State} (h_s : Keeps z0 s) :
    KeepsOut z0 (execBlockDrain page s) := by
  unfold execBlockDrain
  try dsimp only
  repeat' first
    | with_reducible assumption
    | intro _
    | with_reducible apply whenLive_keeps
    | with_reducible apply drainWrite_keeps

theorem execBlockAbort_keeps {z0 : State} {page : Nat} {s : State} (h_s : Keeps z0 s) :
    KeepsOut z0 (execBlockAbort page s) := by
  unfold execBlockAbort
  try dsimp only
  repeat' first
    | with_reducible assumption
    | intro _
    | with_reducible apply whenLive_keeps
    | with_reducible apply drainWrite_keeps

theorem execBlockResume_keeps {z0 : State} {page : Nat} {s : State} (h_s : Keeps z0 s) :
    KeepsOut z0 (execBlockResume page s) := by
  unfold execBlockResume
  try dsimp only
  repeat' first
    | with_reducible assumption
    | intro _
    | with_reducible apply whenLive_keeps
    | with_reducible apply drainWrite_keeps

theorem execBlockDrainDone_keeps {z0 : State} {page : Nat} {s : State} (h_s : Keeps z0 s) :
    KeepsOut z0 (execBlockDrainDone page s) := by
  unfold execBlockDrainDone
  try dsimp only
  repeat' first
    | with_reducible assumption
    | intro _
    | with_reducible apply whenLive_keeps
    | with_reducible apply drainDone_keeps
    | with_reducible apply keeps_ite

theorem execBlockAbortDone_keeps {z0 : State} {page : Nat} {s : State} (h_s : Keeps z0 s) :
    KeepsOut z0 (execBlockAbortDone page s) := by
  unfold execBlockAbortDone
  try dsimp only
  repeat' first
    | with_reducible assumption
    | intro _
    | with_reducible apply whenLive_keeps
    | with_reducible apply abortBlock_keeps
    | with_reducible apply keeps_ite

/-! ### SumpOps -/

theorem invAccept_keeps {z0 : State} {s : State} {r : InvReq} (h_s : Keeps z0 s) :
    Keeps z0 (invAccept s r) := by
  unfold invAccept
  try dsimp only
  repeat' first
    | with_reducible assumption
    | intro _
    | simp only [keeps_mk_iff]

theorem invctlWrite_keeps {z0 : State} {s : State} {v : W64} (h_s : Keeps z0 s) :
    Keeps z0 (invctlWrite s v) := by
  unfold invctlWrite
  try dsimp only
  repeat' first
    | with_reducible assumption
    | intro _
    | with_reducible apply reject_keeps
    | with_reducible apply invAccept_keeps
    | with_reducible apply keeps_ite

theorem execMmuInvPage_keeps {z0 : State} {aspace : Nat} {s : State} (h_s : Keeps z0 s) :
    KeepsOut z0 (execMmuInvPage aspace s) := by
  unfold execMmuInvPage
  try dsimp only
  repeat' first
    | with_reducible assumption
    | intro _
    | with_reducible apply whenLive_keeps
    | with_reducible apply invctlWrite_keeps

theorem execMmuInvSpace_keeps {z0 : State} {aspace : Nat} {s : State} (h_s : Keeps z0 s) :
    KeepsOut z0 (execMmuInvSpace aspace s) := by
  unfold execMmuInvSpace
  try dsimp only
  repeat' first
    | with_reducible assumption
    | intro _
    | with_reducible apply whenLive_keeps
    | with_reducible apply invctlWrite_keeps

theorem execMmuInvAll_keeps {z0 : State} {aspace : Nat} {s : State} (h_s : Keeps z0 s) :
    KeepsOut z0 (execMmuInvAll aspace s) := by
  unfold execMmuInvAll
  try dsimp only
  repeat' first
    | with_reducible assumption
    | intro _
    | with_reducible apply whenLive_keeps
    | with_reducible apply invctlWrite_keeps

theorem invalCmd_keeps {z0 : State} {q : Nat} {idx : Nat} {d : Desc} {s : State} (h_s : Keeps z0 s) :
    Keeps z0 (invalCmd q idx d s) := by
  unfold invalCmd
  try dsimp only
  repeat' first
    | with_reducible assumption
    | intro _
    | with_reducible apply invAccept_keeps
    | with_reducible apply startDesc_keeps
    | with_reducible apply keeps_ite

theorem invalRow_keeps {z0 : State} {q : Nat} {idx : Nat} {scope : Nat} {s : State} (h_s : Keeps z0 s) :
    KeepsOut z0 (invalRow q idx scope s) := by
  unfold invalRow
  try dsimp only
  repeat' first
    | with_reducible assumption
    | intro _
    | with_reducible apply descRow_keeps
    | with_reducible apply invalCmd_keeps
    | with_reducible apply keeps_ite
    | with_reducible apply keepsOut_ite
    | with_reducible apply keepsOut_next
    | with_reducible apply keepsOpt_some
    | with_reducible exact keepsOpt_none
    | with_reducible apply keepsOpt_map
    | simp only [keeps_mk_iff]
    | split

theorem execInvalPage_keeps {z0 : State} {q : Nat} {idx : Nat} {s : State} (h_s : Keeps z0 s) :
    KeepsOut z0 (execInvalPage q idx s) := by
  unfold execInvalPage
  try dsimp only
  repeat' first
    | with_reducible assumption
    | intro _
    | with_reducible apply invalRow_keeps

theorem execInvalSpace_keeps {z0 : State} {q : Nat} {idx : Nat} {s : State} (h_s : Keeps z0 s) :
    KeepsOut z0 (execInvalSpace q idx s) := by
  unfold execInvalSpace
  try dsimp only
  repeat' first
    | with_reducible assumption
    | intro _
    | with_reducible apply invalRow_keeps

theorem execInvalAll_keeps {z0 : State} {q : Nat} {idx : Nat} {s : State} (h_s : Keeps z0 s) :
    KeepsOut z0 (execInvalAll q idx s) := by
  unfold execInvalAll
  try dsimp only
  repeat' first
    | with_reducible assumption
    | intro _
    | with_reducible apply invalRow_keeps

theorem dropScope_keeps {z0 : State} {s : State} {r : InvReq} (h_s : Keeps z0 s) :
    Keeps z0 (dropScope s r) := by
  unfold dropScope
  try dsimp only
  repeat' first
    | with_reducible assumption
    | intro _
    | with_reducible apply dropUnitTlbs_keeps
    | with_reducible apply dropTranslations_keeps

theorem execInvalidationDone_keeps {z0 : State} {s : State} (h_s : Keeps z0 s) :
    KeepsOut z0 (execInvalidationDone s) := by
  unfold execInvalidationDone
  try dsimp only
  repeat' first
    | with_reducible assumption
    | intro _
    | with_reducible apply whenLive_keeps
    | with_reducible apply countEv_keeps
    | with_reducible apply dropScope_keeps
    | with_reducible apply finishDesc_keeps
    | with_reducible apply keeps_ite
    | with_reducible apply keepsOut_ite
    | with_reducible apply keepsOut_next
    | simp only [keeps_mk_iff]
    | split

theorem execSumpRecordWrite_keeps {z0 : State} {slot : Nat} {s : State} (h_s : Keeps z0 s) :
    KeepsOut z0 (execSumpRecordWrite slot s) := by
  unfold execSumpRecordWrite
  try dsimp only
  repeat' first
    | with_reducible assumption
    | intro _
    | with_reducible apply whenLive_keeps
    | with_reducible apply sumpDrain_keeps
    | with_reducible apply keeps_ite
    | with_reducible apply keepsOut_ite
    | with_reducible apply keepsOut_next
    | simp only [keeps_mk_iff]

theorem sumpConsWrite_keeps {z0 : State} {s : State} {v : W64} (h_s : Keeps z0 s) :
    Keeps z0 (sumpConsWrite s v) := by
  unfold sumpConsWrite
  try dsimp only
  repeat' first
    | with_reducible assumption
    | intro _
    | with_reducible apply reject_keeps
    | with_reducible apply sumpDrain_keeps
    | with_reducible apply keeps_ite
    | simp only [keeps_mk_iff]

theorem execSumpConsWrite_keeps {z0 : State} {v : W64} {s : State} (h_s : Keeps z0 s) :
    KeepsOut z0 (execSumpConsWrite v s) := by
  unfold execSumpConsWrite
  try dsimp only
  repeat' first
    | with_reducible assumption
    | intro _
    | with_reducible apply whenLive_keeps
    | with_reducible apply sumpConsWrite_keeps

theorem waiterFails_keeps {z0 : State} {s : State} {w : Waiter} (h_s : Keeps z0 s) :
    Keeps z0 (waiterFails s w) := by
  unfold waiterFails
  try dsimp only
  repeat' first
    | with_reducible assumption
    | intro _
    | with_reducible apply finishDesc_keeps
    | with_reducible apply dropMove_keeps
    | with_reducible apply setItem_keeps
    | with_reducible apply endRegen_keeps
    | with_reducible apply setFlow_keeps
    | with_reducible apply keeps_ite
    | with_reducible apply keepsOpt_some
    | with_reducible exact keepsOpt_none
    | with_reducible apply keepsOpt_map
    | simp only [keeps_mk_iff]
    | split

theorem resumeWrite_keeps {z0 : State} {s : State} {v : W64} (h_s : Keeps z0 s) :
    Keeps z0 (resumeWrite s v) := by
  unfold resumeWrite
  try dsimp only
  repeat' first
    | with_reducible assumption
    | intro _
    | with_reducible apply reject_keeps
    | with_reducible apply closeSlot_keeps
    | with_reducible apply dropScope_keeps
    | with_reducible apply waiterFails_keeps
    | with_reducible apply keeps_ite
    | with_reducible apply keepsOpt_some
    | with_reducible exact keepsOpt_none
    | with_reducible apply keepsOpt_map
    | with_reducible apply keeps_foldl
    | simp only [keeps_mk_iff]
    | split

theorem execSumpResumeRetry_keeps {z0 : State} {slot : Nat} {seq : Nat} {s : State} (h_s : Keeps z0 s) :
    KeepsOut z0 (execSumpResumeRetry slot seq s) := by
  unfold execSumpResumeRetry
  try dsimp only
  repeat' first
    | with_reducible assumption
    | intro _
    | with_reducible apply whenLive_keeps
    | with_reducible apply resumeWrite_keeps

theorem execSumpResumeFail_keeps {z0 : State} {slot : Nat} {seq : Nat} {s : State} (h_s : Keeps z0 s) :
    KeepsOut z0 (execSumpResumeFail slot seq s) := by
  unfold execSumpResumeFail
  try dsimp only
  repeat' first
    | with_reducible assumption
    | intro _
    | with_reducible apply whenLive_keeps
    | with_reducible apply resumeWrite_keeps

/-! ### Well -/

theorem raiseWell_keeps {z0 : State} {s : State} {n : Nat} {inj : Bool} (h_s : Keeps z0 s) :
    Keeps z0 (raiseWell s n inj) := by
  unfold raiseWell
  try dsimp only
  repeat' first
    | with_reducible assumption
    | intro _
    | with_reducible apply raiseWith_keeps

theorem wellReadOnly_keeps {z0 : State} {s : State} (h_s : Keeps z0 s) :
    Keeps z0 (wellReadOnly s) := by
  unfold wellReadOnly
  try dsimp only
  repeat' first
    | with_reducible assumption
    | intro _
    | with_reducible apply raiseWell_keeps
    | with_reducible apply keeps_ite
    | simp only [keeps_mk_iff]

theorem wellRow_keeps {z0 : State} {q : Nat} {idx : Nat} {opc : Nat} {body : Desc → State → State} {s : State} (h_s : Keeps z0 s) (k_body : ∀ (y1 : Desc) (y2 : State), Keeps z0 y2 → Keeps z0 (body y1 y2)) :
    KeepsOut z0 (wellRow q idx opc body s) := by
  unfold wellRow
  try dsimp only
  repeat' first
    | with_reducible assumption
    | intro _
    | with_reducible apply descRow_keeps
    | with_reducible apply finishDesc_keeps
    | with_reducible apply k_body
    | with_reducible apply keeps_ite

theorem startMove_keeps {z0 : State} {s : State} {m : WellMove} (h_s : Keeps z0 s) :
    Keeps z0 (startMove s m) := by
  unfold startMove
  try dsimp only
  repeat' first
    | with_reducible assumption
    | intro _
    | with_reducible apply startDesc_keeps
    | simp only [keeps_mk_iff]

theorem execWput_keeps {z0 : State} {q : Nat} {idx : Nat} {s : State} (h_s : Keeps z0 s) :
    KeepsOut z0 (execWput q idx s) := by
  unfold execWput
  try dsimp only
  repeat' first
    | with_reducible assumption
    | intro _
    | with_reducible apply wellRow_keeps
    | with_reducible apply finishDesc_keeps
    | with_reducible apply startMove_keeps
    | with_reducible apply keeps_ite

theorem execWget_keeps {z0 : State} {q : Nat} {idx : Nat} {s : State} (h_s : Keeps z0 s) :
    KeepsOut z0 (execWget q idx s) := by
  unfold execWget
  try dsimp only
  repeat' first
    | with_reducible assumption
    | intro _
    | with_reducible apply wellRow_keeps
    | with_reducible apply finishDesc_keeps
    | with_reducible apply startMove_keeps
    | with_reducible apply keeps_ite
    | with_reducible apply keepsOut_ite
    | with_reducible apply keepsOut_next
    | with_reducible apply keepsOpt_some
    | with_reducible exact keepsOpt_none
    | with_reducible apply keepsOpt_map
    | simp only [keeps_mk_iff]
    | split

theorem execWdel_keeps {z0 : State} {q : Nat} {idx : Nat} {s : State} (h_s : Keeps z0 s) :
    KeepsOut z0 (execWdel q idx s) := by
  unfold execWdel
  try dsimp only
  repeat' first
    | with_reducible assumption
    | intro _
    | with_reducible apply wellRow_keeps
    | with_reducible apply finishDesc_keeps
    | with_reducible apply startDesc_keeps
    | with_reducible apply keeps_ite

theorem execWinfo_keeps {z0 : State} {q : Nat} {idx : Nat} {s : State} (h_s : Keeps z0 s) :
    KeepsOut z0 (execWinfo q idx s) := by
  unfold execWinfo
  try dsimp only
  repeat' first
    | with_reducible assumption
    | intro _
    | with_reducible apply wellRow_keeps
    | with_reducible apply rqWrite_keeps
    | with_reducible apply finishDesc_keeps
    | with_reducible apply keeps_ite
    | with_reducible apply keepsOut_ite
    | with_reducible apply keepsOut_next
    | with_reducible apply keepsOpt_some
    | with_reducible exact keepsOpt_none
    | with_reducible apply keepsOpt_map
    | simp only [keeps_mk_iff]
    | with_reducible apply KeepsSnd.of
    | with_reducible refine keepsSnd_eq (by with_reducible assumption) ?_
    | split

theorem useVersion_keeps {z0 : State} {s : State} {bytes : Nat} (h_s : Keeps z0 s) :
    Keeps z0 (useVersion s bytes) := by
  unfold useVersion
  try dsimp only
  repeat' first
    | with_reducible assumption
    | intro _
    | with_reducible apply countEv_keeps
    | with_reducible apply wellReadOnly_keeps
    | with_reducible apply keeps_ite
    | simp only [keeps_mk_iff]

theorem execWellCommit_keeps {z0 : State} {q : Nat} {idx : Nat} {s : State} (h_s : Keeps z0 s) :
    KeepsOut z0 (execWellCommit q idx s) := by
  unfold execWellCommit
  try dsimp only
  repeat' first
    | with_reducible assumption
    | intro _
    | with_reducible apply whenLive_keeps
    | with_reducible apply finishDesc_keeps
    | with_reducible apply dropMove_keeps
    | with_reducible apply useVersion_keeps
    | with_reducible apply keeps_ite
    | with_reducible apply keepsOut_ite
    | with_reducible apply keepsOut_next
    | with_reducible apply keepsOpt_some
    | with_reducible exact keepsOpt_none
    | with_reducible apply keepsOpt_map
    | simp only [keeps_mk_iff]
    | split

theorem execWellUnitsFreed_keeps {z0 : State} {name : Nat} {ver : Nat} {s : State} (h_s : Keeps z0 s) :
    KeepsOut z0 (execWellUnitsFreed name ver s) := by
  unfold execWellUnitsFreed
  try dsimp only
  repeat' first
    | with_reducible assumption
    | intro _
    | with_reducible apply whenLive_keeps
    | with_reducible apply keeps_ite
    | with_reducible apply keepsOut_ite
    | with_reducible apply keepsOut_next
    | simp only [keeps_mk_iff]

theorem wdlMoved_keeps {z0 : State} {s : State} {x : Nat} {k : Nat} {n : Nat} (h_s : Keeps z0 s) :
    Keeps z0 (wdlMoved s x k n) := by
  unfold wdlMoved
  try dsimp only
  repeat' first
    | with_reducible assumption
    | intro _
    | with_reducible apply countEv_keeps
    | with_reducible apply setReg_keeps

theorem wellUe_keeps {z0 : State} {s : State} {x : Nat} {ue : Bool} (h_s : Keeps z0 s) :
    KeepsSnd z0 (wellUe s x ue) := by
  unfold wellUe
  try dsimp only
  repeat' first
    | with_reducible assumption
    | intro _
    | with_reducible apply raiseWith_keeps
    | with_reducible apply disarm_keeps
    | with_reducible apply keeps_ite
    | with_reducible apply keepsSnd_ite
    | with_reducible apply keepsOpt_some
    | with_reducible exact keepsOpt_none
    | with_reducible apply keepsOpt_map
    | with_reducible apply keepsSnd_mk

theorem moveWindow_keeps {z0 : State} {s : State} {x : Nat} {k : Nat} {n : Nat} {ord : Nat} {ue : Bool} (h_s : Keeps z0 s) :
    Keeps z0 (moveWindow s x k n ord ue) := by
  unfold moveWindow
  try dsimp only
  repeat' first
    | with_reducible assumption
    | intro _
    | with_reducible apply wellUe_keeps
    | with_reducible apply setItem_keeps
    | with_reducible apply rqWrites_keeps
    | with_reducible apply wdlMoved_keeps
    | with_reducible apply countEv_keeps
    | with_reducible apply keeps_ite
    | with_reducible apply keepsOpt_some
    | with_reducible exact keepsOpt_none
    | with_reducible apply keepsOpt_map
    | simp only [keeps_mk_iff]
    | with_reducible apply KeepsSnd.of
    | with_reducible refine keepsSnd_eq (by with_reducible assumption) ?_
    | split

theorem setMove_keeps {z0 : State} {s : State} {m : WellMove} (h_s : Keeps z0 s) :
    Keeps z0 (setMove s m) := by
  unfold setMove
  try dsimp only
  repeat' first
    | with_reducible assumption
    | intro _
    | with_reducible apply keeps_ite
    | with_reducible apply keepsOpt_some
    | with_reducible exact keepsOpt_none
    | with_reducible apply keepsOpt_map
    | simp only [keeps_mk_iff]

theorem moveChunk_keeps {z0 : State} {s : State} {x : Nat} {k : Nat} {q : Nat} {idx : Nat} {c : Nat} {ue : Bool} (h_s : Keeps z0 s) :
    Keeps z0 (moveChunk s x k q idx c ue) := by
  unfold moveChunk
  split
  · extract_lets r len va busy
    split
    · exact h_s
    · rename_i ahead counted _
      have hc : ∀ t n, Keeps z0 t → Keeps z0 (counted t n) := fun t n h =>
        countEv_keeps (countEv_keeps (wdlMoved_keeps (rqPrefetch_keeps h)))
      split
      · split
        · rename_i he
          exact keepsSnd_eq he (rqRead_keeps h_s)
        · rename_i he
          have h1 := keepsSnd_eq he (rqRead_keeps h_s)
          split
          · exact finishDesc_keeps (dropMove_keeps h1)
          · exact hc _ _ (setMove_keeps h1)
      · split
        · exact h_s
        · split
          rename_i he
          have h1 := keepsSnd_eq he (wellUe_keeps h_s)
          split
          · exact finishDesc_keeps (dropMove_keeps h1)
          · split
            rename_i he
            have h2 := keepsSnd_eq he (rqWrites_keeps h1)
            split
            · exact h2
            · have h3 := fun m n => hc _ n (setMove_keeps (m := m) h2)
              split
              · exact h3 _ _
              · exact finishDesc_keeps (dropMove_keeps (h3 _ _))
  · exact h_s

theorem redispatch_keeps {z0 : State} {s : State} {n : Nat} {it : Item} (h_s : Keeps z0 s) :
    Keeps z0 (redispatch s n it) := by
  unfold redispatch
  try dsimp only
  repeat' first
    | with_reducible assumption
    | intro _
    | with_reducible apply dropFetched_keeps
    | with_reducible apply withdraw_keeps
    | with_reducible apply setItem_keeps
    | with_reducible apply keepsOpt_some
    | with_reducible exact keepsOpt_none
    | with_reducible apply keepsOpt_map
    | simp only [keeps_mk_iff]
    | split

theorem wdlFail_keeps {z0 : State} {s : State} {x : Nat} {k : Nat} {inj : Bool} (h_s : Keeps z0 s) :
    Keeps z0 (wdlFail s x k inj) := by
  unfold wdlFail
  try dsimp only
  repeat' first
    | with_reducible assumption
    | intro _
    | with_reducible apply raiseWith_keeps
    | with_reducible apply withdraw_keeps
    | with_reducible apply redispatch_keeps
    | with_reducible apply finishDesc_keeps
    | with_reducible apply dropMove_keeps
    | with_reducible apply keeps_ite
    | with_reducible apply keepsOpt_some
    | with_reducible exact keepsOpt_none
    | with_reducible apply keepsOpt_map
    | with_reducible apply keeps_foldl
    | simp only [keeps_mk_iff]

theorem execWdlChunkDone_keeps {z0 : State} {x : Nat} {k : Nat} {work : WdlWork} {ue : Bool} {s : State} (h_s : Keeps z0 s) :
    KeepsOut z0 (execWdlChunkDone x k work ue s) := by
  unfold execWdlChunkDone
  try dsimp only
  repeat' first
    | with_reducible assumption
    | intro _
    | with_reducible apply whenLive_keeps
    | with_reducible apply wdlFail_keeps
    | with_reducible apply disarm_keeps
    | with_reducible apply moveWindow_keeps
    | with_reducible apply moveChunk_keeps
    | with_reducible apply keeps_ite
    | with_reducible apply keepsOut_ite
    | with_reducible apply keepsOut_next
    | simp only [keeps_mk_iff]
    | split

theorem execEngineFault_keeps {z0 : State} {e : EngineRef} {s : State} (h_s : Keeps z0 s) :
    KeepsOut z0 (execEngineFault e s) := by
  unfold execEngineFault
  try dsimp only
  repeat' first
    | with_reducible assumption
    | intro _
    | with_reducible apply whenLive_keeps
    | with_reducible apply harFail_keeps
    | with_reducible apply wdlFail_keeps
    | with_reducible apply keeps_ite
    | with_reducible apply keepsOut_ite
    | with_reducible apply keepsOut_next
    | simp only [keeps_mk_iff]
    | split

theorem holdupLow_keeps {z0 : State} {s : State} (h_s : Keeps z0 s) :
    Keeps z0 (holdupLow s) := by
  unfold holdupLow
  try dsimp only
  repeat' first
    | with_reducible assumption
    | intro _
    | with_reducible apply finishDesc_keeps
    | with_reducible apply dropMove_keeps
    | with_reducible apply keeps_foldl

theorem execHoldupMeasure_keeps {z0 : State} {energy : Nat} {s : State} (h_s : Keeps z0 s) :
    KeepsOut z0 (execHoldupMeasure energy s) := by
  unfold execHoldupMeasure
  try dsimp only
  repeat' first
    | with_reducible assumption
    | intro _
    | with_reducible apply whenLive_keeps
    | with_reducible apply takeFree_keeps
    | with_reducible apply disarm_keeps
    | with_reducible apply holdupLow_keeps
    | with_reducible apply raiseWell_keeps
    | with_reducible apply keeps_ite
    | with_reducible apply keepsOut_ite
    | with_reducible apply keepsOut_next
    | simp only [keeps_mk_iff]
    | with_reducible apply KeepsSnd.of

theorem execWellRecoveryDone_keeps {z0 : State} {s : State} (h_s : Keeps z0 s) :
    KeepsOut z0 (execWellRecoveryDone s) := by
  unfold execWellRecoveryDone
  try dsimp only
  repeat' first
    | with_reducible assumption
    | intro _
    | with_reducible apply whenLive_keeps
    | with_reducible apply keeps_ite
    | with_reducible apply keepsOut_ite
    | with_reducible apply keepsOut_next
    | simp only [keeps_mk_iff]

theorem execNandPackageLoss_keeps {z0 : State} {x : Nat} {ch : Nat} {s : State} (h_s : Keeps z0 s) :
    KeepsOut z0 (execNandPackageLoss x ch s) := by
  unfold execNandPackageLoss
  try dsimp only
  repeat' first
    | with_reducible assumption
    | intro _
    | with_reducible apply whenLive_keeps
    | with_reducible apply raise_keeps
    | with_reducible apply keeps_ite
    | with_reducible apply keepsOut_ite
    | with_reducible apply keepsOut_next
    | simp only [keeps_mk_iff]

theorem execWellRebuildDone_keeps {z0 : State} {s : State} (h_s : Keeps z0 s) :
    KeepsOut z0 (execWellRebuildDone s) := by
  unfold execWellRebuildDone
  try dsimp only
  repeat' first
    | with_reducible assumption
    | intro _
    | with_reducible apply whenLive_keeps
    | with_reducible apply keeps_ite
    | with_reducible apply keepsOut_ite
    | with_reducible apply keepsOut_next
    | simp only [keeps_mk_iff]

theorem execNandOvertemp_keeps {z0 : State} {x : Nat} {temp : Nat} {s : State} (h_s : Keeps z0 s) :
    KeepsOut z0 (execNandOvertemp x temp s) := by
  unfold execNandOvertemp
  try dsimp only
  repeat' first
    | with_reducible assumption
    | intro _
    | with_reducible apply whenLive_keeps
    | with_reducible apply keeps_ite
    | with_reducible apply keepsOut_ite
    | with_reducible apply keepsOut_next
    | simp only [keeps_mk_iff]

/-! ### Rest -/

theorem drainWc_keeps {z0 : State} {d : Nat} {ch : Nat} {s : State} (h_s : Keeps z0 s) :
    Keeps z0 (drainWc d ch s) := by
  unfold drainWc
  try dsimp only
  repeat' first
    | with_reducible assumption
    | intro _
    | with_reducible apply wcWriteOut_keeps
    | with_reducible apply keeps_foldl

theorem enterRs2_keeps {z0 : State} {s : State} (h_s : Keeps z0 s) :
    Keeps z0 (enterRs2 s) := by
  unfold enterRs2
  try dsimp only
  repeat' first
    | with_reducible assumption
    | intro _
    | with_reducible apply setCu_keeps
    | with_reducible apply drainWc_keeps
    | with_reducible apply keeps_ite
    | with_reducible apply keeps_foldl

theorem enterRs3_keeps {z0 : State} {s : State} (h_s : Keeps z0 s) :
    Keeps z0 (enterRs3 s) := by
  unfold enterRs3
  dsimp only
  have h1 : Keeps z0 ((s.units.map Prod.fst).foldl (fun t u => ccRelease t u) s) :=
    keeps_foldl (fun t a h => ccRelease_keeps h) h_s
  have h2 : ∀ (l : List Nat) t, Keeps z0 t →
      Keeps z0 (l.foldl (fun t u => t.setCu u { t.cu u with tlb := [], slab := none }) t) :=
    fun l t h => keeps_foldl (fun t a h => setCu_keeps h) h
  apply keeps_all (h2 _ _ h1) <;> first | exact id | exact fun _ => rfl

theorem enterRs4_keeps {z0 : State} {s : State} (h_s : Keeps z0 s) :
    Keeps z0 (enterRs4 s) := by
  unfold enterRs4
  try dsimp only
  repeat' first
    | with_reducible assumption
    | intro _
    | with_reducible apply scEvict_keeps
    | with_reducible apply keepsOpt_some
    | with_reducible exact keepsOpt_none
    | with_reducible apply keepsOpt_map
    | with_reducible apply keeps_foldl

theorem enterRest_keeps {z0 : State} {s : State} {rs : Nat} (h_s : Keeps z0 s) :
    Keeps z0 (enterRest s rs) := by
  unfold enterRest
  try dsimp only
  repeat' first
    | with_reducible assumption
    | intro _
    | with_reducible apply enterRs3_keeps
    | with_reducible apply enterRs4_keeps
    | with_reducible apply enterRs2_keeps
    | with_reducible apply mapRails_keeps
    | with_reducible apply countEv_keeps
    | with_reducible apply setRegF_keeps
    | with_reducible apply keeps_ite
    | with_reducible apply keepsOpt_some
    | with_reducible exact keepsOpt_none
    | with_reducible apply keepsOpt_map
    | with_reducible apply keeps_foldl
    | simp only [keeps_mk_iff]

theorem execRestEntry_keeps {z0 : State} {s : State} (h_s : Keeps z0 s) :
    KeepsOut z0 (execRestEntry s) := by
  unfold execRestEntry
  try dsimp only
  repeat' first
    | with_reducible assumption
    | intro _
    | with_reducible apply whenLive_keeps
    | with_reducible apply enterRest_keeps
    | with_reducible apply keeps_ite

theorem wakeRest_keeps {z0 : State} {s : State} (h_s : Keeps z0 s) :
    Keeps z0 (wakeRest s) := by
  unfold wakeRest
  try dsimp only
  repeat' first
    | with_reducible assumption
    | intro _
    | with_reducible apply setRail_keeps
    | with_reducible apply setCu_keeps
    | with_reducible apply setRegF_keeps
    | with_reducible apply keeps_ite
    | with_reducible apply keepsOpt_some
    | with_reducible exact keepsOpt_none
    | with_reducible apply keepsOpt_map
    | with_reducible apply keeps_foldl
    | simp only [keeps_mk_iff]

theorem execRestWake_keeps {z0 : State} {s : State} (h_s : Keeps z0 s) :
    KeepsOut z0 (execRestWake s) := by
  unfold execRestWake
  try dsimp only
  repeat' first
    | with_reducible assumption
    | intro _
    | with_reducible apply whenLive_keeps
    | with_reducible apply wakeRest_keeps
    | with_reducible apply keeps_ite

theorem lattolWrite_keeps {z0 : State} {s : State} {v : W64} (h_s : Keeps z0 s) :
    Keeps z0 (lattolWrite s v) := by
  unfold lattolWrite
  try dsimp only
  repeat' first
    | with_reducible assumption
    | intro _
    | with_reducible apply setReg_keeps
    | with_reducible apply wakeRest_keeps
    | with_reducible apply keeps_ite

theorem execPwrLattolWrite_keeps {z0 : State} {v : W64} {s : State} (h_s : Keeps z0 s) :
    KeepsOut z0 (execPwrLattolWrite v s) := by
  unfold execPwrLattolWrite
  try dsimp only
  repeat' first
    | with_reducible assumption
    | intro _
    | with_reducible apply whenLive_keeps
    | with_reducible apply lattolWrite_keeps

/-! ### Debug -/

theorem setHalt_keeps {z0 : State} {s : State} {d : Nat} {h : Option (Nat × Bool)} (h_s : Keeps z0 s) :
    Keeps z0 (setHalt s d h) := by
  unfold setHalt
  try dsimp only
  repeat' first
    | with_reducible assumption
    | intro _
    | with_reducible apply keeps_ite
    | with_reducible apply keepsOpt_some
    | with_reducible exact keepsOpt_none
    | with_reducible apply keepsOpt_map
    | simp only [keeps_mk_iff]

theorem setInsp_keeps {z0 : State} {s : State} {d : Nat} {i : Option (Nat × Nat)} (h_s : Keeps z0 s) :
    Keeps z0 (setInsp s d i) := by
  unfold setInsp
  try dsimp only
  repeat' first
    | with_reducible assumption
    | intro _
    | with_reducible apply keeps_ite
    | with_reducible apply keepsOpt_some
    | with_reducible exact keepsOpt_none
    | with_reducible apply keepsOpt_map
    | simp only [keeps_mk_iff]

theorem clearSteps_keeps {z0 : State} {s : State} {u : Nat} (h_s : Keeps z0 s) :
    Keeps z0 (clearSteps s u) := by
  unfold clearSteps
  try dsimp only
  repeat' first
    | with_reducible assumption
    | intro _
    | simp only [keeps_mk_iff]

theorem haltWrite_keeps {z0 : State} {s : State} {d : Nat} {v : W64} (h_s : Keeps z0 s) :
    Keeps z0 (haltWrite s d v) := by
  unfold haltWrite
  try dsimp only
  repeat' first
    | with_reducible assumption
    | intro _
    | with_reducible apply setHalt_keeps
    | with_reducible apply reject_keeps
    | with_reducible apply feedAll_keeps
    | with_reducible apply setInsp_keeps
    | with_reducible apply clearSteps_keeps
    | with_reducible apply keeps_ite
    | with_reducible apply keepsOpt_some
    | with_reducible exact keepsOpt_none
    | with_reducible apply keepsOpt_map
    | simp only [keeps_mk_iff]
    | split

theorem execDbgHalt_keeps {z0 : State} {d : Nat} {site : Nat} {s : State} (h_s : Keeps z0 s) :
    KeepsOut z0 (execDbgHalt d site s) := by
  unfold execDbgHalt
  try dsimp only
  repeat' first
    | with_reducible assumption
    | intro _
    | with_reducible apply whenLive_keeps
    | with_reducible apply haltWrite_keeps
    | with_reducible apply keeps_ite

theorem execDbgResume_keeps {z0 : State} {d : Nat} {site : Nat} {s : State} (h_s : Keeps z0 s) :
    KeepsOut z0 (execDbgResume d site s) := by
  unfold execDbgResume
  try dsimp only
  repeat' first
    | with_reducible assumption
    | intro _
    | with_reducible apply whenLive_keeps
    | with_reducible apply haltWrite_keeps
    | with_reducible apply keeps_ite

theorem execDbgStep_keeps {z0 : State} {d : Nat} {site : Nat} {s : State} (h_s : Keeps z0 s) :
    KeepsOut z0 (execDbgStep d site s) := by
  unfold execDbgStep
  try dsimp only
  repeat' first
    | with_reducible assumption
    | intro _
    | with_reducible apply whenLive_keeps
    | with_reducible apply haltWrite_keeps
    | with_reducible apply keeps_ite

theorem execDbgHalted_keeps {z0 : State} {d : Nat} {s : State} (h_s : Keeps z0 s) :
    KeepsOut z0 (execDbgHalted d s) := by
  unfold execDbgHalted
  try dsimp only
  repeat' first
    | with_reducible assumption
    | intro _
    | with_reducible apply whenLive_keeps
    | with_reducible apply clearSteps_keeps
    | with_reducible apply setHalt_keeps
    | with_reducible apply keeps_ite
    | with_reducible apply keepsOut_ite
    | with_reducible apply keepsOut_next
    | with_reducible apply keepsOpt_some
    | with_reducible exact keepsOpt_none
    | with_reducible apply keepsOpt_map
    | simp only [keeps_mk_iff]
    | split

theorem inspWrite_keeps {z0 : State} {s : State} {d : Nat} {v : W64} (h_s : Keeps z0 s) :
    Keeps z0 (inspWrite s d v) := by
  unfold inspWrite
  try dsimp only
  repeat' first
    | with_reducible assumption
    | intro _
    | with_reducible apply setInsp_keeps
    | with_reducible apply setRegF_keeps
    | with_reducible apply reject_keeps
    | with_reducible apply keeps_ite
    | with_reducible apply keepsOpt_some
    | with_reducible exact keepsOpt_none
    | with_reducible apply keepsOpt_map
    | simp only [keeps_mk_iff]
    | split

theorem execDbgInsp_keeps {z0 : State} {d : Nat} {v : W64} {s : State} (h_s : Keeps z0 s) :
    KeepsOut z0 (execDbgInsp d v s) := by
  unfold execDbgInsp
  try dsimp only
  repeat' first
    | with_reducible assumption
    | intro _
    | with_reducible apply whenLive_keeps
    | with_reducible apply inspWrite_keeps
    | with_reducible apply keeps_ite

theorem execDbgInspLatched_keeps {z0 : State} {d : Nat} {s : State} (h_s : Keeps z0 s) :
    KeepsOut z0 (execDbgInspLatched d s) := by
  unfold execDbgInspLatched
  try dsimp only
  repeat' first
    | with_reducible assumption
    | intro _
    | with_reducible apply whenLive_keeps
    | with_reducible apply setRegF_keeps
    | with_reducible apply setReg_keeps
    | with_reducible apply setInsp_keeps
    | with_reducible apply keepsOut_next
    | with_reducible apply keepsOpt_some
    | with_reducible exact keepsOpt_none
    | with_reducible apply keepsOpt_map
    | simp only [keeps_mk_iff]
    | split

/-! ### Devices -/

theorem cboRow_keeps {z0 : State} {h : Nat} {addr : Nat} {dirty : Option (List Byte)} {drop : Bool} {s : State} (h_s : Keeps z0 s) :
    KeepsOut z0 (cboRow h addr dirty drop s) := by
  unfold cboRow
  try dsimp only
  repeat' first
    | with_reducible assumption
    | intro _
    | with_reducible apply execWbDirty_keeps
    | with_reducible apply execEvClean_keeps
    | with_reducible apply keeps_ite
    | with_reducible apply keepsOut_ite
    | with_reducible apply keepsOut_next
    | with_reducible apply keepsOpt_some
    | with_reducible exact keepsOpt_none
    | with_reducible apply keepsOpt_map
    | simp only [keeps_mk_iff]
    | split

theorem execCboClean_keeps {z0 : State} {h : Nat} {addr : Nat} {dirty : Option (List Byte)} {s : State} (h_s : Keeps z0 s) :
    KeepsOut z0 (execCboClean h addr dirty s) := by
  unfold execCboClean
  try dsimp only
  repeat' first
    | with_reducible assumption
    | intro _
    | with_reducible apply cboRow_keeps

theorem execCboFlush_keeps {z0 : State} {h : Nat} {addr : Nat} {dirty : Option (List Byte)} {s : State} (h_s : Keeps z0 s) :
    KeepsOut z0 (execCboFlush h addr dirty s) := by
  unfold execCboFlush
  try dsimp only
  repeat' first
    | with_reducible assumption
    | intro _
    | with_reducible apply cboRow_keeps

theorem execCboInval_keeps {z0 : State} {h : Nat} {addr : Nat} {dirty : Option (List Byte)} {s : State} (h_s : Keeps z0 s) :
    KeepsOut z0 (execCboInval h addr dirty s) := by
  unfold execCboInval
  try dsimp only
  repeat' first
    | with_reducible assumption
    | intro _
    | with_reducible apply cboRow_keeps

theorem complete_keeps {z0 : State} {s : State} {g : Nat} {status : Nat} {data : List Byte} {p : Bool} (h_s : Keeps z0 s) :
    Keeps z0 (complete s g status data p) := by
  unfold complete
  try dsimp only
  repeat' first
    | with_reducible assumption
    | intro _
    | simp only [keeps_mk_iff]

theorem deviceFault_keeps {z0 : State} {s : State} {g : Nat} {r : Rq} {acc : Machine.Acc} {bad : XKind × Nat × W64 × Nat} (h_s : Keeps z0 s) :
    Keeps z0 (deviceFault s g r acc bad) := by
  unfold deviceFault
  try dsimp only
  repeat' first
    | with_reducible assumption
    | intro _
    | with_reducible apply complete_keeps
    | with_reducible apply sumpNoResume_keeps

theorem deviceRuns_keeps {z0 : State} {r : Rq} {x1 : List (Where × Nat)} {x2 : State} {x3 : Nat} (h_x2 : Keeps z0 x2) :
    KeepsThd z0 (deviceRuns r x1 x2 x3) := by
  induction x1 generalizing x2 x3 with
  | nil => exact keepsThd_mk h_x2
  | cons y ys ih =>
    obtain ⟨w, n⟩ := y
    unfold deviceRuns
    refine keepsThd_mk (KeepsThd.of (ih ?_))
    cases w with
    | pa a => exact (portRead_keeps h_x2).of
    | win f ga =>
      have h1 := (askRuns_keeps (rid := r.rid) (flow := f) (ga := ga) (n := n) h_x2).of
      revert h1
      dsimp only
      generalize askRuns x2 r.rid f ga n = w
      intro h1
      obtain ⟨o, t⟩ := w
      cases o
      · exact h1
      · dsimp only
        split <;> exact h1
    | fault k l p => exact h_x2

theorem deviceRead_keeps {z0 : State} {s : State} {g : Nat} {aspace : Nat} {va : Nat} {n : Nat} (h_s : Keeps z0 s) :
    Keeps z0 (deviceRead s g aspace va n) := by
  unfold deviceRead
  try dsimp only
  repeat' first
    | with_reducible assumption
    | intro _
    | with_reducible apply rqSpan_keeps
    | with_reducible apply deviceFault_keeps
    | with_reducible apply deviceRuns_keeps
    | with_reducible apply complete_keeps
    | with_reducible apply dropFetched_keeps
    | with_reducible apply keepsOpt_some
    | with_reducible exact keepsOpt_none
    | with_reducible apply keepsOpt_map
    | simp only [keeps_mk_iff]
    | with_reducible apply KeepsThd.of
    | with_reducible apply KeepsSnd.of
    | with_reducible refine keepsThd_eq (by with_reducible assumption) ?_
    | with_reducible refine keepsSnd_eq (by with_reducible assumption) ?_
    | split

theorem deviceWrite_keeps {z0 : State} {s : State} {g : Nat} {aspace : Nat} {va : Nat} {bs : List Byte} (h_s : Keeps z0 s) :
    Keeps z0 (deviceWrite s g aspace va bs) := by
  unfold deviceWrite
  try dsimp only
  repeat' first
    | with_reducible assumption
    | intro _
    | with_reducible apply rqSpan_keeps
    | with_reducible apply deviceFault_keeps
    | with_reducible apply complete_keeps
    | with_reducible apply writeRuns_keeps
    | with_reducible apply keepsOpt_some
    | with_reducible exact keepsOpt_none
    | with_reducible apply keepsOpt_map
    | simp only [keeps_mk_iff]
    | with_reducible apply KeepsSnd.of
    | with_reducible refine keepsSnd_eq (by with_reducible assumption) ?_
    | split

theorem deviceMsi_keeps {z0 : State} {s : State} {g : Nat} {a : Nat} {bs : List Byte} (h_s : Keeps z0 s) :
    Keeps z0 (deviceMsi s g a bs) := by
  unfold deviceMsi
  try dsimp only
  repeat' first
    | with_reducible assumption
    | intro _
    | with_reducible apply complete_keeps
    | with_reducible apply msiWrite_keeps
    | with_reducible apply keeps_ite

theorem deviceRaw_keeps {z0 : State} {s : State} {g : Nat} {a : Nat} {wr : Option (List Byte)} {n : Nat} (h_s : Keeps z0 s) :
    Keeps z0 (deviceRaw s g a wr n) := by
  unfold deviceRaw
  try dsimp only
  repeat' first
    | with_reducible assumption
    | intro _
    | with_reducible apply complete_keeps
    | with_reducible apply homeWrite_keeps
    | with_reducible apply homeRead_keeps
    | with_reducible apply keeps_ite
    | with_reducible apply keepsOpt_some
    | with_reducible exact keepsOpt_none
    | with_reducible apply keepsOpt_map
    | simp only [keeps_mk_iff]
    | with_reducible apply KeepsThd.of
    | with_reducible refine keepsThd_eq (by with_reducible assumption) ?_
    | split

theorem execPcieDeviceRequest_keeps {z0 : State} {g : Nat} {r : PcieReq} {s : State} (h_s : Keeps z0 s) :
    KeepsOut z0 (execPcieDeviceRequest g r s) := by
  unfold execPcieDeviceRequest
  try dsimp only
  repeat' first
    | with_reducible assumption
    | intro _
    | with_reducible apply whenLive_keeps
    | with_reducible apply deviceRaw_keeps
    | with_reducible apply deviceRead_keeps
    | with_reducible apply deviceMsi_keeps
    | with_reducible apply deviceWrite_keeps
    | with_reducible apply raise_keeps
    | with_reducible apply keeps_ite
    | with_reducible apply keepsOut_ite
    | with_reducible apply keepsOut_next
    | with_reducible apply keepsOpt_some
    | with_reducible exact keepsOpt_none
    | with_reducible apply keepsOpt_map
    | simp only [keeps_mk_iff]
    | split

/-! ### Links -/

theorem dlkShareWrite_keeps {z0 : State} {s : State} {n : Nat} {v : W64} (h_s : Keeps z0 s) :
    Keeps z0 (dlkShareWrite s n v) := by
  unfold dlkShareWrite
  try dsimp only
  repeat' first
    | with_reducible assumption
    | intro _
    | with_reducible apply reject_keeps
    | with_reducible apply setReg_keeps
    | with_reducible apply keeps_ite

theorem execDlkShareWrite_keeps {z0 : State} {n : Nat} {v : W64} {s : State} (h_s : Keeps z0 s) :
    KeepsOut z0 (execDlkShareWrite n v s) := by
  unfold execDlkShareWrite
  try dsimp only
  repeat' first
    | with_reducible assumption
    | intro _
    | with_reducible apply whenLive_keeps
    | with_reducible apply dlkShareWrite_keeps
    | with_reducible apply keeps_ite

theorem dlkDown_keeps {z0 : State} {s : State} {n : Nat} {inj : Bool} (h_s : Keeps z0 s) :
    Keeps z0 (dlkDown s n inj) := by
  unfold dlkDown
  try dsimp only
  repeat' first
    | with_reducible assumption
    | intro _
    | with_reducible apply fatalStop_keeps
    | with_reducible apply raiseWith_keeps
    | with_reducible apply dlkStat_keeps

theorem dlkRetireSlice_keeps {z0 : State} {s : State} {n : Nat} {sl : Nat} {inj : Bool} (h_s : Keeps z0 s) :
    Keeps z0 (dlkRetireSlice s n sl inj) := by
  unfold dlkRetireSlice
  try dsimp only
  repeat' first
    | with_reducible assumption
    | intro _
    | with_reducible apply setDlink_keeps
    | with_reducible apply raiseWith_keeps
    | with_reducible apply dlkStat_keeps
    | with_reducible apply dlkDown_keeps
    | with_reducible apply keeps_ite

theorem execDlkFlitReceive_keeps {z0 : State} {n : Nat} {seq : Nat} {round : Nat} {sl : Nat} {ok : Bool} {s : State} (h_s : Keeps z0 s) :
    KeepsOut z0 (execDlkFlitReceive n seq round sl ok s) := by
  unfold execDlkFlitReceive
  try dsimp only
  repeat' first
    | with_reducible assumption
    | intro _
    | with_reducible apply whenLive_keeps
    | with_reducible apply countEv_keeps
    | with_reducible apply setDlink_keeps
    | with_reducible apply disarm_keeps
    | with_reducible apply raiseWith_keeps
    | with_reducible apply dlkRetireSlice_keeps
    | with_reducible apply keeps_ite

theorem evselWrite_keeps {z0 : State} {s : State} {page : Nat} {n : Nat} {v : W64} (h_s : Keeps z0 s) :
    Keeps z0 (evselWrite s page n v) := by
  unfold evselWrite
  try dsimp only
  repeat' first
    | with_reducible assumption
    | intro _
    | with_reducible apply setReg_keeps
    | with_reducible apply reject_keeps
    | with_reducible apply keeps_ite

theorem execEvselWrite_keeps {z0 : State} {page : Nat} {n : Nat} {v : W64} {s : State} (h_s : Keeps z0 s) :
    KeepsOut z0 (execEvselWrite page n v s) := by
  unfold execEvselWrite
  try dsimp only
  repeat' first
    | with_reducible assumption
    | intro _
    | with_reducible apply whenLive_keeps
    | with_reducible apply evselWrite_keeps
    | with_reducible apply keeps_ite

theorem evcntWrite_keeps {z0 : State} {s : State} {page : Nat} {n : Nat} {v : W64} (h_s : Keeps z0 s) :
    Keeps z0 (evcntWrite s page n v) := by
  unfold evcntWrite
  try dsimp only
  repeat' first
    | with_reducible assumption
    | intro _
    | with_reducible apply setEvcnt_keeps

theorem execEvcntOverflow_keeps {z0 : State} {page : Nat} {c : Nat} {n : Nat} {s : State} (h_s : Keeps z0 s) :
    KeepsOut z0 (execEvcntOverflow page c n s) := by
  unfold execEvcntOverflow
  try dsimp only
  repeat' first
    | with_reducible assumption
    | intro _
    | with_reducible apply whenLive_keeps
    | with_reducible apply evAdd_keeps
    | with_reducible apply keeps_ite

theorem execEvmsiHoldoffExpire_keeps {z0 : State} {s : State} (h_s : Keeps z0 s) :
    KeepsOut z0 (execEvmsiHoldoffExpire s) := by
  unfold execEvmsiHoldoffExpire
  try dsimp only
  repeat' first
    | with_reducible assumption
    | intro _
    | with_reducible apply whenLive_keeps
    | with_reducible apply evInterrupt_keeps
    | with_reducible apply keeps_ite
    | with_reducible apply keepsOut_ite
    | with_reducible apply keepsOut_next
    | simp only [keeps_mk_iff]

theorem elogCfgWrite_keeps {z0 : State} {s : State} {v : W64} (h_s : Keeps z0 s) :
    Keeps z0 (elogCfgWrite s v) := by
  unfold elogCfgWrite
  try dsimp only
  repeat' first
    | with_reducible assumption
    | intro _
    | with_reducible apply reject_keeps
    | with_reducible apply setReg_keeps
    | with_reducible apply keeps_ite
    | simp only [keeps_mk_iff]

theorem execElogCfgWrite_keeps {z0 : State} {v : W64} {s : State} (h_s : Keeps z0 s) :
    KeepsOut z0 (execElogCfgWrite v s) := by
  unfold execElogCfgWrite
  try dsimp only
  repeat' first
    | with_reducible assumption
    | intro _
    | with_reducible apply whenLive_keeps
    | with_reducible apply elogCfgWrite_keeps

theorem elogConsWrite_keeps {z0 : State} {s : State} {v : W64} (h_s : Keeps z0 s) :
    Keeps z0 (elogConsWrite s v) := by
  unfold elogConsWrite
  try dsimp only
  repeat' first
    | with_reducible assumption
    | intro _
    | with_reducible apply reject_keeps
    | with_reducible apply keeps_ite
    | simp only [keeps_mk_iff]

theorem execElogConsWrite_keeps {z0 : State} {v : W64} {s : State} (h_s : Keeps z0 s) :
    KeepsOut z0 (execElogConsWrite v s) := by
  unfold execElogConsWrite
  try dsimp only
  repeat' first
    | with_reducible assumption
    | intro _
    | with_reducible apply whenLive_keeps
    | with_reducible apply elogConsWrite_keeps

theorem execImsicWrite_keeps {z0 : State} {addr : Nat} {size : Nat} {v : Nat} {byDevice : Bool} {s : State} (h_s : Keeps z0 s) :
    KeepsOut z0 (execImsicWrite addr size v byDevice s) := by
  unfold execImsicWrite
  try dsimp only
  repeat' first
    | with_reducible assumption
    | intro _
    | with_reducible apply whenLive_keeps
    | with_reducible apply msiWrite_keeps
    | with_reducible apply keeps_ite

theorem execMtimerExpire_keeps {z0 : State} {h : Nat} {s : State} (h_s : Keeps z0 s) :
    KeepsOut z0 (execMtimerExpire h s) := by
  unfold execMtimerExpire
  try dsimp only
  repeat' first
    | with_reducible assumption
    | intro _
    | with_reducible apply whenLive_keeps
    | with_reducible apply setHart_keeps
    | with_reducible apply keeps_ite

theorem timersAfterWrite_keeps {z0 : State} {s : State} (h_s : Keeps z0 s) :
    Keeps z0 (timersAfterWrite s) := by
  unfold timersAfterWrite
  try dsimp only
  repeat' first
    | with_reducible assumption
    | intro _
    | with_reducible apply setHart_keeps
    | with_reducible apply keeps_ite
    | with_reducible apply keeps_foldl

theorem hartenWrite_keeps {z0 : State} {s : State} {hi : Bool} {v : W64} (h_s : Keeps z0 s) :
    Keeps z0 (hartenWrite s hi v) := by
  unfold hartenWrite
  try dsimp only
  repeat' first
    | with_reducible assumption
    | intro _
    | with_reducible apply reject_keeps
    | with_reducible apply releaseHarts_keeps
    | with_reducible apply setReg_keeps
    | with_reducible apply keeps_ite

theorem execHartenWrite_keeps {z0 : State} {hi : Bool} {v : W64} {s : State} (h_s : Keeps z0 s) :
    KeepsOut z0 (execHartenWrite hi v s) := by
  unfold execHartenWrite
  try dsimp only
  repeat' first
    | with_reducible assumption
    | intro _
    | with_reducible apply whenLive_keeps
    | with_reducible apply hartenWrite_keeps

/-! ### Load -/

theorem writable_keeps {z0 : State} {r : Rq} {x1 : Nat} {x2 : State} {x3 : Nat} {x4 : Nat} (h_x2 : Keeps z0 x2) :
    KeepsSnd z0 (writable r x1 x2 x3 x4) := by
  induction x1 generalizing x2 x3 x4 with
  | zero => exact keepsSnd_mk h_x2
  | succ f ih =>
    unfold writable
    split
    · exact keepsSnd_mk h_x2
    · have h1 := (rqXlat_keeps (r := r) (va := x3) (n := min (4096 - x3 % 4096) x4) (acc := .wr) h_x2).of
      revert h1
      dsimp only
      generalize rqXlat x2 r x3 _ .wr = w
      intro h1
      obtain ⟨w, s1⟩ := w
      cases w
      · exact ih h1
      · exact ih h1
      · exact keepsSnd_mk h1

theorem stallDesc_keeps {z0 : State} {s : State} {q : Nat} {idx : Nat} (h_s : Keeps z0 s) :
    Keeps z0 (stallDesc s q idx) := by
  unfold stallDesc
  try dsimp only
  repeat' first
    | with_reducible assumption
    | intro _
    | with_reducible apply updDesc_keeps
    | simp only [keeps_mk_iff]

theorem loadImage_keeps {z0 : State} {q : Nat} {idx : Nat} {d : Desc} {s : State} (h_s : Keeps z0 s) :
    Keeps z0 (loadImage q idx d s) := by
  unfold loadImage
  try dsimp only
  repeat' first
    | with_reducible assumption
    | intro _
    | with_reducible apply rqRead_keeps
    | with_reducible apply stallDesc_keeps
    | with_reducible apply finishDesc_keeps
    | with_reducible apply writable_keeps
    | with_reducible apply rqWrite_keeps
    | with_reducible apply setJob_keeps
    | with_reducible apply keeps_ite
    | with_reducible apply keepsOpt_some
    | with_reducible exact keepsOpt_none
    | with_reducible apply keepsOpt_map
    | simp only [keeps_mk_iff]
    | with_reducible apply KeepsSnd.of
    | with_reducible refine keepsSnd_eq (by with_reducible assumption) ?_
    | split

theorem execLoad_keeps {z0 : State} {q : Nat} {idx : Nat} {s : State} (h_s : Keeps z0 s) :
    KeepsOut z0 (execLoad q idx s) := by
  unfold execLoad
  try dsimp only
  repeat' first
    | with_reducible assumption
    | intro _
    | with_reducible apply descRow_keeps
    | with_reducible apply loadImage_keeps

/-! ### Registers -/

theorem armBits_keeps {z0 : State} {s : State} {page : Nat} {mask : Nat} (h_s : Keeps z0 s) :
    Keeps z0 (armBits s page mask) := by
  unfold armBits
  try dsimp only
  repeat' first
    | with_reducible assumption
    | intro _
    | with_reducible apply keeps_ite
    | with_reducible apply keeps_foldl
    | simp only [keeps_mk_iff]

theorem injectUnit_keeps {z0 : State} {s : State} {page : Nat} {u : Nat} {m : Nat} (h_s : Keeps z0 s) :
    Keeps z0 (injectUnit s page u m) := by
  unfold injectUnit
  try dsimp only
  repeat' first
    | with_reducible assumption
    | intro _
    | with_reducible apply unitError_keeps
    | with_reducible apply keeps_ite
    | with_reducible apply keeps_foldl

theorem injectLane_keeps {z0 : State} {s : State} {g : Nat} (h_s : Keeps z0 s) :
    Keeps z0 (injectLane s g) := by
  unfold injectLane
  try dsimp only
  repeat' first
    | with_reducible assumption
    | intro _
    | with_reducible apply retireLane_keeps
    | with_reducible apply keeps_ite
    | with_reducible apply keepsOpt_some
    | with_reducible exact keepsOpt_none
    | with_reducible apply keepsOpt_map
    | simp only [keeps_mk_iff]
    | split

theorem errInjWrite_keeps {z0 : State} {s : State} {page : Nat} {v : W64} (h_s : Keeps z0 s) :
    Keeps z0 (errInjWrite s page v) := by
  unfold errInjWrite
  try dsimp only
  repeat' first
    | with_reducible assumption
    | intro _
    | with_reducible apply reject_keeps
    | with_reducible apply armBits_keeps
    | with_reducible apply dlkRetireSlice_keeps
    | with_reducible apply dlkDown_keeps
    | with_reducible apply injectUnit_keeps
    | with_reducible apply injectLane_keeps
    | with_reducible apply keeps_ite
    | with_reducible apply keepsOpt_some
    | with_reducible exact keepsOpt_none
    | with_reducible apply keepsOpt_map
    | simp only [keeps_mk_iff]
    | split

theorem execErrInjWrite_keeps {z0 : State} {page : Nat} {v : W64} {s : State} (h_s : Keeps z0 s) :
    KeepsOut z0 (execErrInjWrite page v s) := by
  unfold execErrInjWrite
  try dsimp only
  repeat' first
    | with_reducible assumption
    | intro _
    | with_reducible apply whenLive_keeps
    | with_reducible apply errInjWrite_keeps
    | with_reducible apply keeps_ite

theorem ctrlWrite_keeps {z0 : State} {s : State} {page : Nat} {v : W64} (h_s : Keeps z0 s) :
    Keeps z0 (ctrlWrite s page v) := by
  unfold ctrlWrite
  try dsimp only
  repeat' first
    | with_reducible assumption
    | intro _
    | with_reducible apply reject_keeps
    | with_reducible apply setReg_keeps
    | with_reducible apply setQueue_keeps
    | with_reducible apply cmeFeed_keeps
    | with_reducible apply keeps_ite
    | with_reducible apply keepsOpt_some
    | with_reducible exact keepsOpt_none
    | with_reducible apply keepsOpt_map
    | simp only [keeps_mk_iff]
    | split

theorem execCtrlWrite_keeps {z0 : State} {page : Nat} {v : W64} {s : State} (h_s : Keeps z0 s) :
    KeepsOut z0 (execCtrlWrite page v s) := by
  unfold execCtrlWrite
  try dsimp only
  repeat' first
    | with_reducible assumption
    | intro _
    | with_reducible apply whenLive_keeps
    | with_reducible apply ctrlWrite_keeps

theorem plainWrite_keeps {z0 : State} {s : State} {page : Nat} {off : Nat} {e : RegInfo} {v : W64} (h_s : Keeps z0 s) :
    Keeps z0 (plainWrite s page off e v) := by
  unfold plainWrite
  try dsimp only
  repeat' first
    | with_reducible assumption
    | intro _
    | with_reducible apply setReg_keeps

theorem detctlWrite_keeps {z0 : State} {s : State} {v : W64} (h_s : Keeps z0 s) :
    Keeps z0 (detctlWrite s v) := by
  unfold detctlWrite
  try dsimp only
  repeat' first
    | with_reducible assumption
    | intro _
    | with_reducible apply reject_keeps
    | with_reducible apply noteDigest_keeps
    | with_reducible apply setReg_keeps
    | with_reducible apply keeps_ite

theorem execGlbDetctlWrite_keeps {z0 : State} {v : W64} {s : State} (h_s : Keeps z0 s) :
    KeepsOut z0 (execGlbDetctlWrite v s) := by
  unfold execGlbDetctlWrite
  try dsimp only
  repeat' first
    | with_reducible assumption
    | intro _
    | with_reducible apply whenLive_keeps
    | with_reducible apply detctlWrite_keeps

theorem redctlWrite_keeps {z0 : State} {s : State} {v : W64} (h_s : Keeps z0 s) :
    Keeps z0 (redctlWrite s v) := by
  unfold redctlWrite
  try dsimp only
  repeat' first
    | with_reducible assumption
    | intro _
    | with_reducible apply reject_keeps
    | with_reducible apply setReg_keeps
    | with_reducible apply cucfgWrite_keeps
    | with_reducible apply setRegF_keeps
    | with_reducible apply noteDigest_keeps
    | with_reducible apply keeps_ite
    | with_reducible apply keeps_foldl

theorem execGlbRedctlWrite_keeps {z0 : State} {v : W64} {s : State} (h_s : Keeps z0 s) :
    KeepsOut z0 (execGlbRedctlWrite v s) := by
  unfold execGlbRedctlWrite
  try dsimp only
  repeat' first
    | with_reducible assumption
    | intro _
    | with_reducible apply whenLive_keeps
    | with_reducible apply redctlWrite_keeps

theorem tdccntWrite_keeps {z0 : State} {s : State} {v : W64} (h_s : Keeps z0 s) :
    Keeps z0 (tdccntWrite s v) := by
  unfold tdccntWrite
  try dsimp only
  repeat' first
    | with_reducible assumption
    | intro _
    | with_reducible apply reject_keeps
    | with_reducible apply setReg_keeps
    | with_reducible apply keeps_ite

theorem detspillWrite_keeps {z0 : State} {s : State} {v : W64} (h_s : Keeps z0 s) :
    Keeps z0 (detspillWrite s v) := by
  unfold detspillWrite
  try dsimp only
  repeat' first
    | with_reducible assumption
    | intro _
    | with_reducible apply reject_keeps
    | with_reducible apply setReg_keeps
    | with_reducible apply keeps_ite

theorem injctlWrite_keeps {z0 : State} {s : State} {v : W64} (h_s : Keeps z0 s) :
    Keeps z0 (injctlWrite s v) := by
  unfold injctlWrite
  try dsimp only
  repeat' first
    | with_reducible assumption
    | intro _
    | with_reducible apply reject_keeps
    | with_reducible apply setReg_keeps
    | with_reducible apply keeps_ite
    | simp only [keeps_mk_iff]

theorem cuCfgWrite_keeps {z0 : State} {s : State} {u : Nat} {v : W64} (h_s : Keeps z0 s) :
    Keeps z0 (cuCfgWrite s u v) := by
  unfold cuCfgWrite
  try dsimp only
  repeat' first
    | with_reducible assumption
    | intro _
    | with_reducible apply reject_keeps
    | with_reducible apply setReg_keeps
    | with_reducible apply keeps_ite

theorem rootWrite_keeps {z0 : State} {s : State} {a : Nat} {v : W64} (h_s : Keeps z0 s) :
    Keeps z0 (rootWrite s a v) := by
  unfold rootWrite
  try dsimp only
  repeat' first
    | with_reducible assumption
    | intro _
    | with_reducible apply reject_keeps
    | with_reducible apply setReg_keeps
    | with_reducible apply keeps_ite

theorem sumpCfgWrite_keeps {z0 : State} {s : State} {v : W64} (h_s : Keeps z0 s) :
    Keeps z0 (sumpCfgWrite s v) := by
  unfold sumpCfgWrite
  try dsimp only
  repeat' first
    | with_reducible assumption
    | intro _
    | with_reducible apply reject_keeps
    | with_reducible apply setReg_keeps
    | with_reducible apply keeps_ite

theorem sumpBaseWrite_keeps {z0 : State} {s : State} {v : W64} (h_s : Keeps z0 s) :
    Keeps z0 (sumpBaseWrite s v) := by
  unfold sumpBaseWrite
  try dsimp only
  repeat' first
    | with_reducible assumption
    | intro _
    | with_reducible apply reject_keeps
    | with_reducible apply setReg_keeps
    | with_reducible apply keeps_ite

theorem queCfgWrite_keeps {z0 : State} {s : State} {q : Nat} {v : W64} (h_s : Keeps z0 s) :
    Keeps z0 (queCfgWrite s q v) := by
  unfold queCfgWrite
  try dsimp only
  repeat' first
    | with_reducible assumption
    | intro _
    | with_reducible apply reject_keeps
    | with_reducible apply setReg_keeps
    | with_reducible apply keeps_ite

theorem queBaseWrite_keeps {z0 : State} {s : State} {q : Nat} {off : Nat} {v : W64} (h_s : Keeps z0 s) :
    Keeps z0 (queBaseWrite s q off v) := by
  unfold queBaseWrite
  try dsimp only
  repeat' first
    | with_reducible assumption
    | intro _
    | with_reducible apply reject_keeps
    | with_reducible apply setReg_keeps
    | with_reducible apply keeps_ite

theorem staleRetryWrite_keeps {z0 : State} {s : State} {q : Nat} {v : W64} (h_s : Keeps z0 s) :
    Keeps z0 (staleRetryWrite s q v) := by
  unfold staleRetryWrite
  try dsimp only
  repeat' first
    | with_reducible assumption
    | intro _
    | with_reducible apply reject_keeps
    | with_reducible apply setReg_keeps
    | with_reducible apply keeps_ite

theorem rtrWrite_keeps {z0 : State} {s : State} {x : Nat} {off : Nat} {e : RegInfo} {v : W64} (h_s : Keeps z0 s) :
    Keeps z0 (rtrWrite s x off e v) := by
  unfold rtrWrite
  try dsimp only
  repeat' first
    | with_reducible assumption
    | intro _
    | with_reducible apply reject_keeps
    | with_reducible apply plainWrite_keeps
    | with_reducible apply keeps_ite

theorem rsctlWrite_keeps {z0 : State} {s : State} {v : W64} (h_s : Keeps z0 s) :
    Keeps z0 (rsctlWrite s v) := by
  unfold rsctlWrite
  try dsimp only
  repeat' first
    | with_reducible assumption
    | intro _
    | with_reducible apply reject_keeps
    | with_reducible apply setReg_keeps
    | with_reducible apply keeps_ite

theorem pacectlWrite_keeps {z0 : State} {s : State} {v : W64} (h_s : Keeps z0 s) :
    Keeps z0 (pacectlWrite s v) := by
  unfold pacectlWrite
  try dsimp only
  repeat' first
    | with_reducible assumption
    | intro _
    | with_reducible apply reject_keeps
    | with_reducible apply setReg_keeps
    | with_reducible apply setRegF_keeps
    | with_reducible apply setPdie_keeps
    | with_reducible apply keeps_ite
    | with_reducible apply keeps_foldl

theorem mgtCtrlWrite_keeps {z0 : State} {s : State} {v : W64} (h_s : Keeps z0 s) :
    Keeps z0 (mgtCtrlWrite s v) := by
  unfold mgtCtrlWrite
  try dsimp only
  repeat' first
    | with_reducible assumption
    | intro _
    | with_reducible apply switchPath_keeps
    | with_reducible apply keeps_ite

theorem extctlWrite_keeps {z0 : State} {s : State} {req : Requester} {v : W64} (h_s : Keeps z0 s) :
    Keeps z0 (extctlWrite s req v) := by
  unfold extctlWrite
  try dsimp only
  repeat' first
    | with_reducible assumption
    | intro _
    | with_reducible apply reject_keeps
    | with_reducible apply setReg_keeps
    | with_reducible apply keeps_ite
    | simp only [keeps_mk_iff]
    | split

theorem mbctlWrite_keeps {z0 : State} {s : State} {v : W64} (h_s : Keeps z0 s) :
    Keeps z0 (mbctlWrite s v) := by
  unfold mbctlWrite
  try dsimp only
  repeat' first
    | with_reducible assumption
    | intro _
    | with_reducible apply reject_keeps
    | with_reducible apply setReg_keeps
    | with_reducible apply keeps_ite
    | with_reducible apply keepsOpt_some
    | with_reducible exact keepsOpt_none
    | with_reducible apply keepsOpt_map
    | simp only [keeps_mk_iff]

theorem atLeast_keeps {z0 : State} {s : State} {page : Nat} {off : Nat} {least : Nat} {v : W64} (h_s : Keeps z0 s) :
    Keeps z0 (atLeast s page off least v) := by
  unfold atLeast
  try dsimp only
  repeat' first
    | with_reducible assumption
    | intro _
    | with_reducible apply reject_keeps
    | with_reducible apply setReg_keeps
    | with_reducible apply keeps_ite

theorem blockWrite_keeps {z0 : State} {s : State} {req : Requester} {page : Nat} {region : Nat} {b : Block} {i : Nat} {off : Nat} {e : RegInfo} {n : Nat} {v : W64} (h_s : Keeps z0 s) :
    Keeps z0 (blockWrite s req page region b i off e n v) := by
  unfold blockWrite
  try dsimp only
  repeat' first
    | with_reducible assumption
    | intro _
    | with_reducible apply plainWrite_keeps
    | with_reducible apply detctlWrite_keeps
    | with_reducible apply tdccntWrite_keeps
    | with_reducible apply detspillWrite_keeps
    | with_reducible apply redctlWrite_keeps
    | with_reducible apply injctlWrite_keeps
    | with_reducible apply elogCfgWrite_keeps
    | with_reducible apply elogConsWrite_keeps
    | with_reducible apply cucfgWrite_keeps
    | with_reducible apply hartenWrite_keeps
    | with_reducible apply atLeast_keeps
    | with_reducible apply timersAfterWrite_keeps
    | with_reducible apply corefreqWrite_keeps
    | with_reducible apply cuCfgWrite_keeps
    | with_reducible apply cuRetireWrite_keeps
    | with_reducible apply cmeGo_keeps
    | with_reducible apply homeAtcfgWrite_keeps
    | with_reducible apply wccfgWrite_keeps
    | with_reducible apply fmcCfgWrite_keeps
    | with_reducible apply invctlWrite_keeps
    | with_reducible apply rootWrite_keeps
    | with_reducible apply sumpCfgWrite_keeps
    | with_reducible apply sumpBaseWrite_keeps
    | with_reducible apply sumpConsWrite_keeps
    | with_reducible apply resumeWrite_keeps
    | with_reducible apply queCfgWrite_keeps
    | with_reducible apply queBaseWrite_keeps
    | with_reducible apply doorbellWrite_keeps
    | with_reducible apply fetchWrite_keeps
    | with_reducible apply cconsWrite_keeps
    | with_reducible apply staleRetryWrite_keeps
    | with_reducible apply roleWrite_keeps
    | with_reducible apply linkctlWrite_keeps
    | with_reducible apply lraBindWrite_keeps
    | with_reducible apply rtdataWrite_keeps
    | with_reducible apply rtrWrite_keeps
    | with_reducible apply pwrCapWrite_keeps
    | with_reducible apply pwrShareWrite_keeps
    | with_reducible apply lattolWrite_keeps
    | with_reducible apply rsctlWrite_keeps
    | with_reducible apply pacectlWrite_keeps
    | with_reducible apply reject_keeps
    | with_reducible apply setReg_keeps
    | with_reducible apply measWrite_keeps
    | with_reducible apply mgtCtrlWrite_keeps
    | with_reducible apply extctlWrite_keeps
    | with_reducible apply mbctlWrite_keeps
    | with_reducible apply haltWrite_keeps
    | with_reducible apply inspWrite_keeps
    | with_reducible apply dlkShareWrite_keeps
    | with_reducible apply keeps_ite
    | simp only [keeps_mk_iff]
    | split

theorem writeReg_keeps {z0 : State} {s : State} {req : Requester} {page : Nat} {off : Nat} {v : W64} (h_s : Keeps z0 s) :
    Keeps z0 (writeReg s req page off v) := by
  unfold writeReg
  try dsimp only
  repeat' first
    | with_reducible assumption
    | intro _
    | with_reducible apply ctrlWrite_keeps
    | with_reducible apply setReg_keeps
    | with_reducible apply errInjWrite_keeps
    | with_reducible apply evselWrite_keeps
    | with_reducible apply evcntWrite_keeps
    | with_reducible apply drainWrite_keeps
    | with_reducible apply noteDigest_keeps
    | with_reducible apply blockWrite_keeps
    | with_reducible apply keeps_ite
    | with_reducible apply keepsOpt_some
    | with_reducible exact keepsOpt_none
    | with_reducible apply keepsOpt_map
    | simp only [keeps_mk_iff]
    | split
    | (with_reducible apply keeps_all (by assumption) <;> first | exact id | exact wf_put _ _ _ _ | exact wf_memPut _ _ _ | exact wf_memPutMask _ _ _ _ | exact wf_dropKeys _ _ _ | exact fun _ => rfl)

theorem accessWrite_keeps {z0 : State} {s : State} {req : Requester} {addr : Nat} {size : Nat} {v : W64} (h_s : Keeps z0 s) :
    Keeps z0 (accessWrite s req addr size v) := by
  unfold accessWrite
  generalize offOf addr = off
  cases presentPage s (pageOf addr) with
  | none => exact h_s
  | some p =>
    dsimp only
    split
    · exact writeReg_keeps h_s
    · exact raise_keeps h_s

theorem execRegWrite_keeps {z0 : State} {req : Requester} {io : Bool} {addr : Nat} {size : Nat} {v : W64} {s : State} (h_s : Keeps z0 s) :
    KeepsOut z0 (execRegWrite req io addr size v s) := by
  unfold execRegWrite
  try dsimp only
  repeat' first
    | with_reducible assumption
    | intro _
    | with_reducible apply accessWrite_keeps
    | with_reducible apply keeps_ite
    | with_reducible apply keepsOut_ite
    | with_reducible apply keepsOut_next
    | simp only [keeps_mk_iff]

theorem execRegReadMisaligned_keeps {z0 : State} {req : Requester} {io : Bool} {addr : Nat} {size : Nat} {s : State} (h_s : Keeps z0 s) :
    KeepsOut z0 (execRegReadMisaligned req io addr size s) := by
  unfold execRegReadMisaligned
  try dsimp only
  repeat' first
    | with_reducible assumption
    | intro _
    | with_reducible apply raise_keeps
    | with_reducible apply keeps_ite
    | with_reducible apply keepsOut_ite
    | with_reducible apply keepsOut_next
    | simp only [keeps_mk_iff]

theorem execMailboxRead_keeps {z0 : State} {s : State} (h_s : Keeps z0 s) :
    KeepsOut z0 (execMailboxRead s) := by
  unfold execMailboxRead
  try dsimp only
  repeat' first
    | with_reducible assumption
    | intro _
    | with_reducible apply whenLive_keeps
    | with_reducible apply mbctlWrite_keeps

theorem execMailboxWrite_keeps {z0 : State} {s : State} (h_s : Keeps z0 s) :
    KeepsOut z0 (execMailboxWrite s) := by
  unfold execMailboxWrite
  try dsimp only
  repeat' first
    | with_reducible assumption
    | intro _
    | with_reducible apply whenLive_keeps
    | with_reducible apply mbctlWrite_keeps

theorem mailboxAccess_keeps {z0 : State} {s : State} {wr : Bool} {addr : Nat} {v : W64} (h_s : Keeps z0 s) :
    KeepsFst z0 (mailboxAccess s wr addr v) := by
  unfold mailboxAccess
  try dsimp only
  repeat' first
    | with_reducible assumption
    | intro _
    | with_reducible apply accessWrite_keeps
    | with_reducible apply raise_keeps
    | with_reducible apply keeps_ite
    | with_reducible apply keepsFst_ite
    | with_reducible apply keepsFst_mk

theorem execMailboxDone_keeps {z0 : State} {s : State} (h_s : Keeps z0 s) :
    KeepsOut z0 (execMailboxDone s) := by
  unfold execMailboxDone
  try dsimp only
  repeat' first
    | with_reducible assumption
    | intro _
    | with_reducible apply whenLive_keeps
    | with_reducible apply mailboxAccess_keeps
    | with_reducible apply setReg_keeps
    | with_reducible apply keeps_ite
    | with_reducible apply keepsOut_ite
    | with_reducible apply keepsOut_next
    | with_reducible apply keepsOpt_some
    | with_reducible exact keepsOpt_none
    | with_reducible apply keepsOpt_map
    | simp only [keeps_mk_iff]
    | with_reducible apply KeepsFst.of
    | with_reducible refine keepsFst_eq (by with_reducible assumption) ?_
    | split

/-! ### Cycle -/

theorem countCycle_keeps {z0 : State} {s : State} (h_s : Keeps z0 s) :
    Keeps z0 (countCycle s) := by
  unfold countCycle
  try dsimp only
  repeat' first
    | with_reducible assumption
    | intro _
    | with_reducible apply countEv_keeps
    | with_reducible apply keeps_ite
    | with_reducible apply keeps_foldl
    | split

theorem tick_keeps {z0 : State} {s : State} (h_s : Keeps z0 s) :
    Keeps z0 (tick s) := by
  unfold tick
  try dsimp only
  repeat' first
    | with_reducible assumption
    | intro _
    | with_reducible apply countCycle_keeps
    | with_reducible apply addReg_keeps
    | with_reducible apply keeps_ite
    | simp only [keeps_mk_iff]
    | split

end Sys2Proof.Laws
end

