-- ==== Sys2Proof/WellFormed.lean ====
section
/-! DEFINITION. Which commands are well formed: every operand that is a number names a thing the fully fitted
module has (a die, a site, a queue, a lane group, a page) or fits the field that carries it. What a command does
when a variant lacks the thing, or the thing is in the wrong state, is the command's meaning. -/

namespace Sys2Proof

open Sys2Proof.Machine

/-- The fields of an instruction word fit their bits (spec/07_thread_groups.md R176). -/
def Machine.GFields.wf (f : GFields) : Bool :=
  decide (f.d < 256) && decide (f.a < 256) && decide (f.b < 256) && decide (f.c < 256) && decide (f.imm < 2 ^ 24)

/-- The fields of a packet's header fit their bits, and its payload is of its length (a READ has
none) (spec/14_holarn_fabric.md R393). -/
def Machine.Packet.wf (p : Packet) : Bool :=
  decide (p.type < 16) && decide (p.ver < 4) && decide (p.hops < 32) && decide (p.vc < 8) && decide (p.echk < 4)
    && decide (p.len < 4097) && decide (p.gaddr < 2 ^ 64) && decide (p.subop < 256) && decide (p.snode < 2 ^ 18)
    && decide (p.dflow < 2 ^ 20) && decide (p.psn < 2 ^ 32) && decide (p.ackpsn < 2 ^ 32) && decide (p.tagid < 2 ^ 16)
    && decide (p.payload.length = if p.type = 2 then 0 else p.len)

/-- What a windlass engine moved: the descriptor it serves is one that can be (spec/09_memory_tiers.md R262). -/
def Machine.WdlWork.wf : WdlWork → Bool
  | .tile _ _ => true
  | .chunk q idx _ => decide (q < 4096) && decide (idx < 65536)

/-- An engine the module has (spec/14_holarn_fabric.md R399, spec/09_memory_tiers.md R260). -/
def Machine.EngineRef.wf : EngineRef → Bool
  | .har x e _ => decide (x < 2) && decide (e < 16)
  | .wdl x k => decide (x < 2) && decide (k < 2)

/-- A device's request addresses at most 4 KiB within 64 bits (spec/11_translation.md R321). -/
def Machine.PcieReq.wf : PcieReq → Bool
  | .read a addr len => decide (a.getD 0 < 65536) && decide (addr < 2 ^ 64) && decide (len ≤ 4096)
  | .write a addr data => decide (a.getD 0 < 65536) && decide (addr < 2 ^ 64) && decide (data.length ≤ 4096)
  | .intx => true
  | .devErr => true

/-- The line a host core gives up, if its copy was modified, is 128 bytes (spec/12_host_cores.md R332). -/
def lineOk : Option (List Byte) → Bool
  | none => true
  | some l => decide (l.length = 128)

/-- A command is well formed. -/
def Instr.wf : Instr → Bool
  | .modResetAssert | .modResetRelease | .pwrgdRise | .feedGood _ _ | .feedOpen _ _ | .fullCapRestore
  | .feedOvervoltage _ _ | .feedReclose _ _ | .feedExternalShort _ | .hotswapTrip _ | .wellPowerParked
  | .i3cStuckLow _ _ | .i3cOpenProbe _ _ _ | .i3cLineClean _ _ | .i3cGetstatus _ | .priReturn _
  | .itemCommit _ | .itemError _ | .holdupMeasure _ | .wellRecoveryDone | .wellRebuildDone | .sumpConsWrite _
  | .invalidationDone | .hartenWrite _ _ | .flowRtoExpire _ | .flowOpenTimeout _ | .beaconTimer
  | .glbDetctlWrite _ | .lockstepCompare | .elogCfgWrite _ | .elogConsWrite _ | .glbRedctlWrite _
  | .paceCheck _ | .pwrCapWrite _ | .pwrShareWrite _ | .pwrLattolWrite _ | .restEntry | .restWake
  | .bootRomDone | .bootPfwDone | .bootDiesDone | .cfgDigestRecompute | .getVersion _
  | .getCapabilities _ | .negotiateAlgorithms _ _ | .getDigests _ | .getCertificate _ _ _ _ | .mailboxRead
  | .mailboxWrite | .mailboxDone | .feedOutOfBand _ _ | .bootStageTimeout | .bootFlashRewrite _ _
  | .evmsiHoldoffExpire =>
    true
  | .refLossDetect die | .railOutOfRegulation die _ =>
    decide (die < 5)
  | .regWrite _ _ addr _ _ | .regReadMisaligned _ _ addr _ | .nmcRead addr _ | .rdshared _ addr
  | .rdonce _ addr | .evclean _ addr | .fwdshared _ addr _ _ | .fwdown _ addr _ _ | .fwdonce _ addr _ _
  | .inval _ addr | .recall _ addr _ _ | .data _ addr | .dataonce addr | .cmp _ addr | .atresult _ addr
  | .retry _ addr | .invack _ addr | .fwdack _ addr | .recallack _ addr | .homeAckTimeout addr
  | .imsicWrite addr _ _ _ =>
    decide (addr < 2 ^ 48)
  | .ctrlWrite page _ | .blockDrain page | .blockAbort page | .blockResume page | .blockDrainDone page
  | .blockAbortDone page | .errInjWrite page _ =>
    decide (page < 65536)
  | .evcntOverflow page c _ =>
    decide (page < 65536) && decide (c < 64)
  | .evselWrite page n _ =>
    decide (page < 65536) && decide (n < 64)
  | .dlkShareWrite n _ =>
    decide (n < 10)
  | .dlkFlitReceive n seq _ sl _ =>
    decide (n < 10) && decide (seq < 2 ^ 32) && decide (sl < 16)
  | .load q idx | .start q idx | .admitSteps q idx | .stnctlDrain q idx | .stnctlAbort q idx
  | .stnctlResume q idx | .jobctlDrain q idx | .jobctlAbort q idx | .jobctlResume q idx | .query q idx
  | .unload q idx | .sync q idx | .hint q idx | .nop q idx | .cmeopClean q idx | .cmeopInval q idx
  | .cmeopFlush q idx | .wput q idx | .wget q idx | .wdel q idx | .winfo q idx | .wellCommit q idx
  | .invalPage q idx | .invalSpace q idx | .invalAll q idx | .fopen q idx | .fclose q idx | .fput q idx
  | .fget q idx | .ffence q idx | .regen q idx | .lspair q idx | .lsend q idx =>
    decide (q < 4096) && decide (idx < 65536)
  | .stationStopped jn sid | .itemDispatch jn sid _ _ =>
    decide (jn < 64) && decide (sid < 65536)
  | .jobStopped jn | .deferredAddsApplied jn =>
    decide (jn < 64)
  | .cuItemStart u | .cuNearRound u | .cuFarAttempt u | .cuStealWaitExpire u | .cuRateWindow u _
  | .cuRetire u _ | .cuFaultRetire u | .spareSelftestDone u _ | .mxeOpStart u | .mxeOpComplete u
  | .cuHeartbeat u | .cuWatchdogExpire u _ | .cuSupplyLow u _ | .cuSupplyRestore u _ =>
    decide (u < 1152)
  | .dieCucfgWrite d _ | .scWaymaskWrite d _ _ | .cmeClean d | .cmeInval d | .cmeFlush d | .cmeRequestDone d
  | .dbgHalted d | .dbgInsp d _ | .dbgInspLatched d =>
    decide (d < 2)
  | .dbgHalt d site | .dbgResume d site | .dbgStep d site =>
    decide (d < 2) && decide (site < 1024)
  | .bootMemoryDone place entry =>
    decide (place < 2 ^ 48) && decide (entry < 2 ^ 52)
  | .dynamicAddressAssignment _ addr =>
    decide (addr < 128)
  | .groupNop u h f | .iadd u h f | .isub u h f | .imul u h f | .and u h f | .or u h f | .xor u h f
  | .shl u h f | .shr u h f | .sra u h f | .isetlt u h f | .iseteq u h f | .iaddi u h f | .movi u h f
  | .orhi u h f | .fadd u h f | .fmul u h f | .ffma u h f | .fmin u h f | .fmax u h f | .fsetlt u h f
  | .fdiv u h f | .fsqrt u h f | .cvtif u h f | .cvtfi u h f | .cvtfn u h f | .cvtnf u h f | .ldl u h f
  | .stl u h f | .ldg u h f | .stg u h f | .atomg u h f | .atoml u h f | .mfenceOrder u h f
  | .mfenceAcquire u h f | .mfenceRelease u h f | .bra u h f | .brc u h f | .join u h f | .exit u h f
  | .bar u h f | .collb u h f | .colle u h f | .mxissue u h f | .mxwait u h f | .shfl u h f | .spec u h f
  | .trap u h f =>
    decide (u < 1152) && decide (h < 64) && f.wf
  | .barrierTimeout u islot n =>
    decide (u < 1152) && decide (islot < 4) && decide (n < 16)
  | .cuCacheFill u line =>
    decide (u < 1152) && decide (line < 2 ^ 41)
  | .moverTileDone u islot _ =>
    decide (u < 1152) && decide (islot < 4)
  | .nmcWrite addr mask bs | .wrnc _ addr mask bs =>
    decide (addr < 2 ^ 48) && decide (mask < 2 ^ 128) && decide (bs.length = 128)
  | .wcAgeTimeout d ch | .patrolScrub d ch _ | .lpddrOvertemp d ch _ _ =>
    decide (d < 2) && decide (ch < 16)
  | .fmcLinkUp g _ _ | .fmcLinkDown g | .hlpLinkenWrite g _ | .hlpRetrain g | .partnerDetect g
  | .trainRetry g | .laneFail g _ _ _ | .portDown g | .llrAckTimeout g | .ethFrameReceive g _ | .beaconLoss g =>
    decide (g < 20)
  | .wdlChunkDone x k work _ =>
    decide (x < 2) && decide (k < 2) && work.wf
  | .wellUnitsFreed name _ =>
    decide (name < 2 ^ 64)
  | .nandPackageLoss x ch =>
    decide (x < 2) && decide (ch < 16)
  | .nandOvertemp x _ | .rtrRtdataWrite x _ =>
    decide (x < 2)
  | .atfar _ w addr v =>
    decide (w = 4 ∨ w = 8) && decide (addr < 2 ^ 48) && decide (v < 2 ^ (8 * w))
  | .wbdirty _ addr bs =>
    decide (addr < 2 ^ 48) && decide (bs.length = 128)
  | .tokready d h | .homeAtcfgClr d h _ =>
    decide (d < 2) && decide (h < 16)
  | .sumpRecordWrite slot =>
    decide (slot < 4096)
  | .sumpResumeRetry slot seq | .sumpResumeFail slot seq =>
    decide (slot < 4096) && decide (seq < 2 ^ 32)
  | .mmuInvPage aspace | .mmuInvSpace aspace | .mmuInvAll aspace =>
    decide (aspace < 65536)
  | .mtimerExpire h | .fabricFenceLoad h =>
    decide (h < 128)
  | .corefreqWrite c _ | .freqChangeDone c | .coreSupplyDroop c _ _ =>
    decide (c < 128)
  | .doorbell q _ | .descFetch q | .staleReread q | .queCconsWrite q _ | .queFetchWrite q _ =>
    decide (q < 4096)
  | .llrFrameReceive g seq _ _ _ _ =>
    decide (g < 20) && decide (seq < 2 ^ 32)
  | .packetForward k _ =>
    decide (k < 2)
  | .write p | .read p | .atomic p | .readresp p | .atomresp p | .ack p | .nack p | .errresp p | .tile p
  | .flowctlOpen p | .flowctlOpenack p | .flowctlClose p | .flowctlCredit p | .reduceNodeUp p
  | .reduceResultDown p | .reducePull p =>
    p.wf
  | .beacon g dig =>
    decide (g < 20) && decide (dig.length = 48)
  | .harSlice x e _ | .harSliceTimeout x e _ =>
    decide (x < 2) && decide (e < 16)
  | .lraSeatAction g r act =>
    decide (g < 20) && decide (r < 16) && decide (act < 5)
  | .lraBindWrite g r _ _ =>
    decide (g < 20) && decide (r < 16)
  | .engineFault e =>
    e.wf
  | .capset d seq =>
    decide (d < 5) && decide (seq < 2 ^ 32)
  | .hintMsg d | .hintLapse d | .thermalTrip d _ | .sensorFail d =>
    decide (d < 5)
  | .measExtend slot =>
    decide (slot < 8)
  | .challenge _ _ nonce =>
    decide (nonce.length = 32)
  | .getMeasurements _ idx _ nonce =>
    decide (idx < 65536) && decide (nonce.length = 32)
  | .pcieDeviceRequest g r =>
    decide (g < 20) && r.wf
  | .hostFabricApertureAccess h _ addr _ =>
    decide (h < 128) && decide (addr < 2 ^ 48)
  | .rdown _ addr _ =>
    decide (addr < 2 ^ 48)
  | .cboClean h addr dirty | .cboFlush h addr dirty | .cboInval h addr dirty =>
    decide (h < 128) && decide (addr < 2 ^ 48) && lineOk dirty
  | .linkTrainDone g _ _ _ _ _ dig =>
    decide (g < 20) && decide (dig.length = 48)
  | .pwrWindow d _ _ _ _ _ | .pwrReport d _ _ _ _ _ _ _ =>
    decide (d < 5)

end Sys2Proof
end

