-- ==== Sys2Proof/Tests/Slice0.lean ====
section
/-! SUPPORT. Tests: an ill-formed term for every check of WellFormed; for every statement that has hypotheses, a
state and operands that meet them; small steps with expected values from the spec. -/

namespace Sys2Proof.Tests

/- One kernel check at a time: each running at once would take a thread's stack of its own. -/
set_option Elab.async false

open Sys2Proof Sys2Proof.Machine

/-- A page is enabled. -/
def enable (s : State) (page : Nat) : State := s.setReg (regAddr page 0x30) (setBit 0 (s.reg (regAddr page 0x30)) true)

theorem witness_StepRunsFrontCommand :
    State.reset.pending = [] ∧ live State.reset = true ∧ live { State.reset with phase := .fatal } = false := by
  decide

theorem witness_FusesNeverChange : ∃ t, step { State.reset with pending := [.pwrgdRise] } = .next t := ⟨_, rfl⟩

theorem witness_StepKeepsCanonicalForm :
    Canonical State.reset ∧ ∃ t, step State.reset = .next t :=
  ⟨by constructor <;> decide, _, rfl⟩

theorem witness_ResetIsCanonicalAndGivesListedValues : blockAt (pgCu 1 37) = some (.cu, 37) ∧ (0 < 10) := by decide

theorem witness_ModuleResetReturnsEverything :
    State.reset.phase ≠ .noInput ∧ { State.reset with phase := Phase.noInput }.phase = .noInput ∧
    (let s := { State.reset with phase := .inReset }
     s.phase = .inReset ∧ s.pins.pwrgd = true ∧ s.pins.feedA.ok = true ∧ s.pins.feedB.ok = true) := by decide

theorem witness_LossOfReferenceOrRailIsFatal :
    State.reset.phase = .running ∧ hasDie State.reset 4 = true ∧ State.reset.phase ≠ .noInput ∧
    State.reset.pins.supplied = true := by decide

theorem witness_FeedFaultsGiveOneFeedModeOrLossOfInput :
    State.reset.phase = .running ∧ oneFeed State.reset = false ∧ (feedOf State.reset (!false)).carries = true ∧
    (feedOf State.reset false).cond ≠ .overOpen ∧ (feedOf State.reset false).carries = true ∧
    (let s := updFeed State.reset true (fun f => { f with cond := .absent })
     s.phase = .running ∧ oneFeed s = false ∧ (feedOf s (!false)).carries = false ∧ (feedOf s false).carries = true) := by
  decide

theorem witness_FeedReturnsPowerAndFullCap :
    (feedOf State.reset true).cond ≠ .overOpen ∧ State.reset.phase ≠ .noInput ∧
    (let s := { State.reset with phase := .noInput, well := { State.reset.well with power := .bank } }
     (feedOf s true).cond ≠ .overOpen ∧ s.phase = .noInput ∧ (feedOf s true).latched = false ∧ hasWell s = true ∧
       s.well.power = .bank) ∧
    (let s := updFeed State.reset true (fun f => { f with cond := .overOpen })
     (feedOf s true).cond = .overOpen ∧ s.phase ≠ .noInput) ∧
    (let s := State.reset.setRegF (pgPwr 2) 0x200 3 3 1
     live s = true ∧ s.pins.feedA.ok = true ∧ s.pins.feedB.ok = true ∧ oneFeed s = true) ∧
    (⟨.good, 480, true⟩ : Feed).latched = true := by decide

theorem witness_ManagementPathSwitchesToTheCleanOne :
    potemirRuns State.reset = true ∧ (pathOf State.reset true).faulted = false ∧
    (let s := { State.reset with mgmt := { State.reset.mgmt with secActive := true } }
     potemirRuns s = true ∧ s.mgmt.secActive = true ∧ s.mgmt.pri.faulted = false ∧ s.mgmt.sec.faulted = false) := by
  decide

theorem witness_RaisedErrorIsRecordedAndLogged :
    blockAt (pgDlk 9) = some (.dlk, 9) ∧ (errClass .dlk 10).1 = 3 ∧
    (let s := State.reset.setReg (regAddr pgGlb 0x180) 0x80A
     bit 0 (s.reg (regAddr (pgDlk 9) 0x48)) = false ∧ (errClass .dlk 0).1 ≠ 3 ∧
       bit 11 (s.reg (regAddr pgGlb 0x180)) = true ∧ suppressed s (pgDlk 9) 0 = false ∧
       bit 10 (s.reg (regAddr pgGlb 0x180)) = false ∧ idxSub s.elog.prod s.elog.cons < 2 ^ s.regF pgGlb 0x180 4 0) ∧
    (let s := { State.reset.setReg (regAddr pgGlb 0x180) 0x80A with elog := ⟨1024, 0, 0, 0, [], []⟩ }
     2 ^ s.regF pgGlb 0x180 4 0 ≤ idxSub s.elog.prod s.elog.cons) := by decide

theorem witness_RegisterAccessRulesHold :
    live State.reset = true ∧ inAperture 0x7F0030940048 = true ∧ refusesAccess .device true = true ∧
    refusesAccess (.hart 0) true = false ∧ presentPage State.reset (pageOf 0x7F0030940048) = some (.cu, 37) ∧
    offOf 0x7F0030940040 = 0x40 ∧ offOf 0x7F0030940048 = 0x48 ∧ 0x7F0030940041 % 8 ≠ 0 ∧
    presentPage State.reset (pageOf 0x7F00A0000000) = none ∧ inAperture 0x7F00FFFFFFFF = true ∧
    offOf 0x7F0030940044 % 8 ≠ 0 ∧ offOf 0x7F00309400F8 % 8 = 0 ∧ offOf 0x7F00309400F8 < 0x100 := by decide

theorem witness_ControlWriteFollowsGenerationRules :
    live State.reset = true ∧ presentPage State.reset (pgCu 1 37) = some (.cu, 37) ∧
    fld 9 8 (0x101 : W64) ≠ 0 ∧ nbit (fld 9 8 (0x101 : W64) - 1) (Block.ver .cu) = false ∧
    fld 9 8 (0x201 : W64) ≠ 0 ∧ nbit (fld 9 8 (0x201 : W64) - 1) (Block.ver .cu) = true ∧
    State.reset.en (pgCu 1 37) = false ∧ workPending State.reset (pgCu 1 37) = 0 ∧
    bit 0 (State.reset.reg (regAddr pgGlb 0x138)) = false := by decide

theorem witness_DrainCommandMovesDstate :
    live State.reset = true ∧ presentPage State.reset (pgPmp 0 575) = some (.pmp, 575) ∧
    Block.workCarrying .pmp = true ∧ State.reset.dst (pgPmp 0 575) = 0 ∧
    (State.reset.setDst (pgPmp 0 575) 1).dst (pgPmp 0 575) = 1 ∧
    (State.reset.setDst (pgPmp 0 575) 2).dst (pgPmp 0 575) = 2 ∧
    (State.reset.setDst (pgPmp 0 575) 3).dst (pgPmp 0 575) = 3 ∧
    live (State.reset.setDst (pgPmp 0 575) 3) = true ∧ presentPage (State.reset.setDst (pgPmp 0 575) 3) (pgPmp 0 575) = some (.pmp, 575) ∧
    (let a := regAddr (pgPmp 0 575) 0xA0
     inAperture a = true ∧ pageOf a = pgPmp 0 575 ∧ offOf a = 0xA0 ∧ fld 1 0 (0 : W64) = 0) := by decide

theorem witness_StoppedBlockHasFinishedItsWork :
    (let s := State.reset.setDst (pgCme 1) 1
     live s = true ∧ presentPage s (pgCme 1) = some (.cme, 0) ∧ s.dst (pgCme 1) = 1 ∧ workPending s (pgCme 1) = 0) ∧
    (let s := (State.reset.setDst (pgCme 1) 3).setCme 1 ⟨[⟨1, 0, 0, 0, 0, false, false, some (7, 9), none⟩], [], 0, 0⟩
     live s = true ∧ presentPage s (pgCme 1) = some (.cme, 0) ∧ s.dst (pgCme 1) = 3 ∧
       (s.cme 1).reqs = [⟨1, 0, 0, 0, 0, false, false, some (7, 9), none⟩]) ∧
    (let s := (State.reset.setDst (pgCme 1) 1).setCme 1 ⟨[⟨1, 0, 0, 0, 0, false, false, some (7, 9), none⟩], [], 0, 0⟩
     s.dst (pgCme 1) = 1 ∧ workPending s (pgCme 1) ≠ 0) ∧
    presentPage (State.reset.setDst (pgHar 0 15) 3) (pgHar 0 15) = some (.har, 15) := by decide

theorem witness_EventCountersSelectCountAndAnnounce :
    live State.reset = true ∧ hasCounter State.reset (pgDie 0) 63 = true ∧ selOk State.reset (pgCu 0 0) 3 0x30001 = true ∧
    hasCounter State.reset (pgCu 0 0) 3 = true ∧ selOk State.reset (pgCu 0 0) 3 0x10000 = false ∧
    (let s := (State.reset.setReg (evselAddr (pgCu 0 0) 3) 0x30001).setEvcnt (evcntAddr (pgCu 0 0) 3) 0xFFFFFFFFFFFF
     live s = true ∧ presentPage s (pgCu 0 0) = some (.cu, 0) ∧ hasCounter s (pgCu 0 0) 3 = true ∧
       bit 16 (s.reg (evselAddr (pgCu 0 0) 3)) = true ∧ bit 4 (s.reg (regAddr (pgCu 0 0) 0x30)) = false ∧
       fld 15 0 (s.reg (evselAddr (pgCu 0 0) 3)) ≠ 0 ∧ 2 ^ 48 ≤ fld 47 0 (s.evcnt (evcntAddr (pgCu 0 0) 3)) + 1 ∧
       bit 63 (s.evcnt (evcntAddr (pgCu 0 0) 3)) = false ∧ bit 17 (s.reg (evselAddr (pgCu 0 0) 3)) = true) ∧
    (let s := { State.reset.setReg (regAddr pgGlb 0x1C0) 1 with ev := ⟨[], 0, true, true⟩ }
     live s = true ∧ s.ev.holdoff = true ∧ s.ev.owed = true ∧ bit 0 (s.reg (regAddr pgGlb 0x1C0)) = true) ∧
    (let s := { State.reset with ev := ⟨[], 0, true, false⟩ }
     live s = true ∧ s.ev.holdoff = true ∧ s.ev.owed = false) ∧
    (let s := State.reset.setReg (regAddr pgGlb 0x138) 1
     live s = true ∧ presentPage s (pgCu 0 0) = some (.cu, 0) ∧ bit 0 (s.reg (regAddr pgGlb 0x138)) = true) := by
  decide

theorem witness_DieLinkSharesObeyTheSlotRule :
    live State.reset = true ∧ hasDlk State.reset 9 = true ∧
    bit 16 (State.reset.reg (regAddr (pgDlk 9) 0x100)) = false ∧ 1 ≤ fld 15 12 (0x11348 : W64) ∧
    fld 15 12 (0x11348 : W64) + fld 11 8 (0x11348 : W64) + fld 7 4 (0x11348 : W64) + fld 3 0 (0x11348 : W64) = 16 ∧
    fld 15 12 (0x0448 : W64) = 0 := by decide

theorem witness_DieLinkDeliversEachFlitOnce :
    (let s := State.reset.setReg (regAddr (pgDlk 3) 0x108) 0x100061
     live s = true ∧ hasDlk s 3 = true ∧ bit 0 (s.reg (regAddr (pgDlk 3) 0x108)) = true ∧
       armedAt s (pgDlk 3) 8 = false ∧ (s.dlink 3).rxSeq = 0) := by decide

/-- Queue 5 with one accepted NOP descriptor at index 3, its second byte as given. -/
def oneNop (flags : Byte) : State :=
  let d : Desc := ⟨3, [0, flags] ++ List.replicate 62 0, 0, .accepted, 0, 0, []⟩
  State.reset.setQueue 5 { QueueSt.idle with fetch := 4, pidx := 4, inflight := [d] }

theorem witness_FinishedDescriptorPostsItsRecord :
    (descAt (oneNop 3) 5 3).isSome = true ∧ ((oneNop 3).queue 5).waiting = [] ∧ cqRoom (oneNop 3) 5 = true ∧
    bit 12 ((oneNop 3).reg (regAddr (pgQue 5) 0x100)) = false ∧ bit 0 ((oneNop 3).reg (regAddr pgGlb 0x1C0)) = false ∧
    (descAt (oneNop 3) 5 3).all (fun d => !d.cflush) = true ∧ (descAt (oneNop 0x23) 5 3).all (fun d => d.cflush) = true ∧
    (let s := (oneNop 3).setQueue 5 { (oneNop 3).queue 5 with cprod := 65536 }
     (descAt s 5 3).isSome = true ∧ cqRoom s 5 = false) := by decide

theorem witness_DoorbellsAndRingIndicesFollowTheirRules :
    (let s := State.reset.setReg (regAddr (pgQue 4095) 0x30) 0x301
     live s = true ∧ 4095 < 4096 ∧ s.en (pgQue 4095) = true ∧ idxSub (fld 31 0 1) (s.queue 4095).fetch ≤ 2 ^ sqlog s 4095 ∧
     idxSub (fld 31 0 1) (s.queue 4095).pidx < 2 ^ 31 ∧ 2 ^ sqlog s 4095 < idxSub (fld 31 0 0xFFFFFFFF) (s.queue 4095).fetch ∧
     idxSub (s.queue 4095).cprod (fld 31 0 0) ≤ 2 ^ cqlog s 4095 ∧ (s.queue 4095).waiting = [] ∧
     2 ^ cqlog s 4095 < idxSub (s.queue 4095).cprod (fld 31 0 1)) ∧
    State.reset.en (pgQue 0) = false ∧ State.reset.dst (pgQue 0) ≠ 2 ∧
    (let s := State.reset.setDst (pgQue 0) 2
     live s = true ∧ s.dst (pgQue 0) = 2 ∧ idxSub (fld 31 0 0) (s.queue 0).fetch ≤ idxSub (s.queue 0).pidx (s.queue 0).fetch) := by
  decide

/-- An enabled queue 5 with one descriptor to fetch, whose second byte in memory is as given. -/
def toFetch (flags : Byte) (rereads : Nat) : State :=
  (((State.reset.setReg (regAddr (pgQue 5) 0x30) 0x301).setReg (regAddr (pgQue 5) 0x108) 0x10000).setByte 0x10001 flags).setQueue 5
    { QueueSt.idle with pidx := 1, rereads := rereads }

theorem witness_QueueFetchAcceptsCurrentDescriptors :
    (∀ f ∈ [(0 : Byte), 3, 4], ∀ r ∈ [0, 1, 2, 4, 255], (let s := toFetch f r
      live s = true ∧ mayFetch s 5 = true ∧ s.elog.armed = [] ∧
      (homeRead (disarm s (pgQue 5) 8) 7 (descPa s 5 0) 64).2.1 = false)) ∧
    (let s := toFetch 3 0
     let b := (homeRead (disarm s (pgQue 5) 8) 7 (descPa s 5 0) 64).1
     descCurrent s 5 0 b = true ∧ descOk b = true) ∧
    (let s := toFetch 0 0
     let b := (homeRead (disarm s (pgQue 5) 8) 7 (descPa s 5 0) 64).1
     descCurrent s 5 0 b = true ∧ descOk b = false) ∧
    (let s := toFetch 4 255
     let b := (homeRead (disarm s (pgQue 5) 8) 7 (descPa s 5 0) 64).1
     descCurrent s 5 0 b = false ∧ s.regF (pgQue 5) 0x138 7 0 ≤ (s.queue 5).rereads) ∧
    (let s := toFetch 4 1
     (s.queue 5).rereads < s.regF (pgQue 5) 0x138 7 0) := by decide +kernel

/-- Queue 5 with one descriptor of the bytes given at index 3. -/
def oneDesc (bytes : List Byte) (stage : DescStage) : State :=
  let d : Desc := ⟨3, bytes ++ List.replicate (64 - bytes.length) 0, 0, stage, 0, 0, []⟩
  State.reset.setQueue 5 { QueueSt.idle with fetch := 4, pidx := 4, inflight := [d] }

/-- The descriptor at index 3 of queue 5 starts with an opcode. -/
def startsB (s : State) (opc : Nat) : Bool :=
  match descAt s 5 3 with
  | some d => live s && decide (d.opc = opc) && mayStart s 5 d && !inSump s (descRq s 5 d).waiter
  | none => false

theorem startsB_iff (s : State) (opc : Nat) (h : startsB s opc = true) : ∃ d, Starts s 5 3 opc d := by
  unfold startsB at h
  cases hd : descAt s 5 3 with
  | none => simp [hd] at h
  | some d =>
    simp only [hd, Bool.and_eq_true, decide_eq_true_eq, Bool.not_eq_true'] at h
    exact ⟨d, h.1.1.1, hd, h.1.1.2, h.1.2, h.2⟩

/-- The bytes of a CMEOP: operation and targets 0xD (CLEAN of both), UNIT 0x3FF, DIEMASK 1. -/
def cmeopBytes (opByte mask : Byte) : List Byte :=
  [0x18, 3] ++ List.replicate 38 0 ++ [opByte, 0, 0xFF, 3, mask]

theorem witness_SimpleDescriptorsTakeTheirEffect :
    startsB (oneNop 3) 0x00 = true ∧ startsB (oneDesc (cmeopBytes 0xD 1) .accepted) 0x18 = true ∧
    (descAt (oneDesc (cmeopBytes 0xD 1) .accepted) 5 3).all (fun d =>
      decide (d.op 40 1 % 4 = 1 ∧ maskBits 8 (d.op 44 1) = [0] ∧ d.op 42 2 = 0x3FF)) = true ∧
    (descAt (oneDesc (cmeopBytes 0xE 4) .accepted) 5 3).all (fun d =>
      decide (d.op 40 1 % 4 = 2) && (maskBits 8 (d.op 44 1)).any (fun x => !hasCdie State.reset x)) = true ∧
    startsB (oneDesc [0x1F, 3] .accepted) 0x1F = true ∧ (oneDesc [0x1F, 3] .accepted).job 0 = none ∧
    (let s := { oneDesc [0x1F, 3] .started with pwr := { State.reset.pwr with hintMsgs := [(4, ⟨0, 2, 0, 9⟩, 5, 3)] } }
     live s = true ∧ (s.pwr.hintMsgs.find? (fun m => m.1 == 4)).isSome = true ∧
       (descAt s 5 3).all (fun x => decide (x.opc = 0x1F ∧ x.stage = .started ∧ x.waits ≤ 1) && !x.cflush) = true) := by
  decide

theorem witness_LoadCreatesACheckedJob :
    startsB (oneDesc ([1, 3] ++ List.replicate 38 0 ++ [0, 0, 1]) .accepted) 0x01 = true ∧ headerOk [] = false := by
  decide

/-- A job of one station without conduits, in a state, of which 5 steps are admitted. -/
def aStation : Stn :=
  ⟨⟨0x14, 0, 1, 0, 0, 0, [], [], 0, 0, 1, false, [], 3⟩, 0, false, [], none⟩
def aJob (st : Nat) : Job :=
  { aspace := 0, arena := 0, asize := 0, queue := 5, seed := 0, s0 := 0, admitted := 5, low := 0, jstate := st,
    fsid := none, detreq := false, steprec := false, cuNeed := 0, diemask := 1, begun := [], stns := [aStation],
    cnds := [], digest := [], version := 3, size := 256, code := [], dets := [], defers := [], digs := [], regen := none }

/-- Job 0 in a state, and a descriptor of the bytes given at index 3 of queue 5. -/
def jobDesc (st : Nat) (bytes : List Byte) (stage : DescStage) : State := (oneDesc bytes stage).setJob 0 (some (aJob st))

theorem witness_JobStartAndAdmitSetItsSteps :
    startsB (oneDesc [2, 3] .accepted) 2 = true ∧ (oneDesc [2, 3] .accepted).job 0 = none ∧
    startsB (jobDesc 0 [2, 3] .accepted) 2 = true ∧ ((jobDesc 0 [2, 3] .accepted).job 0).isSome = true ∧
    (aJob 0).jstate = 0 ∧ wantsDetm (jobDesc 0 [2, 3] .accepted) (aJob 0) = false ∧
    startsB (jobDesc 1 [2, 3] .accepted) 2 = true ∧ (aJob 1).jstate ≠ 0 ∧
    wantsDetm State.reset { aJob 0 with detreq := true } = true ∧
    startsB (jobDesc 1 [3, 3] .accepted) 3 = true ∧ startsB (jobDesc 3 [3, 3] .accepted) 3 = true ∧
    startsB (jobDesc 5 [3, 3] .accepted) 3 = true ∧ (aJob 1).regen = none ∧ (aJob 1).highOr + 0 < 2 ^ 64 ∧
    2 ^ 64 ≤ (aJob 1).highOr + (2 ^ 64 - 5) ∧
    (descAt (oneDesc ([2, 3] ++ List.replicate 30 0 ++ [0, 0, 0, 0, 0, 0, 0, 0x80, 0, 0, 0, 0, 0, 0, 0, 0x80]) .accepted) 5 3).all
      (fun d => decide (2 ^ 64 ≤ d.op 32 8 + d.op 40 8)) = true := by decide

/-- The bytes of an STNCTL or JOBCTL of job 0, station 0 with a CTL. -/
def ctlBytes (opc ctl : Byte) : List Byte := [opc, 3] ++ List.replicate 26 0 ++ [ctl]

/-- Job 0 RUNNING with its station in a state, and an STNCTL at index 3 of queue 5. -/
def stnDesc (dst : Nat) (ctl : Byte) : State :=
  (oneDesc (ctlBytes 4 ctl) .accepted).setJob 0 (some ((aJob 1).setStn 0 { aStation with dst := dst }))

theorem witness_StationControlFollowsItsTable :
    (∀ ctl ∈ [(1 : Byte), 2, 3], ∀ dst ∈ [0, 1, 2, 3], startsB (stnDesc dst ctl) 4 = true ∧
      (descAt (stnDesc dst ctl) 5 3).all (fun d => decide (d.op 28 1 = ctl.toNat ∧ d.op 24 1 % 64 = 0 ∧ d.op 26 2 = 0)) = true ∧
      (((stnDesc dst ctl).job 0).bind (fun j => j.stn 0)).all (fun st => decide (st.dst = dst)) = true ∧
      stnItems (stnDesc dst ctl) 0 0 = []) ∧
    startsB (oneDesc (ctlBytes 4 1) .accepted) 4 = true ∧ (oneDesc (ctlBytes 4 1) .accepted).job 0 = none := by
  decide +kernel

theorem witness_JobControlDrainsAbortsAndResumes :
    startsB (jobDesc 1 (ctlBytes 5 1) .accepted) 5 = true ∧ startsB (jobDesc 3 (ctlBytes 5 1) .accepted) 5 = true ∧
    startsB (jobDesc 0 (ctlBytes 5 2) .accepted) 5 = true ∧ startsB (jobDesc 5 (ctlBytes 5 2) .accepted) 5 = true ∧
    startsB (jobDesc 3 (ctlBytes 5 3) .accepted) 5 = true ∧ startsB (jobDesc 1 (ctlBytes 5 3) .accepted) 5 = true ∧
    startsB (oneDesc (ctlBytes 5 2) .accepted) 5 = true ∧ (aJob 5).stns.all (fun x => !x.fault) = true ∧
    (∀ ctl ∈ [(1 : Byte), 2, 3], (descAt (jobDesc 1 (ctlBytes 5 ctl) .accepted) 5 3).all (fun d => decide (d.op 28 1 = ctl.toNat)) = true) ∧
    jobItems (jobDesc 3 (ctlBytes 5 3) .accepted) 0 = [] ∧
    (let s := (oneDesc (ctlBytes 5 2) .accepted).setJob 0 (some { aJob 1 with stns := [] })
     startsB s 5 = true ∧ jobItems s 0 = [] ∧ s.pair = none) ∧
    (let s := State.reset.setJob 0 (some { aJob 2 with low := 5 })
     live s = true ∧ (s.job 0).all (fun j => decide (j.jstate = 2 ∧ j.admitted ≤ j.low)) = true) := by decide +kernel

theorem witness_QueryUnloadAndSyncReportTheJob :
    startsB (oneDesc [6, 3] .accepted) 6 = true ∧ startsB (oneDesc [7, 3] .accepted) 7 = true ∧
    startsB (oneDesc [8, 3] .accepted) 8 = true ∧ (oneDesc [8, 3] .accepted).job 0 = none ∧
    startsB (jobDesc 1 [6, 3] .accepted) 6 = true ∧ startsB (jobDesc 3 [7, 3] .accepted) 7 = true ∧
    startsB (jobDesc 1 [7, 3] .accepted) 7 = true ∧ startsB (jobDesc 1 [8, 3] .accepted) 8 = true ∧
    startedOn (jobDesc 3 [7, 3] .accepted) [8] 0 = [] ∧ startedOn (jobDesc 3 [7, 3] .accepted) [4] 0 = [] ∧
    (aJob 1).s0 + (aJob 1).low ≤ 0 ∧ 0 < (aJob 1).highOr ∧ (0 : Nat) < { aJob 1 with low := 1 }.s0 + { aJob 1 with low := 1 }.low ∧
    (aJob 1).highOr ≤ 5 ∧ (rqWrite (jobDesc 1 [6, 3] .accepted) (descRq (jobDesc 1 [6, 3] .accepted) 5 ⟨3, [], 0, .accepted, 0, 0, []⟩) 0 [1]).1 = false ∧
    startsB (jobDesc 1 [6, 3] (.writing [1])) 6 = true := by
  decide +kernel

/-- Job 0, RUNNING, with one station of a kind and parameters. -/
def kindJob (kind : Nat) (param : List Byte) : Job :=
  { aJob 1 with stns := [{ aStation with df := { aStation.df with kind := kind, param := param, placeX := 1 } }] }

def kindState (kind : Nat) (param : List Byte) : State := State.reset.setJob 0 (some (kindJob kind param))

/-- Its station. -/
def kindStn (kind : Nat) (param : List Byte) : Stn := { aStation with df := { aStation.df with kind := kind, param := param, placeX := 1 } }

theorem witness_DispatchPlacesItemByItsKind_copy :
    live (enable (kindState 0x14 []) (uCu 0)) = true ∧ mayDispatch (enable (kindState 0x14 []) (uCu 0)) 0 (kindJob 0x14 []) 0 (kindStn 0x14 []) 0 0 = true ∧
    (unitDie (enable (kindState 0x14 []) (uCu 0)) (kindStn 0x14 []).df 0).isSome = true ∧
    (placeOn (enable (kindState 0x14 []) (uCu 0)) 0 0 0 1 0).isSome = true ∧ cdieAwake (enable (kindState 0x14 []) (uCu 0)) = true := by decide +kernel

theorem witness_DispatchPlacesItemByItsKind_engines :
    mayDispatch (kindState 0x14 []) 0 (kindJob 0x14 []) 0 (kindStn 0x14 []) 5 0 = false ∧
    (let s0 := enable (kindState 0x10 []) (pgWdl 0 0)
     let s := { s0 with well := { s0.well with ready := true } }
     mayDispatch s 0 (kindJob 0x10 []) 0 (kindStn 0x10 []) 0 0 = true ∧ s.well.ready = true ∧
       wdWindow (kindJob 0x10 []) (kindStn 0x10 []).df 0 0 = true ∧ wdlFor s 1 (0, 0) = some (0, 0) ∧ s.accepts (pgWdl 0 0) = true) ∧
    mayDispatch (kindState 0x12 []) 0 (kindJob 0x12 []) 0 (kindStn 0x12 []) 0 0 = true ∧ (kindState 0x12 []).flow 0 = none := by
  decide +kernel

/-- Item 7 of job 0, a COPY item without tiles, running on unit 0. -/
def anItem : Item :=
  { job := 0, sid := 0, step := 0, idx := 0, seed := 0, ord0 := 0, nord := 0, kind := 0x14, lsSteps := 0, stepdep := false,
    ver := 3, die := 0, home := 0, owner := 0, islot := some 0, steals := 0, attempt := 0, jseq := 0, tagsOk := true,
    issued := 0, wrote := [], computed := [], log := [], atomsSent := false, err := none }

def itemState (it : Item) : State := (State.reset.setJob 0 (some (aJob 1))).setItem 7 (some it)

theorem witness_CommitPublishesAndErrorFailsTheJob :
    live (itemState anItem) = true ∧ itemDone (itemState anItem) 7 anItem aStation.df = true ∧
    itemDone (itemState anItem) 7 { anItem with kind := 1, nord := 1 } { aStation.df with outs := [some 0] } = false ∧
    itemWaits (itemState anItem) 7 = false ∧
    unacked (itemState anItem) (fun p => p == .rq (ridItem 7)) = false ∧ tilesOut (itemState anItem) 7 = false ∧
    advances (itemState anItem) 0 = true ∧ unitHalting (itemState anItem) 0 = false ∧ (itemState anItem).fab.flows = [] ∧
    defersFit (itemState anItem) [] = true ∧ (lastRead (aJob 1) aStation anItem) = [] ∧
    (pubTiles (aJob 1) aStation.df anItem (fun _ => (64, 64, false))).length = 0 ∧
    ((itemState anItem).cu 0).mxq.any (fun o => o.item == 7) = false ∧
    ((itemState anItem).queue 5).waiting = [] ∧
    idxSub ((itemState anItem).queue 5).cprod ((itemState anItem).queue 5).ccons + 2 ≤ 2 ^ cqlog (itemState anItem) 5 := by
  decide +kernel

/-- Item 7 waits on unit u; units 0 and 1 take work and may steal from a unit with one queued item. -/
def queuedState (owner : Nat) : State :=
  let s := itemState { anItem with islot := none, tagsOk := false, owner := owner }
  let s1 := enable (enable s (uCu 0)) (uCu 1)
  (s1.setReg (regAddr (uCu 0) 0x108) 0x11003).setReg (regAddr (uCu 1) 0x108) 0x11003

theorem witness_QueuedItemsStartAndAreStolen_start :
    let s := queuedState 0
    live s = true ∧ advances s 0 = true ∧ runningOn s 0 = [] ∧ s.accepts (uCu 0) = true ∧ unitHalting s 0 = false ∧
    armedAt s (uCu 0) 8 = false ∧ armedAt s (uCu 0) 11 = false ∧
    (takenFirst ((queuedOn s 0).filter (fun p => couldStart s 0 p.2))).isSome = true ∧
    cuHosted 2 = true ∧ ((0, 0) ∈ (freeResidents s 0 1).zipIdx) := by decide +kernel

theorem witness_QueuedItemsStartAndAreStolen_steal :
    let s := queuedState 1
    live s = true ∧ isIdle s 0 = true ∧ stealEn s 0 = true ∧ farEn s 0 = true ∧ (s.cu 0).steal = 0 ∧
    (nearUnits s 0).any (fun v => (stealFrom s 0 v (stealMin s 0)).isSome) = true ∧
    (let z := enable (State.reset.setReg (regAddr (uCu 0) 0x108) 0x11003) (uCu 0)
     isIdle z 0 = true ∧ (nearUnits z 0).all (fun w => (stealFrom z 0 w (stealMin z 0)).isNone) = true) ∧
    inService s 0 = true ∧ 10 * 10 ≤ s.regF (uCu 0) 0x100 39 32 * 1024 ∧ isIdle State.reset 0 = false := by decide +kernel

theorem witness_QueuedItemsStartAndAreStolen_far :
    let s0 := queuedState 100
    let s := (enable s0 (uCu 100)).setCu 0 { s0.cu 0 with steal := 1 }
    isIdle s 0 = true ∧ stealEn s 0 = true ∧ farEn s 0 = true ∧ (s.cu 0).steal = 1 ∧
    (farVictim s 0).all (fun v => (stealFrom s 0 v (farMin s 0)).isSome) = true ∧ (farVictim s 0).isSome = true := by
  decide +kernel

theorem witness_UnitsRetireAndSparesEnter_retire :
    let s := queuedState 0
    live s = true ∧ siteHere s 0 = true ∧ sstate s 0 = 1 ∧ ccKeys s 0 = [] ∧ armedAt s (uCu 0) 11 = false ∧
    (s.cu 0).rcause = 0 ∧ (unitItems s 0).length = 1 ∧ ((dealOrder s 0).find? (canPlace s)).isSome = true ∧
    unitItems State.reset 0 = [] ∧ (0xA5 : W64).toNat % 256 = 0xA5 ∧ (0xA4 : W64).toNat % 256 ≠ 0xA5 ∧
    (let f := ((enable (enable (itemState anItem) (uCu 0)) (uCu 1))).setCu 0 { CuSt.reset with failed := true, rcause := 2 }
     (unitItems f 0).length = 1 ∧ (f.cu 0).keep = false ∧ ((dealOrder f 0).find? (canPlace f)).isSome = true ∧
       (buddy f 0).all (fun b => !(f.cu b).failed) = true) := by decide +kernel

theorem witness_UnitsRetireAndSparesEnter_spares :
    ((sitesIn State.reset 0 0).take 1).any (fun u =>
      let s := State.reset.setCu u { CuSt.reset with testing := some none }
      decide ((s.cu u).testing = some none) && siteHere s u && decide (sstate s u = 0)) = true ∧
    hasCdie State.reset 0 = true ∧ fld 5 0 (32 : W64) ≤ 32 ∧ State.reset.jobs = [] ∧ 32 < fld 5 0 (33 : W64) ∧
    (let s1 := State.reset.setRegF (pgDie 0) 0x118 5 0 32
     serviceTarget s1 0 < (sitesIn s1 0 1).length) := by decide +kernel

theorem witness_UnitsRetireAndSparesEnter_silence :
    inService State.reset 0 = true ∧ (State.reset.cu 0).failed = false ∧ armedAt State.reset (uCu 0) 10 = false ∧
    (State.reset.cu 0).silent + 1 < State.reset.regF (pgDie 0) 0x140 31 0 ∧
    State.reset.regF (pgDie 0) 0x140 31 0 ≤ (State.reset.cu 0).silent + 2 ^ 32 := by decide

/-- A flow, OPEN, with its home on X-die 0. -/
def aFlow : FlowSt :=
  { st := 2, hx := 0, echk := 0, pri := 0, aspace := 0, rflow := 1, rnode := 7, swin := 64, rwin := 64, rto := 10, retrymax := 3,
    nxt := 0, una := 0, exp := 0, retries := 0, fcause := 0, credit := none, granted := none, txb := 0, rxb := 0, outq := [],
    sent := [], resend := none, early := [], ackDue := false, nack := none, ctl := [], resps := [], atomResps := [], rx := none,
    ackSent := false, ackGot := false, cmd := none }

theorem witness_UnitsRetireAndSparesEnter_engines :
    (let s := (enable (enable State.reset (pgHar 0 0)) (pgHar 0 1)).setFlow 3 aFlow
     harRuns s 0 0 = true ∧ (s.flow 3).isSome = true ∧
       harAny { s with fab := { s.fab with harDead := s.fab.harDead ++ [0] } } 0 = true) ∧
    (let it : Item := { anItem with kind := 0x10, owner := 1 }
     let s := (State.reset.setJob 0 (some (kindJob 0x10 []))).setItem 7 (some it)
     hasWell s = true ∧ wdlFailed s (0, 1) = false ∧ (engineItems s 0x10 1).length = 1 ∧
       wdlFor { s with fab := { s.fab with wdlDead := [1] } } 1 (0, 1) = some (0, 0)) := by decide +kernel

/-- A program of one instruction word: a header of 16 bytes with ENTRY 16, NINSTR 1, and the word. -/
def oneInstr (w : Nat) : List Byte := leBytes 8 0 ++ leBytes 4 16 ++ leBytes 4 1 ++ leBytes 8 w

/-- Resident group 0 of unit 0 runs the word for item 7: registers 0 to 31, all threads live. -/
def aGroup : Group := ⟨7, 0, 32, 0, 0xFFFFFFFF, 0xFFFFFFFF, [], 0, false, .none⟩
def vecItem : Item := { anItem with kind := 2, lsSteps := 1 }
def groupState (op : Nat) (f : GFields) : State :=
  let d : StnDef := { aStation.df with kind := 2, lsSteps := 1, codeOff := 0, codeLen := 24, param := [1] }
  let j : Job := { aJob 1 with code := oneInstr (gWord op f), stns := [{ aStation with df := d }] }
  (((State.reset.setJob 0 (some j)).setItem 7 (some vecItem)).setGrp 0 0 (some aGroup))

/-- Issues, as a test. -/
def issuesB (s : State) (u h op : Nat) (f : GFields) (use : GUse) (g : Group) (it : Item) : Bool :=
  live s && decide (h < 64) && decide (s.grp u h = some g) && decide (s.item g.item = some it) && decide (it.kind = 2) &&
  canIssue s u h g it && decide (f.d < 256) && decide (f.imm < 2 ^ 24) &&
  decide (wordAt (programOf s it) g.pc = some (gWord op f)) && !use.illegal g.regs f && !use.waits (s.cu u) h f

theorem issuesB_iff (s : State) (u h op : Nat) (f : GFields) (use : GUse) (g : Group) (it : Item) :
    issuesB s u h op f use g it = true ↔ Issues s u h op f use g it := by
  simp only [issuesB, Issues, Bool.and_eq_true, decide_eq_true_eq, Bool.not_eq_true', and_assoc]

theorem witness_IntegerInstructionsWriteTheirResult :
    (∀ op ∈ [1, 2, 3, 4, 5, 6, 7, 8, 9, 10, 11], issuesB (groupState op ⟨31, 31, 0, 0, 0⟩) 0 0 op ⟨31, 31, 0, 0, 0⟩ useDab aGroup vecItem = true) ∧
    (∀ op ∈ [12, 14], issuesB (groupState op ⟨0, 31, 0, 0, 0xFFFFFF⟩) 0 0 op ⟨0, 31, 0, 0, 0xFFFFFF⟩ useDai aGroup vecItem = true) ∧
    issuesB (groupState 13 ⟨3, 0, 0, 0, 0x800000⟩) 0 0 13 ⟨3, 0, 0, 0, 0x800000⟩ { d := true, imm := true } aGroup vecItem = true := by
  decide +kernel

theorem witness_FloatInstructionsWriteTheirResult :
    (∀ op ∈ [0x10, 0x11, 0x13, 0x14, 0x15, 0x16], issuesB (groupState op ⟨1, 1, 31, 0, 0⟩) 0 0 op ⟨1, 1, 31, 0, 0⟩ useDab aGroup vecItem = true) ∧
    issuesB (groupState 0x12 ⟨1, 1, 2, 31, 0⟩) 0 0 0x12 ⟨1, 1, 2, 31, 0⟩ { d := true, a := true, b := true, c := true } aGroup vecItem = true ∧
    (∀ op ∈ [0x17, 0x18, 0x19], issuesB (groupState op ⟨0, 1, 0, 0, 0⟩) 0 0 op ⟨0, 1, 0, 0, 0⟩ useDa aGroup vecItem = true) ∧
    (∀ op ∈ [0x1A, 0x1B], ∀ imm ∈ [0x01, 0x0E, 0x0F, 0x301],
      issuesB (groupState op ⟨0, 1, 0, 0, imm⟩) 0 0 op ⟨0, 1, 0, 0, imm⟩ useDai aGroup vecItem = true) ∧
    (fmtKind 0x0E).isSome = true ∧ fmtKind 0x0F = none ∧ 0x301 / 256 % 4 = 3 ∧ dec32 0x7F800001 = .nan ∧ dec32 0x7F800000 ≠ .nan := by
  decide +kernel

theorem witness_LocalStoreInstructionsReadAndWriteTheSlot :
    issuesB (groupState 0x20 ⟨1, 2, 0, 2, 64⟩) 0 0 0x20 ⟨1, 2, 0, 2, 64⟩ { d := true, a := true, codes := some 3, imm := true } aGroup vecItem = true ∧
    issuesB (groupState 0x21 ⟨0, 2, 3, 0, 131071⟩) 0 0 0x21 ⟨0, 2, 3, 0, 131071⟩ { a := true, b := true, codes := some 3, imm := true } aGroup vecItem = true ∧
    issuesB (groupState 0x25 ⟨1, 2, 3, 7, 4⟩) 0 0 0x25 ⟨1, 2, 3, 7, 4⟩ { d := true, a := true, b := true, codes := some 8, imm := true } aGroup vecItem = true ∧
    slotBase vecItem + slotSize vecItem ≤ 2 ^ 23 ∧
    (∀ k ∈ aGroup.threads, lsAddr (groupState 0x20 ⟨1, 2, 0, 2, 64⟩) 0 0 ⟨1, 2, 0, 2, 64⟩ k = 64 ∧ 64 % widthOf 2 = 0 ∧ inSlot vecItem 64 4 = true) ∧
    (∀ k ∈ aGroup.threads, lsAddr (groupState 0x21 ⟨0, 2, 3, 0, 131071⟩) 0 0 ⟨0, 2, 3, 0, 131071⟩ k = 131071 ∧ inSlot vecItem 131071 1 = true) ∧
    inSlot vecItem 131072 4 = false ∧ 131072 % 4 = 0 ∧ 2 % widthOf 2 ≠ 0 := by decide +kernel

/-- A leaf of unit 0's TLB that maps page 0 of space 0 to physical page 0, readable and writable. -/
def aLeaf : TlbEntry := ⟨0, 0, 0, 1, 0xD7⟩

/-- Line 0 whole in unit 0's cache, and its translation. -/
def cachedState (op : Nat) (f : GFields) (held : Bool) : State :=
  let s := (groupState op f).setCu 0 { CuSt.reset with tlb := [aLeaf] }
  if held then s.setCcWay (ccKey 0 0 0) ⟨0, true, List.replicate 4 ⟨true, true, 0, List.replicate 32 1⟩⟩ else s

theorem byAddress_one (p : Nat × Nat) : byAddress [p] = [p] := by simp [byAddress]

/-- The witnesses below give one thread's places; byAddress_one makes them those of the sorted list. -/
theorem witness_MemoryInstructionsUseTheCacheAndTheLog_ldg :
    let f : GFields := ⟨1, 2, 0, 2, 0⟩
    let g := { aGroup with active := 8 }
    let s := (cachedState 0x22 f true).setGrp 0 0 (some g)
    issuesB s 0 0 0x22 f { d := true, pairA := true, codes := some 3, imm := true } g vecItem = true ∧ g.threads = [3] ∧
    (let r := placesOf s 0 (itemSpace s vecItem) 4 .rd [(3, pairAddr s 0 0 f 3)]
     r.1 = [(3, .pa 0)] ∧ r.2.1 = none ∧ ccHits r.2.2 0 0 = true ∧ armedAt r.2.2 (uCu 0) 13 = false) ∧
    (let z := (cachedState 0x22 f false).setGrp 0 0 (some g)
     issuesB z 0 0 0x22 f { d := true, pairA := true, codes := some 3, imm := true } g vecItem = true ∧
       (let r := placesOf z 0 (itemSpace z vecItem) 4 .rd [(3, pairAddr z 0 0 f 3)]
        r.1 = [(3, .pa 0)] ∧ r.2.1 = none ∧ armedAt r.2.2 (uCu 0) 13 = false) ∧
       ccHits z 0 0 = false ∧ (takeMisses z 0 (linesOf [0])).isSome = true) ∧
    (let y := (groupState 0x22 f).setGrp 0 0 (some g)
     (placesOf y 0 (itemSpace y vecItem) 4 .rd [(3, pairAddr y 0 0 f 3)]).1 = [] ∧
     (placesOf y 0 (itemSpace y vecItem) 4 .rd [(3, pairAddr y 0 0 f 3)]).2.1.isSome = true) := by decide +kernel

theorem witness_MemoryInstructionsUseTheCacheAndTheLog_stores :
    (let f : GFields := ⟨0, 2, 4, 2, 8⟩
     let g := { aGroup with active := 8 }
     let s := (cachedState 0x23 f true).setGrp 0 0 (some g)
     issuesB s 0 0 0x23 f { pairA := true, b := true, codes := some 3, imm := true } g vecItem = true ∧ g.threads = [3] ∧
       (let r := placesOf s 0 (itemSpace s vecItem) 4 .wr [(3, pairAddr s 0 0 f 3)]
        r.1 = [(3, .pa 8)] ∧ r.2.1 = none ∧ ccFind r.2.2 0 0 = some 0) ∧ pairAddr s 0 0 f 3 = 8) ∧
    (let f : GFields := ⟨0, 2, 4, 6, 8⟩
     let s := cachedState 0x24 f false
     issuesB s 0 0 0x24 f { pairA := true, b := true, codes := some 7, imm := true } aGroup vecItem = true ∧
       pairAddr s 0 0 f 0 = 8 ∧ vecItem.log.length + aGroup.threads.length ≤ 1024 ∧
       (unitXlat s 0 0 8 4 .at).1 = .pa 8) ∧
    (let f : GFields := ⟨1, 2, 0, 2, 2⟩
     issuesB (cachedState 0x22 f true) 0 0 0x22 f { d := true, pairA := true, codes := some 3, imm := true } aGroup vecItem = true ∧
       pairAddr (cachedState 0x22 f true) 0 0 f 0 % 4 ≠ 0) := by decide +kernel

theorem witness_MemoryInstructionsUseTheCacheAndTheLog_fill :
    let s := State.reset.setCu 0 { CuSt.reset with misses := [⟨0, 1, 1⟩], loads := [⟨0, 1, 4, [(0, .pa 8 8)], []⟩] }
    live s = true ∧ (s.cu 0).misses.find? (fun x => x.line == 0) = some ⟨0, 1, 1⟩ ∧
    (homeReadLine s 1 0 1).1 = false ∧ nbit (8 % 128 / 32) 1 = true := by decide +kernel

theorem witness_CollectiveAndWaitingInstructionsFollowTheirRules_moves :
    issuesB (groupState 0 ⟨0, 0, 0, 0, 0⟩) 0 0 0 ⟨0, 0, 0, 0, 0⟩ {} aGroup vecItem = true ∧
    (let s := (groupState 0 ⟨0, 0, 0, 0, 0⟩).setGrp 0 0 (some { aGroup with pc := 1 })
     canIssue s 0 0 { aGroup with pc := 1 } vecItem = true ∧ wordAt (programOf s vecItem) 1 = none) ∧
    (∀ c ∈ [0, 1, 2], issuesB (groupState 0x26 ⟨0, 0, 0, c, 0⟩) 0 0 0x26 ⟨0, 0, 0, c, 0⟩ { codes := some 3 } aGroup vecItem = true ∧
      loadsDone (groupState 0x26 ⟨0, 0, 0, c, 0⟩) 0 0 = true) ∧
    unacked (groupState 0x26 ⟨0, 0, 0, 2, 0⟩) (fun p => p == .group 0 7 0) = false ∧
    unacked ((groupState 0x26 ⟨0, 0, 0, 2, 0⟩).setFlow 3 { aFlow with outq := [⟨1, 0, 0, 4, [0, 0, 0, 0], .group 0 7 0⟩] }) (fun p => p == .group 0 7 0) = true := by
  decide +kernel

theorem witness_CollectiveAndWaitingInstructionsFollowTheirRules_mx :
    (let s := groupState 0x37 ⟨0, 2, 0, 0, 0⟩
     issuesB s 0 0 0x37 ⟨0, 2, 0, 0, 0⟩ { a := true } aGroup vecItem = true ∧ s.vreg 0 0 2 0 = 0 ∧ inSlot vecItem 0 64 = true ∧
       opsOf (s.cu 0) 7 0 < 16 ∧ (s.cu 0).mxq.length < 32 ∧ armedAt s (uCu 0) 9 = false ∧
       (s.setVreg 0 0 2 0 131072).vreg 0 0 2 0 % 64 = 0 ∧ inSlot vecItem 131072 64 = false ∧
       issuesB (s.setVreg 0 0 2 0 131072) 0 0 0x37 ⟨0, 2, 0, 0, 0⟩ { a := true } aGroup vecItem = true) ∧
    (let s := groupState 0x38 ⟨0, 2, 0, 0, 0⟩
     issuesB s 0 0 0x38 ⟨0, 2, 0, 0, 0⟩ { a := true } aGroup vecItem = true ∧ ctrMet 0 0 = true ∧ ctrMet 0 1 = false ∧
       opsOf (s.cu 0) 7 0 < (1 + 65536 - 0) % 65536 ∧
       opsOf ((s.setCu 0 { CuSt.reset with mxq := [⟨7, 0, .desc [], false⟩] }).cu 0) 7 0 = 1) := by decide +kernel

theorem witness_CollectiveAndWaitingInstructionsFollowTheirRules_values :
    issuesB (groupState 0x39 ⟨1, 2, 3, 0, 0⟩) 0 0 0x39 ⟨1, 2, 3, 0, 0⟩ useDab aGroup vecItem = true ∧
    (let g := { aGroup with active := 1 }
     issuesB ((groupState 0x39 ⟨1, 2, 3, 0, 0⟩).setGrp 0 0 (some g)) 0 0 0x39 ⟨1, 2, 3, 0, 0⟩ useDab g vecItem = true) ∧
    (∀ code ∈ [0, 5, 9, 10], issuesB (groupState 0x3A ⟨1, 0, 0, 0, code⟩) 0 0 0x3A ⟨1, 0, 0, 0, code⟩ { d := true, imm := true } aGroup vecItem = true) ∧
    issuesB (groupState 0x3B ⟨0, 0, 0, 0, 77⟩) 0 0 0x3B ⟨0, 0, 0, 0, 77⟩ { imm := true } aGroup vecItem = true ∧
    (let s := groupState 0x01 ⟨32, 0, 0, 0, 0⟩
     canIssue s 0 0 aGroup vecItem = true ∧ wordAt (programOf s vecItem) 0 = some (gWord 1 ⟨32, 0, 0, 0, 0⟩) ∧
       useDab.illegal 32 ⟨32, 0, 0, 0, 0⟩ = true) := by decide +kernel

theorem witness_ControlFlowInstructionsFollowReconvergence_branches :
    issuesB (groupState 0x30 ⟨0, 0, 0, 0, 0xFFFFFF⟩) 0 0 0x30 ⟨0, 0, 0, 0, 0xFFFFFF⟩ { imm := true } aGroup vecItem = true ∧
    (let f : GFields := ⟨0, 2, 0, 3, 2⟩
     let s := (groupState 0x31 f).setVreg 0 0 2 4 1
     issuesB s 0 0 0x31 f { a := true, imm := true, bc := true } aGroup vecItem = true ∧
       maskOf (aGroup.threads.filter (fun k => decide (s.vreg 0 0 2 k ≠ 0))) = 16 ∧
       maskOf (aGroup.threads.filter (fun k => decide ((groupState 0x31 f).vreg 0 0 2 k ≠ 0))) = 0 ∧
       (let g := { aGroup with active := 16, coll := true }
        let z := s.setGrp 0 0 (some g)
        issuesB z 0 0 0x31 f { a := true, imm := true, bc := true } g vecItem = true ∧
          maskOf (g.threads.filter (fun k => decide (z.vreg 0 0 2 k ≠ 0))) = g.active) ∧
       (let g := { aGroup with coll := true }
        issuesB (s.setGrp 0 0 (some g)) 0 0 0x31 f { a := true, imm := true, bc := true } g vecItem = true) ∧
       (let g := { aGroup with stack := List.replicate 31 ⟨true, 0, 1⟩ }
        issuesB (s.setGrp 0 0 (some g)) 0 0 0x31 f { a := true, imm := true, bc := true } g vecItem = true ∧ 30 < g.stack.length)) := by
  decide +kernel

theorem witness_ControlFlowInstructionsFollowReconvergence_joins :
    (∀ op ∈ [0x32, 0x33, 0x35], issuesB (groupState op ⟨0, 0, 0, 0, 0⟩) 0 0 op ⟨0, 0, 0, 0, 0⟩ {} aGroup vecItem = true) ∧
    (∀ op ∈ [0x32, 0x33], ∀ j ∈ [true, false],
      let g := { aGroup with active := 1, stack := [⟨j, 4, 0xFFFFFFFF⟩] }
      issuesB ((groupState op ⟨0, 0, 0, 0, 0⟩).setGrp 0 0 (some g)) 0 0 op ⟨0, 0, 0, 0, 0⟩ {} g vecItem = true ∧
        0xFFFFFFFF &&& g.live ≠ 0 ∧
        (0xFFFFFFFF - (0xFFFFFFFF &&& g.active)) &&& (g.live - (g.live &&& g.active)) ≠ 0) ∧
    (∀ op ∈ [0x33, 0x35, 0x36],
      let g := { aGroup with coll := true }
      issuesB ((groupState op ⟨0, 0, 0, 0, 0⟩).setGrp 0 0 (some g)) 0 0 op ⟨0, 0, 0, 0, 0⟩ {} g vecItem = true) ∧
    (let g := { aGroup with active := 1 }
     issuesB ((groupState 0x35 ⟨0, 0, 0, 0, 0⟩).setGrp 0 0 (some g)) 0 0 0x35 ⟨0, 0, 0, 0, 0⟩ {} g vecItem = true) := by
  decide +kernel

theorem witness_ControlFlowInstructionsFollowReconvergence_barriers :
    (let s := groupState 0x34 ⟨0, 0, 0, 0, 3⟩
     issuesB s 0 0 0x34 ⟨0, 0, 0, 0, 3⟩ { imm := true } aGroup vecItem = true ∧ itemGroups s 0 7 = [(0, aGroup)] ∧
       (let z := s.setGrp 0 1 (some { aGroup with gid := 1 })
        issuesB z 0 0 0x34 ⟨0, 0, 0, 0, 3⟩ { imm := true } aGroup vecItem = true ∧
          (itemGroups z 0 7).any (fun p => decide (p.1 ≠ 0) && !p.2.atBar 3) = true)) ∧
    (let s := ((groupState 0x34 ⟨0, 0, 0, 0, 3⟩).setGrp 0 0 (some { aGroup with wait := .bar 3 })).setGrp 0 1 (some { aGroup with gid := 1 })
     s.liveItems.find? (fun p => p.2.islot == some 0 && p.2.owner == uSite 0 && p.2.die == uDie 0 && onUnit p.2.kind) = some (7, vecItem) ∧
       advances s 0 = true ∧ itemWaits s 7 = false ∧ (itemGroups s 0 7).any (fun p => decide (p.2.wait = .bar 3)) = true ∧
       (itemGroups s 0 7).find? (fun p => !p.2.atBar 3) = some (1, { aGroup with gid := 1 })) := by decide +kernel

/-- A descriptor that passes R135: one block, FP32, one row and one column, tiles in the slot. -/
def goodDesc : List Byte :=
  leBytes 4 0 ++ leBytes 4 16384 ++ leBytes 4 0 ++ leBytes 4 32768 ++ leBytes 4 65536 ++ List.replicate 16 0 ++
  leBytes 2 1 ++ [1, 1] ++ leBytes 2 1 ++ leBytes 2 0 ++ leBytes 2 1 ++ [1, 1, 0, 1, 0, 0, 3, 0, 0, 0] ++ List.replicate 8 0

def mxState (b : List Byte) (started : Bool) : State :=
  (groupState 0 ⟨0, 0, 0, 0, 0⟩).setCu 0 { CuSt.reset with mxq := [⟨7, 0, .desc b, started⟩] }

theorem witness_MatrixOperationsAndMoversMakeTiles_ops :
    (∀ b ∈ [goodDesc, goodDesc.set 37 2], live (mxState b false) = true ∧ advances (mxState b false) 0 = true ∧
      nextOp ((mxState b false).cu 0) = some ⟨7, 0, .desc b, false⟩ ∧ (mxState b false).grp 0 0 = some aGroup ∧
      (mxState b false).item 7 = some vecItem) ∧
    mxCheck (mxDesc goodDesc) (slotBase vecItem) (slotBase vecItem + slotSize vecItem) = none ∧
    mxCheck (mxDesc (goodDesc.set 37 2)) (slotBase vecItem) (slotBase vecItem + slotSize vecItem) = some 4 ∧
    (mxDesc goodDesc).keep = false ∧ armedAt (mxState goodDesc true) (uCu 0) 9 = false ∧
    ((mxState goodDesc true).cu 0).mxq = [⟨7, 0, .desc goodDesc, true⟩] := by decide +kernel

/-- A COPY STORE item of one tile whose tensor has no rows: it reads its input tile and writes nothing. -/
def copyJob : Job :=
  let d : StnDef := { aStation.df with ins := [some 0], param := [1] }
  { aJob 1 with stns := [{ aStation with df := d }], cnds := [⟨⟨0, 0, 0x0A, 1, 1, 1⟩, 0, [], [], [0], 1⟩] }

def copyState : State :=
  let s := enable (enable (State.reset.setJob 0 (some copyJob)) (uCu 0)) (uPmp 0)
  let leaves : List TlbEntry := [⟨0, 0, 16, 16, 0xD7⟩]
  (s.setItem 7 (some { anItem with nord := 1 })).setCu 0 { CuSt.reset with tlb := leaves }

theorem witness_MatrixOperationsAndMoversMakeTiles_mover :
    live copyState = true ∧ advances copyState 0 = true ∧ copyState.accepts (uPmp 0) = true ∧
    ((runningOn copyState 0).find? (fun p => p.2.islot == some 0)).isSome = true ∧
    (let it : Item := { anItem with nord := 1 }
     let st : Stn := copyJob.stns.getD 0 aStation
     let r := moverRq copyState 0 7 it
     let tj : TileJob := ⟨copyJob, st.df, it, 0, 0, 0⟩
     let z := rqReads r tj.ranges copyState
     it.ords.contains 0 = true ∧ gridOf copyJob st.df = (1, 1) ∧ z.1.isSome = true ∧ (z.1.map Prod.snd) = some false) := by
  decide +kernel

/-- C-die 0's engine with a request in its registers: line 0, 128 bytes, all units and the shared cache, queue 5. -/
def cmeState (op : Nat) : State :=
  let s := enable (enable State.reset (pgCme 0)) (pgQue 5)
  (s.setReg (regAddr (pgCme 0) 0x108) 128).setReg (regAddr (pgCme 0) 0x110) (BitVec.ofNat 64 (op + 12 + 0x3FF * 256 + 5 * 2 ^ 20))

theorem witness_MaintenanceEnginesServeTheirRequests :
    (∀ n ∈ [1, 2, 3], fld 1 0 ((cmeState n).reg (regAddr (pgCme 0) 0x110)) = n ∧ (cmeState n).accepts (pgCme 0) = true ∧
      (cmeState n).en (pgQue 5) = true ∧ ((cmeState n).reg (regAddr (pgCme 0) 0x108)).toNat = 128 ∧
      fld 17 8 ((cmeState n).reg (regAddr (pgCme 0) 0x110)) = 0x3FF ∧ fld 31 20 ((cmeState n).reg (regAddr (pgCme 0) 0x110)) = 5) ∧
    live State.reset = true ∧ hasCdie State.reset 0 = true ∧ fld 1 0 (0x3FF01 : W64) = 1 ∧ bit 2 (0x3FF01 : W64) = false ∧
    (let s := (cmeState 3).setCme 0 ⟨[⟨3, 0, 128, 0, 0x3FF, true, true, some (5, 9), none⟩], [], 0, 0⟩
     let z := s.setMmu 0 ⟨[⟨0, 0, 0, 1, 0xD7⟩], []⟩
     s.dst (pgCme 0) ≠ 3 ∧ awake s = true ∧ (translate z 0 0 (sext57 0) none).1 = .pa 0 ∧ isMem z 0 = true ∧
       inService z 0 = true) := by decide +kernel

theorem witness_MemoryChannelsCombineReadScrubAndLink :
    live State.reset = true ∧ bit 0 (State.reset.reg (regAddr pgGlb 0x1C0)) = false ∧ isNear State.reset 256 = true ∧
    scFind State.reset 256 = none ∧ (State.reset.nmc 0 0).wc = [] ∧ State.reset.poisoned 256 = false ∧
    armedAt State.reset (pgNmc 0 0) 8 = false ∧ armedAt State.reset (pgNmc 0 0) 9 = false ∧ hasCdie State.reset 0 = true ∧
    wcen (State.reset.setReg (regAddr (pgNmc 0 0) 0x108) 0x100000100) 0 0 = true ∧
    wcen (State.reset.setReg (regAddr (pgNmc 0 0) 0x108) 0x100) 0 0 = false ∧ homeDie State.reset 256 = 0 ∧ nmcOf 256 = 0 ∧
    (let s := State.reset.setNmc 0 0 { NmcSt.reset with wc := [(2, 1)] }
     (s.nmc 0 0).wc.find? (fun p => p.1 == 2) = some (2, 1) ∧ 1 ||| 2 ≠ fullMask) := by decide +kernel

theorem witness_MemoryChannelsCombineReadScrubAndLink_far :
    (List.range 20).any (fun g => fmcInForce State.reset g) = true ∧
    (let s := State.reset.setReg (regAddr (pgFmc 8) 0x108) 3
     fmcInForce s 8 = true ∧ bit 0 (s.reg (regAddr (pgFmc 8) 0x108)) = true ∧ s.en (pgFmc 8) = true ∧
       (s.setReg (regAddr (pgFmc 8) 0x30) 0).en (pgFmc 8) = false) := by decide +kernel

/-- A well that serves, with one version of the tensor 7 if asked, and a descriptor of the bytes given at index 3 of queue 5. -/
def aVer : WellVer := ⟨7, 1, 0, 1, 128, List.replicate 128 9, true⟩
def wellState (vers : List WellVer) (bytes : List Byte) (stage : DescStage) : State :=
  let s := enable (enable (oneDesc bytes stage) (pgWel 0)) (pgWel 1)
  { s with well := { s.well with ready := true, energy := 900, vers := vers, nextVer := 2 } }

/-- The bytes of a well command on tensor 7: bytes 40 to 60. -/
def wellBytes (opc : Byte) (rest : List Byte) : List Byte := [opc, 3] ++ List.replicate 30 0 ++ [7, 0, 0, 0, 0, 0, 0, 0] ++ rest
/-- WPUT of one layer of 128 bytes, format raw. -/
def wputBytes (ifver : List Byte) : List Byte := wellBytes 0x10 (ifver ++ [128, 0, 0, 0, 0, 0, 0, 0, 1, 0, 0, 0, 0])
def ifv (b : Byte) : List Byte := [b, 0, 0, 0, 0, 0, 0, 0]

/-- The one descriptor of queue 5 starts a well command that the well serves. -/
def servesB (s : State) (opc : Nat) : Bool :=
  startsB s opc && (match descAt s 5 3 with
    | some d => hasWell s && wellTakes s && !nameHeld s d && (anyWdl s).isSome && nameOk (d.op 32 8)
    | none => false)

theorem servesB_iff (s : State) (opc : Nat) (h : servesB s opc = true) : ∃ d, Starts s 5 3 opc d ∧ WellServes s d := by
  unfold servesB at h
  rw [Bool.and_eq_true] at h
  obtain ⟨d, hd⟩ := startsB_iff s opc h.1
  have h2 := h.2
  rw [hd.2.1] at h2
  simp only [Bool.and_eq_true, Bool.not_eq_true'] at h2
  exact ⟨d, hd, h2.1.1.1.1, h2.1.1.1.2, h2.1.1.2, h2.1.2, h2.2⟩

theorem witness_WellCommandsCheckAndStart :
    (∀ vers ∈ [[], [aVer]], ∀ v ∈ [0, 1, 2], servesB (wellState vers (wputBytes (ifv v)) .accepted) 0x10 = true ∧
      servesB (wellState vers (wellBytes 0x11 (ifv v ++ [0, 0, 0, 0, 1])) .accepted) 0x11 = true ∧
      servesB (wellState vers (wellBytes 0x12 (ifv v)) .accepted) 0x12 = true ∧
      servesB (wellState vers (wellBytes 0x13 []) .accepted) 0x13 = true) ∧
    startsB (oneDesc (wellBytes 0x12 []) .accepted) 0x12 = true ∧ wellTakes (oneDesc (wellBytes 0x12 []) .accepted) = false ∧
    (descAt (oneDesc (wputBytes (ifv 1)) .accepted) 5 3).all (fun d => decide (d.op 56 4 = 1 ∧ d.op 48 8 = 128 ∧ d.op 60 1 = 0 ∧
      d.op 40 8 = 1 ∧ d.op 32 8 = 7)) = true ∧
    (currentVer (wellState [aVer] [] .accepted) 7) = some aVer ∧ (currentVer (wellState [] [] .accepted) 7) = none ∧
    1 ≤ wellFree (wellState [aVer] [] .accepted) ∧ anyWdl State.reset = some (0, 0) ∧
    (let s := (wellState [aVer] (wellBytes 0x13 []) .accepted).setMmu 3 ⟨[⟨0, 0, 0, 1, 0xD7⟩], []⟩
     servesB s 0x13 = true ∧ (match descAt s 5 3 with
       | some d => (rqWrite s (wellRq s 0 0 5 d) (d.op 24 8) (List.replicate 64 0)).1
       | none => false) = true) := by decide +kernel

/-- The move of the WPUT of `wputBytes`: its one chunk moved, or not. -/
def aMove (moved : List Nat) : WellMove := ⟨5, 3, true, 7, 0, 0, 1, 128, 0, 0, 128, moved, [(0, List.replicate 128 6)]⟩
def commitState (bytes : List Byte) (moved : List Nat) : State :=
  let s := wellState [aVer] bytes .started
  { s with well := { s.well with moves := [aMove moved] } }

theorem witness_WellCommitsMakeVersionsInOrder :
    (∀ b ∈ [wputBytes (ifv 1), wellBytes 0x12 (ifv 1)], ∀ mv ∈ [[], [0]], live (commitState b mv) = true ∧
      (descAt (commitState b mv) 5 3).all (fun d => d.stage == .started && decide (d.opc = 0x10 ∨ d.opc = 0x12)) = true ∧
      (descAt (commitState b mv) 5 3).isSome = true ∧ moveOf (commitState b mv) 5 3 = some (aMove mv)) ∧
    chunkCount (aMove [0]) ≤ (aMove [0]).moved.length ∧ (aMove []).moved.length < chunkCount (aMove []) ∧
    (commitState [] []).well.ro = false ∧ 900 ≤ (commitState [] []).well.energy ∧ State.reset.well.energy < 900 ∧
    (let s := wellState [{ aVer with current := false }] [] .accepted
     verPinned s 7 1 = false ∧ s.well.moves = []) := by decide +kernel

/-- Engine 0 of X-die 0 with a window item of one tile, and with the moves given. -/
def winParam : List Byte := leBytes 8 7 ++ leBytes 4 1 ++ List.replicate 28 0
def winJob : Job :=
  { kindJob 0x10 winParam with
    stns := [{ kindStn 0x10 winParam with df := { (kindStn 0x10 winParam).df with outs := [some 0] }, pin := some 1 }],
    cnds := [⟨⟨0, 0, 0x10, 1, 1, 1⟩, 0, [], [0], [], 0⟩] }
def winItem : Item := { anItem with kind := 0x10, die := 3, home := 3, owner := 0, nord := 1, islot := none }
def wdlState (items : SMap (Option Item)) (moves : List WellMove) : State :=
  let s0 := enable (wellState [aVer] (wputBytes (ifv 1)) .started) (pgWdl 0 0)
  let s := { (s0.setJob 0 (some winJob)).setMmu 3 ⟨[⟨0, 0, 0, 64, 0xD7⟩], []⟩ with items := items }
  { s with well := { s.well with moves := moves } }
def getMove : WellMove := { aMove [] with put := false, ver := 1, buf := [] }

/-- The engine serves. -/
def wdlServesB (s : State) : Bool :=
  live s && hasWell s && !wdlFailed s (0, 0) && decide (s.dst (pgWdl 0 0) ≠ 2) && s.en (pgWdl 0 0) && s.well.ready &&
    !armedAt s (pgWdl 0 0) 8

theorem witness_WindlassEnginesMoveTilesAndChunks_tile :
    (let s := wdlState [(7, some winItem)] []
     let st := (winJob.stn 0).getD aStation
     let c := (winJob.cnd 0).getD ⟨⟨0, 0, 0, 0, 0, 0⟩, 0, [], [], [], 0⟩
     wdlServesB s = true ∧ s.item 7 = some winItem ∧ s.job 0 = some winJob ∧ (winJob.stn 0).isSome = true ∧ winItem.err = none ∧
     itemWaits s 7 = false ∧ wdlHeld s 0 0 (itemRq s 7 winItem).waiter = false ∧ 0 ∈ winItem.ords ∧ winItem.wrote = [] ∧
     st.pin = some 1 ∧ wellVer s (wdTensor st.df) 1 = some aVer ∧ st.df.outs.head? = some (some 0) ∧ (winJob.cnd 0).isSome = true ∧
     armedAt s (pgWel 0) 9 = false ∧ (rqWrites s (itemRq s 7 winItem) [(winJob.slotVa 0 c 0, [9])]).1 = true) := by decide +kernel

theorem witness_WindlassEnginesMoveTilesAndChunks_chunk :
    (∀ m ∈ [aMove [], getMove], (let s := wdlState [] [m]
      wdlServesB s = true ∧ s.accepts (pgWdl 0 0) = true ∧ moveOf s 5 3 = some m ∧ (descAt s 5 3).isSome = true ∧
      0 < chunkCount m ∧ engineItems s 0x10 0 = [] ∧ wellVer s 7 1 = some aVer ∧
      (match descAt s 5 3 with
       | some d => !inSump s (wellRq s 0 0 5 d).waiter && !wdlHeld s 0 0 (wellRq s 0 0 5 d).waiter &&
          (rqRead s (wellRq s 0 0 5 d) 0 128).1.isSome && (rqWrites s (wellRq s 0 0 5 d) [(0, [9])]).1
       | none => false) = true)) ∧
    (engineItems (wdlState [(7, some winItem)] []) 0x10 0).any (fun p => p.2.err.isNone && decide (p.2.wrote.length < p.2.nord)) = true := by
  decide +kernel

theorem witness_HoldupRecoveryAndPackagesSetTheWellsState :
    live State.reset = true ∧ hasWell State.reset = true ∧ armedAt State.reset (pgWel 0) 8 = false ∧
    armedAt State.reset (pgWel 1) 8 = false ∧ State.reset.fuses.variant.cdies = 2 ∧
    (let s := wellState [aVer] (wputBytes (ifv 1)) .started
     live s = true ∧ hasWell s = true ∧ (descAt s 5 3).all (fun d => d.stage == .started && decide (d.opc = 0x10)) = true ∧
       (s.queue 5).inflight.length = 1) ∧
    (let s := { State.reset with well := { State.reset.well with recov := true } }
     live s = true ∧ hasWell s = true ∧ s.well.recov = true) ∧
    hasWell { State.reset with fuses := { State.reset.fuses with variant := .v2C000W } } = false := by decide +kernel

/-- The line of the spec's trace through the directory: HOME[4] of C-die 0, set 99; its home with the ways given. -/
def trace : Nat := 0x40003180
def homeState (es : List (Nat × DirEnt)) : State :=
  State.reset.setHome (homeDie State.reset trace) (homeSlice trace) { HomeSt.reset with dir := es }
def homeReadyB (s : State) (addr : Nat) : Bool :=
  live s && isMem s addr && (homeOf s addr).txns.isEmpty && (homeOf s addr).inq.isEmpty && s.elog.armed.isEmpty

theorem witness_RequestsChangeTheDirectory_idle :
    homeReadyB State.reset trace = true ∧ homeDie State.reset trace = 0 ∧ homeSlice trace = 4 ∧ dirSet trace = 99 ∧
    isAgent 3 = true ∧ waitsToken State.reset trace 3 = false ∧ holdsX State.reset trace 3 = false ∧
    (homeOf State.reset trace).find trace = none ∧ tokenSet (homeOf State.reset trace) = none ∧
    ((homeOf State.reset trace).ent 1584).vec = 0 ∧ ((homeOf State.reset trace).ent 1584).pin = false ∧ 1584 / 16 = 99 ∧
    State.reset.poisoned trace = false ∧ bit 0 (State.reset.reg (regAddr pgGlb 0x1C0)) = false ∧
    State.reset.regF (pgHome 0 4) 0x100 1 0 = 0 ∧ placeCtr State.reset trace = 0 ∧
    (let s := State.reset.setReg (regAddr (pgHome 0 4) 0x100) 2
     s.regF (pgHome 0 4) 0x100 1 0 = 2 ∧ homeReadyB s trace = true) := by decide +kernel

theorem witness_RequestsChangeTheDirectory_held :
    (∀ e ∈ [(⟨trace / 128, true, 8, false, 1⟩ : DirEnt), ⟨trace / 128, false, 8, false, 1⟩, ⟨trace / 128, false, 0x208, false, 1⟩],
      (let s := homeState [(1584, e)]
       homeReadyB s trace = true ∧ (homeOf s trace).find trace = some 1584 ∧ (homeOf s trace).ent 1584 = e ∧
       holdsX s trace 9 = false ∧ waitsToken s trace 9 = false ∧ nbit 3 e.vec = true)) ∧ vecDel 0x208 3 ≠ 0 ∧
    (let s := homeState ((List.range 16).map (fun i => (1584 + i, (⟨i, true, 1, false, 5 + i⟩ : DirEnt))))
     homeReadyB s trace = true ∧ (homeOf s trace).find trace = none ∧
       (List.range 16).all (fun i => ((homeOf s trace).ent (1584 + i)).isValid && decide (5 ≤ ((homeOf s trace).ent (1584 + i)).seq)) = true) ∧
    (let s := homeState ((List.range 16).map (fun i => (1584 + i, (⟨i, true, 1, true, 5 + i⟩ : DirEnt))))
     homeReadyB s trace = true ∧ (homeOf s trace).find trace = none ∧
       (List.range 16).all (fun i => ((homeOf s trace).ent (1584 + i)).pin) = true) := by decide +kernel

theorem witness_RequestsChangeTheDirectory_waits :
    (let s := State.reset.setHome 0 4 { HomeSt.reset with txns := [⟨trace / 128, 0, .rdOwn (trace / 128) 3, none, 8, 8, .clean, false⟩] }
     live s = true ∧ isMem s trace = true ∧ (homeOf s trace).txns.length = 1) ∧
    (let s := State.reset.setHome 0 4 { HomeSt.reset with tokq := [.rdOwn (trace / 128) 3], reserved := some 1587 }
     homeReadyB s trace = true ∧ ((homeOf s trace).ent 1587).isValid = false ∧ (homeOf s trace).find trace = none ∧
       (homeOf s trace).reserved = some 1587 ∧ (homeOf s trace).tokq = [.rdOwn (trace / 128) 3]) := by decide +kernel

/-- HOME[4] of C-die 0 with a transaction on the line of the trace, in way 1584, with the message and request given, which
agent 3 has taken if `taken`. -/
def txnState (fwd : Nat) (req : HReq) (taken : Bool) (ans : FwdAns) : Txn × State :=
  let t : Txn := ⟨trace / 128, fwd, req, none, if taken then 0 else 8, 8, ans, ans == .gone⟩
  (t, State.reset.setHome 0 4 { HomeSt.reset with dir := [(1584, ⟨trace / 128, true, 8, true, 1⟩)], txns := [t] })
def homeHasB (p : Txn × State) : Bool :=
  live p.2 && isMem p.2 trace && decide (findTxn (homeOf p.2 trace) (trace / 128) = some p.1) &&
    decide ((homeOf p.2 trace).find trace = some 1584 ∧ (homeOf p.2 trace).inq = [] ∧ (homeOf p.2 trace).tokq = [] ∧
      p.2.elog.armed = [] ∧ (homeOf p.2 trace).txns = [p.1])

theorem witness_ForwardsAndAcksCompleteTransactions :
    (∀ x ∈ [(0, HReq.rdOwn (trace / 128) 9), (1, .rdShared (trace / 128) 9), (2, .rdOwn (trace / 128) 9), (3, .rdOnce (trace / 128) 4),
        (4, .wrNc (trace / 128) 1 15 []), (4, .rdOwn 5 9)], ∀ b ∈ [true, false], ∀ ans ∈ [FwdAns.clean, .gone],
      homeHasB (txnState x.1 x.2 b ans) = true ∧ (txnState x.1 x.2 b ans).1.await ≠ 0 ∧ nbit 3 (txnState x.1 x.2 b ans).1.await = true ∧
      nbit 3 (txnState x.1 x.2 b ans).1.unsent = !b ∧ vecDel (txnState x.1 x.2 b ans).1.await 3 = 0) ∧
    (homeOf (txnState 4 (.rdOwn 5 9) true .clean).2 trace).find (5 * 128) = none ∧
    (let s := State.reset.setHome 0 4 { HomeSt.reset with resps := [⟨0, some 3, trace / 128, [], false⟩, ⟨1, none, trace / 128, [], false⟩, ⟨2, some 3, trace / 128, [], false⟩, ⟨3, none, trace / 128, [], false⟩, ⟨4, some 3, trace / 128, [], false⟩] }
     live s = true ∧ (homeOf s trace).resps.length = 5) ∧ hasCdie State.reset 0 = true := by decide +kernel

/-- The sump with one open record at slot 0x12, of item 7 of a unit or of a descriptor, written or not; room or not. -/
def aFault (who : Waiter) : SFault := ⟨2, 0x7F3A12200040, 1, 0, 0, 2, who, none⟩
def sumpState (who : Waiter) (seq : Option Nat) (prod : Nat) : State :=
  let s := (oneDesc [0x13, 3] .started).setItem 7 (some anItem)
  { s with sump := ⟨prod, 0, 0x105, [⟨0x12, aFault who, 2, 1, [who], false, seq⟩], []⟩ }

theorem witness_SumpRecordsAndInvalidationsServeTheDriver :
    (let w : Waiter := ⟨0, 0, 37, 7 * 64⟩
     (∀ p ∈ [0, 1024], (sumpState w none p).sump.recs.all (fun r => r.slot == 0x12 && !r.due && r.seq.isNone) = true ∧
      (sumpState w none p).sump.recs.length = 1 ∧ live (sumpState w none p) = true) ∧
     idxSub 0 0 < 2 ^ (sumpState w none 0).regF pgSump 0x100 19 16 ∧ 2 ^ (sumpState w none 0).regF pgSump 0x100 19 16 ≤ idxSub 1024 0 ∧
     bit 0 ((sumpState w none 0).reg (regAddr pgSump 0x100)) = false ∧ bit 0 ((sumpState w none 0).reg (regAddr pgGlb 0x1C0)) = false ∧
     (sumpState w (some 0x105) 1).sump.noslot = [] ∧ w.kind ≤ 4 ∧ w.sub / 64 < 2 ^ 64 ∧ (sumpState w none 0).item 7 = some anItem ∧
     (sumpState w (some 0x105) 1).sump.recs.any (fun r => r.slot == 0x12 && r.seq == some 0x105) = true) ∧
    (let w : Waiter := ⟨5, 2, 5, 3⟩
     (descAt (sumpState w (some 0x105) 1) 5 3).all (fun d => decide (d.opc = 0x13)) = true ∧
       (descAt (sumpState w (some 0x105) 1) 5 3).isSome = true) ∧
    2 ^ sumpSize State.reset < idxSub State.reset.sump.prod (fld 31 0 1) ∧
    idxSub State.reset.sump.prod (fld 31 0 0) ≤ 2 ^ sumpSize State.reset ∧ State.reset.invs.length < 8 ∧
    8 ≤ { State.reset with invs := List.replicate 8 ⟨3, 0, 0, .reg⟩ }.invs.length ∧
    (∀ sc ∈ [(1 : Byte), 2, 3], startsB (oneDesc ([0x19, 3] ++ List.replicate 30 0 ++ [sc]) .accepted) 0x19 = true ∧
      (descAt (oneDesc ([0x19, 3] ++ List.replicate 30 0 ++ [sc]) .accepted) 5 3).all (fun d => decide (d.op 32 1 = sc.toNat)) = true) ∧
    (let s := { State.reset with invs := [⟨3, 0, 0, .desc 5 3⟩] }
     live s = true ∧ loadsIn s ⟨3, 0, 0, .desc 5 3⟩ = false ∧ remoteIn s ⟨3, 0, 0, .desc 5 3⟩ = false) := by decide +kernel

/-- Reset with an open flow 3 to node 9 and window 0 on it, its table at 512 KiB. -/
def anEntry : List Byte := leBytes 4 1 ++ leBytes 4 3 ++ leBytes 4 9 ++ leBytes 4 0 ++ leBytes 8 0 ++ leBytes 8 4096
def windowState : State :=
  ((State.reset.setReg (regAddr (pgRtr 0) 0x118) 0x80001).putBytes 0x80000 anEntry).setFlow 3 { aFlow with st := 2, rnode := 9 }

theorem witness_HostCoresTimersInterruptsAndFrequency :
    live State.reset = true ∧ leNat ((leBytes 4 0x05000000).reverse) = 5 ∧ 0x7E0000000004 % 0x1000 = 4 ∧
    (State.reset.reg (regAddr (pgDie 2) 0x800)).toNat ≤ 2 ^ 64 - 1 ∧
    (State.reset.reg (regAddr (pgDie 2) 0x300)).toNat < (State.reset.reg (regAddr (pgDie 2) 0x800)).toNat ∧
    (let s := State.reset.setReg (regAddr (pgDie 2) 0x800) 0
     (s.reg (regAddr (pgDie 2) 0x800)).toNat ≤ (s.reg (regAddr (pgDie 2) 0x300)).toNat) ∧
    (let s := State.reset.setReg (regAddr (pgDie 2) 0x128) 1
     s.reg (regAddr (pgDie 2) 0x128) &&& 0 ≠ s.reg (regAddr (pgDie 2) 0x128) ∧
       s.reg (regAddr (pgDie 2) 0x128) &&& 3 = s.reg (regAddr (pgDie 2) 0x128) ∧ (s.hart 1).startPc = none) ∧
    (let s := State.reset.setHart 4 { Hart.reset with startPc := some 0, freqTo := some 60 }
     (s.hart 4).freqTo = some 60 ∧ (s.hart 4).startPc ≠ none ∧ (s.hart 4).apStores = 0) ∧
    (let s := homeState [(1584, ⟨trace / 128, true, 8, false, 1⟩)]
     homeReadyB s trace = true ∧ (homeOf s trace).find trace = some 1584 ∧ nbit (13 / 4) ((homeOf s trace).ent 1584).vec = true ∧
       ((homeOf s trace).ent 1584).pin = false ∧ ((homeOf s trace).ent 1584).excl = true) ∧
    windowTarget windowState 0 8 8 true = some (3, 9 * 2 ^ 46 + 8) ∧ windowTarget State.reset 0 8 8 true = none ∧
    (windowState.flow 3).isSome = true := by decide +kernel

/-- A CXL port that is up, with an address space 0 mapped at its first pages on its X-die. -/
def deviceState : State :=
  (State.reset.setReg (regAddr (pgFmc 8) 0x108) 3).setMmu (3 + lgX 8) ⟨[⟨0, 0, 0, 16, 0xD7⟩], []⟩

theorem witness_DeviceRequestsAreServedOrRefused :
    live deviceState = true ∧ devicePort deviceState 8 = true ∧ devicePort State.reset 8 = false ∧
    memRange deviceState 0x1000 8 = true ∧ memRange deviceState 0x7F0000000000 8 = false ∧ fmcInForce deviceState 8 = true ∧
    (let r := deviceRq 8 0
     (rqSpan deviceState r 0x1000 8 .wr).1.bad = none ∧ (rqSpan deviceState r 0x1000 8 .rd).1.runs = [(.pa 0x1000, 8)] ∧
       (rqSpan State.reset r 0x1000 8 .wr).1.bad ≠ none ∧ (rqSpan deviceState (deviceRq 8 1) 0x1000 8 .rd).1.bad ≠ none) := by
  decide +kernel

/-- Lane group 0, HOLARN, enabled, with HLP_STAT as given. -/
def portState (g : Nat) (st : W64) : State := (State.reset.setReg (regAddr (pgHlp g) 0x108) 1).setReg (hlpStat g) st

theorem witness_PortsTrainAndRetireLanes :
    live State.reset = true ∧ State.reset.fuses.variant.bonded 0 = true ∧ roleOf State.reset 0 = 1 ∧ x16Of State.reset 0 = false ∧
    linkEn State.reset 0 = false ∧ x16Of State.reset 7 = true ∧ roleOf State.reset 8 = 3 ∧
    (let s := portState 0 2
     isRouterPort s 0 = true ∧ training s 0 = true ∧ linkEn s 0 = true ∧ portUp s 0 = false ∧ (s.port 0).retry = false) ∧
    (let s := portState 0 0x831
     portUp s 0 = true ∧ isRouterPort s 0 = true ∧ linkEn s 0 = true ∧ training s 0 = false ∧ fld 3 0 (hlpLane s 0) = 0 ∧
       fld 49 48 (hlpLane s 0) = 0 ∧ (s.fab.flows.map Prod.fst).Nodup) ∧
    (let s := (portState 0 0).setPort 0 { PortSt.reset with retry := true }
     linkEn s 0 = true ∧ (s.port 0).retry = true ∧ training s 0 = false) ∧
    training (portState 8 2) 8 = true ∧
    (let s := (portState 0 2).setReg (regAddr (pgHlp 0) 0x100) 2
     isRouterPort s 0 = true ∧ roleOf s 0 = 2 ∧ training s 0 = true) ∧
    fld 3 0 (hlpLane ((portState 0 0x831).setReg (regAddr (pgHlp 0) 0x118) 1) 0) ≠ 0 := by decide +kernel

/-- R381's example: reversed receive lanes, position 2 inverted, position 5 open; the transmit side is clean. -/
theorem test_linkTrainDone_example :
    (match exec (.linkTrainDone 0 [(0, 7, false), (0, 6, false), (0, 5, true), (0, 4, false), (0, 3, false), (1, 0, false), (0, 1, false),
        (0, 0, false)] 0xFF 7 9 0 []) (portState 0 2) with
      | .next t => decide (hlpLane t 0 = 0xA000010460100000 ∧ fld 12 8 (t.reg (hlpStat 0)) = 6 ∧ fld 6 4 (t.reg (hlpStat 0)) = 3)
      | _ => false) = true := by decide +kernel

/-- A WRITE of one byte to node 9 on VC 0. -/
def aWrite : Packet :=
  let p : Packet := ⟨1, 3, 0, 0, 0, 1, 9 * 2 ^ 46 + 64, 0, 7, 3, 0, 0, 0, [5], []⟩
  { p with check := p.checkBytes }

/-- The packet at router 0 with node 9's route as given, ports 0 and 1 up. -/
def routerState (p : Packet) (e : W64) : State :=
  let s := (((portState 0 0x831).setReg (regAddr (pgHlp 1) 0x108) 1).setReg (hlpStat 1) 0x831).setReg (regAddr (pgRtr 0) 0x100) 7
  { s with fab := { s.fab with rq := [(0, p)], routes := [(9, e)] } }

theorem witness_LinkFramesAndPacketsMoveThroughTheRouter :
    (let s := portState 0 0x831
     isRouterPort s 0 = true ∧ roleOf s 0 = 1 ∧ portUp s 0 = true ∧ (s.port 0).rxSeq = 0 ∧ (s.port 0).frames = []) ∧
    parsePacket aWrite.bytes = some aWrite ∧ fieldAt aWrite.bytes 30 2 = crc16 (aWrite.bytes.take 30) ∧ 32 ≤ aWrite.bytes.length ∧
    (let s := (portState 0 0x831).setPort 0 { PortSt.reset with frames := [⟨0, [], 7⟩, ⟨1, [], 0⟩] }
     portUp s 0 = true ∧ (s.port 0).frames ≠ []) ∧
    (let s := (portState 0 0x831).setReg (regAddr (pgHlp 0) 0x100) 2
     let f := ethFrameOf s aWrite
     roleOf s 0 = 2 ∧ isRouterPort s 0 = true ∧ portUp s 0 = true ∧ leNat (f.drop (f.length - 4)) = crc32Eth (f.take (f.length - 4)) ∧
       22 ≤ f.length ∧ parsePacket ((f.take (f.length - 4)).drop 18) = some aWrite ∧
       leNat (((f.take (f.length - 4)).drop 16).take 2).reverse = 0x88B5 ∧ leNat (((f.take (f.length - 4)).drop 12).take 2).reverse = 0x8100) ∧
    (let s := routerState aWrite 0x8000000001000003
     live s = true ∧ s.fab.rq[0]? = some (0, aWrite) ∧ routeAt s 0 (routeIdx s 9) = 0x8000000001000003 ∧ carries s 0 aWrite = true ∧
       carries s 1 aWrite = true ∧ isolated s 0 = false ∧ aWrite.gaddr / 2 ^ 46 ≠ myNode s ∧ aWrite.vc = 0 ∧
       armedAt s (pgRtr 0) 9 = false ∧ carries s 1 { aWrite with vc := 1 } = true ∧ carries s 2 aWrite = false ∧ aWrite.hops ≠ 31 ∧
       (∀ g, g < 20 → ([] : List Nat).getD g 0 = 0) ∧ carries (routerState { aWrite with vc := 1 } 0x8000000001000003) 1 { aWrite with vc := 1 } = true) := by
  decide +kernel

/-- A packet from node 7 for flow 3 with a correct check. -/
def aPacket (type subop gaddr len psn : Nat) (payload : List Byte) : Packet :=
  let p : Packet := ⟨type, 3, 0, 0, 0, len, gaddr, subop, 7, 3, psn, 0, 0, payload, []⟩
  { p with check := p.checkBytes }

/-- Packets have arrived for flow 3, whose engine 0 runs and whose entry lies at 0x1000300; the first GiB is exported. -/
def packetState (f : FlowSt) (ps : List Packet) : State :=
  let s := (((enable State.reset (pgHar 0 0)).setReg (regAddr (pgRtr 0) 0x100) 5).setReg (regAddr (pgRtr 0) 0x110) 0x1000000).setReg
    (regAddr (pgRtr 0) 0x200) 0xE000000100000000
  let s1 := s.setFlow 3 f
  { s1 with fab := { s1.fab with arrived := ps } }

/-- A packet is from the peer of flow f. -/
def fromPeerB (s : State) (p : Packet) (type : Nat) (f : FlowSt) : Bool :=
  live s && !bit 0 (s.reg (regAddr pgGlb 0x1C0)) && decide (s.elog.armed = []) && decide (p.type = type) && s.fab.arrived.contains p &&
    decide (myNode s ≠ 0x3FFFF) && checkOk p && decide (s.flow p.dflow = some f) && decide (f.rnode = p.snode) && canServe s f

theorem fromPeerB_iff (s : State) (p : Packet) (type : Nat) (f : FlowSt) (h : fromPeerB s p type f = true) : FromPeer s p type f := by
  unfold fromPeerB at h
  simp only [Bool.and_eq_true, decide_eq_true_eq, Bool.not_eq_true'] at h
  obtain ⟨⟨⟨⟨⟨⟨⟨⟨⟨h1, h2⟩, h3⟩, h4⟩, h5⟩, h6⟩, h7⟩, h8⟩, h9⟩, h10⟩ := h
  exact ⟨⟨h1, h2, h3, h4, h5, h6, h7⟩, h8, h9, h10⟩

theorem witness_ArrivingRequestsArePerformedInOrder :
    (∀ x ∈ [(1, 0, 4, [1, 2, 3, 4]), (2, 0, 4, []), (3, 1, 4, [1, 0, 0, 0])],
      let p := aPacket x.1 x.2.1 0x2000 x.2.2.1 0 x.2.2.2
      let s := packetState aFlow [p]
      fromPeerB s p x.1 aFlow = true ∧ p.psn = aFlow.exp ∧ memRange s 0x2000 4 = true ∧
        exported s 0x2000 4 (decide (x.1 ≠ 1)) (decide (x.1 ≠ 2)) = true ∧ requestCode s p = 0 ∧ s.poisoned 0x2000 = false ∧
        (s.setPoison 0x2000 true).poisoned 0x2000 = true ∧
        fromPeerB (packetState { aFlow with exp := 1 } [p]) p x.1 { aFlow with exp := 1 } = true ∧ 2 ^ 31 ≤ idxSub p.psn 1 ∧
        memRange s (2 ^ 45) 4 = false ∧ exported s 0x40000000 4 (decide (x.1 ≠ 1)) (decide (x.1 ≠ 2)) = false ∧
        memRange s 0x40000000 4 = true ∧ s.flow 4 = none ∧ 7 ≠ myNode s ∧ canServe (s.setReg (regAddr (pgHar 0 0) 0x30) 0) aFlow = false ∧
        (let z := s.setReg (regAddr (pgRtr 0) 0x100) 0x3FFFF
         myNode z = 0x3FFFF ∧ live z = true ∧ z.fab.arrived.contains p = true)) ∧
    (∀ op ∈ [9, 10], let p := aPacket 3 op 0x2000 4 0 [1, 0, 0, 0]
      let s := packetState aFlow [p]
      fromPeerB s p 3 aFlow = true ∧ exported s 0x2000 4 true true = true ∧ requestCode s p = 0 ∧
        requestCode (s.setReg (regAddr pgGlb 0x100) 1) p = 4) ∧
    checkOk { aPacket 1 0 0x2000 4 0 [1, 2, 3, 4] with check := [] } = false ∧
    (∀ x ∈ [(3, 64), (65, 64)], let p := aPacket 1 0 0x2000 1 x.1 [1]
      fromPeerB (packetState aFlow [p]) p 1 aFlow = true ∧ 0 < idxSub p.psn 0 ∧ idxSub p.psn 0 < 2 ^ 31 ∧
        earlyBytes (packetState aFlow [p]) 0 + 41 ≤ 2 ^ 24) := by decide +kernel

theorem witness_ArrivingRequests_apply : FromPeer (packetState aFlow [aPacket 1 0 0x2000 1 0 [1]]) (aPacket 1 0 0x2000 1 0 [1]) 1 aFlow :=
  fromPeerB_iff _ _ _ _ (by decide +kernel)

/-- Flow 3 with packets of one PSN after another sent for their requesters. -/
def sentFlow (ks : List (Nat × Nat × PktSrc)) : FlowSt :=
  { aFlow with nxt := ks.length, sent := ks.zipIdx.map (fun x => ⟨aPacket x.1.1 0 0x2000 x.1.2.1 x.2 [], x.1.2.2, false⟩) }

/-- An ACK up to a PSN. -/
def anAck (a : Nat) : Packet :=
  let p : Packet := ⟨6, 3, 0, 4, 0, 0, 0, 0, 7, 3, 0, a, 0, [], []⟩
  { p with check := p.checkBytes }

theorem witness_AnswersReleaseTheirRequesters :
    (∀ src ∈ [PktSrc.post, .hart 1, .cmd 5 3 64], let f := sentFlow [(1, 4, src), (1, 4, .post)]
      fromPeerB (packetState f [anAck 1]) (anAck 1) 6 f = true ∧ (f.sent.map (fun k => psnBefore k.pkt.psn 1)) = [true, false] ∧
        psnBefore 1 f.nxt = true ∧ f.st = 2) ∧
    (∀ src ∈ [PktSrc.hart 1, .fetch 4 64, .load 0 0, .cmd 5 3 0], let f := sentFlow [(2, 4, src)]
      let p := aPacket 4 0 0 4 0 [1, 2, 3, 4]
      let q := aPacket 4 0 0 3 0 [1, 2, 3]
      let s := packetState f [p, q]
      fromPeerB s p 4 f = true ∧ fromPeerB s q 4 f = true ∧ (f.sent.map (fun k => (k.pkt.psn, k.pkt.type, k.pkt.tagid, k.pkt.len, k.answered))) = [(0, 2, 0, 4, false)]) ∧
    (∀ src ∈ [PktSrc.hart 1, .commitAtom 7], let f := sentFlow [(3, 4, src)]
      let p := aPacket 5 0 0 4 0 [1, 2, 3, 4]
      fromPeerB (packetState f [p]) p 5 f = true ∧ (f.sent.map (fun k => (k.pkt.psn, k.pkt.type, k.pkt.tagid))) = [(0, 3, 0)]) ∧
    (let f := aFlow
     let p := aPacket 4 0 0 4 0 [1, 2, 3, 4]
     fromPeerB (packetState f [p]) p 4 f = true ∧ checkOk { p with check := [] } = false ∧
       canServe ((packetState f [p]).setReg (regAddr (pgHar 0 0) 0x30) 0) f = false ∧ (packetState f [p]).flow 4 = none) := by decide +kernel

theorem witness_AnswersReleaseTheirRequesters_noNode :
    let p := aPacket 4 0 0 4 0 [1, 2, 3, 4]
    let z := (packetState aFlow [p]).setReg (regAddr (pgRtr 0) 0x100) 0x3FFFF
    myNode z = 0x3FFFF ∧ live z = true ∧ p.type = 4 ∧ z.fab.arrived.contains p = true := by decide +kernel

/-- An FGET's last read returns: its descriptor is started and its local page translates. -/
theorem witness_AnswersReleaseTheirRequesters_cmd :
    (let d := oneDesc ([0x43, 3] ++ List.replicate 62 0) .started
     let f := sentFlow [(2, 4, .cmd 5 3 64)]
     let p := aPacket 4 0 0 4 0 [1, 2, 3, 4]
     let s0 := packetState f [p]
     let s := ({ s0 with queues := d.queues }).setMmu 0 ⟨[⟨0, 0, 0, 1, 0xD7⟩], []⟩
     fromPeerB s p 4 f = true ∧ (descAt s 5 3).any (fun e => e.stage == .started && decide (e.opc = 0x43)) = true ∧
       (match descAt s 5 3 with
        | some e => let r := rqWrite (beginIntake (takeArrived s p) f 3) (flowRq s 5 e f) 64 [1, 2, 3, 4]
          r.1 && decide (r.2.flow 3 = some f)
        | none => false) = true) := by decide +kernel

/-- Job 0 runs one FRECV station of flow 3 into conduit 0 in one position, of a format without slot bytes, so that the tile is small; item 7 awaits step 0's tile. -/
def recvCnd : Cnd := ⟨⟨0, 0, 0, 1, 1, 2⟩, 0, [], [], [], 0⟩
def recvStn (dst : Nat) : Stn :=
  { aStation with dst := dst, df := { aStation.df with kind := 0x12, outs := [some 0], param := [3, 0, 0, 0] } }
def recvState (dst : Nat) (p : Packet) : State :=
  let s := (packetState aFlow [p]).setJob 0 (some { aJob 1 with stns := [recvStn dst], cnds := [recvCnd] })
  (s.setItem 7 (some { anItem with kind := 0x12, nord := 1 })).setMmu 0 ⟨[⟨0, 0, 0, 1, 0xD7⟩], []⟩

/-- Its tile: zeros, with a digest and a CID. -/
def aTile (digest cid : Nat) : List Byte := (Tag.mk 0 0 0 64 64 0 false false true digest cid).bytes ++ List.replicate (slotBytes 0) 0

theorem witness_TilesNacksAndRefusalsFollowTheFlow :
    (∀ dst ∈ [0, 1], let p := aPacket 9 0 0 8 0 [1, 2, 3, 4, 5, 6, 7, 8]
      let s := recvState dst p
      fromPeerB s p 9 aFlow = true ∧ p.psn = aFlow.exp ∧ (recvStation s 3 0).any (fun x => decide (x.2.2.2.dst = dst)) = true ∧
        recvStation s 3 1 = none ∧ (transfer aFlow p).rcid = 0 ∧ (transferBytes (transfer aFlow p)).length < 32 + slotBytes 0) ∧
    (∀ sub ∈ [1, 2, 3, 4], let f := sentFlow [(9, 4, .tile 7)]
      let p := aPacket 7 sub 0 0 0 []
      fromPeerB (packetState f [p]) p 7 f = true ∧ (f.sent.map (fun k => (k.pkt.psn, k.pkt.type, k.answered))) = [(0, 9, false)]) ∧
    (∀ x ∈ [(1, PktSrc.post), (2, .cmd 5 3 0), (2, .hart 1), (2, .fetch 4 64), (3, .commitAtom 7), (2, .load 0 0)],
      let f := sentFlow [(x.1, 4, x.2)]
      let p := aPacket 8 3 0 0 0 []
      fromPeerB (packetState f [p]) p 8 f = true ∧ (f.sent.map (fun k => (k.pkt.psn, k.pkt.type, k.answered))) = [(0, x.1, false)]) := by
  decide +kernel

theorem witness_TilesNacksAndRefusalsFollowTheFlow_whole :
    let good := crc32c (List.replicate (slotBytes 0) 0)
    (∀ x ∈ [(good, 0), (good, 5), (1, 0)],
      let p := aPacket 9 0 0 32 0 (aTile x.1 x.2)
      let s := recvState 0 p
      let bytes := transferBytes (transfer aFlow p)
      fromPeerB s p 9 aFlow = true ∧ bytes.length = 32 + slotBytes 0 ∧ (tagOf (bytes.take 32)).digest = x.1 ∧
        crc32c (bytes.drop 32) = good ∧ (tagOf (bytes.take 32)).cid = x.2 ∧ (tagOf (bytes.take 32)).fmt = 0) ∧
    (let p := aPacket 9 0 0 32 0 (aTile good 0)
     let s := recvState 0 p
     let u := (beginIntake s aFlow 3).setFlow 3 { aFlow with rx := some (transfer aFlow p) }
     (s.liveItems.find? (fun (_, i) => i.job == 0 && i.sid == 0 && i.step == 0 && i.ords.contains 0)).any (fun x =>
       decide (x.1 = 7) && !x.2.wrote.any (fun w => w.ord == 0) &&
         (rqWrites u (itemRq u 7 x.2) [((aJob 1).slotVa 0 recvCnd (recvCnd.ordinal 0 0 0 0 + 0), List.replicate (slotBytes 0) 0)]).1) = true) := by
  decide +kernel

/-- An opening flow of entry 3, and descriptors of flow commands on it. -/
def flowDesc (opc : Byte) (more : List Byte) (f : Option FlowSt) : State :=
  let s := (packetState aFlow []).setReg (regAddr (pgRtr 0) 0x120) 1
  let s1 := { s with queues := (oneDesc ([opc, 3] ++ List.replicate 22 0 ++ [3, 0, 0, 0] ++ more) .accepted).queues }
  let s2 := s1.setReg (regAddr (pgRtr 0) 0x108) 0x400
  match f with
  | some x => s2.setFlow 3 x
  | none => { s2 with fab := { s2.fab with flows := [] }, mem := [] }

/-- A handshake packet. -/
def aCtl (sub : Nat) (body : List Byte) : Packet := aPacket 0xC sub 0 body.length 0 body

theorem witness_FlowsOpenSendAndClose_commands :
    startsB (flowDesc 0x40 [] none) 0x40 = true ∧
    (let s := flowDesc 0x40 [] none
     2 ^ flowLog s > 3 ∧ s.flow 3 = none ∧ ringSize s 0 ≠ 0 ∧ myNode s ≠ 0x3FFFF ∧ fieldAt (s.bytes (flowAddr s 3) 256) 0 1 % 8 = 0 ∧
       flowEntryOk (s.bytes (flowAddr s 3) 256) = false ∧ s.poisoned (flowAddr s 3) = false ∧
       flowEntryOk ((s.putBytes (flowAddr s 3) ([0, 3, 0, 0] ++ [1, 0, 0, 0, 7, 0, 0, 0, 64, 0, 64, 0, 0, 16, 0, 0, 3])).bytes (flowAddr s 3) 256) = true) ∧
    (∀ st ∈ [1, 2, 4], startsB (flowDesc 0x41 [] (some { aFlow with st := st })) 0x41 = true) ∧
    (let s := (flowDesc 0x42 (List.replicate 20 0 ++ [16, 0, 0, 0, 0, 0, 0, 0]) (some aFlow)).setMmu 0 ⟨[⟨0, 0, 0, 1, 0xD7⟩], []⟩
     startsB s 0x42 = true ∧ (match descAt s 5 3 with
       | some d => (rqRead s (flowRq s 5 d aFlow) (d.op 32 8) 16).1.isSome && decide (d.op 24 4 = 3) &&
         (rqProbe (flowRq s 5 d aFlow) [(d.op 32 8, 16)] s).1 && !fenceOwed s 5 d
       | none => false) = true) ∧
    startsB (flowDesc 0x43 [] none) 0x43 = true ∧ startsB (flowDesc 0x44 [] none) 0x44 = true ∧
    (let s := { (packetState { aFlow with outq := [⟨1, 0, 0, 4, [], .group 0 9 0⟩] } []) with queues := (oneDesc ([0x44, 3] ++ List.replicate 22 0 ++ [0, 1]) .accepted).queues }
     startsB s 0x44 = true ∧ (descAt s 5 3).any (fun d => fenceOwed s 5 d) = true) := by
  decide +kernel

theorem witness_FlowsOpenSendAndClose_handshake :
    (∀ sub ∈ [1, 2, 3, 4], ∀ body ∈ [List.replicate 48 0, 1 :: List.replicate 47 0], ∀ st ∈ [1, 2],
      let f := { aFlow with st := st, ackGot := true }
      let s := (packetState f [aCtl sub body])
      fromPeerB s (aCtl sub body) 0xC f = true ∧ (aCtl sub body).subop = sub ∧ flowCmds s 3 = [] ∧ flowSeats s 3 = [] ∧ s.pair = none ∧
        (ownDigest s).length = 48 ∧ bit 0 ((s.setReg (regAddr (pgRtr 0) 0x108) 1).reg (regAddr (pgRtr 0) 0x108)) = true) ∧
    (let f := sentFlow [(1, 4, .post)]
     let s := packetState f []
     s.flow 3 = some f ∧ s.elog.armed = [] ∧ f.sent ≠ [] ∧ f.retries < f.retrymax ∧ flowCmds s 3 = [] ∧ flowSeats s 3 = [] ∧
       (∀ k ∈ f.sent, k.src = .post) ∧ { f with retries := 3 }.retrymax ≤ 3) := by decide +kernel

/-- Engine 0 of X-die 0 can serve flow f, which is alone; a send-record ring is there. -/
def sliceState (f : FlowSt) : State := (packetState f []).setReg (regAddr (pgRtr 0) 0x120) 1
def sliceB (f : FlowSt) : Bool :=
  let s := sliceState f
  live s && !bit 0 (s.reg (regAddr pgGlb 0x1C0)) && harRuns s 0 0 && decide (s.flow 3 = some f) && decide (serveDie s f.hx = 0) &&
    !armedAt s (pgHar 0 0) 8 && decide (f.rnode ≠ myNode s) && s.liveItems.isEmpty

theorem witness_FlowsOpenSendAndClose_slices :
    (∀ f ∈ [{ aFlow with st := 1, ctl := [(1, 0)] }, { aFlow with nack := some (1, 0) }, { aFlow with resps := [aPacket 4 0 (7 * 2 ^ 46) 0 0 []] },
        { sentFlow [(1, 4, .post)] with resend := some 0 }, { aFlow with outq := [⟨1, 0, 7 * 2 ^ 46, 4, [1, 2, 3, 4], .post⟩] }, aFlow,
        { aFlow with st := 3 }], sliceB f = true) ∧
    (resendable { sentFlow [(1, 4, .post)] with resend := some 0 }).isSome = true ∧
    (let f := { aFlow with outq := [⟨1, 0, 7 * 2 ^ 46, 4, [1, 2, 3, 4], .post⟩] }
     sendable (sliceState f) f = some ⟨1, 0, 7 * 2 ^ 46, 4, [1, 2, 3, 4], .post⟩) ∧
    sendable (sliceState aFlow) aFlow = none ∧
    (let s := { sliceState aFlow with fab := { (sliceState aFlow).fab with harDead := (List.range 15).map (· + 1) ++ (List.range 16).map (· + 64) } }
     harRuns s 0 0 = true ∧ s.fab.flows = [(3, some aFlow)] ∧
       (let left := { s with fab := { s.fab with harDead := s.fab.harDead ++ [0] } }
        harAny left 0 = false ∧ harAny left 1 = false) ∧
       harAny { (sliceState aFlow) with fab := { (sliceState aFlow).fab with harDead := [0] } } 0 = true) := by decide +kernel

/-- An FSEND item's first tile, under a credit mark. -/
theorem witness_FlowsOpenSendAndClose_tile :
    (let st : Stn := { aStation with df := { aStation.df with kind := 0x11, ins := [some 0], param := [3, 0, 0, 0, 9, 0] } }
     let j := { aJob 1 with stns := [st], cnds := [recvCnd] }
     let it := { anItem with kind := 0x11, nord := 1 }
     let f := { aFlow with credit := some 0 }
     let s := ((((packetState f []).setReg (regAddr (pgRtr 0) 0x120) 1).setJob 0 (some j)).setItem 7 (some it)).setMmu 0 ⟨[⟨0, 0, 16, 1, 0xD7⟩], []⟩
     let u := beginSlice s 0 0 3
     s.liveItems = [(7, it)] ∧ itemWaits s 7 = false ∧ tileMark 0 0 ≤ 0 ∧
       it.ords.find? (fun i => !it.computed.contains i && decide (tileMark it.step i ≤ 0)) = some 0 ∧ ioCnd j st.df.ins = some (0, recvCnd) ∧
       (rqReads (itemRq u 7 it) [(j.tagVa 0 recvCnd 0, 32), (j.slotVa 0 recvCnd 0, slotBytes 0)] u).1.map (fun y => (y.1.map List.length, y.2)) = some ([32, slotBytes 0], false)) := by decide +kernel

theorem witness_FlowsOpenSendAndClose_beacons :
    (let s := portState 0 0x831
     live s = true ∧ isRouterPort s 0 = true ∧ portUp s 0 = true ∧ (ownDigest s).length = 48 ∧ portRoom s 0 = true ∧ roleOf s 0 = 1 ∧
       (∀ h, h < 20 → h ≠ 0 → portUp s h = false) ∧ bit 0 (s.reg (regAddr (pgHlp 0) 0x120)) = false ∧
       bit 0 ((s.setReg (regAddr (pgHlp 0) 0x120) 1).reg (regAddr (pgHlp 0) 0x120)) = true ∧ s.elog.armed = []) := by decide +kernel

/-- Lane group 0 binds channel 2: two replicas, one hop, this one the child (1) or the root (0), with its table at 0x3000 and
flow 3 to node 7; step 0 of one tile is on the seat. -/
def bindWord (myrep : Nat) : W64 := BitVec.ofNat 64 (2 ^ 63 + 1 * 2 ^ 60 + myrep * 2 ^ 37 + 2 * 2 ^ 18 + 5)
def seatState (myrep : Nat) (x : Seat) (ps : List Packet) : State :=
  let s := ((enable (packetState aFlow ps) (pgLra 0)).setReg (regAddr (pgLra 0) 0x220) (bindWord myrep)).setReg (regAddr (pgLra 0) 0x228) 0x3000
  let s1 := (s.setReg (regAddr (pgLra 0) 0x310) (BitVec.ofNat 64 noStep)).putBytes 0x3000 (leBytes 8 (2 ^ 63 + 3 * 2 ^ 18 + 7) ++ leBytes 8 (2 ^ 63 + 3 * 2 ^ 18 + 7))
  s1.setSeat 0 2 x
def aSeat : Seat := { Seat.reset with step := some 0, tiles := some 1 }

/-- A REDUCE packet of channel 2, step 0. -/
def aReduce (rep chunk subop len step : Nat) : Packet :=
  aPacket 0xA subop (2 * 2 ^ 42 + rep * 2 ^ 24 + chunk) len 0 (leBytes 8 step ++ leBytes 4 2 ++ leBytes 2 5 ++ leBytes 2 1)

theorem witness_SeatsAndDeferredAddsCombineInOrder_packets :
    (let p := aReduce 1 0 0 2064 0
     let s := seatState 0 aSeat [p]
     fromPeerB s p 0xA aFlow = true ∧ seatPage s (redPkt p).rvc = some 0 ∧ lraStep s 0 2 = noStep ∧ redAgrees s 0 (redPkt p) = true ∧
       aSeat.base = 0 ∧ mayHold s 0 2 1 = true ∧ nbit 0 p.subop = false ∧ seatPage s 2 = some 0 ∧ (binding s 0 2).children = [(0, 1)] ∧
       redAgrees s 0 (redPkt (aReduce 0 0 0 2064 0)) = false ∧ (redPkt p).step = 0) ∧
    (let p := aReduce 0 0 5 2064 0
     let s := seatState 1 aSeat [p]
     fromPeerB s p 0xA aFlow = true ∧ redAgrees s 0 (redPkt p) = true ∧ nbit 0 p.subop = true ∧ (binding s 0 2).parent = some 0) ∧
    (∀ rep ∈ [0, 1], let p := aReduce rep 0 1 16 0
     let s := seatState (1 - rep) aSeat [p]
     fromPeerB s p 0xA aFlow = true ∧ (redPkt p).nrep = 2 ∧ (redPkt p).grpid = 5 ∧ (redPkt p).rep = rep ∧ (binding s 0 2).nrep = 2) := by
  decide +kernel

theorem witness_SeatsAndDeferredAddsCombineInOrder_actions :
    (let x := { aSeat with ins := [⟨0, 0, 1, [], false⟩], nodes := [⟨0, 1, [], false⟩] }
     let s := seatState 1 x []
     live s = true ∧ lraServes s 0 = true ∧ (binding s 0 2).v = true ∧ (s.flow (tableEntry s 0 2 0).2.2.1).isSome = true ∧
       armedAt s (pgLra 0) 9 = false ∧ owedResult [⟨0, [], [1], false⟩] = some (⟨0, [], [1], false⟩, 1) ∧ (binding s 0 2).parent = some 0 ∧
       x.ins.find? (fun i => !i.used) = some ⟨0, 0, 1, [], false⟩) ∧
    (let w : W64 := BitVec.ofNat 64 (2 ^ 63 + 1 * 2 ^ 60 + 2 * 2 ^ 37 + 8 * 2 ^ 18 + 5)
     let s := (seatState 0 aSeat []).setReg (regAddr (pgLra 0) 0x220) w
     let b := binding s 0 2
     b.hops = [(0, 1)] ∧ b.top = 1 ∧ b.parent = some 0 ∧ hopReps b.nrep b.myrep 0 1 = [2, 3]) ∧
    (let s := packetState aFlow []
     lraInForce s 0 = true ∧ (s.seat 0 2).busy = false ∧ (aSeat).busy = true ∧ bindOk s 0 2 (bindingOf (bindWord 1)) = true ∧
       tabOk s (gtabBase s 0 2) 2 = true ∧ tabOk s 0x3000 0 = true ∧ bindOk s 0 2 (bindingOf (setBit 61 (bindWord 1) true)) = true ∧
       bindOk s 0 2 (bindingOf (BitVec.ofNat 64 (2 ^ 63))) = false) ∧
    bit 63 (0x8000000014000001 : W64) = true ∧ 19 < fld 28 24 (0x8000000014000001 : W64) ∧ State.reset.regF (pgRtr 0) 0x128 13 0 < 8224 := by
  decide +kernel

/-- An LREDUCE item of one tile reads and writes at addresses that translate to memory. -/
def reduceStn : Stn := { aStation with df := { aStation.df with kind := 0x13, ins := [some 0], outs := [some 0], param := [2, 0, 0, 0, 2, 0, 0, 0], items := 1 } }
def reduceState : State :=
  let x := { aSeat with ress := [⟨1, [], [], false⟩] }
  let s := (seatState 0 x []).setJob 0 (some { aJob 1 with stns := [reduceStn], cnds := [recvCnd] })
  (s.setItem 7 (some { anItem with kind := 0x13, nord := 1, owner := 0 })).setMmu 0 ⟨[⟨0, 0, 16, 1, 0xD7⟩], []⟩

theorem witness_SeatsAndDeferredAddsCombineInOrder_items :
    (let s := reduceState
     nextLocal s 0 2 = some 0 ∧ (seatItem s 0 2 0).isSome = true ∧ (reach s 0 2 0).isSome = true ∧
       (match seatItem s 0 2 0, reach s 0 2 0 with
        | some (n, it), some s1 =>
          (rqRead s1 (itemRq s1 n it) ((aJob 1).slotVa 0 recvCnd 0) 16).1.isSome && it.tagsOk &&
            (rqRead s (itemRq s n it) ((aJob 1).tagVa 0 recvCnd 0) 32).1.isSome && (rqWrites s (itemRq s n it) [((aJob 1).slotVa 0 recvCnd 0, [])]).1
        | _, _ => false) = true) ∧
    (let j := { aJob 1 with stns := [], defers := [⟨0, 0, 0, 0, 0x2000, 0x3F800000⟩, ⟨1, 0, 0, 0, 0x2000, 0⟩] }
     let k := { j with stns := [{ aStation with df := { aStation.df with items := 1 } }] }
     allCommitted j 0 = true ∧ allCommitted k 0 = false ∧ (j.defers.map (fun d => d.step)) = [0, 1] ∧
       ((State.reset.setJob 0 (some j)).job 0).isSome = true) := by decide +kernel

/-- A job of one COPY station that is paired, with an own area at 0x10000 of an exported GiB, comparing or waiting as given. -/
def pairState (lsst jst low : Nat) : State :=
  let j := { aJob jst with low := low, digest := List.replicate 48 7 }
  let s := (((packetState aFlow []).setJob 0 (some j)).setReg (regAddr pgGlb 0x118) (BitVec.ofNat 64 lsst)).setReg (regAddr pgGlb 0x120) (BitVec.ofNat 64 (2 ^ 64 - 1))
  { s with pair := some ⟨0, 0, 3, 0, 0x10000, 5, 3⟩ }
def pairJob (jst low : Nat) : Job := { aJob jst with low := low, digest := List.replicate 48 7 }

/-- The bytes of a REGEN or LSPAIR descriptor: operands at 24, 32, 40. -/
def detBytes (opc : Byte) (mid last : List Byte) : List Byte := [opc, 3] ++ List.replicate 22 0 ++ mid ++ last

theorem witness_RegenerationAndPairsFollowTheirRules :
    (∀ st ∈ [0, 1], startsB (jobDesc st (detBytes 0x60 [0, 0, 0, 0, 0, 0, 0, 0] [2, 0, 0, 0, 0, 0, 0, 0, 1]) .accepted) 0x60 = true ∧
      ((jobDesc st [] .accepted).job 0).all (fun j => decide (j.jstate = st)) = true) ∧
    (let s := ((oneDesc (detBytes 0x60 [] []) .accepted).setReg (regAddr pgGlb 0x100) 1).setJob 0 (some { aJob 0 with stns := [{ aStation with df := { aStation.df with kind := 1, outs := [some 0] } }], cnds := [recvCnd] })
     startsB s 0x60 = true ∧ detm s = true ∧ (s.job 0).all (fun j => regenOk j 0) = true ∧ (s.job 0).all (fun j => regenOk j 1) = false) ∧
    detm State.reset = false ∧
    (let s0 := (oneDesc (detBytes 0x61 [0, 0, 0, 0, 3, 0, 0, 0] [0, 0, 0, 0, 0, 0, 0, 0, 0, 0, 1, 0, 0, 0, 0, 0]) .accepted).setJob 0 (some (pairJob 0 0))
     let s := ((((s0.setReg (hlpStat 0) (BitVec.ofNat 64 (0x831 + 2 ^ 50 + 7 * 2 ^ 32))).setReg (regAddr (pgRtr 0) 0x200) 0xE000000100000000).setReg (regAddr (pgRtr 0) 0x110) 0x1000000).setFlow 3 aFlow)
     startsB s 0x61 = true ∧ s.pair = none ∧ (descAt s 5 3).all (fun d => decide (d.op 25 1 = 0 ∧ d.op 28 4 = 3 ∧ d.op 40 8 = 0x10000)) = true ∧
       pairFlowOk s 0 3 = true ∧ pairAreaOk s (pairJob 0 0) 0x10000 = true ∧ pairAreaOk s (pairJob 0 0) (2 ^ 45) = false ∧ pairFlowOk s 0 4 = false) ∧
    (let s := { oneDesc (detBytes 0x62 [] []) .accepted with pair := some ⟨0, 0, 3, 0, 0, 5, 2⟩ }
     startsB s 0x62 = true) := by decide +kernel

theorem witness_RegenerationAndPairsFollowTheirRules_compare :
    (let s := pairState 1 1 0
     live s = true ∧ lsState s = 1 ∧ s.job 0 = some (pairJob 1 0) ∧ (s.bytes 0x10000 71).drop 70 ≠ [0x55] ∧
       (let t := s.putBytes 0x10000 (greeting (pairJob 1 0) ++ [0x55])
        (t.bytes 0x10000 71).drop 70 = [0x55] ∧ (t.bytes 0x10000 71).take 70 = greeting (pairJob 1 0)) ∧
       (let t := s.putBytes 0x10000 (List.replicate 70 1 ++ [0x55])
        (t.bytes 0x10000 71).drop 70 = [0x55] ∧ (t.bytes 0x10000 71).take 70 ≠ greeting (pairJob 1 0))) ∧
    (let s := pairState 2 1 1
     let j := pairJob 1 1
     lsState s = 2 ∧ lsCmp s = 2 ^ 64 - 1 ∧ (0 < j.s0 + j.low) ∧ leNat (s.bytes (0x10000 + 0x1000) 8) = 0 ∧
       stationDigest j 0 0 = leNat (s.bytes (0x10000 + 0x1000 + 64) 8) ∧ (s.flow 3).isSome = true ∧
       (let t := s.putBytes (0x10000 + 0x1000 + 64) [1]
        stationDigest j 0 0 ≠ leNat (t.bytes (0x10000 + 0x1000 + 64) 8) ∧ (askLog t ⟨0, 0, 3, 0, 0x10000, 5, 3⟩ j 0 aStation.df).1.isSome = true)) ∧
    (let s := State.reset
     live s = true ∧ bit 1 (s.reg (regAddr pgGlb 0x100)) = false ∧ s.jobs = [] ∧ hasCdie s 0 = true ∧ siteHere s 0 = true ∧
       bit 1 ((s.setReg (regAddr pgGlb 0x100) 2).reg (regAddr pgGlb 0x100)) = true) := by decide +kernel

theorem witness_PowerControllersKeepTheirBudgets :
    (∀ d ∈ [0, 1, 2, 3, 4], hasDie State.reset d = true) ∧ live State.reset = true ∧ bit 0 (State.reset.reg (regAddr pgGlb 0x1C0)) = false ∧
    State.reset.elog.armed = [] ∧ State.reset.phase = .running ∧ siteHere State.reset 0 = true ∧
    (let s := { State.reset with pwr := { State.reset.pwr with capsets := [(1, 3, 1800, 5)] } }
     s.pwr.capsets.find? (fun m => m.1 == 1 && m.2.1 == 3) = some (1, 3, 1800, 5)) ∧
    (let s := State.reset.setPdie 0 { PwrDie.reset with hint := some ⟨0, 2, 0, 9⟩ }
     (s.pdie 0).hint.isSome = true ∧ (State.reset.pdie 0).hint = none) ∧
    fld 15 0 (1800 : W64) = 1800 ∧ fld 15 0 (99 : W64) < 1000 ∧ bit 56 (State.reset.reg (regAddr (pgPwr 2) 0x108)) = false ∧
    fld 7 0 (0x0005050505 : W64) = 5 ∧ (∀ b ∈ [false, true], bit 8 ((State.reset.setReg (regAddr (pgPwr 2) 0x138) (if b then 0x100 else 0)).reg (regAddr (pgPwr 2) 0x138)) = b) := by
  decide +kernel

theorem witness_PowerControllersKeepTheirBudgets_rest :
    cdiesIdle State.reset = true ∧ State.reset.regF (pgPwr 2) 0x128 2 0 = 0 ∧
    (let s := (State.reset.setReg (regAddr (pgPwr 2) 0x118) 100).setReg (regAddr (pgPwr 2) 0x120) 0x400000000
     s.regF (pgPwr 2) 0x118 31 0 = 100 ∧ s.regF (pgPwr 2) 0x120 34 32 = 4) ∧
    (let s := State.reset.setRegF (pgPwr 2) 0x128 2 0 3
     s.regF (pgPwr 2) 0x128 2 0 = 3 ∧ live s = true) ∧
    cdiesIdle (queuedState 0) = false ∧
    elogRingOk State.reset 0x100806 = true ∧ fld 4 0 (0x100806 : W64) = 6 ∧ bit 11 (State.reset.reg (regAddr pgGlb 0x180)) = false ∧
    idxSub State.reset.elog.prod 0 ≤ 2 ^ fld 4 0 (State.reset.reg (regAddr pgGlb 0x180)) ∧
    ¬(idxSub State.reset.elog.prod 1 ≤ 2 ^ fld 4 0 (State.reset.reg (regAddr pgGlb 0x180))) := by decide +kernel

/-- Boot at a stage. -/
def stageState (n : Nat) : State := State.reset.setRegF pgSec 0x100 11 8 n

/-- A stopped boot. -/
def stoppedState : State := { State.reset with boot := { State.reset.boot with stopped := true } }

theorem witness_BootStagesMeasureAndAttest :
    (∀ n ∈ [0, 1, 2, 3, 4], (stageState n).phase = .running ∧ (stageState n).boot.stopped = false ∧ (stageState n).regF pgSec 0x100 11 8 = n) ∧
    (stageState 0).reg (regAddr pgSec 0x100) = 0 ∧ manifestCode State.reset.keys [] = 5 ∧ isNear (stageState 3) 0x10000 = true ∧
    stoppedState.phase = .running ∧ stoppedState.boot.stopped = true ∧ (pathOf stoppedState stoppedState.mgmt.secActive).faulted = false ∧
    live State.reset = true ∧ hasCdie State.reset 0 = true ∧ hasWell State.reset = true ∧ hasDlk State.reset 0 = true ∧ diesOf State.reset ≠ [] := by
  decide +kernel

theorem witness_BootStagesMeasureAndAttest_digest :
    (∀ due ∈ [false, true], let s := { State.reset with boot := { State.reset.boot with digestDue := due } }
      live s = true ∧ bit 0 (s.reg (regAddr pgGlb 0x1C0)) = false ∧ s.boot.digestDue = due ∧ (∀ g, g < 20 → portUp s g = false)) ∧
    (State.reset.phase = .running ∧ ({ State.reset with phase := .fatal } : State).phase = .fatal ∧ ({ State.reset with phase := .fatal } : State).phase ≠ .running) := by
  decide +kernel

theorem witness_BootStagesMeasureAndAttest_port :
    let s := { portState 0 1 with boot := { State.reset.boot with digestDue := true } }
    live s = true ∧ s.boot.digestDue = true ∧ portUp s 0 = true ∧ isRouterPort s 0 = true ∧ portRoom s 0 = true ∧ roleOf s 0 = 1 ∧ ∀ h, h < 20 → h ≠ 0 → portUp s h = false := by
  decide +kernel

/-- An image entry of a TYPE for an image of no bytes. -/
def imgEntry (ty : Nat) : List Byte := [BitVec.ofNat 8 ty] ++ leBytes 15 0 ++ sha384 []

/-- A bank with SVN 1, COMMIT and four empty images; its keys and signatures are bytes of 0. -/
def aBank : List Byte := leBytes 4 0x54464D50 ++ [1, 4, 1, 0] ++ imgEntry 1 ++ imgEntry 2 ++ imgEntry 3 ++ imgEntry 4

/-- Fuses that hold the hashes of the bank's keys. -/
def someKeys : KeyFuses := ⟨[sha384 (slice aBank 0x208 96)], [sha384 (slice aBank 0x268 56)], 0, 0, 1⟩

/-- A valid manifest exists when both signatures verify; whether they do is a free value of Config. -/
theorem witness_BootStagesMeasureAndAttest_manifest
    (h1 : Config.ecdsaVerify (slice aBank 0x208 96) (slice aBank 0x2A0 96) (sha384 (manifestBody aBank)) = true)
    (h2 : Config.lmsVerify (slice aBank 0x268 56) (slice aBank 0x300 1772) (manifestBody aBank) = true) :
    manifestCode someKeys aBank = 0 := by
  have a : manifestFieldsOk aBank = true := by decide +kernel
  have b : imagesOk aBank = true := by decide +kernel
  have c : (keySlot someKeys.ecKeys someKeys.ecRev (slice aBank 0x208 96)).isNone = false := by decide +kernel
  have d : (keySlot someKeys.lmsKeys someKeys.lmsRev (slice aBank 0x268 56)).isNone = false := by decide +kernel
  have e : ¬(fieldAt aBank 4 1 < someKeys.svnMin) := by decide +kernel
  simp only [manifestCode, a, b, c, d, e, h1, h2]
  decide

/-- A unit of C-die 0 is halting or halted, with a selection waiting. -/
def haltState (h : Option (Nat × Bool)) (i : Option (Nat × Nat)) : State :=
  { State.reset with dbg := { State.reset.dbg with halt0 := h, insp0 := i } }

theorem witness_DebugAccess_mailbox :
    (let s := State.reset.setReg (regAddr (pgDbg 2) 0x100) 1
     live s = true ∧ bit 0 (s.reg (regAddr (pgDbg 2) 0x100)) = true ∧ s.dbg.mbox = none) ∧
    bit 0 (State.reset.reg (regAddr (pgDbg 2) 0x100)) = false ∧
    (∀ wr ∈ [false, true], let s := { State.reset with dbg := { State.reset.dbg with mbox := some (wr, regAddr pgGlb 0x100, 1) } }
     live s = true ∧ s.dbg.mbox = some (wr, regAddr pgGlb 0x100, 1) ∧ inAperture (regAddr pgGlb 0x100) = true ∧ regAddr pgGlb 0x100 % 8 = 0) := by
  decide +kernel

theorem witness_DebugAccess_halt :
    (let s := haltState none none
     live s = true ∧ hasCdie s 0 = true ∧ inService s 3 = true ∧ haltOf s 0 = none) ∧
    (∀ f ∈ [false, true], let s := haltState (some (3, f)) none
     live s = true ∧ haltOf s 0 = some (3, f) ∧ inspOf s 0 = none ∧ (s.cu 3).mxq = [] ∧ (s.cu 3).loads = [] ∧ (s.cu 3).misses = [] ∧ readyGroups s 3 = []) ∧
    (let s := (haltState (some (3, false)) none).setCu 3 { CuSt.reset with mxq := [⟨0, 0, .dev 0 0 0 0 0, false⟩] }
     haltOf s 0 = some (3, false) ∧ (s.cu 3).mxq ≠ []) ∧
    fld 63 60 (0x1000000000000008 : W64) = 1 ∧ fld 63 60 (0 : W64) < 1 := by decide +kernel

theorem witness_DebugAccess_inspect :
    (∀ i ∈ [(1, 8), (2, 33), (3, 65), (4, 4)], let s := haltState (some (3, true)) (some i)
     live s = true ∧ haltOf s 0 = some (3, true) ∧ inspOf s 0 = some i) ∧
    (let s := (haltState (some (3, true)) (some (3, 1))).setGrp 3 0 (some aGroup)
     s.grp 3 0 = some aGroup ∧ s.grp 3 1 = none ∧ residents s 3 = [(0, aGroup)]) ∧
    (let it := { anItem with die := 0, owner := 3 }
     let s := (haltState (some (3, true)) (some (4, 4))).setItem 7 (some it)
     (unitItems s 3)[0]? = some (7, it) ∧ it.bytes.length = 32 ∧ it.home < 1024 ∧ it.steals < 8 ∧ it.attempt < 256 ∧ it.jseq < 2 ^ 64) := by
  decide +kernel

/-! ### Well-formedness: every check refuses an ill-formed term -/

/-- A group instruction's fields within their bits; one field at a time beyond them (R176). -/
theorem test_wf_group_fields :
    GFields.wf ⟨255, 255, 255, 255, 0xFFFFFF⟩ = true ∧ GFields.wf ⟨256, 0, 0, 0, 0⟩ = false ∧ GFields.wf ⟨0, 256, 0, 0, 0⟩ = false ∧
    GFields.wf ⟨0, 0, 256, 0, 0⟩ = false ∧ GFields.wf ⟨0, 0, 0, 256, 0⟩ = false ∧ GFields.wf ⟨0, 0, 0, 0, 0x1000000⟩ = false := by decide

/-- A packet's header fields one at a time beyond their bits, and a payload of another length than LEN (R393). -/
theorem test_wf_packet :
    aWrite.wf = true ∧ ({ aWrite with type := 16 } : Packet).wf = false ∧ ({ aWrite with ver := 4 } : Packet).wf = false ∧
    ({ aWrite with hops := 32 } : Packet).wf = false ∧ ({ aWrite with vc := 8 } : Packet).wf = false ∧
    ({ aWrite with echk := 4 } : Packet).wf = false ∧ ({ aWrite with len := 4097 } : Packet).wf = false ∧
    ({ aWrite with gaddr := 2 ^ 64 } : Packet).wf = false ∧ ({ aWrite with subop := 256 } : Packet).wf = false ∧
    ({ aWrite with snode := 2 ^ 18 } : Packet).wf = false ∧ ({ aWrite with dflow := 2 ^ 20 } : Packet).wf = false ∧
    ({ aWrite with psn := 2 ^ 32 } : Packet).wf = false ∧ ({ aWrite with ackpsn := 2 ^ 32 } : Packet).wf = false ∧
    ({ aWrite with tagid := 2 ^ 16 } : Packet).wf = false ∧ ({ aWrite with payload := [5, 6] } : Packet).wf = false ∧
    ({ aWrite with type := 2 } : Packet).wf = false := by decide +kernel

/-- The operand types of their own. -/
theorem test_wf_operands :
    WdlWork.wf (.chunk 4096 0 0) = false ∧ WdlWork.wf (.chunk 0 65536 0) = false ∧ EngineRef.wf (.har 2 0 0) = false ∧
    EngineRef.wf (.har 0 16 0) = false ∧ EngineRef.wf (.wdl 2 0) = false ∧ EngineRef.wf (.wdl 0 2) = false ∧
    PcieReq.wf (.read (some 65536) 0 0) = false ∧ PcieReq.wf (.read none (2 ^ 64) 0) = false ∧ PcieReq.wf (.read none 0 4097) = false ∧
    PcieReq.wf (.write (some 65536) 0 []) = false ∧ PcieReq.wf (.write none (2 ^ 64) []) = false ∧ lineOk (some [1]) = false := by decide

/-- Numbers of dies, pages, links, units, sites, groups, channels, lane groups and harts. -/
theorem test_wf_places :
    ([.refLossDetect 5, .railOutOfRegulation 5 0, .ctrlWrite 65536 0, .evcntOverflow 65536 0 0, .evcntOverflow 0 64 0, .evselWrite 65536 0 0,
      .evselWrite 0 64 0, .dlkShareWrite 10 0, .dlkFlitReceive 10 0 0 0 true, .dlkFlitReceive 0 (2 ^ 32) 0 0 true, .dlkFlitReceive 0 0 0 16 true,
      .cuRetire 1152 0, .cmeClean 2, .dbgInsp 2 0, .dbgHalt 2 0, .dbgHalt 0 1024, .iadd 1152 0 ⟨0, 0, 0, 0, 0⟩, .iadd 0 64 ⟨0, 0, 0, 0, 0⟩,
      .iadd 0 0 ⟨256, 0, 0, 0, 0⟩, .barrierTimeout 1152 0 0, .barrierTimeout 0 4 0, .barrierTimeout 0 0 16, .cuCacheFill 1152 0,
      .cuCacheFill 0 (2 ^ 41), .moverTileDone 1152 0 0, .moverTileDone 0 4 0, .wcAgeTimeout 2 0, .wcAgeTimeout 0 16, .portDown 20,
      .wdlChunkDone 2 0 (.tile 0 0) false, .wdlChunkDone 0 2 (.tile 0 0) false, .wdlChunkDone 0 0 (.chunk 4096 0 0) false,
      .nandPackageLoss 2 0, .nandPackageLoss 0 16, .nandOvertemp 2 0, .tokready 2 0, .tokready 0 16, .mtimerExpire 128, .freqChangeDone 128,
      .packetForward 2 [], .harSlice 2 0 0, .harSlice 0 16 0, .lraSeatAction 20 0 0, .lraSeatAction 0 16 0, .lraSeatAction 0 0 5,
      .lraBindWrite 20 0 true 0, .lraBindWrite 0 16 true 0, .engineFault (.wdl 2 0), .capset 5 0, .capset 0 (2 ^ 32), .hintLapse 5,
      .pwrWindow 5 [] 0 0 false false, .hostFabricApertureAccess 128 .load 0 4, .hostFabricApertureAccess 0 .load (2 ^ 48) 4,
      .pcieDeviceRequest 20 .intx, .pcieDeviceRequest 0 (.read none 0 4097)] : List Instr).all (fun i => !i.wf) = true := by decide +kernel

/-- Queues, indices, jobs, slots, names, address spaces, addresses, masks, lines, values, digests and nonces. -/
theorem test_wf_values :
    ([.load 4096 0, .load 0 65536, .doorbell 4096 0, .stationStopped 64 0, .stationStopped 0 65536, .jobStopped 64, .sumpRecordWrite 4096,
      .sumpResumeRetry 4096 0, .sumpResumeRetry 0 (2 ^ 32), .mmuInvAll 65536, .regWrite .potemir false (2 ^ 48) 8 0,
      .nmcWrite (2 ^ 48) 0 (List.replicate 128 0), .nmcWrite 0 (2 ^ 128) (List.replicate 128 0), .nmcWrite 0 0 [], .wellUnitsFreed (2 ^ 64) 0,
      .atfar 0 3 0 0, .atfar 0 4 (2 ^ 48) 0, .atfar 0 4 0 (2 ^ 32), .wbdirty 0 (2 ^ 48) (List.replicate 128 0), .wbdirty 0 0 [1],
      .rdown 0 (2 ^ 48) none, .cboClean 128 0 none, .cboClean 0 (2 ^ 48) none, .cboClean 0 0 (some [1]),
      .llrFrameReceive 20 0 [] true none none, .llrFrameReceive 0 (2 ^ 32) [] true none none, .write { aWrite with vc := 8 },
      .beacon 20 (List.replicate 48 0), .beacon 0 [], .linkTrainDone 20 [] 0 0 0 0 (List.replicate 48 0), .linkTrainDone 0 [] 0 0 0 0 [],
      .measExtend 8, .challenge false 0 [], .getMeasurements false 65536 false (List.replicate 32 0), .getMeasurements false 1 false [],
      .bootMemoryDone (2 ^ 48) 0, .bootMemoryDone 0 (2 ^ 52), .dynamicAddressAssignment false 128] : List Instr).all (fun i => !i.wf) = true := by
  decide +kernel

/-! ### Worked examples of the spec -/

/-- spec/06_arithmetic.md, one rounding per block: 2^24 + 2 in each mode as BF16 (format 0x02). -/
theorem test_bf16_roundings :
    (fmtKind 0x02).map (fun k => (List.range 3).map (fun m => k.encode m 0 false (dec32 0x4B800001))) = some [0x4B80, 0x4B80, 0x4B81] ∧
    (fmtKind 0x02).map (fun k => [k.encode 3 65535 false (dec32 0x4B800001), k.encode 3 65536 false (dec32 0x4B800001)]) =
      some [0x4B81, 0x4B80] := by decide +kernel

/-- spec/06_arithmetic.md, 470.0 and 430.0 as OFP8 E4M3. -/
theorem test_e4m3_top :
    (fmtKind 0x04).map (fun k => (List.range 3).map (fun m => k.encode m 0 false (dec32 0x43EB0000))) = some [0x7F, 0x7E, 0x7E] ∧
    (fmtKind 0x04).map (fun k => (List.range 3).map (fun m => k.encode m 0 true (dec32 0x43EB0000))) = some [0x7E, 0x7E, 0x7E] ∧
    (fmtKind 0x04).map (fun k => [k.encode 3 2952790015 false (dec32 0x43EB0000), k.encode 3 2952790016 false (dec32 0x43EB0000)]) =
      some [0x7F, 0x7E] ∧
    (fmtKind 0x04).map (fun k => (List.range 3).map (fun m => k.encode m 0 false (dec32 0x43D70000))) = some [0x7D, 0x7D, 0x7D] := by
  decide +kernel

/-- spec/20_counters_and_debug.md R527: the die-wide LANEFIRE counter's EVSEL, at its address, is accepted. -/
theorem test_evselx_example :
    (match exec (.regWrite (.hart 0) true 0x7F0000002000 8 0x0000800C00030004) State.reset with
      | .next t => decide (t.reg 0x7F0000002000 = 0x0000800C00030004 ∧ t.errs = State.reset.errs)
      | _ => false) = true := by decide +kernel

/-- R53, R530: GO with EN = 0 is rejected, bit 0 of the H-die DBG page's ERR_STAT. -/
theorem test_mailbox_rejected :
    (match exec .mailboxRead State.reset with
      | .next t => decide (t.err (pgDbg 2) = 1 ∧ t.dbg = State.reset.dbg)
      | _ => false) = true := by decide +kernel

/-- FIPS 180-4's example "abc": SHA-384's first and last eight bytes. -/
theorem test_sha384_abc :
    (sha384 [0x61, 0x62, 0x63]).take 8 = [0xCB, 0x00, 0x75, 0x3F, 0x45, 0xA3, 0x5E, 0x8B] ∧
    (sha384 [0x61, 0x62, 0x63]).drop 40 = [0x58, 0xBA, 0xEC, 0xA1, 0x34, 0xC8, 0x25, 0xA7] := by decide +kernel

/-- With nothing waiting the block idles (log entry 1). -/
theorem test_step_idle : (match step State.reset with | .next t => decide (t.pending = [] ∧ t.mem = []) | _ => false) = true := by
  decide +kernel

end Sys2Proof.Tests
end

section
/-! Every command and every step keeps the fuses, the waiting commands and the canonical form of the tables
(`Keeps`); with what the fuse-loaded GLB_CAP registers reset to, the fuses never change (spec/00_scope.md R5, R6,
spec/01_module_and_dies.md R23). -/

namespace Sys2Proof.Proofs

open Sys2Proof.Laws Sys2Proof.Machine

/-! ### Every command and every step -/

/-- One arm per command, each by the law of its own meaning. RECALL stands last, for Mathlib has a token of its name. -/
theorem exec_keeps {z0 s : State} (c : Instr) (h : Keeps z0 s) : KeepsOut z0 (exec c s) := by
  cases c with
  | modResetAssert => exact execModResetAssert_keeps h
  | modResetRelease => exact execModResetRelease_keeps h
  | refLossDetect => exact execRefLossDetect_keeps h
  | railOutOfRegulation => exact execRailOutOfRegulation_keeps h
  | pwrgdRise => exact execPwrgdRise_keeps h
  | feedGood => exact execFeedGood_keeps h
  | feedOpen => exact execFeedOpen_keeps h
  | fullCapRestore => exact execFullCapRestore_keeps h
  | feedOvervoltage => exact execFeedOvervoltage_keeps h
  | feedReclose => exact execFeedReclose_keeps h
  | feedExternalShort => exact execFeedExternalShort_keeps h
  | hotswapTrip => exact execHotswapTrip_keeps h
  | wellPowerParked => exact execWellPowerParked_keeps h
  | i3cStuckLow => exact execI3cStuckLow_keeps h
  | i3cOpenProbe => exact execI3cOpenProbe_keeps h
  | i3cLineClean => exact execI3cLineClean_keeps h
  | i3cGetstatus => exact execI3cGetstatus_keeps h
  | priReturn => exact execPriReturn_keeps h
  | regWrite => exact execRegWrite_keeps h
  | regReadMisaligned => exact execRegReadMisaligned_keeps h
  | ctrlWrite => exact execCtrlWrite_keeps h
  | blockDrain => exact execBlockDrain_keeps h
  | blockAbort => exact execBlockAbort_keeps h
  | blockResume => exact execBlockResume_keeps h
  | blockDrainDone => exact execBlockDrainDone_keeps h
  | blockAbortDone => exact execBlockAbortDone_keeps h
  | errInjWrite => exact execErrInjWrite_keeps h
  | evcntOverflow => exact execEvcntOverflow_keeps h
  | evselWrite => exact execEvselWrite_keeps h
  | dlkShareWrite => exact execDlkShareWrite_keeps h
  | dlkFlitReceive => exact execDlkFlitReceive_keeps h
  | load => exact execLoad_keeps h
  | start => exact execStart_keeps h
  | admitSteps => exact execAdmit_keeps h
  | stnctlDrain => exact execStnctlDrain_keeps h
  | stnctlAbort => exact execStnctlAbort_keeps h
  | stnctlResume => exact execStnctlResume_keeps h
  | stationStopped => exact execStationStopped_keeps h
  | jobctlDrain => exact execJobctlDrain_keeps h
  | jobctlAbort => exact execJobctlAbort_keeps h
  | jobctlResume => exact execJobctlResume_keeps h
  | jobStopped => exact execJobStopped_keeps h
  | query => exact execQuery_keeps h
  | unload => exact execUnload_keeps h
  | sync => exact execSync_keeps h
  | hint => exact execHint_keeps h
  | nop => exact execNop_keeps h
  | itemDispatch => exact execItemDispatch_keeps h
  | itemCommit => exact execItemCommit_keeps h
  | itemError => exact execItemError_keeps h
  | cuItemStart => exact execCuItemStart_keeps h
  | cuNearRound => exact execCuNearRound_keeps h
  | cuFarAttempt u => exact execCuFarAttempt_keeps (u := u) h
  | cuStealWaitExpire => exact execCuStealWaitExpire_keeps h
  | cuRateWindow => exact execCuRateWindow_keeps h
  | cuRetire => exact execCuRetire_keeps h
  | cuFaultRetire => exact execCuFaultRetire_keeps h
  | spareSelftestDone => exact execSpareSelftestDone_keeps h
  | dieCucfgWrite => exact execDieCucfgWrite_keeps h
  | groupNop => exact execGroupNop_keeps h
  | iadd => exact execIadd_keeps h
  | isub => exact execIsub_keeps h
  | imul => exact execImul_keeps h
  | and => exact execAnd_keeps h
  | or => exact execOr_keeps h
  | xor => exact execXor_keeps h
  | shl => exact execShl_keeps h
  | shr => exact execShr_keeps h
  | sra => exact execSra_keeps h
  | isetlt => exact execIsetlt_keeps h
  | iseteq => exact execIseteq_keeps h
  | iaddi => exact execIaddi_keeps h
  | movi => exact execMovi_keeps h
  | orhi => exact execOrhi_keeps h
  | fadd => exact execFadd_keeps h
  | fmul => exact execFmul_keeps h
  | ffma => exact execFfma_keeps h
  | fmin => exact execFmin_keeps h
  | fmax => exact execFmax_keeps h
  | fsetlt => exact execFsetlt_keeps h
  | fdiv => exact execFdiv_keeps h
  | fsqrt => exact execFsqrt_keeps h
  | cvtif => exact execCvtif_keeps h
  | cvtfi => exact execCvtfi_keeps h
  | cvtfn => exact execCvtfn_keeps h
  | cvtnf => exact execCvtnf_keeps h
  | ldl => exact execLdl_keeps h
  | stl => exact execStl_keeps h
  | ldg => exact execLdg_keeps h
  | stg => exact execStg_keeps h
  | atomg => exact execAtomg_keeps h
  | atoml => exact execAtoml_keeps h
  | mfenceOrder => exact execMfenceOrder_keeps h
  | mfenceAcquire => exact execMfenceAcquire_keeps h
  | mfenceRelease => exact execMfenceRelease_keeps h
  | bra => exact execBra_keeps h
  | brc => exact execBrc_keeps h
  | join => exact execJoin_keeps h
  | exit => exact execExit_keeps h
  | bar => exact execBar_keeps h
  | barrierTimeout => exact execBarrierTimeout_keeps h
  | collb => exact execCollb_keeps h
  | colle => exact execColle_keeps h
  | mxissue => exact execMxissue_keeps h
  | mxwait => exact execMxwait_keeps h
  | shfl => exact execShfl_keeps h
  | spec => exact execSpec_keeps h
  | trap => exact execTrap_keeps h
  | mxeOpStart => exact execMxeOpStart_keeps h
  | mxeOpComplete => exact execMxeOpComplete_keeps h
  | cuCacheFill => exact execCuCacheFill_keeps h
  | moverTileDone => exact execMoverTileDone_keeps h
  | scWaymaskWrite => exact execScWaymaskWrite_keeps h
  | cmeClean => exact execCmeClean_keeps h
  | cmeInval => exact execCmeInval_keeps h
  | cmeFlush => exact execCmeFlush_keeps h
  | cmeRequestDone => exact execCmeRequestDone_keeps h
  | cmeopClean => exact execCmeopClean_keeps h
  | cmeopInval => exact execCmeopInval_keeps h
  | cmeopFlush => exact execCmeopFlush_keeps h
  | nmcWrite => exact execNmcWrite_keeps h
  | nmcRead => exact execNmcRead_keeps h
  | wcAgeTimeout => exact execWcAgeTimeout_keeps h
  | patrolScrub => exact execPatrolScrub_keeps h
  | lpddrOvertemp => exact execLpddrOvertemp_keeps h
  | fmcLinkUp => exact execFmcLinkUp_keeps h
  | fmcLinkDown => exact execFmcLinkDown_keeps h
  | wput => exact execWput_keeps h
  | wget => exact execWget_keeps h
  | wdel => exact execWdel_keeps h
  | winfo => exact execWinfo_keeps h
  | wellCommit => exact execWellCommit_keeps h
  | wdlChunkDone => exact execWdlChunkDone_keeps h
  | wellUnitsFreed => exact execWellUnitsFreed_keeps h
  | holdupMeasure => exact execHoldupMeasure_keeps h
  | wellRecoveryDone => exact execWellRecoveryDone_keeps h
  | nandPackageLoss => exact execNandPackageLoss_keeps h
  | wellRebuildDone => exact execWellRebuildDone_keeps h
  | nandOvertemp => exact execNandOvertemp_keeps h
  | rdshared => exact execRdShared_keeps h
  | rdown => exact execRdOwn_keeps h
  | rdonce => exact execRdOnce_keeps h
  | wrnc => exact execWrNc_keeps h
  | atfar => exact execAtFar_keeps h
  | evclean => exact execEvClean_keeps h
  | wbdirty => exact execWbDirty_keeps h
  | fwdshared => exact execFwdShared_keeps h
  | fwdown => exact execFwdOwn_keeps h
  | fwdonce => exact execFwdOnce_keeps h
  | inval => exact execInval_keeps h
  | tokready => exact execTokReady_keeps h
  | data => exact execData_keeps h
  | dataonce => exact execDataOnce_keeps h
  | cmp => exact execCmp_keeps h
  | atresult => exact execAtResult_keeps h
  | retry => exact execRetry_keeps h
  | invack => exact execInvAck_keeps h
  | fwdack => exact execFwdAck_keeps h
  | recallack => exact execRecallAck_keeps h
  | homeAckTimeout => exact execHomeAckTimeout_keeps h
  | homeAtcfgClr => exact execHomeAtcfgClr_keeps h
  | sumpRecordWrite => exact execSumpRecordWrite_keeps h
  | sumpResumeRetry => exact execSumpResumeRetry_keeps h
  | sumpResumeFail => exact execSumpResumeFail_keeps h
  | sumpConsWrite => exact execSumpConsWrite_keeps h
  | mmuInvPage => exact execMmuInvPage_keeps h
  | mmuInvSpace => exact execMmuInvSpace_keeps h
  | mmuInvAll => exact execMmuInvAll_keeps h
  | invalPage => exact execInvalPage_keeps h
  | invalSpace => exact execInvalSpace_keeps h
  | invalAll => exact execInvalAll_keeps h
  | invalidationDone => exact execInvalidationDone_keeps h
  | imsicWrite => exact execImsicWrite_keeps h
  | mtimerExpire => exact execMtimerExpire_keeps h
  | hartenWrite => exact execHartenWrite_keeps h
  | corefreqWrite => exact execCorefreqWrite_keeps h
  | freqChangeDone => exact execFreqChangeDone_keeps h
  | coreSupplyDroop => exact execCoreSupplyDroop_keeps h
  | cboClean => exact execCboClean_keeps h
  | cboFlush => exact execCboFlush_keeps h
  | cboInval => exact execCboInval_keeps h
  | fabricFenceLoad => exact execFabricFenceLoad_keeps h
  | doorbell => exact execDoorbell_keeps h
  | descFetch => exact execDescFetch_keeps h
  | staleReread => exact execStaleReread_keeps h
  | queCconsWrite => exact execQueCconsWrite_keeps h
  | queFetchWrite => exact execQueFetchWrite_keeps h
  | hlpLinkenWrite => exact execHlpLinkenWrite_keeps h
  | hlpRetrain => exact execHlpRetrain_keeps h
  | partnerDetect => exact execPartnerDetect_keeps h
  | linkTrainDone => exact execLinkTrainDone_keeps h
  | trainRetry => exact execTrainRetry_keeps h
  | laneFail => exact execLaneFail_keeps h
  | portDown => exact execPortDown_keeps h
  | llrFrameReceive => exact execLlrFrameReceive_keeps h
  | llrAckTimeout => exact execLlrAckTimeout_keeps h
  | ethFrameReceive => exact execEthFrameReceive_keeps h
  | packetForward => exact execPacketForward_keeps h
  | write => exact execWrite_keeps h
  | read => exact execRead_keeps h
  | atomic => exact execAtomic_keeps h
  | readresp => exact execReadresp_keeps h
  | atomresp => exact execAtomresp_keeps h
  | ack => exact execAck_keeps h
  | nack => exact execNack_keeps h
  | errresp => exact execErrresp_keeps h
  | tile => exact execTile_keeps h
  | beacon => exact execBeacon_keeps h
  | flowctlOpen => exact execFlowctlOpen_keeps h
  | flowctlOpenack => exact execFlowctlOpenack_keeps h
  | flowctlClose => exact execFlowctlClose_keeps h
  | flowctlCredit => exact execFlowctlCredit_keeps h
  | harSlice => exact execHarSlice_keeps h
  | harSliceTimeout => exact execHarSliceTimeout_keeps h
  | flowRtoExpire => exact execFlowRtoExpire_keeps h
  | flowOpenTimeout => exact execFlowOpenTimeout_keeps h
  | fopen => exact execFopen_keeps h
  | fclose => exact execFclose_keeps h
  | fput => exact execFput_keeps h
  | fget => exact execFget_keeps h
  | ffence => exact execFfence_keeps h
  | beaconTimer => exact execBeaconTimer_keeps h
  | beaconLoss => exact execBeaconLoss_keeps h
  | rtrRtdataWrite => exact execRtrRtdataWrite_keeps h
  | reduceNodeUp => exact execReduceNodeUp_keeps h
  | reduceResultDown => exact execReduceResultDown_keeps h
  | reducePull => exact execReducePull_keeps h
  | lraSeatAction => exact execLraSeatAction_keeps h
  | lraBindWrite => exact execLraBindWrite_keeps h
  | glbDetctlWrite => exact execGlbDetctlWrite_keeps h
  | deferredAddsApplied => exact execDeferredAddsApplied_keeps h
  | regen => exact execRegen_keeps h
  | lspair => exact execLspair_keeps h
  | lsend => exact execLsend_keeps h
  | lockstepCompare => exact execLockstepCompare_keeps h
  | elogCfgWrite => exact execElogCfgWrite_keeps h
  | elogConsWrite => exact execElogConsWrite_keeps h
  | cuHeartbeat => exact execCuHeartbeat_keeps h
  | cuWatchdogExpire => exact execCuWatchdogExpire_keeps h
  | engineFault => exact execEngineFault_keeps h
  | glbRedctlWrite => exact execGlbRedctlWrite_keeps h
  | pwrWindow => exact execPwrWindow_keeps h
  | pwrReport => exact execPwrReport_keeps h
  | capset => exact execCapset_keeps h
  | hintMsg => exact execHintMsg_keeps h
  | hintLapse => exact execHintLapse_keeps h
  | paceCheck => exact execPaceCheck_keeps h
  | pwrCapWrite => exact execPwrCapWrite_keeps h
  | pwrShareWrite => exact execPwrShareWrite_keeps h
  | pwrLattolWrite => exact execPwrLattolWrite_keeps h
  | thermalTrip => exact execThermalTrip_keeps h
  | sensorFail => exact execSensorFail_keeps h
  | cuSupplyLow => exact execCuSupplyLow_keeps h
  | cuSupplyRestore => exact execCuSupplyRestore_keeps h
  | restEntry => exact execRestEntry_keeps h
  | restWake => exact execRestWake_keeps h
  | bootRomDone => exact execBootRomDone_keeps h
  | bootPfwDone => exact execBootPfwDone_keeps h
  | bootDiesDone => exact execBootDiesDone_keeps h
  | bootMemoryDone => exact execBootMemoryDone_keeps h
  | measExtend => exact execMeasExtend_keeps h
  | cfgDigestRecompute => exact execCfgDigestRecompute_keeps h
  | getVersion => exact execGetVersion_keeps h
  | getCapabilities => exact execGetCapabilities_keeps h
  | negotiateAlgorithms => exact execNegotiateAlgorithms_keeps h
  | getDigests => exact execGetDigests_keeps h
  | getCertificate => exact execGetCertificate_keeps h
  | challenge => exact execChallenge_keeps h
  | getMeasurements => exact execGetMeasurements_keeps h
  | mailboxRead => exact execMailboxRead_keeps h
  | mailboxWrite => exact execMailboxWrite_keeps h
  | mailboxDone => exact execMailboxDone_keeps h
  | dbgHalt => exact execDbgHalt_keeps h
  | dbgHalted => exact execDbgHalted_keeps h
  | dbgResume => exact execDbgResume_keeps h
  | dbgStep => exact execDbgStep_keeps h
  | dbgInsp => exact execDbgInsp_keeps h
  | dbgInspLatched => exact execDbgInspLatched_keeps h
  | feedOutOfBand => exact execFeedOutOfBand_keeps h
  | bootStageTimeout => exact execBootStageTimeout_keeps h
  | bootFlashRewrite => exact execBootFlashRewrite_keeps h
  | dynamicAddressAssignment => exact execDynamicAddressAssignment_keeps h
  | pcieDeviceRequest => exact execPcieDeviceRequest_keeps h
  | hostFabricApertureAccess => exact execHostFabricApertureAccess_keeps h
  | evmsiHoldoffExpire => exact execEvmsiHoldoffExpire_keeps h
  | _ =>
    show KeepsOut z0 (exec (Instr.recall _ _ _ _) s)
    exact execRecall_keeps h

/-- A step keeps what the state with its front command removed has; with none waiting that is the state itself. -/
theorem step_keeps {s t : State} (h : step s = .next t) : Keeps { s with pending := s.pending.tail } t := by
  cases hq : s.pending with
  | nil =>
    have hidle : { s with pending := ([] : List Instr).tail } = s := by rw [List.tail_nil, ← hq]
    have htick : t = tick s := by simpa [step, hq] using h.symm
    rw [hidle, htick]
    exact tick_keeps (keeps_refl s)
  | cons c rest =>
    have hexec : exec c { s with pending := rest } = .next t := by simpa [step, hq] using h
    exact (exec_keeps c (keeps_refl _)).of t hexec

/-! ### The fuse-loaded identity registers -/

theorem blockAt_pgGlb : blockAt pgGlb = some (.glb, 0) := rfl

theorem regReset_glbCap0 (f : Fuses) : regReset f (regAddr pgGlb 0x10) = BitVec.ofNat 64 f.variant.cap0 := by
  obtain ⟨hpage, hoff, hin⟩ := pageOf_regAddr (page := pgGlb) (off := 0x10) (by decide) (by decide)
  simp [regReset, hpage, hoff, hin, blockAt_pgGlb]

theorem regReset_glbCap1 (f : Fuses) : regReset f (regAddr pgGlb 0x18) = BitVec.ofNat 64 f.variant.cap1 := by
  obtain ⟨hpage, hoff, hin⟩ := pageOf_regAddr (page := pgGlb) (off := 0x18) (by decide) (by decide)
  simp [regReset, hpage, hoff, hin, blockAt_pgGlb]

/-- Settles O3: every step keeps the fuses, and the two registers reset to what the fuses' variant says. -/
theorem fusesNeverChange : Obligations.FusesNeverChange := by
  unfold Obligations.FusesNeverChange
  intro s t hstep
  obtain ⟨hfuses, -, -⟩ := step_keeps hstep
  refine ⟨hfuses, ?_, ?_⟩
  · rw [regReset_glbCap0, hfuses]
  · rw [regReset_glbCap1, hfuses]

end Sys2Proof.Proofs
end

section
/-! The module's pins, reset and feeds (spec/01_module_and_dies.md R27, R34 to R38, spec/22_ratings.md R538 to R549):
what a change of one-feed mode writes, what the module becomes after a feed changed, and from these the statements
about reset, reference, rails and feeds. -/

namespace Sys2Proof.Proofs

open Sys2Proof.Laws Sys2Proof.Machine

/-! ### One-feed mode and the effective cap -/

/-- The state but for what a change of one-feed mode writes: registers, power control, and what reporting an error
changes. -/
def quietFeed (s : State) : State :=
  { quietErr s with regs := [], pwr := ⟨[], 0, [], [], []⟩ }

theorem quietFeed_of {s t : State} (h : quietErr t = quietErr s) : quietFeed t = quietFeed s :=
  congrArg (fun x : State => { x with regs := [], pwr := ⟨[], 0, [], [], []⟩ }) h

theorem setReg_quietFeed (s : State) (a : Nat) (v : W64) : quietFeed (s.setReg a v) = quietFeed s := rfl

theorem capRefresh_quietFeed (s : State) : quietFeed (capRefresh s) = quietFeed s := by
  unfold capRefresh
  split <;> rfl

theorem setOneFeed_quietFeed (s : State) (b : Bool) : quietFeed (setOneFeed s b) = quietFeed s := by
  unfold setOneFeed
  split
  · rfl
  · exact (capRefresh_quietFeed _).trans ((quietFeed_of (raise_quietErr _ _ _)).trans (setReg_quietFeed s _ _))

@[simp] theorem setOneFeed_phase (s : State) (b : Bool) : (setOneFeed s b).phase = s.phase :=
  (congrArg State.phase (setOneFeed_quietFeed s b) :)
@[simp] theorem setOneFeed_pins (s : State) (b : Bool) : (setOneFeed s b).pins = s.pins :=
  (congrArg State.pins (setOneFeed_quietFeed s b) :)
@[simp] theorem setOneFeed_queues (s : State) (b : Bool) : (setOneFeed s b).queues = s.queues :=
  (congrArg State.queues (setOneFeed_quietFeed s b) :)
@[simp] theorem setOneFeed_jobs (s : State) (b : Bool) : (setOneFeed s b).jobs = s.jobs :=
  (congrArg State.jobs (setOneFeed_quietFeed s b) :)
@[simp] theorem setOneFeed_items (s : State) (b : Bool) : (setOneFeed s b).items = s.items :=
  (congrArg State.items (setOneFeed_quietFeed s b) :)
@[simp] theorem setOneFeed_fab (s : State) (b : Bool) : (setOneFeed s b).fab = s.fab :=
  (congrArg State.fab (setOneFeed_quietFeed s b) :)

/-- The cap is PWR_CAP, in one-feed mode at most 1,800 W (R490). -/
theorem effCap_eq (s : State) : effCap s =
    if oneFeed s then min (s.regF (pgPwr 2) 0x100 15 0) 1800 else s.regF (pgPwr 2) 0x100 15 0 := rfl

/-- The cap depends on PWR_CAP and PWR_IN_STAT alone. -/
theorem effCap_congr {s t : State} (hcap : t.reg (regAddr (pgPwr 2) 0x100) = s.reg (regAddr (pgPwr 2) 0x100))
    (hin : t.reg (regAddr (pgPwr 2) 0x200) = s.reg (regAddr (pgPwr 2) 0x200)) : effCap t = effCap s := by
  simp only [effCap, State.regF, hcap, hin]

theorem capRefresh_err (s : State) (p : Nat) : (capRefresh s).err p = s.err p := by
  unfold capRefresh
  split <;> rfl

/-- Bringing the cap up to date writes PWR_MODSTAT alone. -/
theorem capRefresh_reg (s : State) {a : Nat} (ha : a ≠ regAddr (pgPwr 2) 0x110) : (capRefresh s).reg a = s.reg a := by
  unfold capRefresh
  split
  · rfl
  · exact (setReg_reg s _ _ a).trans (if_neg ha)

theorem capRefresh_effCap (s : State) : effCap (capRefresh s) = effCap s :=
  effCap_congr (capRefresh_reg s (by decide)) (capRefresh_reg s (by decide))

/-- PWR_MODSTAT.EFFCAP then reports the cap. -/
theorem capRefresh_reports (s : State) : (capRefresh s).regF (pgPwr 2) 0x110 15 0 = effCap s := by
  unfold capRefresh
  split
  · assumption
  · have hw : (s.setRegF (pgPwr 2) 0x110 15 0 (effCap s)).regF (pgPwr 2) 0x110 15 0 = effCap s % 2 ^ 16 := by
      simp [State.regF]
    exact hw.trans (Nat.mod_eq_of_lt (effCap_lt s))

/-- A change of one-feed mode writes bit 3 of PWR_IN_STAT, raises the power-input error and refreshes the cap. -/
theorem setOneFeed_of_ne {s : State} {b : Bool} (h : oneFeed s ≠ b) :
    setOneFeed s b = capRefresh (raise (s.setRegF (pgPwr 2) 0x200 3 3 b.toNat) (pgPwr 2) 8) := if_neg h

theorem setOneFeed_err {s : State} {b : Bool} (h : oneFeed s ≠ b) : bit 8 ((setOneFeed s b).err (pgPwr 2)) = true := by
  have hp : blockAt (pgPwr 2) = some (.pwr, 0) := rfl
  rw [setOneFeed_of_ne h, capRefresh_err, raise_err _ _ _ _ _ _ hp, if_pos rfl, bit_setBit_same _ _ _ (by decide)]

theorem setOneFeed_reports {s : State} {b : Bool} (h : oneFeed s ≠ b) :
    (setOneFeed s b).regF (pgPwr 2) 0x110 15 0 = effCap (setOneFeed s b) := by
  rw [setOneFeed_of_ne h, capRefresh_reports, capRefresh_effCap]

/-- PWR_IN_STAT after a change of one-feed mode. -/
theorem setOneFeed_inStat {s : State} {b : Bool} (h : oneFeed s ≠ b) :
    (setOneFeed s b).reg (regAddr (pgPwr 2) 0x200) = setFld 3 3 (s.reg (regAddr (pgPwr 2) 0x200)) b.toNat := by
  rw [setOneFeed_of_ne h, capRefresh_reg _ (by decide), raise_reg, setRegF_eq, setReg_reg, if_pos rfl]

/-- A change of one-feed mode leaves PWR_CAP. -/
theorem setOneFeed_cap {s : State} {b : Bool} (h : oneFeed s ≠ b) :
    (setOneFeed s b).regF (pgPwr 2) 0x100 15 0 = s.regF (pgPwr 2) 0x100 15 0 := by
  have ha : regAddr (pgPwr 2) 0x100 ≠ regAddr (pgPwr 2) 0x200 := by decide
  unfold State.regF
  rw [setOneFeed_of_ne h, capRefresh_reg _ (by decide), raise_reg, setRegF_eq, setReg_reg, if_neg ha]

@[simp] theorem oneFeed_setOneFeed (s : State) (b : Bool) : oneFeed (setOneFeed s b) = b := by
  by_cases h : oneFeed s = b
  · rw [setOneFeed, if_pos h, h]
  · rw [oneFeed, setOneFeed_inStat h]
    exact bit_setBit_same 3 _ b (by decide)

/-- Setting ONEFEED is entering one-feed mode. -/
theorem setOneFeed_enters {s : State} (h : oneFeed s = false) : EnteredOneFeed s (setOneFeed s true) := by
  have hne : oneFeed s ≠ true := by simp [h]
  have hcap : effCap (setOneFeed s true) ≤ 1800 := by
    rw [effCap_eq, oneFeed_setOneFeed, if_pos rfl]
    exact Nat.min_le_right _ _
  exact ⟨setOneFeed_phase s true, oneFeed_setOneFeed s true, setOneFeed_reports hne, hcap, setOneFeed_err hne,
    setOneFeed_queues s true, setOneFeed_jobs s true, setOneFeed_items s true, setOneFeed_fab s true⟩

/-! ### Feeds -/

theorem ok_iff {f : Feed} : f.ok = true ↔ f.cond = .good ∧ f.latched = false := by
  simp [Feed.ok]

/-- An OK feed carries load. -/
theorem carries_of_ok {f : Feed} (h : f.ok = true) : f.carries = true := by
  obtain ⟨hcond, hlatch⟩ := ok_iff.mp h
  simp [Feed.carries, hcond, hlatch]

/-- A latched feed carries no load and is not OK. -/
theorem carries_ok_of_latched {f : Feed} (h : f.latched = true) : f.carries = false ∧ f.ok = false := by
  simp [Feed.carries, Feed.ok, h]

theorem supplied_eq (s : State) (b : Bool) : s.pins.supplied = ((feedOf s b).carries || (feedOf s (!b)).carries) := by
  cases b
  · rfl
  · exact Bool.or_comm _ _

theorem bothOk_eq (s : State) (b : Bool) :
    (s.pins.feedA.ok && s.pins.feedB.ok) = ((feedOf s b).ok && (feedOf s (!b)).ok) := by
  cases b
  · rfl
  · exact Bool.and_comm _ _

@[simp] theorem feedOf_updFeed_same (s : State) (b : Bool) (f : Feed → Feed) :
    feedOf (updFeed s b f) b = f (feedOf s b) := by cases b <;> rfl

@[simp] theorem feedOf_updFeed_other (s : State) (b : Bool) (f : Feed → Feed) :
    feedOf (updFeed s b f) (!b) = feedOf s (!b) := by cases b <;> rfl

theorem feedOf_congr {s t : State} (h : t.pins = s.pins) (b : Bool) : feedOf t b = feedOf s b := by
  unfold feedOf
  rw [h]

/-! ### The module after a feed changed -/

theorem afterFeed_of_bothOk {s : State} (hphase : s.phase ≠ .noInput) (ha : s.pins.feedA.ok = true)
    (hb : s.pins.feedB.ok = true) : afterFeed s = s := by
  have hsup : s.pins.supplied = true := by simp [Pins.supplied, carries_of_ok ha]
  simp [afterFeed, hphase, hsup, ha, hb]

/-- One feed not OK and some feed carrying load: one-feed mode (R38). -/
theorem afterFeed_of_notOk {s : State} (b : Bool) (hrun : s.phase = .running) (hbad : (feedOf s b).ok = false)
    (hother : (feedOf s (!b)).carries = true) : afterFeed s = setOneFeed s true := by
  have hsup : s.pins.supplied = true := by rw [supplied_eq s b, hother, Bool.or_true]
  have hok : (s.pins.feedA.ok && s.pins.feedB.ok) = false := by rw [bothOk_eq s b, hbad, Bool.false_and]
  simp only [afterFeed, hrun, hsup, hok]
  rfl

/-- No feed carrying load: loss of input (R37). -/
theorem afterFeed_of_notCarries {s : State} (b : Bool) (hrun : s.phase = .running) (hbad : (feedOf s b).carries = false)
    (hother : (feedOf s (!b)).carries = false) : afterFeed s = inputLost s := by
  have hsup : s.pins.supplied = false := by rw [supplied_eq s b, hbad, hother, Bool.or_false]
  simp only [afterFeed, hrun, hsup]
  rfl

/-- The state after a feed changed so that it is not OK, while the other carries load: one-feed mode, the pins held. -/
theorem afterFeed_enters {s : State} (b : Bool) (hrun : s.phase = .running) (hone : oneFeed s = false)
    (hbad : (feedOf s b).ok = false) (hother : (feedOf s (!b)).carries = true) :
    EnteredOneFeed s (afterFeed s) ∧ (afterFeed s).pins = s.pins := by
  rw [afterFeed_of_notOk b hrun hbad hother]
  exact ⟨setOneFeed_enters hone, setOneFeed_pins s true⟩

/-- A change of one feed that leaves it not OK, while the other carries load. -/
theorem updFeed_enters {s : State} {b : Bool} {f : Feed → Feed} (hrun : s.phase = .running) (hone : oneFeed s = false)
    (hbad : (f (feedOf s b)).ok = false) (hother : (feedOf s (!b)).carries = true) :
    EnteredOneFeed s (afterFeed (updFeed s b f)) ∧ feedOf (afterFeed (updFeed s b f)) b = f (feedOf s b) ∧
      feedOf (afterFeed (updFeed s b f)) (!b) = feedOf s (!b) := by
  have hbad' : (feedOf (updFeed s b f) b).ok = false := by rw [feedOf_updFeed_same, hbad]
  have hother' : (feedOf (updFeed s b f) (!b)).carries = true := by rw [feedOf_updFeed_other, hother]
  obtain ⟨henter, hpins⟩ := afterFeed_enters (s := updFeed s b f) b hrun hone hbad' hother'
  refine ⟨henter, ?_, ?_⟩
  · rw [feedOf_congr hpins, feedOf_updFeed_same]
  · rw [feedOf_congr hpins, feedOf_updFeed_other]

/-- Losing the input keeps fuses, well and boot flash, and nothing else (R37; log entry 5). -/
theorem inputLost_spec (s : State) : InputLost s (inputLost s) :=
  ⟨rfl, rfl, rfl, fun _ => rfl, fun _ => rfl, rfl, rfl, fun _ => rfl, rfl, rfl, rfl, rfl, rfl⟩

/-- A change of one feed that leaves it without load, while the other carries none. -/
theorem updFeed_loses {s : State} {b : Bool} {f : Feed → Feed} (hrun : s.phase = .running)
    (hbad : (f (feedOf s b)).carries = false) (hother : (feedOf s (!b)).carries = false) :
    InputLost s (afterFeed (updFeed s b f)) := by
  have hbad' : (feedOf (updFeed s b f) b).carries = false := by rw [feedOf_updFeed_same, hbad]
  have hother' : (feedOf (updFeed s b f) (!b)).carries = false := by rw [feedOf_updFeed_other, hother]
  rw [afterFeed_of_notCarries (s := updFeed s b f) b hrun hbad' hother']
  exact inputLost_spec (updFeed s b f)

/-! ### What each feed command answers -/

section
variable (s : State) (b : Bool)

theorem exec_feedOpen {dv : Nat} (h : dv < 360) :
    exec (.feedOpen b dv) s = .next (afterFeed (updFeed s b (fun f => { f with cond := .absent, dv := dv }))) :=
  if_neg (by omega)

theorem exec_feedOvervoltage {dv : Nat} (h : 620 < dv) :
    exec (.feedOvervoltage b dv) s = .next (afterFeed (updFeed s b (fun f => { f with cond := .overOpen, dv := dv }))) :=
  if_neg (by omega)

theorem exec_feedOutOfBand {dv : Nat} (h : (360 ≤ dv ∧ dv < 400) ∨ (600 < dv ∧ dv ≤ 620))
    (hc : (feedOf s b).cond ≠ .overOpen) :
    exec (.feedOutOfBand b dv) s = .next (afterFeed (updFeed s b (fun f => { f with cond := .margin, dv := dv }))) :=
  (if_pos h).trans (if_neg hc)

theorem exec_feedExternalShort :
    exec (.feedExternalShort b) s = .next (afterFeed (updFeed s b (fun f => { f with cond := .absent, dv := 0 }))) := rfl

theorem exec_feedGood {dv : Nat} (hlo : 400 ≤ dv) (hhi : dv ≤ 600) (hc : (feedOf s b).cond ≠ .overOpen) :
    exec (.feedGood b dv) s = .next
      (if s.phase = .noInput ∧ (feedOf s b).latched = false
       then powerUp (updFeed s b (fun f => { f with cond := .good, dv := dv }))
       else updFeed s b (fun f => { f with cond := .good, dv := dv })) := by
  have hband : ¬ (dv < 400 ∨ 600 < dv) := by omega
  have hok : (feedOf (updFeed s b (fun f => { f with cond := .good, dv := dv })) b).ok = true ↔
      (feedOf s b).latched = false := by
    rw [feedOf_updFeed_same, ok_iff]
    exact and_iff_right rfl
  show execFeedGood b dv s = _
  simp only [execFeedGood, if_neg hband, if_neg hc, hok]
  rfl

theorem exec_feedReclose {dv : Nat} (hlo : 400 ≤ dv) (hhi : dv ≤ 600) (hc : (feedOf s b).cond = .overOpen)
    (hphase : s.phase ≠ .noInput) :
    exec (.feedReclose b dv) s = .next (updFeed s b (fun f => { f with cond := .good, dv := dv })) :=
  (if_pos ⟨hc, hlo, hhi⟩).trans (congrArg _ (if_neg (fun h => hphase h.1)))

end

/-! ### A hot-swap switch that trips -/

/-- The state with a feed's switch latched off. -/
def latchFeed (s : State) (b : Bool) : State := updFeed s b (fun f => { f with latched := true })

/-- The state with a feed's switch latched off and the single trip recorded in TRIP. -/
def recordTrip (s : State) (b : Bool) : State := (latchFeed s b).setRegF (pgPwr 2) 0x200 2 2 1

/-- The trip of a feed that carries load is recorded while the other carries load too (R37). -/
theorem exec_hotswapTrip (s : State) (b : Bool) (h : (feedOf s b).carries = true) :
    exec (.hotswapTrip b) s =
      .next (afterFeed (if (feedOf s (!b)).carries then recordTrip s b else latchFeed s b)) := by
  have hsup : (latchFeed s b).pins.supplied = (feedOf s (!b)).carries := by
    rw [supplied_eq _ b, latchFeed, feedOf_updFeed_same, feedOf_updFeed_other, (carries_ok_of_latched rfl).1, Bool.false_or]
  rw [← hsup]
  exact if_pos h

theorem feedOf_recordTrip_same (s : State) (b : Bool) :
    feedOf (recordTrip s b) b = { feedOf s b with latched := true } :=
  (feedOf_congr (s := latchFeed s b) rfl b).trans (feedOf_updFeed_same s b _)

theorem feedOf_recordTrip_other (s : State) (b : Bool) : feedOf (recordTrip s b) (!b) = feedOf s (!b) :=
  (feedOf_congr (s := latchFeed s b) rfl (!b)).trans (feedOf_updFeed_other s b _)

theorem recordTrip_inStat (s : State) (b : Bool) :
    (recordTrip s b).reg (regAddr (pgPwr 2) 0x200) = setFld 2 2 (s.reg (regAddr (pgPwr 2) 0x200)) 1 :=
  (setReg_reg _ _ _ _).trans (if_pos rfl)

/-- TRIP is another bit than ONEFEED. -/
theorem oneFeed_recordTrip (s : State) (b : Bool) : oneFeed (recordTrip s b) = oneFeed s := by
  rw [oneFeed, recordTrip_inStat]
  exact bit_setBit_other 2 3 _ true (by decide) (by decide)

/-- A single trip: the feed is latched, TRIP is set, one-feed mode is entered (R37, R38). -/
theorem hotswapTrip_enters {s : State} {b : Bool} (hrun : s.phase = .running) (hone : oneFeed s = false)
    (hother : (feedOf s (!b)).carries = true) (hb : (feedOf s b).carries = true) :
    ∃ t, exec (.hotswapTrip b) s = .next t ∧ EnteredOneFeed s t ∧ feedOf t b = { feedOf s b with latched := true } ∧
      feedOf t (!b) = feedOf s (!b) ∧ t.regF (pgPwr 2) 0x200 2 2 = 1 := by
  have hone' : oneFeed (recordTrip s b) = false := (oneFeed_recordTrip s b).trans hone
  have hbad : (feedOf (recordTrip s b) b).ok = false := by
    rw [feedOf_recordTrip_same]
    exact (carries_ok_of_latched rfl).2
  have hafter : afterFeed (recordTrip s b) = setOneFeed (recordTrip s b) true :=
    afterFeed_of_notOk b hrun hbad (by rw [feedOf_recordTrip_other, hother])
  have hpins : (setOneFeed (recordTrip s b) true).pins = (recordTrip s b).pins := setOneFeed_pins _ _
  refine ⟨setOneFeed (recordTrip s b) true, ?_, setOneFeed_enters hone', ?_, ?_, ?_⟩
  · rw [exec_hotswapTrip s b hb, if_pos hother, hafter]
  · rw [feedOf_congr hpins, feedOf_recordTrip_same]
  · rw [feedOf_congr hpins, feedOf_recordTrip_other]
  · rw [State.regF, setOneFeed_inStat (by simp [hone']), recordTrip_inStat,
      fld_setFld_below 3 3 2 2 _ _ (by decide) (by decide) (by decide) (by decide)]
    exact fld_setFld_same 2 2 _ 1 (by decide) (by decide)

/-- A trip of the last feed that carries load: the input is lost (R37). -/
theorem hotswapTrip_loses {s : State} {b : Bool} (hrun : s.phase = .running)
    (hother : (feedOf s (!b)).carries = false) (hb : (feedOf s b).carries = true) :
    ∃ t, exec (.hotswapTrip b) s = .next t ∧ InputLost s t := by
  refine ⟨afterFeed (latchFeed s b), ?_, updFeed_loses hrun (carries_ok_of_latched rfl).1 hother⟩
  rw [exec_hotswapTrip s b hb, hother]
  rfl

/-! ### The obligations -/

/-- Settles O8: every fault leaves the feed not OK, and the other feed decides between the two outcomes. -/
theorem feedFaultsGiveOneFeedModeOrLossOfInput : Obligations.FeedFaultsGiveOneFeedModeOrLossOfInput := by
  unfold Obligations.FeedFaultsGiveOneFeedModeOrLossOfInput
  intro b s hrun hone
  refine ⟨fun hother => ⟨fun dv hdv => ?_, fun dv hdv => ?_, fun dv hdv hc => ?_, ?_, ?_⟩,
    fun hother => ⟨fun dv hdv => ?_, fun dv hdv => ?_, ?_, ?_⟩⟩
  · exact ⟨_, exec_feedOpen s b hdv, updFeed_enters hrun hone (by simp [Feed.ok]) hother⟩
  · exact ⟨_, exec_feedOvervoltage s b hdv, updFeed_enters hrun hone (by simp [Feed.ok]) hother⟩
  · exact ⟨_, exec_feedOutOfBand s b hdv hc, updFeed_enters hrun hone (by simp [Feed.ok]) hother⟩
  · exact ⟨_, exec_feedExternalShort s b, updFeed_enters hrun hone (by simp [Feed.ok]) hother⟩
  · exact hotswapTrip_enters hrun hone hother
  · exact ⟨_, exec_feedOpen s b hdv, updFeed_loses hrun (by simp [Feed.carries]) hother⟩
  · exact ⟨_, exec_feedOvervoltage s b hdv, updFeed_loses hrun (by simp [Feed.carries]) hother⟩
  · exact ⟨_, exec_feedExternalShort s b, updFeed_loses hrun (by simp [Feed.carries]) hother⟩
  · exact hotswapTrip_loses hrun hother

/-- A feed that comes good on a module without input powers it up, held in reset (R37, R538). -/
theorem feedGood_powersUp {s : State} {b : Bool} {dv : Nat} (hlo : 400 ≤ dv) (hhi : dv ≤ 600)
    (hc : (feedOf s b).cond ≠ .overOpen) (hphase : s.phase = .noInput) (hl : (feedOf s b).latched = false) :
    ∃ t, exec (.feedGood b dv) s = .next t ∧ t.phase = .inReset ∧ t.well.power = .input ∧
      feedOf t b = ⟨.good, dv, false⟩ ∧ feedOf t (!b) = feedOf s (!b) ∧ t.well.vers = s.well.vers ∧ t.mem = s.mem := by
  have hpins (u : State) (x : Bool) : feedOf (powerUp u) x = feedOf u x := rfl
  refine ⟨_, (exec_feedGood s b hlo hhi hc).trans (congrArg _ (if_pos ⟨hphase, hl⟩)), rfl, rfl, ?_, ?_, rfl, rfl⟩
  · rw [hpins, feedOf_updFeed_same, hl]
  · rw [hpins, feedOf_updFeed_other]

/-- Leaving one-feed mode makes PWR_CAP the cap again (R36, R490). -/
theorem fullCapRestore_restores {s : State} (hlive : live s = true) (ha : s.pins.feedA.ok = true)
    (hb : s.pins.feedB.ok = true) (hone : oneFeed s = true) :
    ∃ t, exec .fullCapRestore s = .next t ∧ oneFeed t = false ∧ effCap t = s.regF (pgPwr 2) 0x100 15 0 ∧
      t.regF (pgPwr 2) 0x110 15 0 = effCap t ∧ bit 8 (t.err (pgPwr 2)) = true := by
  have hne : oneFeed s ≠ false := by simp [hone]
  have hexec : exec .fullCapRestore s = .next (setOneFeed s false) := congrArg _ (if_pos (by rw [hlive, ha, hb]; rfl))
  have hcap : effCap (setOneFeed s false) = s.regF (pgPwr 2) 0x100 15 0 := by
    rw [effCap_eq, oneFeed_setOneFeed, if_neg Bool.false_ne_true, setOneFeed_cap hne]
  exact ⟨_, hexec, oneFeed_setOneFeed s false, hcap, setOneFeed_reports hne, setOneFeed_err hne⟩

/-- Settles O9: a feed that comes good by FEED_GOOD and by FEED_RECLOSE, the cap's return, the parked well, and that a
latched feed carries nothing. -/
theorem feedReturnsPowerAndFullCap : Obligations.FeedReturnsPowerAndFullCap := by
  unfold Obligations.FeedReturnsPowerAndFullCap
  refine ⟨fun b dv s hlo hhi => ⟨fun hc hphase => ?_, ?_, ?_⟩, ?_, ?_, fun f => carries_ok_of_latched⟩
  · exact (exec_feedGood s b hlo hhi hc).trans (congrArg _ (if_neg (fun h => hphase h.1)))
  · exact feedGood_powersUp hlo hhi
  · exact exec_feedReclose s b hlo hhi
  · exact fun s => fullCapRestore_restores
  · intro s hwell hphase hbank
    exact congrArg _ (if_pos ⟨hwell, hphase, hbank⟩)

/-! ### Reset -/

/-- MOD_RESET_ASSERT on a module with input power (R34). -/
theorem exec_modResetAssert_powered {s : State} (h : s.phase ≠ .noInput) :
    exec .modResetAssert s = .next { moduleReset (resetPins s) with phase := .inReset } := if_pos h

/-- MOD_RESET_ASSERT without input power: the latches end, and a feed within its band powers the module up (R37). -/
theorem exec_modResetAssert_unpowered {s : State} (h : s.phase = .noInput) :
    exec .modResetAssert s = .next (if s.pins.feedA.cond = .good ∨ s.pins.feedB.cond = .good
      then powerUp (resetPins s) else resetPins s) := by
  have hok : ((resetPins s).pins.feedA.ok || (resetPins s).pins.feedB.ok) = true ↔
      s.pins.feedA.cond = .good ∨ s.pins.feedB.cond = .good := by
    rw [Bool.or_eq_true, ok_iff, ok_iff]
    simp [resetPins]
  show execModResetAssert s = _
  unfold execModResetAssert
  rw [if_neg (not_not_intro h)]
  by_cases hg : s.pins.feedA.cond = .good ∨ s.pins.feedB.cond = .good
  · rw [if_pos (hok.mpr hg), if_pos hg]
  · rw [if_neg (mt hok.mp hg), if_neg hg]

/-- Settles O6: the assertion with and without input power, and the release, after which both feeds are still good. -/
theorem moduleResetReturnsEverything : Obligations.ModuleResetReturnsEverything := by
  unfold Obligations.ModuleResetReturnsEverything
  refine ⟨fun s hphase => ?_, fun s hphase => ?_, fun s hphase hgood ha hb => ?_⟩
  · exact ⟨_, exec_modResetAssert_powered hphase, rfl, rfl, fun _ => rfl, fun _ => ⟨rfl, rfl⟩, fun _ => rfl, rfl, rfl, rfl,
      rfl, rfl, rfl, rfl, rfl, rfl, rfl, rfl, rfl, rfl, fun _ => rfl⟩
  · rw [exec_modResetAssert_unpowered hphase]
    by_cases hg : s.pins.feedA.cond = .good ∨ s.pins.feedB.cond = .good
    · rw [if_pos hg]
      exact ⟨_, rfl, rfl, rfl, rfl, iff_of_true rfl hg, rfl, rfl, rfl⟩
    · have hheld : (resetPins s).phase ≠ .inReset := by
        show s.phase ≠ .inReset
        rw [hphase]
        decide
      rw [if_neg hg]
      exact ⟨_, rfl, rfl, rfl, rfl, iff_of_false hheld hg, rfl, rfl, rfl⟩
  · have hrun : exec .modResetRelease s = .next
        (afterFeed { s with pins := { s.pins with resetN := true, refOk := true }, phase := .running }) :=
      if_pos ⟨hphase, hgood⟩
    rw [hrun]
    exact congrArg _ (afterFeed_of_bothOk (fun h => nomatch h) ha hb)

/-! ### Reference and rails -/

/-- A stop of the module latches its first cause, raises one in-band interrupt and holds memory and work (R467). -/
theorem fatalStop_spec (s : State) (cause info die : Nat) : FatalFrom s (fatalStop s cause info die) cause info die := by
  have hreg := fatalStop_reg s cause info die (regAddr pgSec 0x210)
  rw [if_pos rfl] at hreg
  simp [FatalFrom, hreg]

/-- DIE_CLKSTAT of a die is another register than SEC_FATAL. -/
theorem clkstat_ne_secFatal (d : Nat) : regAddr (pgDie d) 0x108 ≠ regAddr pgSec 0x210 := by
  rw [Ne, regAddr_inj (by decide) (by decide)]
  exact fun h => absurd h.2 (by decide)

/-- The state with the reference marked lost, as a die's DIE_CLKSTAT shows it. -/
def loseRef (s : State) (d : Nat) : State :=
  State.setRegF { s with pins := { s.pins with refOk := false } } (pgDie d) 0x108 4 4 1

theorem loseRef_reg (s : State) (d a : Nat) : (loseRef s d).reg a =
    if a = regAddr (pgDie d) 0x108 then setFld 4 4 (s.reg (regAddr (pgDie d) 0x108)) 1 else s.reg a := setReg_reg _ _ _ a

/-- The reference lost at a die (R27). -/
theorem refLossDetect_stops {d : Nat} {s : State} (hrun : s.phase = .running) (hdie : hasDie s d = true) :
    ∃ t, exec (.refLossDetect d) s = .next t ∧ FatalFrom s t 1 0 d ∧ t.pins.refOk = false ∧
      t.regF (pgDie d) 0x108 4 4 = 1 ∧
      (∀ a, a ≠ regAddr (pgDie d) 0x108 → a ≠ regAddr pgSec 0x210 → t.reg a = s.reg a) := by
  obtain ⟨hphase, hfatal, hrest⟩ := fatalStop_spec (loseRef s d) 1 0 d
  rw [loseRef_reg, if_neg (clkstat_ne_secFatal d).symm] at hfatal
  refine ⟨fatalStop (loseRef s d) 1 0 d, if_pos ⟨hrun, hdie⟩, ⟨hphase, hfatal, hrest⟩, ?_, ?_, fun a hclk hne => ?_⟩
  · rw [fatalStop_pins]
    rfl
  · rw [State.regF, fatalStop_reg, if_neg (clkstat_ne_secFatal d), loseRef_reg, if_pos rfl]
    exact fld_setFld_same 4 4 _ 1 (by decide) (by decide)
  · rw [fatalStop_reg, if_neg hne, loseRef_reg, if_neg hclk]

/-- A rail out of regulation (R34). -/
theorem railOutOfRegulation_stops {d r : Nat} {s : State} (hrun : s.phase = .running) (hdie : hasDie s d = true) :
    ∃ t, exec (.railOutOfRegulation d r) s = .next t ∧ FatalFrom s t 3 r d ∧ t.pins.pwrgd = false ∧
      (∀ a, a ≠ regAddr pgSec 0x210 → t.reg a = s.reg a) := by
  have hexec : exec (.railOutOfRegulation d r) s =
      .next (fatalStop { s with pins := { s.pins with pwrgd := false } } 3 r d) :=
    (if_neg (by simp [hrun])).trans (if_pos ⟨hrun, hdie⟩)
  refine ⟨_, hexec, fatalStop_spec { s with pins := { s.pins with pwrgd := false } } 3 r d, ?_, fun a hne => ?_⟩
  · rw [fatalStop_pins]
  · rw [fatalStop_reg, if_neg hne]
    rfl

/-- Settles O7: both losses are a FATAL stop of the state that marks the loss. -/
theorem lossOfReferenceOrRailIsFatal : Obligations.LossOfReferenceOrRailIsFatal := by
  unfold Obligations.LossOfReferenceOrRailIsFatal
  refine ⟨fun d s => refLossDetect_stops, fun d r s => railOutOfRegulation_stops, fun s hphase hsup => ?_⟩
  exact congrArg _ (if_pos ⟨hphase, hsup⟩)

end Sys2Proof.Proofs
end

section
/-! The die links (spec/01_module_and_dies.md R28 to R32, spec/17_faults_and_replay.md R476): writes of DLK_SHARE, and what
a flit that arrives does to its link. -/

namespace Sys2Proof.Proofs

open Sys2Proof.Laws Sys2Proof.Machine

/-! ### The pages of the links -/

/-- A fitted link is one of the ten. -/
theorem lt_of_hasDlk {s : State} {n : Nat} (h : hasDlk s n = true) : n < 10 := by
  by_contra hn
  have hnone : dlkEnds[n]? = none := List.getElem?_eq_none (Nat.le_of_not_lt hn)
  simp [hasDlk, hnone] at h

theorem blockAt_pgDlk {n : Nat} (h : n < 10) : blockAt (pgDlk n) = some (.dlk, n) := by
  have hall : ∀ k : Fin 10, blockAt (pgDlk k) = some (.dlk, k.val) := by decide
  exact hall ⟨n, h⟩

theorem blockAt_of_hasDlk {s : State} {n : Nat} (h : hasDlk s n = true) : blockAt (pgDlk n) = some (.dlk, n) :=
  blockAt_pgDlk (lt_of_hasDlk h)

/-! ### Shares -/

/-- A rejected register write sets bit 0 of its page's ERR_STAT and leaves registers and work (R53). -/
theorem reject_recorded (s : State) {page i : Nat} {b : Block} (hp : blockAt page = some (b, i)) :
    ErrorRecorded s (reject s page) page 0 := by
  have hsame := reject_err s page page b i hp
  have hother : ∀ p, p ≠ page → (reject s page).err p = s.err p := fun p hne => by
    rw [reject_err s page p b i hp, if_neg hne]
  rw [if_pos rfl] at hsame
  refine ⟨hsame, hother, ?_⟩
  simp

/-- On a live module with the link fitted DLK_SHARE_WRITE is the register's write. -/
theorem exec_dlkShareWrite {s : State} {n : Nat} (v : W64) (hlive : live s = true) (hlink : hasDlk s n = true) :
    exec (.dlkShareWrite n v) s = .next (dlkShareWrite s n v) :=
  (congrArg _ (if_pos hlive)).trans (congrArg _ (if_pos hlink))

/-- A write is refused while LOCK is set, without a slot for DBG, or with a sum other than 16 (R30). -/
theorem dlkShareWrite_eq (s : State) (n : Nat) (v : W64) : dlkShareWrite s n v =
    if bit 16 (s.reg (regAddr (pgDlk n) 0x100)) = true ∨ fld 15 12 v = 0 ∨
        fld 15 12 v + fld 11 8 v + fld 7 4 v + fld 3 0 v ≠ 16
    then reject s (pgDlk n) else s.setReg (regAddr (pgDlk n) 0x100) (BitVec.ofNat 64 (fld 16 0 v)) := by
  have hsum : fld 3 0 v + fld 7 4 v + fld 11 8 v + fld 15 12 v = fld 15 12 v + fld 11 8 v + fld 7 4 v + fld 3 0 v := by
    omega
  simp only [dlkShareWrite, hsum, Bool.or_eq_true, decide_eq_true_eq, or_assoc]

/-- Settles O17: the two clauses are the two branches of the register's write. -/
theorem dieLinkSharesObeyTheSlotRule : Obligations.DieLinkSharesObeyTheSlotRule := by
  unfold Obligations.DieLinkSharesObeyTheSlotRule
  intro n v s hlive hlink
  rw [exec_dlkShareWrite v hlive hlink, dlkShareWrite_eq]
  refine ⟨fun hlock hdbg hsum => ?_, fun hbad => ?_⟩
  · have hok : ¬ (bit 16 (s.reg (regAddr (pgDlk n) 0x100)) = true ∨ fld 15 12 v = 0 ∨
        fld 15 12 v + fld 11 8 v + fld 7 4 v + fld 3 0 v ≠ 16) := by
      rintro (hlocked | hzero | hne)
      · exact Bool.false_ne_true (hlock.symm.trans hlocked)
      · omega
      · exact hne hsum
    rw [if_neg hok]
  · rw [if_pos hbad]
    exact ⟨_, rfl, reject_recorded s (blockAt_of_hasDlk hlink)⟩

/-! ### What happens to a link that retires a slice or goes down -/

/-- An error bit that is set stays set when another bit of the page is. -/
theorem bit_setBit_of {m n : Nat} {x : W64} (hn : n < 64) (h : bit m x = true) : bit m (setBit n x true) = true := by
  by_cases hmn : m = n
  · rw [hmn, bit_setBit_same n x true hn]
  · rw [bit_setBit_other n m x true hn hmn, h]

/-- A raised error is set in its page's ERR_STAT. -/
theorem raiseWith_sets (s : State) {page i n : Nat} {b : Block} (e : ErrInfo) (hp : blockAt page = some (b, i))
    (hn : n < 64) : bit n ((raiseWith s page n e).err page) = true := by
  rw [raiseWith_err s page n e page b i hp, if_pos rfl, bit_setBit_same _ _ _ hn]

/-- An error that was set stays set when another is raised. -/
theorem raiseWith_keepsBit (s : State) {page i m n : Nat} {b : Block} (e : ErrInfo) (hp : blockAt page = some (b, i))
    (hn : n < 64) (h : bit m (s.err page) = true) : bit m ((raiseWith s page n e).err page) = true := by
  rw [raiseWith_err s page n e page b i hp, if_pos rfl]
  exact bit_setBit_of hn h

/-- DLK_STAT is a register: links, errors and the phase stay. -/
@[simp] theorem dlkStat_dlink (s : State) (n m : Nat) (up : Bool) : (dlkStat s n up).dlink m = s.dlink m := by
  rw [dlkStat, setReg_dlink]
@[simp] theorem dlkStat_err (s : State) (n p : Nat) (up : Bool) : (dlkStat s n up).err p = s.err p := by
  rw [dlkStat, setReg_err]
@[simp] theorem dlkStat_phase (s : State) (n : Nat) (up : Bool) : (dlkStat s n up).phase = s.phase := by
  rw [dlkStat, setReg_phase]

@[simp] theorem dlkDown_phase (s : State) (n : Nat) (inj : Bool) : (dlkDown s n inj).phase = .fatal := rfl

@[simp] theorem dlkDown_dlink (s : State) (n m : Nat) (inj : Bool) : (dlkDown s n inj).dlink m = s.dlink m := by
  simp [dlkDown]

theorem dlkDown_keepsBit (s : State) {n m : Nat} (inj : Bool) (hn : n < 10) (h : bit m (s.err (pgDlk n)) = true) :
    bit m ((dlkDown s n inj).err (pgDlk n)) = true := by
  rw [dlkDown, fatalStop_err]
  exact raiseWith_keepsBit _ _ (blockAt_pgDlk hn) (by decide) (by rwa [dlkStat_err])

/-- The slices left when one of a mask is retired. -/
def slicesLeft (l : DieLink) (sl : Nat) : Nat := maskOf ((maskBits 16 l.slices).filter (· != sl))

/-- A link after the retirement of a slice (R32): the slice is gone, the count of resends starts again, the error is
set, and with fewer than 8 slices left the module stops. -/
theorem dlkRetireSlice_spec (s : State) {n : Nat} (sl : Nat) (inj : Bool) (hn : n < 10) :
    (dlkRetireSlice s n sl inj).dlink n = { s.dlink n with slices := slicesLeft (s.dlink n) sl, resends := 0 } ∧
    bit 9 ((dlkRetireSlice s n sl inj).err (pgDlk n)) = true ∧
    (bit 8 (s.err (pgDlk n)) = true → bit 8 ((dlkRetireSlice s n sl inj).err (pgDlk n)) = true) ∧
    (dlkRetireSlice s n sl inj).phase = if popCount 16 (slicesLeft (s.dlink n) sl) < 8 then .fatal else s.phase := by
  unfold dlkRetireSlice
  extract_lets l u v
  have hu : u.dlink n = { s.dlink n with slices := slicesLeft (s.dlink n) sl, resends := 0 } :=
    (setDlink_dlink s n _ n).trans (if_pos rfl)
  have hv : v.dlink n = u.dlink n := by simp [v]
  have hv9 : bit 9 (v.err (pgDlk n)) = true := raiseWith_sets _ _ (blockAt_pgDlk hn) (by decide)
  have hv8 (h : bit 8 (s.err (pgDlk n)) = true) : bit 8 (v.err (pgDlk n)) = true :=
    raiseWith_keepsBit _ _ (blockAt_pgDlk hn) (by decide) (by rwa [dlkStat_err])
  have hphase : v.phase = s.phase := by rw [raiseWith_phase, dlkStat_phase, setDlink_phase]
  have hslices : (u.dlink n).slices = slicesLeft (s.dlink n) sl := congrArg DieLink.slices hu
  rw [hslices]
  by_cases hfew : popCount 16 (slicesLeft (s.dlink n) sl) < 8
  · rw [if_pos hfew, if_pos hfew]
    exact ⟨by rw [dlkDown_dlink, hv, hu], dlkDown_keepsBit v inj hn hv9, fun h => dlkDown_keepsBit v inj hn (hv8 h),
      dlkDown_phase v n inj⟩
  · rw [if_neg hfew, if_neg hfew]
    exact ⟨hv.trans hu, hv9, hv8, hphase⟩

/-! ### Flits -/

/-- The failures of a link that count at a round, with a new one of a slice: those of the last 2^20 rounds (R476). -/
def failsAt (l : DieLink) (sl round : Nat) : List (Nat × Nat) :=
  (sl, round) :: l.fails.filter (fun p => decide (round < p.2 + 2 ^ 20))

/-- The failing flit retires its slice: 16 failures of the slice that count, or the flit's eighth resend (R476). -/
def retires (l : DieLink) (sl round : Nat) : Prop :=
  16 ≤ ((failsAt l sl round).filter (fun p => p.1 == sl)).length ∨ 8 ≤ l.resends + 1

/-- The state after a failed check is counted and reported, before a slice is retired. -/
def countFailure (s : State) (n sl round : Nat) : State :=
  let u := s.setDlink n { s.dlink n with resends := (s.dlink n).resends + 1, fails := failsAt (s.dlink n) sl round }
  countEv (raiseWith u (pgDlk n) 8 (dlkInfo u n false)) (pgDlk n) 3 1

theorem countFailure_dlink (s : State) (n sl round : Nat) : (countFailure s n sl round).dlink n =
    { s.dlink n with resends := (s.dlink n).resends + 1, fails := failsAt (s.dlink n) sl round } := by
  simp [countFailure]

@[simp] theorem countFailure_phase (s : State) (n sl round : Nat) : (countFailure s n sl round).phase = s.phase := by
  simp [countFailure]

/-- A failed check sets CRCRETRY. -/
theorem countFailure_sets (s : State) {n : Nat} (sl round : Nat) (hn : n < 10) :
    bit 8 ((countFailure s n sl round).err (pgDlk n)) = true := by
  rw [countFailure, countEv_err]
  exact raiseWith_sets _ _ (blockAt_pgDlk hn) (by decide)

section
variable {s : State} {n : Nat} (seq round sl : Nat) (hlive : live s = true) (hlink : hasDlk s n = true)
  (hup : bit 0 (s.reg (regAddr (pgDlk n) 0x108)) = true) (harmed : armedAt s (pgDlk n) 8 = false)
include hlive hlink hup harmed

/-- A flit that passes its checks on a link that is up. -/
theorem exec_dlkFlitReceive_ok : exec (.dlkFlitReceive n seq round sl true) s = .next
    (if seq = (s.dlink n).rxSeq then
      countEv (s.setDlink n { s.dlink n with rxSeq := (s.dlink n).rxSeq + 1, resends := 0,
                                             delivered := (s.dlink n).delivered + 1 }) (pgDlk n) 1 1
     else s) := by
  show execDlkFlitReceive n seq round sl true s = _
  simp [execDlkFlitReceive, whenLive, hlive, hlink, hup, harmed]

/-- A flit that fails them. -/
theorem exec_dlkFlitReceive_fail [Decidable (retires (s.dlink n) sl round)] :
    exec (.dlkFlitReceive n seq round sl false) s = .next
      (if retires (s.dlink n) sl round then dlkRetireSlice (countFailure s n sl round) n sl false
       else countFailure s n sl round) := by
  show execDlkFlitReceive n seq round sl false s = _
  simp [execDlkFlitReceive, whenLive, hlive, hlink, hup, harmed, retires, countFailure, failsAt]

/-- The expected flit is delivered once, and nothing but its link and event counters changes. -/
theorem dlkFlitReceive_delivers (hseq : seq = (s.dlink n).rxSeq) :
    ∃ t, exec (.dlkFlitReceive n seq round sl true) s = .next t ∧
      t.dlink n = { s.dlink n with rxSeq := seq + 1, resends := 0, delivered := (s.dlink n).delivered + 1 } ∧
      (∀ m, m ≠ n → t.dlink m = s.dlink m) ∧ (∀ a, t.reg a = s.reg a) ∧ t.errs = s.errs ∧ t.phase = s.phase := by
  refine ⟨_, (exec_dlkFlitReceive_ok seq round sl hlive hlink hup harmed).trans (congrArg _ (if_pos hseq)), ?_,
    fun m hm => ?_, ?_⟩
  · rw [countEv_dlink, setDlink_dlink, if_pos rfl, hseq]
  · rw [countEv_dlink, setDlink_dlink, if_neg hm]
  · simp

/-- A failing flit that retires no slice is counted and waits for its resend. -/
theorem dlkFlitReceive_resends (h : ¬ retires (s.dlink n) sl round) :
    exec (.dlkFlitReceive n seq round sl false) s = .next (countFailure s n sl round) := by
  classical
  rw [exec_dlkFlitReceive_fail seq round sl hlive hlink hup harmed, if_neg h]

/-- A failing flit that retires its slice. -/
theorem dlkFlitReceive_retires (h : retires (s.dlink n) sl round) :
    exec (.dlkFlitReceive n seq round sl false) s = .next (dlkRetireSlice (countFailure s n sl round) n sl false) := by
  classical
  rw [exec_dlkFlitReceive_fail seq round sl hlive hlink hup harmed, if_pos h]

end

/-- Settles O18: the expected flit, another one, and a failing flit without and with the retirement of its slice. -/
theorem dieLinkDeliversEachFlitOnce : Obligations.DieLinkDeliversEachFlitOnce := by
  unfold Obligations.DieLinkDeliversEachFlitOnce
  intro n seq round sl s hlive hlink hup harmed
  have hn := lt_of_hasDlk hlink
  have hcount := countFailure_dlink s n sl round
  refine ⟨dlkFlitReceive_delivers seq round sl hlive hlink hup harmed, fun hseq => ?_, ?_⟩
  · rw [exec_dlkFlitReceive_ok seq round sl hlive hlink hup harmed, if_neg hseq]
  · by_cases hret : retires (s.dlink n) sl round
    · obtain ⟨hlnk, hbit9, hbit8, hphase⟩ := dlkRetireSlice_spec (countFailure s n sl round) sl false hn
      rw [hcount] at hlnk hphase
      rw [countFailure_phase] at hphase
      exact ⟨_, dlkFlitReceive_retires seq round sl hlive hlink hup harmed hret, hbit8 (countFailure_sets s sl round hn),
        (congrArg DieLink.rxSeq hlnk :), (congrArg DieLink.delivered hlnk :), (congrArg DieLink.fails hlnk :),
        fun hnot => absurd hret hnot, fun _ => ⟨(congrArg DieLink.slices hlnk :), hbit9, hphase⟩⟩
    · exact ⟨_, dlkFlitReceive_resends seq round sl hlive hlink hup harmed hret, countFailure_sets s sl round hn,
        (congrArg DieLink.rxSeq hcount :), (congrArg DieLink.delivered hcount :), (congrArg DieLink.fails hcount :),
        fun _ => ⟨(congrArg DieLink.slices hcount :), (congrArg DieLink.resends hcount :), countFailure_phase s n sl round⟩,
        fun hyes => absurd hyes hret⟩

end Sys2Proof.Proofs
end

section
/-! The state after reset (spec/02_register_pages.md R54 to R56): what CTRL and DLK_SHARE reset to, and from it the
statement about every register's listed value. -/

namespace Sys2Proof.Proofs

open Sys2Proof.Laws Sys2Proof.Machine

/-- CTRL resets to generation 3, with EN = 0 on a work-carrying block and EN = 1 on any other (R55, R57). -/
theorem regReset_ctrl (f : Fuses) {page i : Nat} {b : Block} (h : blockAt page = some (b, i)) :
    regReset f (regAddr page 0x30) = if b.workCarrying then 0x300 else 0x301 := by
  obtain ⟨hpage, hoff, hin⟩ := pageOf_regAddr (off := 0x30) (blockAt_lt h) (by decide)
  simp [regReset, hpage, hoff, hin, h]

/-- The shares of every die link reset to 1, 3, 4 and 8 slots (spec/01_module_and_dies.md R29). -/
theorem regReset_dlkShare {n : Nat} (h : n < 10) : regReset Fuses.flagship (regAddr (pgDlk n) 0x100) = 0x1348 := by
  have hall : ∀ k : Fin 10, regReset Fuses.flagship (regAddr (pgDlk k) 0x100) = 0x1348 := by decide
  exact hall ⟨n, h⟩

/-- Every table of the state after reset is empty, so its form is canonical. -/
theorem canonical_reset : Canonical State.reset := by constructor <;> rfl

/-- Settles O5: no register is stored after reset, so each reads what it resets to, and every table is empty. -/
theorem resetIsCanonicalAndGivesListedValues : Obligations.ResetIsCanonicalAndGivesListedValues := by
  unfold Obligations.ResetIsCanonicalAndGivesListedValues
  have hreg (a : Nat) : State.reset.reg a = regReset Fuses.flagship a := rfl
  refine ⟨canonical_reset, hreg, fun page b i hpage => ?_, fun n hn => ?_, ?_, ?_, fun _ => ⟨rfl, rfl⟩, fun _ => rfl,
    rfl, rfl, rfl⟩
  · exact (hreg _).trans (regReset_ctrl _ hpage)
  · exact (hreg _).trans (regReset_dlkShare hn)
  · exact (hreg _).trans (regReset_glbCap0 _)
  · exact (hreg _).trans (regReset_glbCap1 _)

end Sys2Proof.Proofs
end

section
/-! Accesses of the register aperture (spec/02_register_pages.md R49 to R55, spec/00_scope.md R8): whom it serves, what
a write of a register of the common header does. -/

namespace Sys2Proof.Proofs

open Sys2Proof.Laws Sys2Proof.Machine

/-- An error without an INFO of its own sets its bit of ERR_STAT and leaves registers and work (R53). -/
theorem raise_recorded (s : State) {page i : Nat} {b : Block} (n : Nat) (hp : blockAt page = some (b, i)) :
    ErrorRecorded s (raise s page n) page n := by
  have hsame := raise_err s page n page b i hp
  have hother : ∀ p, p ≠ page → (raise s page n).err p = s.err p := fun p hne => by
    rw [raise_err s page n p b i hp, if_neg hne]
  rw [if_pos rfl] at hsame
  refine ⟨hsame, hother, ?_⟩
  simp

/-! ### Writes of the common header (R55) -/

section
variable {s : State} {page i : Nat} {b : Block} (req : Requester) (hp : presentPage s page = some (b, i))
include hp

/-- ERR_STAT is W1C. -/
theorem writeReg_errStat (v : W64) : writeReg s req page 0x40 v =
    { s with errs := SMap.put (fun _ => 0) s.errs page (s.err page &&& ~~~v) } := by
  simp [writeReg, hp]

theorem writeReg_errMask (v : W64) : writeReg s req page 0x48 v = s.setReg (regAddr page 0x48) v := by
  simp [writeReg, hp]

theorem writeReg_drain (v : W64) : writeReg s req page 0xA0 v = drainWrite s page (fld 1 0 v) := by
  simp [writeReg, hp]

/-- The read-only and reserved offsets of the header. -/
theorem writeReg_ignored {off : Nat} (v : W64)
    (h : off < 0x30 ∨ off = 0x38 ∨ off = 0x58 ∨ (0xA8 ≤ off ∧ off < 0x100)) : writeReg s req page off v = s := by
  simp only [writeReg, hp]
  rw [if_neg (by omega), if_neg (by omega), if_neg (by omega), if_neg (by omega), if_neg (by omega), if_neg (by omega),
    if_neg (by omega), if_neg (by omega), if_pos (by omega)]

end

/-! ### Who is served (R49, R50) -/

/-- A live module serves every requester. -/
theorem serves_of_live {s : State} (req : Requester) (page : Nat) (hlive : live s = true) : serves s req page = true := by
  simp [serves, hlive]

section
variable {req : Requester} {io : Bool} {addr : Nat} {s : State} (hlive : live s = true) (hin : inAperture addr = true)
include hlive hin

theorem exec_regWrite_refused (href : refusesAccess req io = true) (size : Nat) (v : W64) :
    exec (.regWrite req io addr size v) s = .next { s with outs := .refusedAccess addr :: s.outs } := by
  show execRegWrite req io addr size v s = _
  simp [execRegWrite, hin, serves_of_live _ _ hlive, href]

theorem exec_regWrite_served (href : refusesAccess req io = false) (size : Nat) (v : W64) :
    exec (.regWrite req io addr size v) s = .next (accessWrite s req addr size v) := by
  show execRegWrite req io addr size v s = _
  simp [execRegWrite, hin, serves_of_live _ _ hlive, href]

theorem exec_regReadMisaligned_refused (href : refusesAccess req io = true) {size : Nat} (hsize : 0 < size)
    (hmis : addr % size ≠ 0) :
    exec (.regReadMisaligned req io addr size) s = .next { s with outs := .refusedAccess addr :: s.outs } := by
  show execRegReadMisaligned req io addr size s = _
  simp [execRegReadMisaligned, hin, serves_of_live _ _ hlive, href, hmis, Nat.ne_of_gt hsize]

/-- A misaligned read returns 0, and sets ACCESS where the page is present. -/
theorem exec_regReadMisaligned_served (href : refusesAccess req io = false) {size : Nat} (hsize : 0 < size)
    (hmis : addr % size ≠ 0) :
    exec (.regReadMisaligned req io addr size) s = .next
      (if (presentPage s (pageOf addr)).isSome
       then raise { s with outs := .readResult addr 0 :: s.outs } (pageOf addr) 1
       else { s with outs := .readResult addr 0 :: s.outs }) := by
  show execRegReadMisaligned req io addr size s = _
  simp [execRegReadMisaligned, hin, serves_of_live _ _ hlive, href, hmis, Nat.ne_of_gt hsize]

end

/-- A write of less than a register, or not aligned, is discarded and sets ACCESS (R50). -/
theorem accessWrite_partial {s : State} {addr i size : Nat} {b : Block} (req : Requester) (v : W64)
    (hp : presentPage s (pageOf addr) = some (b, i)) (h : size ≠ 8 ∨ offOf addr % 8 ≠ 0) :
    accessWrite s req addr size v = raise s (pageOf addr) 1 := by
  have hnot : ¬ (size = 8 ∧ offOf addr % 8 = 0) := by omega
  simp only [accessWrite, hp, if_neg hnot]

/-- A write of a whole register. -/
theorem accessWrite_whole {s : State} {addr i : Nat} {b : Block} (req : Requester) (v : W64)
    (hp : presentPage s (pageOf addr) = some (b, i)) (h : offOf addr % 8 = 0) :
    accessWrite s req addr 8 v = writeReg s req (pageOf addr) (offOf addr) v := by
  simp [accessWrite, hp, h]

theorem accessWrite_absent {s : State} {addr : Nat} (req : Requester) (size : Nat) (v : W64)
    (hp : presentPage s (pageOf addr) = none) : accessWrite s req addr size v = s := by
  simp only [accessWrite, hp]

/-- Settles O12: the requester is refused; the page is absent; the page is present. -/
theorem registerAccessRulesHold : Obligations.RegisterAccessRulesHold := by
  unfold Obligations.RegisterAccessRulesHold
  intro req io addr s hlive hin
  refine ⟨fun href => ⟨exec_regWrite_refused hlive hin href,
    fun size hsize hmis => exec_regReadMisaligned_refused hlive hin href hsize hmis⟩,
    fun href hp => ⟨fun size v => ?_, fun size hsize hmis => ?_⟩, fun href b i hp => ?_⟩
  · rw [exec_regWrite_served hlive hin href, accessWrite_absent req size v hp]
  · rw [exec_regReadMisaligned_served hlive hin href hsize hmis, hp]
    rfl
  · have hwhole (v : W64) (h : offOf addr % 8 = 0) : exec (.regWrite req io addr 8 v) s =
        .next (writeReg s req (pageOf addr) (offOf addr) v) := by
      rw [exec_regWrite_served hlive hin href, accessWrite_whole req v hp h]
    refine ⟨fun size v h => ?_, fun v hoff => ?_, fun v hoff => ?_, fun v h8 hoff => ?_, fun size hsize hmis => ?_⟩
    · rw [exec_regWrite_served hlive hin href, accessWrite_partial req v hp h]
    · refine ⟨_, hwhole v (by omega), ?_⟩
      rw [hoff, writeReg_errStat req hp]
      exact ⟨get_put_same _ _ _ _, fun p hne => get_put_other _ _ _ _ _ hne, rfl, rfl, rfl, rfl, rfl⟩
    · rw [hwhole v (by omega), hoff, writeReg_errMask req hp]
    · rw [hwhole v h8, writeReg_ignored req hp v hoff]
    · refine ⟨_, exec_regReadMisaligned_served hlive hin href hsize hmis, ?_⟩
      rw [hp]
      exact raise_recorded _ 1 (blockAt_of_present hp)

end Sys2Proof.Proofs
end

section
/-! A write of CTRL that enables a cache-maintenance engine (spec/02_register_pages.md R57, R60): besides storing the
register it lets the requests that waited for the engine enter it. -/

namespace Sys2Proof.Proofs

open Sys2Proof.Laws Sys2Proof.Machine

/-- A flush of 128 bytes that a descriptor of queue 0 asked for. -/
def flushRequest : CmeReq := ⟨3, 0, 128, 0, 0x3FF, true, false, none, some (0, 0)⟩

/-- The module after reset, but for a descriptor's request that waits until the engine of C-die 1 is enabled. -/
def requestWaits : State := State.reset.setCme 1 ⟨[], [flushRequest], 0, 0⟩

/-- Enabling the engine moves the request in. -/
theorem ctrlWrite_requestWaits_cme : (ctrlWrite requestWaits (pgCme 1) 0x301).cme 1 = ⟨[flushRequest], [], 0, 0⟩ := by
  decide

/-- Refutes O13: a valid write of EN = 1 on a cache-maintenance engine changes more than CTRL, for a request that
waited enters the engine (R356 of spec/13_queues.md). -/
theorem not_controlWriteFollowsGenerationRules : ¬ Obligations.ControlWriteFollowsGenerationRules := by
  unfold Obligations.ControlWriteFollowsGenerationRules
  intro h
  obtain ⟨hctrl, -⟩ := h (pgCme 1) 0x301 .cme 0 requestWaits (by decide) (by decide)
  obtain ⟨-, hvalid⟩ := hctrl (by decide) (by decide)
  obtain ⟨t, hexec, hframe, -⟩ := hvalid (by decide) (by decide) (by decide) (by decide)
  have hwrite : exec (.ctrlWrite (pgCme 1) 0x301) requestWaits = .next (ctrlWrite requestWaits (pgCme 1) 0x301) :=
    congrArg _ (if_pos (by decide))
  have ht : ctrlWrite requestWaits (pgCme 1) 0x301 = requestWaits.setReg (regAddr (pgCme 1) 0x30) (0x301 &&& 0x311) :=
    (Host.Outcome.next.inj (hwrite.symm.trans hexec)).trans hframe
  have hcme : (⟨[flushRequest], [], 0, 0⟩ : CmeSt) = ⟨[], [flushRequest], 0, 0⟩ :=
    ctrlWrite_requestWaits_cme.symm.trans ((congrArg (fun u => State.cme u 1) ht).trans (by decide))
  exact absurd hcme (by decide)

end Sys2Proof.Proofs
end

section
/-! Dealing out the queued items of a compute unit (spec/04_compute_units.md R124 to R127): what it cannot change. -/

namespace Sys2Proof.Proofs

open Sys2Proof.Laws Sys2Proof.Machine

/-- The state but for jobs, items, the units that hold them, what waits for them, and what a record or an event
changes. -/
def quietDeal (s : State) : State :=
  { quietRec s with fab := FabSt.reset, sump := ⟨0, 0, 0, [], []⟩, jobs := [], items := [], units := [], groups := [],
                    vregs := [], dbg := ⟨none, none, none, none, none, []⟩ }

theorem quietDeal_of {s t : State} (h : quietRec t = quietRec s) : quietDeal t = quietDeal s := (congrArg quietDeal h :)

/-- A fold of steps each of which changes only these. -/
theorem quietDeal_foldl {α : Type} {g : State → α → State} (hg : ∀ t a, quietDeal (g t a) = quietDeal t) (l : List α)
    (s : State) : quietDeal (l.foldl g s) = quietDeal s := by
  induction l generalizing s with
  | nil => rfl
  | cons a l ih => rw [List.foldl_cons, ih, hg]

theorem leaveUnit_quietDeal (s : State) (u n : Nat) : quietDeal (leaveUnit s u n) = quietDeal s := by
  unfold leaveUnit
  extract_lets hs s1 c slab s2
  have h1 : quietDeal s1 = quietDeal s := by
    refine quietDeal_foldl (fun t h => ?_) hs s
    rfl
  clear_value s1
  exact (rfl : _ = quietDeal s1).trans h1

theorem dropPackets_quietDeal (s : State) (n : Nat) : quietDeal (dropPackets s n) = quietDeal s := by
  unfold dropPackets
  refine quietDeal_foldl (fun t p => ?_) _ _
  dsimp only
  split <;> rfl

theorem dropItem_quietDeal (s : State) (n : Nat) : quietDeal (dropItem s n) = quietDeal s := by
  unfold dropItem
  split
  · rfl
  · extract_lets s1 s2
    have h1 : quietDeal s1 = quietDeal s := by
      unfold s1
      split
      · exact leaveUnit_quietDeal s _ n
      · rfl
    have hdrop (t : State) : quietDeal
        ((dropFetched (withdraw t (fun w => w.ofItem n)) (ridItem n)).setItem n none) = quietDeal t := rfl
    exact (hdrop _).trans ((dropPackets_quietDeal s1 n).trans h1)

theorem unreserveItem_quietDeal (s : State) (it : Item) : quietDeal (unreserveItem s it) = quietDeal s := by
  unfold unreserveItem
  split
  · rfl
  · split <;> rfl

theorem faultJob_quietDeal (s : State) (jn sid step status detail : Nat) :
    quietDeal (faultJob s jn sid step status detail) = quietDeal s := by
  unfold faultJob
  split
  · rfl
  · split
    · rfl
    · exact (quietDeal_of (postRec_quietRec _ _ _)).trans rfl

theorem requeueOn_quietDeal (s : State) (n v : Nat) (it : Item) : quietDeal (requeueOn s n v it) = quietDeal s :=
  (quietDeal_of (quietRec_of (countEv_quiet _ _ _ _))).trans rfl

theorem dealOne_quietDeal {s t : State} {order order' : List Nat} {n : Nat} (h : dealOne s order n = some (t, order')) :
    quietDeal t = quietDeal s := by
  unfold dealOne at h
  split at h
  · cases h
  · dsimp only at h
    split at h
    · cases h
      rfl
    · cases h
      exact requeueOn_quietDeal s n _ _

theorem dealAway_quietDeal (s : State) (u n : Nat) : quietDeal (dealAway s u n) = quietDeal s := by
  unfold dealAway
  split
  · rfl
  · extract_lets placeC other
    split
    · rfl
    · split
      · split
        · exact requeueOn_quietDeal _ _ _ _
        · rfl
      · rw [faultJob_quietDeal, dropItem_quietDeal, unreserveItem_quietDeal]

theorem dealAll_quietDeal (s : State) (u : Nat) (order l : List Nat) : quietDeal (dealAll s u order l) = quietDeal s := by
  induction l generalizing s order with
  | nil => rfl
  | cons n l ih =>
    unfold dealAll
    split
    · next h => rw [ih, dealOne_quietDeal h]
    · rw [ih, dealAway_quietDeal]

/-- Dealing keeps every DSTATE. -/
theorem dealQueued_dst (s : State) (u p : Nat) : (dealQueued s u).dst p = s.dst p :=
  (congrArg (fun t => State.dst t p) (dealAll_quietDeal s u (dealOrder s u) (inJseq (queuedOn s u))) :)

end Sys2Proof.Proofs
end

section
/-! DRAIN, ABORT and RESUME of a work-carrying block (spec/02_register_pages.md R60 to R62). -/

namespace Sys2Proof.Proofs

open Sys2Proof.Laws Sys2Proof.Machine

/-- A block takes new work exactly while it is enabled and RUNNING (R60). -/
theorem accepts_iff (s : State) (page : Nat) : s.accepts page = true ↔ s.en page = true ∧ s.dst page = 0 := by
  simp [State.accepts]

/-! ### Stopping and resuming -/

/-- A block that stops is STOPPED. -/
theorem blockStopped_dst (s : State) (page : Nat) : (blockStopped s page).dst page = 2 := by
  have hset : (s.setDst page 2).dst page = 2 := (setDst_dst s page 2 page).trans (if_pos rfl)
  unfold blockStopped
  dsimp only
  split
  · rw [dealQueued_dst, hset]
  · exact hset

/-- Only a compute unit has more to do when it stops. -/
theorem blockStopped_of_ne_cu (s : State) {page i : Nat} {b : Block} (hp : blockAt page = some (b, i)) (hb : b ≠ .cu) :
    blockStopped s page = s.setDst page 2 := by
  unfold blockStopped
  dsimp only
  split
  · next hcu => exact absurd (congrArg Prod.fst (Option.some.inj (hp.symm.trans hcu))) hb
  · rfl

/-- A block that just began to drain is STOPPED at once if nothing is pending, and else DRAINING (R61). -/
theorem drainDone_begun_dst (s : State) (page : Nat) :
    (drainDone (s.setDst page 1) page).dst page = if workPending (s.setDst page 1) page = 0 then 2 else 1 := by
  have hset : (s.setDst page 1).dst page = 1 := (setDst_dst s page 1 page).trans (if_pos rfl)
  unfold drainDone
  by_cases hw : workPending (s.setDst page 1) page = 0
  · rw [if_pos ⟨hset, hw⟩, if_pos hw, blockStopped_dst]
  · rw [if_neg (fun h => hw h.2), if_neg hw, hset]

/-- The drain of a block other than a compute unit changes no register. -/
theorem drainDone_reg (s : State) {page i : Nat} {b : Block} (hp : blockAt page = some (b, i)) (hb : b ≠ .cu) (a : Nat) :
    (drainDone s page).reg a = s.reg a := by
  unfold drainDone
  split
  · rw [blockStopped_of_ne_cu s hp hb, setDst_reg]
  · rfl

/-- A resumed block is RUNNING. -/
theorem blockResumed_dst (s : State) (page : Nat) : (blockResumed s page).dst page = 0 := by
  have hset : (s.setDst page 0).dst page = 0 := (setDst_dst s page 0 page).trans (if_pos rfl)
  have hfeed (d : Nat) : (cmeFeed 8 (s.setDst page 0) d).dst page = (s.setDst page 0).dst page :=
    (congrArg (fun t => State.dst t page) (cmeFeed_quietDesc (s.setDst page 0) 8 d) :)
  unfold blockResumed
  dsimp only
  split
  · rw [setQueue_dst, hset]
  · rw [hfeed, hset]
  · exact hset

/-! ### The commands of DRAIN.CMD -/

section
variable {s : State} {page i : Nat} {b : Block} (hp : presentPage s page = some (b, i)) (hw : b.workCarrying = true)
include hp hw

theorem drainWrite_drain : drainWrite s page 1 =
    if s.dst page = 0 then drainDone (s.setDst page 1) page else if s.dst page = 3 then reject s page else s := by
  simp [drainWrite, hp, hw]

/-- ABORT; that of a harness engine acts as DRAIN (spec/14_holarn_fabric.md R415). -/
theorem drainWrite_abort (hb : b ≠ .har) : drainWrite s page 2 =
    if s.dst page = 0 ∨ s.dst page = 1 then s.setDst page 3 else s := by
  simp [drainWrite, hp, hw, hb]

theorem drainWrite_resume : drainWrite s page 3 =
    if s.dst page = 2 then blockResumed s page else if s.dst page = 0 then s else reject s page := by
  simp [drainWrite, hp, hw]

theorem drainWrite_none : drainWrite s page 0 = s := by
  simp [drainWrite, hp, hw]

end

section
variable {s : State} (page : Nat) (hlive : live s = true)
include hlive

theorem exec_blockDrain : exec (.blockDrain page) s = .next (drainWrite s page 1) := congrArg _ (if_pos hlive)
theorem exec_blockAbort : exec (.blockAbort page) s = .next (drainWrite s page 2) := congrArg _ (if_pos hlive)
theorem exec_blockResume : exec (.blockResume page) s = .next (drainWrite s page 3) := congrArg _ (if_pos hlive)

end

/-- Settles O14: each clause is a row of the table of R60. -/
theorem drainCommandMovesDstate : Obligations.DrainCommandMovesDstate := by
  unfold Obligations.DrainCommandMovesDstate
  intro page b i s hlive hp hw
  have hb := blockAt_of_present hp
  have hreject : ErrorRecorded s (reject s page) page 0 := reject_recorded s hb
  rw [exec_blockDrain page hlive, exec_blockAbort page hlive, exec_blockResume page hlive, drainWrite_drain hp hw,
    drainWrite_resume hp hw]
  refine ⟨accepts_iff s page, fun h => ?_, fun h => ?_, fun h => ?_, fun hhar h => ?_, fun hhar h => ?_, fun h => ?_,
    fun h => ?_, fun h => ?_, fun addr v hin hpage hoff hcmd => ?_⟩
  · refine ⟨_, rfl, ?_, fun hcu a => ?_⟩
    · rw [if_pos h, drainDone_begun_dst]
    · rw [if_pos h, drainDone_reg _ hb hcu, setDst_reg]
  · exact ⟨_, rfl, by rwa [if_neg (by omega), if_pos h]⟩
  · rw [if_neg (by omega), if_neg (by omega)]
  · rw [drainWrite_abort hp hw hhar, if_pos h]
  · rw [drainWrite_abort hp hw hhar, if_neg (by omega)]
  · exact ⟨_, rfl, by rw [if_pos h, blockResumed_dst]⟩
  · rw [if_neg (by omega), if_pos h]
  · exact ⟨_, rfl, by rwa [if_neg (by omega), if_neg (by omega)]⟩
  · subst hpage
    rw [exec_regWrite_served hlive hin rfl, accessWrite_whole .potemir v hp (by omega), hoff,
      writeReg_drain .potemir hp, hcmd, drainWrite_none hp hw]

/-! ### The end of an abort -/

/-- A CLEAN of 128 bytes whose completion record goes to queue 7 with tag 9. -/
def taggedRequest : CmeReq := ⟨1, 0, 128, 0, 0, false, false, some (7, 9), none⟩

/-- DSTATE 3 at page 3 of the H-die's region, which is SEC, and a request of the engine number 2 that no module has. -/
def secAborting : State := (State.reset.setDst pgSec 3).setCme 2 ⟨[taggedRequest], [], 0, 0⟩

/-- No engine is at that page, so what ends there is no request. -/
theorem abortBlock_secAborting : abortBlock secAborting pgSec = secAborting.setDst pgSec 2 := rfl

/-- Refutes O15: its last clause takes any present page 3 of a region for a cache-maintenance engine's. Page 3 of region
2 is SEC, whose DSTATE moves with no request of an engine. -/
theorem not_stoppedBlockHasFinishedItsWork : ¬ Obligations.StoppedBlockHasFinishedItsWork := by
  unfold Obligations.StoppedBlockHasFinishedItsWork
  intro h
  obtain ⟨-, -, -, hcme⟩ := h pgSec .sec 0 secAborting (by decide) (by decide)
  have hclaim := hcme 2 taggedRequest 7 9 rfl (by decide) (by decide) rfl
  have hexec : exec (.blockAbortDone pgSec) secAborting = .next (secAborting.setDst pgSec 2) :=
    (congrArg _ (if_pos (by decide))).trans (congrArg _ ((if_pos (by decide)).trans abortBlock_secAborting))
  have hreqs := congrArg (fun t => (State.cme t 2).reqs) (Host.Outcome.next.inj (hexec.symm.trans hclaim))
  simp [secAborting] at hreqs

end Sys2Proof.Proofs
end

section
/-! A descriptor that starts (spec/13_queues.md R356), and which parts of the state a packet on a flow and the
registers of a job touch: what the statements about jobs and items share. -/

namespace Sys2Proof.Proofs

open Sys2Proof.Laws Sys2Proof.Machine

/-! ### A descriptor that starts -/

/-- A descriptor that starts does what its command's row says. -/
theorem descRow_of_starts {s : State} {q idx opc : Nat} {d : Desc} (body : Desc → State → State)
    (h : Starts s q idx opc d) : descRow q idx opc body s = .next (body d s) := by
  obtain ⟨hlive, hdesc, hopc, hmay, hsump⟩ := h
  simp [descRow, whenLive, hlive, hdesc, hopc, hmay, hsump]

theorem leNat_lt (bs : List Byte) : leNat bs < 256 ^ bs.length := by
  induction bs with
  | nil => exact Nat.one_pos
  | cons b bs ih =>
    have hb : b.toNat < 256 := b.isLt
    have hpow : 256 ^ (b :: bs).length = 256 * 256 ^ bs.length := by rw [List.length_cons, pow_succ']
    rw [hpow, leNat]
    omega

/-- An operand of 8 bytes is a 64-bit number. -/
theorem op_lt (d : Desc) (o : Nat) : d.op o 8 < 2 ^ 64 :=
  calc d.op o 8 < 256 ^ ((d.bytes.drop o).take 8).length := leNat_lt _
    _ ≤ 256 ^ 8 := Nat.pow_le_pow_right (by decide) (List.length_take_le 8 _)
    _ = 2 ^ 64 := by decide

/-! ### What power control and the fabric can change -/

/-- The state but for the registers, power control and what an event changes. -/
def quietPower (s : State) : State := { quiet s with regs := [], pwr := ⟨[], 0, [], [], []⟩ }

/-- The state but for the fabric, the reduction seats and what an error that is reported changes. -/
def quietFabric (s : State) : State := { quietErr s with fab := FabSt.reset, seats := [] }

theorem quietPower_of {s t : State} (h : quiet t = quiet s) : quietPower t = quietPower s := (congrArg quietPower h :)
theorem quietFabric_of {s t : State} (h : quietErr t = quietErr s) : quietFabric t = quietFabric s :=
  (congrArg quietFabric h :)

theorem setReg_quietPower (s : State) (a : Nat) (v : W64) : quietPower (s.setReg a v) = quietPower s := rfl

/-- What no step of a fold changes, the fold does not change. -/
theorem foldl_unchanged {α β : Type} (view : State → β) {g : State → α → State}
    (hg : ∀ t a, view (g t a) = view t) (l : List α) (s : State) : view (l.foldl g s) = view s := by
  induction l generalizing s with
  | nil => rfl
  | cons a l ih => rw [List.foldl_cons, ih, hg]

theorem fab_quietFabric (s : State) (x : FabSt) : quietFabric { s with fab := x } = quietFabric s := rfl

theorem setByte_quietFabric (s : State) (a : Nat) (b : Byte) : quietFabric (s.setByte a b) = quietFabric s := rfl

theorem setFlow_quietFabric (s : State) (n : Nat) (f : FlowSt) : quietFabric (s.setFlow n f) = quietFabric s := by
  unfold State.setFlow
  dsimp only
  rw [quietFabric_of (quietErr_of (putBytes_quiet _ _ _)), setByte_quietFabric, fab_quietFabric]

theorem setFlow_flow (s : State) (n : Nat) (f : FlowSt) (i : Nat) :
    (s.setFlow n f).flow i = if i = n then some f else s.flow i := get_put (fun _ => none) s.fab.flows n i (some f)

theorem enqueue_quietFabric (s : State) (n : Nat) (p : OutPkt) : quietFabric (enqueue s n p) = quietFabric s := by
  unfold enqueue
  split
  · rfl
  · exact setFlow_quietFabric s n _

theorem peerWrite_quietFabric (s : State) (p : Pair) (off : Nat) (bs : List Byte) :
    quietFabric (peerWrite s p off bs) = quietFabric s := by
  unfold peerWrite
  split
  · rfl
  · exact foldl_unchanged quietFabric (fun t _ => enqueue_quietFabric t _ _) _ s

/-- The greeting of a lock-step pair is packets alone. -/
theorem greet_quietFabric (s : State) (jn : Nat) : quietFabric (greet s jn) = quietFabric s := by
  unfold greet
  split
  · rw [peerWrite_quietFabric, peerWrite_quietFabric]
  · rfl

theorem greet_job (s : State) (jn i : Nat) : (greet s jn).job i = s.job i :=
  (congrArg (fun t => State.job t i) (greet_quietFabric s jn) :)
theorem greet_items (s : State) (jn : Nat) : (greet s jn).items = s.items :=
  (congrArg State.items (greet_quietFabric s jn) :)
theorem greet_reg (s : State) (jn a : Nat) : (greet s jn).reg a = s.reg a :=
  (congrArg (fun t => State.reg t a) (greet_quietFabric s jn) :)

/-! ### The registers of a job (spec/16_determinism.md R448) -/

/-- The three registers of a job lie one after the other. -/
theorem jobReg_s0 (jn : Nat) : regAddr pgGlb (0x408 + 32 * jn) = regAddr pgGlb (0x400 + 32 * jn) + 8 := by
  unfold regAddr
  omega

theorem jobReg_seed (jn : Nat) : regAddr pgGlb (0x410 + 32 * jn) = regAddr pgGlb (0x400 + 32 * jn) + 16 := by
  unfold regAddr
  omega

theorem setJobRegs_reg (s : State) (jn psc s0 seed : Nat) :
    (setJobRegs s jn psc s0 seed).reg (regAddr pgGlb (0x400 + 32 * jn)) = BitVec.ofNat 64 psc ∧
    (setJobRegs s jn psc s0 seed).reg (regAddr pgGlb (0x408 + 32 * jn)) = BitVec.ofNat 64 s0 ∧
    (setJobRegs s jn psc s0 seed).reg (regAddr pgGlb (0x410 + 32 * jn)) = BitVec.ofNat 64 seed := by
  rw [jobReg_s0, jobReg_seed]
  simp [setJobRegs]

theorem setJobRegs_job (s : State) (jn psc s0 seed i : Nat) : (setJobRegs s jn psc s0 seed).job i = s.job i := by
  simp only [setJobRegs, setReg_job]
theorem setJobRegs_items (s : State) (jn psc s0 seed : Nat) : (setJobRegs s jn psc s0 seed).items = s.items := by
  simp only [setJobRegs, setReg_items]

end Sys2Proof.Proofs
end

section
/-! START and ADMIT (spec/03_stations_and_streams.md R81, R88, R90; spec/16_determinism.md R439, R440, R448). -/

namespace Sys2Proof.Proofs

open Sys2Proof.Laws Sys2Proof.Machine

/-! ### What START writes -/

theorem seatPage_lt {s : State} {r g : Nat} (h : seatPage s r = some g) : g < 20 :=
  List.mem_range.mp (List.mem_of_find?_eq_some h)

/-- A step register of a seat is none of GLB's. -/
theorem setLraStep_reg_glb (s : State) {g r off : Nat} (v : Nat) (hg : g < 20) (hr : r < 16) (hoff : off < 65536) :
    (setLraStep s g r v).reg (regAddr pgGlb off) = s.reg (regAddr pgGlb off) := by
  have hpage : pgGlb ≠ pgLra g := by
    unfold pgGlb pgLra pageNo lgX
    omega
  have haddr : regAddr pgGlb off ≠ regAddr (pgLra g) (0x300 + 8 * r) := fun h =>
    hpage ((regAddr_inj hoff (by omega)).mp h).1
  rw [setLraStep, setReg_reg, if_neg haddr]

/-- Channels that return to no step are registers of their lane groups alone (R433). -/
theorem startSeats_reg_glb (s : State) (j : Job) {off : Nat} (hoff : off < 65536) :
    (startSeats s j).reg (regAddr pgGlb off) = s.reg (regAddr pgGlb off) := by
  refine foldl_unchanged (fun t => State.reg t (regAddr pgGlb off)) (fun t st => ?_) j.stns s
  split
  · rfl
  · split
    · rfl
    · next hseat => exact setLraStep_reg_glb t _ (seatPage_lt hseat) (Nat.mod_lt _ (by decide)) hoff

theorem startSeats_quietPower (s : State) (j : Job) : quietPower (startSeats s j) = quietPower s := by
  refine foldl_unchanged quietPower (fun t st => ?_) j.stns s
  split
  · rfl
  · split
    · rfl
    · exact setReg_quietPower t _ _

theorem startSeats_job (s : State) (j : Job) (i : Nat) : (startSeats s j).job i = s.job i :=
  (congrArg (fun t => State.job t i) (startSeats_quietPower s j) :)
theorem startSeats_items (s : State) (j : Job) : (startSeats s j).items = s.items :=
  (congrArg State.items (startSeats_quietPower s j) :)

/-- The job as START leaves it (R88, R90). -/
def startedJob (s : State) (j : Job) (q s0 n seed : Nat) : Job :=
  { j with queue := q, seed := seed, s0 := s0, admitted := n, low := 0, jstate := 1, fsid := none, begun := [],
           dets := [(s0, detm s)], defers := [], digs := [], stns := j.stns.map (startStn s (detm s)),
           cnds := j.cnds.map Cnd.flush }

/-- START stores the job and its registers; what follows touches registers of seats and packets alone. -/
theorem startJob_eq (s : State) (jn : Nat) (j : Job) (q s0 n seed : Nat) :
    startJob s jn j q s0 n seed =
      greet (startSeats (setJobRegs (s.setJob jn (some (startedJob s j q s0 n seed))) jn s0 s0 seed)
        (startedJob s j q s0 n seed)) jn := rfl

theorem startJob_job (s : State) (jn : Nat) (j : Job) (q s0 n seed i : Nat) :
    (startJob s jn j q s0 n seed).job i = if i = jn then some (startedJob s j q s0 n seed) else s.job i := by
  rw [startJob_eq, greet_job, startSeats_job, setJobRegs_job, setJob_job]

theorem startJob_items (s : State) (jn : Nat) (j : Job) (q s0 n seed : Nat) :
    (startJob s jn j q s0 n seed).items = s.items := by
  rw [startJob_eq, greet_items, startSeats_items, setJobRegs_items, setJob_items]

/-- The registers of GLB are those that START itself writes. -/
theorem startJob_reg_glb (s : State) (jn : Nat) (j : Job) (q s0 n seed : Nat) {off : Nat} (hoff : off < 65536) :
    (startJob s jn j q s0 n seed).reg (regAddr pgGlb off) =
      (setJobRegs (s.setJob jn (some (startedJob s j q s0 n seed))) jn s0 s0 seed).reg (regAddr pgGlb off) := by
  rw [startJob_eq, greet_reg, startSeats_reg_glb _ _ hoff]

theorem startJob_regs (s : State) {jn : Nat} (j : Job) (q : Nat) {s0 : Nat} (n : Nat) {seed : Nat} (hjn : jn < 64)
    (hs0 : s0 < 2 ^ 64) (hseed : seed < 2 ^ 64) :
    ((startJob s jn j q s0 n seed).reg (regAddr pgGlb (0x400 + 32 * jn))).toNat = s0 ∧
    ((startJob s jn j q s0 n seed).reg (regAddr pgGlb (0x408 + 32 * jn))).toNat = s0 ∧
    ((startJob s jn j q s0 n seed).reg (regAddr pgGlb (0x410 + 32 * jn))).toNat = seed := by
  obtain ⟨hr, hr0, hrseed⟩ := setJobRegs_reg (s.setJob jn (some (startedJob s j q s0 n seed))) jn s0 s0 seed
  refine ⟨?_, ?_, ?_⟩
  · rw [startJob_reg_glb _ _ _ _ _ _ _ (by omega), hr, BitVec.toNat_ofNat, Nat.mod_eq_of_lt hs0]
  · rw [startJob_reg_glb _ _ _ _ _ _ _ (by omega), hr0, BitVec.toNat_ofNat, Nat.mod_eq_of_lt hs0]
  · rw [startJob_reg_glb _ _ _ _ _ _ _ (by omega), hrseed, BitVec.toNat_ofNat, Nat.mod_eq_of_lt hseed]

theorem startStn_fresh (s : State) (det : Bool) (x : Stn) :
    (startStn s det x).dst = 0 ∧ (startStn s det x).fault = false ∧ (startStn s det x).done = [] := by
  unfold startStn
  dsimp only
  split <;> exact ⟨rfl, rfl, rfl⟩

theorem startedJob_stns (s : State) (j : Job) (q s0 n seed : Nat) :
    ∀ st ∈ (startedJob s j q s0 n seed).stns, st.dst = 0 ∧ st.fault = false ∧ st.done = [] := by
  intro st hst
  obtain ⟨x, -, rfl⟩ := List.mem_map.mp hst
  exact startStn_fresh s (detm s) x

theorem startedJob_sample (s : State) (j : Job) (q s0 n seed : Nat) :
    (startedJob s j q s0 n seed).sample s0 = detm s := by
  simp [Job.sample, startedJob]

/-! ### The two commands -/

section
variable {s : State} {q idx : Nat} {d : Desc} {j : Job}

/-- START of no job. -/
theorem exec_start_noJob (h : Starts s q idx 2 d) (hj : s.job (d.op 24 1 % 64) = none) :
    exec (.start q idx) s = .next (finishDesc s q idx stBadState 0) := by
  show execStart q idx s = _
  rw [execStart, descRow_of_starts _ h]
  simp only [hj]

/-- The checks of START, in the order of R90. -/
theorem exec_start (h : Starts s q idx 2 d) (hj : s.job (d.op 24 1 % 64) = some j) :
    exec (.start q idx) s = .next
      (if j.jstate ≠ 0 then finishDesc s q idx stBadState 0
       else if wantsDetm s j then finishDesc s q idx stDetMode 0
       else if 2 ^ 64 - 1 < d.op 32 8 + d.op 40 8 then finishDesc s q idx stStepRange 0
       else finishDesc (startJob s (d.op 24 1 % 64) j q (d.op 32 8) (d.op 40 8) (d.op 48 8)) q idx stOk 0) := by
  show execStart q idx s = _
  rw [execStart, descRow_of_starts _ h]
  simp only [hj]

/-- ADMIT of no job. -/
theorem exec_admit_noJob (h : Starts s q idx 3 d) (hj : s.job (d.op 24 1 % 64) = none) :
    exec (.admitSteps q idx) s = .next (finishDesc s q idx stBadState 0) := by
  show execAdmit q idx s = _
  rw [execAdmit, descRow_of_starts _ h]
  simp only [hj]

/-- The checks of ADMIT. -/
theorem exec_admit (h : Starts s q idx 3 d) (hj : s.job (d.op 24 1 % 64) = some j) :
    exec (.admitSteps q idx) s = .next
      (if !decide (j.jstate = 1 ∨ j.jstate = 3) || j.regen.isSome then finishDesc s q idx stBadState 0
       else if wantsDetm s j then finishDesc s q idx stDetMode 0
       else if 2 ^ 64 - 1 < j.highOr + d.op 32 8 then finishDesc s q idx stStepRange 0
       else finishDesc (s.setJob (d.op 24 1 % 64)
         (some { j with admitted := j.admitted + d.op 32 8, dets := (j.highOr, detm s) :: j.dets })) q idx stOk 0) := by
  show execAdmit q idx s = _
  rw [execAdmit, descRow_of_starts _ h]
  simp only [hj]

end

/-- Settles O24: START and ADMIT of no job, and each check of the two in its order. -/
theorem jobStartAndAdmitSetItsSteps : Obligations.JobStartAndAdmitSetItsSteps := by
  unfold Obligations.JobStartAndAdmitSetItsSteps
  refine ⟨fun q idx d s h => ⟨exec_start_noJob h, fun j hj => ?_⟩,
    fun q idx d s h => ⟨exec_admit_noJob h, fun j hj => ?_⟩⟩
  · rw [exec_start h hj]
    refine ⟨fun hst => ?_, fun hst hdet => ?_, fun hst hdet hr => ?_, fun hst hdet hr => ?_⟩
    · rw [if_pos hst]
    · rw [if_neg (not_not_intro hst), if_pos hdet]
    · rw [if_neg (not_not_intro hst), if_neg (by simp [hdet]), if_pos (by omega)]
    · obtain ⟨hpsc, hs0, hseed⟩ := startJob_regs s j q (d.op 40 8) (Nat.mod_lt (d.op 24 1) (by decide : 0 < 64))
        (op_lt d 32) (op_lt d 48)
      rw [if_neg (not_not_intro hst), if_neg (by simp [hdet]), if_neg (by omega)]
      refine ⟨_, startedJob s j q (d.op 32 8) (d.op 40 8) (d.op 48 8), rfl, ?_, rfl, rfl, rfl, rfl, rfl, rfl, rfl, rfl, rfl,
        startedJob_sample s j _ _ _ _, rfl, List.length_map .., startedJob_stns s j _ _ _ _, ?_, ?_, ?_, fun i hi => ?_, ?_,
        rfl⟩
      · rw [finishDesc_job, startJob_job, if_pos rfl]
      · rw [finishDesc_reg, hpsc]
      · rw [finishDesc_reg, hs0]
      · rw [finishDesc_reg, hseed]
      · rw [finishDesc_job, startJob_job, if_neg hi]
      · rw [finishDesc_items, startJob_items]
  · rw [exec_admit h hj]
    refine ⟨fun hbad => ?_, fun hst hregen => ?_⟩
    · rw [if_pos]
      rcases hbad with ⟨h1, h3⟩ | hregen
      · simp [h1, h3]
      · simp [hregen]
    · rw [if_neg (by simp [hst, hregen])]
      refine ⟨fun hdet => ?_, fun hdet hr => ?_, fun hdet hr => ?_⟩
      · rw [if_pos hdet]
      · rw [if_neg (by simp [hdet]), if_pos (by omega)]
      · rw [if_neg (by simp [hdet]), if_neg (by omega)]

end Sys2Proof.Proofs
end

section
/-! LOAD (spec/03_stations_and_streams.md R84 to R89): one lemma for each way in which a LOAD ends. -/

namespace Sys2Proof.Proofs

open Sys2Proof.Laws Sys2Proof.Machine

section
variable {s s1 s2 : State} {q idx : Nat} {d : Desc} {h img : List Byte}

theorem exec_load (hstarts : Starts s q idx 1 d) : exec (.load q idx) s = .next (loadImage q idx d s) :=
  descRow_of_starts _ hstarts

/-- The read of the header waits for a translation. -/
theorem loadImage_waits (hread : rqRead s (descRq s q d) (d.op 24 8) 256 = (none, s1)) :
    loadImage q idx d s = stallDesc s1 q idx := by
  simp only [loadImage, hread]

theorem loadImage_badHeader (hread : rqRead s (descRq s q d) (d.op 24 8) 256 = (some (h, false), s1))
    (hbad : headerOk h = false) : loadImage q idx d s = finishDesc s1 q idx stBadImage 0 := by
  simp [loadImage, hread, hbad]

variable (hread : rqRead s (descRq s q d) (d.op 24 8) 256 = (some (h, false), s1)) (hheader : headerOk h = true)
  (himg : rqRead s1 (descRq s q d) (d.op 24 8) (fieldAt h 8 8) = (some (img, false), s2))
include hread hheader himg

/-- Checks 1 to 3 of the image. -/
theorem loadImage_badImage
    (hbad : headerOk img = false ∨ digestOk img = false ∨
      wellFormed img (imageJob img (qaspace s q) (d.op 32 8) (d.op 40 8) q) = false) :
    loadImage q idx d s = finishDesc s2 q idx stBadImage 0 := by
  have hany : (!headerOk img || !digestOk img ||
      !wellFormed img (imageJob img (qaspace s q) (d.op 32 8) (d.op 40 8) q)) = true := by
    rcases hbad with hb | hb | hb <;> simp [hb]
  simp only [loadImage, hread, hheader, himg, hany]
  rfl

variable (hhead : headerOk img = true) (hdigest : digestOk img = true)
  (hform : wellFormed img (imageJob img (qaspace s q) (d.op 32 8) (d.op 40 8) q) = true)
include hhead hdigest hform

/-- Check 4. -/
theorem loadImage_malformed (hres : reservedOk img (imageJob img (qaspace s q) (d.op 32 8) (d.op 40 8) q) = false) :
    loadImage q idx d s = finishDesc s2 q idx stMalformed 0 := by
  simp [loadImage, hread, hheader, himg, hhead, hdigest, hform, hres]

variable (hres : reservedOk img (imageJob img (qaspace s q) (d.op 32 8) (d.op 40 8) q) = true)
include hres

/-- Check 5. -/
theorem loadImage_notPresent (hfit : presentOk s2 img (imageJob img (qaspace s q) (d.op 32 8) (d.op 40 8) q) = false) :
    loadImage q idx d s = finishDesc s2 q idx stNotPresent 0 := by
  simp [loadImage, hread, hheader, himg, hhead, hdigest, hform, hres, hfit]

variable (hfit : presentOk s2 img (imageJob img (qaspace s q) (d.op 32 8) (d.op 40 8) q) = true) {ok : Bool} {s3 : State}
  (hw : writable (descRq s q d) (fieldAt img 0x58 8 / 4096 + 1) s2 (d.op 32 8) (fieldAt img 0x58 8) = (ok, s3))
include hfit hw

/-- Check 6. -/
theorem loadImage_noResource (hbad : freeJob s3 = none ∨ ok = false ∨ d.op 40 8 < fieldAt img 0x58 8 ∨
      bit 63 (rootOf s3 (qaspace s q)) = false) :
    loadImage q idx d s = finishDesc s3 q idx stNoResource 0 := by
  cases hfree : freeJob s3 with
  | none => simp [loadImage, hread, hheader, himg, hhead, hdigest, hform, hres, hfit, hw, hfree]
  | some n =>
    have hany : (!ok || decide (d.op 40 8 < fieldAt img 0x58 8) || !bit 63 (rootOf s3 (qaspace s q))) = true := by
      rcases hbad with hb | hb | hb | hb
      · simp [hfree] at hb
      · simp [hb]
      · simp [hb]
      · simp [hb]
    simp only [loadImage, hread, hheader, himg, hhead, hdigest, hform, hres, hfit, hw, hfree, hany]
    rfl

/-- The effect of an image that passes every check. -/
theorem loadImage_loads {n : Nat} (hfree : freeJob s3 = some n) (hok : ok = true) (hsize : fieldAt img 0x58 8 ≤ d.op 40 8)
    (hroot : bit 63 (rootOf s3 (qaspace s q)) = true) :
    loadImage q idx d s = finishDesc ((rqWrite s3 (descRq s q d) (d.op 32 8) img).2.setJob n
      (some (imageJob img (qaspace s q) (d.op 32 8) (d.op 40 8) q))) q idx stOk n := by
  simp [loadImage, hread, hheader, himg, hhead, hdigest, hform, hres, hfit, hw, hfree, hok, hsize, hroot]

end

/-- Settles O23: the read of the header, and each of the six checks after those before it passed. -/
theorem loadCreatesACheckedJob : Obligations.LoadCreatesACheckedJob := by
  unfold Obligations.LoadCreatesACheckedJob
  refine ⟨fun q idx d s s1 hs hread => ?_, fun q idx d s s1 h hs hread => ?_⟩
  · rw [exec_load hs, loadImage_waits hread]
    rfl
  rw [exec_load hs]
  refine ⟨fun hbad => by rw [loadImage_badHeader hread hbad], fun hheader img s2 himg => ⟨fun hbad => ?_,
    fun hhead hdigest hform => ⟨fun hres => ?_, fun hres hfit => ?_, fun hres hfit => ⟨fun hbad => ?_,
      fun n hfree hok hsize hroot => ?_⟩⟩⟩⟩
  · rw [loadImage_badImage hread hheader himg hbad]
  · rw [loadImage_malformed hread hheader himg hhead hdigest hform hres]
  · rw [loadImage_notPresent hread hheader himg hhead hdigest hform hres hfit]
  · rw [loadImage_noResource hread hheader himg hhead hdigest hform hres hfit (Prod.eta _).symm hbad]
  · rw [loadImage_loads hread hheader himg hhead hdigest hform hres hfit (Prod.eta _).symm hfree hok hsize hroot]
    exact ⟨_, rfl, by rw [finishDesc_job, setJob_job, if_pos rfl], rfl, rfl⟩

end Sys2Proof.Proofs
end

section
/-! Descriptors that report, remove and wait for a job (spec/03_stations_and_streams.md R88, R94, spec/13_queues.md
R357). -/

namespace Sys2Proof.Proofs

open Sys2Proof.Laws Sys2Proof.Machine

section
variable {s : State} {q idx : Nat} {d : Desc} {j : Job}

/-! ### QUERY -/

/-- A QUERY whose write waited goes on with the block that it took (log entry 67). -/
theorem exec_query_goesOn {b : List Byte} (h : Starts s q idx 6 d) (hstage : d.stage = .writing b) :
    exec (.query q idx) s = .next (queryWrite s q idx d b) := by
  show execQuery q idx s = _
  rw [execQuery, descRow_of_starts _ h]
  simp only [hstage]

theorem exec_query_noJob (h : Starts s q idx 6 d) (hstage : ∀ b, d.stage ≠ .writing b)
    (hj : s.job (d.op 24 1 % 64) = none) : exec (.query q idx) s = .next (finishDesc s q idx stBadState 0) := by
  show execQuery q idx s = _
  rw [execQuery, descRow_of_starts _ h]
  dsimp only
  split
  · next hw => exact absurd hw (hstage _)
  · rfl
  · next hsome _ => simp [hj] at hsome

/-- A QUERY that starts takes the status block of its job. -/
theorem exec_query_takes (h : Starts s q idx 6 d) (hstage : ∀ b, d.stage ≠ .writing b)
    (hj : s.job (d.op 24 1 % 64) = some j) :
    exec (.query q idx) s = .next (queryWrite s q idx d (statusBlock s (d.op 24 1 % 64) j)) := by
  show execQuery q idx s = _
  rw [execQuery, descRow_of_starts _ h]
  dsimp only
  split
  · next hw => exact absurd hw (hstage _)
  · next hnone _ => simp [hj] at hnone
  · next hsome _ => rw [Option.some.inj (hj.symm.trans hsome)]

theorem queryWrite_done {b : List Byte} {t : State} (h : rqWrite s (descRq s q d) (d.op 32 8) b = (true, t)) :
    queryWrite s q idx d b = finishDesc t q idx stOk 0 := by
  simp [queryWrite, h]

theorem queryWrite_waits {b : List Byte} {t : State} (h : rqWrite s (descRq s q d) (d.op 32 8) b = (false, t)) :
    queryWrite s q idx d b = updDesc t q idx (fun x => { x with stage := .writing b }) := by
  simp [queryWrite, h]

/-! ### UNLOAD -/

theorem exec_unload_noJob (h : Starts s q idx 7 d) (hj : s.job (d.op 24 1 % 64) = none) :
    exec (.unload q idx) s = .next (finishDesc s q idx stBadState 0) := by
  show execUnload q idx s = _
  rw [execUnload, descRow_of_starts _ h]
  simp only [hj]

theorem exec_unload_badState (h : Starts s q idx 7 d) (hj : s.job (d.op 24 1 % 64) = some j) (h0 : j.jstate ≠ 0)
    (h3 : j.jstate ≠ 3) : exec (.unload q idx) s = .next (finishDesc s q idx stBadState 0) := by
  show execUnload q idx s = _
  rw [execUnload, descRow_of_starts _ h]
  simp [hj, h0, h3]

/-- With nothing that waits for the job, UNLOAD removes it and clears its registers. -/
theorem exec_unload (h : Starts s q idx 7 d) (hj : s.job (d.op 24 1 % 64) = some j) (hst : j.jstate = 0 ∨ j.jstate = 3)
    (hsync : startedOn s [8] (d.op 24 1 % 64) = []) (hctl : startedOn s [4] (d.op 24 1 % 64) = []) (hpair : s.pair = none) :
    exec (.unload q idx) s = .next (finishDesc (setJobRegs (s.setJob (d.op 24 1 % 64) none) (d.op 24 1 % 64) 0 0 0)
      q idx stOk 0) := by
  show execUnload q idx s = _
  rw [execUnload, descRow_of_starts _ h]
  simp [hj, hst, hsync, hctl, hpair, finishAll, pairOf]

/-! ### SYNC -/

theorem exec_sync_noJob (h : Starts s q idx 8 d) (hj : s.job (d.op 24 1 % 64) = none) :
    exec (.sync q idx) s = .next (finishDesc s q idx stBadState 0) := by
  show execSync q idx s = _
  rw [execSync, descRow_of_starts _ h]
  simp only [hj]

/-- SYNC compares its step with the job's bounds. -/
theorem exec_sync (h : Starts s q idx 8 d) (hj : s.job (d.op 24 1 % 64) = some j) :
    exec (.sync q idx) s = .next
      (if d.op 32 8 < j.s0 + j.low then finishDesc s q idx stOk (d.op 32 8)
       else if j.highOr ≤ d.op 32 8 then finishDesc s q idx stBadState 0
       else startDesc s q idx 0) := by
  show execSync q idx s = _
  rw [execSync, descRow_of_starts _ h]
  simp only [hj]

end

/-- Settles O27: the three commands without their job, QUERY's write, UNLOAD in and out of its states, SYNC's three
cases. -/
theorem queryUnloadAndSyncReportTheJob : Obligations.QueryUnloadAndSyncReportTheJob := by
  unfold Obligations.QueryUnloadAndSyncReportTheJob
  intro q idx d s
  refine ⟨fun c opc hc hs hstage hj => ?_, fun b hs hb => ?_, fun j hj => ⟨fun hs h0 h3 => ?_,
    fun hs hst hsync hctl hpair => ?_, fun hs hlow => ?_, fun hs hlow hhigh => ?_, fun hs hlow hhigh => ?_⟩⟩
  · simp only [List.mem_cons, Prod.mk.injEq, List.not_mem_nil, or_false] at hc
    rcases hc with ⟨rfl, rfl⟩ | ⟨rfl, rfl⟩ | ⟨rfl, rfl⟩
    · exact exec_query_noJob hs (hstage rfl) hj
    · exact exec_unload_noJob hs hj
    · exact exec_sync_noJob hs hj
  · have hexec : exec (.query q idx) s = .next (queryWrite s q idx d b) := by
      rcases hb with hstage | ⟨hstage, j, hj, rfl⟩
      · exact exec_query_goesOn hs hstage
      · exact exec_query_takes hs hstage hj
    rw [hexec]
    exact ⟨fun t ht => by rw [queryWrite_done ht], fun t ht => by rw [queryWrite_waits ht]⟩
  · exact exec_unload_badState hs hj h0 h3
  · obtain ⟨hpsc, hs0, hseed⟩ := setJobRegs_reg (s.setJob (d.op 24 1 % 64) none) (d.op 24 1 % 64) 0 0 0
    refine ⟨_, exec_unload hs hj hst hsync hctl hpair, ?_, fun i hi => ?_, ?_, ?_, ?_, rfl⟩
    · rw [finishDesc_job, setJobRegs_job, setJob_job, if_pos rfl]
    · rw [finishDesc_job, setJobRegs_job, setJob_job, if_neg hi]
    · exact (finishDesc_reg _ _ _ _ _ _).trans hpsc
    · exact (finishDesc_reg _ _ _ _ _ _).trans hs0
    · exact (finishDesc_reg _ _ _ _ _ _).trans hseed
  · rw [exec_sync hs hj, if_pos hlow]
  · rw [exec_sync hs hj, if_neg (by omega), if_pos hhigh]
  · rw [exec_sync hs hj, if_neg (by omega), if_neg (by omega)]

end Sys2Proof.Proofs
end

section
/-! ITEM_DISPATCH (spec/03_stations_and_streams.md R66 to R69): the item that enters and the slots it reserves, and where
the item of each kind goes. -/

namespace Sys2Proof.Proofs

open Sys2Proof.Laws Sys2Proof.Machine

/-! ### An item enters -/

/-- Reserving an item's outputs looks at the conduits and the first step of the job alone. -/
theorem overOutputs_cnds_congr {j k : Job} (d : StnDef) (step : Nat) (ords : List Nat) (f : Cnd → Nat → Cnd)
    (hcnds : k.cnds = j.cnds) (hs0 : k.s0 = j.s0) :
    (k.overOutputs d step ords f).cnds = (j.overOutputs d step ords f).cnds := by
  unfold Job.overOutputs
  rw [hs0]
  generalize j.s0 = s0
  clear hs0
  generalize d.outList = l
  induction l generalizing j k with
  | nil => exact hcnds
  | cons o l ih =>
    have hcnd : k.cnd o.2 = j.cnd o.2 := by rw [Job.cnd, hcnds, Job.cnd]
    rw [List.foldl_cons, List.foldl_cons]
    refine ih ?_
    dsimp only
    rw [hcnd]
    split
    · exact hcnds
    · simp only [Job.setCnd, hcnds]

/-- A state from which an item of job jn is entered for s: the items of s, its other jobs, and job jn with the conduits
and the first step of j. -/
structure ReadyFor (s s' : State) (jn : Nat) (j : Job) : Prop where
  items : s'.items = s.items
  nextItem : s'.nextItem = s.nextItem
  others : ∀ i, i ≠ jn → s'.job i = s.job i
  job : ∃ k, s'.job jn = some k ∧ k.cnds = j.cnds ∧ k.s0 = j.s0

theorem readyFor_of_jobs {s s' : State} {jn : Nat} {j : Job} (hitems : s'.items = s.items)
    (hnext : s'.nextItem = s.nextItem) (hjobs : s'.jobs = s.jobs) (hj : s.job jn = some j) : ReadyFor s s' jn j := by
  have hjob (i : Nat) : s'.job i = s.job i := by rw [State.job, hjobs, State.job]
  exact ⟨hitems, hnext, fun i _ => hjob i, j, (hjob jn).trans hj, rfl, rfl⟩

theorem enterItem_eq {s : State} {it : Item} {k : Job} (d : StnDef) (hk : s.job it.job = some k) :
    enterItem s it d =
      { (s.setJob it.job (some (k.overOutputs d it.step it.ords Cnd.reserve))).setItem s.nextItem (some it) with
        nextItem := s.nextItem + 1 } := by
  simp only [enterItem, hk]
  rfl

theorem enterItem_item {s : State} {it : Item} {k : Job} (d : StnDef) (hk : s.job it.job = some k) (n : Nat) :
    (enterItem s it d).item n = if n = s.nextItem then some it else s.item n := by
  rw [enterItem_eq d hk]
  exact get_put (fun _ => none) s.items s.nextItem n (some it)

theorem enterItem_job {s : State} {it : Item} {k : Job} (d : StnDef) (hk : s.job it.job = some k) (i : Nat) :
    (enterItem s it d).job i =
      if i = it.job then some (k.overOutputs d it.step it.ords Cnd.reserve) else s.job i := by
  rw [enterItem_eq d hk]
  exact get_put (fun _ => none) s.jobs it.job i (some (k.overOutputs d it.step it.ords Cnd.reserve))

/-- The item is the next one, and its output ordinals are reserved. -/
theorem enterItem_enters {s s' : State} {it : Item} {j : Job} (d : StnDef) (h : ReadyFor s s' it.job j) :
    EntersItem s (enterItem s' it d) it.job it (j.overOutputs d it.step it.ords Cnd.reserve).cnds := by
  obtain ⟨hitems, hnext, hothers, k, hk, hcnds, hs0⟩ := h
  have hitem (n : Nat) : s'.item n = s.item n := by rw [State.item, hitems, State.item]
  refine ⟨?_, fun n hn => ?_, ?_, ⟨_, ?_, overOutputs_cnds_congr d _ _ _ hcnds hs0⟩, fun i hi => ?_⟩
  · rw [enterItem_item d hk, if_pos hnext.symm]
  · rw [enterItem_item d hk, if_neg (hnext ▸ hn), hitem]
  · rw [enterItem_eq d hk, ← hnext]
  · rw [enterItem_job d hk, if_pos rfl]
  · rw [enterItem_job d hk, if_neg hi, hothers i hi]

theorem enterItem_flow (s : State) (it : Item) (d : StnDef) (i : Nat) : (enterItem s it d).flow i = s.flow i := by
  unfold enterItem
  split <;> rfl

/-- What leaves items and jobs leaves the item that entered. -/
theorem entersItem_unchanged {s t t' : State} {jn : Nat} {it : Item} {cnds : List Cnd} (h : EntersItem s t jn it cnds)
    (hitems : t'.items = t.items) (hnext : t'.nextItem = t.nextItem) (hjobs : t'.jobs = t.jobs) :
    EntersItem s t' jn it cnds := by
  obtain ⟨hit, hother, hn, ⟨k, hk, hcnds⟩, hjob⟩ := h
  have hi (n : Nat) : t'.item n = t.item n := by rw [State.item, hitems, State.item]
  have hj (i : Nat) : t'.job i = t.job i := by rw [State.job, hjobs, State.job]
  exact ⟨(hi _).trans hit, fun n hne => (hi n).trans (hother n hne), hnext.trans hn, ⟨k, (hj jn).trans hk, hcnds⟩,
    fun i hne => (hj i).trans (hjob i hne)⟩

theorem entersItem_setCu {s t : State} {jn : Nat} {it : Item} {cnds : List Cnd} (h : EntersItem s t jn it cnds) (u : Nat)
    (c : CuSt) : EntersItem s (t.setCu u c) jn it cnds := entersItem_unchanged h rfl rfl rfl

/-- So does a change of its job that leaves the conduits. -/
theorem entersItem_setJob {s t : State} {jn : Nat} {it : Item} {cnds : List Cnd} {k : Job}
    (h : EntersItem s t jn it cnds) (hk : k.cnds = cnds) : EntersItem s (t.setJob jn (some k)) jn it cnds := by
  obtain ⟨hit, hother, hn, -, hjob⟩ := h
  refine ⟨hit, hother, hn, ⟨k, ?_, hk⟩, fun i hi => ?_⟩
  · rw [setJob_job, if_pos rfl]
  · rw [setJob_job, if_neg hi, hjob i hi]

/-- What an event or a change of power leaves of jobs and items. -/
theorem work_of_quietPower {s t : State} (h : quietPower t = quietPower s) :
    t.items = s.items ∧ t.nextItem = s.nextItem ∧ t.jobs = s.jobs :=
  ⟨(congrArg State.items h :), (congrArg State.nextItem h :), (congrArg State.jobs h :)⟩

/-- What the fabric leaves of jobs and items. -/
theorem work_of_quietFabric {s t : State} (h : quietFabric t = quietFabric s) :
    t.items = s.items ∧ t.nextItem = s.nextItem ∧ t.jobs = s.jobs :=
  ⟨(congrArg State.items h :), (congrArg State.nextItem h :), (congrArg State.jobs h :)⟩

/-! ### On a compute unit -/

theorem setRegF_quietPower (s : State) (p o hi lo v : Nat) : quietPower (s.setRegF p o hi lo v) = quietPower s :=
  setReg_quietPower s _ _

theorem setPdie_quietPower (s : State) (d : Nat) (p : PwrDie) : quietPower (s.setPdie d p) = quietPower s := rfl

theorem mapRails_quietPower (s : State) (d : Nat) (f : Nat → Nat) : quietPower (mapRails s d f) = quietPower s :=
  foldl_unchanged quietPower (fun t _ => setRegF_quietPower t _ _ _ _ _) _ s

theorem hintLapse_quietPower (s : State) (d : Nat) : quietPower (hintLapse s d) = quietPower s := by
  unfold hintLapse
  split
  · rfl
  · dsimp only
    split
    · rw [setRegF_quietPower, setPdie_quietPower]
    · exact setPdie_quietPower s d _

/-- A hint touches registers and power control alone. -/
theorem hintApply_quietPower (s : State) (d : Nat) (h : PHint) : quietPower (hintApply s d h) = quietPower s := by
  unfold hintApply
  dsimp only
  rw [quietPower_of (countEv_quiet _ _ _ _), setPdie_quietPower]
  split
  · rw [mapRails_quietPower, hintLapse_quietPower]
  · rw [setPdie_quietPower, hintLapse_quietPower]

theorem hintsAtDispatch_quietPower (s : State) (d jn step : Nat) :
    quietPower (hintsAtDispatch s d jn step) = quietPower s := by
  unfold hintsAtDispatch
  refine (foldl_unchanged quietPower (fun t h => hintApply_quietPower t d h) _ _).trans ?_
  split
  · rfl
  · exact setPdie_quietPower s d _

/-- The first item of a step on a die is noted in its job, whose conduits stay. -/
theorem entersItem_beginOn {s t : State} {jn : Nat} {it : Item} {cnds : List Cnd} (h : EntersItem s t jn it cnds)
    (die step : Nat) : EntersItem s (beginOn t jn die step) jn it cnds := by
  have ⟨_, _, _, ⟨k, hk, hcnds⟩, _⟩ := h
  simp only [Machine.beginOn, hk]
  split
  · exact h
  · obtain ⟨hitems, hnext, hjobs⟩ := work_of_quietPower
      (hintsAtDispatch_quietPower (t.setJob jn (some { k with begun := (step, die) :: k.begun })) die jn step)
    exact entersItem_unchanged (entersItem_setJob (k := { k with begun := (step, die) :: k.begun }) h hcnds)
      hitems hnext hjobs

/-- The state but for jobs, items, units, and what a hint changes. -/
def quietPlace (s : State) : State := { quietPower s with jobs := [], items := [], nextItem := 0, units := [] }

theorem quietPlace_of {s t : State} (h : quietPower t = quietPower s) : quietPlace t = quietPlace s :=
  (congrArg quietPlace h :)

/-- What these are not. -/
theorem frame_of_quietPlace {s t : State} (h : quietPlace t = quietPlace s) :
    t.jseqs = s.jseqs ∧ t.queues = s.queues ∧ t.cc = s.cc ∧ t.groups = s.groups ∧ t.errs = s.errs ∧
      t.fab = s.fab ∧ t.well = s.well :=
  ⟨(congrArg State.jseqs h :), (congrArg State.queues h :), (congrArg State.cc h :), (congrArg State.groups h :),
    (congrArg State.errs h :), (congrArg State.fab h :), (congrArg State.well h :)⟩

theorem beginOn_quietPlace (s : State) (jn die step : Nat) : quietPlace (beginOn s jn die step) = quietPlace s := by
  unfold beginOn
  split
  · rfl
  · split
    · rfl
    · exact (quietPlace_of (hintsAtDispatch_quietPower _ _ _ _)).trans rfl

theorem enterItem_quietPlace (s : State) (it : Item) (d : StnDef) : quietPlace (enterItem s it d) = quietPlace s := by
  unfold enterItem
  split <;> rfl

/-- The item that ITEM_DISPATCH makes for a unit, with the die's next JSEQ. -/
def unitItem (s : State) (jn sid step ix : Nat) (j : Job) (d : StnDef) (die u : Nat) : Item :=
  { newItem jn sid step ix j d die (uSite u) none with jseq := SMap.get (fun _ => 0) s.jseqs die }

/-- The state with the die's next JSEQ taken. -/
def takeJseq (s : State) (die : Nat) : State :=
  { s with jseqs := SMap.put (fun _ => 0) s.jseqs die ((SMap.get (fun _ => 0) s.jseqs die + 1) % 2 ^ 64) }

theorem takeJseq_jseq (s : State) (die : Nat) : SMap.get (fun _ => 0) (takeJseq s die).jseqs die =
    (SMap.get (fun _ => 0) s.jseqs die + 1) % 2 ^ 64 := get_put_same (fun _ => 0) s.jseqs die _

/-- The state with that item entered and its dispatch counted. -/
def enteredOnUnit (s : State) (jn sid step ix : Nat) (j : Job) (d : StnDef) (die u : Nat) : State :=
  countEv (enterItem (takeJseq s die) (unitItem s jn sid step ix j d die u) d) (pgDie die) 2 1

section
variable {s : State} {jn sid step ix die dies u : Nat} {j : Job} {d : StnDef}

theorem dispatchUnit_noDie (hdie : unitDie s d ix = none) : dispatchUnit s jn sid step ix j d = s := by
  simp only [dispatchUnit, hdie]

theorem dispatchUnit_noUnit (hdie : unitDie s d ix = some (die, dies)) (hu : placeOn s die sid d.cuMax dies ix = none) :
    dispatchUnit s jn sid step ix j d = s := by
  simp only [dispatchUnit, hdie, hu]

theorem dispatchUnit_placed (hdie : unitDie s d ix = some (die, dies))
    (hu : placeOn s die sid d.cuMax dies ix = some u) (hawake : cdieAwake s = true) :
    dispatchUnit s jn sid step ix j d =
      beginOn ((enteredOnUnit s jn sid step ix j d die u).setCu u
        { (enteredOnUnit s jn sid step ix j d die u).cu u with steal := 0 }) jn die step := by
  simp only [dispatchUnit, hdie, hu, hawake]
  rfl

/-- Placement gives a unit that can take the item (R111). -/
theorem canPlace_of_placeOn (hu : placeOn s die sid d.cuMax dies ix = some u) : canPlace s u = true := by
  unfold placeOn at hu
  dsimp only at hu
  split at hu
  · cases hu
  · split at hu
    · next hfind =>
      cases hu
      exact List.find?_some hfind
    · exact List.find?_some hu

theorem enteredOnUnit_enters (die u : Nat) (d : StnDef) (hj : s.job jn = some j) :
    EntersItem s (enteredOnUnit s jn sid step ix j d die u) jn (unitItem s jn sid step ix j d die u)
      (j.overOutputs d step (itemOrds j d ix) Cnd.reserve).cnds := by
  have henter : EntersItem s (enterItem (takeJseq s die) (unitItem s jn sid step ix j d die u) d) jn
      (unitItem s jn sid step ix j d die u) (j.overOutputs d step (itemOrds j d ix) Cnd.reserve).cnds :=
    enterItem_enters d (readyFor_of_jobs rfl rfl rfl hj)
  exact entersItem_unchanged henter (countEv_items _ _ _ _) (countEv_nextItem _ _ _ _) (countEv_jobs _ _ _ _)

theorem enteredOnUnit_quietPlace (s : State) (jn sid step ix : Nat) (j : Job) (d : StnDef) (die u : Nat) :
    quietPlace (enteredOnUnit s jn sid step ix j d die u) = quietPlace (takeJseq s die) :=
  (quietPlace_of (quietPower_of (countEv_quiet _ _ _ _))).trans (enterItem_quietPlace _ _ _)

/-- The item that a unit takes, and what stays. -/
theorem dispatchUnit_spec (hj : s.job jn = some j) (hdie : unitDie s d ix = some (die, dies))
    (hu : placeOn s die sid d.cuMax dies ix = some u) (hawake : cdieAwake s = true) :
    EntersItem s (dispatchUnit s jn sid step ix j d) jn (unitItem s jn sid step ix j d die u)
      (j.overOutputs d step (itemOrds j d ix) Cnd.reserve).cnds ∧
    quietPlace (dispatchUnit s jn sid step ix j d) = quietPlace (takeJseq s die) := by
  rw [dispatchUnit_placed hdie hu hawake]
  refine ⟨entersItem_beginOn (entersItem_setCu (enteredOnUnit_enters die u d hj) u _) die step, ?_⟩
  rw [beginOn_quietPlace]
  exact (rfl : _ = quietPlace (enteredOnUnit s jn sid step ix j d die u)).trans (enteredOnUnit_quietPlace ..)

end

/-! ### On a windlass engine (spec/09_memory_tiers.md R262, R263) -/

/-- Pinning a version changes the station's pin and the count of timing-dependent choices, if anything. -/
theorem pinTensor_state (s : State) (jn sid : Nat) (j : Job) (st : Stn) :
    (pinTensor s jn sid j st).2 = s ∨
      ∃ v, (pinTensor s jn sid j st).2 = countTdc (s.setJob jn (some (j.setStn sid { st with pin := some v }))) 34 1 := by
  unfold pinTensor
  split
  · split <;> exact .inl rfl
  · split
    · exact .inl rfl
    · split
      · exact .inl rfl
      · exact .inr ⟨_, rfl⟩

theorem countTdc_quietPower (s : State) (b n : Nat) : quietPower (countTdc s b n) = quietPower s := by
  unfold countTdc
  split <;> rfl

theorem countTdc_job (s : State) (b n i : Nat) : (countTdc s b n).job i = s.job i :=
  (congrArg (fun t => State.job t i) (countTdc_quietPower s b n) :)
theorem countTdc_fab (s : State) (b n : Nat) : (countTdc s b n).fab = s.fab :=
  (congrArg State.fab (countTdc_quietPower s b n) :)

theorem pinTensor_ready {s : State} {jn : Nat} {j : Job} (sid : Nat) (st : Stn) (hj : s.job jn = some j) :
    ReadyFor s (pinTensor s jn sid j st).2 jn j ∧ (pinTensor s jn sid j st).2.fab = s.fab := by
  rcases pinTensor_state s jn sid j st with h | ⟨v, h⟩
  · rw [h]
    exact ⟨readyFor_of_jobs rfl rfl rfl hj, rfl⟩
  · rw [h]
    obtain ⟨hitems, hnext, -⟩ := work_of_quietPower (countTdc_quietPower (s.setJob jn _) 34 1)
    refine ⟨⟨hitems, hnext, fun i hi => ?_, j.setStn sid { st with pin := some v }, ?_, rfl, rfl⟩, countTdc_fab _ _ _⟩
    · rw [countTdc_job, setJob_job, if_neg hi]
    · rw [countTdc_job, setJob_job, if_pos rfl]

theorem wdlFor_congr {s t : State} (h : t.fab = s.fab) (mask : Nat) (e : Nat × Nat) : wdlFor t mask e = wdlFor s mask e := by
  simp only [wdlFor, wdlFailed, h]

/-- A window item whose layer is within the window goes to an engine that has not failed. -/
theorem dispatchWindlass_enters {s : State} {jn : Nat} {j : Job} {st : Stn} {sid step ix x k : Nat}
    (hj : s.job jn = some j) (hready : s.well.ready = true)
    (hwindow : wdWindow j st.df step (itemSpan (tilesOf j st.df) st.df.items ix).1 = true)
    (heng : wdlFor s st.df.placeX ((wdlOf st.df.placeX).getD (ix % max 1 (wdlOf st.df.placeX).length) (0, 0)) = some (x, k))
    (hacc : s.accepts (pgWdl x k) = true) :
    EntersItem s (dispatchWindlass s jn sid step ix j st) jn
      (newItem jn sid step ix j st.df (3 + x) (x * 2 + k) (pinTensor s jn sid j st).1)
      (j.overOutputs st.df step (itemOrds j st.df ix) Cnd.reserve).cnds := by
  obtain ⟨hfor, hfab⟩ := pinTensor_ready sid st hj
  have hdispatch : dispatchWindlass s jn sid step ix j st = enterItem (pinTensor s jn sid j st).2
      (newItem jn sid step ix j st.df (3 + x) (x * 2 + k) (pinTensor s jn sid j st).1) st.df := by
    simp only [dispatchWindlass, hready, hwindow, wdlFor_congr hfab, heng, hacc]
    rfl
  rw [hdispatch]
  exact enterItem_enters st.df hfor

/-! ### On a flow's engine (spec/14_holarn_fabric.md R403) -/

theorem grantCredit_quietFabric (s : State) (n mark : Nat) : quietFabric (grantCredit s n mark) = quietFabric s := by
  unfold grantCredit
  split
  · rfl
  · split
    · split
      · rfl
      · exact setFlow_quietFabric _ _ _
    · exact setFlow_quietFabric _ _ _

theorem grantCredit_flow {s : State} {n : Nat} {f : FlowSt} (mark : Nat) (hf : s.flow n = some f) (hg : f.granted = none) :
    (grantCredit s n mark).flow n = some { f with granted := some mark, ctl := f.ctl ++ [(4, mark)] } := by
  simp only [grantCredit, hf, hg]
  rw [setFlow_flow, if_pos rfl]

section
variable {s : State} {jn : Nat} {j : Job} {d : StnDef}

/-- An item that enters from s itself. -/
theorem newItem_enters (sid step ix die owner : Nat) (d : StnDef) (err : Option Nat) (hj : s.job jn = some j) :
    EntersItem s (enterItem s (newItem jn sid step ix j d die owner err) d) jn (newItem jn sid step ix j d die owner err)
      (j.overOutputs d step (itemOrds j d ix) Cnd.reserve).cnds :=
  enterItem_enters d (readyFor_of_jobs rfl rfl rfl hj)

/-- The mark of an item's last tile. -/
def lastMark (j : Job) (d : StnDef) (step ix : Nat) : Nat :=
  tileMark step ((itemSpan (tilesOf j d) d.items ix).1 + (itemSpan (tilesOf j d) d.items ix).2 - 1)

/-- A tile item of an OPEN flow: that of a receiver grants credit. -/
theorem dispatchFlow_open {f : FlowSt} (sid step ix : Nat) (hj : s.job jn = some j) (hf : s.flow (par d 0 4) = some f)
    (hopen : f.st = 2) :
    EntersItem s (dispatchFlow s jn sid step ix j d) jn (newItem jn sid step ix j d (3 + f.hx) f.hx none)
        (j.overOutputs d step (itemOrds j d ix) Cnd.reserve).cnds ∧
      (d.kind = 0x12 → f.granted = none →
        (dispatchFlow s jn sid step ix j d).flow (par d 0 4) =
          some { f with granted := some (lastMark j d step ix), ctl := f.ctl ++ [(4, lastMark j d step ix)] }) := by
  have henter := newItem_enters sid step ix (3 + f.hx) f.hx d none hj
  simp only [dispatchFlow, hf, if_pos hopen]
  split
  · obtain ⟨hitems, hnext, hjobs⟩ := work_of_quietFabric (grantCredit_quietFabric
      (enterItem s (newItem jn sid step ix j d (3 + f.hx) f.hx none) d) (par d 0 4) (lastMark j d step ix))
    refine ⟨entersItem_unchanged henter hitems hnext hjobs,
      fun _ hg => grantCredit_flow _ ?_ hg⟩
    rw [enterItem_flow, hf]
  · next hkind => exact ⟨henter, fun hk => absurd hk hkind⟩

/-- A tile item of a flow that is not OPEN enters with FLOWERR (R79). -/
theorem dispatchFlow_notOpen (sid step ix : Nat) (hj : s.job jn = some j)
    (hf : ∀ f, s.flow (par d 0 4) = some f → f.st ≠ 2) :
    ∃ die eng, EntersItem s (dispatchFlow s jn sid step ix j d) jn (newItem jn sid step ix j d die eng (some stFlowErr))
      (j.overOutputs d step (itemOrds j d ix) Cnd.reserve).cnds := by
  cases hflow : s.flow (par d 0 4) with
  | none =>
    simp only [dispatchFlow, hflow]
    exact ⟨_, _, newItem_enters sid step ix _ _ d _ hj⟩
  | some f =>
    simp only [dispatchFlow, hflow, if_neg (hf f hflow)]
    exact ⟨_, _, newItem_enters sid step ix _ _ d _ hj⟩

end

/-! ### On a seat's lane group (spec/15_fabric_reduction.md R425, R432) -/

theorem sendPulls_quietFabric (s : State) (g r : Nat) : quietFabric (sendPulls s g r) = quietFabric s := by
  unfold sendPulls
  exact (quietFabric_of (quietErr_of (countEv_quiet _ _ _ _))).trans
    (foldl_unchanged quietFabric (fun t _ => enqueue_quietFabric t _ _) _ s)

theorem setSeat_quietFabric (s : State) (g r : Nat) (x : Seat) : quietFabric (s.setSeat g r x) = quietFabric s := rfl

/-- Taking a seat changes no job and no item. -/
theorem takeSeat_quietFabric (s : State) (jn sid : Nat) (j : Job) (d : StnDef) (step : Nat) :
    quietFabric (takeSeat s jn sid j d step).2.2 = quietFabric s := by
  unfold takeSeat
  extract_lets r
  split
  · rfl
  · next g _ =>
    split
    · exact quietFabric_of (raiseInfo_quietErr _ _ _ _)
    · extract_lets x adopted det agrees s1 s2
      have h2 : quietFabric s2 = quietFabric s := by
        unfold s2
        split
        · exact (sendPulls_quietFabric s1 g r).trans (setSeat_quietFabric s g r _)
        · exact setSeat_quietFabric s g r _
      split
      · exact h2
      · exact (quietFabric_of (raiseInfo_quietErr _ _ _ _)).trans h2

theorem dispatchReduce_enters {s : State} {jn : Nat} {j : Job} {d : StnDef} {step : Nat} (sid ix : Nat)
    (hj : s.job jn = some j) (hseat : seatReady s j d step = true) :
    EntersItem s (dispatchReduce s jn sid step ix j d) jn
      (newItem jn sid step ix j d (3 + lgX (takeSeat s jn sid j d step).1) (takeSeat s jn sid j d step).1
        (if (takeSeat s jn sid j d step).2.1 then some stRedErr else none))
      (j.overOutputs d step (itemOrds j d ix) Cnd.reserve).cnds := by
  obtain ⟨hitems, hnext, hjobs⟩ := work_of_quietFabric (takeSeat_quietFabric s jn sid j d step)
  have hdispatch : dispatchReduce s jn sid step ix j d = enterItem (takeSeat s jn sid j d step).2.2
      (newItem jn sid step ix j d (3 + lgX (takeSeat s jn sid j d step).1) (takeSeat s jn sid j d step).1
        (if (takeSeat s jn sid j d step).2.1 then some stRedErr else none)) d := by
    simp [dispatchReduce, hseat]
  rw [hdispatch]
  exact enterItem_enters d (readyFor_of_jobs hitems hnext hjobs hj)

/-! ### The command -/

section
variable {s : State} {jn sid : Nat} {j : Job} {st : Stn} (step ix : Nat) (hlive : live s = true)
  (hj : s.job jn = some j) (hst : j.stn sid = some st)
include hlive hj hst

/-- An item that may not be dispatched changes nothing. -/
theorem exec_itemDispatch_held (hmay : mayDispatch s jn j sid st step ix = false) :
    exec (.itemDispatch jn sid step ix) s = .next s := by
  show execItemDispatch jn sid step ix s = .next s
  simp [execItemDispatch, whenLive, hlive, hj, hst, hmay]

variable {step ix} (hmay : mayDispatch s jn j sid st step ix = true)
include hmay

/-- One that may goes where its kind says. -/
theorem exec_itemDispatch :
    exec (.itemDispatch jn sid step ix) s = .next
      (if onUnit st.df.kind then dispatchUnit s jn sid step ix j st.df
       else if st.df.kind = 0x10 then dispatchWindlass s jn sid step ix j st
       else if st.df.kind = 0x13 then dispatchReduce s jn sid step ix j st.df
       else dispatchFlow s jn sid step ix j st.df) := by
  show execItemDispatch jn sid step ix s = _
  simp [execItemDispatch, whenLive, hlive, hj, hst, hmay]

theorem exec_itemDispatch_unit (hk : onUnit st.df.kind = true) :
    exec (.itemDispatch jn sid step ix) s = .next (dispatchUnit s jn sid step ix j st.df) := by
  rw [exec_itemDispatch hlive hj hst hmay, if_pos hk]

theorem exec_itemDispatch_windlass (hk : st.df.kind = 0x10) :
    exec (.itemDispatch jn sid step ix) s = .next (dispatchWindlass s jn sid step ix j st) := by
  rw [exec_itemDispatch hlive hj hst hmay, hk, if_neg (by decide), if_pos rfl]

theorem exec_itemDispatch_reduce (hk : st.df.kind = 0x13) :
    exec (.itemDispatch jn sid step ix) s = .next (dispatchReduce s jn sid step ix j st.df) := by
  rw [exec_itemDispatch hlive hj hst hmay, hk, if_neg (by decide), if_neg (by decide), if_pos rfl]

theorem exec_itemDispatch_flow (hk : st.df.kind = 0x11 ∨ st.df.kind = 0x12) :
    exec (.itemDispatch jn sid step ix) s = .next (dispatchFlow s jn sid step ix j st.df) := by
  rw [exec_itemDispatch hlive hj hst hmay]
  rcases hk with hk | hk
  · rw [hk, if_neg (by decide), if_neg (by decide), if_neg (by decide)]
  · rw [hk, if_neg (by decide), if_neg (by decide), if_neg (by decide)]

end

/-- Settles O28: an item that is held back, and one of each kind. -/
theorem dispatchPlacesItemByItsKind : Obligations.DispatchPlacesItemByItsKind := by
  unfold Obligations.DispatchPlacesItemByItsKind
  intro jn sid step ix j st s hlive hj hst
  refine ⟨exec_itemDispatch_held step ix hlive hj hst, fun hmay => ⟨fun hk => ⟨fun die dies u hdie hu hawake => ?_,
    fun die dies hdie hu => ?_, fun hdie => ?_⟩, fun hk hready hwindow bad x k hbad heng hacc => ?_,
    fun hk f hf hopen => ?_, fun hk hf => ?_, fun hk hseat g bad hg hbad => ?_⟩⟩
  · obtain ⟨henter, hq⟩ := dispatchUnit_spec (step := step) hj hdie hu hawake
    obtain ⟨hjseqs, hframe⟩ := frame_of_quietPlace hq
    exact ⟨canPlace_of_placeOn hu, _, exec_itemDispatch_unit hlive hj hst hmay hk, henter,
      hjseqs ▸ takeJseq_jseq s die, hframe⟩
  · rw [exec_itemDispatch_unit hlive hj hst hmay hk, dispatchUnit_noUnit hdie hu]
  · rw [exec_itemDispatch_unit hlive hj hst hmay hk, dispatchUnit_noDie hdie]
  · subst hbad
    exact ⟨_, exec_itemDispatch_windlass hlive hj hst hmay hk, dispatchWindlass_enters hj hready hwindow heng hacc⟩
  · exact ⟨_, exec_itemDispatch_flow hlive hj hst hmay hk, dispatchFlow_open sid step ix hj hf hopen⟩
  · obtain ⟨die, eng, henter⟩ := dispatchFlow_notOpen sid step ix hj hf
    exact ⟨_, die, eng, exec_itemDispatch_flow hlive hj hst hmay hk, henter⟩
  · subst hg hbad
    exact ⟨_, exec_itemDispatch_reduce hlive hj hst hmay hk, dispatchReduce_enters sid ix hj hseat⟩

end Sys2Proof.Proofs
end

section
/-! What an access of memory leaves of the work of the compute units: the live items, the resident groups, and where each
unit stands in stealing (spec/08_cu_memory.md, spec/09_memory_tiers.md, spec/11_translation.md). -/

namespace Sys2Proof.Proofs

open Sys2Proof.Laws Sys2Proof.Machine

/-- The live items, the resident groups, and where each unit stands in stealing. -/
def unitWork (s : State) : SMap (Option Item) × SMap (Option Group) × (Nat → Nat) :=
  (s.items, s.groups, fun v => (s.cu v).steal)

theorem unitWork_of_quietErr {s t : State} (h : quietErr t = quietErr s) : unitWork t = unitWork s :=
  (congrArg unitWork h :)

/-- A fold of steps each of which leaves it. -/
theorem unitWork_foldl {α : Type} {g : State → α → State} (hg : ∀ t a, unitWork (g t a) = unitWork t) (l : List α)
    (s : State) : unitWork (l.foldl g s) = unitWork s := by
  induction l generalizing s with
  | nil => rfl
  | cons a l ih => rw [List.foldl_cons, ih, hg]

theorem unitWork_ite {c : Prop} [Decidable c] {s a b : State} (ha : unitWork a = unitWork s)
    (hb : unitWork b = unitWork s) : unitWork (if c then a else b) = unitWork s := by
  split
  · exact ha
  · exact hb

/-! ### The stores and the shared operations -/

section
variable (s : State)

@[simp] theorem setReg_unitWork (a : Nat) (v : W64) : unitWork (s.setReg a v) = unitWork s := rfl
@[simp] theorem setPoison_unitWork (a : Nat) (b : Bool) : unitWork (s.setPoison a b) = unitWork s := rfl
@[simp] theorem setNmc_unitWork (d c : Nat) (v : NmcSt) : unitWork (s.setNmc d c v) = unitWork s := rfl
@[simp] theorem setScWay_unitWork (k : Nat) (v : ScLine) : unitWork (s.setScWay k v) = unitWork s := rfl
@[simp] theorem setHome_unitWork (d h : Nat) (v : HomeSt) : unitWork (s.setHome d h v) = unitWork s := rfl
@[simp] theorem setCcWay_unitWork (k : Nat) (v : CcLine) : unitWork (s.setCcWay k v) = unitWork s := rfl
@[simp] theorem setMmu_unitWork (d : Nat) (v : MmuSt) : unitWork (s.setMmu d v) = unitWork s := rfl
@[simp] theorem disarm_unitWork (p n : Nat) : unitWork (disarm s p n) = unitWork s := rfl
@[simp] theorem countEv_unitWork (p src n : Nat) : unitWork (countEv s p src n) = unitWork s :=
  unitWork_of_quietErr (quietErr_of (countEv_quiet s p src n))
@[simp] theorem raiseWith_unitWork (p n : Nat) (e : ErrInfo) : unitWork (raiseWith s p n e) = unitWork s :=
  unitWork_of_quietErr (raiseWith_quietErr s p n e)
@[simp] theorem raiseInfo_unitWork (p n i : Nat) : unitWork (raiseInfo s p n i) = unitWork s := by
  rw [raiseInfo, raiseWith_unitWork]

theorem setCu_unitWork {u : Nat} {c : CuSt} (h : c.steal = (s.cu u).steal) : unitWork (s.setCu u c) = unitWork s := by
  have hsteal : (fun v => ((s.setCu u c).cu v).steal) = fun v => (s.cu v).steal := by
    funext v
    rw [setCu_cu]
    split
    · next hv => rw [h, hv]
    · rfl
  exact congrArg (fun f => (s.items, s.groups, f)) hsteal

end

/-! ### Memory at its home -/

section
variable (s : State)

@[simp] theorem armedNmc_unitWork (p : Nat) (e : LineErr) : unitWork (armedNmc s p e).2.2 = unitWork s := by
  unfold armedNmc
  split
  · rfl
  · split <;> rfl

@[simp] theorem packageRead_unitWork (d ch line : Nat) (e : LineErr) : unitWork (packageRead s d ch line e) = unitWork s := by
  unfold packageRead
  extract_lets page s1
  have h : unitWork (armedNmc s1 page e).2.2 = unitWork s :=
    (armedNmc_unitWork s1 page e).trans (countEv_unitWork s page 1 1)
  clear_value page
  generalize armedNmc s1 page e = r at h
  obtain ⟨err, inj, s2⟩ := r
  cases err with
  | none => exact h
  | ce => simpa using h
  | ue =>
    rw [raiseWith_unitWork, setPoison_unitWork, setReg_unitWork, setReg_unitWork]
    exact h

@[simp] theorem wcWriteOut_unitWork (d ch line mask : Nat) : unitWork (wcWriteOut s d ch line mask) = unitWork s := by
  unfold wcWriteOut
  exact unitWork_ite (by simp) (by simp)

@[simp] theorem channelWrite_unitWork (a mask : Nat) : unitWork (channelWrite s a mask) = unitWork s := by
  unfold channelWrite
  dsimp only
  refine unitWork_ite rfl (unitWork_ite (by simp) (unitWork_ite (by simp) ?_))
  split
  · exact unitWork_ite (by simp) (by simp)
  · rw [setNmc_unitWork]
    split
    · exact unitWork_ite (by simp) rfl
    · rfl

@[simp] theorem memoryWrite_unitWork (a mask : Nat) : unitWork (memoryWrite s a mask) = unitWork s := by
  unfold memoryWrite
  split
  · simp
  · split <;> simp
  · rfl

@[simp] theorem memoryRead_unitWork (a : Nat) : unitWork (memoryRead s a) = unitWork s := by
  unfold memoryRead
  split
  · simp
  · exact unitWork_ite (by simp) (by simp)
  · rfl

@[simp] theorem deliverPoison_unitWork (a : Nat) : unitWork (deliverPoison s a) = unitWork s := by
  unfold deliverPoison
  split <;> simp

@[simp] theorem writeBack_unitWork (a mask : Nat) : unitWork (writeBack s a mask) = unitWork s := by
  unfold writeBack
  dsimp only
  split <;> split <;> simp

@[simp] theorem scEvict_unitWork (d k : Nat) : unitWork (scEvict s d k) = unitWork s := by
  unfold scEvict
  exact unitWork_ite (by simp) (by simp)

@[simp] theorem scTouch_unitWork (d a w : Nat) : unitWork (scTouch s d a w) = unitWork s := by
  unfold scTouch
  refine unitWork_ite ?_ (by simp)
  exact (unitWork_foldl (fun t v => unitWork_ite rfl (by simp)) _ _).trans (by simp)

@[simp] theorem scInjected_unitWork (d a : Nat) (dirty : Bool) : unitWork (scInjected s d a dirty) = unitWork s := by
  unfold scInjected
  extract_lets page info s1 s2
  have h1 : unitWork s1 = unitWork s := unitWork_ite (by simp) rfl
  have h2 : unitWork s2 = unitWork s := unitWork_ite (by simp [h1]) h1
  exact unitWork_ite (by simp [h2]) h2

@[simp] theorem scRead_unitWork (cls a m : Nat) : unitWork (scRead s cls a m) = unitWork s := by
  unfold scRead
  dsimp only
  split
  · simp only [scTouch_unitWork, setScWay_unitWork]
    exact unitWork_ite (by simp) (by simp)
  · split <;> simp

@[simp] theorem scWrite_unitWork (cls a m : Nat) : unitWork (scWrite s cls a m) = unitWork s := by
  unfold scWrite
  dsimp only
  split
  · simp only [scTouch_unitWork, setScWay_unitWork]
    exact unitWork_ite rfl (by simp)
  · split
    · simp
    · simp only [scTouch_unitWork, setScWay_unitWork]
      exact unitWork_ite (by simp) (by simp)

@[simp] theorem dropCopies_unitWork (a : Nat) : unitWork (dropCopies s a) = unitWork s := by
  unfold dropCopies
  dsimp only
  split
  · rfl
  · exact unitWork_ite rfl (unitWork_ite (by simp) (by simp))

@[simp] theorem performWrite_unitWork (cls a mask : Nat) (data : List Byte) :
    unitWork (performWrite s cls a mask data) = unitWork s := by
  unfold performWrite
  extract_lets s1 s2
  have h2 : unitWork s2 = unitWork s := (rfl : unitWork s2 = unitWork s1).trans (scWrite_unitWork s cls a mask)
  exact unitWork_ite (by simp [h2]) h2

@[simp] theorem performRead_unitWork (cls a m : Nat) : unitWork (performRead s cls a m).2 = unitWork s := by
  unfold performRead
  dsimp only
  split
  · exact unitWork_ite (by simp) (by simp)
  · simp

@[simp] theorem homeWriteLine_unitWork (cls a mask : Nat) (data : List Byte) :
    unitWork (homeWriteLine s cls a mask data) = unitWork s := by
  unfold homeWriteLine
  exact unitWork_ite rfl (by simp)

@[simp] theorem homeReadLine_unitWork (cls a m : Nat) : unitWork (homeReadLine s cls a m).2 = unitWork s := by
  unfold homeReadLine
  rw [performRead_unitWork]
  exact unitWork_ite (by simp) (by simp)

theorem homeReadN_unitWork (cls f a n : Nat) : unitWork (homeReadN cls f s a n).2.2 = unitWork s := by
  induction f generalizing s a n with
  | zero => rfl
  | succ f ih =>
    unfold homeReadN
    split
    · rfl
    · exact (ih _ _ _).trans (homeReadLine_unitWork _ _ _ _)

@[simp] theorem homeRead_unitWork (cls a n : Nat) : unitWork (homeRead s cls a n).2.2 = unitWork s :=
  homeReadN_unitWork s cls _ a n

end

/-! ### The cache of a unit -/

section
variable (s : State)

@[simp] theorem ccSend_unitWork (u : Nat) (l : CcLine) : unitWork (ccSend s u l) = unitWork s := by
  unfold ccSend
  exact unitWork_ite rfl (unitWork_ite (by simp) (by simp))

@[simp] theorem ccEvict_unitWork (u k : Nat) : unitWork (ccEvict s u k) = unitWork s := by
  rw [ccEvict, setCcWay_unitWork]
  unfold ccWriteBack
  exact unitWork_ite rfl (by simp)

@[simp] theorem ccSectorsOut_unitWork (u line m : Nat) : unitWork (ccSectorsOut s u line m) = unitWork s := by
  unfold ccSectorsOut
  split
  · rfl
  · simp

@[simp] theorem ccDropRange_unitWork (u a n : Nat) : unitWork (ccDropRange s u a n) = unitWork s := by
  unfold ccDropRange
  exact unitWork_foldl (fun t k => unitWork_ite (unitWork_ite (by simp) (by simp)) rfl) _ _

@[simp] theorem takeSplit_unitWork (u split : Nat) : unitWork (takeSplit s u split) = unitWork s := by
  unfold takeSplit
  extract_lets c old keys s1 moved s2 s3
  have h1 : unitWork s1 = unitWork s := unitWork_foldl (fun t k => unitWork_ite (by simp) rfl) _ _
  have h2 : unitWork s2 = unitWork s1 := unitWork_foldl (fun t k => by simp) _ _
  have h3 : unitWork s3 = unitWork s2 := unitWork_foldl (fun t k => by simp) _ _
  refine unitWork_ite rfl ?_
  rw [countEv_unitWork, setCu_unitWork s3 (u := u) (by rfl), h3, h2, h1]

@[simp] theorem ccueFires_unitWork (u line m : Nat) : unitWork (ccueFires s u line m) = unitWork s := by
  unfold ccueFires
  refine unitWork_ite rfl ?_
  split
  · rfl
  · exact unitWork_ite (by simp) rfl

@[simp] theorem moverRead_unitWork (u a n : Nat) : unitWork (moverRead s u a n).2.2 = unitWork s := by
  have hfires : unitWork (ccueFiresOver s u a n) = unitWork s := by
    unfold ccueFiresOver
    exact unitWork_foldl (fun t i => unitWork_ite (by simp) rfl) _ _
  exact (homeRead_unitWork _ _ _ _).trans hfires

end

/-! ### Translation, faults and remote reads -/

section
variable (s : State)

@[simp] theorem findLeaf_unitWork (d aspace va : Nat) : unitWork (findLeaf s d aspace va).2 = unitWork s := by
  unfold findLeaf
  dsimp only
  split
  · rfl
  · split
    · rfl
    · split
      · rfl
      · split <;> simp

/-- A translation of a unit changes nothing of the unit but its TLB. -/
@[simp] theorem unitXlat_unitWork (u aspace va n : Nat) (acc : Acc) : unitWork (unitXlat s u aspace va n acc).2 = unitWork s := by
  have hleaf := findLeaf_unitWork s (uDie u) aspace va
  have hsteal : (s.cu u).steal = ((findLeaf s (uDie u) aspace va).2.cu u).steal :=
    (congrArg (fun w => w.2.2 u) hleaf.symm :)
  unfold unitXlat
  dsimp only
  split
  · rfl
  · split
    · rfl
    · split
      · next e _ => exact (setCu_unitWork (c := { s.cu u with tlb := (e :: (s.cu u).tlb).take 128 }) _ hsteal).trans hleaf
      · exact hleaf

@[simp] theorem sumpFault_unitWork (f : SFault) : unitWork (sumpFault s f) = unitWork s := by
  unfold sumpFault
  dsimp only
  split
  · exact (countEv_unitWork _ _ _ _).trans rfl
  · split <;> rfl

@[simp] theorem enqueue_unitWork (n : Nat) (p : OutPkt) : unitWork (enqueue s n p) = unitWork s := by
  unfold enqueue
  split <;> rfl

@[simp] theorem rqFault_unitWork (r : Rq) (acc : Acc) (k : XKind) (l : Nat) (pte : W64) (va : Nat) :
    unitWork (rqFault s r acc k l pte va) = unitWork s := sumpFault_unitWork s _

@[simp] theorem rqXlat_unitWork (r : Rq) (va n : Nat) (acc : Acc) : unitWork (rqXlat s r va n acc).2 = unitWork s := by
  unfold rqXlat
  split
  · rfl
  · split
    · simp
    · unfold Machine.translate
      dsimp only
      split <;> simp

theorem rqSpanN_unitWork (r : Rq) (acc : Acc) (f va n : Nat) : unitWork (rqSpanN r acc f s va n).2 = unitWork s := by
  induction f generalizing s va n with
  | zero => rfl
  | succ f ih =>
    unfold rqSpanN
    split
    · rfl
    · dsimp only
      split
      · simp
      · exact (ih _ _ _).trans (rqXlat_unitWork _ _ _ _ _)

@[simp] theorem rqSpan_unitWork (r : Rq) (va n : Nat) (acc : Acc) : unitWork (rqSpan s r va n acc).2 = unitWork s :=
  rqSpanN_unitWork s r acc _ va n

@[simp] theorem portRead_unitWork (p : Port) (a n : Nat) : unitWork (portRead s p a n).2.2 = unitWork s := by
  unfold portRead
  split <;> simp

@[simp] theorem askRuns_unitWork (rid flow ga n : Nat) : unitWork (askRuns s rid flow ga n).2 = unitWork s := by
  unfold askRuns
  dsimp only
  split
  · rfl
  · refine unitWork_foldl (fun t x => unitWork_ite rfl ?_) _ _
    exact (rfl : _ = unitWork (enqueue t flow _)).trans (enqueue_unitWork _ _ _)

@[simp] theorem rqRefused_unitWork (r : Rq) (va ga n : Nat) : unitWork (rqRefused s r va ga n) = unitWork s :=
  (rqFault_unitWork _ _ _ _ _ _ _).trans rfl

theorem readRuns_unitWork (r : Rq) (l : List (Where × Nat)) (va : Nat) : unitWork (readRuns r l s va).2 = unitWork s := by
  induction l generalizing s va with
  | nil => rfl
  | cons x l ih =>
    obtain ⟨w, n⟩ := x
    unfold readRuns
    refine (ih _ _).trans ?_
    cases w with
    | pa a => simp
    | win f ga =>
      have h := askRuns_unitWork s r.rid f ga n
      dsimp only
      split
      · next hask => rwa [hask] at h
      · next hask =>
        rw [hask] at h
        split
        · rw [rqRefused_unitWork]
          exact h
        · exact h
    | fault k lv p => rfl

@[simp] theorem rqRead_unitWork (r : Rq) (va n : Nat) : unitWork (rqRead s r va n).2 = unitWork s := by
  have h := rqSpan_unitWork s r va n .rd
  unfold rqRead
  dsimp only
  split
  · rw [rqFault_unitWork]
    exact h
  · exact (readRuns_unitWork _ _ _ _).trans h

@[simp] theorem rqReads_unitWork (r : Rq) (l : List (Nat × Nat)) : unitWork (rqReads r l s).2 = unitWork s := by
  induction l generalizing s with
  | nil => rfl
  | cons x l ih =>
    obtain ⟨va, n⟩ := x
    have h := rqRead_unitWork s r va n
    unfold rqReads
    split
    · next hread => rwa [hread] at h
    · next hread =>
      rw [hread] at h
      have hrest := ih ‹State›
      split
      · next hreads => rw [hreads] at hrest; exact hrest.trans h
      · next hreads => rw [hreads] at hrest; exact hrest.trans h

end

end Sys2Proof.Proofs
end

section
/-! A unit starts the queued item that it takes first (spec/04_compute_units.md R96, R113, spec/07_thread_groups.md R171,
spec/08_cu_memory.md R206, R216). -/

namespace Sys2Proof.Proofs

open Sys2Proof.Laws Sys2Proof.Machine

/-! ### The device's programs issue operations -/

/-- The item but for its count of issued operations. -/
def unissued (it : Item) : Item := { it with issued := 0 }

/-- The live items but for their counts of issued operations, the resident groups, and where each unit stands in
stealing. -/
def fedWork (s : State) : (Nat → Option Item) × SMap (Option Group) × (Nat → Nat) :=
  (fun i => (s.item i).map unissued, s.groups, fun v => (s.cu v).steal)

theorem fedWork_of_unitWork {s t : State} (h : unitWork t = unitWork s) : fedWork t = fedWork s :=
  (congrArg (fun w : SMap (Option Item) × SMap (Option Group) × (Nat → Nat) =>
    ((fun i => (SMap.get (fun _ => none) w.1 i).map unissued), w.2)) h :)

/-- An item may be replaced by one that differs in its count. -/
theorem setItem_fedWork {s : State} {n : Nat} {v : Option Item} (h : v.map unissued = (s.item n).map unissued) :
    fedWork (s.setItem n v) = fedWork s := by
  have hitems : (fun i => ((s.setItem n v).item i).map unissued) = fun i => (s.item i).map unissued := by
    funext i
    rw [setItem_item]
    split
    · next hi => rw [h, hi]
    · rfl
  exact congrArg (fun f => (f, s.groups, fun v => (s.cu v).steal)) hitems

theorem feedMatrix_fedWork (f : Nat) (s : State) (u n : Nat) : fedWork (feedMatrix f s u n) = fedWork s := by
  induction f generalizing s with
  | zero => rfl
  | succ f ih =>
    unfold feedMatrix
    split
    · rfl
    · next it hit =>
      split
      · rfl
      · split
        · rfl
        · extract_lets c h
          split
          · rfl
          · split
            · rfl
            · next op _ =>
              rw [ih]
              refine (setItem_fedWork ?_).trans (fedWork_of_unitWork (setCu_unitWork s rfl))
              rw [setCu_item, hit]
              rfl

theorem feedAll_fedWork (s : State) (u : Nat) : fedWork (feedAll s u) = fedWork s := by
  unfold feedAll
  generalize runningOn s u = l
  induction l generalizing s with
  | nil => rfl
  | cons p l ih => rw [List.foldl_cons, ih, feedMatrix_fedWork]

/-! ### The checks of the input tags -/

@[simp] theorem checkTags_unitWork (s : State) (r : Rq) (j : Job) (d : StnDef) (it : Item) :
    unitWork (checkTags s r j d it).2 = unitWork s := by
  unfold checkTags
  extract_lets l rs
  have h := rqReads_unitWork s r rs
  split
  · next hreads => rwa [hreads] at h
  · next hreads => rwa [hreads] at h

/-- The checks of an item's tags settle whether they are done and how the item ends, and may issue operations. -/
theorem startChecks_fedWork {s : State} {n : Nat} {it : Item} (u : Nat) (hit : s.item n = some it) :
    ∃ ok e, fedWork (startChecks s u n it) = fedWork (s.setItem n (some { it with tagsOk := ok, err := e })) := by
  have hsame : fedWork s = fedWork (s.setItem n (some { it with tagsOk := it.tagsOk, err := it.err })) :=
    (setItem_fedWork (by rw [hit])).symm
  unfold startChecks
  split
  · exact ⟨_, _, hsame⟩
  · next j _ =>
    split
    · exact ⟨_, _, hsame⟩
    · next st _ =>
      have hchecks := checkTags_unitWork s (moverRq s u n it) j st.df it
      split
      · next s1 heq =>
        rw [heq] at hchecks
        exact ⟨_, _, (fedWork_of_unitWork hchecks).trans hsame⟩
      · next e s1 heq =>
        rw [heq] at hchecks
        have hset (v : Option Item) : fedWork (s1.setItem n v) = fedWork (s.setItem n v) :=
          (congrArg (fun w : SMap (Option Item) × SMap (Option Group) × (Nat → Nat) =>
            ((fun i => (SMap.get (fun _ => none) (SMap.put (fun _ => none) w.1 n v) i).map unissued), w.2)) hchecks :)
        refine ⟨e.isNone, e.map (fun x => (x, 0, 0)), ?_⟩
        dsimp only
        split
        · exact hset _
        · rw [feedAll_fedWork, hset]

/-! ### Local store, the read set's lines, the groups -/

@[simp] theorem lsPuts_unitWork (s : State) (u a : Nat) (bs : List Byte) : unitWork (lsPuts s u a bs) = unitWork s := by
  induction bs generalizing s a with
  | nil => rfl
  | cons b bs ih => exact (ih _ _).trans rfl

theorem dropVirtual_unitWork (u aspace f : Nat) (s : State) (va n : Nat) :
    unitWork (dropVirtual u aspace f s va n) = unitWork s := by
  induction f generalizing s va n with
  | zero => rfl
  | succ f ih =>
    have hxlat := unitXlat_unitWork s u aspace va 1 .rd
    unfold dropVirtual
    split
    · rfl
    · generalize unitXlat s u aspace va 1 .rd = r at hxlat
      obtain ⟨w, s1⟩ := r
      dsimp only
      rw [ih]
      split
      · exact (ccDropRange_unitWork _ _ _ _).trans hxlat
      · exact hxlat

@[simp] theorem dropReadSlots_unitWork (s : State) (u : Nat) (j : Job) (d : StnDef) (it : Item) :
    unitWork (dropReadSlots s u j d it) = unitWork s := by
  unfold dropReadSlots
  refine unitWork_foldl (fun t p => ?_) _ _
  dsimp only
  split
  · rfl
  · exact dropVirtual_unitWork _ _ _ _ _ _

/-- The group of an item at its start (R171). -/
def freshGroup (n regs i : Nat) : Group := ⟨n, i, regs, 0, 0xFFFFFFFF, 0xFFFFFFFF, [], 0, false, .none⟩

/-- Resident h of a unit becomes the item's group i. -/
def placeGroup (u n regs : Nat) (s : State) (p : Nat × Nat) : State :=
  (clearRegs s u p.1).setGrp u p.1 (some (freshGroup n regs p.2))

theorem placeGroup_grp (u n regs : Nat) (s : State) (p : Nat × Nat) (h : Nat) :
    (placeGroup u n regs s p).grp u h = if h = p.1 then some (freshGroup n regs p.2) else s.grp u h := by
  have hkey : gKey u h = gKey u p.1 ↔ h = p.1 := by
    unfold gKey
    omega
  rw [placeGroup, setGrp_grp]
  simp only [hkey]
  rfl

/-- A fold of placements leaves a resident that it does not name. -/
theorem foldl_placeGroup_other (u n regs : Nat) {l : List (Nat × Nat)} {h : Nat} (hl : ∀ p ∈ l, p.1 ≠ h) (s : State) :
    (l.foldl (placeGroup u n regs) s).grp u h = s.grp u h := by
  induction l generalizing s with
  | nil => rfl
  | cons p l ih =>
    rw [List.foldl_cons, ih (fun q hq => hl q (List.mem_cons_of_mem _ hq)), placeGroup_grp,
      if_neg (hl p List.mem_cons_self).symm]

/-- A fold of placements at different residents puts each group in its place. -/
theorem foldl_placeGroup_at (u n regs : Nat) {l : List (Nat × Nat)} (hnd : (l.map Prod.fst).Nodup) {h i : Nat}
    (hmem : (h, i) ∈ l) (s : State) : (l.foldl (placeGroup u n regs) s).grp u h = some (freshGroup n regs i) := by
  induction l generalizing s with
  | nil => exact absurd hmem List.not_mem_nil
  | cons p l ih =>
    rw [List.map_cons, List.nodup_cons] at hnd
    rw [List.foldl_cons]
    rcases List.mem_cons.mp hmem with rfl | hmem
    · rw [foldl_placeGroup_other u n regs (fun q hq he => hnd.1 (List.mem_map.mpr ⟨q, hq, he⟩)), placeGroup_grp, if_pos rfl]
    · exact ih hnd.2 hmem _

theorem startGroups_grp (s : State) (u n g regs : Nat) {h i : Nat} (hmem : (h, i) ∈ (freeResidents s u g).zipIdx) :
    (startGroups s u n g regs).grp u h = some (freshGroup n regs i) := by
  refine foldl_placeGroup_at u n regs ?_ hmem s
  rw [List.zipIdx_map_fst]
  exact ((List.nodup_range.filter _).sublist (List.take_sublist _ _))

/-- Placing groups touches neither items nor units. -/
theorem startGroups_frame (s : State) (u n g regs : Nat) :
    (startGroups s u n g regs).items = s.items ∧ (startGroups s u n g regs).units = s.units := by
  unfold startGroups
  generalize (freeResidents s u g).zipIdx = l
  induction l generalizing s with
  | nil => exact ⟨rfl, rfl⟩
  | cons p l ih => exact ih _

/-! ### The start -/

/-- The lowest slot that is not among those held is the lowest that no running item holds. -/
theorem slotFree_eq (l : List (Nat × Item)) :
    (fun i => !(l.filterMap (fun p => p.2.islot)).contains i) = fun i => l.all (fun p => p.2.islot != some i) := by
  funext i
  rw [Bool.eq_iff_iff]
  simp

/-- A starting item holds its running-item slot, the unit's split is the item's if nothing else runs, and the unit is
idle no more. -/
def takeSlot (s : State) (u n : Nat) (it : Item) : State :=
  let t := if (runningOn s u).isEmpty then takeSplit s u it.lsSteps else s
  (t.setItem n (some it)).setCu u { t.cu u with steal := 0 }

/-- The slot of a CU-hosted item is cleared, its context block stored, and its groups take their places. -/
def placeGroups (s : State) (u n : Nat) (it : Item) (j : Job) (d : StnDef) (g regs : Nat) : State :=
  if cuHosted it.kind then
    startGroups (lsPuts (lsClear s u (slotBase it) (slotSize it)) u (slotBase it) (ctxBlock j d it)) u n g regs
  else s

theorem takeSlot_work (s : State) (u n : Nat) (it : Item) :
    (takeSlot s u n it).items = (s.setItem n (some it)).items ∧ (takeSlot s u n it).groups = s.groups ∧
    ((takeSlot s u n it).cu u).steal = 0 := by
  unfold takeSlot
  extract_lets t
  have hwork : unitWork t = unitWork s := unitWork_ite (takeSplit_unitWork s u it.lsSteps) rfl
  have hitems : t.items = s.items := (congrArg Prod.fst hwork :)
  have hgroups : t.groups = s.groups := (congrArg (fun w => w.2.1) hwork :)
  refine ⟨?_, hgroups, ?_⟩
  · rw [setCu_items]
    exact congrArg (fun m => SMap.put (fun _ => none) m n (some it)) hitems
  · rw [setCu_cu, if_pos rfl]

theorem freeResidents_congr {s t : State} (h : t.groups = s.groups) (u g : Nat) :
    freeResidents t u g = freeResidents s u g := by
  simp only [freeResidents, State.grp, h]

/-- Placing groups leaves items and units, and puts each group of a CU-hosted item in its place. -/
theorem placeGroups_work (s : State) (u n : Nat) (it : Item) (j : Job) (d : StnDef) (g regs : Nat) :
    (placeGroups s u n it j d g regs).items = s.items ∧
    ((placeGroups s u n it j d g regs).cu u).steal = (s.cu u).steal ∧
    (cuHosted it.kind = true → ∀ h i, (h, i) ∈ (freeResidents s u g).zipIdx →
      (placeGroups s u n it j d g regs).grp u h = some (freshGroup n regs i)) := by
  unfold placeGroups
  have hls := lsPuts_unitWork (lsClear s u (slotBase it) (slotSize it)) u (slotBase it) (ctxBlock j d it)
  generalize lsPuts (lsClear s u (slotBase it) (slotSize it)) u (slotBase it) (ctxBlock j d it) = t at hls
  have hwork : unitWork t = unitWork s := hls
  have hitems : t.items = s.items := (congrArg Prod.fst hwork :)
  have hgroups : t.groups = s.groups := (congrArg (fun w => w.2.1) hwork :)
  have hsteal : (t.cu u).steal = (s.cu u).steal := (congrArg (fun w => w.2.2 u) hwork :)
  obtain ⟨hgitems, hgunits⟩ := startGroups_frame t u n g regs
  by_cases hk : cuHosted it.kind = true
  · simp only [hk, if_true]
    refine ⟨hgitems.trans hitems, ?_, fun _ h i hmem => ?_⟩
    · rw [← hsteal, State.cu, hgunits]
      rfl
    · exact startGroups_grp t u n g regs (by rwa [freeResidents_congr hgroups])
  · simp [hk]

section
variable {s : State} {u n k : Nat} {it : Item} {j : Job} {st : Stn}
  (h8 : armedAt s (uCu u) 8 = false) (h11 : armedAt s (uCu u) 11 = false) (hj : s.job it.job = some j)
  (hst : j.stn it.sid = some st)
  (hk : (List.range 4).find? (fun i => (runningOn s u).all (fun p => p.2.islot != some i)) = some k)
include h8 h11 hj hst hk

/-- What a queued item's start does, without an injected error. -/
theorem beginItem_eq : beginItem s u n it =
    startChecks (countEv (dropReadSlots (placeGroups (takeSlot s u n { it with islot := some k }) u n
      { it with islot := some k } j st.df (itemFoot s it).1 (itemFoot s it).2.1) u j st.df { it with islot := some k })
      (uCu u) 1 1) u n { it with islot := some k } := by
  simp only [beginItem, h8, h11, hj, hst, slotFree_eq, hk, Option.getD_some]
  rfl

/-- An item that starts holds its slot, its unit is not idle, and its groups stand in their places. -/
theorem beginItem_fedWork : ∃ (t : State) (ok : Bool) (e : Option (Nat × Nat × Nat)),
    fedWork (beginItem s u n it) = fedWork (t.setItem n (some { it with islot := some k, tagsOk := ok, err := e })) ∧
    (∀ i, i ≠ n → t.item i = s.item i) ∧ (t.cu u).steal = 0 ∧
    (cuHosted it.kind = true → ∀ h i, (h, i) ∈ (freeResidents s u (itemFoot s it).1).zipIdx →
        t.grp u h = some (freshGroup n (itemFoot s it).2.1 i)) := by
  rw [beginItem_eq h8 h11 hj hst hk]
  obtain ⟨htitems, htgroups, htsteal⟩ := takeSlot_work s u n { it with islot := some k }
  generalize takeSlot s u n { it with islot := some k } = t at htitems htgroups htsteal
  obtain ⟨hpitems, hpsteal, hpgroups⟩ := placeGroups_work t u n { it with islot := some k } j st.df (itemFoot s it).1
    (itemFoot s it).2.1
  generalize placeGroups t u n { it with islot := some k } j st.df (itemFoot s it).1 (itemFoot s it).2.1 = p
    at hpitems hpsteal hpgroups
  have hwork : unitWork (countEv (dropReadSlots p u j st.df { it with islot := some k }) (uCu u) 1 1) = unitWork p := by
    rw [countEv_unitWork, dropReadSlots_unitWork]
  generalize countEv (dropReadSlots p u j st.df { it with islot := some k }) (uCu u) 1 1 = q at hwork
  have hqitems : q.items = (s.setItem n (some { it with islot := some k })).items :=
    ((congrArg Prod.fst hwork :).trans hpitems).trans htitems
  have hqgroups : q.groups = p.groups := (congrArg (fun w => w.2.1) hwork :)
  have hqsteal : (q.cu u).steal = 0 := ((congrArg (fun w => w.2.2 u) hwork :).trans hpsteal).trans htsteal
  have hqitem (i : Nat) : q.item i = (s.setItem n (some { it with islot := some k })).item i :=
    congrArg (fun m => SMap.get (fun _ => none) m i) hqitems
  have hitem : q.item n = some { it with islot := some k } := by rw [hqitem, setItem_item, if_pos rfl]
  obtain ⟨ok, e, hfed⟩ := startChecks_fedWork u hitem
  refine ⟨q, ok, e, hfed, fun i hi => ?_, hqsteal, fun hkind h i hmem => ?_⟩
  · rw [hqitem, setItem_item, if_neg hi]
  · rw [← hpgroups hkind h i (by rwa [freeResidents_congr htgroups]), State.grp, State.grp, hqgroups]

end

/-- What a start leaves of the items, of the unit and of its groups. -/
theorem beginItem_starts {s : State} {u n k : Nat} {it : Item} {j : Job} {st : Stn}
    (h8 : armedAt s (uCu u) 8 = false) (h11 : armedAt s (uCu u) 11 = false) (hj : s.job it.job = some j)
    (hst : j.stn it.sid = some st)
    (hk : (List.range 4).find? (fun i => (runningOn s u).all (fun p => p.2.islot != some i)) = some k) :
    ∃ x, (beginItem s u n it).item n = some x ∧ x.islot = some k ∧
      { x with tagsOk := false, err := none, issued := 0 } = { it with islot := some k, tagsOk := false, err := none, issued := 0 } ∧
      (∀ i, i ≠ n → ((beginItem s u n it).item i).map unissued = (s.item i).map unissued) ∧
      ((beginItem s u n it).cu u).steal = 0 ∧
      (cuHosted it.kind = true → ∀ h i, (h, i) ∈ (freeResidents s u (itemFoot s it).1).zipIdx →
        (beginItem s u n it).grp u h = some (freshGroup n (itemFoot s it).2.1 i)) := by
  obtain ⟨t, ok, e, hfed, hother, hsteal, hgroups⟩ := beginItem_fedWork (n := n) h8 h11 hj hst hk
  have hitem (i : Nat) := congrFun (congrArg Prod.fst hfed) i
  have hgrp : (beginItem s u n it).groups = t.groups := congrArg (fun w => w.2.1) hfed
  have hcu : ((beginItem s u n it).cu u).steal = (t.cu u).steal := congrFun (congrArg (fun w => w.2.2) hfed) u
  simp only [fedWork] at hitem
  have hn := hitem n
  rw [setItem_item, if_pos rfl, Option.map_some, Option.map_eq_some_iff] at hn
  obtain ⟨x, hx, hxy⟩ := hn
  refine ⟨x, hx, (congrArg Item.islot hxy :), ?_, fun i hi => ?_, hcu.trans hsteal, fun hkind h i hmem => ?_⟩
  · exact (congrArg (fun y : Item => { y with tagsOk := false, err := none }) hxy :)
  · rw [hitem, setItem_item, if_neg hi, hother i hi]
  · rw [← hgroups hkind h i hmem, State.grp, State.grp, hgrp]

/-- CU_ITEM_START of a unit that takes work and has no tags to check starts the item that it takes first. -/
theorem exec_cuItemStart {s : State} {u n : Nat} {it : Item} (hlive : live s = true) (hadv : advances s u = true)
    (hnone : ∀ p ∈ runningOn s u, p.2.tagsOk = true ∨ p.2.err ≠ none ∨ itemWaits s p.1 = true)
    (hacc : s.accepts (uCu u) = true) (hhalt : unitHalting s u = false)
    (hfirst : takenFirst ((queuedOn s u).filter (fun p => couldStart s u p.2)) = some (n, it)) :
    exec (.cuItemStart u) s = .next (beginItem s u n it) := by
  have hdue : (runningOn s u).find? (fun p => !p.2.tagsOk && p.2.err == none && !itemWaits s p.1) = none := by
    rw [List.find?_eq_none]
    intro p hp
    rcases hnone p hp with h | h | h <;> simp [h]
  show execCuItemStart u s = _
  simp only [execCuItemStart, whenLive, hlive, hadv, hdue, hacc, hhalt, hfirst]
  rfl

end Sys2Proof.Proofs
end

section
/-! What an idle unit does: it probes others for queued items, and waits (spec/04_compute_units.md R114 to R117, R121,
R122); how its rate is measured (R102). -/

namespace Sys2Proof.Proofs

open Sys2Proof.Laws Sys2Proof.Machine

/-! ### Probes -/

/-- The item of a thief: it is the thief's now, and stolen once more; no other item and no register changes. -/
def TookItem (s t : State) (u n : Nat) (it : Item) : Prop :=
  t.item n = some { it with owner := uSite u, steals := min 4 (it.steals + 1) } ∧ (∀ i, i ≠ n → t.item i = s.item i) ∧
    (t.cu u).steal = 0 ∧ ∀ a, t.reg a = s.reg a

/-- A unit that found nothing stands where x says. -/
def FoundNone (s t : State) (u x : Nat) : Prop := (t.cu u).steal = x ∧ t.items = s.items ∧ ∀ a, t.reg a = s.reg a

/-- What a thief may take depends on nothing that a counted event changes. -/
theorem stealFrom_of_quiet {s t : State} (h : quiet t = quiet s) (u v least : Nat) :
    stealFrom t u v least = stealFrom s u v least :=
  (congrArg (fun x => stealFrom x u v least) h :)

/-- A replayed hardware error changes neither items nor registers. -/
theorem unitError_frame (s : State) (u page b : Nat) (inj : Bool) (w : Option (Nat × Nat)) :
    (unitError s u page b inj w).items = s.items ∧ ∀ a, (unitError s u page b inj w).reg a = s.reg a := by
  simp [unitError]

theorem steal_took (s : State) (u v n : Nat) (it : Item) : TookItem s (steal s u v n it) u n it := by
  unfold steal
  extract_lets s0 s1
  obtain ⟨hitems, hreg⟩ : s0.items = s.items ∧ ∀ a, s0.reg a = s.reg a := by
    unfold s0
    split
    · exact unitError_frame _ _ _ _ _ _
    · exact ⟨rfl, fun _ => rfl⟩
  have hitem (i : Nat) : s0.item i = s.item i := congrArg (fun m => SMap.get (fun _ => none) m i) hitems
  refine ⟨?_, fun i hi => ?_, ?_, fun a => ?_⟩
  · rw [countEv_item, setCu_item, setItem_item, if_pos rfl]
  · rw [countEv_item, setCu_item, setItem_item, if_neg hi, hitem]
  · rw [countEv_cu, setCu_cu, if_pos rfl]
  · rw [countEv_reg, setCu_reg, setItem_reg, hreg]

/-- Probes that find nothing are counted, and the others go on as if they had not been made. -/
theorem probe_append {u least : Nat} {l : List Nat} {s : State} (hnone : ∀ v ∈ l, stealFrom s u v least = none)
    (rest : List Nat) : ∃ t, quiet t = quiet s ∧ probe u least (l ++ rest) s = probe u least rest t := by
  induction l generalizing s with
  | nil => exact ⟨s, rfl, rfl⟩
  | cons v l ih =>
    have hq := countEv_quiet s (uCu u) 3 1
    obtain ⟨t, ht, hprobe⟩ := ih (s := countEv s (uCu u) 3 1) fun w hw =>
      (stealFrom_of_quiet hq u w least).trans (hnone w (List.mem_cons_of_mem _ hw))
    refine ⟨t, ht.trans hq, ?_⟩
    rw [List.cons_append, probe, hnone v List.mem_cons_self]
    exact hprobe

/-- The first unit that gives an item ends the round. -/
theorem probe_takes {u least v n : Nat} {l : List Nat} {it : Item} {s : State}
    (hnone : ∀ w ∈ l, stealFrom s u w least = none) (htake : stealFrom s u v least = some (n, it)) (rest : List Nat) :
    ∃ t, probe u least (l ++ v :: rest) s = (true, t) ∧ TookItem s t u n it := by
  obtain ⟨t, hq, hprobe⟩ := probe_append hnone (v :: rest)
  obtain ⟨hitem, hother, hsteal, hreg⟩ := steal_took t u v n it
  refine ⟨steal t u v n it, ?_, hitem, fun i hi => ?_, hsteal, fun a => ?_⟩
  · rw [hprobe, probe, stealFrom_of_quiet hq, htake]
  · exact (hother i hi).trans (congrArg (fun x => State.item x i) hq :)
  · exact (hreg a).trans (congrArg (fun x => State.reg x a) hq :)

theorem probe_fails {u least : Nat} {l : List Nat} {s : State} (hnone : ∀ v ∈ l, stealFrom s u v least = none) :
    ∃ t, quiet t = quiet s ∧ probe u least l s = (false, t) := by
  obtain ⟨t, hq, hprobe⟩ := probe_append hnone []
  exact ⟨t, hq, by rwa [List.append_nil] at hprobe⟩

/-- After probes that found nothing a unit moves on. -/
theorem foundNone_of_quiet {s t : State} (hq : quiet t = quiet s) (u x : Nat) :
    FoundNone s (t.setCu u { t.cu u with steal := x }) u x :=
  ⟨by rw [setCu_cu, if_pos rfl], (congrArg State.items hq :), fun a => (congrArg (fun y => State.reg y a) hq :)⟩

/-! ### The commands -/

/-- A unit that is not idle, or may not steal, probes none. -/
theorem exec_steal_not {s : State} {u : Nat} (hnot : isIdle s u = false ∨ stealEn s u = false) :
    exec (.cuNearRound u) s = .next s ∧ exec (.cuFarAttempt u) s = .next s := by
  have hor : (!isIdle s u || !stealEn s u) = true := by
    rcases hnot with h | h <;> simp [h]
  refine ⟨?_, ?_⟩
  · show execCuNearRound u s = _
    simp [execCuNearRound, whenLive, hor]
  · show execCuFarAttempt u s = _
    simp [execCuFarAttempt, whenLive, hor]

section
variable {s : State} {u : Nat} (hlive : live s = true)
include hlive

/-- CU_NEAR_ROUND of a unit that may make one. -/
theorem exec_cuNearRound (hidle : isIdle s u = true) (hen : stealEn s u = true) (hst : (s.cu u).steal = 0) {won : Bool}
    {t : State} (hprobe : probe u (stealMin s u) (nearUnits s u) s = (won, t)) :
    exec (.cuNearRound u) s = .next (if won then t else t.setCu u { t.cu u with steal := if farEn s u then 1 else 2 }) := by
  show execCuNearRound u s = _
  simp [execCuNearRound, whenLive, hlive, hidle, hen, hst, hprobe]

/-- CU_FAR_ATTEMPT of a unit that may make one, with a victim and without. -/
theorem exec_cuFarAttempt (hidle : isIdle s u = true) (hen : stealEn s u = true) (hfar : farEn s u = true)
    (hst : (s.cu u).steal = 1) {won : Bool} {t : State}
    (hprobe : probe u (farMin s u) (farVictim s u).toList s = (won, t)) :
    exec (.cuFarAttempt u) s = .next (if won then t else t.setCu u { t.cu u with steal := 2 }) := by
  show execCuFarAttempt u s = _
  cases hv : farVictim s u with
  | none =>
    rw [hv] at hprobe
    obtain ⟨rfl, rfl⟩ := Prod.mk.inj hprobe
    simp [execCuFarAttempt, whenLive, hlive, hidle, hen, hfar, hst, hv]
  | some v =>
    rw [hv] at hprobe
    simp only [Option.toList_some] at hprobe
    simp [execCuFarAttempt, whenLive, hlive, hidle, hen, hfar, hst, hv, hprobe]

/-- CU_STEAL_WAIT_EXPIRE of a unit that waits. -/
theorem exec_cuStealWaitExpire (hadv : advances s u = true) (hst : (s.cu u).steal = 2) :
    exec (.cuStealWaitExpire u) s = .next (s.setCu u { s.cu u with steal := 0 }) := by
  show execCuStealWaitExpire u s = _
  simp [execCuStealWaitExpire, whenLive, hlive, hadv, hst]

/-- CU_RATE_WINDOW stores the beats of the window; a unit that came late into it has its next one full. -/
theorem exec_cuRateWindow {beats : Nat} (hserv : inService s u = true)
    (hrate : beats * 10 ≤ s.regF (uCu u) 0x100 39 32 * 1024) :
    ∃ t, exec (.cuRateWindow u beats) s = .next t ∧
      t.reg (regAddr (uCu u) 0x118) = BitVec.ofNat 64
        ((bit 16 (s.reg (regAddr (uCu u) 0x118)) || !(s.cu u).late).toNat * 65536 + beats % 65536) ∧
      (∀ a, a ≠ regAddr (uCu u) 0x118 → t.reg a = s.reg a) ∧ (t.cu u).late = false ∧ t.items = s.items := by
  have hexec : exec (.cuRateWindow u beats) s = .next
      (let s1 := s.setReg (regAddr (uCu u) 0x118) (BitVec.ofNat 64
        ((bit 16 (s.reg (regAddr (uCu u) 0x118)) || !(s.cu u).late).toNat * 65536 + beats % 65536))
       if (s.cu u).late then s1.setCu u { s.cu u with late := false } else s1) := by
    show execCuRateWindow u beats s = _
    simp [execCuRateWindow, whenLive, hlive, hserv, Nat.not_lt.mpr hrate]
  refine ⟨_, hexec, ?_⟩
  dsimp only
  by_cases hlate : (s.cu u).late = true
  · rw [if_pos hlate]
    refine ⟨?_, fun a ha => ?_, ?_, rfl⟩
    · rw [setCu_reg, setReg_reg, if_pos rfl]
    · rw [setCu_reg, setReg_reg, if_neg ha]
    · rw [setCu_cu, if_pos rfl]
  · rw [if_neg hlate]
    refine ⟨?_, fun a ha => ?_, ?_, rfl⟩
    · rw [setReg_reg, if_pos rfl]
    · rw [setReg_reg, if_neg ha]
    · rw [setReg_cu]
      exact Bool.not_eq_true _ ▸ hlate

end

/-- Settles O30: a start; a near round and a far attempt that find an item and that find none; a unit that may not steal;
the end of the wait; the rate window. -/
theorem queuedItemsStartAndAreStolen : Obligations.QueuedItemsStartAndAreStolen := by
  unfold Obligations.QueuedItemsStartAndAreStolen
  refine ⟨fun u n k it j st s hlive hadv hnone hacc hhalt h8 h11 hfirst hj hst hk => ?_, ?_⟩
  · obtain ⟨x, hx, hslot, hsame, hother, hsteal, hgroups⟩ := beginItem_starts (n := n) h8 h11 hj hst hk
    exact ⟨_, x, exec_cuItemStart hlive hadv hnone hacc hhalt hfirst, hx, hslot, hsame, hother, hsteal, hgroups⟩
  · intro u s hlive took moved
    refine ⟨fun hidle hen hst => ⟨fun l v rest n it hnear hnone htake => ?_, fun hnone => ?_⟩,
      fun hidle hen hfar hst => ⟨fun v n it hv htake => ?_, fun hnone => ?_⟩, exec_steal_not,
      exec_cuStealWaitExpire hlive, fun beats => exec_cuRateWindow hlive⟩
    · obtain ⟨t, hprobe, htook⟩ := probe_takes hnone htake rest
      exact ⟨t, exec_cuNearRound (won := true) hlive hidle hen hst (hnear ▸ hprobe), htook⟩
    · obtain ⟨t, hq, hprobe⟩ := probe_fails hnone
      exact ⟨_, exec_cuNearRound hlive hidle hen hst hprobe, foundNone_of_quiet hq u _⟩
    · obtain ⟨t, hprobe, htook⟩ := probe_takes (l := []) (fun _ h => absurd h List.not_mem_nil) htake []
      exact ⟨t, exec_cuFarAttempt (won := true) hlive hidle hen hfar hst (by rw [hv]; exact hprobe), htook⟩
    · obtain ⟨t, hq, hprobe⟩ := probe_fails (l := (farVictim s u).toList) fun v hv => hnone v (Option.mem_toList.mp hv)
      exact ⟨_, exec_cuFarAttempt hlive hidle hen hfar hst hprobe, foundNone_of_quiet hq u _⟩

end Sys2Proof.Proofs
end

section
/-! Retirement of a unit with one running item (spec/04_compute_units.md R124 to R126): the unit that receives the item is
chosen once the item has been stopped, and a table that lists an item number twice has by then lost the second entry. -/

namespace Sys2Proof.Proofs

open Sys2Proof.Laws Sys2Proof.Machine

/-! ### Dealing out one entry -/

/-- The one queued item of a unit goes to the first unit of the deal order that can take it. -/
theorem dealQueued_one {s : State} {u n w : Nat} {it : Item} (hq : queuedOn s u = [(n, it)]) (hit : s.item n = some it)
    (hw : (dealOrder s u).find? (canPlace s) = some w) : dealQueued s u = requeueOn s n w it := by
  have hone : inJseq (queuedOn s u) = [n] := by rw [hq, inJseq, List.mergeSort_singleton, List.map_singleton]
  rw [dealQueued, hone, dealAll, dealOne, hw]
  simp only [hit, dealAll]

theorem requeueOn_item (s : State) (n v : Nat) (it : Item) :
    (requeueOn s n v it).item n = some (it.restarted (uSite v)) := by
  rw [requeueOn, countEv_item, setCu_item, setItem_item, if_pos rfl]

/-! ### Stopping the item and the unit -/

/-- An item that a hardware fault stops for the first three times is queued, with ATTEMPT one higher. -/
theorem stopRunning_item {it : Item} (s : State) (u n : Nat) (hattempt : it.attempt < 3) :
    (stopRunning s u n it true).item n = some { it.restarted it.owner with attempt := it.attempt + 1 } := by
  rw [stopRunning, if_neg (by simp [Nat.not_le.mpr hattempt]), setItem_item, if_pos rfl]
  rfl

theorem setSite_items (s : State) (u st cause : Nat) : (setSite s u st cause).items = s.items := by
  rw [setSite, setRegF_eq, setReg_items, setRegF_eq, setReg_items]

theorem startSpare_items (s : State) (d : Nat) (centre : Option Nat) : (startSpare s d centre).items = s.items := by
  unfold startSpare
  extract_lets inTest order
  split
  · rfl
  · split <;> rfl

/-- A unit without cache lines has nothing to write back. -/
theorem ccRelease_of_noLines {s : State} {u : Nat} (h : ccKeys s u = []) : ccRelease s u = s := by
  rw [ccRelease, h, List.foldl_nil]

/-- Retirement of a unit that a hardware fault stopped with one running item, while its buddy works: that item is stopped,
then dealt out. -/
theorem retire_items {s : State} {u n : Nat} {it : Item} (harmed : armedAt s (uCu u) 11 = false)
    (hhalt : unitHalting s u = false) (hkeep : (s.cu u).keep = false) (hcause : (s.cu u).rcause = 2)
    (hlines : ccKeys s u = []) (hbuddy : ∀ b, buddy s u = some b → (s.cu b).failed = false)
    (hrun : runningOn s u = [(n, it)]) : (retire s u).items = (dealQueued (stopRunning s u n it true) u).items := by
  have hunhalt : unhalt s u = s := by simp [unhalt, hhalt]
  have hdown (b : Nat) (hb : buddy s u = some b) : downByFault s b = false := by simp [downByFault, hbuddy b hb]
  unfold retire
  cases hb : buddy s u <;>
  · simp only [harmed, hkeep, hunhalt, hcause, hb, hdown, hrun, ccRelease_of_noLines hlines, Bool.and_false,
      Bool.false_eq_true, if_false, List.foldl_cons, List.foldl_nil, decide_true]
    split
    · rfl
    · rw [startSpare_items, setCu_items, setSite_items]

theorem exec_cuFaultRetire {s : State} {u : Nat} (hlive : live s = true) (hserv : inService s u = true)
    (hfailed : (s.cu u).failed = true) : exec (.cuFaultRetire u) s = .next (retire s u) := by
  show execCuFaultRetire u s = _
  simp [execCuFaultRetire, whenLive, hlive, hserv, hfailed]

/-! ### A table that lists an item number twice -/

/-- A COPY item without tiles that runs on a site of C-die 0. -/
def copyItem (site : Nat) : Item :=
  { job := 0, sid := 0, step := 0, idx := 0, seed := 0, ord0 := 0, nord := 0, kind := 0x14, lsSteps := 0, stepdep := false,
    ver := 3, die := 0, home := 0, owner := site, islot := some 0, steals := 0, attempt := 0, jseq := 0, tagsOk := true,
    issued := 0, wrote := [], computed := [], log := [], atomsSent := false, err := none }

/-- The module after reset, but for this: units 1 and 24 take work, a hardware fault stopped unit 0 while item 7 ran there,
and behind that entry the table lists number 7 another 128 times, on unit 1, whose journal has 128 entries. -/
def listedTwice : State :=
  let s := (State.reset.setReg (regAddr (uCu 1) 0x30) 0x301).setReg (regAddr (uCu 24) 0x30) 0x301
  { s with units := [(0, { CuSt.reset with failed := true, rcause := 2 })]
           items := (7, some (copyItem 0)) :: List.replicate 128 (7, some (copyItem 1)) }

theorem runningOn_listedTwice : runningOn listedTwice 0 = [(7, copyItem 0)] := by decide +kernel

/-- Before the item is stopped unit 1's journal is full, and unit 24 is the first that can take an entry. -/
theorem firstBefore_listedTwice : (dealOrder listedTwice 0).find? (canPlace listedTwice) = some 24 := by decide +kernel

/-- The item once it is stopped. -/
def stoppedItem : Item := { (copyItem 0).restarted 0 with attempt := 1 }

theorem queuedOn_stopped : queuedOn (stopRunning listedTwice 0 7 (copyItem 0) true) 0 = [(7, stoppedItem)] := by
  decide +kernel

/-- The stopped item's entry replaced every entry of its number, so that unit 1 can take it. -/
theorem firstAfter_listedTwice : (dealOrder (stopRunning listedTwice 0 7 (copyItem 0) true) 0).find?
    (canPlace (stopRunning listedTwice 0 7 (copyItem 0) true)) = some 1 := by decide +kernel

theorem buddy_listedTwice : buddy listedTwice 0 = some 1 := by decide +kernel

/-- The item restarts on unit 1. -/
theorem retire_listedTwice : (retire listedTwice 0).item 7 = some (stoppedItem.restarted 1) := by
  have hitem : (stopRunning listedTwice 0 7 (copyItem 0) true).item 7 = some stoppedItem :=
    stopRunning_item listedTwice 0 7 (by decide)
  have hitems : (retire listedTwice 0).items = (dealQueued (stopRunning listedTwice 0 7 (copyItem 0) true) 0).items :=
    retire_items (by decide) (by decide) (by decide) (by decide) (by decide)
      (fun b hb => by cases buddy_listedTwice.symm.trans hb; decide) runningOn_listedTwice
  rw [State.item, hitems, dealQueued_one queuedOn_stopped hitem firstAfter_listedTwice]
  exact requeueOn_item _ _ _ _

/-- Refutes O31: the statement names the unit that can take the running item before it is stopped, but where the item table
lists its number twice, stopping it frees entries of another unit's journal, and that unit takes it. A table in canonical
form lists no number twice (Safety.lean), but the statement speaks of every live state. -/
theorem not_unitsRetireAndSparesEnter : ¬ Obligations.UnitsRetireAndSparesEnter := by
  unfold Obligations.UnitsRetireAndSparesEnter
  intro h
  obtain ⟨-, hretire, -⟩ := h 0 listedTwice (by decide)
  obtain ⟨-, hfault⟩ := hretire (by decide) (by decide) (by decide) (by decide)
  obtain ⟨-, hrunning⟩ := hfault (by decide) (by decide) (by decide)
  obtain ⟨t, hexec, hitem, -⟩ := hrunning 7 (copyItem 0) 24 (by decide +kernel) (by decide) (by decide) (by decide)
    (fun b hb => by cases buddy_listedTwice.symm.trans hb; decide) firstBefore_listedTwice
  cases (exec_cuFaultRetire (by decide) (by decide) (by decide)).symm.trans hexec
  have howner : (stoppedItem.restarted 1).owner = uSite 24 :=
    congrArg Item.owner (Option.some.inj (retire_listedTwice.symm.trans hitem))
  exact absurd howner (by decide)

end Sys2Proof.Proofs
end

section
/-! The elements of a tile (spec/03_stations_and_streams.md R74, spec/06_arithmetic.md R157): a bit field of a byte string
is a field of its little-endian number, and packing puts each element in its field. -/

namespace Sys2Proof.Proofs

open Sys2Proof.Laws Sys2Proof.Machine

/-! ### Fields of a byte string -/

theorem leNat_append (as bs : List Byte) : leNat (as ++ bs) = leNat as + 256 ^ as.length * leNat bs := by
  induction as with
  | nil => simp [leNat]
  | cons a as ih =>
    rw [List.cons_append, leNat, leNat, ih, List.length_cons, pow_succ']
    ring

theorem leNat_replicate_zero (n : Nat) : leNat (List.replicate n 0) = 0 := by
  induction n with
  | zero => rfl
  | succ n ih =>
    rw [List.replicate_succ, leNat, ih]
    rfl

theorem leNat_leBytes (w v : Nat) : leNat (leBytes w v) = v % 256 ^ w := by
  induction w generalizing v with
  | zero => simp [leBytes, leNat, Nat.mod_one]
  | succ w ih =>
    have hbyte : (BitVec.ofNat 8 v).toNat = v % 256 := BitVec.toNat_ofNat v 8
    rw [leBytes, leNat, ih, hbyte, pow_succ', Nat.mod_mul]

theorem leNat_drop (bs : List Byte) (n : Nat) : leNat (bs.drop n) = leNat bs / 256 ^ n := by
  rcases Nat.lt_or_ge bs.length n with hn | hn
  · have hlt : leNat bs < 256 ^ n := (leNat_lt bs).trans (Nat.pow_lt_pow_right (by decide) hn)
    rw [List.drop_eq_nil_of_le hn.le, Nat.div_eq_of_lt hlt, leNat]
  · have hlen : (bs.take n).length = n := List.length_take_of_le hn
    have hlt := leNat_lt (bs.take n)
    have happ := leNat_append (bs.take n) (bs.drop n)
    rw [List.take_append_drop, hlen] at happ
    rw [hlen] at hlt
    rw [happ, Nat.add_mul_div_left _ _ (Nat.pow_pos (by decide)), Nat.div_eq_of_lt hlt, Nat.zero_add]

theorem leNat_take (bs : List Byte) (n : Nat) : leNat (bs.take n) = leNat bs % 256 ^ n := by
  rcases Nat.lt_or_ge bs.length n with hn | hn
  · have hlt : leNat bs < 256 ^ n := (leNat_lt bs).trans (Nat.pow_lt_pow_right (by decide) hn)
    rw [List.take_of_length_le hn.le, Nat.mod_eq_of_lt hlt]
  · have hlen : (bs.take n).length = n := List.length_take_of_le hn
    have hlt := leNat_lt (bs.take n)
    have happ := leNat_append (bs.take n) (bs.drop n)
    rw [List.take_append_drop, hlen] at happ
    rw [hlen] at hlt
    rw [happ, Nat.add_mul_mod_self_left, Nat.mod_eq_of_lt hlt]

/-- A field of at most 33 bits lies in the five bytes read for it. -/
theorem streamBits_eq (bs : List Byte) (o : Nat) {w : Nat} (hw : w ≤ 33) :
    streamBits bs o w = leNat bs / 2 ^ o % 2 ^ w := by
  have hbyte (n : Nat) : (256 : Nat) ^ n = 2 ^ (8 * n) := (pow_mul 2 8 n).symm
  have h40 : (2 : Nat) ^ (8 * 5) = 2 ^ (o % 8) * 2 ^ (40 - o % 8) := by
    rw [← pow_add]
    congr 1
    omega
  have ho : (2 : Nat) ^ o = 2 ^ (8 * (o / 8)) * 2 ^ (o % 8) := by
    rw [← pow_add, Nat.div_add_mod]
  rw [streamBits, fieldAt, leNat_take, leNat_drop, hbyte, hbyte, h40, Nat.mod_mul_right_div_self, Nat.div_div_eq_div_mul,
    ← ho, Nat.mod_mod_of_dvd _ (pow_dvd_pow 2 (by omega))]

/-! ### Packed elements -/

/-- The number whose fields of w bits are the elements. -/
def packNum (w : Nat) (vs : List Nat) : Nat := vs.foldr (fun v acc => v % 2 ^ w + 2 ^ w * acc) 0

theorem packNum_cons (w v : Nat) (vs : List Nat) : packNum w (v :: vs) = v % 2 ^ w + 2 ^ w * packNum w vs := rfl

theorem packNum_lt (w : Nat) (vs : List Nat) : packNum w vs < 2 ^ (vs.length * w) := by
  induction vs with
  | nil => exact Nat.two_pow_pos _
  | cons v vs ih =>
    have hv : v % 2 ^ w < 2 ^ w := Nat.mod_lt _ (Nat.two_pow_pos w)
    calc packNum w (v :: vs) = v % 2 ^ w + 2 ^ w * packNum w vs := packNum_cons w v vs
      _ < 2 ^ w * (packNum w vs + 1) := by rw [Nat.mul_add]; omega
      _ ≤ 2 ^ w * 2 ^ (vs.length * w) := Nat.mul_le_mul_left _ ih
      _ = 2 ^ ((v :: vs).length * w) := by rw [← pow_add, List.length_cons]; ring

/-- Field k is element k, cut to its width. -/
theorem packNum_field (w : Nat) (vs : List Nat) (k : Nat) :
    packNum w vs / 2 ^ (k * w) % 2 ^ w = vs.getD k 0 % 2 ^ w := by
  induction vs generalizing k with
  | nil => simp [packNum]
  | cons v vs ih =>
    rw [packNum_cons]
    cases k with
    | zero => simp
    | succ k =>
      have hv : v % 2 ^ w < 2 ^ w := Nat.mod_lt _ (Nat.two_pow_pos w)
      rw [Nat.succ_mul, Nat.add_comm (k * w), pow_add, ← Nat.div_div_eq_div_mul,
        Nat.add_mul_div_left _ _ (Nat.two_pow_pos w), Nat.div_eq_of_lt hv, Nat.zero_add, ih, List.getD_cons_succ]

theorem leNat_packElems (w : Nat) (vs : List Nat) : leNat (packElems w vs) = packNum w vs := by
  have hbits : vs.length * w ≤ 8 * ceilDiv (vs.length * w) 8 := by
    unfold ceilDiv
    omega
  have hlt : packNum w vs < 256 ^ ceilDiv (vs.length * w) 8 :=
    calc packNum w vs < 2 ^ (vs.length * w) := packNum_lt w vs
      _ ≤ 2 ^ (8 * ceilDiv (vs.length * w) 8) := Nat.pow_le_pow_right (by decide) hbits
      _ = 256 ^ ceilDiv (vs.length * w) 8 := pow_mul 2 8 _
  exact (leNat_leBytes _ _).trans (Nat.mod_eq_of_lt hlt)

/-! ### Elements of a tile -/

theorem elemBits_le (fmt : Nat) : elemBits fmt ≤ 32 := by
  unfold elemBits fmtKind
  split
  · next h => split at h <;> cases h <;> decide
  · exact Nat.zero_le _

/-- A tile holds the elements given within its rows and columns, and zeros elsewhere (R74). -/
theorem elemRaw_tileElems (fmt rows cols : Nat) (f : Nat → Nat → Nat) {i k : Nat} (hi : i < 64) (hk : k < 64) :
    elemRaw fmt (tileElems fmt rows cols f) i k = if i < rows ∧ k < cols then f i k % 2 ^ elemBits fmt else 0 := by
  have hrow : (i * 64 + k) / 64 = i := by omega
  have hcol : (i * 64 + k) % 64 = k := by omega
  rw [elemRaw, streamBits_eq _ _ ((elemBits_le fmt).trans (by decide)), tileElems, leNat_append, leNat_replicate_zero,
    Nat.mul_zero, Nat.add_zero, leNat_packElems, packNum_field, List.getD_eq_getElem _ _ (by simp; omega),
    List.getElem_map, List.getElem_range, hrow, hcol]
  split
  · rfl
  · exact Nat.zero_mod _

end Sys2Proof.Proofs
end

section
/-! The head of the matrix engine's queue (spec/05_matrix_engine.md R132, R135, R138): an operation that starts, and one
that is rejected. -/

namespace Sys2Proof.Proofs

open Sys2Proof.Laws Sys2Proof.Machine

/-- A unit that advances is a site of a C-die, so that its engine has a page. -/
theorem blockAt_uMxe {s : State} {u : Nat} (hadv : advances s u = true) : blockAt (uMxe u) = some (.mxe, uSite u) := by
  have hdie : uDie u < s.fuses.variant.cdies := by
    simp only [advances, inService, siteHere, hasCdie, Bool.and_eq_true, decide_eq_true_eq] at hadv
    obtain ⟨⟨⟨⟨⟨hdie, -⟩, -⟩, -⟩, -⟩, -⟩ := hadv
    exact hdie
  have hcdies : s.fuses.variant.cdies ≤ 2 := by cases s.fuses.variant <;> decide
  have hsite : uSite u < 576 := Nat.mod_lt _ (by decide)
  have hr : uMxe u / 8192 = uDie u := by
    unfold uMxe pgMxe pageNo
    omega
  have hi : uMxe u % 8192 = 4 * uSite u + 0x1001 := by
    unfold uMxe pgMxe pageNo
    omega
  have hunit : 4 * uSite u + 0x1001 < 0x1000 + 4 * 576 := by omega
  have hlow : ∀ n ≤ 96, ¬ 4 * uSite u + 0x1001 < n := fun n hn => by omega
  have hat : (4 * uSite u + 1) / 4 = uSite u := by omega
  obtain hd | hd : uDie u = 0 ∨ uDie u = 1 := by omega
  · simp [blockAt, hr, hi, hd, hunit, hlow, hat]
  · simp [blockAt, hr, hi, hd, hunit, hlow, hat]

/-- A descriptor that passes R135 has a block. -/
theorem kb_ne_zero_of_mxCheck {d : MxDesc} {lo hi : Nat} (h : mxCheck d lo hi = none) : d.kb ≠ 0 := by
  intro hkb
  unfold mxCheck at h
  simp only [hkb, true_or, or_true, if_true] at h
  split_ifs at h

theorem opCheck_desc (s : State) (it : Item) {o : MxOp} {b : List Byte} (hsrc : o.src = .desc b) :
    opCheck s it o = mxCheck (mxDesc b) (slotBase it) (slotBase it + slotSize it) := by
  rw [opCheck, hsrc]

/-- Without SLABKEEP every block is loaded, and the last one's slab is held (R138). -/
theorem slabLoads_slab (keepEn : Bool) (item : Nat) {d : MxDesc} (slab : Option (Nat × Nat × Nat)) (hkeep : d.keep = false)
    (hkb : d.kb ≠ 0) : (slabLoads keepEn item d slab).2.2 = some (item, d.addrB + (d.kb - 1) * d.kstrB, d.fmtB) := by
  obtain ⟨n, hn⟩ := Nat.exists_eq_succ_of_ne_zero hkb
  simp [slabLoads, hn, hkeep, List.range_succ]

/-- A fault of a group writes GRP_FAULT, if it holds none yet, counts an event, and ends the group's item. -/
theorem groupFault_eq {s : State} {u h : Nat} {g : Group} {it : Item} (cause tag : Nat) (hg : s.grp u h = some g)
    (hit : s.item g.item = some it) : ∃ y, quietPower y = quietPower s ∧
      (∀ a, a ≠ regAddr (uGrp u) 0x110 → y.reg a = s.reg a) ∧
      groupFault s u h cause tag =
        y.setItem g.item (some { it with log := [], err := some (it.err.getD (stGrpFault, cause, tag)) }) := by
  simp only [groupFault, hg, hit]
  refine ⟨_, (quietPower_of (countEv_quiet _ _ _ _)).trans ?_, fun a ha => (countEv_reg _ _ _ _ _).trans ?_, rfl⟩
  · split
    · rfl
    · exact setReg_quietPower _ _ _
  · split
    · rfl
    · rw [setReg_reg, if_neg ha]

/-- A fault of a group ends the group's item; of the registers it writes GRP_FAULT alone. -/
theorem groupFault_effect {s : State} {u h : Nat} {g : Group} {it : Item} (cause tag : Nat) (hg : s.grp u h = some g)
    (hit : s.item g.item = some it) :
    (∀ a, a ≠ regAddr (uGrp u) 0x110 → (groupFault s u h cause tag).reg a = s.reg a) ∧
    (∀ p, (groupFault s u h cause tag).err p = s.err p) ∧ (groupFault s u h cause tag).ls = s.ls ∧
    (groupFault s u h cause tag).groups = s.groups ∧ (∀ v, (groupFault s u h cause tag).cu v = s.cu v) ∧
    (groupFault s u h cause tag).item g.item =
      some { it with log := [], err := some (it.err.getD (stGrpFault, cause, tag)) } := by
  obtain ⟨y, hq, hreg, heq⟩ := groupFault_eq cause tag hg hit
  rw [heq]
  refine ⟨fun a ha => ?_, fun p => ?_, (congrArg State.ls hq :), (congrArg State.groups hq :), fun v => ?_, ?_⟩
  · rw [setItem_reg, hreg a ha]
  · exact (congrArg (fun z => State.err z p) hq :)
  · exact (congrArg (fun z => State.cu z v) hq :)
  · rw [setItem_item, if_pos rfl]

section
variable {s : State} {u : Nat} {o : MxOp} {it : Item} (hlive : live s = true) (hadv : advances s u = true)
  (hit : s.item o.item = some it)
include hlive hadv hit

theorem exec_mxeOpStart_rejected {cause : Nat} (hnext : nextOp (s.cu u) = some o) (hcheck : opCheck s it o = some cause) :
    exec (.mxeOpStart u) s = .next (rejectOp s u it o cause) := by
  show execMxeOpStart u s = _
  simp [execMxeOpStart, whenLive, hlive, hadv, hnext, hit, hcheck]

theorem exec_mxeOpStart_starts {b : List Byte} (hnext : nextOp (s.cu u) = some o) (hsrc : o.src = .desc b)
    (hcheck : opCheck s it o = none) : ∃ loads hits, exec (.mxeOpStart u) s =
      .next (countEv (countEv (s.setCu u { s.cu u with
        mxq := updFirst (fun x => !x.started) (fun x => { x with started := true }) (s.cu u).mxq,
        slab := (slabLoads (bit 0 (s.reg (regAddr (uMxe u) 0x110))) o.item (mxDesc b) (s.cu u).slab).2.2 })
        (uMxe u) 2 loads) (uMxe u) 5 hits) := by
  have hexec : exec (.mxeOpStart u) s = execMxeOpStart u s := rfl
  simp only [hexec, execMxeOpStart, whenLive, hlive, hadv, hnext, hit, hcheck, hsrc]
  exact ⟨_, _, rfl⟩

end

/-- What the rejection of an operation records: MXE_LASTERR and DESCERR. -/
def recordReject (s : State) (u : Nat) (it : Item) (o : MxOp) (cause : Nat) : State :=
  raiseWith (s.setReg (regAddr (uMxe u) 0x118) (BitVec.ofNat 64 (cause * 256 + o.group % 64))) (uMxe u) 8
    ⟨none, uSite u, some (it.job, it.step), false⟩

/-- The queue without the group's operations that have not started. -/
def withoutWaiting (o : MxOp) (q : List MxOp) : List MxOp :=
  q.filter (fun x => x.started || !(x.item == o.item && x.group == o.group))

/-- The operations of the group that have not started are dropped. -/
def dropWaiting (s : State) (u : Nat) (o : MxOp) : State :=
  s.setCu u { s.cu u with mxq := withoutWaiting o (s.cu u).mxq }

theorem rejectOp_eq (s : State) (u : Nat) (it : Item) (o : MxOp) (cause : Nat) :
    rejectOp s u it o cause = groupFault (dropWaiting (recordReject s u it o cause) u o) u o.group 3 0 := rfl

/-- What the rejection of an operation records, drops and leaves (R135). -/
theorem rejectOp_effect {s : State} {u : Nat} {o : MxOp} {it : Item} {g : Group} (cause : Nat)
    (hpage : blockAt (uMxe u) = some (.mxe, uSite u)) (hit : s.item o.item = some it) (hg : s.grp u o.group = some g)
    (hitem : g.item = o.item) :
    (rejectOp s u it o cause).reg (regAddr (uMxe u) 0x118) = BitVec.ofNat 64 (cause * 256 + o.group % 64) ∧
    (rejectOp s u it o cause).err (uMxe u) = setBit 8 (s.err (uMxe u)) true ∧ (rejectOp s u it o cause).ls = s.ls ∧
    (rejectOp s u it o cause).groups = s.groups ∧
    ((rejectOp s u it o cause).cu u).mxq = withoutWaiting o (s.cu u).mxq ∧
    (rejectOp s u it o cause).item o.item = some { it with log := [], err := some (it.err.getD (stGrpFault, 3, 0)) } := by
  have hne : regAddr (uMxe u) 0x118 ≠ regAddr (uGrp u) 0x110 := fun h =>
    absurd ((regAddr_inj (by decide) (by decide)).mp h).2 (by decide)
  rw [rejectOp_eq, recordReject]
  generalize regAddr (uMxe u) 0x118 = a at *
  generalize BitVec.ofNat 64 (cause * 256 + o.group % 64) = v
  generalize (⟨none, uSite u, some (it.job, it.step), false⟩ : ErrInfo) = e
  have herr : (raiseWith (s.setReg a v) (uMxe u) 8 e).err (uMxe u) = setBit 8 (s.err (uMxe u)) true := by
    rw [raiseWith_err _ _ _ _ _ _ _ hpage, if_pos rfl, setReg_err]
  have hreg : (raiseWith (s.setReg a v) (uMxe u) 8 e).reg a = v := by rw [raiseWith_reg, setReg_reg, if_pos rfl]
  have hls := (raiseWith_ls (s.setReg a v) (uMxe u) 8 e).trans (setReg_ls s a v)
  have hgroups := (raiseWith_groups (s.setReg a v) (uMxe u) 8 e).trans (setReg_groups s a v)
  have hgrp := (raiseWith_grp (s.setReg a v) (uMxe u) 8 e u o.group).trans (setReg_grp s a v _ _)
  have hcu := (raiseWith_cu (s.setReg a v) (uMxe u) 8 e u).trans (setReg_cu s a v u)
  have hyitem := (raiseWith_item (s.setReg a v) (uMxe u) 8 e o.item).trans (setReg_item s a v _)
  generalize raiseWith (s.setReg a v) (uMxe u) 8 e = y at *
  obtain ⟨hfreg, hferr, hfls, hfgroups, hfcu, hfitem⟩ := groupFault_effect (s := dropWaiting y u o) (u := u) (h := o.group)
    (g := g) (it := it) 3 0 (hgrp.trans hg) (by rw [hitem]; exact hyitem.trans hit)
  rw [hfreg a hne, hferr, hfls, hfgroups, hfcu, ← hitem, hfitem, dropWaiting, setCu_cu, if_pos rfl, hcu]
  exact ⟨hreg, herr, hls, hgroups, rfl, rfl⟩

/-- An operation that passes R135 starts; without SLABKEEP the engine holds its last slab (R138). -/
theorem mxeOpStart_effect {s : State} {u : Nat} {o : MxOp} {it : Item} {b : List Byte} (hlive : live s = true)
    (hadv : advances s u = true) (hit : s.item o.item = some it) (hnext : nextOp (s.cu u) = some o) (hsrc : o.src = .desc b)
    (hcheck : mxCheck (mxDesc b) (slotBase it) (slotBase it + slotSize it) = none) :
    ∃ t, exec (.mxeOpStart u) s = .next t ∧ t.regs = s.regs ∧ t.items = s.items ∧ t.groups = s.groups ∧ t.ls = s.ls ∧
      (t.cu u).mxq = updFirst (fun x => !x.started) (fun x => { x with started := true }) (s.cu u).mxq ∧
      ((mxDesc b).keep = false → (t.cu u).slab =
        some (o.item, (mxDesc b).addrB + ((mxDesc b).kb - 1) * (mxDesc b).kstrB, (mxDesc b).fmtB)) := by
  obtain ⟨loads, hits, hexec⟩ :=
    exec_mxeOpStart_starts hlive hadv hit hnext hsrc ((opCheck_desc s it hsrc).trans hcheck)
  refine ⟨_, hexec, ?_, ?_, ?_, ?_, ?_, fun hkeep => ?_⟩
  · rw [countEv_regs, countEv_regs, setCu_regs]
  · rw [countEv_items, countEv_items, setCu_items]
  · rw [countEv_groups, countEv_groups, setCu_groups]
  · rw [countEv_ls, countEv_ls, setCu_ls]
  · rw [countEv_cu, countEv_cu, setCu_cu, if_pos rfl]
  · rw [countEv_cu, countEv_cu, setCu_cu, if_pos rfl]
    exact slabLoads_slab _ _ _ hkeep (kb_ne_zero_of_mxCheck hcheck)

end Sys2Proof.Proofs
end

section
/-! Completion of an operation of the matrix engine (spec/05_matrix_engine.md R134, R137, R143, R146, R149): what it
writes into local store, the completion counter, and the operations that follow into the queue. -/

namespace Sys2Proof.Proofs

open Sys2Proof.Laws Sys2Proof.Machine

/-! ### Local store -/

theorem lsBytes_congr {s t : State} (h : s.ls = t.ls) (u a n : Nat) : lsBytes s u a n = lsBytes t u a n := by
  induction n generalizing a with
  | zero => rfl
  | succ n ih => rw [lsBytes, lsBytes, ih, lsByte, lsByte, h]

theorem lsPuts_ls_congr {s t : State} (h : s.ls = t.ls) (u a : Nat) (bs : List Byte) :
    (lsPuts s u a bs).ls = (lsPuts t u a bs).ls := by
  induction bs generalizing s t a with
  | nil => exact h
  | cons b bs ih => exact ih (congrArg (fun m => SMap.put (fun _ => 0) m (u * 2 ^ 23 + a) b) h) _

/-- A write of local store writes the bytes, and may clear the tag of a held slab. -/
theorem lsStore_eq (s : State) (u a : Nat) (bs : List Byte) : lsStore s u a bs = lsPuts s u a bs ∨
    lsStore s u a bs = (lsPuts s u a bs).setCu u { (lsPuts s u a bs).cu u with slab := none } := by
  unfold lsStore
  dsimp only
  split
  · split
    · exact .inr rfl
    · exact .inl rfl
  · exact .inl rfl

theorem lsStore_ls_congr {s t : State} (h : s.ls = t.ls) (u a : Nat) (bs : List Byte) :
    (lsStore s u a bs).ls = (lsStore t u a bs).ls := by
  have hls (x : State) : (lsStore x u a bs).ls = (lsPuts x u a bs).ls := by
    obtain hx | hx := lsStore_eq x u a bs
    · rw [hx]
    · rw [hx, setCu_ls]
  rw [hls, hls, lsPuts_ls_congr h]

/-- The state but for local store and the units. -/
def quietLs (s : State) : State := { s with ls := [], lsWritten := [], units := [] }

theorem lsPuts_quietLs (s : State) (u a : Nat) (bs : List Byte) : quietLs (lsPuts s u a bs) = quietLs s := by
  induction bs generalizing s a with
  | nil => rfl
  | cons b bs ih => exact (ih _ _).trans rfl

theorem lsPuts_units (s : State) (u a : Nat) (bs : List Byte) : (lsPuts s u a bs).units = s.units := by
  induction bs generalizing s a with
  | nil => rfl
  | cons b bs ih => exact (ih _ _).trans rfl

theorem lsStore_quietLs (s : State) (u a : Nat) (bs : List Byte) : quietLs (lsStore s u a bs) = quietLs s := by
  have h := lsPuts_quietLs s u a bs
  obtain hx | hx := lsStore_eq s u a bs
  · rw [hx, h]
  · rw [hx]
    exact h

theorem lsStore_mxq (s : State) (u a : Nat) (bs : List Byte) : ((lsStore s u a bs).cu u).mxq = (s.cu u).mxq := by
  have h : (lsPuts s u a bs).cu u = s.cu u := by rw [State.cu, lsPuts_units, State.cu]
  obtain hx | hx := lsStore_eq s u a bs
  · rw [hx, h]
  · rw [hx, setCu_cu, if_pos rfl, h]

/-! ### The results of an operation -/

theorem mxTiles_congr {s t : State} (h : s.ls = t.ls) (u : Nat) (d : MxDesc) : mxTiles s u d = mxTiles t u d := by
  simp only [mxTiles, lsTile, lsBytes_congr h]

theorem mxStack_congr {s t : State} (h : s.ls = t.ls) (u : Nat) (it : Item) (d : MxDesc) (x : MxTiles) (m n : Nat) :
    mxStack s u it d x m n = mxStack t u it d x m n := by
  simp only [mxStack, lsBytes_congr h]

/-- What every write of local store keeps, the results of an operation keep. -/
theorem mxWrite_induction {P : State → Prop} {u : Nat} (hstore : ∀ t a bs, P t → P (lsStore t u a bs)) {s : State}
    (h : P s) (it : Item) (d : MxDesc) (x : MxTiles) : P (mxWrite s u it d x) := by
  unfold mxWrite
  extract_lets r grid at_ s1
  have h1 : P s1 := List.foldlRecOn _ _ h fun _ hz l _ => List.foldlRecOn _ _ hz fun _ hy m _ =>
    List.foldlRecOn _ _ hy fun _ hx n _ => hstore _ _ _ hx
  split
  · exact List.foldlRecOn _ _ h1 fun _ hz q _ => hstore _ _ _ hz
  · exact h1

/-- The results of an operation depend on local store alone. -/
theorem mxWrite_ls_congr {s t : State} (h : s.ls = t.ls) (u : Nat) (it : Item) (d : MxDesc) (x : MxTiles) :
    (mxWrite s u it d x).ls = (mxWrite t u it d x).ls := by
  have hstore {y z : State} (hyz : y.ls = z.ls) (a : Nat) (bs : List Byte) := lsStore_ls_congr hyz u a bs
  unfold mxWrite
  simp -zeta only [mxStack_congr h]
  extract_lets r grid at_ s1 t1
  have h1 : s1.ls = t1.ls := List.foldl_rel (r := fun y z : State => y.ls = z.ls) h fun l _ _ _ hl =>
    List.foldl_rel (r := fun y z : State => y.ls = z.ls) hl fun m _ _ _ hm =>
      List.foldl_rel (r := fun y z : State => y.ls = z.ls) hm fun n _ _ _ hn => hstore hn _ _
  split
  · exact List.foldl_rel (r := fun y z : State => y.ls = z.ls) h1 fun q _ _ _ hq => hstore hq _ _
  · exact h1

theorem mxExecute_eq (s : State) (u : Nat) (it : Item) (d : MxDesc) : ∃ rows wide lanes,
    mxExecute s u it d = countEv (countEv (countEv (mxWrite s u it d (mxTiles s u d)) (uMxe u) 1 rows) (uMxe u) 3 wide)
      (uMxe u) 4 lanes := ⟨_, _, _, rfl⟩

/-- Local store holds the results of an executed operation; groups, registers and queues are as they were. -/
theorem mxExecute_effect (s : State) (u : Nat) (it : Item) (d : MxDesc) :
    (mxExecute s u it d).ls = (mxWrite s u it d (mxTiles s u d)).ls ∧ (mxExecute s u it d).groups = s.groups ∧
    (mxExecute s u it d).vregs = s.vregs ∧ (mxExecute s u it d).regs = s.regs ∧
    ((mxExecute s u it d).cu u).mxq = (s.cu u).mxq := by
  obtain ⟨rows, wide, lanes, heq⟩ := mxExecute_eq s u it d
  have hq : quietLs (mxWrite s u it d (mxTiles s u d)) = quietLs s :=
    mxWrite_induction (fun t a bs ht => (lsStore_quietLs t u a bs).trans ht) rfl it d _
  have hmxq : ((mxWrite s u it d (mxTiles s u d)).cu u).mxq = (s.cu u).mxq :=
    mxWrite_induction (P := fun t => (t.cu u).mxq = (s.cu u).mxq) (fun t a bs ht => (lsStore_mxq t u a bs).trans ht) rfl
      it d _
  generalize mxWrite s u it d (mxTiles s u d) = w at *
  rw [heq]
  refine ⟨?_, ?_, ?_, ?_, ?_⟩
  · rw [countEv_ls, countEv_ls, countEv_ls]
  · rw [countEv_groups, countEv_groups, countEv_groups]
    exact (congrArg State.groups hq :)
  · rw [countEv_vregs, countEv_vregs, countEv_vregs]
    exact (congrArg State.vregs hq :)
  · rw [countEv_regs, countEv_regs, countEv_regs]
    exact (congrArg State.regs hq :)
  · rw [countEv_cu, countEv_cu, countEv_cu, hmxq]

/-! ### The device's programs follow -/

/-- The state but for the items and the units. -/
def quietFed (s : State) : State := { s with items := [], units := [] }

/-- What a state becomes when the device's program of an item issues an operation. -/
def issueOp (s : State) (u n : Nat) (it : Item) (op : MxOp) : State :=
  (s.setCu u { s.cu u with mxq := (s.cu u).mxq ++ [op] }).setItem n (some { it with issued := it.issued + 1 })

/-- The device's program of an item issues an operation and goes on, or is done. -/
theorem feedMatrix_succ (f : Nat) (s : State) (u n : Nat) : feedMatrix (f + 1) s u n = s ∨
    ∃ it op, s.item n = some it ∧ feedMatrix (f + 1) s u n = feedMatrix f (issueOp s u n it op) u n := by
  rw [feedMatrix]
  split
  · exact .inl rfl
  · next it hit =>
    split
    · exact .inl rfl
    · split
      · exact .inl rfl
      · dsimp only
        split
        · exact .inl rfl
        · split
          · exact .inl rfl
          · exact .inr ⟨it, _, hit, rfl⟩

/-- What an issue keeps, the device's programs keep. -/
theorem feedAll_induction {P : State → Prop} {u : Nat}
    (hissue : ∀ t n it op, t.item n = some it → P t → P (issueOp t u n it op)) {s : State} (h : P s) : P (feedAll s u) := by
  have hfeed (f : Nat) (t : State) (n : Nat) (ht : P t) : P (feedMatrix f t u n) := by
    induction f generalizing t with
    | zero => exact ht
    | succ f ih =>
      obtain heq | ⟨it, op, hit, heq⟩ := feedMatrix_succ f t u n
      · rwa [heq]
      · rw [heq]
        exact ih _ (hissue t n it op hit ht)
  exact List.foldlRecOn _ _ h fun _ ht p _ => hfeed _ _ _ ht

theorem setCu_quietFed (s : State) (u : Nat) (c : CuSt) : quietFed (s.setCu u c) = quietFed s := rfl
theorem setItem_quietFed (s : State) (n : Nat) (v : Option Item) : quietFed (s.setItem n v) = quietFed s := rfl

theorem feedAll_quietFed (s : State) (u : Nat) : quietFed (feedAll s u) = quietFed s :=
  feedAll_induction (P := fun t => quietFed t = quietFed s)
    (fun _ _ _ _ _ ht => (setItem_quietFed _ _ _).trans ((setCu_quietFed _ _ _).trans ht)) rfl

/-- Operations follow behind those in the queue. -/
theorem feedAll_mxq (s : State) (u : Nat) : ∃ more, ((feedAll s u).cu u).mxq = (s.cu u).mxq ++ more := by
  refine feedAll_induction (P := fun t => ∃ more, (t.cu u).mxq = (s.cu u).mxq ++ more) (fun t n it op _ ht => ?_)
    ⟨[], (List.append_nil _).symm⟩
  obtain ⟨more, hmore⟩ := ht
  refine ⟨more ++ [op], ?_⟩
  rw [issueOp, setItem_cu, setCu_cu, if_pos rfl, ← List.append_assoc, ← hmore]

theorem feedAll_item {s : State} {n : Nat} {it : Item} (u : Nat) (hit : s.item n = some it) :
    ∃ x, (feedAll s u).item n = some x ∧ unissued x = unissued it := by
  have h := congrFun (congrArg Prod.fst (feedAll_fedWork s u)) n
  simp only [fedWork, hit, Option.map_some, Option.map_eq_some_iff] at h
  exact h

/-! ### An operation completes -/

/-- A group with one more of its operations completed (R146). -/
def countedGroup (g : Group) : Group :=
  let g1 := { g with ctr := (g.ctr + 1) % 65536 }
  match g.wait with
  | .mx n => if ctrMet g1.ctr n then { g1 with wait := .none, pc := (g.pc + 1) % 2 ^ 32 } else g1
  | _ => g1

theorem opCounted_eq {s : State} {u h : Nat} {g : Group} (hg : s.grp u h = some g) :
    opCounted s u h = s.setGrp u h (some (countedGroup g)) := by
  cases hw : g.wait <;> simp only [opCounted, hg, countedGroup, hw]
  all_goals rfl

/-- The state in which an operation is done, from the one that holds its results. -/
def opDone (s : State) (u h : Nat) : State := feedAll (opCounted (countEv s (uMxe u) 6 1) u h) u

/-- The group is counted, operations may follow into the queue, items may have more operations issued, and nothing else of
local store and registers changes. -/
theorem opDone_effect {s : State} {u h : Nat} {g : Group} (hg : s.grp u h = some g) :
    (∃ more, ((opDone s u h).cu u).mxq = (s.cu u).mxq ++ more) ∧ (opDone s u h).grp u h = some (countedGroup g) ∧
    (opDone s u h).vregs = s.vregs ∧ (opDone s u h).regs = s.regs ∧ (opDone s u h).ls = s.ls ∧
    (∀ n it, s.item n = some it → ∃ x, (opDone s u h).item n = some x ∧ unissued x = unissued it) := by
  have hq := countEv_quiet s (uMxe u) 6 1
  have hgc := (countEv_grp s (uMxe u) 6 1 u h).trans hg
  have hcu := countEv_cu s (uMxe u) 6 1 u
  have hitem := countEv_item s (uMxe u) 6 1
  have hvregs := countEv_vregs s (uMxe u) 6 1
  have hregs := countEv_regs s (uMxe u) 6 1
  have hls := countEv_ls s (uMxe u) 6 1
  unfold opDone
  generalize countEv s (uMxe u) 6 1 = c at *
  rw [opCounted_eq hgc]
  generalize hy : c.setGrp u h (some (countedGroup g)) = y
  have hf := feedAll_quietFed y u
  have hmxq := feedAll_mxq y u
  have hfitem {n : Nat} {it : Item} := feedAll_item (s := y) (n := n) (it := it) u
  generalize feedAll y u = t at *
  subst hy
  refine ⟨?_, ?_, ?_, ?_, ?_, fun n it hit => hfitem ?_⟩
  · rwa [setGrp_cu, hcu] at hmxq
  · have hgrp : t.grp u h = (c.setGrp u h (some (countedGroup g))).grp u h := (congrArg (fun z => State.grp z u h) hf :)
    rw [hgrp, setGrp_grp, if_pos rfl]
  · exact Eq.trans (congrArg State.vregs hf :) hvregs
  · exact Eq.trans (congrArg State.regs hf :) hregs
  · exact Eq.trans (congrArg State.ls hf :) hls
  · rw [setGrp_item, hitem, hit]

/-- The operation at the head leaves the queue. -/
def takeOp (s : State) (u : Nat) (rest : List MxOp) : State := s.setCu u { s.cu u with mxq := rest }

section
variable {s : State} {u : Nat} {o : MxOp} {it : Item} {rest : List MxOp} (hlive : live s = true)
  (hadv : advances s u = true) (hit : s.item o.item = some it) (hq : (s.cu u).mxq = o :: rest)
  (hstarted : o.started = true) (harmed : armedAt s (uCu u) 9 = false)
include hlive hadv hit hq hstarted harmed

theorem exec_mxeOpComplete_desc {b : List Byte} (hsrc : o.src = .desc b) : ∃ n, exec (.mxeOpComplete u) s =
    .next (opDone (mxExecute (takeOp (countEv s (uCu u) 0x26 n) u rest) u it (mxDesc b)) u o.group) := by
  have hexec : exec (.mxeOpComplete u) s = execMxeOpComplete u s := rfl
  simp only [hexec, execMxeOpComplete, whenLive, hlive, hadv, hq, hit, hstarted, hsrc, lsRead, harmed]
  exact ⟨_, rfl⟩

theorem exec_mxeOpComplete_dev {c r n kb0 kb : Nat} (hsrc : o.src = .dev c r n kb0 kb) :
    ∃ k, exec (.mxeOpComplete u) s = .next (opDone ((takeOp (countEv s (uCu u) 0x26 k) u rest).setItem o.item
      (some { it with computed := it.computed ++ devDone (takeOp (countEv s (uCu u) 0x26 k) u rest) it c r n (kb0 + kb) }))
      u o.group) := by
  have hexec : exec (.mxeOpComplete u) s = execMxeOpComplete u s := rfl
  simp only [hexec, execMxeOpComplete, whenLive, hlive, hadv, hq, hit, hstarted, hsrc, lsRead, harmed]
  exact ⟨_, rfl⟩

variable {g : Group} (hg : s.grp u o.group = some g)
include hg

/-- A completed operation of a descriptor leaves its results in local store (R134, R143, R146). -/
theorem mxeOpComplete_writes {b : List Byte} (hsrc : o.src = .desc b) : ∃ t more, exec (.mxeOpComplete u) s = .next t ∧
    (t.cu u).mxq = rest ++ more ∧ t.grp u o.group = some (countedGroup g) ∧ t.vregs = s.vregs ∧ t.regs = s.regs ∧
    (∀ a, lsByte t u a = lsByte (mxWrite s u it (mxDesc b) (mxTiles s u (mxDesc b))) u a) := by
  obtain ⟨n, hexec⟩ := exec_mxeOpComplete_desc hlive hadv hit hq hstarted harmed hsrc
  have hcls := countEv_ls s (uCu u) 0x26 n
  have hcgrp := (countEv_grp s (uCu u) 0x26 n u o.group).trans hg
  have hcvregs := countEv_vregs s (uCu u) 0x26 n
  have hcregs := countEv_regs s (uCu u) 0x26 n
  generalize countEv s (uCu u) 0x26 n = c at *
  have htls : (takeOp c u rest).ls = s.ls := hcls
  have htq : ((takeOp c u rest).cu u).mxq = rest := by rw [takeOp, setCu_cu, if_pos rfl]
  have htgrp : (takeOp c u rest).grp u o.group = some g := hcgrp
  have htvregs : (takeOp c u rest).vregs = s.vregs := hcvregs
  have htregs : (takeOp c u rest).regs = s.regs := hcregs
  generalize takeOp c u rest = y at *
  obtain ⟨hxls, hxgroups, hxvregs, hxregs, hxq⟩ := mxExecute_effect y u it (mxDesc b)
  have hxgrp : (mxExecute y u it (mxDesc b)).grp u o.group = some g := by rw [← htgrp, State.grp, hxgroups, State.grp]
  obtain ⟨⟨more, hmore⟩, hgrp, hvregs, hregs, hls, -⟩ := opDone_effect hxgrp
  refine ⟨_, more, hexec, by rw [hmore, hxq, htq], hgrp, by rw [hvregs, hxvregs, htvregs], by rw [hregs, hxregs, htregs],
    fun a => ?_⟩
  rw [lsByte, hls, hxls, mxTiles_congr htls, mxWrite_ls_congr htls, lsByte]

/-- A completed operation of the device's program marks the tiles of its run (R146, R149). -/
theorem mxeOpComplete_marks {c r n kb0 kb : Nat} (hsrc : o.src = .dev c r n kb0 kb) :
    ∃ t more x, exec (.mxeOpComplete u) s = .next t ∧ (t.cu u).mxq = rest ++ more ∧
      t.grp u o.group = some (countedGroup g) ∧ t.ls = s.ls ∧ t.item o.item = some x ∧
      x.computed = it.computed ++ devDone s it c r n (kb0 + kb) := by
  obtain ⟨k, hexec⟩ := exec_mxeOpComplete_dev hlive hadv hit hq hstarted harmed hsrc
  have hcls := countEv_ls s (uCu u) 0x26 k
  have hcgrp := (countEv_grp s (uCu u) 0x26 k u o.group).trans hg
  have hcjob := countEv_job s (uCu u) 0x26 k
  generalize countEv s (uCu u) 0x26 k = z at *
  have htls : (takeOp z u rest).ls = s.ls := hcls
  have htq : ((takeOp z u rest).cu u).mxq = rest := by rw [takeOp, setCu_cu, if_pos rfl]
  have htgrp : (takeOp z u rest).grp u o.group = some g := hcgrp
  have hdone : devDone (takeOp z u rest) it c r n (kb0 + kb) = devDone s it c r n (kb0 + kb) := by
    simp only [devDone, takeOp, setCu_job, hcjob]
  rw [hdone] at hexec
  generalize takeOp z u rest = y at *
  obtain ⟨⟨more, hmore⟩, hgrp, -, -, hls, hitem⟩ := opDone_effect (s := y.setItem o.item
    (some { it with computed := it.computed ++ devDone s it c r n (kb0 + kb) })) htgrp
  obtain ⟨x, hx, hxit⟩ := hitem o.item _ ((setItem_item _ _ _ _).trans (if_pos rfl))
  refine ⟨_, more, x, hexec, ?_, hgrp, hls.trans htls, hx, (congrArg Item.computed hxit :)⟩
  rw [hmore, setItem_cu, htq]

end

end Sys2Proof.Proofs
end

section
/-! What an access of memory can change: everything it leaves is in `quietAccess` (spec/08_cu_memory.md,
spec/09_memory_tiers.md, spec/10_coherence_and_ordering.md, spec/11_translation.md, spec/14_holarn_fabric.md R385). -/

namespace Sys2Proof.Proofs

open Sys2Proof.Laws Sys2Proof.Machine

/-- The state but for what an access of memory can change: what reporting an error changes, registers, poison, the memory
channels, caches and home slices, translations, the sump, the fabric's queues, the units, and the number of free values. -/
def quietAccess (s : State) : State :=
  { quietErr s with regs := [], poison := [], sc := [], nmcs := [], homes := [], cc := [], mmus := [], units := [],
                    sump := ⟨0, 0, 0, [], []⟩, fab := FabSt.reset, free := 0 }

theorem quietAccess_of {s t : State} (h : quietErr t = quietErr s) : quietAccess t = quietAccess s :=
  (congrArg quietAccess h :)

theorem access_foldl {α : Type} {g : State → α → State} (hg : ∀ t a, quietAccess (g t a) = quietAccess t) (l : List α)
    (s : State) : quietAccess (l.foldl g s) = quietAccess s :=
  List.foldlRecOn (motive := fun t => quietAccess t = quietAccess s) l g rfl fun t ht a _ => (hg t a).trans ht

theorem access_ite {c : Prop} [Decidable c] {s a b : State} (ha : quietAccess a = quietAccess s)
    (hb : quietAccess b = quietAccess s) : quietAccess (if c then a else b) = quietAccess s := by
  split
  · exact ha
  · exact hb

variable (s : State)

/-! ### The stores and the shared operations -/

@[simp] theorem setReg_access (a : Nat) (v : W64) : quietAccess (s.setReg a v) = quietAccess s := rfl
@[simp] theorem setPoison_access (a : Nat) (b : Bool) : quietAccess (s.setPoison a b) = quietAccess s := rfl
@[simp] theorem setNmc_access (d c : Nat) (v : NmcSt) : quietAccess (s.setNmc d c v) = quietAccess s := rfl
@[simp] theorem setScWay_access (k : Nat) (v : ScLine) : quietAccess (s.setScWay k v) = quietAccess s := rfl
@[simp] theorem setHome_access (d h : Nat) (v : HomeSt) : quietAccess (s.setHome d h v) = quietAccess s := rfl
@[simp] theorem setCcWay_access (k : Nat) (v : CcLine) : quietAccess (s.setCcWay k v) = quietAccess s := rfl
@[simp] theorem setMmu_access (d : Nat) (v : MmuSt) : quietAccess (s.setMmu d v) = quietAccess s := rfl
@[simp] theorem setCu_access (u : Nat) (c : CuSt) : quietAccess (s.setCu u c) = quietAccess s := rfl
@[simp] theorem disarm_access (p n : Nat) : quietAccess (disarm s p n) = quietAccess s := rfl
@[simp] theorem takeFree_access : quietAccess s.takeFree.2 = quietAccess s := rfl
@[simp] theorem dropFetched_access (rid : Nat) : quietAccess (dropFetched s rid) = quietAccess s := rfl
@[simp] theorem countEv_access (p src n : Nat) : quietAccess (countEv s p src n) = quietAccess s :=
  quietAccess_of (quietErr_of (countEv_quiet s p src n))
@[simp] theorem putBytes_access (a : Nat) (bs : List Byte) : quietAccess (s.putBytes a bs) = quietAccess s :=
  quietAccess_of (quietErr_of (putBytes_quiet s a bs))
theorem setByte_access (a : Nat) (b : Byte) : quietAccess (s.setByte a b) = quietAccess s := rfl
theorem fab_access (f : FabSt) : quietAccess { s with fab := f } = quietAccess s := rfl
@[simp] theorem setFlow_access (n : Nat) (f : FlowSt) : quietAccess (s.setFlow n f) = quietAccess s := by
  rw [State.setFlow, putBytes_access, setByte_access, fab_access]
@[simp] theorem raiseWith_access (p n : Nat) (e : ErrInfo) : quietAccess (raiseWith s p n e) = quietAccess s :=
  quietAccess_of (raiseWith_quietErr s p n e)
@[simp] theorem raiseInfo_access (p n i : Nat) : quietAccess (raiseInfo s p n i) = quietAccess s := by
  rw [raiseInfo, raiseWith_access]

/-! ### Memory at its home -/

@[simp] theorem armedNmc_access (p : Nat) (e : LineErr) : quietAccess (armedNmc s p e).2.2 = quietAccess s := by
  unfold armedNmc
  split_ifs <;> rfl

@[simp] theorem packageRead_access (d ch line : Nat) (e : LineErr) : quietAccess (packageRead s d ch line e) = quietAccess s := by
  unfold packageRead
  extract_lets page s1
  have h := (armedNmc_access s1 page e).trans (countEv_access s page 1 1)
  clear_value page
  generalize armedNmc s1 page e = r at h
  obtain ⟨err, inj, s2⟩ := r
  cases err with
  | none => exact h
  | ce =>
    rw [raiseWith_access, countEv_access, setReg_access, setReg_access]
    exact h
  | ue =>
    rw [raiseWith_access, setPoison_access, setReg_access, setReg_access]
    exact h

@[simp] theorem wcWriteOut_access (d ch line mask : Nat) : quietAccess (wcWriteOut s d ch line mask) = quietAccess s := by
  unfold wcWriteOut
  exact access_ite (by simp) (by simp)

@[simp] theorem channelWrite_access (a mask : Nat) : quietAccess (channelWrite s a mask) = quietAccess s := by
  unfold channelWrite
  dsimp only
  refine access_ite rfl (access_ite (by simp) (access_ite (by simp) ?_))
  split
  · exact access_ite (by simp) (by simp)
  · rw [setNmc_access]
    split
    · exact access_ite (by simp) rfl
    · rfl

@[simp] theorem memoryWrite_access (a mask : Nat) : quietAccess (memoryWrite s a mask) = quietAccess s := by
  unfold memoryWrite
  split
  · simp
  · split <;> simp
  · rfl

@[simp] theorem memoryRead_access (a : Nat) : quietAccess (memoryRead s a) = quietAccess s := by
  unfold memoryRead
  split
  · simp
  · exact access_ite (by simp) (by simp)
  · rfl

@[simp] theorem deliverPoison_access (a : Nat) : quietAccess (deliverPoison s a) = quietAccess s := by
  unfold deliverPoison
  split <;> simp

@[simp] theorem writeBack_access (a mask : Nat) : quietAccess (writeBack s a mask) = quietAccess s := by
  unfold writeBack
  dsimp only
  split <;> split <;> simp

@[simp] theorem scEvict_access (d k : Nat) : quietAccess (scEvict s d k) = quietAccess s := by
  unfold scEvict
  exact access_ite (by simp) (by simp)

@[simp] theorem scTouch_access (d a w : Nat) : quietAccess (scTouch s d a w) = quietAccess s := by
  unfold scTouch
  exact access_ite ((access_foldl (fun t v => access_ite rfl (by simp)) _ _).trans (by simp)) (by simp)

@[simp] theorem scInjected_access (d a : Nat) (dirty : Bool) : quietAccess (scInjected s d a dirty) = quietAccess s := by
  unfold scInjected
  extract_lets page info s1 s2
  have h1 : quietAccess s1 = quietAccess s := access_ite (by simp) rfl
  have h2 : quietAccess s2 = quietAccess s := access_ite (by simp [h1]) h1
  exact access_ite (by simp [h2]) h2

@[simp] theorem scRead_access (cls a m : Nat) : quietAccess (scRead s cls a m) = quietAccess s := by
  unfold scRead
  dsimp only
  split
  · rw [scTouch_access, setScWay_access]
    exact access_ite (by simp) (by simp)
  · split <;> simp

@[simp] theorem scWrite_access (cls a m : Nat) : quietAccess (scWrite s cls a m) = quietAccess s := by
  unfold scWrite
  dsimp only
  split
  · rw [scTouch_access, setScWay_access]
    exact access_ite rfl (by simp)
  · split
    · simp
    · rw [scTouch_access, setScWay_access]
      exact access_ite (by simp) (by simp)

@[simp] theorem dropCopies_access (a : Nat) : quietAccess (dropCopies s a) = quietAccess s := by
  unfold dropCopies
  dsimp only
  split
  · rfl
  · exact access_ite rfl (access_ite (by simp) (by simp))

@[simp] theorem performWrite_access (cls a mask : Nat) (data : List Byte) :
    quietAccess (performWrite s cls a mask data) = quietAccess s := by
  unfold performWrite
  extract_lets s1 s2
  have h2 : quietAccess s2 = quietAccess s := (rfl : quietAccess s2 = quietAccess s1).trans (scWrite_access s cls a mask)
  exact access_ite (by simp [h2]) h2

@[simp] theorem performRead_access (cls a m : Nat) : quietAccess (performRead s cls a m).2 = quietAccess s := by
  unfold performRead
  dsimp only
  split
  · exact access_ite (by simp) (by simp)
  · simp

@[simp] theorem homeWriteLine_access (cls a mask : Nat) (data : List Byte) :
    quietAccess (homeWriteLine s cls a mask data) = quietAccess s := by
  unfold homeWriteLine
  exact access_ite rfl (by simp)

@[simp] theorem homeReadLine_access (cls a m : Nat) : quietAccess (homeReadLine s cls a m).2 = quietAccess s := by
  unfold homeReadLine
  rw [performRead_access]
  exact access_ite (by simp) (by simp)

theorem homeReadN_access (cls f a n : Nat) : quietAccess (homeReadN cls f s a n).2.2 = quietAccess s := by
  induction f generalizing s a n with
  | zero => rfl
  | succ f ih =>
    unfold homeReadN
    split
    · rfl
    · exact (ih _ _ _).trans (homeReadLine_access _ _ _ _)

@[simp] theorem homeRead_access (cls a n : Nat) : quietAccess (homeRead s cls a n).2.2 = quietAccess s :=
  homeReadN_access s cls _ a n

theorem homeWriteN_access (cls f a : Nat) (bs : List Byte) : quietAccess (homeWriteN cls f s a bs) = quietAccess s := by
  induction f generalizing s a bs with
  | zero => rfl
  | succ f ih =>
    unfold homeWriteN
    exact access_ite rfl ((ih _ _ _).trans (homeWriteLine_access _ _ _ _ _))

/-! ### The cache of a unit -/

@[simp] theorem ccSend_access (u : Nat) (l : CcLine) : quietAccess (ccSend s u l) = quietAccess s := by
  unfold ccSend
  exact access_ite rfl (access_ite (by simp) (by simp))

@[simp] theorem ccSectorsOut_access (u line m : Nat) : quietAccess (ccSectorsOut s u line m) = quietAccess s := by
  unfold ccSectorsOut
  split
  · rfl
  · simp

@[simp] theorem ccueFires_access (u line m : Nat) : quietAccess (ccueFires s u line m) = quietAccess s := by
  unfold ccueFires
  refine access_ite rfl ?_
  split
  · rfl
  · exact access_ite (by simp) rfl

@[simp] theorem moverRead_access (u a n : Nat) : quietAccess (moverRead s u a n).2.2 = quietAccess s := by
  have hfires : quietAccess (ccueFiresOver s u a n) = quietAccess s := by
    unfold ccueFiresOver
    exact access_foldl (fun t i => access_ite (by simp) rfl) _ _
  exact (homeRead_access _ _ _ _).trans hfires

theorem moverWriteN_access (u f a : Nat) (bs : List Byte) : quietAccess (moverWriteN u f s a bs) = quietAccess s := by
  induction f generalizing s a bs with
  | zero => rfl
  | succ f ih =>
    unfold moverWriteN
    refine access_ite rfl ((ih _ _ _).trans ?_)
    rw [moverWriteLine, homeWriteLine_access, ccSectorsOut_access]

/-! ### Translation and faults -/

@[simp] theorem findLeaf_access (d aspace va : Nat) : quietAccess (findLeaf s d aspace va).2 = quietAccess s := by
  unfold findLeaf
  dsimp only
  split
  · rfl
  · split
    · rfl
    · split
      · rfl
      · split <;> simp

@[simp] theorem unitXlat_access (u aspace va n : Nat) (acc : Acc) :
    quietAccess (unitXlat s u aspace va n acc).2 = quietAccess s := by
  have hleaf := findLeaf_access s (uDie u) aspace va
  unfold unitXlat
  dsimp only
  split
  · rfl
  · split
    · rfl
    · split
      · exact hleaf
      · exact hleaf

@[simp] theorem sumpFault_access (f : SFault) : quietAccess (sumpFault s f) = quietAccess s := by
  unfold sumpFault
  dsimp only
  split
  · exact (countEv_access _ _ _ _).trans rfl
  · split <;> rfl

@[simp] theorem rqFault_access (r : Rq) (acc : Acc) (k : XKind) (l : Nat) (pte : W64) (va : Nat) :
    quietAccess (rqFault s r acc k l pte va) = quietAccess s := sumpFault_access s _

@[simp] theorem rqXlat_access (r : Rq) (va n : Nat) (acc : Acc) : quietAccess (rqXlat s r va n acc).2 = quietAccess s := by
  unfold rqXlat
  split
  · rfl
  · split
    · simp
    · unfold Machine.translate
      dsimp only
      split <;> simp

theorem rqSpanN_access (r : Rq) (acc : Acc) (f va n : Nat) : quietAccess (rqSpanN r acc f s va n).2 = quietAccess s := by
  induction f generalizing s va n with
  | zero => rfl
  | succ f ih =>
    unfold rqSpanN
    split
    · rfl
    · dsimp only
      split
      · simp
      · exact (ih _ _ _).trans (rqXlat_access _ _ _ _ _)

@[simp] theorem rqSpan_access (r : Rq) (va n : Nat) (acc : Acc) : quietAccess (rqSpan s r va n acc).2 = quietAccess s :=
  rqSpanN_access s r acc _ va n

/-! ### A requester reads and writes -/

@[simp] theorem portRead_access (p : Port) (a n : Nat) : quietAccess (portRead s p a n).2.2 = quietAccess s := by
  cases p with
  | mover u => exact moverRead_access s u a n
  | engine d cls => exact homeRead_access s cls a n

@[simp] theorem portWrite_access (p : Port) (a : Nat) (bs : List Byte) : quietAccess (portWrite s p a bs) = quietAccess s := by
  cases p with
  | mover u => exact moverWriteN_access s u _ a bs
  | engine d cls => exact homeWriteN_access s cls _ a bs

@[simp] theorem enqueue_access (n : Nat) (p : OutPkt) : quietAccess (enqueue s n p) = quietAccess s := by
  unfold enqueue
  split
  · rfl
  · exact setFlow_access _ _ _

@[simp] theorem enqueueWrites_access (flow ga : Nat) (bs : List Byte) (src : PktSrc) :
    quietAccess (enqueueWrites s flow ga bs src) = quietAccess s :=
  access_foldl (fun t _ => enqueue_access t flow _) _ s

@[simp] theorem askRuns_access (rid flow ga n : Nat) : quietAccess (askRuns s rid flow ga n).2 = quietAccess s := by
  unfold askRuns
  dsimp only
  split
  · rfl
  · refine access_foldl (fun t x => access_ite rfl ?_) _ _
    exact (rfl : _ = quietAccess (enqueue t flow _)).trans (enqueue_access _ _ _)

@[simp] theorem rqRefused_access (r : Rq) (va ga n : Nat) : quietAccess (rqRefused s r va ga n) = quietAccess s :=
  (rqFault_access _ _ _ _ _ _ _).trans rfl

theorem readRuns_access (r : Rq) (l : List (Where × Nat)) (va : Nat) : quietAccess (readRuns r l s va).2 = quietAccess s := by
  induction l generalizing s va with
  | nil => rfl
  | cons x l ih =>
    obtain ⟨w, n⟩ := x
    unfold readRuns
    refine (ih _ _).trans ?_
    cases w with
    | pa a => exact portRead_access s r.port a n
    | win f ga =>
      have h := askRuns_access s r.rid f ga n
      dsimp only
      split
      · next hask => rwa [hask] at h
      · next hask =>
        rw [hask] at h
        split
        · rw [rqRefused_access]
          exact h
        · exact h
    | fault k lv p => rfl

@[simp] theorem rqRead_access (r : Rq) (va n : Nat) : quietAccess (rqRead s r va n).2 = quietAccess s := by
  have h := rqSpan_access s r va n .rd
  unfold rqRead
  dsimp only
  split
  · rw [rqFault_access]
    exact h
  · exact (readRuns_access _ _ _ _).trans h

theorem rqReads_access (r : Rq) (l : List (Nat × Nat)) : quietAccess (rqReads r l s).2 = quietAccess s := by
  induction l generalizing s with
  | nil => rfl
  | cons x l ih =>
    obtain ⟨va, n⟩ := x
    have h := rqRead_access s r va n
    unfold rqReads
    split
    · next hread => rwa [hread] at h
    · next hread =>
      rw [hread] at h
      have hrest := ih ‹State›
      split
      · next hreads => rw [hreads] at hrest; exact hrest.trans h
      · next hreads => rw [hreads] at hrest; exact hrest.trans h

theorem writeRuns_access (r : Rq) (l : List (Where × Nat)) (bs : List Byte) :
    quietAccess (writeRuns r l s bs) = quietAccess s := by
  induction l generalizing s bs with
  | nil => rfl
  | cons x l ih =>
    obtain ⟨w, n⟩ := x
    unfold writeRuns
    refine (ih _ _).trans ?_
    cases w with
    | pa a => exact portWrite_access _ _ _ _
    | win f ga => exact enqueueWrites_access _ _ _ _ _
    | fault k lv p => rfl

@[simp] theorem rqWrite_access (r : Rq) (va : Nat) (bs : List Byte) : quietAccess (rqWrite s r va bs).2 = quietAccess s := by
  have h := rqSpan_access s r va bs.length .wr
  unfold rqWrite
  dsimp only
  split
  · rw [rqFault_access]
    exact h
  · exact (writeRuns_access _ _ _ _).trans h

theorem rqProbe_access (r : Rq) (l : List (Nat × Nat)) : quietAccess (rqProbe r l s).2 = quietAccess s := by
  induction l generalizing s with
  | nil => rfl
  | cons x l ih =>
    obtain ⟨va, n⟩ := x
    have h := rqSpan_access s r va n .wr
    unfold rqProbe
    dsimp only
    split
    · rw [rqFault_access]
      exact h
    · exact (ih _).trans h

theorem rqWrites_access (r : Rq) (l : List (Nat × List Byte)) : quietAccess (rqWrites s r l).2 = quietAccess s := by
  have h := rqProbe_access s r (l.map (fun p => (p.1, p.2.length)))
  unfold rqWrites
  split
  · next hprobe => rwa [hprobe] at h
  · next hprobe =>
    rw [hprobe] at h
    exact (access_foldl (fun t (p : Nat × List Byte) => rqWrite_access t r p.1 p.2) _ _).trans h

theorem prefetchTiles_access (u : Nat) (r : Rq) (t : TileJob) : quietAccess (prefetchTiles s u r t) = quietAccess s := by
  unfold prefetchTiles
  refine access_ite rfl ?_
  rw [countEv_access, rqPrefetch]
  exact access_foldl (fun x va => rqXlat_access x r va 1 .rd) _ _

end Sys2Proof.Proofs
end

section
/-! A tile mover moves one output tile of a running item (spec/03_stations_and_streams.md R74, R76 to R78,
spec/05_matrix_engine.md R149, spec/08_cu_memory.md R218, R219). -/

namespace Sys2Proof.Proofs

open Sys2Proof.Laws Sys2Proof.Machine

/-! ### What one tile leaves -/

/-- The work of one output tile: that of the item's grid ordinal, with a free number where its tile may need one. -/
def tileJob (s : State) (it : Item) (j : Job) (d : StnDef) (ord : Nat) : TileJob :=
  ⟨j, d, it, ord / (gridOf j d).2, ord % (gridOf j d).2, if d.kind = 3 then s.free else 0⟩

theorem tileJob_j (s : State) (it : Item) (j : Job) (d : StnDef) (ord : Nat) : (tileJob s it j d ord).j = j := rfl
theorem tileJob_d (s : State) (it : Item) (j : Job) (d : StnDef) (ord : Nat) : (tileJob s it j d ord).d = d := rfl

/-- The state in which its reads begin. -/
def tileStart (s : State) (u n : Nat) (it : Item) (d : StnDef) (t : TileJob) : State :=
  prefetchTiles (if d.kind = 3 then s.takeFree.2 else s) u (moverRq s u n it) t

/-- The ranges it reads once its indices are known. -/
def tableRanges (d : StnDef) (t : TileJob) (l : List (List Byte)) : List (Nat × Nat) :=
  if d.kind = 3 then t.gatherRanges (tagOf (nth l 0)) (nth l 1) else []

theorem tileStart_access (s : State) (u n : Nat) (it : Item) (d : StnDef) (t : TileJob) :
    quietAccess (tileStart s u n it d t) = quietAccess s :=
  (prefetchTiles_access _ _ _ _).trans (access_ite (takeFree_access s) rfl)

theorem countMatrix_access (s : State) (u : Nat) (t : TileJob) (l : List (List Byte)) :
    quietAccess (countMatrix s u t l) = quietAccess s := by
  rw [countMatrix, countEv_access, countEv_access, countEv_access]

/-- The events of a tile that was moved; what was fetched for its item is dropped. -/
def countTile (u rid sectors : Nat) (t : TileJob) (l : List (List Byte)) (x : State) : State :=
  let x1 := countEv (countEv x (uPmp u) 1 1) (uPmp u) 3 sectors
  let x2 := if t.d.kind = 4 then countEv x1 (uPmp u) 2 1 else x1
  dropFetched (if t.d.kind = 1 then countMatrix x2 u t l else x2) rid

theorem countTile_access (u rid sectors : Nat) (t : TileJob) (l : List (List Byte)) (x : State) :
    quietAccess (countTile u rid sectors t l x) = quietAccess x := by
  unfold countTile
  extract_lets x1 x2
  have h1 : quietAccess x1 = quietAccess x := (countEv_access _ _ _ _).trans (countEv_access _ _ _ _)
  have h2 : quietAccess x2 = quietAccess x := access_ite ((countEv_access _ _ _ _).trans h1) h1
  exact (dropFetched_access _ _).trans (access_ite ((countMatrix_access _ _ _ _).trans h2) h2)

/-- How a tile ends that gave `made`, from the state in which its reads are done. -/
def endTile (counted : State → State) (s : State) (r : Rq) (n ord : Nat) (it : Item) (t : TileJob)
    (made : Made) : State :=
  match made with
  | .bad st => tileError s n st it
  | .mem ws =>
    let w := rqWrites s r ws
    if w.1 then counted (w.2.setItem n (some { it with computed := it.computed ++ [ord] })) else w.2
  | .tile bytes rows cs zpad =>
    match (t.d.outs.getD 0 none).bind (fun cid => (t.j.cnd cid).map (fun x => (cid, x))) with
    | none => s
    | some (cid, x) =>
      let w := rqWrites s r [(t.j.slotVa cid x (x.ordinal t.j.s0 it.step t.r t.c), bytes)]
      if w.1 then counted (w.2.setItem n (some { it with wrote := it.wrote ++ [⟨0, ord, rows, cs, zpad⟩] })) else w.2

/-- An access and one item that is stored leave the other items and every job. -/
theorem setItem_of_access {s s3 t : State} {n : Nat} {v : Option Item} (h3 : quietAccess s3 = quietAccess s)
    (ht : quietAccess t = quietAccess (s3.setItem n v)) :
    (∀ i, i ≠ n → t.item i = s.item i) ∧ t.jobs = s.jobs ∧ t.item n = v := by
  have hitem (i : Nat) : t.item i = (s3.setItem n v).item i := (congrArg (fun z => State.item z i) ht :)
  have hjobs : t.jobs = (s3.setItem n v).jobs := (congrArg State.jobs ht :)
  refine ⟨fun i hi => ?_, ?_, ?_⟩
  · rw [hitem, setItem_item, if_neg hi]
    exact (congrArg (fun z => State.item z i) h3 :)
  · rw [hjobs, setItem_jobs]
    exact (congrArg State.jobs h3 :)
  · rw [hitem, setItem_item, if_pos rfl]

section
variable {s s1 s2 : State} {u n ord : Nat} {it : Item} {j : Job} {d : StnDef} {l table : List (List Byte)}
  (hreads : rqReads (moverRq s u n it) (tileJob s it j d ord).ranges (tileStart s u n it d (tileJob s it j d ord)) =
    (some (l, false), s1))
  (htable : rqReads (moverRq s u n it) (tableRanges d (tileJob s it j d ord) l) s1 = (some (table, false), s2))
include hreads htable

/-- The reads of a tile change what an access may change. -/
theorem tileReads_access : quietAccess s2 = quietAccess s := by
  have h1 := rqReads_access (tileStart s u n it d (tileJob s it j d ord)) (moverRq s u n it) (tileJob s it j d ord).ranges
  have h2 := rqReads_access s1 (moverRq s u n it) (tableRanges d (tileJob s it j d ord) l)
  rw [hreads] at h1
  rw [htable] at h2
  exact h2.trans (h1.trans (tileStart_access s u n it d _))

/-- What a tile's work gives decides how it ends. -/
theorem moveTile_eq : ∃ sectors, moveTile s u n ord it j d =
    endTile (countTile u (moverRq s u n it).rid sectors (tileJob s it j d ord) l) s2 (moverRq s u n it) n ord it
      (tileJob s it j d ord) ((tileJob s it j d ord).make l table) := by
  have hfree : (if d.kind = 3 then s.takeFree else (0, s)) =
      (if d.kind = 3 then s.free else 0, if d.kind = 3 then s.takeFree.2 else s) := by
    split
    · rfl
    · rfl
  simp only [tileJob, tileStart, tableRanges] at hreads htable
  simp only [moveTile, hfree, hreads, htable]
  exact ⟨_, rfl⟩

/-- A tile whose work cannot be done ends its item with the status of that. -/
theorem moveTile_bad {status : Nat} (herr : it.err = none) (hmake : (tileJob s it j d ord).make l table = .bad status) :
    (∀ i, i ≠ n → (moveTile s u n ord it j d).item i = s.item i) ∧ (moveTile s u n ord it j d).jobs = s.jobs ∧
    (moveTile s u n ord it j d).item n = some { it with err := some (status, 0, 0), log := [] } := by
  obtain ⟨sectors, heq⟩ := moveTile_eq hreads htable
  refine setItem_of_access (tileReads_access hreads htable) ?_
  rw [heq, hmake, endTile, tileError, herr]
  rfl

/-- A tile stored to memory is recorded with its item. -/
theorem moveTile_mem {ws : List (Nat × List Byte)} {s3 : State} (hmake : (tileJob s it j d ord).make l table = .mem ws)
    (hwrites : rqWrites s2 (moverRq s u n it) ws = (true, s3)) :
    (∀ i, i ≠ n → (moveTile s u n ord it j d).item i = s.item i) ∧ (moveTile s u n ord it j d).jobs = s.jobs ∧
    (moveTile s u n ord it j d).item n = some { it with computed := it.computed ++ [ord] } := by
  obtain ⟨sectors, heq⟩ := moveTile_eq hreads htable
  have h3 := rqWrites_access s2 (moverRq s u n it) ws
  rw [hwrites] at h3
  refine setItem_of_access (h3.trans (tileReads_access hreads htable)) ?_
  rw [heq, hmake, endTile, hwrites]
  exact countTile_access _ _ _ _ _ _

/-- A tile written to its slot is recorded with its item: its ordinal, ROWS, COLS and ZPAD. -/
theorem moveTile_tile {bytes : List Byte} {rows cs cid : Nat} {z : Bool} {x : Cnd} {s3 : State}
    (hmake : (tileJob s it j d ord).make l table = .tile bytes rows cs z) (hout : d.outs.getD 0 none = some cid)
    (hcnd : j.cnd cid = some x) (hwrites : rqWrites s2 (moverRq s u n it)
      [(j.slotVa cid x (x.ordinal j.s0 it.step (tileJob s it j d ord).r (tileJob s it j d ord).c), bytes)] = (true, s3)) :
    (∀ i, i ≠ n → (moveTile s u n ord it j d).item i = s.item i) ∧ (moveTile s u n ord it j d).jobs = s.jobs ∧
    (moveTile s u n ord it j d).item n = some { it with wrote := it.wrote ++ [⟨0, ord, rows, cs, z⟩] } := by
  obtain ⟨sectors, heq⟩ := moveTile_eq hreads htable
  have h3 := rqWrites_access s2 (moverRq s u n it)
    [(j.slotVa cid x (x.ordinal j.s0 it.step (tileJob s it j d ord).r (tileJob s it j d ord).c), bytes)]
  rw [hwrites] at h3
  have hslot : (d.outs.getD 0 none).bind (fun c => (j.cnd c).map (fun y => (c, y))) = some (cid, x) := by
    rw [hout, Option.bind_some, hcnd, Option.map_some]
  refine setItem_of_access (h3.trans (tileReads_access hreads htable)) ?_
  simp only [heq, hmake, endTile, tileJob_j, tileJob_d, hslot, hwrites]
  exact countTile_access _ _ _ _ _ _

end

/-- MOVER_TILE_DONE of a tile that the item still owes moves it. -/
theorem exec_moverTileDone {s : State} {u islot ord n : Nat} {it : Item} {j : Job} {st : Stn} (hlive : live s = true)
    (hfind : (runningOn s u).find? (fun p => p.2.islot == some islot) = some (n, it)) (hj : s.job it.job = some j)
    (hst : j.stn it.sid = some st) (hadv : advances s u = true) (hacc : s.accepts (uPmp u) = true)
    (htags : it.tagsOk = true) (herr : it.err = none) (hwaits : itemWaits s n = false) (hord : it.ords.contains ord = true)
    (hwrote : it.wrote.all (fun w => w.ord != ord) = true) (hkind : it.kind ≠ 2)
    (hmatrix : it.kind = 1 → it.computed.contains ord = true) (hother : it.kind ≠ 1 → it.computed.contains ord = false) :
    exec (.moverTileDone u islot ord) s = .next (moveTile s u n ord it j st.df) := by
  have hexec : exec (.moverTileDone u islot ord) s = execMoverTileDone u islot ord s := rfl
  have hnew : it.wrote.any (fun w => w.ord == ord) = false := by
    rw [List.any_eq_false]
    intro w hw
    simpa using List.all_eq_true.mp hwrote w hw
  have hown : (decide (it.kind = 1) && !it.computed.contains ord) = false ∧
      (decide (it.kind ≠ 1) && it.computed.contains ord) = false := by
    by_cases h1 : it.kind = 1
    · rw [hmatrix h1]
      simp [h1]
    · rw [hother h1]
      simp [h1]
  have hstation : (s.job it.job).bind (fun k => (k.stn it.sid).map (fun x => (k, x.df))) = some (j, st.df) := by
    rw [hj, Option.bind_some, hst, Option.map_some]
  simp only [hexec, execMoverTileDone, whenLive, hlive, hfind, hstation, hadv, hacc, htags, herr, hwaits, hord, hnew, hkind,
    hown.1, hown.2]
  rfl

/-! ### The statement -/

/-- Settles O38: an operation starts, is rejected or completes by the law of each (`rejectOp_effect`, `slabLoads_slab`,
`mxeOpComplete_writes`, `mxeOpComplete_marks`); a tile's accesses leave jobs and items (`quietAccess`), so that its item
alone changes, as its work says. -/
theorem matrixOperationsAndMoversMakeTiles : Obligations.MatrixOperationsAndMoversMakeTiles := by
  unfold Obligations.MatrixOperationsAndMoversMakeTiles
  refine ⟨?_, ?_, ?_⟩
  · intro u o it g s hlive hadv hit hg hitem _
    refine ⟨fun b hnext hsrc => ⟨fun cause hcheck => ?_, fun hcheck => ?_⟩, fun rest hq hstarted harmed =>
      ⟨fun b hsrc => mxeOpComplete_writes hlive hadv hit hq hstarted harmed hg hsrc,
        fun c r n kb0 kb hsrc => mxeOpComplete_marks hlive hadv hit hq hstarted harmed hg hsrc⟩⟩
    · exact ⟨_, exec_mxeOpStart_rejected hlive hadv hit hnext ((opCheck_desc s it hsrc).trans hcheck),
        rejectOp_effect cause (blockAt_uMxe hadv) hit hg hitem⟩
    · exact mxeOpStart_effect hlive hadv hit hnext hsrc hcheck
  · intro u islot ord n it j st s hlive hfind hj hst hadv hacc htags herr hwaits hord hwrote hkind hmatrix hother d c cols r
      tj l s1 table s2 hreads htable
    have hexec := exec_moverTileDone hlive hfind hj hst hadv hacc htags herr hwaits hord hwrote hkind hmatrix hother
    exact ⟨fun status hmake => ⟨_, hexec, moveTile_bad hreads htable herr hmake⟩,
      fun ws s3 hmake hwrites => ⟨_, hexec, moveTile_mem hreads htable hmake hwrites⟩,
      fun bytes rows cs z cid x s3 hmake hout hcnd hwrites =>
        ⟨_, hexec, moveTile_tile hreads htable hmake hout hcnd hwrites⟩⟩
  · intro fmt rows cols i k f _ _ _ hi hk
    exact elemRaw_tileElems fmt rows cols f hi hk

end Sys2Proof.Proofs
end

section
/-! The cache of a compute unit (spec/08_cu_memory.md R207 to R211): the bytes and dirty bits of a sector after stores,
what finding, touching and changing a line leaves, and what a run of stores into a line it holds does. -/

namespace Sys2Proof.Proofs

open Sys2Proof.Laws Sys2Proof.Machine

/-! ### Dirty bits and bytes of a sector -/

/-- Setting a bit that is 0 leaves the others. -/
theorem nbit_add_two_pow {i x : Nat} (h : nbit i x = false) (j : Nat) :
    nbit j (x + 2 ^ i) = (nbit j x || decide (j = i)) := by
  have heven : x / 2 ^ i % 2 = 0 := by
    have := Nat.mod_two_eq_zero_or_one (x / 2 ^ i)
    simpa [nbit] using h
  have hbit (y : Nat) : nbit j y = y.testBit j := by
    rw [nbit, Nat.testBit_eq_decide_div_mod_eq]
    rfl
  rcases Nat.lt_trichotomy j i with hlt | rfl | hgt
  · rw [hbit, hbit, Nat.add_comm, Nat.testBit_two_pow_add_gt hlt]
    simp [Nat.ne_of_lt hlt]
  · have hadd : (x + 2 ^ j) / 2 ^ j = x / 2 ^ j + 1 := Nat.add_div_right x (Nat.two_pow_pos j)
    simp only [nbit, hadd]
    simp
    omega
  · obtain ⟨k, rfl⟩ := Nat.exists_eq_add_of_lt hgt
    have hcut (y : Nat) : y / 2 ^ (i + k + 1) = y / 2 ^ i / 2 / 2 ^ k := by
      rw [Nat.div_div_eq_div_mul, Nat.div_div_eq_div_mul]
      congr 1
      ring
    have hadd : (x + 2 ^ i) / 2 ^ i / 2 = x / 2 ^ i / 2 := by
      rw [Nat.add_div_right x (Nat.two_pow_pos i)]
      omega
    rw [nbit, nbit, hcut, hcut, hadd, decide_eq_false (Nat.ne_of_gt hgt), Bool.or_false]

theorem store_valid (x : CcSec) (i : Nat) (b : Byte) : (x.store i b).valid = true := rfl

theorem store_dirty (x : CcSec) (i : Nat) (b : Byte) (j : Nat) :
    nbit j (x.store i b).dirty = (nbit j x.dirty || decide (j = i)) := by
  unfold CcSec.store
  dsimp only
  split
  · next h =>
    by_cases hj : j = i
    · simp [hj, h]
    · simp [hj]
  · next h => exact nbit_add_two_pow (by simpa using h) j

theorem store_byteAt (x : CcSec) {i j : Nat} (hi : i < 32) (hj : j < 32) (b : Byte) :
    (x.store i b).byteAt j = if j = i then b else x.byteAt j := by
  have hlen : i < ((x.data ++ List.replicate 32 0).take 32).length := by simp; omega
  simp only [CcSec.byteAt, CcSec.store, setAt, List.getD_eq_getElem?_getD, List.getElem?_set, hlen, if_true]
  by_cases hji : j = i
  · simp [hji]
  · rw [if_neg (Ne.symm hji), if_neg hji, List.getElem?_take_of_lt hj, List.getElem?_append]
    by_cases hd : j < x.data.length
    · rw [if_pos hd]
    · rw [if_neg hd, List.getElem?_replicate_of_lt (by omega), List.getElem?_eq_none (by omega)]
      rfl

/-- Bytes stored one after another into a sector, from byte i on. -/
def storeRun (x : CcSec) (i : Nat) : List Byte → CcSec
  | [] => x
  | b :: bs => storeRun (x.store i b) (i + 1) bs

theorem storeRun_valid (x : CcSec) (i : Nat) (bs : List Byte) :
    (storeRun x i bs).valid = (x.valid || !bs.isEmpty) := by
  induction bs generalizing x i with
  | nil => simp [storeRun]
  | cons b bs ih => simp [storeRun, ih, store_valid]

theorem storeRun_dirty (x : CcSec) (i : Nat) (bs : List Byte) (j : Nat) :
    nbit j (storeRun x i bs).dirty = (nbit j x.dirty || decide (i ≤ j ∧ j < i + bs.length)) := by
  induction bs generalizing x i with
  | nil =>
    have : ¬ (i ≤ j ∧ j < i) := by omega
    simp [storeRun, this]
  | cons b bs ih =>
    have : (i ≤ j ∧ j < i + (b :: bs).length) ↔ j = i ∨ (i + 1 ≤ j ∧ j < i + 1 + bs.length) := by
      rw [List.length_cons]
      omega
    rw [storeRun, ih, store_dirty, Bool.or_assoc, decide_eq_decide.mpr this, Bool.decide_or]

theorem storeRun_byteAt (x : CcSec) {i j : Nat} (bs : List Byte) (hfit : i + bs.length ≤ 32) (hj : j < 32) :
    (storeRun x i bs).byteAt j = if i ≤ j ∧ j < i + bs.length then bs.getD (j - i) 0 else x.byteAt j := by
  induction bs generalizing x i with
  | nil =>
    have : ¬ (i ≤ j ∧ j < i) := by omega
    simp [storeRun, this]
  | cons b bs ih =>
    rw [List.length_cons] at hfit ⊢
    rw [storeRun, ih _ (by omega), store_byteAt _ (by omega) hj]
    by_cases hji : j = i
    · subst hji
      simp
    · by_cases hin : i + 1 ≤ j ∧ j < i + 1 + bs.length
      · have hsub : j - i = (j - (i + 1)) + 1 := by omega
        rw [if_pos hin, if_pos (by omega), hsub, List.getD_cons_succ]
      · rw [if_neg hin, if_neg hji, if_neg (by omega)]

/-- A run of bytes in a sector: each stands in its place and is dirty, the others are as they were. -/
theorem storeRun_effect (x : CcSec) {i n : Nat} {bs : List Byte} (hpos : 0 < n) (hlen : bs.length = n)
    (hfit : i + n ≤ 32) :
    (storeRun x i bs).valid = true ∧
    (∀ j, j < n → (storeRun x i bs).byteAt (i + j) = bs.getD j 0 ∧ nbit (i + j) (storeRun x i bs).dirty = true) ∧
    (∀ j, j < 32 → j < i ∨ i + n ≤ j →
      (storeRun x i bs).byteAt j = x.byteAt j ∧ nbit j (storeRun x i bs).dirty = nbit j x.dirty) := by
  subst hlen
  refine ⟨?_, fun j hj => ?_, fun j hj hout => ?_⟩
  · have hne : bs.isEmpty = false := by simpa [List.isEmpty_eq_false_iff] using List.ne_nil_of_length_pos hpos
    rw [storeRun_valid, hne, Bool.not_false, Bool.or_true]
  · have hin : i ≤ i + j ∧ i + j < i + bs.length := by omega
    rw [storeRun_byteAt x bs hfit (by omega), if_pos hin, Nat.add_sub_cancel_left, storeRun_dirty, decide_eq_true hin,
      Bool.or_true]
    exact ⟨rfl, rfl⟩
  · have hnot : ¬ (i ≤ j ∧ j < i + bs.length) := by omega
    rw [storeRun_byteAt x bs hfit hj, if_neg hnot, storeRun_dirty, decide_eq_false hnot, Bool.or_false]
    exact ⟨rfl, rfl⟩

/-! ### Finding, touching and changing a line -/

/-- The state but for the caches of the units. -/
def quietCc (s : State) : State := { s with cc := [] }

@[simp] theorem setSec_quietCc (s : State) (k i : Nat) (x : CcSec) : quietCc (setSec s k i x) = quietCc s := rfl

theorem quietCc_foldl {α : Type} {g : State → α → State} (hg : ∀ t a, quietCc (g t a) = quietCc t) (l : List α)
    (s : State) : quietCc (l.foldl g s) = quietCc s :=
  List.foldlRecOn (motive := fun t => quietCc t = quietCc s) l g rfl fun t ht a _ => (hg t a).trans ht

/-- A way but for its recently-used bit. -/
def ccHeld (s : State) (k : Nat) : Nat × List CcSec := ((s.ccWay k).line, (s.ccWay k).secs)

theorem setCcWay_ccHeld {s : State} {k : Nat} {l : CcLine} (hline : l.line = (s.ccWay k).line)
    (hsecs : l.secs = (s.ccWay k).secs) : ccHeld (s.setCcWay k l) = ccHeld s := by
  funext j
  unfold ccHeld
  rw [setCcWay_ccWay]
  split
  · next h => rw [hline, hsecs, h]
  · rfl

@[simp] theorem ccTouch_quietCc (s : State) (u line way : Nat) : quietCc (ccTouch s u line way) = quietCc s := by
  unfold ccTouch
  dsimp only
  split
  · refine (quietCc_foldl (fun t w => ?_) _ _).trans rfl
    split <;> rfl
  · rfl

theorem setUsed_ccHeld (s : State) (k : Nat) (b : Bool) :
    ccHeld (s.setCcWay k { s.ccWay k with used := b }) = ccHeld s := setCcWay_ccHeld rfl rfl

@[simp] theorem ccTouch_ccHeld (s : State) (u line way : Nat) : ccHeld (ccTouch s u line way) = ccHeld s := by
  unfold ccTouch
  dsimp only
  split
  · refine List.foldlRecOn (motive := fun t => ccHeld t = ccHeld s) _ _ (setUsed_ccHeld s _ true) fun t ht w _ => ?_
    split
    · exact ht
    · exact (setUsed_ccHeld t _ false).trans ht
  · exact setUsed_ccHeld s _ true

theorem sec_of_ccHeld {s t : State} {k : Nat} (h : ccHeld t k = ccHeld s k) (i : Nat) :
    (t.ccWay k).sec i = (s.ccWay k).sec i :=
  (congrArg (fun p => p.2.getD i CcSec.empty) h :)

/-- Which line a way holds, and in how many sectors. -/
def ccShape (s : State) (k : Nat) : Nat × Nat := ((s.ccWay k).line, (s.ccWay k).secs.length)

theorem ccShape_of_ccHeld {s t : State} (h : ccHeld t = ccHeld s) : ccShape t = ccShape s := by
  funext k
  exact congrArg (fun p : Nat × List CcSec => (p.1, p.2.length)) (congrFun h k)

@[simp] theorem setSec_ccShape (s : State) (k i : Nat) (x : CcSec) : ccShape (setSec s k i x) = ccShape s := by
  funext j
  simp only [ccShape, setSec, setCcWay_ccWay]
  split
  · next h => simp [setAt, h]
  · rfl

/-- Where a line is found depends on what the ways hold and on the split. -/
theorem ccFind_congr {s t : State} {u : Nat} (hshape : ccShape t = ccShape s) (hsplit : (t.cu u).split = (s.cu u).split)
    (line : Nat) : ccFind t u line = ccFind s u line := by
  have hways : ccWays t u = ccWays s u := by rw [ccWays, ccWays, hsplit]
  have hway (k : Nat) : ((t.ccWay k).secs ≠ [] ∧ (t.ccWay k).line = line) ↔
      ((s.ccWay k).secs ≠ [] ∧ (s.ccWay k).line = line) := by
    have h := congrFun hshape k
    simp only [ccShape, Prod.mk.injEq] at h
    rw [← List.length_pos_iff, ← List.length_pos_iff, h.1, h.2]
  unfold ccFind
  simp only [hways, hway]

/-- A line that is found has a way of the unit. -/
theorem ccWays_ne_zero_of_ccFind {s : State} {u line way : Nat} (h : ccFind s u line = some way) : ccWays s u ≠ 0 := by
  intro h0
  simp [ccFind, h0] at h

theorem setSec_sec {s : State} {k : Nat} (i j : Nat) (x : CcSec) (hi : i < (s.ccWay k).secs.length) :
    ((setSec s k i x).ccWay k).sec j = if j = i then x else (s.ccWay k).sec j := by
  simp only [setSec, setCcWay_ccWay, if_true, CcLine.sec, setAt, List.getD_eq_getElem?_getD, List.getElem?_set, hi]
  by_cases h : j = i
  · simp [h]
  · simp [h, Ne.symm h]

theorem ccShape_length {s t : State} (h : ccShape t = ccShape s) (k : Nat) :
    (t.ccWay k).secs.length = (s.ccWay k).secs.length := (congrArg Prod.snd (congrFun h k) :)

/-! ### Stores into a line that the cache holds -/

/-- A byte stored into a line that the cache holds goes into its sector. -/
theorem ccStore_byte {s : State} {u a way : Nat} (hfind : ccFind s u (a / 128) = some way) (b : Byte) :
    ccStore s u a [b] = some (ccTouch (setSec s (ccKey u (a / 128) way) (a % 128 / 32)
      (((s.ccWay (ccKey u (a / 128) way)).sec (a % 128 / 32)).store (a % 32) b)) u (a / 128) way) := by
  unfold ccStore
  simp [ccWays_ne_zero_of_ccFind hfind, hfind]

/-- A run of bytes stored within one sector of a line that the cache holds. -/
theorem ccStores_run {s : State} {u a i way : Nat} (bs : List Byte) (hfind : ccFind s u (a / 128) = some way)
    (hlen : (s.ccWay (ccKey u (a / 128) way)).secs.length = 4) (hfit : a % 32 + i + bs.length ≤ 32) :
    ∃ t, ccStores s u ((bs.zipIdx i).map (fun p => (a + p.2, p.1))) = some t ∧ quietCc t = quietCc s ∧
      (t.ccWay (ccKey u (a / 128) way)).sec (a % 128 / 32) =
        storeRun ((s.ccWay (ccKey u (a / 128) way)).sec (a % 128 / 32)) (a % 32 + i) bs := by
  induction bs generalizing s i with
  | nil => exact ⟨s, rfl, rfl, rfl⟩
  | cons b bs ih =>
    rw [List.length_cons] at hfit
    have hline : (a + i) / 128 = a / 128 := by omega
    have hsec : (a + i) % 128 / 32 = a % 128 / 32 := by omega
    have hbyte : (a + i) % 32 = a % 32 + i := by omega
    have hin : a % 128 / 32 < (s.ccWay (ccKey u (a / 128) way)).secs.length := by omega
    have hstore := ccStore_byte (hline.symm ▸ hfind) b
    rw [hline, hsec, hbyte] at hstore
    generalize hx : ((s.ccWay (ccKey u (a / 128) way)).sec (a % 128 / 32)).store (a % 32 + i) b = x at hstore
    generalize hz : ccTouch (setSec s (ccKey u (a / 128) way) (a % 128 / 32) x) u (a / 128) way = z at hstore
    have hquiet : quietCc z = quietCc s := by rw [← hz, ccTouch_quietCc, setSec_quietCc]
    have hheld : ccHeld z = ccHeld (setSec s (ccKey u (a / 128) way) (a % 128 / 32) x) := by rw [← hz, ccTouch_ccHeld]
    have hshape : ccShape z = ccShape s := (ccShape_of_ccHeld hheld).trans (setSec_ccShape _ _ _ _)
    have hzsec : (z.ccWay (ccKey u (a / 128) way)).sec (a % 128 / 32) = x := by
      rw [sec_of_ccHeld (congrFun hheld _), setSec_sec _ _ _ hin, if_pos rfl]
    have hzfind : ccFind z u (a / 128) = some way :=
      (ccFind_congr hshape (congrArg (fun y => (State.cu y u).split) hquiet :) _).trans hfind
    obtain ⟨t, ht, htq, htsec⟩ := ih (i := i + 1) hzfind ((ccShape_length hshape _).trans hlen) (by omega)
    refine ⟨t, ?_, htq.trans hquiet, ?_⟩
    · rw [List.zipIdx_cons, List.map_cons, ccStores, hstore]
      exact ht
    · rw [htsec, hzsec, ← hx, storeRun, Nat.add_assoc]

/-! ### Stores of one thread -/

theorem eraseDups_of_nodup {α : Type} [BEq α] [LawfulBEq α] {l : List α} (h : l.Nodup) : l.eraseDups = l := by
  induction l with
  | nil => rfl
  | cons a l ih =>
    obtain ⟨ha, hl⟩ := List.nodup_cons.mp h
    have hfilter : l.filter (fun b => !b == a) = l := by
      rw [List.filter_eq_self]
      intro b hb
      have : b ≠ a := fun e => ha (e ▸ hb)
      simpa using this
    rw [List.eraseDups_cons, hfilter, ih hl]

/-- Stores at distinct places are what they are. -/
theorem mergeStores_of_nodup (free : Nat) {l : List (Nat × Byte)} (h : (l.map Prod.fst).Nodup) :
    mergeStores free l = l := by
  have hat (p : Nat × Byte) (hp : p ∈ l) : l.filter (fun q => q.1 == p.1) = [p] := by
    clear free
    induction l with
    | nil => simp at hp
    | cons q l ih =>
      rw [List.map_cons, List.nodup_cons] at h
      obtain ⟨hq, hl⟩ := h
      rcases List.mem_cons.mp hp with rfl | hp
      · rw [List.filter_cons_of_pos (by simp), List.filter_eq_nil_iff.mpr]
        intro r hr
        have : r.1 ≠ p.1 := fun e => hq (e ▸ List.mem_map_of_mem hr)
        simpa using this
      · have : q.1 ≠ p.1 := fun e => hq (e ▸ List.mem_map_of_mem hp)
        rw [List.filter_cons_of_neg (by simpa using this), ih hl hp]
  rw [mergeStores, eraseDups_of_nodup h, List.map_map]
  conv_rhs => rw [← List.map_id l]
  refine List.map_congr_left fun p hp => ?_
  simp only [Function.comp_apply, hat p hp]
  simp

/-- The bytes of one access lie at distinct places. -/
theorem mergeStores_zipIdx (free a : Nat) (bs : List Byte) :
    mergeStores free (bs.zipIdx.map (fun p => (a + p.2, p.1))) = bs.zipIdx.map (fun p => (a + p.2, p.1)) := by
  refine mergeStores_of_nodup free ?_
  have hfst : (bs.zipIdx.map (fun p => (a + p.2, p.1))).map Prod.fst = (List.range bs.length).map (fun i => a + i) := by
    rw [List.map_map, List.range_eq_range', ← List.zipIdx_map_snd 0 bs, List.map_map]
    rfl
  rw [hfst]
  exact List.nodup_range.map fun x y h => Nat.add_left_cancel h

end Sys2Proof.Proofs
end

section
/-! What an access of memory leaves of the units themselves: all of each unit but its translations (spec/08_cu_memory.md
R211, R278, spec/09_memory_tiers.md, spec/11_translation.md R315). -/

namespace Sys2Proof.Proofs

open Sys2Proof.Laws Sys2Proof.Machine

theorem units_of_quiet {s t : State} (h : quietErr t = quietErr s) : t.units = s.units := (congrArg State.units h :)

theorem units_foldl {α : Type} {g : State → α → State} (hg : ∀ t a, (g t a).units = t.units) (l : List α)
    (s : State) : (l.foldl g s).units = s.units :=
  List.foldlRecOn (motive := fun t => t.units = s.units) l g rfl fun t ht a _ => (hg t a).trans ht

theorem cu_of_units {s t : State} (h : t.units = s.units) (v : Nat) : t.cu v = s.cu v := by
  rw [State.cu, State.cu, h]

section
variable (s : State)

/-! ### Memory at its home -/

@[simp] theorem disarm_units (p n : Nat) : (disarm s p n).units = s.units := rfl

@[simp] theorem armedNmc_units (p : Nat) (e : LineErr) : (armedNmc s p e).2.2.units = s.units := by
  unfold armedNmc
  split
  · exact disarm_units s p 9
  · split
    · exact disarm_units s p 8
    · rfl

@[simp] theorem packageRead_units (d ch line : Nat) (e : LineErr) : (packageRead s d ch line e).units = s.units := by
  unfold packageRead
  extract_lets page s1
  have h : (armedNmc s1 page e).2.2.units = s.units := (armedNmc_units s1 page e).trans (countEv_units s page 1 1)
  clear_value page
  generalize armedNmc s1 page e = r at h
  obtain ⟨err, inj, s2⟩ := r
  cases err with
  | none => exact h
  | ce =>
    rw [raiseWith_units, countEv_units, setReg_units, setReg_units]
    exact h
  | ue =>
    rw [raiseWith_units, setPoison_units, setReg_units, setReg_units]
    exact h

@[simp] theorem wcWriteOut_units (d ch line mask : Nat) : (wcWriteOut s d ch line mask).units = s.units := by
  unfold wcWriteOut
  dsimp only
  split <;> simp

@[simp] theorem channelWrite_units (a mask : Nat) : (channelWrite s a mask).units = s.units := by
  unfold channelWrite
  dsimp only
  split
  · rfl
  split
  · simp
  split
  · simp
  split
  · split <;> simp
  · rw [setNmc_units]
    split
    · split <;> simp
    · rfl

@[simp] theorem memoryWrite_units (a mask : Nat) : (memoryWrite s a mask).units = s.units := by
  unfold memoryWrite
  split
  · simp
  · split <;> simp
  · rfl

@[simp] theorem memoryRead_units (a : Nat) : (memoryRead s a).units = s.units := by
  unfold memoryRead
  split
  · simp
  · dsimp only
    split <;> simp
  · rfl

@[simp] theorem deliverPoison_units (a : Nat) : (deliverPoison s a).units = s.units := by
  unfold deliverPoison raiseInfo
  split <;> simp

@[simp] theorem writeBack_units (a mask : Nat) : (writeBack s a mask).units = s.units := by
  unfold writeBack
  dsimp only
  split <;> split <;> simp

@[simp] theorem scEvict_units (d k : Nat) : (scEvict s d k).units = s.units := by
  unfold scEvict
  dsimp only
  split <;> simp

@[simp] theorem scTouch_units (d a w : Nat) : (scTouch s d a w).units = s.units := by
  unfold scTouch
  dsimp only
  split
  · refine (units_foldl (fun t v => ?_) _ _).trans (by simp)
    split <;> simp
  · simp

@[simp] theorem scInjected_units (d a : Nat) (dirty : Bool) : (scInjected s d a dirty).units = s.units := by
  unfold scInjected
  extract_lets page info s1 s2
  have h1 : s1.units = s.units := by
    unfold s1
    split <;> simp
  have h2 : s2.units = s.units := by
    unfold s2
    split <;> simp [h1]
  split <;> simp [h2]

@[simp] theorem scRead_units (cls a m : Nat) : (scRead s cls a m).units = s.units := by
  unfold scRead
  dsimp only
  split
  · rw [scTouch_units, setScWay_units]
    split <;> simp
  · split <;> simp

@[simp] theorem scWrite_units (cls a m : Nat) : (scWrite s cls a m).units = s.units := by
  unfold scWrite
  dsimp only
  split
  · rw [scTouch_units, setScWay_units]
    split <;> simp
  · split
    · simp
    · rw [scTouch_units, setScWay_units]
      split <;> simp

@[simp] theorem dropCopies_units (a : Nat) : (dropCopies s a).units = s.units := by
  unfold dropCopies
  dsimp only
  split
  · rfl
  · split
    · rfl
    · split <;> simp

@[simp] theorem homeWriteLine_units (cls a mask : Nat) (data : List Byte) :
    (homeWriteLine s cls a mask data).units = s.units := by
  have hwrite (t : State) : (performWrite t cls a mask data).units = t.units := by
    unfold performWrite
    dsimp only
    split <;> simp
  unfold homeWriteLine
  split <;> simp [hwrite]

@[simp] theorem homeReadLine_units (cls a m : Nat) : (homeReadLine s cls a m).2.units = s.units := by
  have hread (t : State) : (performRead t cls a m).2.units = t.units := by
    unfold performRead
    dsimp only
    split
    · split <;> simp
    · simp
  unfold homeReadLine
  dsimp only
  rw [hread]
  split <;> simp

/-! ### Allocation in the cache of a unit -/

@[simp] theorem ccWriteBack_units (u k : Nat) : (ccWriteBack s u k).units = s.units := by
  have hsend (t : State) (l : CcLine) : (ccSend t u l).units = t.units := by
    unfold ccSend
    dsimp only
    split
    · rfl
    · split <;> simp
  unfold ccWriteBack
  dsimp only
  split <;> simp [hsend]

@[simp] theorem ccTouch_units (u line way : Nat) : (ccTouch s u line way).units = s.units :=
  (congrArg State.units (ccTouch_quietCc s u line way) :)

@[simp] theorem ccTouch_access (u line way : Nat) : quietAccess (ccTouch s u line way) = quietAccess s :=
  (congrArg quietAccess (ccTouch_quietCc s u line way) :)

@[simp] theorem ccWriteBack_access (u k : Nat) : quietAccess (ccWriteBack s u k) = quietAccess s := by
  unfold ccWriteBack
  dsimp only
  split <;> simp

end

/-- Allocating a line leaves the units, and of the rest what an access leaves. -/
theorem ccAlloc_frame {s t : State} {u line way : Nat} (h : ccAlloc s u line = some (way, t)) :
    t.units = s.units ∧ quietAccess t = quietAccess s := by
  unfold ccAlloc at h
  cases hv : ccVictim s u line with
  | none => simp [hv] at h
  | some w =>
    simp only [hv, Option.some.injEq, Prod.mk.injEq] at h
    rw [← h.2]
    simp [ccEvict]

/-! ### Loads -/

/-- What an access of memory leaves, and the loads that each unit awaits. -/
def quietLoads (s : State) : State × (Nat → List PendLoad) := (quietAccess s, fun v => (s.cu v).loads)

theorem quietLoads_of_units {s t : State} (ha : quietAccess t = quietAccess s) (hu : t.units = s.units) :
    quietLoads t = quietLoads s := by
  rw [quietLoads, quietLoads, ha, funext fun v => congrArg CuSt.loads (cu_of_units hu v)]

theorem setCu_quietLoads {s : State} {u : Nat} {c : CuSt} (h : c.loads = (s.cu u).loads) :
    quietLoads (s.setCu u c) = quietLoads s := by
  have hloads : (fun v => ((s.setCu u c).cu v).loads) = fun v => (s.cu v).loads := by
    funext v
    rw [setCu_cu]
    split
    · next hv => rw [h, hv]
    · rfl
  exact congrArg (Prod.mk (quietAccess s)) hloads

@[simp] theorem countEv_quietLoads (s : State) (p src n : Nat) : quietLoads (countEv s p src n) = quietLoads s :=
  quietLoads_of_units (countEv_access s p src n) (countEv_units s p src n)

@[simp] theorem ccTouch_quietLoads (s : State) (u line way : Nat) : quietLoads (ccTouch s u line way) = quietLoads s :=
  quietLoads_of_units (ccTouch_access s u line way) (ccTouch_units s u line way)

@[simp] theorem ccceFires_quietLoads (s : State) (u : Nat) (hit : Bool) : quietLoads (ccceFires s u hit) = quietLoads s := by
  unfold ccceFires
  split
  · exact quietLoads_of_units ((raiseWith_access _ _ _ _).trans rfl) ((raiseWith_units _ _ _ _).trans rfl)
  · rfl

/-- The place of a line for which a miss register is taken: as it is, or allocated. -/
theorem takeMiss_quietLoads {s t : State} {u line sectors : Nat} (h : takeMiss s u line sectors = some t) :
    quietLoads t = quietLoads s := by
  unfold takeMiss at h
  dsimp only at h
  split at h
  · split at h
    · simp at h
    · rw [← Option.some.inj h, countEv_quietLoads, setCu_quietLoads (by rfl)]
  · split at h
    · simp at h
    · obtain ⟨z, hz, hzt⟩ := Option.map_eq_some_iff.mp h
      have hplace : quietLoads z = quietLoads s := by
        split at hz
        · rw [Option.some.inj hz]
        · split at hz
          · rw [Option.some.inj hz]
          · obtain ⟨⟨w, y⟩, halloc, hy⟩ := Option.map_eq_some_iff.mp hz
            obtain ⟨hu, ha⟩ := ccAlloc_frame halloc
            exact hy ▸ quietLoads_of_units ha hu
      rw [← hzt, countEv_quietLoads, setCu_quietLoads (by rfl), hplace]

theorem takeMisses_quietLoads {s t : State} {u : Nat} {lines : List Nat} (h : takeMisses s u lines = some t) :
    quietLoads t = quietLoads s := by
  induction lines generalizing s with
  | nil => rw [Option.some.inj h]
  | cons line lines ih =>
    unfold takeMisses at h
    split at h
    · simp at h
    · next z hz => exact (ih h).trans (takeMiss_quietLoads hz)

/-! ### Translations of a unit -/

/-- What a translation of a unit leaves: all but the MMUs' and units' translations and what a counted event changes. -/
def quietXlat (s : State) : State × (Nat → CuSt) :=
  ({ quiet s with mmus := [], units := [] }, fun v => { s.cu v with tlb := [] })

theorem quietXlat_of_quiet {s t : State} (h : quiet t = quiet s) : quietXlat t = quietXlat s := (congrArg quietXlat h :)

theorem setMmu_quietXlat (s : State) (d : Nat) (m : MmuSt) : quietXlat (s.setMmu d m) = quietXlat s := rfl

theorem findLeaf_quietXlat (s : State) (d aspace va : Nat) : quietXlat (findLeaf s d aspace va).2 = quietXlat s := by
  have hcount (x y z : Nat) : quietXlat (countEv (countEv (countEv s (pgMmu d) 1 x) (pgMmu d) 2 y) (pgMmu d) 3 z) =
      quietXlat s := by
    refine quietXlat_of_quiet ?_
    rw [countEv_quiet, countEv_quiet, countEv_quiet]
  unfold findLeaf
  dsimp only
  split
  · rfl
  · split
    · rfl
    · split
      · rfl
      · split
        · exact (setMmu_quietXlat _ _ _).trans (hcount _ _ _)
        · exact hcount _ _ _

theorem setCu_quietXlat {s : State} {u : Nat} {c : CuSt} (h : { c with tlb := [] } = { s.cu u with tlb := [] }) :
    quietXlat (s.setCu u c) = quietXlat s := by
  refine congrArg (Prod.mk ({ quiet s with mmus := [], units := [] } : State)) (funext fun v => ?_)
  rw [setCu_cu]
  split
  · next hv => rw [h, hv]
  · rfl

theorem unitXlat_quietXlat (s : State) (u aspace va n : Nat) (acc : Acc) :
    quietXlat (unitXlat s u aspace va n acc).2 = quietXlat s := by
  have hleaf := findLeaf_quietXlat s (uDie u) aspace va
  have hcu : { s.cu u with tlb := [] } = { (findLeaf s (uDie u) aspace va).2.cu u with tlb := [] } :=
    (congrArg (fun z => z.2 u) hleaf.symm :)
  unfold unitXlat
  dsimp only
  split
  · rfl
  · split
    · rfl
    · split
      · exact (setCu_quietXlat (by exact hcu)).trans hleaf
      · exact hleaf

theorem placesOf_quietXlat (s : State) (u aspace w : Nat) (acc : Acc) (l : List (Nat × Nat)) :
    quietXlat (placesOf s u aspace w acc l).2.2 = quietXlat s := by
  induction l generalizing s with
  | nil => rfl
  | cons p l ih =>
    obtain ⟨k, va⟩ := p
    have hx := unitXlat_quietXlat s u aspace va w acc
    unfold placesOf
    dsimp only
    split
    · exact hx
    · exact (ih _).trans hx

theorem quietXlat_of_placesOf {s s1 : State} {u aspace w : Nat} {acc : Acc} {l : List (Nat × Nat)}
    {ps : List (Nat × Where)} {e : Option (Nat × XKind × Nat × W64)} (h : placesOf s u aspace w acc l = (ps, e, s1)) :
    quietXlat s1 = quietXlat s :=
  (congrArg (fun r => quietXlat r.2.2) h).symm.trans (placesOf_quietXlat _ _ _ _ _ _)

theorem quietXlat_of_unitXlat {s s1 : State} {u aspace va n : Nat} {acc : Acc} {x : Where}
    (h : unitXlat s u aspace va n acc = (x, s1)) : quietXlat s1 = quietXlat s :=
  (congrArg (fun r => quietXlat r.2) h).symm.trans (unitXlat_quietXlat _ _ _ _ _ _)

end Sys2Proof.Proofs
end

section
/-! An instruction of a thread group that issues (spec/07_thread_groups.md R172, R198, R199): what its issue adds to what
its body does, how it faults, and how it moves on. -/

namespace Sys2Proof.Proofs

open Sys2Proof.Laws Sys2Proof.Machine

/-! ### Issue -/

/-- An instruction has issued: a single step that a debugger asked of the group is used up, and it is counted. -/
def issued (u h : Nat) (t : State) : State :=
  countEv { t with dbg := { t.dbg with steps := t.dbg.steps.filter (· != gKey u h) } } (uGrp u) 1 1

/-- What counting and single-stepping leave. -/
def quietIssue (s : State) : State := { quiet s with dbg := ⟨none, none, none, none, none, []⟩ }

theorem issued_quietIssue (u h : Nat) (t : State) : quietIssue (issued u h t) = quietIssue t :=
  (congrArg quietIssue (countEv_quiet _ _ _ _) :)

section
variable (u h : Nat) (t : State)

@[simp] theorem issued_regs : (issued u h t).regs = t.regs := (congrArg State.regs (issued_quietIssue u h t) :)
@[simp] theorem issued_sc : (issued u h t).sc = t.sc := (congrArg State.sc (issued_quietIssue u h t) :)
@[simp] theorem issued_homes : (issued u h t).homes = t.homes := (congrArg State.homes (issued_quietIssue u h t) :)
@[simp] theorem issued_cc : (issued u h t).cc = t.cc := (congrArg State.cc (issued_quietIssue u h t) :)
@[simp] theorem issued_ls : (issued u h t).ls = t.ls := (congrArg State.ls (issued_quietIssue u h t) :)
@[simp] theorem issued_units : (issued u h t).units = t.units := (congrArg State.units (issued_quietIssue u h t) :)
@[simp] theorem issued_items : (issued u h t).items = t.items := (congrArg State.items (issued_quietIssue u h t) :)
@[simp] theorem issued_jobs : (issued u h t).jobs = t.jobs := (congrArg State.jobs (issued_quietIssue u h t) :)
@[simp] theorem issued_queues : (issued u h t).queues = t.queues := (congrArg State.queues (issued_quietIssue u h t) :)
@[simp] theorem issued_vregs : (issued u h t).vregs = t.vregs := (congrArg State.vregs (issued_quietIssue u h t) :)
@[simp] theorem issued_groups : (issued u h t).groups = t.groups := (congrArg State.groups (issued_quietIssue u h t) :)
@[simp] theorem issued_reg (a : Nat) : (issued u h t).reg a = t.reg a :=
  (congrArg (State.reg · a) (issued_quietIssue u h t) :)
@[simp] theorem issued_item (i : Nat) : (issued u h t).item i = t.item i :=
  (congrArg (State.item · i) (issued_quietIssue u h t) :)
@[simp] theorem issued_grp (x y : Nat) : (issued u h t).grp x y = t.grp x y :=
  (congrArg (State.grp · x y) (issued_quietIssue u h t) :)
@[simp] theorem issued_vreg (x y r k : Nat) : (issued u h t).vreg x y r k = t.vreg x y r k :=
  (congrArg (State.vreg · x y r k) (issued_quietIssue u h t) :)
@[simp] theorem issued_cu (v : Nat) : (issued u h t).cu v = t.cu v :=
  (congrArg (State.cu · v) (issued_quietIssue u h t) :)
@[simp] theorem issued_ccWay (k : Nat) : (issued u h t).ccWay k = t.ccWay k :=
  (congrArg (State.ccWay · k) (issued_quietIssue u h t) :)

end

section
variable {s : State} {u h op : Nat} {f : GFields} {use : GUse} {g : Group} {it : Item} (hi : Issues s u h op f use g it)
include hi

/-- An instruction that issues does what its body does. -/
theorem issue_next {body : Group → Item → State → Option State} {t : State} (hbody : body g it s = some t) :
    issue u h op f use body s = .next (issued u h t) := by
  obtain ⟨hlive, -, hg, hit, hkind, hcan, -, -, hword, hlegal, hready⟩ := hi
  simp [issue, whenLive, issued, hlive, hg, hit, hkind, hcan, hword, hlegal, hready, hbody]

/-! ### Faults -/

theorem grp_of_issues : s.grp u h = some g := by
  obtain ⟨-, -, hg, -⟩ := hi
  exact hg

theorem resident_lt_of_issues : h < 64 := by
  obtain ⟨-, hh, -⟩ := hi
  exact hh

theorem dest_lt_of_issues : f.d < 256 := by
  obtain ⟨-, -, -, -, -, -, hd, -⟩ := hi
  exact hd

/-- The item of a group that may issue has had no error (R172). -/
theorem err_none_of_issues : it.err = none := by
  obtain ⟨-, -, -, -, -, hcan, -⟩ := hi
  simp only [canIssue, Bool.and_eq_true, decide_eq_true_eq] at hcan
  tauto

/-- What GRP_FAULT records of a group's fault (R198). -/
def faultWord (s : State) (h cause : Nat) (g : Group) (it : Item) : W64 :=
  BitVec.ofNat 64 (2 ^ 63 + cause % 256 * 2 ^ 48 + it.islot.getD 0 % 4 * 2 ^ 46 + h % 64 * 2 ^ 40
    + pcByte (programOf s it) g.pc)

/-- A fault of a group latches GRP_FAULT if it holds none yet, is counted, and ends the group's item. -/
theorem groupFault_of_issues (cause tag : Nat) : groupFault s u h cause tag =
    (countEv (if bit 63 (s.reg (regAddr (uGrp u) 0x110)) then s
      else s.setReg (regAddr (uGrp u) 0x110) (faultWord s h cause g it)) (uGrp u) 7 1).setItem g.item
        (some { it with log := [], err := some (stGrpFault, cause, tag) }) := by
  have herr := err_none_of_issues hi
  obtain ⟨-, -, hg, hit, hkind, -⟩ := hi
  simp only [groupFault, hg, hit]
  rw [if_pos hkind, herr, Option.getD_none, faultWord]

/-- An instruction whose body faults: the group stands, the item will end with the fault (R198). -/
theorem issued_groupFault (cause tag : Nat) :
    GroupFaulted s (issued u h (groupFault s u h cause tag)) u h cause tag g it := by
  have hlatch (a : Nat) (v : W64) (i : Option Item) :
      let t := issued u h ((countEv (if bit 63 (s.reg a) then s else s.setReg a v) (uGrp u) 7 1).setItem g.item i)
      t.vregs = s.vregs ∧ t.ls = s.ls ∧ t.cc = s.cc ∧ t.groups = s.groups ∧ t.item g.item = i ∧
        (∀ n, n ≠ g.item → t.item n = s.item n) ∧ t.reg a = (if bit 63 (s.reg a) then s.reg a else v) ∧
        ∀ b, b ≠ a → t.reg b = s.reg b := by
    split
    · exact ⟨by simp, by simp, by simp, by simp, by simp, fun n hne => by simp [hne], by simp, by simp⟩
    · exact ⟨by simp, by simp, by simp, by simp, by simp, fun n hne => by simp [hne], by simp,
        fun b hne => by simp [hne]⟩
  rw [groupFault_of_issues hi]
  exact hlatch _ (faultWord s h cause g it) _

end

/-! ### Moving on -/

theorem gKey_inj {x y u h : Nat} (hy : y < 64) (hh : h < 64) : gKey x y = gKey u h ↔ x = u ∧ y = h := by
  unfold gKey
  omega

theorem vKey_inj {x y r k u h d j : Nat} (hy : y < 64) (hh : h < 64) (hr : r < 256) (hd : d < 256) (hk : k < 32)
    (hj : j < 32) : vKey x y r k = vKey u h d j ↔ x = u ∧ y = h ∧ r = d ∧ k = j := by
  unfold vKey gKey
  omega

/-- The group that moves on stands at the next instruction. -/
@[simp] theorem nextPc_grp_same (u h : Nat) (g : Group) (z : State) :
    (nextPc u h g z).grp u h = some { g with pc := (g.pc + 1) % 2 ^ 32 } := by
  simp [nextPc]

theorem nextPc_grp_other {u h x y : Nat} (g : Group) (z : State) (hh : h < 64) (hy : y < 64) (hne : ¬(x = u ∧ y = h)) :
    (nextPc u h g z).grp x y = z.grp x y := by
  rw [nextPc, setGrp_grp, if_neg (mt (gKey_inj hy hh).mp hne)]

/-- An instruction that only moves its group on. -/
theorem movesOn_issued_nextPc {s z : State} {u h : Nat} (g : Group) (hh : h < 64) (hvregs : z.vregs = s.vregs)
    (hitems : z.items = s.items) (hjobs : z.jobs = s.jobs) (hqueues : z.queues = s.queues) (hgroups : z.groups = s.groups) :
    MovesOn s (issued u h (nextPc u h g z)) u h g := by
  have hgrp (x y : Nat) : z.grp x y = s.grp x y := by rw [State.grp, State.grp, hgroups]
  refine ⟨by rw [issued_grp, nextPc_grp_same], by rw [issued_vregs]; exact hvregs, by rw [issued_items]; exact hitems,
    by rw [issued_jobs]; exact hjobs, by rw [issued_queues]; exact hqueues, fun x y hy hne => ?_⟩
  rw [issued_grp, nextPc_grp_other g z hh hy hne, hgrp]

/-! ### The threads' addresses and registers -/

theorem lt_of_mem_threads {g : Group} {k : Nat} (hk : k ∈ g.threads) : k < 32 := by
  simp only [Group.threads, maskBits, List.mem_filter, List.mem_range] at hk
  exact hk.1

theorem threads_nodup (g : Group) : g.threads.Nodup := List.nodup_range.filter _

theorem widthOf_cases (c : Nat) : widthOf c = 1 ∨ widthOf c = 2 ∨ widthOf c = 4 := by
  unfold widthOf
  split_ifs <;> simp

theorem widthOf_pos (c : Nat) : 0 < widthOf c := by
  obtain hw | hw | hw := widthOf_cases c <;> omega

/-- An aligned access lies in one sector. -/
theorem aligned_in_sector {a c : Nat} (h : a % widthOf c = 0) : a % 32 + widthOf c ≤ 32 := by
  obtain hw | hw | hw := widthOf_cases c <;> rw [hw] at h ⊢ <;> omega

/-- Values written to one register of distinct threads, each by its thread. -/
def writeEach (z : State) (u h d : Nat) (l : List (Nat × Nat)) : State :=
  l.foldl (fun x p => x.setVreg u h d p.1 p.2) z

theorem writeEach_induction {P : State → Prop} {u h d : Nat} (hset : ∀ x k v, P x → P (x.setVreg u h d k v))
    {z : State} (hz : P z) (l : List (Nat × Nat)) : P (writeEach z u h d l) :=
  List.foldlRecOn l _ hz fun x hx p _ => hset x p.1 p.2 hx

theorem writeEach_vreg_other {z : State} {u h d x y r k : Nat} {l : List (Nat × Nat)}
    (hne : ∀ p ∈ l, vKey x y r k ≠ vKey u h d p.1) : (writeEach z u h d l).vreg x y r k = z.vreg x y r k := by
  refine List.foldlRecOn (motive := fun t => State.vreg t x y r k = z.vreg x y r k) l _ rfl fun t ht p hp => ?_
  rw [setVreg_vreg, if_neg (hne p hp), ht]

theorem writeEach_vreg_mem {z : State} {u h d k v : Nat} {l : List (Nat × Nat)} (hnodup : (l.map Prod.fst).Nodup)
    (hmem : (k, v) ∈ l) : (writeEach z u h d l).vreg u h d k = v % 2 ^ 32 := by
  induction l generalizing z with
  | nil => simp at hmem
  | cons p l ih =>
    rw [List.map_cons, List.nodup_cons] at hnodup
    obtain ⟨hp, hnodup⟩ := hnodup
    rcases List.mem_cons.mp hmem with rfl | hmem
    · have hother : ∀ q ∈ l, vKey u h d k ≠ vKey u h d q.1 := by
        intro q hq heq
        have hkq : k = q.1 := by
          unfold vKey at heq
          omega
        exact hp (List.mem_map.mpr ⟨q, hq, hkq.symm⟩)
      have hrest := writeEach_vreg_other (z := z.setVreg u h d k v) hother
      rw [setVreg_vreg, if_pos rfl] at hrest
      exact hrest
    · exact ih hnodup hmem

/-! ### Places -/

/-- A thread's place in memory. -/
def paPlace (p : Nat × Where) : Option (Nat × Nat) :=
  match p.2 with
  | .pa a => some (p.1, a)
  | _ => none

/-- Translations that find no fault give every thread its place, in the order asked. -/
theorem placesOf_threads {s s1 : State} {u aspace w : Nat} {acc : Acc} {l : List (Nat × Nat)} {ps : List (Nat × Where)}
    (h : placesOf s u aspace w acc l = (ps, none, s1)) : ps.map Prod.fst = l.map Prod.fst := by
  induction l generalizing s ps with
  | nil =>
    simp only [placesOf, Prod.mk.injEq] at h
    rw [← h.1]
    rfl
  | cons p l ih =>
    obtain ⟨k, va⟩ := p
    unfold placesOf at h
    dsimp only at h
    split at h
    · simp at h
    · simp only [Prod.mk.injEq] at h
      obtain ⟨hps, he, hs⟩ := h
      have hrest := ih (Prod.ext rfl (Prod.ext he hs))
      rw [← hps, List.map_cons, List.map_cons, hrest]

theorem paPlace_sublist (ps : List (Nat × Where)) : ((ps.filterMap paPlace).map Prod.fst).Sublist (ps.map Prod.fst) := by
  induction ps with
  | nil => exact List.Sublist.slnil
  | cons p ps ih =>
    obtain ⟨k, x⟩ := p
    cases x with
    | pa a => exact ih.cons_cons k
    | win fl ga => exact ih.cons k
    | fault c l pte => exact ih.cons k

/-- The places of the threads, in the order of their addresses, name each thread once. -/
theorem places_nodup {s s1 : State} {u aspace w : Nat} {acc : Acc} {g : Group} {addr : Nat → Nat}
    {ps : List (Nat × Where)}
    (h : placesOf s u aspace w acc (byAddress (g.threads.map (fun k => (k, addr k)))) = (ps, none, s1)) :
    ((ps.filterMap paPlace).map Prod.fst).Nodup ∧ ∀ p ∈ ps.filterMap paPlace, p.1 ∈ g.threads := by
  have hperm : (ps.map Prod.fst).Perm g.threads := by
    rw [placesOf_threads h]
    have hsort := (List.mergeSort_perm (g.threads.map (fun k => (k, addr k))) (fun a b => decide (a.2 ≤ b.2))).map Prod.fst
    rw [List.map_map, show Prod.fst ∘ (fun k => (k, addr k)) = id from rfl, List.map_id] at hsort
    exact hsort
  have hsub := paPlace_sublist ps
  refine ⟨(hperm.nodup_iff.mpr (threads_nodup g)).sublist hsub, fun p hp => ?_⟩
  exact hperm.mem_iff.mp (hsub.subset (List.mem_map_of_mem hp))

end Sys2Proof.Proofs
end

section
/-! LDG, STG and ATOMG (spec/07_thread_groups.md R177, R180, R181, R183; spec/08_cu_memory.md R208, R211): what each that
issues does. -/

namespace Sys2Proof.Proofs

open Sys2Proof.Laws Sys2Proof.Machine

section
variable {s : State} {u h : Nat} {f : GFields} {g : Group} {it : Item}

/-! ### Fields and addresses -/

/-- How LDG uses its fields. -/
def useLdg : GUse := { d := true, pairA := true, codes := some 3, imm := true }

/-- How STG uses its fields. -/
def useStg : GUse := { pairA := true, b := true, codes := some 3, imm := true }

/-- How ATOMG uses its fields. -/
def useAtomg : GUse := { pairA := true, b := true, codes := some 7, imm := true }

/-- The threads' addresses are aligned to the width (R181). -/
def Aligned (s : State) (u h : Nat) (f : GFields) (g : Group) : Prop :=
  ∀ p ∈ g.threads.map (fun k => (k, pairAddr s u h f k)), p.2 % widthOf f.c = 0

/-- The threads in the order in which their addresses are translated. -/
def ordered (s : State) (u h : Nat) (f : GFields) (g : Group) : List (Nat × Nat) :=
  byAddress (g.threads.map (fun k => (k, pairAddr s u h f k)))

theorem not_any_misaligned (hal : Aligned s u h f g) :
    (g.threads.map (fun k => (k, pairAddr s u h f k))).any (fun p => decide (p.2 % widthOf f.c ≠ 0)) = false := by
  rw [List.any_eq_false]
  intro p hp
  simpa using hal p hp

theorem any_misaligned (hmis : ∃ p ∈ g.threads.map (fun k => (k, pairAddr s u h f k)), p.2 % widthOf f.c ≠ 0) :
    (g.threads.map (fun k => (k, pairAddr s u h f k))).any (fun p => decide (p.2 % widthOf f.c ≠ 0)) = true := by
  obtain ⟨p, hp, hne⟩ := hmis
  exact List.any_eq_true.mpr ⟨p, hp, by simpa using hne⟩

/-! ### LDG -/

/-- The threads whose sector hits, each with its place in memory. -/
def hitsOf (s : State) (u : Nat) (ps : List (Nat × Where)) : List (Nat × Nat) :=
  (ps.filterMap paPlace).filter (fun p => ccHits s u p.2)

/-- The threads whose sector misses, each with its place in memory. -/
def missesOf (s : State) (u : Nat) (ps : List (Nat × Where)) : List (Nat × Nat) :=
  (ps.filterMap paPlace).filter (fun p => !ccHits s u p.2)

/-- The values of the threads that hit. -/
def gotOf (s : State) (u w : Nat) (ps : List (Nat × Where)) : List (Nat × Nat) :=
  (hitsOf s u ps).map (fun p => (p.1, ccValue s u p.2 w))

/-- The load that waits for the sectors that miss. -/
def loadOf (s s1 : State) (u h : Nat) (f : GFields) (ps : List (Nat × Where)) : PendLoad :=
  ⟨h, f.d, widthOf f.c, (missesOf s1 u ps).map (fun p => (p.1, LoadAt.pa p.2 (pairAddr s u h f p.1))),
    gotOf s1 u (widthOf f.c) ps⟩

/-- Without an armed CCUE a load's sectors are as they were. -/
theorem ccueFires_foldl_of_not_armed {s : State} {u : Nat} (h : armedAt s (uCu u) 13 = false) (l : List Nat) :
    l.foldl (fun x a => ccueFires x u (a / 16) (a % 16)) s = s :=
  List.foldlRecOn (motive := fun t => t = s) l _ rfl fun t ht a _ => by simp [ht, ccueFires, h]

/-- The sectors that a load hits count as used lately. -/
def touchHits (s : State) (u : Nat) (hits : List (Nat × Nat)) : State :=
  hits.foldl (fun x p => match ccFind x u (p.2 / 128) with
    | some way => ccTouch x u (p.2 / 128) way
    | none => x) s

theorem touchHits_quietLoads (s : State) (u : Nat) (hits : List (Nat × Nat)) :
    quietLoads (touchHits s u hits) = quietLoads s := by
  refine List.foldlRecOn (motive := fun t => quietLoads t = quietLoads s) hits _ rfl fun t ht p _ => ?_
  split
  · rw [ccTouch_quietLoads, ht]
  · exact ht

/-- No thread's place is in a fabric window. -/
theorem windows_nil {α : Type} {ps : List (Nat × Where)} (hpa : ∀ p ∈ ps, ∃ a, p.2 = .pa a)
    (win : Nat × Where → Option α) (hwin : ∀ k a, win (k, .pa a) = none) : ps.filterMap win = [] := by
  rw [List.filterMap_eq_nil_iff]
  rintro ⟨k, x⟩ hp
  obtain ⟨a, rfl⟩ : ∃ a, x = .pa a := hpa _ hp
  exact hwin k a

/-- A load has read the sectors that it hits. -/
def ldgRead (s : State) (u : Nat) (hits : List (Nat × Nat)) (as : List Nat) : State :=
  countEv (countEv (touchHits (ccceFires s u (!hits.isEmpty)) u hits) (uCu u) 0x20 (sectorCount (hits.map Prod.snd)))
    (uGrp u) 2 (sectorCount as)

theorem ldgRead_quietLoads (s : State) (u : Nat) (hits : List (Nat × Nat)) (as : List Nat) :
    quietLoads (ldgRead s u hits as) = quietLoads s := by
  rw [ldgRead, countEv_quietLoads, countEv_quietLoads, touchHits_quietLoads, ccceFires_quietLoads]

/-- The loads of a unit with one more that waits. -/
def addLoad (z : State) (u : Nat) (l : PendLoad) : State := z.setCu u { z.cu u with loads := (z.cu u).loads ++ [l] }

/-- A load whose threads have their places and its misses their registers: with no miss it writes D, else it waits. -/
theorem exec_ldg (hi : Issues s u h 0x22 f useLdg g it) (hal : Aligned s u h f g) {ps : List (Nat × Where)} {s1 s2 : State}
    (hplaces : placesOf s u (itemSpace s it) (widthOf f.c) .rd (ordered s u h f g) = (ps, none, s1))
    (harmed : armedAt s1 (uCu u) 13 = false) (hpa : ∀ p ∈ ps, ∃ a, p.2 = .pa a)
    (htake : takeMisses s1 u (linesOf ((missesOf s1 u ps).map Prod.snd)) = some s2) :
    ∃ z, quietLoads z = quietLoads s2 ∧ exec (.ldg u h f) s = .next (issued u h (nextPc u h g
      (if missesOf s1 u ps = [] then writeEach z u h f.d (gotOf s1 u (widthOf f.c) ps)
       else addLoad z u (loadOf s s1 u h f ps)))) := by
  have hexec : exec (.ldg u h f) s = execLdg u h f s := rfl
  have hany := not_any_misaligned hal
  unfold ordered at hplaces
  refine ⟨ldgRead s2 u (hitsOf s1 u ps) ((g.threads.map (fun k => (k, pairAddr s u h f k))).map Prod.snd),
    ldgRead_quietLoads _ _ _ _, hexec.trans (issue_next hi ?_)⟩
  extract_lets +onlyGivenNames w as
  rw [if_neg (Bool.eq_false_iff.mp hany), hplaces]
  dsimp -zeta only
  extract_lets +onlyGivenNames pas wins t1 hits miss
  have hpas : pas = ps.filterMap paPlace := rfl
  have hwins : wins = [] := windows_nil hpa _ fun _ _ => rfl
  have ht1 : t1 = s1 := ccueFires_foldl_of_not_armed harmed _
  clear_value pas wins t1
  subst hpas hwins ht1
  have hhits : hits = hitsOf t1 u ps := rfl
  have hmiss : miss = missesOf t1 u ps := rfl
  clear_value hits miss
  subst hhits hmiss
  rw [htake]
  dsimp -zeta only
  extract_lets +onlyGivenNames t3 t4 got
  have ht4 : t4 = ldgRead s2 u (hitsOf t1 u ps) ((g.threads.map (fun k => (k, pairAddr s u h f k))).map Prod.snd) := rfl
  clear_value t4
  subst ht4
  generalize ldgRead _ _ _ _ = z
  by_cases hall : missesOf t1 u ps = []
  · rw [if_pos (by rw [hall]; rfl), if_pos hall]
    rfl
  · rw [if_neg (by simpa using hall), if_neg hall]
    extract_lets +onlyGivenNames runs req0 t5 fab t6
    have ht6 : t6 = z := rfl
    clear_value t6
    subst ht6
    simp only [List.map_nil, List.append_nil]
    rfl

/-- Before a load writes or waits it leaves the items, the thread registers and the loads that wait. -/
theorem ldg_frame {ps : List (Nat × Where)} {e : Option (Nat × XKind × Nat × W64)} {l : List (Nat × Nat)}
    {s1 s2 z : State} {aspace w : Nat} {acc : Acc} {lines : List Nat} (hplaces : placesOf s u aspace w acc l = (ps, e, s1))
    (htake : takeMisses s1 u lines = some s2) (hz : quietLoads z = quietLoads s2) :
    z.items = s.items ∧ z.vregs = s.vregs ∧ (z.cu u).loads = (s.cu u).loads := by
  have h12 := hz.trans (takeMisses_quietLoads htake)
  have h1 := quietXlat_of_placesOf hplaces
  have hitems : z.items = s1.items := (congrArg (fun q => State.items q.1) h12 :)
  have hvregs : z.vregs = s1.vregs := (congrArg (fun q => State.vregs q.1) h12 :)
  have hloads : (z.cu u).loads = (s1.cu u).loads := (congrArg (fun q => q.2 u) h12 :)
  exact ⟨hitems.trans (congrArg (fun q => State.items q.1) h1 :), hvregs.trans (congrArg (fun q => State.vregs q.1) h1 :),
    hloads.trans (congrArg (fun q => CuSt.loads (q.2 u)) h1 :)⟩

/-- A load whose sectors all hit writes D of its threads, and no other register. -/
theorem ldg_hits (hi : Issues s u h 0x22 f useLdg g it) (hal : Aligned s u h f g) {ps : List (Nat × Where)} {s1 : State}
    (hplaces : placesOf s u (itemSpace s it) (widthOf f.c) .rd (ordered s u h f g) = (ps, none, s1))
    (harmed : armedAt s1 (uCu u) 13 = false) (hpa : ∀ p ∈ ps, ∃ a, p.2 = .pa a) (hall : missesOf s1 u ps = []) :
    ∃ t, exec (.ldg u h f) s = .next t ∧ t.items = s.items ∧ t.grp u h = some { g with pc := (g.pc + 1) % 2 ^ 32 } ∧
      (∀ k a, (k, a) ∈ hitsOf s1 u ps → t.vreg u h f.d k = ccValue s1 u a (widthOf f.c) % 2 ^ 32) ∧
      (∀ x y r k, y < 64 → r < 256 → k < 32 → ¬(x = u ∧ y = h ∧ r = f.d ∧ k ∈ g.threads) →
        t.vreg x y r k = s.vreg x y r k) := by
  have htake : takeMisses s1 u (linesOf ((missesOf s1 u ps).map Prod.snd)) = some s1 := by
    rw [hall]
    rfl
  obtain ⟨z, hz, hexec⟩ := exec_ldg hi hal hplaces harmed hpa htake
  obtain ⟨hitems, hvregs, -⟩ := ldg_frame hplaces htake hz
  obtain ⟨hnodup, hthreads⟩ := places_nodup hplaces
  have hh := resident_lt_of_issues hi
  have hd := dest_lt_of_issues hi
  rw [if_pos hall] at hexec
  have hfst : (gotOf s1 u (widthOf f.c) ps).map Prod.fst = (hitsOf s1 u ps).map Prod.fst := by
    rw [gotOf, List.map_map]
    rfl
  have hgot : ((gotOf s1 u (widthOf f.c) ps).map Prod.fst).Nodup := by
    rw [hfst]
    exact hnodup.sublist ((List.filter_sublist).map _)
  refine ⟨_, hexec, ?_, ?_, fun k a hka => ?_, fun x y r k hy hr hk hne => ?_⟩
  · rw [issued_items]
    exact writeEach_induction (P := fun t => t.items = s.items) (fun t k v ht => ht) hitems _
  · rw [issued_grp, nextPc_grp_same]
  · rw [issued_vreg]
    exact writeEach_vreg_mem hgot (List.mem_map_of_mem hka)
  · rw [issued_vreg]
    refine (writeEach_vreg_other fun p hp heq => hne ?_).trans (by rw [State.vreg, State.vreg, hvregs])
    have hp : p.1 ∈ g.threads := by
      obtain ⟨q, hq, rfl⟩ := List.mem_map.mp hp
      exact hthreads q (List.mem_filter.mp hq).1
    obtain ⟨hx, hyh, hrd, hkp⟩ := (vKey_inj hy hh hr hd hk (lt_of_mem_threads hp)).mp heq
    exact ⟨hx, hyh, hrd, hkp ▸ hp⟩

/-- A load with sectors that miss writes no register and waits. -/
theorem ldg_misses (hi : Issues s u h 0x22 f useLdg g it) (hal : Aligned s u h f g) {ps : List (Nat × Where)}
    {s1 s2 : State} (hplaces : placesOf s u (itemSpace s it) (widthOf f.c) .rd (ordered s u h f g) = (ps, none, s1))
    (harmed : armedAt s1 (uCu u) 13 = false) (hpa : ∀ p ∈ ps, ∃ a, p.2 = .pa a) (hsome : missesOf s1 u ps ≠ [])
    (htake : takeMisses s1 u (linesOf ((missesOf s1 u ps).map Prod.snd)) = some s2) :
    ∃ t, exec (.ldg u h f) s = .next t ∧ t.vregs = s.vregs ∧ t.grp u h = some { g with pc := (g.pc + 1) % 2 ^ 32 } ∧
      (t.cu u).loads = (s.cu u).loads ++ [loadOf s s1 u h f ps] := by
  obtain ⟨z, hz, hexec⟩ := exec_ldg hi hal hplaces harmed hpa htake
  obtain ⟨-, hvregs, hloads⟩ := ldg_frame hplaces htake hz
  rw [if_neg hsome] at hexec
  refine ⟨_, hexec, ?_, ?_, ?_⟩
  · rw [issued_vregs]
    exact hvregs
  · rw [issued_grp, nextPc_grp_same]
  · rw [issued_cu, nextPc, setGrp_cu, addLoad, setCu_cu, if_pos rfl, hloads]

/-! ### STG -/

/-- What a store into the units' caches leaves: all but the caches, translations, the number of free values, and what a
counted event changes. -/
def quietStore (s : State) : State := { quiet s with mmus := [], units := [], cc := [], free := 0 }

/-- One thread's bytes as they are stored: distinct places, each with its byte. -/
theorem storeBytes_one (s : State) (u h : Nat) (f : GFields) (n k a : Nat) :
    mergeStores n (((leBytes (widthOf f.c) (s.vreg u h f.b k)).zipIdx.map (fun p => (a + p.2, p.1))) ++ []) =
      (leBytes (widthOf f.c) (s.vreg u h f.b k)).zipIdx.map (fun p => (a + p.2, p.1)) := by
  rw [List.append_nil, mergeStores_zipIdx]

/-- A store of one thread whose bytes the cache takes. -/
theorem exec_stg_one (hi : Issues s u h 0x23 f useStg g it) (hal : Aligned s u h f g) {k a : Nat} {s1 t3 : State}
    (hplaces : placesOf s u (itemSpace s it) (widthOf f.c) .wr (ordered s u h f g) = ([(k, .pa a)], none, s1))
    (hstores : ccStores s1.takeFree.2 u
      ((leBytes (widthOf f.c) (s.vreg u h f.b k)).zipIdx.map (fun p => (a + p.2, p.1))) = some t3) :
    ∃ n, exec (.stg u h f) s = .next (issued u h (nextPc u h g (countEv t3 (uGrp u) 2 n))) := by
  have hexec : exec (.stg u h f) s = execStg u h f s := rfl
  have hany := not_any_misaligned hal
  unfold ordered at hplaces
  refine ⟨sectorCount ((g.threads.map (fun k => (k, pairAddr s u h f k))).map Prod.snd), hexec.trans (issue_next hi ?_)⟩
  extract_lets +onlyGivenNames w as
  rw [if_neg (Bool.eq_false_iff.mp hany), hplaces]
  dsimp -zeta only [State.takeFree] at hstores ⊢
  extract_lets +onlyGivenNames val near
  have hnear : near = (leBytes (widthOf f.c) (s.vreg u h f.b k)).zipIdx.map (fun p => (a + p.2, p.1)) :=
    storeBytes_one s u h f _ k a
  clear_value near
  rw [hnear, hstores]
  rfl

/-- A store of one thread into a line that the cache holds: its bytes stand in the sector and are dirty, the rest of the
sector is as it was. -/
theorem stg_one (hi : Issues s u h 0x23 f useStg g it) (hal : Aligned s u h f g) {k a way : Nat} {s1 : State}
    (hplaces : placesOf s u (itemSpace s it) (widthOf f.c) .wr (ordered s u h f g) = ([(k, .pa a)], none, s1))
    (hpa : a % widthOf f.c = 0) (hfind : ccFind s1 u (a / 128) = some way)
    (hlen : (s1.ccWay (ccKey u (a / 128) way)).secs.length = 4) :
    ∃ t, exec (.stg u h f) s = .next t ∧ MovesOn s t u h g ∧ t.regs = s.regs ∧ t.sc = s.sc ∧ t.homes = s.homes ∧
      (t.ccWay (ccKey u (a / 128) way)).sec (a % 128 / 32) =
        storeRun ((s1.ccWay (ccKey u (a / 128) way)).sec (a % 128 / 32)) (a % 32)
          (leBytes (widthOf f.c) (s.vreg u h f.b k)) := by
  have hfit : a % 32 + 0 + (leBytes (widthOf f.c) (s.vreg u h f.b k)).length ≤ 32 := by
    rw [leBytes_length]
    exact aligned_in_sector hpa
  obtain ⟨t3, hstores, hquiet, hsec⟩ := ccStores_run (s := s1.takeFree.2) _ hfind hlen hfit
  obtain ⟨n, hexec⟩ := exec_stg_one hi hal hplaces hstores
  have hxlat : quietStore s1.takeFree.2 = quietStore s :=
    (congrArg (fun q => quietStore q.1) (quietXlat_of_placesOf hplaces) :)
  have hkept : quietStore (countEv t3 (uGrp u) 2 n) = quietStore s :=
    ((congrArg quietStore (countEv_quiet t3 (uGrp u) 2 n) :).trans (congrArg quietStore hquiet :)).trans hxlat
  refine ⟨_, hexec, movesOn_issued_nextPc g (resident_lt_of_issues hi) (congrArg State.vregs hkept :)
    (congrArg State.items hkept :) (congrArg State.jobs hkept :) (congrArg State.queues hkept :)
    (congrArg State.groups hkept :), ?_, ?_, ?_, ?_⟩
  · rw [issued_regs, nextPc, setGrp_regs]
    exact (congrArg State.regs hkept :)
  · rw [issued_sc, nextPc, setGrp_sc]
    exact (congrArg State.sc hkept :)
  · rw [issued_homes, nextPc, setGrp_homes]
    exact (congrArg State.homes hkept :)
  · rw [issued_ccWay, nextPc, setGrp_ccWay, countEv_ccWay]
    exact hsec

/-! ### Faults of LDG and STG -/

theorem sumpFault_cc (s : State) (x : SFault) : (sumpFault s x).cc = s.cc := by
  unfold sumpFault
  dsimp only
  split
  · rw [countEv_cc]
  · split <;> rfl

/-- An LDG of which a translation faults. -/
theorem exec_ldg_fault (hi : Issues s u h 0x22 f useLdg g it) (hal : Aligned s u h f g) {ps : List (Nat × Where)}
    {s1 : State} {va level : Nat} {k : XKind} {pte : W64}
    (hplaces : placesOf s u (itemSpace s it) (widthOf f.c) .rd (ordered s u h f g) = (ps, some (va, k, level, pte), s1)) :
    exec (.ldg u h f) s =
      .next (issued u h (itemFault s1 g.item it (itemSpace s it) va k level pte .rd (groupWaiter u g.item h))) := by
  have hexec : exec (.ldg u h f) s = execLdg u h f s := rfl
  unfold ordered at hplaces
  refine hexec.trans (issue_next hi ?_)
  extract_lets +onlyGivenNames w as
  rw [if_neg (Bool.eq_false_iff.mp (not_any_misaligned hal)), hplaces]

/-- An STG of which a translation faults. -/
theorem exec_stg_fault (hi : Issues s u h 0x23 f useStg g it) (hal : Aligned s u h f g) {ps : List (Nat × Where)}
    {s1 : State} {va level : Nat} {k : XKind} {pte : W64}
    (hplaces : placesOf s u (itemSpace s it) (widthOf f.c) .wr (ordered s u h f g) = (ps, some (va, k, level, pte), s1)) :
    exec (.stg u h f) s =
      .next (issued u h (itemFault s1 g.item it (itemSpace s it) va k level pte .wr (groupWaiter u g.item h))) := by
  have hexec : exec (.stg u h f) s = execStg u h f s := rfl
  unfold ordered at hplaces
  refine hexec.trans (issue_next hi ?_)
  extract_lets +onlyGivenNames w as
  rw [if_neg (Bool.eq_false_iff.mp (not_any_misaligned hal)), hplaces]

/-- An instruction of which a translation faults leaves registers, caches and its group, which waits in the sump. -/
theorem issued_itemFault {ps : List (Nat × Where)} {e : Option (Nat × XKind × Nat × W64)} {l : List (Nat × Nat)}
    {s1 : State} {aspace w : Nat} {acc : Acc} (hplaces : placesOf s u aspace w acc l = (ps, e, s1))
    (hg : s.grp u h = some g) (n va : Nat) (k : XKind) (level : Nat) (pte : W64) (who : Waiter) :
    (issued u h (itemFault s1 n it aspace va k level pte acc who)).vregs = s.vregs ∧
    (issued u h (itemFault s1 n it aspace va k level pte acc who)).cc = s.cc ∧
    (issued u h (itemFault s1 n it aspace va k level pte acc who)).grp u h = some g := by
  have hx := quietXlat_of_placesOf hplaces
  have hvregs : s1.vregs = s.vregs := (congrArg (fun q => State.vregs q.1) hx :)
  have hcc : s1.cc = s.cc := (congrArg (fun q => State.cc q.1) hx :)
  have hgrp : s1.grp u h = s.grp u h := (congrArg (fun q => State.grp q.1 u h) hx :)
  rw [issued_vregs, issued_cc, issued_grp, itemFault]
  generalize (SFault.mk aspace va k.code level pte acc.bits who (some (it.job, it.sid, it.step))) = x
  have hsump := sumpFault_access s1 x
  exact ⟨(congrArg State.vregs hsump :).trans hvregs, (sumpFault_cc s1 x).trans hcc,
    (congrArg (State.grp · u h) hsump :).trans (hgrp.trans hg)⟩

/-- A misaligned thread of an LDG ends the item with MISALIGN (R181). -/
theorem ldg_misaligned (hi : Issues s u h 0x22 f useLdg g it)
    (hmis : ∃ p ∈ g.threads.map (fun k => (k, pairAddr s u h f k)), p.2 % widthOf f.c ≠ 0) :
    ∃ t, exec (.ldg u h f) s = .next t ∧ GroupFaulted s t u h 6 0 g it := by
  have hexec : exec (.ldg u h f) s = execLdg u h f s := rfl
  refine ⟨_, hexec.trans (issue_next hi ?_), issued_groupFault hi 6 0⟩
  exact if_pos (any_misaligned hmis)

/-- A misaligned thread of an STG ends the item with MISALIGN (R181). -/
theorem stg_misaligned (hi : Issues s u h 0x23 f useStg g it)
    (hmis : ∃ p ∈ g.threads.map (fun k => (k, pairAddr s u h f k)), p.2 % widthOf f.c ≠ 0) :
    ∃ t, exec (.stg u h f) s = .next t ∧ GroupFaulted s t u h 6 0 g it := by
  have hexec : exec (.stg u h f) s = execStg u h f s := rfl
  refine ⟨_, hexec.trans (issue_next hi ?_), issued_groupFault hi 6 0⟩
  exact if_pos (any_misaligned hmis)

/-! ### ATOMG -/

/-- The log entries of an ATOMG: one for each active thread, at thread 0's address (R183). -/
def atomEntries (s : State) (u h : Nat) (f : GFields) (g : Group) : List LogEnt :=
  g.threads.map (fun k => ⟨g.gid, k, f.c, pairAddr s u h f 0, s.vreg u h f.b k⟩)

theorem atomg_misaligned (hi : Issues s u h 0x24 f useAtomg g it) (hmis : pairAddr s u h f 0 % 4 ≠ 0) :
    ∃ t, exec (.atomg u h f) s = .next t ∧ GroupFaulted s t u h 6 0 g it := by
  have hexec : exec (.atomg u h f) s = execAtomg u h f s := rfl
  refine ⟨_, hexec.trans (issue_next hi ?_), issued_groupFault hi 6 0⟩
  exact if_pos hmis

theorem atomg_logFull (hi : Issues s u h 0x24 f useAtomg g it) (hal : pairAddr s u h f 0 % 4 = 0)
    (hfull : 1024 < it.log.length + g.threads.length) :
    ∃ t, exec (.atomg u h f) s = .next t ∧ GroupFaulted s t u h 8 0 g it := by
  have hexec : exec (.atomg u h f) s = execAtomg u h f s := rfl
  refine ⟨_, hexec.trans (issue_next hi ?_), issued_groupFault hi 8 0⟩
  exact (if_neg (not_not.mpr hal)).trans (if_pos hfull)

/-- An ATOMG that translates adds its entries to the item's log. -/
theorem exec_atomg (hi : Issues s u h 0x24 f useAtomg g it) (hal : pairAddr s u h f 0 % 4 = 0)
    (hroom : it.log.length + g.threads.length ≤ 1024) {x : Where} {s1 : State}
    (hxlat : unitXlat s u (itemSpace s it) (pairAddr s u h f 0) 4 .at = (x, s1)) (hx : ∀ k l p, x ≠ .fault k l p) :
    exec (.atomg u h f) s = .next (issued u h (nextPc u h g (countEv
      (s1.setItem g.item (some { it with log := it.log ++ atomEntries s u h f g })) (uGrp u) 2 1))) := by
  have hexec : exec (.atomg u h f) s = execAtomg u h f s := rfl
  refine hexec.trans (issue_next hi ((if_neg (not_not.mpr hal)).trans ((if_neg (Nat.not_lt.mpr hroom)).trans ?_)))
  rw [hxlat]
  cases x with
  | pa a => rfl
  | win fl ga => rfl
  | fault k l p => exact absurd rfl (hx k l p)

/-- An ATOMG that translates changes the log of its item alone. -/
theorem atomg_logs (hi : Issues s u h 0x24 f useAtomg g it) (hal : pairAddr s u h f 0 % 4 = 0)
    (hroom : it.log.length + g.threads.length ≤ 1024) {x : Where} {s1 : State}
    (hxlat : unitXlat s u (itemSpace s it) (pairAddr s u h f 0) 4 .at = (x, s1)) (hx : ∀ k l p, x ≠ .fault k l p) :
    ∃ t, exec (.atomg u h f) s = .next t ∧ t.grp u h = some { g with pc := (g.pc + 1) % 2 ^ 32 } ∧
      t.vregs = s.vregs ∧ t.cc = s.cc ∧ t.regs = s.regs ∧ (∀ i, i ≠ g.item → t.item i = s.item i) ∧
      t.item g.item = some { it with log := it.log ++ atomEntries s u h f g } := by
  have hq := quietXlat_of_unitXlat hxlat
  refine ⟨_, exec_atomg hi hal hroom hxlat hx, ?_, ?_, ?_, ?_, fun i hne => ?_, ?_⟩
  · rw [issued_grp, nextPc_grp_same]
  · rw [issued_vregs, nextPc, setGrp_vregs, countEv_vregs, setItem_vregs]
    exact (congrArg (fun q => State.vregs q.1) hq :)
  · rw [issued_cc, nextPc, setGrp_cc, countEv_cc, setItem_cc]
    exact (congrArg (fun q => State.cc q.1) hq :)
  · rw [issued_regs, nextPc, setGrp_regs, countEv_regs, setItem_regs]
    exact (congrArg (fun q => State.regs q.1) hq :)
  · rw [issued_item, nextPc, setGrp_item, countEv_item, setItem_item, if_neg hne]
    exact (congrArg (fun q => State.item q.1 i) hq :)
  · rw [issued_item, nextPc, setGrp_item, countEv_item, setItem_item, if_pos rfl]

end

end Sys2Proof.Proofs
end

section
/-! The fill of a miss register (spec/08_cu_memory.md R208, R211): what it writes into the line, and what the loads that
waited for it receive. -/

namespace Sys2Proof.Proofs

open Sys2Proof.Laws Sys2Proof.Machine

/-! ### The line -/

/-- Sectors of a way are filled under their dirty masks. -/
def fillSecs (s : State) (k : Nat) (bs : List Byte) (l : List Nat) : State :=
  l.foldl (fun t i => setSec t k i (((t.ccWay k).sec i).fill ((bs.drop (32 * i)).take 32))) s

theorem fillSecs_quietCc (s : State) (k : Nat) (bs : List Byte) (l : List Nat) : quietCc (fillSecs s k bs l) = quietCc s :=
  quietCc_foldl (fun t i => setSec_quietCc t k i _) l s

theorem fillSecs_ccShape (s : State) (k : Nat) (bs : List Byte) (l : List Nat) : ccShape (fillSecs s k bs l) = ccShape s :=
  List.foldlRecOn (motive := fun t => ccShape t = ccShape s) l _ rfl fun t ht i _ => (setSec_ccShape t k i _).trans ht

theorem fillSecs_sec {s : State} {k i : Nat} (bs : List Byte) {l : List Nat} (hnodup : l.Nodup)
    (hlt : ∀ j ∈ l, j < (s.ccWay k).secs.length) :
    ((fillSecs s k bs l).ccWay k).sec i =
      if i ∈ l then ((s.ccWay k).sec i).fill ((bs.drop (32 * i)).take 32) else (s.ccWay k).sec i := by
  induction l generalizing s with
  | nil => simp [fillSecs]
  | cons j l ih =>
    obtain ⟨hj, hnodup⟩ := List.nodup_cons.mp hnodup
    have hstep := fun y => setSec_sec (s := s) j y (((s.ccWay k).sec j).fill ((bs.drop (32 * j)).take 32))
      (hlt j List.mem_cons_self)
    have hlen := ccShape_length (setSec_ccShape s k j (((s.ccWay k).sec j).fill ((bs.drop (32 * j)).take 32))) k
    have hrest := ih (s := setSec s k j (((s.ccWay k).sec j).fill ((bs.drop (32 * j)).take 32))) hnodup
      fun n hn => hlen ▸ hlt n (List.mem_cons_of_mem j hn)
    refine hrest.trans ?_
    rw [hstep]
    by_cases hij : i = j
    · subst hij
      simp [hj]
    · simp [hij]

/-- The fetched sectors are merged into the line, if the cache still holds it. -/
def fillLine (s : State) (u line sectors : Nat) : State :=
  match ccFind s u line with
  | none => s
  | some way =>
    ccTouch (fillSecs s (ccKey u line way) (s.bytes (line * 128) 128) (maskBits 4 sectors)) u line way

theorem fillLine_quietCc (s : State) (u line sectors : Nat) : quietCc (fillLine s u line sectors) = quietCc s := by
  unfold fillLine
  split
  · rfl
  · rw [ccTouch_quietCc, fillSecs_quietCc]

theorem fillLine_ccShape (s : State) (u line sectors : Nat) : ccShape (fillLine s u line sectors) = ccShape s := by
  unfold fillLine
  split
  · rfl
  · rw [ccShape_of_ccHeld (ccTouch_ccHeld _ _ _ _), fillSecs_ccShape]

/-- A sector asked for is filled under its dirty mask. -/
theorem fillLine_sec {s : State} {u line sectors way i : Nat} (hfind : ccFind s u line = some way)
    (hlen : (s.ccWay (ccKey u line way)).secs.length = 4) (hi : i < 4) (hasked : nbit i sectors = true) :
    ((fillLine s u line sectors).ccWay (ccKey u line way)).sec i =
      ((s.ccWay (ccKey u line way)).sec i).fill (((s.bytes (line * 128) 128).drop (32 * i)).take 32) := by
  have hmem (j : Nat) : j ∈ maskBits 4 sectors ↔ j < 4 ∧ nbit j sectors = true := by
    rw [maskBits, List.mem_filter, List.mem_range]
  have hnodup : (maskBits 4 sectors).Nodup := List.nodup_range.filter _
  simp only [fillLine, hfind]
  rw [sec_of_ccHeld (congrFun (ccTouch_ccHeld _ _ _ _) _),
    fillSecs_sec _ hnodup fun j hj => hlen ▸ ((hmem j).mp hj).1, if_pos ((hmem i).mpr ⟨hi, hasked⟩)]

/-! ### The loads -/

/-- What delivering to loads leaves: all but thread registers and the units' loads. -/
def quietDeliver (s : State) : State × (Nat → CuSt) :=
  ({ s with vregs := [], units := [] }, fun v => { s.cu v with loads := [] })

theorem setVreg_quietDeliver (s : State) (u h r k v : Nat) : quietDeliver (s.setVreg u h r k v) = quietDeliver s := rfl

theorem setLoads_quietDeliver (s : State) (u : Nat) (ls : List PendLoad) :
    quietDeliver (s.setCu u { s.cu u with loads := ls }) = quietDeliver s := by
  refine congrArg (Prod.mk ({ s with vregs := [], units := [] } : State)) (funext fun v => ?_)
  rw [setCu_cu]
  split
  · next hv => rw [hv]
  · rfl

theorem deliverLoad_quietDeliver (s : State) (u : Nat) (l : PendLoad) :
    quietDeliver (deliverLoad s u l) = quietDeliver s := by
  unfold deliverLoad
  split
  · exact List.foldlRecOn (motive := fun t => quietDeliver t = quietDeliver s) l.got _ rfl fun t ht p _ =>
      (setVreg_quietDeliver t u l.group l.dest p.1 p.2).trans ht
  · exact setLoads_quietDeliver s u _

theorem deliverAll_quietDeliver (s : State) (u : Nat) (val : LoadAt → Nat → Option Nat) :
    quietDeliver (deliverAll s u val) = quietDeliver s := by
  unfold deliverAll
  exact List.foldlRecOn (motive := fun t => quietDeliver t = quietDeliver s) _ _ (setLoads_quietDeliver s u [])
    fun t ht l _ => (deliverLoad_quietDeliver t u _).trans ht

section
variable (s : State) (u : Nat) (val : LoadAt → Nat → Option Nat)

theorem deliverAll_ccWay (k : Nat) : (deliverAll s u val).ccWay k = s.ccWay k :=
  (congrArg (fun q => State.ccWay q.1 k) (deliverAll_quietDeliver s u val) :)

theorem deliverAll_items : (deliverAll s u val).items = s.items :=
  (congrArg (fun q => State.items q.1) (deliverAll_quietDeliver s u val) :)

theorem deliverAll_misses (v : Nat) : ((deliverAll s u val).cu v).misses = (s.cu v).misses :=
  (congrArg (fun q => CuSt.misses (q.2 v)) (deliverAll_quietDeliver s u val) :)

end

/-- The only load of a unit that waits for one word takes it, and is done. -/
theorem deliverAll_one {s : State} {u h d w k x : Nat} {at_ : LoadAt} {val : LoadAt → Nat → Option Nat}
    (hloads : (s.cu u).loads = [⟨h, d, w, [(k, at_)], []⟩]) (hval : val at_ w = some x) :
    deliverAll s u val = (s.setCu u { s.cu u with loads := [] }).setVreg u h d k x := by
  simp [deliverAll, hloads, hval, deliverLoad]

/-! ### The command -/

/-- A line's miss register is free. -/
def freeMiss (s : State) (u line : Nat) : State :=
  s.setCu u { s.cu u with misses := (s.cu u).misses.filter (fun x => x.line != line) }

/-- The word that a fill gives a load. -/
def fillWord (s : State) (u line sectors : Nat) (x : LoadAt) (w : Nat) : Option Nat :=
  match x with
  | .pa b _ =>
    if b / 128 = line ∧ nbit (b % 128 / 32) sectors then
      some (if (ccFind s u line).isSome then ccValue s u b w else leNat (s.bytes b w))
    else none
  | _ => none

/-- The state in which a fill delivers. -/
def filled (s : State) (u line sectors : Nat) : State := freeMiss (fillLine s u line sectors) u line

theorem exec_cuCacheFill {s s1 : State} {u line : Nat} {m : MissReg} (hlive : live s = true)
    (hmiss : (s.cu u).misses.find? (fun x => x.line == line) = some m)
    (hread : homeReadLine s 1 (line * 128) m.sectors = (false, s1)) :
    exec (.cuCacheFill u line) s = .next (deliverAll (filled s1 u line m.sectors) u
      (fillWord (filled s1 u line m.sectors) u line m.sectors)) := by
  have hexec : exec (.cuCacheFill u line) s = execCuCacheFill u line s := rfl
  rw [hexec, execCuCacheFill, whenLive, if_pos hlive, hmiss]
  dsimp -zeta only
  extract_lets +onlyGivenNames a
  rw [hread]
  dsimp -zeta only
  extract_lets +onlyGivenNames s2 bs s3 c s4
  have hs2 : s2 = s1 := rfl
  clear_value s2
  subst hs2
  have hs3 : s3 = fillLine s2 u line m.sectors := rfl
  clear_value s3
  subst hs3
  rfl

theorem ccValue_congr {s t : State} {u : Nat} (hcc : t.cc = s.cc) (hsplit : (t.cu u).split = (s.cu u).split) (a w : Nat) :
    ccValue t u a w = ccValue s u a w := by
  have hway (k : Nat) : t.ccWay k = s.ccWay k := by rw [State.ccWay, State.ccWay, hcc]
  have hshape : ccShape t = ccShape s := funext fun k => by rw [ccShape, ccShape, hway]
  simp only [ccValue, ccFind_congr hshape hsplit, hway]

/-- What the cache holds does not depend on the loads. -/
theorem ccValue_delivered (s : State) (u h d k x : Nat) (ls : List PendLoad) (a w : Nat) :
    ccValue ((s.setCu u { s.cu u with loads := ls }).setVreg u h d k x) u a w = ccValue s u a w := by
  refine ccValue_congr ?_ ?_ a w
  · rw [setVreg_cc, setCu_cc]
  · rw [setVreg_cu, setCu_cu, if_pos rfl]

theorem bytes_congr {s t : State} (hmem : t.mem = s.mem) (a n : Nat) : t.bytes a n = s.bytes a n := by
  induction n generalizing a with
  | zero => rfl
  | succ n ih => rw [State.bytes, State.bytes, ih, State.byte, State.byte, hmem]

section
variable (s : State) (u line sectors : Nat)

theorem filled_cu (v : Nat) : (filled s u line sectors).cu v =
    if v = u then { s.cu u with misses := (s.cu u).misses.filter (fun x => x.line != line) } else s.cu v := by
  have hcu (y : Nat) : (fillLine s u line sectors).cu y = s.cu y :=
    (congrArg (fun t => State.cu t y) (fillLine_quietCc s u line sectors) :)
  rw [filled, freeMiss, setCu_cu, hcu, hcu]

theorem filled_mem : (filled s u line sectors).mem = s.mem := (congrArg State.mem (fillLine_quietCc s u line sectors) :)

theorem filled_items : (filled s u line sectors).items = s.items :=
  (congrArg State.items (fillLine_quietCc s u line sectors) :)

theorem filled_ccWay (k : Nat) : (filled s u line sectors).ccWay k = (fillLine s u line sectors).ccWay k := rfl

theorem filled_ccFind : ccFind (filled s u line sectors) u line = ccFind s u line := by
  have hshape : ccShape (filled s u line sectors) = ccShape s := fillLine_ccShape s u line sectors
  refine ccFind_congr hshape ?_ line
  rw [filled_cu, if_pos rfl]

end

section
variable {s s1 : State} {u line : Nat} {m : MissReg} (hread : homeReadLine s 1 (line * 128) m.sectors = (false, s1))
include hread

/-- A read at the home leaves the units and the items. -/
theorem cu_of_homeRead (v : Nat) : s1.cu v = s.cu v :=
  cu_of_units ((congrArg (fun r => State.units r.2) hread).symm.trans (homeReadLine_units _ _ _ _)) v

theorem items_of_homeRead : s1.items = s.items := by
  have h := (congrArg (fun r => quietAccess r.2) hread).symm.trans (homeReadLine_access _ _ _ _)
  exact (congrArg State.items h :)

/-- What a fill leaves of the items and of the miss registers. -/
theorem cuCacheFill_frees (val : LoadAt → Nat → Option Nat) :
    ((deliverAll (filled s1 u line m.sectors) u val).cu u).misses = (s.cu u).misses.filter (fun x => x.line != line) ∧
    (deliverAll (filled s1 u line m.sectors) u val).items = s.items := by
  refine ⟨?_, ?_⟩
  · rw [deliverAll_misses, filled_cu, if_pos rfl, cu_of_homeRead hread]
  · rw [deliverAll_items, filled_items, items_of_homeRead hread]

/-- A load that waited for one word of the sectors filled receives it. -/
theorem cuCacheFill_delivers {h d w k b va : Nat} (hloads : (s.cu u).loads = [⟨h, d, w, [(k, .pa b va)], []⟩])
    (hline : b / 128 = line) (hasked : nbit (b % 128 / 32) m.sectors = true) :
    ∃ t, deliverAll (filled s1 u line m.sectors) u (fillWord (filled s1 u line m.sectors) u line m.sectors) = t ∧
      (t.cu u).loads = [] ∧
      t.vreg u h d k = (if (ccFind s1 u line).isSome then ccValue t u b w else leNat (s1.bytes b w)) % 2 ^ 32 := by
  have hword : fillWord (filled s1 u line m.sectors) u line m.sectors (.pa b va) w =
      some (if (ccFind s1 u line).isSome then ccValue (filled s1 u line m.sectors) u b w else leNat (s1.bytes b w)) := by
    rw [fillWord, if_pos ⟨hline, hasked⟩, filled_ccFind, bytes_congr (filled_mem s1 u line m.sectors)]
  have hone : ((filled s1 u line m.sectors).cu u).loads = [⟨h, d, w, [(k, .pa b va)], []⟩] := by
    rw [filled_cu, if_pos rfl]
    exact (congrArg CuSt.loads (cu_of_homeRead hread u)).trans hloads
  refine ⟨_, deliverAll_one hone hword, ?_, ?_⟩
  · rw [setVreg_cu, setCu_cu, if_pos rfl]
  · rw [setVreg_vreg, if_pos rfl, ccValue_delivered]

end

/-! ### The statement -/

/-- Settles O35: LDG, STG and ATOMG by what each does after its translations (`ldg_hits`, `ldg_misses`, `stg_one`,
`atomg_logs`), their faults by the law of a fault (`issued_groupFault`, `issued_itemFault`), and the fill by what it writes
into the line and delivers. -/
theorem memoryInstructionsUseTheCacheAndTheLog : Obligations.MemoryInstructionsUseTheCacheAndTheLog := by
  unfold Obligations.MemoryInstructionsUseTheCacheAndTheLog
  refine ⟨?_, ?_⟩
  · intro s u h f g it w addrs useL useS useA
    refine ⟨fun hal => ⟨?_, ?_, ?_⟩,
      fun hmis => ⟨fun hi => ldg_misaligned hi hmis, fun hi => stg_misaligned hi hmis⟩,
      fun hi => ⟨fun hmis => atomg_misaligned hi hmis, fun hal hfull => atomg_logFull hi hal hfull,
        fun hal hroom x s1 hxlat hx => atomg_logs hi hal hroom hxlat hx⟩⟩
    · intro hi ps s1 hplaces harmed hpa
      exact ⟨fun hall => ldg_hits hi hal hplaces harmed hpa hall,
        fun s2 hsome htake => ldg_misses hi hal hplaces harmed hpa hsome htake⟩
    · intro hi k a s1 way _ hplaces hpa hfind hlen
      obtain ⟨t, hexec, hmoves, hregs, hsc, hhomes, hsec⟩ := stg_one hi hal hplaces hpa hfind hlen
      have hstored := storeRun_effect ((s1.ccWay (ccKey u (a / 128) way)).sec (a % 128 / 32)) (widthOf_pos f.c)
        (leBytes_length (widthOf f.c) (s.vreg u h f.b k)) (aligned_in_sector hpa)
      rw [← hsec] at hstored
      exact ⟨t, hexec, hmoves, hregs, hsc, hhomes, hstored⟩
    · intro c op use hc hi acc ps e s1 hacc hplaces
      obtain ⟨va, k, level, pte⟩ := e
      have hg := grp_of_issues hi
      simp only [List.mem_cons, Prod.mk.injEq, List.not_mem_nil, or_false] at hc
      rcases hc with ⟨rfl, rfl, rfl⟩ | ⟨rfl, rfl, rfl⟩
      · rw [if_pos rfl] at hacc
        subst hacc
        exact ⟨_, exec_ldg_fault hi hal hplaces, issued_itemFault hplaces hg _ _ _ _ _ _⟩
      · rw [if_neg (by decide)] at hacc
        subst hacc
        exact ⟨_, exec_stg_fault hi hal hplaces, issued_itemFault hplaces hg _ _ _ _ _ _⟩
  · intro u line m s s1 hlive hmiss hread
    obtain ⟨hfree, hitems⟩ := cuCacheFill_frees (u := u) hread (fillWord (filled s1 u line m.sectors) u line m.sectors)
    refine ⟨_, exec_cuCacheFill hlive hmiss hread, hfree, hitems, fun way i hfind hlen hi hasked => ?_,
      fun h d w k b va hloads hline hasked => ?_⟩
    · rw [deliverAll_ccWay, filled_ccWay]
      exact fillLine_sec hfind hlen hi hasked
    · obtain ⟨t, ht, hdone⟩ := cuCacheFill_delivers hread hloads hline hasked
      rw [ht]
      exact hdone

end Sys2Proof.Proofs
end

section
/-! What a write at the home of a line can change: everything it leaves is in `quietHome` (spec/08_cu_memory.md R222 to
R226, spec/09_memory_tiers.md R237 to R247, spec/10_coherence_and_ordering.md R274, R295). Unlike `quietAccess` it keeps
the caches and the state of the units. -/

namespace Sys2Proof.Proofs

open Sys2Proof.Laws Sys2Proof.Machine

/-- The state but for what a write at a line's home can change: what reporting an error changes, registers, poison, the
shared cache, the memory channels and the home slices. -/
def quietHome (s : State) : State :=
  { quietErr s with regs := [], poison := [], sc := [], nmcs := [], homes := [] }

theorem quietHome_of {s t : State} (h : quietErr t = quietErr s) : quietHome t = quietHome s :=
  (congrArg quietHome h :)

theorem cc_of_quietHome {s t : State} (h : quietHome t = quietHome s) : t.cc = s.cc := (congrArg State.cc h :)

theorem ccWay_of_cc {s t : State} (h : t.cc = s.cc) (k : Nat) : t.ccWay k = s.ccWay k := by
  rw [State.ccWay, State.ccWay, h]

/-- A fold of steps each of which leaves some reading of the state leaves it. -/
theorem foldl_leaves {α β : Type} {Q : State → β} {g : State → α → State} (hg : ∀ t a, Q (g t a) = Q t) (l : List α)
    (s : State) : Q (l.foldl g s) = Q s :=
  List.foldlRecOn (motive := fun t => Q t = Q s) l g rfl fun t ht a _ => (hg t a).trans ht

theorem ite_leaves {β : Type} {Q : State → β} {c : Prop} [Decidable c] {s a b : State} (ha : Q a = Q s)
    (hb : Q b = Q s) : Q (if c then a else b) = Q s := by
  split
  · exact ha
  · exact hb

section
variable (s : State)

@[simp] theorem setReg_atHome (a : Nat) (v : W64) : quietHome (s.setReg a v) = quietHome s := rfl
@[simp] theorem setPoison_atHome (a : Nat) (b : Bool) : quietHome (s.setPoison a b) = quietHome s := rfl
@[simp] theorem setNmc_atHome (d c : Nat) (v : NmcSt) : quietHome (s.setNmc d c v) = quietHome s := rfl
@[simp] theorem setScWay_atHome (k : Nat) (v : ScLine) : quietHome (s.setScWay k v) = quietHome s := rfl
@[simp] theorem setHome_atHome (d h : Nat) (v : HomeSt) : quietHome (s.setHome d h v) = quietHome s := rfl
@[simp] theorem disarm_atHome (p n : Nat) : quietHome (disarm s p n) = quietHome s := rfl
@[simp] theorem countEv_atHome (p src n : Nat) : quietHome (countEv s p src n) = quietHome s :=
  quietHome_of (quietErr_of (countEv_quiet s p src n))
@[simp] theorem raiseWith_atHome (p n : Nat) (e : ErrInfo) : quietHome (raiseWith s p n e) = quietHome s :=
  quietHome_of (raiseWith_quietErr s p n e)

@[simp] theorem armedNmc_atHome (p : Nat) (e : LineErr) : quietHome (armedNmc s p e).2.2 = quietHome s := by
  unfold armedNmc
  split_ifs <;> rfl

@[simp] theorem packageRead_atHome (d ch line : Nat) (e : LineErr) :
    quietHome (packageRead s d ch line e) = quietHome s := by
  unfold packageRead
  extract_lets page s1
  have h := (armedNmc_atHome s1 page e).trans (countEv_atHome s page 1 1)
  clear_value page
  generalize armedNmc s1 page e = r at h
  obtain ⟨err, inj, s2⟩ := r
  cases err with
  | none => exact h
  | ce =>
    rw [raiseWith_atHome, countEv_atHome, setReg_atHome, setReg_atHome]
    exact h
  | ue =>
    rw [raiseWith_atHome, setPoison_atHome, setReg_atHome, setReg_atHome]
    exact h

@[simp] theorem wcWriteOut_atHome (d ch line mask : Nat) : quietHome (wcWriteOut s d ch line mask) = quietHome s := by
  unfold wcWriteOut
  exact ite_leaves (by simp) (by simp)

@[simp] theorem channelWrite_atHome (a mask : Nat) : quietHome (channelWrite s a mask) = quietHome s := by
  unfold channelWrite
  dsimp only
  refine ite_leaves rfl (ite_leaves (by simp) (ite_leaves (by simp) ?_))
  split
  · exact ite_leaves (by simp) (by simp)
  · rw [setNmc_atHome]
    split
    · exact ite_leaves (by simp) rfl
    · rfl

@[simp] theorem memoryWrite_atHome (a mask : Nat) : quietHome (memoryWrite s a mask) = quietHome s := by
  unfold memoryWrite
  split
  · simp
  · split <;> simp
  · rfl

@[simp] theorem memoryRead_atHome (a : Nat) : quietHome (memoryRead s a) = quietHome s := by
  unfold memoryRead
  split
  · simp
  · exact ite_leaves (by simp) (by simp)
  · rfl

@[simp] theorem writeBack_atHome (a mask : Nat) : quietHome (writeBack s a mask) = quietHome s := by
  unfold writeBack
  dsimp only
  split <;> split <;> simp

@[simp] theorem scEvict_atHome (d k : Nat) : quietHome (scEvict s d k) = quietHome s := by
  unfold scEvict
  exact ite_leaves (by simp) (by simp)

@[simp] theorem scTouch_atHome (d a w : Nat) : quietHome (scTouch s d a w) = quietHome s := by
  unfold scTouch
  exact ite_leaves ((foldl_leaves (fun t v => ite_leaves rfl (by simp)) _ _).trans (by simp)) (by simp)

@[simp] theorem scWrite_atHome (cls a m : Nat) : quietHome (scWrite s cls a m) = quietHome s := by
  unfold scWrite
  dsimp only
  split
  · rw [scTouch_atHome, setScWay_atHome]
    exact ite_leaves rfl (by simp)
  · split
    · simp
    · rw [scTouch_atHome, setScWay_atHome]
      exact ite_leaves (by simp) (by simp)

@[simp] theorem scClean_atHome (a : Nat) : quietHome (scClean s a) = quietHome s := by
  unfold scClean
  split
  · rfl
  · exact ite_leaves rfl (by simp)

@[simp] theorem scFlush_atHome (a : Nat) : quietHome (scFlush s a) = quietHome s := by
  unfold scFlush
  dsimp only
  split <;> simp

@[simp] theorem dropCopies_atHome (a : Nat) : quietHome (dropCopies s a) = quietHome s := by
  unfold dropCopies
  dsimp only
  split
  · rfl
  · exact ite_leaves rfl (ite_leaves (by simp) (by simp))

@[simp] theorem performWrite_atHome (cls a mask : Nat) (data : List Byte) :
    quietHome (performWrite s cls a mask data) = quietHome s := by
  unfold performWrite
  extract_lets s1 s2
  have h2 : quietHome s2 = quietHome s := (rfl : quietHome s2 = quietHome s1).trans (scWrite_atHome s cls a mask)
  exact ite_leaves (by simp [h2]) h2

@[simp] theorem homeWriteLine_atHome (cls a mask : Nat) (data : List Byte) :
    quietHome (homeWriteLine s cls a mask data) = quietHome s := by
  unfold homeWriteLine
  exact ite_leaves rfl (by simp)

@[simp] theorem ccSend_atHome (u : Nat) (l : CcLine) : quietHome (ccSend s u l) = quietHome s := by
  unfold ccSend
  exact ite_leaves rfl (ite_leaves (by simp) (by simp))

end

end Sys2Proof.Proofs
end

section
/-! The cache-maintenance engines (spec/08_cu_memory.md R225 to R229): the writes of CME_GO, what a completed request
leaves, and the sectors that a FLUSH leaves in the caches of the units. -/

namespace Sys2Proof.Proofs

open Sys2Proof.Laws Sys2Proof.Machine

/-! ### CME_GO (R227, R228) -/

/-- A write of GO = 1 with a valid operation in CME_OP is rejected (R228). -/
def GoRejected (s : State) (d : Nat) : Prop :=
  let page := pgCme d
  let va := (s.reg (regAddr page 0x100)).toNat
  let len := (s.reg (regAddr page 0x108)).toNat
  let op := s.reg (regAddr page 0x110)
  let unit := fld 17 8 op
  (bit 2 op = false ∧ bit 3 op = false) ∨ (unit ≠ 0x3FF ∧ ¬(unit < 576 ∧ inService s (d * 576 + unit) = true)) ∨
    s.en (pgQue (fld 31 20 op)) = false ∨ 2 ^ 57 < va + len ∨ va % 128 ≠ 0 ∨ len % 128 ≠ 0 ∨ len = 0 ∨ 2 ^ 41 ≤ len ∨
    8 ≤ (s.cme d).reqs.length ∨ s.accepts page = false

/-- The request that the registers of a C-die's engine ask for. -/
def goRequest (s : State) (d : Nat) : CmeReq :=
  let op := s.reg (regAddr (pgCme d) 0x110)
  ⟨fld 1 0 op, (s.reg (regAddr (pgCme d) 0x100)).toNat, (s.reg (regAddr (pgCme d) 0x108)).toNat, fld 7 4 op, fld 17 8 op,
    bit 2 op, bit 3 op, some (fld 31 20 op, fld 47 32 op), none⟩

section
variable {s : State} {d : Nat}

theorem accepts_eq_false {page : Nat} : s.accepts page = false ↔ s.dst page ≠ 0 ∨ s.en page = false := by
  rw [State.accepts, Bool.and_eq_false_iff, decide_eq_false_iff_not, or_comm]

theorem cmeGo_rejected (hop : fld 1 0 (s.reg (regAddr (pgCme d) 0x110)) ≠ 0) (h : GoRejected s d) :
    cmeGo s d 1 = raise s (pgCme d) 0 := by
  unfold cmeGo
  dsimp only
  rw [if_neg (by decide), if_pos (by simpa [GoRejected, accepts_eq_false, hop, imp_iff_not_or] using h), reject]

theorem cmeGo_accepted (hop : fld 1 0 (s.reg (regAddr (pgCme d) 0x110)) ≠ 0) (h : ¬GoRejected s d) :
    cmeGo s d 1 = s.setCme d { s.cme d with reqs := (s.cme d).reqs ++ [goRequest s d] } := by
  unfold cmeGo
  dsimp only
  rw [if_neg (by decide), if_neg (by simpa [GoRejected, accepts_eq_false, hop, imp_iff_not_or] using h), goRequest]

/-- The three rows of CME_GO are the write of GO = 1 with their operation in CME_OP. -/
theorem exec_cmeOp {c : Instr} {n : Nat} (hlive : live s = true) (hdie : hasCdie s d = true)
    (hc : (c, n) ∈ [(Instr.cmeClean d, 1), (.cmeInval d, 2), (.cmeFlush d, 3)])
    (hn : fld 1 0 (s.reg (regAddr (pgCme d) 0x110)) = n) : exec c s = .next (cmeGo s d 1) ∧ n ≠ 0 := by
  have hgo : whenLive s (cmeOpGo s d n) = .next (cmeGo s d 1) := by
    rw [whenLive, if_pos hlive, cmeOpGo, if_pos (by rw [hdie, State.regF, hn]; simp)]
  simp only [List.mem_cons, Prod.mk.injEq, List.not_mem_nil, or_false] at hc
  rcases hc with ⟨rfl, rfl⟩ | ⟨rfl, rfl⟩ | ⟨rfl, rfl⟩ <;> exact ⟨hgo, by decide⟩

end

/-! ### Lines that a range touches -/

/-- If the line in way j of the units' caches touches the n bytes from a, none of its sectors is valid. -/
def ClearAt (a n j : Nat) (s : State) : Prop :=
  a / 128 ≤ (s.ccWay j).line → (s.ccWay j).line * 128 < a + n → ∀ x ∈ (s.ccWay j).secs, x.valid = false

theorem clearAt_congr {s t : State} {a n j : Nat} (h : t.ccWay j = s.ccWay j) : ClearAt a n j t ↔ ClearAt a n j s := by
  rw [ClearAt, ClearAt, h]

/-- A way without sectors is clear. -/
theorem clearAt_of_secs {s : State} {a n j : Nat} (h : (s.ccWay j).secs = []) : ClearAt a n j s :=
  fun _ _ x hx => absurd (h ▸ hx) (List.not_mem_nil (a := x))

/-- What a fold keeps once the step of one element of its list has established it. -/
theorem foldl_established {α : Type} {P : State → Prop} {g : State → α → State} {a : α} {l : List α} (ha : a ∈ l)
    (hset : ∀ t, P (g t a)) (hkeep : ∀ t b, P t → P (g t b)) (s : State) : P (l.foldl g s) := by
  induction l generalizing s with
  | nil => exact absurd ha List.not_mem_nil
  | cons b l ih =>
    rcases List.mem_cons.mp ha with rfl | ha
    · exact List.foldlRecOn l g (hset s) fun t ht b _ => hkeep t b ht
    · exact ih ha _

/-- A way that the table does not list holds no line. -/
theorem clearAt_of_unlisted {s : State} {a n j : Nat} (h : j ∉ s.cc.map Prod.fst) : ClearAt a n j s := by
  have hnone : s.cc.find? (fun p => p.1 == j) = none := by
    rw [List.find?_eq_none]
    intro p hp hj
    exact h (List.mem_map.mpr ⟨p, hp, by simpa using hj⟩)
  refine clearAt_of_secs ?_
  rw [State.ccWay, SMap.get, hnone]
  rfl

section
variable {s : State} {a n j : Nat}

/-- A write-back leaves which sectors are valid. -/
theorem ccWriteBack_clearAt (u k : Nat) (h : ClearAt a n j s) : ClearAt a n j (ccWriteBack s u k) := by
  unfold ccWriteBack
  dsimp only
  split
  · exact h
  · rw [clearAt_congr (ccWay_of_cc (cc_of_quietHome (ccSend_atHome _ _ _)) j), ClearAt, setCcWay_ccWay]
    split
    · next hj =>
      subst hj
      intro hlo hhi x hx
      obtain ⟨y, hy, rfl⟩ := List.mem_map.mp hx
      exact h hlo hhi y hy
    · exact h

theorem ccCleanRange_clearAt (u b m : Nat) (h : ClearAt a n j s) : ClearAt a n j (ccCleanRange s u b m) := by
  unfold ccCleanRange
  refine List.foldlRecOn (motive := ClearAt a n j) _ _ h fun t ht k _ => ?_
  dsimp only
  split
  · exact ccWriteBack_clearAt u k ht
  · exact ht

/-- One step of `ccDropRange`: the line of a way is discarded if it touches the range. -/
def dropWay (u a n : Nat) (t : State) (k : Nat) : State :=
  let l := t.ccWay k
  if a / 128 ≤ l.line ∧ l.line * 128 < a + n ∧ l.secs ≠ [] then
    (if hasMiss (t.cu u) l.line then t.setCcWay k { l with secs := List.replicate 4 CcSec.empty }
     else t.setCcWay k CcLine.empty)
  else t

theorem ccDropRange_eq (s : State) (u a n : Nat) : ccDropRange s u a n = (ccKeys s u).foldl (dropWay u a n) s := rfl

/-- The way is clear after its step. -/
theorem dropWay_clears (u a n k : Nat) (t : State) : ClearAt a n k (dropWay u a n t k) := by
  unfold dropWay
  dsimp only
  split
  · split
    · intro _ _ x hx
      rw [setCcWay_ccWay, if_pos rfl] at hx
      rw [List.eq_of_mem_replicate hx]
      rfl
    · refine clearAt_of_secs ?_
      rw [setCcWay_ccWay, if_pos rfl]
      rfl
  · next hout =>
    intro hlo hhi x hx
    exact absurd ⟨hlo, hhi, List.ne_nil_of_mem hx⟩ hout

theorem dropWay_ccWay_other (u a n : Nat) (t : State) {k : Nat} (h : j ≠ k) :
    (dropWay u a n t k).ccWay j = t.ccWay j := by
  unfold dropWay
  dsimp only
  split
  · split <;> rw [setCcWay_ccWay, if_neg h]
  · rfl

theorem dropWay_clearAt (u : Nat) (t : State) (k : Nat) (h : ClearAt a n j t) : ClearAt a n j (dropWay u a n t k) := by
  by_cases hj : j = k
  · exact hj ▸ dropWay_clears u a n j t
  · rwa [clearAt_congr (dropWay_ccWay_other u a n t hj)]

theorem ccDropRange_clearAt (u : Nat) (h : ClearAt a n j s) : ClearAt a n j (ccDropRange s u a n) := by
  rw [ccDropRange_eq]
  exact List.foldlRecOn _ _ h fun t ht k _ => dropWay_clearAt u t k ht

/-- Discarding a range clears every way of the unit: a way that no step names holds no line. -/
theorem ccDropRange_clears (s : State) (a n j : Nat) : ClearAt a n j (ccDropRange s (j / 65536) a n) := by
  by_cases hj : j ∈ s.cc.map Prod.fst
  · have hkey : j ∈ ccKeys s (j / 65536) := List.mem_filter.mpr ⟨hj, by simp⟩
    rw [ccDropRange_eq]
    exact foldl_established hkey (dropWay_clears _ a n j) (dropWay_clearAt _) s
  · exact ccDropRange_clearAt _ (clearAt_of_unlisted hj)

end

/-! ### The work of a request (R226) -/

/-- The operation on a physical range in the cache of one unit. -/
def cuMaintain (r : CmeReq) (a n : Nat) (t : State) (u : Nat) : State :=
  let t1 := if r.op = 2 then t else ccCleanRange t u a n
  if r.op = 1 then t1 else ccDropRange t1 u a n

/-- The operation on line i of a physical range in the shared cache of a die. -/
def scMaintain (d : Nat) (r : CmeReq) (a : Nat) (t : State) (i : Nat) : State :=
  let l := (a / 128 + i) * 128
  if homeDie t l = d then (if r.op = 1 then scClean t l else scFlush t l) else t

/-- The operation on a physical range in the caches of the units. -/
def cuRange (s : State) (d : Nat) (r : CmeReq) (a n : Nat) : State :=
  if r.tcu then (cmeUnits s d r.unit).foldl (cuMaintain r a n) s else s

theorem cmeRange_eq (s : State) (d : Nat) (r : CmeReq) (a n : Nat) : cmeRange s d r a n =
    if r.tsc then (List.range ((a + n + 127) / 128 - a / 128)).foldl (scMaintain d r a) (cuRange s d r a n)
    else cuRange s d r a n := rfl

/-- The shared cache's part writes at the lines' home. -/
theorem cmeRange_atHome (s : State) (d : Nat) (r : CmeReq) (a n : Nat) :
    quietHome (cmeRange s d r a n) = quietHome (cuRange s d r a n) := by
  rw [cmeRange_eq]
  exact ite_leaves (foldl_leaves (fun t i => ite_leaves (ite_leaves (by simp) (by simp)) rfl) _ _) rfl

section
variable {s : State} {d a n j : Nat} {r : CmeReq}

theorem cuMaintain_flush (hop : r.op = 3) (s : State) (u : Nat) :
    cuMaintain r a n s u = ccDropRange (ccCleanRange s u a n) u a n := by
  rw [cuMaintain, if_neg (by omega), if_neg (by omega)]

theorem cuMaintain_flush_clearAt (hop : r.op = 3) (s : State) (u : Nat) (h : ClearAt a n j s) :
    ClearAt a n j (cuMaintain r a n s u) := by
  rw [cuMaintain_flush hop]
  exact ccDropRange_clearAt u (ccCleanRange_clearAt u a n h)

/-- A FLUSH of a range in every unit of a die leaves it clear in every way of a unit that is in service: a unit that is
not among the targets has no way listed. -/
theorem cmeRange_flush_clears (hop : r.op = 3) (htcu : r.tcu = true) (hunit : r.unit = 0x3FF)
    (hserv : inService s (j / 65536) = true) (hdie : uDie (j / 65536) = d) : ClearAt a n j (cmeRange s d r a n) := by
  rw [clearAt_congr (ccWay_of_cc (cc_of_quietHome (cmeRange_atHome s d r a n)) j), cuRange, if_pos htcu]
  by_cases hj : j ∈ s.cc.map Prod.fst
  · have htarget : j / 65536 ∈ cmeUnits s d r.unit := by
      obtain ⟨p, hp, rfl⟩ := List.mem_map.mp hj
      refine List.mem_filter.mpr ⟨List.mem_eraseDups.mpr (List.mem_map.mpr ⟨p, hp, rfl⟩), ?_⟩
      simp [hdie, hserv, hunit]
    refine foldl_established htarget (fun t => ?_) (cuMaintain_flush_clearAt hop) s
    rw [cuMaintain_flush hop]
    exact ccDropRange_clears _ a n j
  · exact List.foldlRecOn _ _ (clearAt_of_unlisted hj) fun t ht u _ => cuMaintain_flush_clearAt hop t u ht

end

/-- The state but for what maintenance can change: what a write at a line's home changes, the caches of the units and the
MMUs. -/
def quietMaint (s : State) : State := { quietHome s with cc := [], mmus := [] }

theorem quietMaint_of {s t : State} (h : quietHome t = quietHome s) : quietMaint t = quietMaint s :=
  (congrArg quietMaint h :)

section
variable (s : State)

@[simp] theorem setCcWay_maint (k : Nat) (l : CcLine) : quietMaint (s.setCcWay k l) = quietMaint s := rfl
@[simp] theorem countEv_maint (p src n : Nat) : quietMaint (countEv s p src n) = quietMaint s :=
  quietMaint_of (countEv_atHome s p src n)

theorem ccWriteBack_maint (u k : Nat) : quietMaint (ccWriteBack s u k) = quietMaint s := by
  unfold ccWriteBack
  dsimp only
  split
  · rfl
  · exact (quietMaint_of (ccSend_atHome _ _ _)).trans rfl

@[simp] theorem ccCleanRange_maint (u a n : Nat) : quietMaint (ccCleanRange s u a n) = quietMaint s := by
  refine foldl_leaves (fun t k => ?_) _ _
  dsimp only
  split
  · exact ccWriteBack_maint t u k
  · rfl

@[simp] theorem ccDropRange_maint (u a n : Nat) : quietMaint (ccDropRange s u a n) = quietMaint s := by
  refine foldl_leaves (fun t k => ?_) _ _
  dsimp only
  split_ifs <;> rfl

@[simp] theorem cmeRange_maint (d : Nat) (r : CmeReq) (a n : Nat) : quietMaint (cmeRange s d r a n) = quietMaint s := by
  refine (quietMaint_of (cmeRange_atHome s d r a n)).trans ?_
  unfold cuRange
  split
  · refine foldl_leaves (fun t u => ?_) _ _
    unfold cuMaintain
    dsimp only
    split_ifs <;> simp
  · rfl

/-- A translation changes the MMU of its die and what a counted event changes. -/
theorem translate_frame (d aspace va : Nat) (acc : Option Acc) :
    { quiet (translate s d aspace va acc).2 with mmus := [] } = { quiet s with mmus := [] } := by
  have hleaf : { quiet (findLeaf s d aspace va).2 with mmus := [] } = { quiet s with mmus := [] } := by
    have hcount (x y z : Nat) :
        quiet (countEv (countEv (countEv s (pgMmu d) 1 x) (pgMmu d) 2 y) (pgMmu d) 3 z) = quiet s := by
      rw [countEv_quiet, countEv_quiet, countEv_quiet]
    unfold findLeaf
    dsimp only
    split
    · rfl
    · split
      · rfl
      · split
        · rfl
        · split
          all_goals exact (congrArg (fun t : State => { t with mmus := [] }) (hcount _ _ _) :)
  unfold Machine.translate
  dsimp only
  split <;> exact hleaf

@[simp] theorem translate_maint (d aspace va : Nat) (acc : Option Acc) :
    quietMaint (translate s d aspace va acc).2 = quietMaint s :=
  (congrArg quietMaint (translate_frame s d aspace va acc) :)

theorem translate_inService (d aspace va : Nat) (acc : Option Acc) (u : Nat) :
    inService (translate s d aspace va acc).2 u = inService s u :=
  (congrArg (inService · u) (translate_frame s d aspace va acc) :)

theorem cmePages_maint (d : Nat) (r : CmeReq) (f va n : Nat) : quietMaint (cmePages d r f s va n).2 = quietMaint s := by
  induction f generalizing s va n with
  | zero => rfl
  | succ f ih =>
    unfold cmePages
    split
    · rfl
    · dsimp only
      rw [ih]
      split
      · split <;> simp
      · simp

/-- A request within one page that translates to memory is one operation on the physical range. -/
theorem cmePages_one {s s1 : State} {d f va n a : Nat} {r : CmeReq} (hpos : 0 < n) (hpage : n ≤ 4096 - va % 4096)
    (hpa : translate s d r.aspace (sext57 va) none = (.pa a, s1)) (hmem : isMem s1 a = true) :
    cmePages d r (f + 1) s va n = (0, countEv (countEv (cmeRange s1 d r a n) (pgCme d) 1 (ceilDiv n 128))
      (pgCme d) 2 (cmeDirty s1 d r a n)) := by
  have hend (t : State) (va' : Nat) : cmePages d r f t va' 0 = (0, t) := by
    cases f <;> simp [cmePages]
  rw [cmePages, if_neg (by omega)]
  simp [hpa, hmem, Nat.min_eq_right hpage, hend]

end

/-! ### CME_REQUEST_DONE (R229) -/

section
variable {s : State} {d : Nat} {r : CmeReq} {rest : List CmeReq}

/-- The engine after a request: the request is gone, DONE counts it, LASTSKIP is set. -/
def served (c : CmeSt) (rest : List CmeReq) (skip : Nat) : CmeSt :=
  { c with reqs := rest, done := (c.done + 1) % 2 ^ 32, lastSkip := min skip 0xFFFF }

/-- The completion record of a request that CME_GO made. -/
def recorded (s : State) (d skip : Nat) : Option (Nat × Nat) → State
  | some (q, tag) => postRec s q { kind := 5, status := stOk, detail := d, tag := tag, value := min skip 0xFFFF }
  | none => s

/-- The state after a request whose pages gave p: p counted, the engine, the record. -/
def requestDone (d : Nat) (r : CmeReq) (rest : List CmeReq) (p : Nat × State) : State :=
  recorded ((countEv p.2 (pgCme d) 3 p.1).setCme d (served (p.2.cme d) rest p.1)) d p.1 r.rec?

@[simp] theorem recorded_frame (s : State) (d skip : Nat) (x : Option (Nat × Nat)) :
    quietRec (recorded s d skip x) = quietRec s := by
  cases x with
  | none => rfl
  | some p => exact postRec_quietRec _ _ _

theorem cmeFeed_of_no_backlog {n : Nat} (h : (s.cme d).backlog = []) : cmeFeed n s d = s := by
  cases n <;> simp [cmeFeed, h]

theorem requestDone_cme (p : Nat × State) : (requestDone d r rest p).cme d = served (p.2.cme d) rest p.1 := by
  have h := recorded_frame ((countEv p.2 (pgCme d) 3 p.1).setCme d (served (p.2.cme d) rest p.1)) d p.1 r.rec?
  exact (congrArg (fun t => State.cme t d) h :).trans ((setCme_cme _ _ _ _).trans (if_pos rfl))

theorem requestDone_ccWay (p : Nat × State) (k : Nat) : (requestDone d r rest p).ccWay k = p.2.ccWay k :=
  (congrArg (fun t => State.ccWay t k) (recorded_frame _ _ _ _) :).trans (countEv_ccWay _ _ _ _ _)

theorem exec_cmeRequestDone (hlive : live s = true) (hdie : hasCdie s d = true) (hreqs : (s.cme d).reqs = r :: rest)
    (hbacklog : (s.cme d).backlog = []) (hdesc : r.desc = none) (hdst : s.dst (pgCme d) ≠ 3) (hawake : awake s = true) :
    exec (.cmeRequestDone d) s = .next (requestDone d r rest (cmePages d r (r.len / 4096 + 2) s r.va r.len)) := by
  have hexec : exec (.cmeRequestDone d) s = execCmeRequestDone d s := rfl
  have hcme : (cmePages d r (r.len / 4096 + 2) s r.va r.len).2.cme d = s.cme d :=
    (congrArg (fun t => State.cme t d) (cmePages_maint s d r _ _ _) :)
  rw [hexec, execCmeRequestDone, whenLive, if_pos hlive, hreqs]
  dsimp only
  rw [if_neg (by simp [hdie, hdst, hawake])]
  generalize cmePages d r (r.len / 4096 + 2) s r.va r.len = p at hcme ⊢
  have hempty : ((requestDone d r rest p).cme d).backlog = [] := by
    rw [requestDone_cme, hcme]
    exact hbacklog
  rw [← cmeFeed_of_no_backlog (n := 8) hempty]
  obtain ⟨skip, s0⟩ := p
  unfold requestDone served
  cases hrec : r.rec? with
  | none => simp [hdesc, recorded]
  | some p => simp [recorded]

/-- The engine after the request, and the work that maintenance leaves. -/
theorem requestDone_frame (p : Nat × State) (h : quietMaint p.2 = quietMaint s) :
    (requestDone d r rest p).cme d = served (s.cme d) rest p.1 ∧ (requestDone d r rest p).jobs = s.jobs ∧
      (requestDone d r rest p).items = s.items ∧ (requestDone d r rest p).units = s.units := by
  have hrec := recorded_frame ((countEv p.2 (pgCme d) 3 p.1).setCme d (served (p.2.cme d) rest p.1)) d p.1 r.rec?
  have hcme : p.2.cme d = s.cme d := (congrArg (fun t => State.cme t d) h :)
  refine ⟨?_, ?_, ?_, ?_⟩
  · rw [requestDone_cme, hcme]
  · exact (congrArg State.jobs hrec :).trans ((countEv_jobs _ _ _ _).trans (congrArg State.jobs h :))
  · exact (congrArg State.items hrec :).trans ((countEv_items _ _ _ _).trans (congrArg State.items h :))
  · exact (congrArg State.units hrec :).trans ((countEv_units _ _ _ _).trans (congrArg State.units h :))

end

/-- Settles O39: CME_GO rejected and accepted (`cmeGo_rejected`, `cmeGo_accepted`); a completed request by what its pages
leave (`requestDone_frame`), and a FLUSH of one page by the clear range it leaves in the caches (`cmeRange_flush_clears`);
a way mask is a plain register write. -/
theorem maintenanceEnginesServeTheirRequests : Obligations.MaintenanceEnginesServeTheirRequests := by
  unfold Obligations.MaintenanceEnginesServeTheirRequests
  intro d s hlive hdie
  refine ⟨fun c n hc hn => ?_, fun r rest hreqs hbacklog hdesc hdst hawake => ?_, fun n v hn => ?_⟩
  · obtain ⟨hexec, hop⟩ := exec_cmeOp hlive hdie hc hn
    rw [hexec]
    subst hn
    exact ⟨fun hbad => congrArg _ (cmeGo_rejected hop hbad), fun hgood => congrArg _ (cmeGo_accepted hop hgood)⟩
  · obtain ⟨hcme, hjobs, hitems, hunits⟩ :=
      requestDone_frame (rest := rest) _ (cmePages_maint s d r (r.len / 4096 + 2) r.va r.len)
    refine ⟨_, exec_cmeRequestDone hlive hdie hreqs hbacklog hdesc hdst hawake, hcme, hjobs, hitems, hunits, ?_⟩
    intro a s1 hop htcu hunit hpos hpage hpa hmem k hserv hkdie hlo hhi
    have hserv1 : inService s1 (k / 65536) = true := by
      rw [← hserv, ← translate_inService s d r.aspace (sext57 r.va) none, hpa]
    have hclear : ClearAt a r.len k (cmeRange s1 d r a r.len) := cmeRange_flush_clears hop htcu hunit hserv1 hkdie
    rw [cmePages_one hpos hpage hpa hmem, requestDone_ccWay, countEv_ccWay, countEv_ccWay] at hlo hhi ⊢
    exact hclear hlo hhi
  · have hexec : exec (.scWaymaskWrite d n v) s = execScWaymaskWrite d n v s := rfl
    rw [hexec, execScWaymaskWrite, whenLive, if_pos hlive, if_pos (by simp [hdie, hn])]

end Sys2Proof.Proofs
end

section
/-! Counted events while the event interrupt is off (spec/20_counters_and_debug.md R522, R524, R526, R527): they change the
event counters and nothing else. -/

namespace Sys2Proof.Proofs

open Sys2Proof.Laws Sys2Proof.Machine

/-- The state but for its event counters. -/
def uncounted (s : State) : State := { s with ev := ⟨[], 0, false, false⟩ }

/-- The interrupt's enable is a register. -/
theorem evQuiet_of_regs {s t : State} (hregs : t.reg (regAddr pgGlb 0x1C0) = s.reg (regAddr pgGlb 0x1C0)) (hs : EvQuiet s) :
    EvQuiet t := (congrArg (fun v => bit 0 v) hregs).trans hs

theorem evQuiet_of_uncounted {s t : State} (h : uncounted t = uncounted s) (hs : EvQuiet s) : EvQuiet t := by
  have hreg (a : Nat) : t.reg a = s.reg a := (congrArg (fun z => State.reg z a) h :)
  exact evQuiet_of_regs (hreg _) hs

theorem ev_uncounted (s : State) (e : Events) : uncounted { s with ev := e } = uncounted s := rfl

section
variable {s : State} (hs : EvQuiet s)
include hs

theorem ev_evQuiet (e : Events) : EvQuiet { s with ev := e } := evQuiet_of_uncounted (ev_uncounted s e) hs

theorem evInterrupt_of_evQuiet : evInterrupt s = s := if_neg (Bool.eq_false_iff.mp hs)

theorem evOverflowed_uncounted (p n : Nat) : uncounted (evOverflowed s p n) = uncounted s := by
  unfold evOverflowed
  split
  · rfl
  · exact (congrArg uncounted (evInterrupt_of_evQuiet (ev_evQuiet hs _))).trans (ev_uncounted s _)

theorem evAdd_uncounted (p c n : Nat) : uncounted (evAdd s p c n) = uncounted s := by
  unfold evAdd
  extract_lets old sum ovf wraps s'
  have h : uncounted s' = uncounted s := rfl
  clear_value s'
  exact ite_leaves ((evOverflowed_uncounted (evQuiet_of_uncounted h hs) p c).trans h) h

/-- A fold that counts events in the counters that a test picks. -/
theorem foldl_evAdd_uncounted (p : Nat) (test : State → Nat → Bool) (f : Nat → Nat) (n : Nat) (l : List Nat) :
    uncounted (l.foldl (fun t c => if test t c then evAdd t p (f c) n else t) s) = uncounted s :=
  List.foldlRecOn (motive := fun t => uncounted t = uncounted s) l _ rfl
    fun _ ht _ _ => ite_leaves ((evAdd_uncounted (evQuiet_of_uncounted ht hs) _ _ _).trans ht) ht

theorem countEv_uncounted (p src n : Nat) : uncounted (countEv s p src n) = uncounted s := by
  unfold countEv
  extract_lets own s1 d
  have h1 : uncounted s1 = uncounted s := foldl_evAdd_uncounted hs p (fun t c => counts t p c src) id n _
  refine ite_leaves rfl (ite_leaves ?_ h1)
  exact (foldl_evAdd_uncounted (evQuiet_of_uncounted h1 hs) (pgDie d) (fun t c => countsX t d p (c + 4) src) (· + 4) n _).trans h1

theorem countEv_mem (p src n : Nat) : (countEv s p src n).mem = s.mem := (congrArg State.mem (countEv_uncounted hs p src n) :)

theorem countEv_evQuiet (p src n : Nat) : EvQuiet (countEv s p src n) :=
  evQuiet_of_uncounted (countEv_uncounted hs p src n) hs

end

end Sys2Proof.Proofs
end

section
/-! Commits of the well (spec/09_memory_tiers.md R252, R255 to R258, R264, R265): one lemma for each way in which
WELL_COMMIT ends, and what a used version of the sequence leaves. -/

namespace Sys2Proof.Proofs

open Sys2Proof.Laws Sys2Proof.Machine

/-! ### The well's parts -/

/-- The well takes another set of versions. -/
def withVers (s : State) (l : List WellVer) : State := { s with well := { s.well with vers := l } }

theorem holdupOk_iff (s : State) : holdupOk s = true ↔ 900 ≤ s.well.energy := decide_eq_true_iff

/-- A name that is superseded has no current version, and the versions of other names stay. -/
theorem supersede_find (l : List WellVer) (name n : Nat) :
    (supersede l name).find? (fun v => v.current && v.name == n) =
      if n = name then none else l.find? (fun v => v.current && v.name == n) := by
  induction l with
  | nil => split <;> rfl
  | cons v l ih =>
    have hcons : supersede (v :: l) name = (if v.name = name then { v with current := false } else v) :: supersede l name := rfl
    rw [hcons, List.find?_cons, List.find?_cons, ih]
    by_cases hv : v.name = name
    · rw [if_pos hv]
      by_cases hn : n = name
      · simp [hn]
      · have hne : (v.name == n) = false := beq_false_of_ne fun h => hn (h.symm.trans hv)
        simp [hn, hne]
    · rw [if_neg hv]
      by_cases hn : n = name
      · have hne : (v.name == n) = false := beq_false_of_ne fun h => hv (h.trans hn)
        simp [hn, hn ▸ hne]
      · simp [hn]

/-- A version that is superseded keeps all but its mark. -/
theorem exists_superseded {l : List WellVer} {v : WellVer} (hv : v ∈ l) (name : Nat) :
    ∃ w ∈ supersede l name, { w with current := v.current } = v := by
  refine ⟨_, List.mem_map_of_mem hv, ?_⟩
  split <;> rfl

/-! ### The commit sequence (R252, R257, R258) -/

/-- The state but for the well and what reporting an event or an error changes. -/
def quietWell (s : State) : State := { quietErr s with well := WellSt.fresh }

theorem raiseWell_well (s : State) (n : Nat) (inj : Bool) : (raiseWell s n inj).well = s.well := by
  simp [raiseWell]

theorem raiseWell_quietErr (s : State) (n : Nat) (inj : Bool) : quietErr (raiseWell s n inj) = quietErr s := by
  rw [raiseWell, raiseWith_quietErr, raiseWith_quietErr]

theorem wellUsed_congr {s t : State} (hwritten : t.well.written = s.well.written) (hfuses : t.fuses = s.fuses) :
    wellUsed t = wellUsed s := by
  rw [wellUsed, wellUsed, wellEndurance, wellEndurance, hwritten, hfuses]

/-- The end of the sequence, or of the well's endurance (R258). -/
def endsWell (s : State) : Prop := 2 ^ 64 - 2 ≤ s.well.nextVer ∨ 100 ≤ wellUsed s

theorem endsWell_congr {s t : State} (hnext : t.well.nextVer = s.well.nextVer)
    (hwritten : t.well.written = s.well.written) (hfuses : t.fuses = s.fuses) : endsWell t ↔ endsWell s := by
  rw [endsWell, endsWell, hnext, wellUsed_congr hwritten hfuses]

/-- A version of the sequence is counted, with the bytes that it commits. -/
def countVersion (s : State) (bytes : Nat) : State :=
  countEv (countEv { s with well := { s.well with nextVer := s.well.nextVer + 1, written := s.well.written + bytes } }
    (pgWel 0) 3 1) (pgWel 1) 3 1

theorem countVersion_well (s : State) (bytes : Nat) : (countVersion s bytes).well =
    { s.well with nextVer := s.well.nextVer + 1, written := s.well.written + bytes } := by
  rw [countVersion, countEv_well, countEv_well]

theorem countVersion_quietWell (s : State) (bytes : Nat) : quietWell (countVersion s bytes) = quietWell s := by
  have h : quiet (countVersion s bytes) =
      quiet { s with well := { s.well with nextVer := s.well.nextVer + 1, written := s.well.written + bytes } } := by
    rw [countVersion, countEv_quiet, countEv_quiet]
  exact (congrArg quietWell h :)

theorem wellReadOnly_well {s : State} (hro : s.well.ro = false) : (wellReadOnly s).well = { s.well with ro := true } := by
  rw [wellReadOnly, if_neg (Bool.eq_false_iff.mp hro), raiseWell_well]

theorem wellReadOnly_quietWell {s : State} (hro : s.well.ro = false) : quietWell (wellReadOnly s) = quietWell s := by
  have h : quietErr (wellReadOnly s) = quietErr { s with well := { s.well with ro := true } } := by
    rw [wellReadOnly, if_neg (Bool.eq_false_iff.mp hro), raiseWell_quietErr]
  exact (congrArg quietWell h :)

theorem useVersion_ends {s : State} {bytes : Nat} (h : endsWell (countVersion s bytes)) :
    useVersion s bytes = wellReadOnly (countVersion s bytes) := if_pos h

theorem useVersion_goesOn {s : State} {bytes : Nat} (h : ¬endsWell (countVersion s bytes)) :
    useVersion s bytes = countVersion s bytes := if_neg h

section
variable {s : State} (bytes : Nat) (hro : s.well.ro = false)
include hro

/-- What a used version leaves: all but the well and what reporting an event or an error changes. -/
theorem useVersion_quietWell : quietWell (useVersion s bytes) = quietWell s := by
  by_cases hend : endsWell (countVersion s bytes)
  · rw [useVersion_ends hend, wellReadOnly_quietWell (by rw [countVersion_well, hro]), countVersion_quietWell]
  · rw [useVersion_goesOn hend, countVersion_quietWell]

/-- The well of a module that is not read-only, once a version of the sequence is used for a number of bytes. -/
theorem useVersion_well : ∃ ro, (useVersion s bytes).well =
      { s.well with nextVer := s.well.nextVer + 1, written := s.well.written + bytes, ro := ro } ∧
    (ro = true ↔ endsWell (useVersion s bytes)) := by
  have hwell := countVersion_well s bytes
  by_cases hend : endsWell (countVersion s bytes)
  · have hro' : (countVersion s bytes).well.ro = false := by rw [hwell, hro]
    have hreadOnly := wellReadOnly_well hro'
    have hfuses : (wellReadOnly (countVersion s bytes)).fuses = (countVersion s bytes).fuses :=
      (congrArg State.fuses (wellReadOnly_quietWell hro') :)
    have hends : endsWell (wellReadOnly (countVersion s bytes)) :=
      (endsWell_congr (by rw [hreadOnly]) (by rw [hreadOnly]) hfuses).mpr hend
    rw [useVersion_ends hend]
    exact ⟨true, by rw [hreadOnly, hwell], fun _ => hends, fun _ => rfl⟩
  · rw [useVersion_goesOn hend]
    exact ⟨false, by rw [hwell, ← hro], fun h => absurd h (by decide), fun h => absurd h hend⟩

end

/-! ### WELL_COMMIT -/

section
variable {s : State} {q idx : Nat} {d : Desc} (hlive : live s = true) (hd : descAt s q idx = some d) (hst : d.stage = .started)
include hlive hd hst

theorem exec_wellCommit_readOnly (hopc : d.opc = 0x10 ∨ d.opc = 0x12) (hro : s.well.ro = true) :
    exec (.wellCommit q idx) s = .next (finishDesc (dropMove s q idx) q idx stWellRo 0) := by
  show execWellCommit q idx s = _
  simp [execWellCommit, whenLive, hlive, hd, hst, hopc, hro]

theorem exec_wellCommit_unheld (hopc : d.opc = 0x10 ∨ d.opc = 0x12) (hro : s.well.ro = false) (hlow : s.well.energy < 900) :
    exec (.wellCommit q idx) s = .next (finishDesc (dropMove s q idx) q idx stHoldup 0) := by
  have hold : holdupOk s = false := Bool.eq_false_iff.mpr fun h => absurd ((holdupOk_iff s).mp h) (by omega)
  show execWellCommit q idx s = _
  simp [execWellCommit, whenLive, hlive, hd, hst, hopc, hro, hold]

theorem exec_wellCommit_deletes (hopc : d.opc = 0x12) (hro : s.well.ro = false) (hheld : 900 ≤ s.well.energy) :
    exec (.wellCommit q idx) s = .next (finishDesc (useVersion (withVers s (supersede s.well.vers (d.op 32 8))) 0) q idx stOk
      s.well.nextVer) := by
  have hold := (holdupOk_iff s).mpr hheld
  show execWellCommit q idx s = _
  simp [execWellCommit, whenLive, hlive, hd, hst, hopc, hro, hold, withVers]

/-- The version that a WPUT commits. -/
def committed (s : State) (m : WellMove) : WellVer :=
  ⟨m.name, s.well.nextVer, m.fmt, m.layers, m.lbytes, moveBytes m, true⟩

theorem exec_wellCommit_puts {m : WellMove} (hopc : d.opc = 0x10) (hro : s.well.ro = false) (hheld : 900 ≤ s.well.energy)
    (hm : moveOf s q idx = some m) (hall : chunkCount m ≤ m.moved.length) :
    exec (.wellCommit q idx) s = .next (finishDesc (useVersion (dropMove (withVers s
      (committed s m :: supersede s.well.vers m.name)) q idx) m.len) q idx stOk s.well.nextVer) := by
  have hold := (holdupOk_iff s).mpr hheld
  show execWellCommit q idx s = _
  simp [execWellCommit, whenLive, hlive, hd, hst, hopc, hro, hold, hm, Nat.not_lt.mpr hall, withVers, committed]

theorem exec_wellCommit_waits {m : WellMove} (hopc : d.opc = 0x10) (hro : s.well.ro = false) (hheld : 900 ≤ s.well.energy)
    (hm : moveOf s q idx = some m) (hsome : m.moved.length < chunkCount m) : exec (.wellCommit q idx) s = .next s := by
  have hold := (holdupOk_iff s).mpr hheld
  show execWellCommit q idx s = _
  simp [execWellCommit, whenLive, hlive, hd, hst, hopc, hro, hold, hm, hsome]

end

/-! ### What a commit makes of the versions (R252, R255, R256) -/

/-- The state u follows s by a commit that gives a name a version, or none, and commits a number of bytes. -/
def CommitMade (s u : State) (name bytes : Nat) (new : Option WellVer) : Prop :=
  u.well.nextVer = s.well.nextVer + 1 ∧ u.well.written = s.well.written + bytes ∧ currentVer u name = new ∧
  (∀ n, n ≠ name → currentVer u n = currentVer s n) ∧
  (∀ v ∈ s.well.vers, ∃ w ∈ u.well.vers, { w with current := v.current } = v) ∧
  (u.well.ro = true ↔ 2 ^ 64 - 2 ≤ s.well.nextVer + 1 ∨ 100 ≤ wellUsed u) ∧
  u.jobs = s.jobs ∧ u.items = s.items ∧ u.regs = s.regs

/-- A version of the sequence is used in a state that differs from s in the well's versions and moves only: the name's
versions are superseded, and a new one may stand before them. -/
theorem useVersion_commitMade {s z : State} {name bytes : Nat} {new : Option WellVer} {moves : List WellMove}
    (hro : s.well.ro = false)
    (hz : z = { s with well := { s.well with vers := new.toList ++ supersede s.well.vers name, moves := moves } })
    (hnew : ∀ v ∈ new, v.name = name ∧ v.current = true) : CommitMade s (useVersion z bytes) name bytes new := by
  have hzro : z.well.ro = false := by rw [hz, hro]
  have hzquiet : quietWell z = quietWell s := by rw [hz]; rfl
  have hquiet := (useVersion_quietWell bytes hzro).trans hzquiet
  obtain ⟨ro, hwell, hends⟩ := useVersion_well bytes hzro
  generalize useVersion z bytes = u at hquiet hwell hends
  have hnext : u.well.nextVer = s.well.nextVer + 1 := by rw [hwell, hz]
  have hvers : u.well.vers = new.toList ++ supersede s.well.vers name := by rw [hwell, hz]
  have hfind (n : Nat) : currentVer u n = if n = name then new else currentVer s n := by
    rw [currentVer, hvers, List.find?_append, supersede_find]
    cases new with
    | none => rfl
    | some v =>
      obtain ⟨hname, hcurrent⟩ := hnew v rfl
      by_cases hn : n = name
      · simp [hname, hcurrent, hn]
      · simp [hname, Ne.symm hn, hn, currentVer]
  refine ⟨hnext, by rw [hwell, hz], by rw [hfind, if_pos rfl], fun n hn => by rw [hfind, if_neg hn], fun v hv => ?_, ?_,
    (congrArg State.jobs hquiet :), (congrArg State.items hquiet :), (congrArg State.regs hquiet :)⟩
  · obtain ⟨w, hw, heq⟩ := exists_superseded hv name
    exact ⟨w, by rw [hvers]; exact List.mem_append_right _ hw, heq⟩
  · rw [endsWell, hnext] at hends
    rw [hwell]
    exact hends

/-! ### WELL_UNITS_FREED (R256) -/

theorem exec_wellUnitsFreed {s : State} {name ver : Nat} (hlive : live s = true) (hpin : verPinned s name ver = false)
    (hread : ∀ m ∈ s.well.moves, m.put = false → ¬(m.name = name ∧ m.ver = ver)) :
    exec (.wellUnitsFreed name ver) s =
      .next (withVers s (s.well.vers.filter (fun v => v.current || !(v.name == name && v.ver == ver)))) := by
  have hreading : s.well.moves.any (fun m => !m.put && m.name == name && m.ver == ver) = false := by
    rw [List.any_eq_false]
    intro m hm
    have := hread m hm
    simp only [Bool.and_eq_true, Bool.not_eq_true', beq_iff_eq]
    tauto
  show execWellUnitsFreed name ver s = _
  simp [execWellUnitsFreed, whenLive, hlive, hpin, hreading, withVers]

/-! ### The statement -/

/-- Settles O42: a commit that the well refuses; that removes a name; that makes a version; that has to wait; and the
release of a version's units. -/
theorem wellCommitsMakeVersionsInOrder : Obligations.WellCommitsMakeVersionsInOrder := by
  unfold Obligations.WellCommitsMakeVersionsInOrder
  refine ⟨fun q idx d s hlive hd hst => ?_, fun name ver s hlive hpin hread => ?_⟩
  · intro refused commits
    refine ⟨fun hopc => ⟨fun hro => ⟨_, exec_wellCommit_readOnly hlive hd hst hopc hro, rfl⟩,
      fun hro hlow => ⟨_, exec_wellCommit_unheld hlive hd hst hopc hro hlow, rfl⟩⟩,
      fun hro hheld => ⟨fun hopc => ?_, fun hopc m hm => ⟨fun hall => ?_, fun hsome => ?_⟩⟩⟩
    · exact ⟨_, exec_wellCommit_deletes hlive hd hst hopc hro hheld,
        useVersion_commitMade (new := none) hro rfl (fun v hv => absurd hv (by simp))⟩
    · exact ⟨_, exec_wellCommit_puts hlive hd hst hopc hro hheld hm hall,
        useVersion_commitMade (new := some (committed s m)) hro rfl (fun v hv => by cases hv; exact ⟨rfl, rfl⟩)⟩
    · exact exec_wellCommit_waits hlive hd hst hopc hro hheld hm hsome
  · refine ⟨_, exec_wellUnitsFreed hlive hpin hread, fun v => ?_, rfl⟩
    simp only [withVers, List.mem_filter, Bool.or_eq_true, Bool.not_eq_true', Bool.and_eq_false_iff, beq_eq_false_iff_ne]
    tauto

end Sys2Proof.Proofs
end

section
/-! The windlass engines (spec/09_memory_tiers.md R257, R260 to R263, R269): what an engine that serves makes of a tile of a
window item and of a chunk of a well command. -/

namespace Sys2Proof.Proofs

open Sys2Proof.Laws Sys2Proof.Machine

/-! ### What an engine counts and reports -/

theorem item_of_quiet {s t : State} (h : quiet t = quiet s) (n : Nat) : t.item n = s.item n :=
  (congrArg (fun z => State.item z n) h :)
theorem reg_of_quiet {s t : State} (h : quiet t = quiet s) (a : Nat) : t.reg a = s.reg a :=
  (congrArg (fun z => State.reg z a) h :)
theorem well_of_quiet {s t : State} (h : quiet t = quiet s) : t.well = s.well := (congrArg State.well h :)

theorem blockAt_pgWel {x : Nat} (h : x < 2) : blockAt (pgWel x) = some (.wel, 0) := by
  have hall : ∀ y : Fin 2, blockAt (pgWel y) = some (.wel, 0) := by decide
  exact hall ⟨x, h⟩

/-- WDL_BYTES of an engine. -/
def wdlBytes (x k : Nat) : Nat := regAddr (pgWdl x k) 0x110

theorem wdlBytes_ne (x k : Nat) : regAddr pgGlb 0x1C0 ≠ wdlBytes x k := fun h =>
  absurd ((regAddr_inj (by decide) (by decide)).mp h).2 (by decide)

/-- The register store of the bytes that an engine moved. -/
def addMoved (s : State) (x k n : Nat) : State :=
  s.setReg (wdlBytes x k) (BitVec.ofNat 64 (((s.reg (wdlBytes x k)).toNat + n) % 2 ^ 48))

theorem wdlMoved_eq (s : State) (x k n : Nat) : ∃ e, wdlMoved s x k n = countEv (addMoved s x k n) (pgWdl x k) 3 e := ⟨_, rfl⟩

theorem wdlMoved_quiet (s : State) (x k n : Nat) : quiet (wdlMoved s x k n) = quiet (addMoved s x k n) := by
  obtain ⟨e, he⟩ := wdlMoved_eq s x k n
  rw [he, countEv_quiet]

theorem addMoved_evQuiet {s : State} (hs : EvQuiet s) (x k n : Nat) : EvQuiet (addMoved s x k n) :=
  evQuiet_of_regs ((setReg_reg s _ _ _).trans (if_neg (wdlBytes_ne x k))) hs

theorem wdlMoved_uncounted {s : State} (hs : EvQuiet s) (x k n : Nat) :
    uncounted (wdlMoved s x k n) = uncounted (addMoved s x k n) := by
  obtain ⟨e, he⟩ := wdlMoved_eq s x k n
  rw [he, countEv_uncounted (addMoved_evQuiet hs x k n)]

/-- A read of the flash that is not injected to fail. -/
theorem wellUe_ok {s : State} {x : Nat} (h : armedAt s (pgWel x) 9 = false) : wellUe s x false = (false, s) := by
  simp [wellUe, h]

/-- An uncorrectable read (R257, R269): UE is set, and the well stays. -/
theorem wellUe_bad (s : State) {x : Nat} (hx : x < 2) :
    (wellUe s x true).1 = true ∧ (wellUe s x true).2.well = s.well ∧ bit 9 ((wellUe s x true).2.err (pgWel x)) = true := by
  have hbad : wellUe s x true = (true, raiseWith (disarm s (pgWel x) 9) (pgWel x) 9 ⟨none, 0, none, false⟩) := by
    simp [wellUe]
  rw [hbad]
  exact ⟨rfl, raiseWith_well _ _ _ _, raiseWith_sets _ _ (blockAt_pgWel hx) (by decide)⟩

section
variable {s : State} {x k : Nat} (hserves : WdlServes s x k)
include hserves

theorem exec_wdlChunkDone_tile (n ord : Nat) (ue : Bool) :
    exec (.wdlChunkDone x k (.tile n ord) ue) s = .next (moveWindow s x k n ord ue) := by
  obtain ⟨hlive, hwell, hx, hk, hfailed, hdst, hen, hready, harmed⟩ := hserves
  show execWdlChunkDone x k (.tile n ord) ue s = _
  simp [execWdlChunkDone, whenLive, hlive, hwell, hx, hk, hfailed, hdst, hen, hready, harmed]

theorem exec_wdlChunkDone_chunk (q idx c : Nat) (ue : Bool) : exec (.wdlChunkDone x k (.chunk q idx c) ue) s =
    .next (if s.accepts (pgWdl x k) then moveChunk s x k q idx c ue else s) := by
  obtain ⟨hlive, hwell, hx, hk, hfailed, hdst, hen, hready, harmed⟩ := hserves
  show execWdlChunkDone x k (.chunk q idx c) ue s = _
  simp [execWdlChunkDone, whenLive, hlive, hwell, hx, hk, hfailed, hdst, hen, hready, harmed]

end

/-! ### Window items (R262, R263) -/

/-- Tile ord of item n can be moved by engine k of X-die x: the item is the engine's, waits for nothing and has not written
the tile. -/
structure TileReady (s : State) (x k n ord : Nat) (it : Item) : Prop where
  kind : it.kind = 0x10
  owner : it.owner = x * 2 + k
  err : it.err = none
  waits : itemWaits s n = false
  held : wdlHeld s x k (itemRq s n it).waiter = false
  asked : ord ∈ it.ords
  unwritten : ∀ w ∈ it.wrote, w.ord ≠ ord

/-- Where a window tile goes: the slot of its ordinal at the item's step. -/
def windowVa (j : Job) (it : Item) (ord cid : Nat) (c : Cnd) : Nat :=
  j.slotVa cid c ((it.step - j.s0) * (c.df.trows * c.df.tcols) + ord)

/-- The item holds a tile more, with tag 64 x 64, and the engine has moved its bytes. -/
def tileMoved (s : State) (x k n ord len : Nat) (it : Item) : State :=
  wdlMoved (s.setItem n (some { it with wrote := it.wrote ++ [⟨0, ord, 64, 64, false⟩] })) x k len

section
variable {s : State} {x k n ord pin cid : Nat} {it : Item} {j : Job} {st : Stn} {v : WellVer} {c : Cnd}
  (hit : s.item n = some it) (hj : s.job it.job = some j) (hst : j.stn it.sid = some st) (hready : TileReady s x k n ord it)
  (hpin : st.pin = some pin) (hver : wellVer s (wdTensor st.df) pin = some v) (hout : st.df.outs.head? = some (some cid))
  (hc : j.cnd cid = some c)
include hit hj hst hready hpin hver hout hc

/-- What the engine does with the tile, once the flash is read. -/
theorem moveWindow_eq (ue : Bool) : ∃ e, moveWindow s x k n ord ue =
    if (wellUe s x ue).1 then (wellUe s x ue).2.setItem n (some { it with err := some (stWellErr, 0, 0) })
    else
      let bytes := windowTile j st v it ord (slotBytes c.df.fmt)
      let w := rqWrites (wellUe s x ue).2 (itemRq s n it) [(windowVa j it ord cid c, bytes)]
      let t := tileMoved w.2 x k n ord bytes.length it
      if !w.1 then w.2
      else if it.ords.all (fun o => o == ord || it.wrote.any (fun y => y.ord == o)) then
        countEv (countEv t (pgWdl x k) 2 1) (pgWel x) 1 e
      else t := by
  obtain ⟨hkind, howner, herr, hwaits, hheld, hasked, hunwritten⟩ := hready
  have hcnd : ioCnd j st.df.outs = some (cid, c) := by
    obtain ⟨l, hl⟩ := List.head?_eq_some_iff.mp hout
    simp [ioCnd, hl, hc]
  have hwrote : it.wrote.any (fun w => w.ord == ord) = false := by simpa using hunwritten
  have hva : j.slotVa cid c (c.ordinal j.s0 it.step 0 0 + ord) = windowVa j it ord cid c := by
    simp [windowVa, Cnd.ordinal]
  refine ⟨ceilDiv (it.nord * (windowTile j st v it ord (slotBytes c.df.fmt)).length) (2 ^ 20), ?_⟩
  unfold moveWindow
  simp only [hit, hj, hst, Option.bind_some, Option.map_some, hpin, hver, hcnd]
  rw [if_neg (by simp [hkind, howner, herr, hwaits, hheld, hasked, hwrote]), hva]
  rfl

theorem moveWindow_unreadable (hx : x < 2) :
    (moveWindow s x k n ord true).item n = some { it with err := some (stWellErr, 0, 0) } ∧
    bit 9 ((moveWindow s x k n ord true).err (pgWel x)) = true ∧ (moveWindow s x k n ord true).well = s.well := by
  obtain ⟨hbad, hwell, hbit⟩ := wellUe_bad s hx
  obtain ⟨e, he⟩ := moveWindow_eq hit hj hst hready hpin hver hout hc true
  rw [he, if_pos hbad, setItem_item, if_pos rfl, setItem_err, setItem_well]
  exact ⟨rfl, hbit, hwell⟩

section
variable (harmed : armedAt s (pgWel x) 9 = false) {s1 : State} {ok : Bool}
  (hwrites : rqWrites s (itemRq s n it) [(windowVa j it ord cid c, windowTile j st v it ord (slotBytes c.df.fmt))] = (ok, s1))
include harmed hwrites

theorem moveWindow_faults (hok : ok = false) : moveWindow s x k n ord false = s1 := by
  obtain ⟨e, he⟩ := moveWindow_eq hit hj hst hready hpin hver hout hc false
  rw [he, wellUe_ok harmed]
  simp only [hwrites, hok]
  rfl

/-- The tile is moved, and events are counted. -/
theorem moveWindow_moves (hok : ok = true) :
    let t := tileMoved s1 x k n ord (windowTile j st v it ord (slotBytes c.df.fmt)).length it
    quiet (moveWindow s x k n ord false) = quiet t ∧ (EvQuiet t → (moveWindow s x k n ord false).mem = t.mem) := by
  intro t
  obtain ⟨e, he⟩ := moveWindow_eq hit hj hst hready hpin hver hout hc false
  have hmove : moveWindow s x k n ord false =
      if it.ords.all (fun o => o == ord || it.wrote.any (fun y => y.ord == o)) then
        countEv (countEv t (pgWdl x k) 2 1) (pgWel x) 1 e
      else t := by
    rw [he, wellUe_ok harmed]
    simp only [hwrites, hok]
    rfl
  rw [hmove]
  clear_value t
  split
  · exact ⟨by rw [countEv_quiet, countEv_quiet],
      fun hq => by rw [countEv_mem (countEv_evQuiet hq _ _ _), countEv_mem hq]⟩
  · exact ⟨rfl, fun _ => rfl⟩

end

end

theorem tileMoved_quiet (s : State) (x k n ord len : Nat) (it : Item) : quiet (tileMoved s x k n ord len it) =
    quiet (addMoved (s.setItem n (some { it with wrote := it.wrote ++ [⟨0, ord, 64, 64, false⟩] })) x k len) :=
  wdlMoved_quiet _ _ _ _

theorem tileMoved_uncounted {s : State} (hs : EvQuiet s) (x k n ord len : Nat) (it : Item) :
    uncounted (tileMoved s x k n ord len it) =
      uncounted (addMoved (s.setItem n (some { it with wrote := it.wrote ++ [⟨0, ord, 64, 64, false⟩] })) x k len) :=
  wdlMoved_uncounted (evQuiet_of_regs (setItem_reg s _ _ _) hs) _ _ _

/-- The state after a window tile was moved: the item holds it, the engine's bytes are counted, the well stays, and so does
memory if no counted event writes it. -/
theorem tile_moved {s t : State} {x k n ord len : Nat} {it : Item} (hquiet : quiet t = quiet (tileMoved s x k n ord len it))
    (hmem : EvQuiet (tileMoved s x k n ord len it) → t.mem = (tileMoved s x k n ord len it).mem) :
    t.item n = some { it with wrote := it.wrote ++ [⟨0, ord, 64, 64, false⟩] } ∧ t.well = s.well ∧
    t.reg (wdlBytes x k) = BitVec.ofNat 64 (((s.reg (wdlBytes x k)).toNat + len) % 2 ^ 48) ∧ (EvQuiet s → t.mem = s.mem) := by
  have hq := hquiet.trans (tileMoved_quiet s x k n ord len it)
  refine ⟨?_, (well_of_quiet hq).trans rfl, ?_, fun hs => ?_⟩
  · rw [item_of_quiet hq, addMoved, setReg_item, setItem_item, if_pos rfl]
  · rw [reg_of_quiet hq, addMoved, setReg_reg, if_pos rfl, setItem_reg]
  · have hu := tileMoved_uncounted hs x k n ord len it
    have hs' := evQuiet_of_uncounted hu (addMoved_evQuiet (evQuiet_of_regs (setItem_reg s _ _ _) hs) _ _ _)
    exact (hmem hs').trans (congrArg State.mem hu :)

/-! ### Chunks (R260, R261) -/

theorem rqPrefetch_access (s : State) (r : Rq) (pages : List Nat) : quietAccess (rqPrefetch r pages s) = quietAccess s :=
  access_foldl (fun t va => rqXlat_access t r va 1 .rd) pages s

theorem rqPrefetch_well (s : State) (r : Rq) (pages : List Nat) : (rqPrefetch r pages s).well = s.well :=
  (congrArg State.well (rqPrefetch_access s r pages) :)

theorem wdlMoved_well (s : State) (x k n : Nat) : (wdlMoved s x k n).well = s.well := (well_of_quiet (wdlMoved_quiet s x k n)).trans rfl

/-- A step that counts leaves the well. -/
def KeepsWell (counted : State → Nat → State) : Prop := ∀ t n, (counted t n).well = t.well

theorem countMoved_keepsWell (x k len a b p p' e : Nat) (r : Rq) (ahead : List Nat) : KeepsWell fun t n =>
    countEv (countEv (wdlMoved (rqPrefetch r ahead t) x k len) p a b) p' n e := fun t n => by
  rw [countEv_well, countEv_well, wdlMoved_well, rqPrefetch_well]

/-- A chunk of a WPUT by what the read of memory gave, with the step that counts it. -/
def putChunk (q idx c : Nat) (m : WellMove) (counted : State → Nat → State) : Option (List Byte × Bool) × State → State
  | (none, s1) => s1
  | (some (bs, poison), s1) =>
    if poison then finishDesc (dropMove s1 q idx) q idx stMemErr 0
    else counted (setMove s1 { m with moved := m.moved ++ [c], buf := m.buf ++ [(c, bs)] }) 2

/-- A chunk of a WGET by what the writes of memory gave, with the step that counts it. -/
def getChunk (q idx c : Nat) (m : WellMove) (counted : State → Nat → State) : Bool × State → State
  | (ok, s1) =>
    if !ok then s1
    else
      let s2 := counted (setMove s1 { m with moved := m.moved ++ [c] }) 1
      if m.moved.length + 1 < chunkCount m then s2 else finishDesc (dropMove s2 q idx) q idx stOk m.ver

theorem getChunk_written (q idx c : Nat) (m : WellMove) (counted : State → Nat → State) (s : State) :
    getChunk q idx c m counted (true, s) =
      if m.moved.length + 1 < chunkCount m then counted (setMove s { m with moved := m.moved ++ [c] }) 1
      else finishDesc (dropMove (counted (setMove s { m with moved := m.moved ++ [c] }) 1) q idx) q idx stOk m.ver := by
  unfold getChunk
  exact if_neg Bool.false_ne_true

theorem moveOf_dropMove (s : State) (q idx : Nat) : moveOf (dropMove s q idx) q idx = none := by
  rw [moveOf, List.find?_eq_none]
  intro m hm
  simpa only [Bool.not_eq_true', Bool.not_eq_true] using (List.mem_filter.mp hm).2

/-- A window item is served before chunks. -/
theorem moveChunk_busy {s : State} {x k n : Nat} {it : Item} (q idx c : Nat) (ue : Bool)
    (hin : (n, it) ∈ engineItems s 0x10 (x * 2 + k)) (herr : it.err = none) (hwork : it.wrote.length < it.nord) :
    moveChunk s x k q idx c ue = s := by
  have hbusy : (engineItems s 0x10 (x * 2 + k)).any (fun p => p.2.err.isNone && p.2.wrote.length < p.2.nord) = true :=
    List.any_eq_true.mpr ⟨_, hin, by simp [herr, hwork]⟩
  unfold moveChunk
  split
  · exact if_pos (by simp [hbusy])
  · rfl

/-- Chunk c of the move m of a descriptor d can be moved by engine k of X-die x: it has not been, the engine has no window
item to serve, and waits for no translation. -/
structure ChunkReady (s : State) (x k q idx c : Nat) (m : WellMove) (d : Desc) : Prop where
  move : moveOf s q idx = some m
  desc : descAt s q idx = some d
  exists_ : c < chunkCount m
  unmoved : c ∉ m.moved
  idle : ∀ n it, (n, it) ∈ engineItems s 0x10 (x * 2 + k) → it.err = none → it.nord ≤ it.wrote.length
  waits : inSump s (wellRq s x k q d).waiter = false
  held : wdlHeld s x k (wellRq s x k q d).waiter = false

section
variable {s s1 : State} {x k q idx c va len : Nat} {m : WellMove} {d : Desc} (hready : ChunkReady s x k q idx c m d)
  (hva : va = m.va + c * 2 ^ 26) (hlen : len = min (2 ^ 26) (m.len - c * 2 ^ 26))
include hready

theorem chunk_not_refused : ¬(chunkCount m ≤ c ∨ m.moved.contains c ∨
    (engineItems s 0x10 (x * 2 + k)).any (fun p => p.2.err.isNone && p.2.wrote.length < p.2.nord) ∨
    inSump s (wellRq s x k q d).waiter ∨ wdlHeld s x k (wellRq s x k q d).waiter) := by
  obtain ⟨-, -, hexists, hunmoved, hidle, hwaits, hheld⟩ := hready
  have hbusy : (engineItems s 0x10 (x * 2 + k)).any (fun p => p.2.err.isNone && p.2.wrote.length < p.2.nord) = false := by
    rw [List.any_eq_false]
    intro p hp
    have := hidle p.1 p.2 hp
    simp only [Bool.and_eq_true, Option.isNone_iff_eq_none, decide_eq_true_eq, not_and, not_lt]
    exact this
  simp [hexists, hunmoved, hbusy, hwaits, hheld]

include hva hlen

theorem moveChunk_put (hput : m.put = true) (ue : Bool) : ∃ counted, KeepsWell counted ∧
    moveChunk s x k q idx c ue = putChunk q idx c m counted (rqRead s (wellRq s x k q d) va len) := by
  unfold moveChunk
  split
  · next m' d' hm hd =>
    cases hready.move.symm.trans hm
    cases hready.desc.symm.trans hd
    extract_lets r len' va' busy ahead counted
    have hva' : va' = va := hva.symm
    have hlen' : len' = len := hlen.symm
    have hcounted : KeepsWell counted := countMoved_keepsWell _ _ _ _ _ _ _ _ _ _
    clear_value len' va' counted
    subst hva' hlen'
    refine ⟨counted, hcounted, (if_neg (chunk_not_refused hready)).trans ((if_pos hput).trans ?_)⟩
    rcases rqRead s r va' len' with ⟨_ | ⟨bs, poison⟩, s1⟩
    · rfl
    · rfl
  · next hno => exact absurd hready.desc (hno m d hready.move)

theorem moveChunk_get (hget : m.put = false) {v : WellVer} (hver : wellVer s m.name m.ver = some v) (ue : Bool) :
    ∃ counted, KeepsWell counted ∧ moveChunk s x k q idx c ue =
      if (wellUe s x ue).1 then finishDesc (dropMove (wellUe s x ue).2 q idx) q idx stWellErr 0
      else getChunk q idx c m counted (rqWrites (wellUe s x ue).2 (wellRq s x k q d)
        [(va, (v.data.drop (m.first + c * 2 ^ 26)).take len)]) := by
  unfold moveChunk
  split
  · next m' d' hm hd =>
    cases hready.move.symm.trans hm
    cases hready.desc.symm.trans hd
    extract_lets r len' va' busy ahead counted
    have hva' : va' = va := hva.symm
    have hlen' : len' = len := hlen.symm
    have hcounted : KeepsWell counted := countMoved_keepsWell _ _ _ _ _ _ _ _ _ _
    clear_value len' va' counted
    subst hva' hlen'
    refine ⟨counted, hcounted, (if_neg (chunk_not_refused hready)).trans
      ((if_neg (Bool.eq_false_iff.mp hget)).trans ?_)⟩
    generalize hbytes : (v.data.drop (m.first + c * 2 ^ 26)).take len' = bytes
    split
    · next hnone => cases hnone.symm.trans hver
    · next v' hv =>
      cases hv.symm.trans hver
      rw [hbytes]
      rcases wellUe s x ue with ⟨bad, s0⟩
      refine congrArg (ite _ _) ?_
      rcases rqWrites s0 r [(va', bytes)] with ⟨ok, s1⟩
      rfl
  · next hno => exact absurd hready.desc (hno m d hready.move)

theorem moveChunk_get_unreadable (hget : m.put = false) {v : WellVer} (hver : wellVer s m.name m.ver = some v)
    (hx : x < 2) : ∃ u, moveChunk s x k q idx c true = finishDesc u q idx stWellErr 0 ∧ moveOf u q idx = none ∧
      u.well.vers = s.well.vers ∧ bit 9 (u.err (pgWel x)) = true := by
  obtain ⟨hbad, hwell, hbit⟩ := wellUe_bad s hx
  obtain ⟨counted, -, hmove⟩ := moveChunk_get hready hva hlen hget hver true
  exact ⟨_, hmove.trans (if_pos hbad), moveOf_dropMove _ _ _, (congrArg WellSt.vers hwell :), hbit⟩

/-- A chunk of a WGET that is written: the move has it, and the last one ends the command. -/
theorem moveChunk_get_moves (hget : m.put = false) {v : WellVer} (hver : wellVer s m.name m.ver = some v)
    (harmed : armedAt s (pgWel x) 9 = false)
    (hwrites : rqWrites s (wellRq s x k q d) [(va, (v.data.drop (m.first + c * 2 ^ 26)).take len)] = (true, s1)) :
    ∃ t, t.well = (setMove s1 { m with moved := m.moved ++ [c] }).well ∧ moveChunk s x k q idx c false =
      if m.moved.length + 1 < chunkCount m then t else finishDesc (dropMove t q idx) q idx stOk m.ver := by
  obtain ⟨counted, hcounted, hmove⟩ := moveChunk_get hready hva hlen hget hver false
  refine ⟨counted (setMove s1 { m with moved := m.moved ++ [c] }) 1, hcounted _ _, hmove.trans ?_⟩
  rw [wellUe_ok harmed, hwrites]
  exact (if_neg Bool.false_ne_true).trans (getChunk_written q idx c m counted s1)

end

/-! ### The statement -/

/-- Settles O43: a tile of a window item; a chunk of a WPUT by the answer of its read; a chunk of a WGET; a chunk while a
window item is to be served. -/
theorem windlassEnginesMoveTilesAndChunks : Obligations.WindlassEnginesMoveTilesAndChunks := by
  unfold Obligations.WindlassEnginesMoveTilesAndChunks
  refine ⟨?_, ?_, ?_⟩
  · intro x k n ord s it j st v pin cid c hserves hit hj hst hkind howner herr hwaits hheld hasked hunwritten hpin hver hout hc
    have hready : TileReady s x k n ord it := ⟨hkind, howner, herr, hwaits, hheld, hasked, hunwritten⟩
    obtain ⟨-, -, hx, -⟩ := id hserves
    have hexec := exec_wdlChunkDone_tile hserves n ord
    refine ⟨fun harmed s1 => ⟨fun hwrites => ⟨_, hexec false, ?_⟩, fun hwrites => ?_⟩, _, hexec true, ?_⟩
    · obtain ⟨hquiet, hmem⟩ := moveWindow_moves hit hj hst hready hpin hver hout hc harmed hwrites rfl
      exact tile_moved hquiet hmem
    · rw [hexec false, moveWindow_faults hit hj hst hready hpin hver hout hc harmed hwrites rfl]
    · exact moveWindow_unreadable hit hj hst hready hpin hver hout hc hx
  · intro x k q idx c s m d hserves haccepts hm hd hexists hunmoved hidle r hwaits hheld len va ans after
    have hready : ChunkReady s x k q idx c m d := ⟨hm, hd, hexists, hunmoved, hidle, hwaits, hheld⟩
    obtain ⟨-, -, hx, -⟩ := id hserves
    have hexec (ue : Bool) : ans ue = .next (moveChunk s x k q idx c ue) :=
      (exec_wdlChunkDone_chunk hserves q idx c ue).trans (congrArg _ (if_pos haccepts))
    refine ⟨fun hput s1 => ?_, fun hget v hver => ⟨fun harmed s1 hwrites => ?_, ?_⟩⟩
    · obtain ⟨counted, hcounted, hmove⟩ := moveChunk_put hready (va := va) (len := len) rfl rfl hput false
      refine ⟨fun bs hread => ?_, fun bs hread => ?_, fun hread => ?_⟩
      · rw [hread] at hmove
        exact ⟨_, (hexec false).trans (congrArg _ hmove), hcounted _ 2⟩
      · rw [hread] at hmove
        exact (hexec false).trans (congrArg _ hmove)
      · rw [hread] at hmove
        exact (hexec false).trans (congrArg _ hmove)
    · obtain ⟨t, hwell, hmove⟩ := moveChunk_get_moves hready rfl rfl hget hver harmed hwrites
      refine ⟨fun hmore => ⟨t, by rw [hexec, hmove, if_pos hmore], hwell⟩, fun hlast => ⟨_, ?_, moveOf_dropMove t q idx, ?_⟩⟩
      · rw [hexec, hmove, if_neg (by omega)]
      · exact (congrArg WellSt.vers hwell :)
    · obtain ⟨u, hu, hnone, hvers, hbit⟩ := moveChunk_get_unreadable hready rfl rfl hget hver hx
      exact ⟨u, by rw [hexec, hu], hnone, hvers, hbit⟩
  · intro x k q idx c n it ue s hserves hin herr hwork
    rw [exec_wdlChunkDone_chunk hserves, moveChunk_busy q idx c ue hin herr hwork, ite_self]

end Sys2Proof.Proofs
end

section
/-! Hold-up of the well (spec/09_memory_tiers.md R264): a measurement below 9.0 J ends the commands that have not committed,
by the queue and index of each. -/

namespace Sys2Proof.Proofs

open Sys2Proof.Laws Sys2Proof.Machine

theorem exec_holdupMeasure_low {s : State} {energy : Nat} (hlive : live s = true) (hwell : hasWell s = true)
    (h0 : armedAt s (pgWel 0) 8 = false) (h1 : armedAt s (pgWel 1) 8 = false) (hlow : energy < 900) :
    exec (.holdupMeasure energy) s =
      .next (holdupLow (raiseWell { s with well := { s.well with energy := energy } } 8 false)) := by
  have hsmall : min energy 0xFFFF = energy := by omega
  show execHoldupMeasure energy s = _
  simp [execHoldupMeasure, whenLive, hlive, hwell, h0, h1, hsmall, Nat.not_le.mpr hlow]

/-! ### A table that lists a queue number twice -/

/-- A started command with index 3 and an opcode. -/
def startedDesc (opc : Byte) : Desc := ⟨3, [opc, 3] ++ List.replicate 62 0, 0, .started, 0, 0, []⟩

/-- The module after reset, but for this: the queue table lists queue 5 twice, first with a started WGET, then with a started
WPUT of the same index. -/
def queueTwice : State :=
  { State.reset with queues := [(5, { QueueSt.idle with fetch := 4, pidx := 4, inflight := [startedDesc 0x11] }),
                                (5, { QueueSt.idle with fetch := 4, pidx := 4, inflight := [startedDesc 0x10] })] }

/-- The WPUT of the second entry ends, and the WGET of the first, which has its number, goes with it. -/
theorem descAt_holdupLow_queueTwice :
    descAt (holdupLow (raiseWell { queueTwice with well := { queueTwice.well with energy := 0 } } 8 false)) 5 3 = none := by
  decide +kernel

/-- Refutes O44: a low measurement ends commands by queue and index; where the queue table lists a number twice, ending the
WPUT of the second entry removes the WGET of the first. A table in canonical form lists no number twice (Safety.lean), but
the statement speaks of every live state. -/
theorem not_holdupRecoveryAndPackagesSetTheWellsState : ¬ Obligations.HoldupRecoveryAndPackagesSetTheWellsState := by
  unfold Obligations.HoldupRecoveryAndPackagesSetTheWellsState
  intro h
  obtain ⟨hmeasure, -⟩ := h
  obtain ⟨-, hlow⟩ := hmeasure 0 queueTwice (by decide) (by decide) (by decide) (by decide)
  obtain ⟨t, hexec, -, -, -, -, -, -, hcommands⟩ := hlow (by decide)
  have ht := Host.Outcome.next.inj ((exec_holdupMeasure_low (s := queueTwice) (energy := 0) (by decide) (by decide) (by decide)
    (by decide) (by decide)).symm.trans hexec)
  obtain ⟨-, hstays⟩ := hcommands 5 (startedDesc 0x11) (by decide) rfl
  have hnone : descAt t 5 3 = none := ht ▸ descAt_holdupLow_queueTwice
  exact Option.some_ne_none _ ((hstays (by decide) (by decide)).symm.trans hnone)

end Sys2Proof.Proofs
end

section
/-! Masked writes of near memory and their channels (spec/09_memory_tiers.md R239, R240, R241): the bytes that a write sets,
and the entry of the write-combining buffer that it drops, merges into or takes. -/

namespace Sys2Proof.Proofs

open Sys2Proof.Laws Sys2Proof.Machine

/-! ### Masks -/

theorem nbit_half (n x : Nat) : nbit n (x / 2) = nbit (n + 1) x := by
  rw [nbit, nbit, Nat.div_div_eq_div_mul, pow_succ']

theorem nbit_eq_testBit (n x : Nat) : nbit n x = x.testBit n := by
  rw [Nat.testBit_eq_decide_div_mod_eq, nbit]
  rfl

theorem nbit_mod_two_pow (n w x : Nat) : nbit n (x % 2 ^ w) = (decide (n < w) && nbit n x) := by
  rw [nbit_eq_testBit, nbit_eq_testBit, Nat.testBit_mod_two_pow]

/-- A masked write sets the bytes at the mask's bits that it has data for. -/
theorem get_memPutMask (data : List Byte) (m : SMap Byte) (base mask x : Nat) :
    SMap.get memDflt (memPutMask m base mask data) x =
      if base ≤ x ∧ x < base + data.length ∧ nbit (x - base) mask then data.getD (x - base) 0 else SMap.get memDflt m x := by
  induction data generalizing m base mask with
  | nil => exact (if_neg fun h => absurd h.2.1 (Nat.not_lt.mpr h.1)).symm
  | cons b data ih =>
    rw [memPutMask, ih]
    rcases Nat.lt_trichotomy x base with hlt | rfl | hgt
    · have hout (n : Nat) (p : Prop) : ¬(base ≤ x ∧ x < n ∧ p) := by omega
      rw [if_neg (by omega), if_neg (hout _ _)]
      split
      · exact get_put_other _ _ _ _ _ (by omega)
      · rfl
    · have hbit : nbit 0 mask = (mask % 2 == 1) := by rw [nbit, pow_zero, Nat.div_one]
      rw [if_neg (by omega)]
      by_cases hodd : mask % 2 = 1 <;> simp [hodd, hbit]
    · obtain ⟨k, rfl⟩ := Nat.exists_eq_add_of_lt hgt
      have hpred : base + k + 1 - (base + 1) = k := by omega
      have hsub : base + k + 1 - base = k + 1 := by omega
      rw [hpred, hsub, nbit_half, List.getD_cons_succ, List.length_cons]
      refine if_congr ?_ rfl ?_
      · constructor
        · rintro ⟨-, hx, hbit⟩
          exact ⟨by omega, by omega, hbit⟩
        · rintro ⟨-, hx, hbit⟩
          exact ⟨by omega, by omega, hbit⟩
      · split
        · exact get_put_other _ _ _ _ _ (by omega)
        · rfl

/-- Memory after a masked write of a line. -/
def lineStored (s : State) (addr mask : Nat) (data : List Byte) : State :=
  { s with mem := memPutMask s.mem (addr / 128 * 128) (mask % 2 ^ 128) data }

/-- Of a line's bytes, those of the mask that have data are written, and no other byte of memory changes. -/
def LineWritten (s : State) (addr mask : Nat) (data : List Byte) (t : State) : Prop :=
  (∀ k, k < 128 → t.byte (addr / 128 * 128 + k) =
    if nbit k mask ∧ k < data.length then data.getD k 0 else s.byte (addr / 128 * 128 + k)) ∧
  ∀ a, a < addr / 128 * 128 ∨ addr / 128 * 128 + 128 ≤ a → t.byte a = s.byte a

theorem lineWritten_of_mem {s t : State} {addr mask : Nat} {data : List Byte}
    (hmem : t.mem = (lineStored s addr mask data).mem) : LineWritten s addr mask data t := by
  have hbyte (a : Nat) := get_memPutMask data s.mem (addr / 128 * 128) (mask % 2 ^ 128) a
  constructor
  · intro k hk
    have hdata (n : Nat) : n + k < n + data.length ↔ k < data.length := Nat.add_lt_add_iff_left
    rw [State.byte, hmem]
    refine (hbyte _).trans (if_congr ?_ ?_ rfl)
    · rw [Nat.add_sub_cancel_left, nbit_mod_two_pow, decide_eq_true hk, Bool.true_and, hdata]
      exact ⟨fun ⟨_, hlen, hbit⟩ => ⟨hbit, hlen⟩, fun ⟨hbit, hlen⟩ => ⟨Nat.le_add_right _ _, hlen, hbit⟩⟩
    · rw [Nat.add_sub_cancel_left]
  · intro a ha
    rw [State.byte, hmem]
    refine (hbyte a).trans (if_neg fun ⟨hlo, _, hbit⟩ => ?_)
    rw [nbit_mod_two_pow, decide_eq_false (by omega), Bool.false_and] at hbit
    exact Bool.false_ne_true hbit
/-! ### Reads of a package without an injected error -/

theorem armedNmc_unarmed {s : State} {page : Nat} (h8 : armedAt s page 8 = false) (h9 : armedAt s page 9 = false)
    (e : LineErr) : armedNmc s page e = (e, false, s) := by
  simp [armedNmc, h8, h9]

section
variable {s : State} {d ch : Nat} (h8 : armedAt s (pgNmc d ch) 8 = false) (h9 : armedAt s (pgNmc d ch) 9 = false)
include h8 h9

theorem armedNmc_counted (e : LineErr) :
    armedNmc (countEv s (pgNmc d ch) 1 1) (pgNmc d ch) e = (e, false, countEv s (pgNmc d ch) 1 1) :=
  armedNmc_unarmed (by rw [armedAt, countEv_elog]; exact h8) (by rw [armedAt, countEv_elog]; exact h9) e

theorem packageRead_none (line : Nat) : packageRead s d ch line .none = countEv s (pgNmc d ch) 1 1 := by
  unfold packageRead
  dsimp only
  rw [armedNmc_counted h8 h9]

end

theorem packageRead_uncounted {s : State} {d ch : Nat} (hs : EvQuiet s) (h8 : armedAt s (pgNmc d ch) 8 = false)
    (h9 : armedAt s (pgNmc d ch) 9 = false) (line : Nat) : uncounted (packageRead s d ch line .none) = uncounted s := by
  rw [packageRead_none h8 h9, countEv_uncounted hs]

theorem countTwice_uncounted {s : State} (hs : EvQuiet s) (p a b n k : Nat) :
    uncounted (countEv (countEv s p a n) p b k) = uncounted s :=
  (countEv_uncounted (countEv_evQuiet hs p a n) p b k).trans (countEv_uncounted hs p a n)

/-! ### A write at its channel -/

theorem exec_nmcWrite {s : State} {addr : Nat} (hlive : live s = true) (hnear : isNear s addr = true)
    (hcached : scFind s addr = none) (mask : Nat) (data : List Byte) :
    exec (.nmcWrite addr mask data) s = .next (channelWrite (lineStored s addr mask data) addr mask) := by
  show execNmcWrite addr mask data s = _
  rw [execNmcWrite, whenLive, if_pos hlive, if_pos (by rw [hnear, hcached]; rfl)]
  rfl

theorem fullMask_ne_zero : fullMask ≠ 0 := by decide

/-- The write-combining entries of the channel of an address. -/
def entriesAt (s : State) (a : Nat) : List (Nat × Nat) := (s.nmc (homeDie s a) (nmcOf a)).wc

/-- A channel's write leaves memory, and the entries of its channel are as given. -/
def Combined (s t : State) (a : Nat) (wc : List (Nat × Nat)) : Prop :=
  t.mem = s.mem ∧ (t.nmc (homeDie s a) (nmcOf a)).wc = wc

theorem combined_setNmc (s : State) (a : Nat) (v : NmcSt) : Combined s (s.setNmc (homeDie s a) (nmcOf a) v) a v.wc :=
  ⟨rfl, by rw [setNmc_nmc, if_pos rfl]⟩

theorem Combined.counted {s t : State} {a : Nat} {wc : List (Nat × Nat)} (h : Combined s t a wc) (ht : EvQuiet t)
    (p src n : Nat) : Combined s (countEv t p src n) a wc :=
  ⟨(countEv_mem ht p src n).trans h.1, by rw [countEv_nmc]; exact h.2⟩

theorem Combined.setPoison {s t : State} {a : Nat} {wc : List (Nat × Nat)} (h : Combined s t a wc) (x : Nat) (b : Bool) :
    Combined s (t.setPoison x b) a wc := h

section
variable {s : State} {a mask : Nat}

theorem channelWrite_whole (hs : EvQuiet s) (hfull : mask % 2 ^ 128 = fullMask) : (channelWrite s a mask).poisoned a = false ∧
    Combined s (channelWrite s a mask) a ((entriesAt s a).filter (fun p => p.1 != a / 128)) := by
  unfold channelWrite
  rw [if_neg (hfull ▸ fullMask_ne_zero), if_pos hfull]
  refine ⟨?_, ((combined_setNmc s a _).setPoison a false).counted hs _ _ _⟩
  rw [countEv_poisoned, setPoison_poisoned, if_pos rfl]

variable (hsome : mask % 2 ^ 128 ≠ 0) (hpart : mask % 2 ^ 128 ≠ fullMask)
include hsome hpart

theorem channelWrite_passes (hs : EvQuiet s) (hoff : wcen s (homeDie s a) (nmcOf a) = false)
    (h8 : armedAt s (pgNmc (homeDie s a) (nmcOf a)) 8 = false) (h9 : armedAt s (pgNmc (homeDie s a) (nmcOf a)) 9 = false) :
    uncounted (channelWrite s a mask) = uncounted s := by
  unfold channelWrite
  rw [if_neg hsome, if_neg hpart, if_pos (by rw [hoff]; rfl)]
  have hread := packageRead_uncounted hs h8 h9 (a / 128)
  exact (countTwice_uncounted (evQuiet_of_uncounted hread hs) _ _ _ _ _).trans hread

variable (hon : wcen s (homeDie s a) (nmcOf a) = true)
include hon

theorem channelWrite_merges (hs : EvQuiet s) {old : Nat}
    (hfind : (entriesAt s a).find? (fun p => p.1 == a / 128) = some (a / 128, old)) (hmerged : old ||| mask % 2 ^ 128 ≠ fullMask) : Combined s (channelWrite s a mask) a
      (updFirst (fun p => p.1 == a / 128) (fun p => (p.1, old ||| mask % 2 ^ 128)) (entriesAt s a)) := by
  unfold channelWrite
  rw [if_neg hsome, if_neg hpart, if_neg (by rw [hon]; decide)]
  rw [entriesAt] at hfind
  rw [hfind]
  dsimp only
  rw [if_neg hmerged]
  exact (combined_setNmc s a _).counted hs _ _ _

theorem channelWrite_takes (hfind : (entriesAt s a).find? (fun p => p.1 == a / 128) = none)
    (hroom : (entriesAt s a).length < 64) :
    Combined s (channelWrite s a mask) a (entriesAt s a ++ [(a / 128, mask % 2 ^ 128)]) := by
  unfold channelWrite
  rw [if_neg hsome, if_neg hpart, if_neg (by rw [hon]; decide)]
  rw [entriesAt] at hfind hroom
  rw [hfind]
  dsimp only
  split
  · rw [if_neg (Nat.not_le.mpr hroom)]
    exact combined_setNmc s a _
  · exact combined_setNmc s a _

end

/-! ### A write of near memory -/

section
variable {s : State} {addr : Nat} (hlive : live s = true) (hs : EvQuiet s) (hnear : isNear s addr = true)
  (hcached : scFind s addr = none) {mask : Nat} (data : List Byte)
include hlive hs hnear hcached

theorem nearWrite_whole (hfull : mask % 2 ^ 128 = fullMask) :
    ∃ t, exec (.nmcWrite addr mask data) s = .next t ∧ LineWritten s addr mask data t ∧ t.poisoned addr = false ∧
      (t.nmc (homeDie s addr) (nmcOf addr)).wc = (entriesAt s addr).filter (fun p => p.1 != addr / 128) := by
  obtain ⟨hclear, hmem, hwc⟩ := channelWrite_whole (s := lineStored s addr mask data) (a := addr) hs hfull
  exact ⟨_, exec_nmcWrite hlive hnear hcached mask data, lineWritten_of_mem hmem, hclear, hwc⟩

variable (hsome : mask % 2 ^ 128 ≠ 0) (hpart : mask % 2 ^ 128 ≠ fullMask)
include hsome hpart

theorem nearWrite_merges (hon : wcen s (homeDie s addr) (nmcOf addr) = true) {old : Nat}
    (hfind : (entriesAt s addr).find? (fun p => p.1 == addr / 128) = some (addr / 128, old))
    (hmerged : old ||| mask % 2 ^ 128 ≠ fullMask) :
    ∃ t, exec (.nmcWrite addr mask data) s = .next t ∧ LineWritten s addr mask data t ∧
      (t.nmc (homeDie s addr) (nmcOf addr)).wc =
        updFirst (fun p => p.1 == addr / 128) (fun p => (p.1, old ||| mask % 2 ^ 128)) (entriesAt s addr) := by
  obtain ⟨hmem, hwc⟩ := channelWrite_merges (s := lineStored s addr mask data) (a := addr) hsome hpart hon hs hfind hmerged
  exact ⟨_, exec_nmcWrite hlive hnear hcached mask data, lineWritten_of_mem hmem, hwc⟩

omit hs in
theorem nearWrite_takes (hon : wcen s (homeDie s addr) (nmcOf addr) = true)
    (hfind : (entriesAt s addr).find? (fun p => p.1 == addr / 128) = none) (hroom : (entriesAt s addr).length < 64) :
    ∃ t, exec (.nmcWrite addr mask data) s = .next t ∧ LineWritten s addr mask data t ∧
      (t.nmc (homeDie s addr) (nmcOf addr)).wc = entriesAt s addr ++ [(addr / 128, mask % 2 ^ 128)] := by
  obtain ⟨hmem, hwc⟩ := channelWrite_takes (s := lineStored s addr mask data) (a := addr) hsome hpart hon hfind hroom
  exact ⟨_, exec_nmcWrite hlive hnear hcached mask data, lineWritten_of_mem hmem, hwc⟩

theorem nearWrite_passes (hoff : wcen s (homeDie s addr) (nmcOf addr) = false)
    (h8 : armedAt s (pgNmc (homeDie s addr) (nmcOf addr)) 8 = false)
    (h9 : armedAt s (pgNmc (homeDie s addr) (nmcOf addr)) 9 = false) :
    ∃ t, exec (.nmcWrite addr mask data) s = .next t ∧ LineWritten s addr mask data t ∧ t.nmcs = s.nmcs := by
  have hpass := channelWrite_passes (s := lineStored s addr mask data) (a := addr) hsome hpart hs hoff h8 h9
  exact ⟨_, exec_nmcWrite hlive hnear hcached mask data, lineWritten_of_mem (congrArg State.mem hpass :),
    (congrArg State.nmcs hpass :)⟩

end

end Sys2Proof.Proofs
end

section
/-! Reads of near memory, and what else a near-memory channel does (spec/09_memory_tiers.md R238, R240, R241;
spec/18_power_and_thermal.md R495): a line shown, a correctable and an uncorrectable error, the oldest entry, patrol scrub
and heat. -/

namespace Sys2Proof.Proofs

open Sys2Proof.Laws Sys2Proof.Machine

/-! ### Pages of channels -/

theorem blockAt_pgNmc {d ch : Nat} (hd : d < 2) (hch : ch < 16) : blockAt (pgNmc d ch) = some (.nmc, ch) := by
  have hall : ∀ (e : Fin 2) (k : Fin 16), blockAt (pgNmc e k) = some (.nmc, k.val) := by decide
  exact hall ⟨d, hd⟩ ⟨ch, hch⟩

theorem homeDie_lt (s : State) (a : Nat) : homeDie s a < 2 := by
  unfold homeDie abit
  split_ifs <;> omega

theorem nmcOf_lt (a : Nat) : nmcOf a < 16 := by
  have hfield (hi lo : Nat) (h : hi - lo + 1 ≤ 4) : nfld hi lo a < 2 ^ 4 :=
    (Nat.mod_lt _ (Nat.two_pow_pos _)).trans_le (Nat.pow_le_pow_right (by decide) h)
  exact List.foldlRecOn (motive := fun x => x < 2 ^ 4) _ _ (hfield 40 38 (by decide))
    fun x hx i _ => Nat.xor_lt_two_pow hx (hfield _ _ (by omega))

theorem blockAt_channel (s : State) (a : Nat) : blockAt (pgNmc (homeDie s a) (nmcOf a)) = some (.nmc, nmcOf a) :=
  blockAt_pgNmc (homeDie_lt s a) (nmcOf_lt a)

/-! ### Where an address lies -/

theorem isNear_iff (s : State) (a : Nat) : isNear s a = true ↔ a < 2 ^ 41 * s.fuses.variant.cdies := by
  rw [isNear, decide_eq_true_eq, placeOf]
  by_cases h : a < 2 ^ 41 * s.fuses.variant.cdies
  · exact ⟨fun _ => h, fun _ => if_pos h⟩
  · rw [if_neg h]
    refine ⟨fun hnear => ?_, fun hlt => absurd hlt h⟩
    split_ifs at hnear
    split at hnear <;> cases hnear

theorem deliverPoison_near {s : State} {a : Nat} (h : isNear s a = true) :
    deliverPoison s a = raiseInfo s (pgNmc (homeDie s a) (nmcOf a)) 10 (a / 128 * 128) := by
  have hplace : placeOf s a = .near := of_decide_eq_true h
  rw [deliverPoison, hplace]

/-! ### A read of a package that finds an error -/

section
variable {s : State} {d ch : Nat} (hd : d < 2) (hch : ch < 16)
  (h8 : armedAt s (pgNmc d ch) 8 = false) (h9 : armedAt s (pgNmc d ch) 9 = false) (line : Nat)
include hd hch h8 h9

/-- A correctable error is counted with its line, and sets CE. -/
theorem packageRead_ce : let t := packageRead s d ch line .ce
    t.err (pgNmc d ch) = setBit 8 (s.err (pgNmc d ch)) true ∧ t.poison = s.poison ∧
      t.reg (regAddr (pgNmc d ch) 0x110) = satFld 31 0 (s.reg (regAddr (pgNmc d ch) 0x110)) 1 ∧
      t.reg (regAddr (pgNmc d ch) 0x118) = BitVec.ofNat 64 (line * 128) := by
  unfold packageRead
  dsimp only
  rw [armedNmc_counted h8 h9]
  dsimp only
  refine ⟨?_, ?_, ?_, ?_⟩
  · rw [raiseWith_err _ _ _ _ _ _ _ (blockAt_pgNmc hd hch), if_pos rfl]
    simp
  · simp
  · simp [regAddr_inj]
  · simp

end

/-- An uncorrectable error is counted with its line, which is poisoned. -/
def ueKept (s : State) (page line : Nat) : State :=
  ((s.setReg (regAddr page 0x110) (satFld 47 32 (s.reg (regAddr page 0x110)) 1)).setReg (regAddr page 0x118)
    (BitVec.ofNat 64 (line * 128 + 1))).setPoison (line * 128) true

theorem ueKept_err (s : State) (page line i : Nat) : (ueKept s page line).err i = s.err i := by
  rw [ueKept, setPoison_err, setReg_err, setReg_err]

theorem ueKept_poisoned (s : State) (page line : Nat) : (ueKept s page line).poisoned (line * 128) = true := by
  rw [ueKept, setPoison_poisoned, if_pos rfl]

section
variable {s : State} {d ch : Nat} (h8 : armedAt s (pgNmc d ch) 8 = false) (h9 : armedAt s (pgNmc d ch) 9 = false)
include h8 h9

theorem packageRead_ue (line : Nat) : packageRead s d ch line .ue =
    raiseWith (ueKept (countEv s (pgNmc d ch) 1 1) (pgNmc d ch) line) (pgNmc d ch) 9 ⟨none, line * 128, none, false⟩ := by
  unfold packageRead
  dsimp only
  rw [armedNmc_counted h8 h9]
  rfl

theorem packageRead_ue_err (hd : d < 2) (hch : ch < 16) (line : Nat) :
    (packageRead s d ch line .ue).err (pgNmc d ch) = setBit 9 (s.err (pgNmc d ch)) true := by
  rw [packageRead_ue h8 h9, raiseWith_err _ _ _ _ _ _ _ (blockAt_pgNmc hd hch), if_pos rfl, ueKept_err, countEv_err]

theorem packageRead_ue_poisoned (line : Nat) : (packageRead s d ch line .ue).poisoned (line * 128) = true := by
  rw [packageRead_ue h8 h9, raiseWith_poisoned, ueKept_poisoned]

end

/-! ### A line shown -/

/-- A line is shown to a requester. -/
def showLine (s : State) (addr : Nat) (poison : Bool) : State :=
  { s with outs := .line (addr / 128 * 128) (s.bytes (addr / 128 * 128) 128) poison :: s.outs }

theorem showLine_outs (s : State) (addr : Nat) (poison : Bool) : (showLine s addr poison).outs.head? =
    some (.line (addr / 128 * 128) ((showLine s addr poison).bytes (addr / 128 * 128) 128) poison) :=
  congrArg (fun bs => some (Shown.line _ bs poison)) (bytes_congr rfl _ _).symm

/-- A line that was read is shown, and its poison delivered. -/
def lineShown (s : State) (addr : Nat) : State :=
  showLine (if s.poisoned addr then deliverPoison s addr else s) addr (s.poisoned addr)

theorem exec_nmcRead {s : State} {addr : Nat} (hlive : live s = true) (hnear : isNear s addr = true) (e : LineErr) :
    exec (.nmcRead addr e) s = .next (lineShown (packageRead s (homeDie s addr) (nmcOf addr) (addr / 128) e) addr) := by
  show execNmcRead addr e s = _
  rw [execNmcRead, whenLive, if_pos hlive, if_pos hnear]
  rfl

theorem lineShown_clean {s : State} {addr : Nat} (hclean : s.poisoned addr = false) :
    lineShown s addr = showLine s addr false := by
  rw [lineShown, hclean, if_neg Bool.false_ne_true]

/-- A poisoned line sets POISON. -/
theorem lineShown_poisoned {s : State} {addr : Nat} (hpoison : s.poisoned addr = true) (hnear : isNear s addr = true) :
    lineShown s addr = showLine (raiseInfo s (pgNmc (homeDie s addr) (nmcOf addr)) 10 (addr / 128 * 128)) addr true := by
  rw [lineShown, hpoison, if_pos rfl, deliverPoison_near hnear]

end Sys2Proof.Proofs
end

section
/-! What the near-memory channels and the far-memory ports do (spec/09_memory_tiers.md R238 to R241, R246, R248, R249;
spec/18_power_and_thermal.md R495). -/

namespace Sys2Proof.Proofs

open Sys2Proof.Laws Sys2Proof.Machine

/-! ### Reads -/

theorem poisoned_line (s : State) (a : Nat) : s.poisoned (a / 128 * 128) = s.poisoned a := by
  rw [State.poisoned, State.poisoned, Nat.mul_div_cancel _ (by decide)]

section
variable {s : State} {addr : Nat} (hlive : live s = true) (hnear : isNear s addr = true)
  (h8 : armedAt s (pgNmc (homeDie s addr) (nmcOf addr)) 8 = false)
  (h9 : armedAt s (pgNmc (homeDie s addr) (nmcOf addr)) 9 = false)
include hlive hnear h8 h9

theorem nearRead_none (hs : EvQuiet s) (hclean : s.poisoned addr = false) : ∃ t, exec (.nmcRead addr .none) s = .next t ∧
    t.outs = .line (addr / 128 * 128) (s.bytes (addr / 128 * 128) 128) false :: s.outs ∧ t.mem = s.mem ∧
    t.regs = s.regs ∧ t.poison = s.poison ∧ t.errs = s.errs := by
  have hread := packageRead_uncounted hs h8 h9 (addr / 128)
  have hexec := exec_nmcRead hlive hnear .none
  generalize packageRead s (homeDie s addr) (nmcOf addr) (addr / 128) .none = u at hread hexec
  have hmem : u.mem = s.mem := (congrArg State.mem hread :)
  have houts : u.outs = s.outs := (congrArg State.outs hread :)
  have hu : u.poisoned addr = false := (congrArg (fun t => State.poisoned t addr) hread :).trans hclean
  refine ⟨showLine u addr false, hexec.trans (congrArg _ (lineShown_clean hu)), ?_, hmem, (congrArg State.regs hread :),
    (congrArg State.poison hread :), (congrArg State.errs hread :)⟩
  rw [showLine, bytes_congr hmem, houts]

theorem nearRead_ce (hclean : s.poisoned addr = false) :
    let page := pgNmc (homeDie s addr) (nmcOf addr)
    ∃ t, exec (.nmcRead addr .ce) s = .next t ∧
      t.outs.head? = some (.line (addr / 128 * 128) (t.bytes (addr / 128 * 128) 128) false) ∧
      t.err page = setBit 8 (s.err page) true ∧ t.poison = s.poison ∧
      t.reg (regAddr page 0x110) = satFld 31 0 (s.reg (regAddr page 0x110)) 1 ∧
      t.reg (regAddr page 0x118) = BitVec.ofNat 64 (addr / 128 * 128) := by
  intro page
  obtain ⟨herr, hpoison, hcount, hlast⟩ := packageRead_ce (homeDie_lt s addr) (nmcOf_lt addr) h8 h9 (addr / 128)
  have hexec := exec_nmcRead hlive hnear .ce
  generalize packageRead s (homeDie s addr) (nmcOf addr) (addr / 128) .ce = u at *
  have hu : u.poisoned addr = false := by rw [State.poisoned, hpoison]; exact hclean
  exact ⟨showLine u addr false, hexec.trans (congrArg _ (lineShown_clean hu)), showLine_outs u addr false, herr, hpoison,
    hcount, hlast⟩

theorem nearRead_ue : let page := pgNmc (homeDie s addr) (nmcOf addr)
    ∃ t, exec (.nmcRead addr .ue) s = .next t ∧
      t.outs.head? = some (.line (addr / 128 * 128) (t.bytes (addr / 128 * 128) 128) true) ∧
      t.err page = setBit 10 (setBit 9 (s.err page) true) true ∧ t.poisoned addr = true := by
  intro page
  have herr := packageRead_ue_err h8 h9 (homeDie_lt s addr) (nmcOf_lt addr) (addr / 128)
  have hpoison := packageRead_ue_poisoned h8 h9 (addr / 128)
  have hfuses : (packageRead s (homeDie s addr) (nmcOf addr) (addr / 128) .ue).fuses = s.fuses :=
    (congrArg State.fuses (packageRead_atHome s _ _ _ _) :)
  have hexec := exec_nmcRead hlive hnear .ue
  generalize packageRead s (homeDie s addr) (nmcOf addr) (addr / 128) .ue = u at *
  rw [poisoned_line] at hpoison
  have hu : isNear u addr = true := by rwa [isNear_iff, hfuses, ← isNear_iff]
  have hdie : homeDie u addr = homeDie s addr := by rw [homeDie, homeDie, hfuses]
  have hshown := lineShown_poisoned hpoison hu
  rw [hdie] at hshown
  have hblock := blockAt_channel s addr
  have hdelivered : (raiseInfo u page 10 (addr / 128 * 128)).err page = setBit 10 (setBit 9 (s.err page) true) true := by
    rw [raiseInfo_err _ _ _ _ _ _ _ hblock, if_pos rfl, herr]
  have hstill : (raiseInfo u page 10 (addr / 128 * 128)).poisoned addr = true := by rw [raiseInfo_poisoned, hpoison]
  exact ⟨_, hexec.trans (congrArg _ hshown), showLine_outs _ addr true, hdelivered, hstill⟩

end

/-! ### What else a channel does -/

section
variable {s : State} {d ch : Nat} (hlive : live s = true) (hdie : hasCdie s d = true)
include hlive hdie

theorem oldestEntry_written (hs : EvQuiet s) (h8 : armedAt s (pgNmc d ch) 8 = false) (h9 : armedAt s (pgNmc d ch) 9 = false)
    {l m : Nat} {rest : List (Nat × Nat)} (hwc : (s.nmc d ch).wc = (l, m) :: rest) :
    ∃ t, exec (.wcAgeTimeout d ch) s = .next t ∧ (t.nmc d ch).wc = (s.nmc d ch).wc.filter (fun p => p.1 != l) ∧
      t.mem = s.mem ∧ t.poison = s.poison := by
  have hexec : exec (.wcAgeTimeout d ch) s = .next (wcWriteOut s d ch l m) := by
    show execWcAgeTimeout d ch s = _
    rw [execWcAgeTimeout, whenLive, if_pos hlive, if_pos hdie, hwc]
  let dropped := s.setNmc d ch { s.nmc d ch with wc := (s.nmc d ch).wc.filter (fun p => p.1 != l) }
  have hwritten : uncounted (wcWriteOut s d ch l m) = uncounted dropped := by
    unfold wcWriteOut
    refine ite_leaves (countTwice_uncounted (s := dropped) hs _ _ _ _ _) ?_
    have hread := packageRead_uncounted (s := dropped) hs h8 h9 l
    exact (countTwice_uncounted (evQuiet_of_uncounted hread hs) _ _ _ _ _).trans hread
  have hnmc : (wcWriteOut s d ch l m).nmc d ch = dropped.nmc d ch := (congrArg (fun t => State.nmc t d ch) hwritten :)
  refine ⟨_, hexec, ?_, (congrArg State.mem hwritten :), (congrArg State.poison hwritten :)⟩
  rw [hnmc, setNmc_nmc, if_pos rfl]

variable (hch : ch < 16)
include hch

theorem patrolScrub_moves (hs : EvQuiet s) (h8 : armedAt s (pgNmc d ch) 8 = false)
    (h9 : armedAt s (pgNmc d ch) 9 = false) :
    ∃ t, exec (.patrolScrub d ch .none) s = .next t ∧ t.outs = s.outs ∧ t.mem = s.mem ∧ t.errs = s.errs ∧
      t.nmc d ch = { s.nmc d ch with scrub := ((s.nmc d ch).scrub + 1) % 2 ^ 30 } := by
  let next := s.setNmc d ch { s.nmc d ch with scrub := ((s.nmc d ch).scrub + 1) % 2 ^ 30 }
  have hexec : exec (.patrolScrub d ch .none) s =
      .next (packageRead next d ch (packageLine d ch (s.nmc d ch).scrub / 128) .none) := by
    show execPatrolScrub d ch .none s = _
    rw [execPatrolScrub, whenLive, if_pos hlive, if_pos (by simp [hdie, hch])]
  have hread := packageRead_uncounted (s := next) hs h8 h9 (packageLine d ch (s.nmc d ch).scrub / 128)
  generalize packageRead next d ch (packageLine d ch (s.nmc d ch).scrub / 128) .none = t at hexec hread
  have hnmc : t.nmc d ch = next.nmc d ch := (congrArg (fun t => State.nmc t d ch) hread :)
  refine ⟨t, hexec, (congrArg State.outs hread :), (congrArg State.mem hread :), (congrArg State.errs hread :), ?_⟩
  rw [hnmc, setNmc_nmc, if_pos rfl]

theorem lpddrOvertemp_limits (temp : Nat) (hot : Bool) : ∃ t, exec (.lpddrOvertemp d ch temp hot) s = .next t ∧
    t.nmc d ch = { s.nmc d ch with limited := decide (95 < temp) || ((s.nmc d ch).limited && decide (90 ≤ temp)) } ∧
    t.reg (regAddr (pgNmc d ch) 0x100) = setBit 1 (s.reg (regAddr (pgNmc d ch) 0x100)) hot ∧
    ∀ a, a ≠ regAddr (pgNmc d ch) 0x100 → t.reg a = s.reg a := by
  let told := s.setNmc d ch { s.nmc d ch with limited := decide (95 < temp) || ((s.nmc d ch).limited && decide (90 ≤ temp)) }
  have hexec : exec (.lpddrOvertemp d ch temp hot) s =
      .next (told.setReg (regAddr (pgNmc d ch) 0x100) (setBit 1 (told.reg (regAddr (pgNmc d ch) 0x100)) hot)) := by
    show execLpddrOvertemp d ch temp hot s = _
    rw [execLpddrOvertemp, whenLive, if_pos hlive, if_pos (by simp [hdie, hch])]
  refine ⟨_, hexec, ?_, ?_, fun a ha => ?_⟩
  · rw [setReg_nmc, setNmc_nmc, if_pos rfl]
  · rw [setReg_reg, if_pos rfl, setNmc_reg]
  · rw [setReg_reg, if_neg ha, setNmc_reg]

end

/-! ### Far-memory ports -/

theorem blockAt_pgFmc {g : Nat} (hg : g < 20) : blockAt (pgFmc g) = some (.fmc, g) := by
  have hall : ∀ k : Fin 20, blockAt (pgFmc k) = some (.fmc, k.val) := by decide
  exact hall ⟨g, hg⟩

theorem lt_of_fmcInForce {s : State} {g : Nat} (h : fmcInForce s g = true) : g < 20 := by
  simp only [fmcInForce, Variant.bonded, Bool.and_eq_true, decide_eq_true_eq] at h
  obtain ⟨⟨⟨hg, -⟩, -⟩, -⟩ := h
  exact hg

/-- A port whose link is down claims no range (R246). -/
theorem farRange_of_down {s : State} {g : Nat} (h : bit 0 (s.reg (regAddr (pgFmc g) 0x108)) = false) : farRange s g = none := by
  simp [farRange, h]

/-- FMC_STAT without a link keeps the width of its port alone (R248). -/
def unlinked (s : State) (g : Nat) : W64 := BitVec.ofNat 64 (if x16Of s g then 4 else 0)

theorem bit_unlinked (s : State) (g : Nat) : bit 0 (unlinked s g) = false := by
  unfold unlinked
  split <;> decide

theorem unlinked_eq (s : State) (g : Nat) : unlinked s g = if x16Of s g then 4 else 0 := by
  unfold unlinked
  split <;> rfl

section
variable {s : State} {g : Nat} (hup : bit 0 (s.reg (regAddr (pgFmc g) 0x108)) = true)
include hup

theorem fmcDown_disabled (hen : s.en (pgFmc g) = false) :
    fmcDown s g = s.setReg (regAddr (pgFmc g) 0x108) (unlinked s g) := by
  rw [fmcDown, if_pos hup, if_neg (by simp [hen])]
  rfl

theorem fmcDown_enabled (hen : s.en (pgFmc g) = true) : ∃ held, held.contains g = true ∧
    fmcDown s g = raise { s.setReg (regAddr (pgFmc g) 0x108) (unlinked s g) with fmcHeld := held } (pgFmc g) 8 := by
  refine ⟨if s.fmcHeld.contains g then s.fmcHeld else g :: s.fmcHeld, ?_, ?_⟩
  · split
    · assumption
    · simp
  · rw [fmcDown, if_pos hup, if_pos hen]
    rfl

end

theorem fmcLinkUp_trains {s : State} {g : Nat} (hlive : live s = true) (hforce : fmcInForce s g = true) (devcap width : Nat) :
    exec (.fmcLinkUp g devcap width) s = .next (s.setReg (regAddr (pgFmc g) 0x108) (BitVec.ofNat 64
      (devcap % 2 ^ 32 * 2 ^ 32 + width % 32 * 2 ^ 8 + (if x16Of s g then 4 else 0) + 3))) := by
  show execFmcLinkUp g devcap width s = _
  rw [execFmcLinkUp, whenLive, if_pos hlive, if_pos hforce]

theorem fmcLinkDown_withdraws {s : State} {g : Nat} (hlive : live s = true) (hforce : fmcInForce s g = true)
    (hup : bit 0 (s.reg (regAddr (pgFmc g) 0x108)) = true) : ∃ t, exec (.fmcLinkDown g) s = .next t ∧
      t.reg (regAddr (pgFmc g) 0x108) = (if x16Of s g then 4 else 0) ∧ farRange t g = none ∧
      (s.en (pgFmc g) = true → t.err (pgFmc g) = setBit 8 (s.err (pgFmc g)) true ∧ t.fmcHeld.contains g = true) ∧
      (s.en (pgFmc g) = false → t.errs = s.errs ∧ t.fmcHeld = s.fmcHeld) := by
  have hexec : exec (.fmcLinkDown g) s = .next (fmcDown s g) := by
    show execFmcLinkDown g s = _
    rw [execFmcLinkDown, whenLive, if_pos hlive, if_pos hforce]
  have hreg : (fmcDown s g).reg (regAddr (pgFmc g) 0x108) = unlinked s g := by
    cases hen : s.en (pgFmc g)
    · rw [fmcDown_disabled hup hen, setReg_reg, if_pos rfl]
    · obtain ⟨held, -, hdown⟩ := fmcDown_enabled hup hen
      rw [hdown, raise_reg]
      exact (setReg_reg s _ _ _).trans (if_pos rfl)
  refine ⟨_, hexec, hreg.trans (unlinked_eq s g), farRange_of_down (hreg ▸ bit_unlinked s g), fun hen => ?_, fun hen => ?_⟩
  · obtain ⟨held, hheld, hdown⟩ := fmcDown_enabled hup hen
    rw [hdown, raise_fmcHeld, raise_err _ _ _ _ _ _ (blockAt_pgFmc (lt_of_fmcInForce hforce)), if_pos rfl]
    exact ⟨rfl, hheld⟩
  · rw [fmcDown_disabled hup hen]
    exact ⟨rfl, rfl⟩

/-- Settles O40: masked writes, reads by the error found, what else a channel does, and a far-memory port's link. -/
theorem memoryChannelsCombineReadScrubAndLink : Obligations.MemoryChannelsCombineReadScrubAndLink := by
  unfold Obligations.MemoryChannelsCombineReadScrubAndLink
  refine ⟨?_, ?_, ?_, ?_⟩
  · intro addr mask data s hlive hs hnear hcached d ch line c m base written
    exact ⟨nearWrite_whole hlive hs hnear hcached data, fun hsome hpart hon =>
        ⟨fun _ hfind hmerged => nearWrite_merges hlive hs hnear hcached data hsome hpart hon hfind hmerged,
          fun hfind hroom => nearWrite_takes hlive hnear hcached data hsome hpart hon hfind hroom⟩,
      fun hsome hpart hoff h8 h9 => nearWrite_passes hlive hs hnear hcached data hsome hpart hoff h8 h9⟩
  · intro addr s hlive hs hnear _ page base h8 h9 hclean
    exact ⟨nearRead_none hlive hnear h8 h9 hs hclean, nearRead_ce hlive hnear h8 h9 hclean, nearRead_ue hlive hnear h8 h9⟩
  · intro d ch s hlive hs hdie hch h8 h9
    exact ⟨fun l m rest hwc => oldestEntry_written hlive hdie hs h8 h9 hwc, patrolScrub_moves hlive hdie hch hs h8 h9,
      lpddrOvertemp_limits hlive hdie hch⟩
  · intro g devcap width s hlive hforce
    exact ⟨fmcLinkUp_trains hlive hforce devcap width, fmcLinkDown_withdraws hlive hforce⟩

end Sys2Proof.Proofs
end

section
/-! Home slices and their directory (spec/10_coherence_and_ordering.md R274, R295, R301 to R303; spec/20_counters_and_debug.md
R526, R527): two states after which memory shows other bytes than the statements say. After one an event interrupt has
written a line that was answered; after the other the bytes of a waiting write have reached beyond its line. -/

namespace Sys2Proof.Proofs

open Sys2Proof.Laws Sys2Proof.Machine

/-- The line of the spec's trace through the directory, in set 99 of HOME[4] of C-die 0. -/
def tracedLine : Nat := 0x40003180 / 128

/-- The first way of its set. -/
def tracedWay : Nat := 99 * 16

/-! ### An event interrupt between an answer and the end of its command -/

/-- The state in which the token holder has resent its RdShared of a line in I: it took the reserved way, and the token
passed on (R303). -/
def tokenPassed (s : State) (d h k l p : Nat) (rest : List HReq) : State :=
  let c := s.home d h
  let s1 := countEv (s.setHome d h { c with reserved := none, tokq := rest }) (pgHome d h) 1 1
  reserveWay (takeWay s1 d h k l p (.rdShared l p)) d h

theorem exec_tokready_shared {s : State} {d h k l p : Nat} {rest : List HReq} (hlive : live s = true)
    (hway : (s.home d h).reserved = some k) (hqueue : (s.home d h).tokq = .rdShared l p :: rest)
    (hpin : ((s.home d h).ent k).pin = false) (hwait : mustWait (s.home d h) (.rdShared l p) = false)
    (hnone : (s.home d h).find (l * 128) = none) :
    exec (.tokready d h) s = .next (tokenPassed s d h k l p rest) := by
  have hfound : (s.home d h).find (HReq.line (.rdShared l p) * 128) = none := hnone
  show execTokReady d h s = _
  simp [execTokReady, whenLive, hlive, hway, hqueue, hpin, hwait, hfound, tokenPassed]

/-- Agents 3 and 5 wait for the token, both with an RdShared of one line, and a way is reserved for agent 3. -/
def twoWait : HomeSt :=
  { HomeSt.reset with tokq := [.rdShared tracedLine 3, .rdShared tracedLine 5], reserved := some tracedWay }

/-- The module after reset, but for this: two agents wait for the token of HOME[4]; counter 0 of its page counts TOKGRANT, is
one event short of its overflow and interrupts then; and the event interrupt writes 1 to the line that the agents ask for. -/
def grantCounted : State :=
  let page := pgHome 0 4
  let s := State.reset.setReg (evselAddr page 0) 0x30006
  let s1 := (s.setReg (regAddr pgGlb 0x1C0) (BitVec.ofNat 64 (tracedLine * 128 + 1))).setReg (regAddr pgGlb 0x1C8) 1
  (s1.setEvcnt (evcntAddr page 0) (BitVec.ofNat 64 (2 ^ 48 - 1))).setHome 0 4 twoWait

theorem homeOf_grantCounted : homeOf grantCounted (tracedLine * 128) = twoWait := by decide +kernel

theorem homeReady_grantCounted : HomeReady grantCounted (tracedLine * 128) := by
  rw [HomeReady, homeOf_grantCounted]
  decide +kernel

/-- The state after agent 3's TOKREADY. -/
def grantSent : State := tokenPassed grantCounted 0 4 tracedWay tracedLine 3 [.rdShared tracedLine 5]

theorem exec_tokready_grantCounted : exec (.tokready 0 4) grantCounted = .next grantSent :=
  exec_tokready_shared (by decide +kernel) (by decide +kernel) (by decide +kernel) (by decide +kernel) (by decide +kernel)
    (by decide +kernel)

/-- Agent 3 is answered with the line as it stood, all bytes 0. -/
theorem grantSent_resps :
    (homeOf grantSent (tracedLine * 128)).resps = [⟨0, some 3, tracedLine, List.replicate 128 0, false⟩] := by
  decide +kernel

/-- The grant to agent 5 is counted after that, and its interrupt writes the line. -/
theorem grantSent_byte : grantSent.byte (tracedLine * 128) = 1 := by decide +kernel

theorem firstByte_dataResp (t : State) (addr kind : Nat) (agent : Option Nat) :
    (dataResp t addr kind agent).data.headD 0 = t.byte (addr / 128 * 128) := rfl

/-- Refutes O45: its last clause says that the token holder's data is the line as memory shows it once TOKREADY is done. With
the event interrupt on, which that clause allows, the TokReady to the next holder, sent after the answer, can end in an
interrupt write to the line. -/
theorem not_requestsChangeTheDirectory : ¬ Obligations.RequestsChangeTheDirectory := by
  unfold Obligations.RequestsChangeTheDirectory
  intro h
  obtain ⟨-, -, -, -, -, -, -, htoken⟩ := h
  have hclaim := htoken (tracedLine * 128) tracedWay 3 (.rdShared tracedLine 3) [.rdShared tracedLine 5] grantCounted
    homeReady_grantCounted
  rw [homeOf_grantCounted] at hclaim
  obtain ⟨t, hexec, hhome, -⟩ := hclaim (.inl rfl) rfl rfl (by decide +kernel) (by decide +kernel)
  obtain rfl := Host.Outcome.next.inj (exec_tokready_grantCounted.symm.trans hexec)
  have hresps : [_] = [dataResp grantSent (tracedLine * 128) 0 (some 3)] :=
    grantSent_resps.symm.trans (congrArg HomeSt.resps hhome)
  have hfirst := firstByte_dataResp grantSent (tracedLine * 128) 0 (some 3)
  rw [← List.head_eq_of_cons_eq hresps] at hfirst
  exact absurd (hfirst.trans grantSent_byte) (by decide)

/-! ### A waiting write whose bytes reach beyond its line -/

/-- A write of 129 bytes, of which the mask writes the last. -/
def writeBeyond : HReq := .wrNc tracedLine 1 (2 ^ 128) (List.replicate 129 1)

/-- The recall of agent 3's copy for that write; agent 3 has taken the message. -/
def recalling : Txn := ⟨tracedLine, 4, writeBeyond, none, 0, 2 ^ 3, .clean, false⟩

/-- Agent 3's entry of the line, pinned, and the transaction on it. -/
def recallSlice : HomeSt :=
  { HomeSt.reset with dir := [(tracedWay, ⟨tracedLine, true, 2 ^ 3, true, 1⟩)], txns := [recalling] }

/-- The module after reset, but for that transaction of HOME[4]. -/
def writeWaits : State := State.reset.setHome 0 4 recallSlice

theorem homeOf_writeWaits : homeOf writeWaits (tracedLine * 128) = recallSlice := by decide +kernel

theorem homeHas_writeWaits : HomeHas writeWaits (tracedLine * 128) recalling tracedWay := by
  rw [HomeHas, homeOf_writeWaits]
  decide +kernel

/-- No other way of the slice holds a line. -/
theorem recallSlice_ent_other {j : Nat} (hj : j ≠ tracedWay) : recallSlice.ent j = DirEnt.empty := by
  simp [HomeSt.ent, recallSlice, SMap.get, Ne.symm hj]

/-- The last Ack lets the write be performed, and its last byte is beyond the line. -/
theorem recallAck_writeWaits_byte : (takeAck writeWaits [4] 3 (tracedLine * 128)).byte (tracedLine * 128 + 128) = 1 := by
  decide +kernel

theorem exec_recallack {s : State} (hlive : live s = true) (agent addr : Nat) :
    exec (.recallack agent addr) s = .next (takeAck s [4] agent addr) := congrArg _ (if_pos hlive)

/-- Refutes O46: the last RecallAck of a waiting WrNC leaves memory outside the line, it says, for every mask and data of the
request. WRNC keeps the 128 mask bits of a line, but the statement speaks of every live state, and a request that waits with
a longer mask is performed as it stands. -/
theorem not_forwardsAndAcksCompleteTransactions : ¬ Obligations.ForwardsAndAcksCompleteTransactions := by
  unfold Obligations.ForwardsAndAcksCompleteTransactions
  intro h
  obtain ⟨-, hacks, -⟩ := h
  have hack := hacks 3 (tracedLine * 128) tracedWay recalling (.recallack 3 (tracedLine * 128)) writeWaits homeHas_writeWaits
    (by decide) (by decide) (.inr (.inr ⟨rfl, rfl⟩))
  rw [homeOf_writeWaits] at hack
  obtain ⟨-, hlast⟩ := hack
  obtain ⟨-, -, hwrite, -⟩ := hlast (by decide) rfl
  obtain ⟨u, hexec, -, -, hframe⟩ := hwrite 1 (2 ^ 128) (List.replicate 129 1) (by decide) (.inr rfl) rfl
    (by unfold EvQuiet; decide +kernel) (fun j hj _ => by rw [recallSlice_ent_other hj]; rfl)
  obtain rfl := Host.Outcome.next.inj ((exec_recallack (by decide +kernel) 3 (tracedLine * 128)).symm.trans hexec)
  have hbyte := recallAck_writeWaits_byte.symm.trans (hframe (tracedLine * 128 + 128) (.inr (by decide)))
  exact absurd hbyte (by decide +kernel)

end Sys2Proof.Proofs
end

section
/-! The sump's records and resumes, and invalidations (spec/11_translation.md R316, R318, R322 to R328;
spec/13_queues.md R356). -/

namespace Sys2Proof.Proofs

open Sys2Proof.Laws Sys2Proof.Machine

/-! ### Bytes and fields of a record (R323) -/

theorem bytes_eq_of_byte {s : State} {bs : List Byte} {a : Nat}
    (h : ∀ i, i < bs.length → s.byte (a + i) = bs.getD i 0) : s.bytes a bs.length = bs := by
  induction bs generalizing a with
  | nil => rfl
  | cons b bs ih =>
    have hhead : s.byte a = b := h 0 (Nat.succ_pos _)
    have htail : s.bytes (a + 1) bs.length = bs := ih fun i hi => by
      rw [Nat.add_right_comm, Nat.add_assoc, h (i + 1) (Nat.succ_lt_succ hi), List.getD_cons_succ]
    rw [List.length_cons, State.bytes, hhead, htail]

theorem putBytes_bytes (s : State) (a : Nat) (bs : List Byte) : (s.putBytes a bs).bytes a bs.length = bs :=
  bytes_eq_of_byte fun i hi => by rw [putBytes_byte, if_pos (by omega), Nat.add_sub_cancel_left]

theorem fieldAt_leBytes_append (w v : Nat) (bs : List Byte) : fieldAt (leBytes w v ++ bs) 0 w = v % 256 ^ w := by
  rw [fieldAt, List.drop_zero, List.take_left' (leBytes_length w v), leNat_leBytes]

theorem fieldAt_leBytes (w v : Nat) : fieldAt (leBytes w v) 0 w = v % 256 ^ w := by
  rw [← List.append_nil (leBytes w v), fieldAt_leBytes_append]

/-- A field behind the first bytes of a string. -/
theorem fieldAt_leBytes_append_of_le {w o n : Nat} (v : Nat) (bs : List Byte) (h : w ≤ o) :
    fieldAt (leBytes w v ++ bs) o n = fieldAt bs (o - w) n := by
  have hdrop : (leBytes w v).drop o = [] := List.drop_eq_nil_of_le ((leBytes_length w v).trans_le h)
  rw [fieldAt, fieldAt, List.drop_append, leBytes_length, hdrop, List.nil_append]

theorem sumpBytes_length (size i seq : Nat) (r : SRec) : (sumpBytes size i seq r).length = 64 := by
  simp [sumpBytes]

/-- The 64 bytes of an open record show the driver its fault. -/
theorem sumpShows_sumpBytes {r : SRec} (hslot : r.slot < 4096) (size i seq : Nat) :
    sumpShows (sumpBytes size i seq r) size i seq r := by
  have hno : r.slot ≠ noSlot := Nat.ne_of_lt hslot
  have hmin : min r.slot 0xFFF = r.slot := by omega
  have hpte : r.first.pte.toNat < 18446744073709551616 := r.first.pte.isLt
  have hphase : i / 2 ^ size % 2 < 256 := by omega
  unfold sumpShows sumpBytes
  rcases hwork : r.first.work with _ | ⟨job, sid, step⟩ <;>
    simp [List.append_assoc, fieldAt_leBytes_append_of_le, fieldAt_leBytes_append, fieldAt_leBytes, hno, hmin, hpte, hphase,
      hwork]

/-! ### Changing the first record that satisfies a test -/

section
variable {α : Type} {p q : α → Bool} {f : α → α} {l : List α} {x y : α}

/-- The changed element is the first that satisfies q, where only what satisfies p does and the change makes it do so. -/
theorem find?_updFirst (hx : l.find? p = some x) (hq : ∀ y ∈ l, q y = true → p y = true) (hf : q (f x) = true) :
    (updFirst p f l).find? q = some (f x) := by
  induction l with
  | nil => cases hx
  | cons y l ih =>
    rw [updFirst]
    cases hp : p y with
    | true =>
      rw [List.find?_cons_of_pos hp] at hx
      cases hx
      exact List.find?_cons_of_pos hf
    | false =>
      have hqy : ¬q y = true := fun hqy => Bool.false_ne_true (hp.symm.trans (hq y List.mem_cons_self hqy))
      rw [List.find?_cons_of_neg (Bool.eq_false_iff.mp hp)] at hx
      rw [if_neg Bool.false_ne_true, List.find?_cons_of_neg hqy]
      exact ih hx fun z hz => hq z (List.mem_cons_of_mem y hz)

theorem mem_updFirst (hx : l.find? p = some x) (hy : y ∈ updFirst p f l) : y = f x ∨ y ∈ l := by
  induction l with
  | nil => cases hx
  | cons z l ih =>
    rw [updFirst] at hy
    cases hp : p z with
    | true =>
      rw [List.find?_cons_of_pos hp] at hx
      cases hx
      rw [if_pos hp] at hy
      exact (List.mem_cons.mp hy).imp_right (List.mem_cons_of_mem _)
    | false =>
      rw [List.find?_cons_of_neg (Bool.eq_false_iff.mp hp)] at hx
      rw [if_neg (Bool.eq_false_iff.mp hp)] at hy
      rcases List.mem_cons.mp hy with rfl | hy
      · exact .inr List.mem_cons_self
      · exact (ih hx hy).imp_right (List.mem_cons_of_mem _)

end

/-! ### Writing the records that are due (R323) -/

theorem sumpDrain_of_none {s : State} (n : Nat) (h : s.sump.recs.find? (fun r => r.due) = none) : sumpDrain n s = s := by
  cases n with
  | zero => rfl
  | succ n => rw [sumpDrain, h]

theorem sumpDrain_one {s : State} {r : SRec} (h : s.sump.recs.find? (fun r => r.due) = some r) :
    sumpDrain 1 s = if sumpRoom s then sumpWrite s r else s := by
  rw [sumpDrain, h]
  rfl

/-- Where the next record goes. -/
def sumpAddr (s : State) : Nat := s.regF pgSump 0x108 51 12 * 4096 + s.sump.prod % 2 ^ sumpSize s * 64

/-- The record that sumpWrite names among the open ones. -/
def isUnwritten (r x : SRec) : Bool := x.slot == r.slot && x.seq.isNone && x.first == r.first

/-- The record is in the ring and passed; its event is not yet counted. -/
def sumpWritten (s : State) (r : SRec) : State :=
  { s.putBytes (sumpAddr s) (sumpBytes (sumpSize s) s.sump.prod s.sump.nextSeq r) with
    sump := { s.sump with
      prod := (s.sump.prod + 1) % 2 ^ 32
      nextSeq := (s.sump.nextSeq + 1) % 2 ^ 32
      recs := updFirst (isUnwritten r) (fun x => { x with due := false, seq := some s.sump.nextSeq }) s.sump.recs } }

/-- With MSIEN off, a record of a slot is written, passed and counted. -/
theorem sumpWrite_of_slot {s : State} {r : SRec} (hslot : r.slot < 4096)
    (hmsi : bit 0 (s.reg (regAddr pgSump 0x100)) = false) :
    sumpWrite s r = countEv (sumpWritten s r) pgSump 1 1 := by
  have hno : r.slot ≠ noSlot := Nat.ne_of_lt hslot
  unfold sumpWrite
  dsimp only
  rw [if_neg hno, if_neg (Bool.eq_false_iff.mp hmsi)]
  rfl

section
variable {s : State} {r : SRec}

theorem sumpWritten_mem (s : State) (r : SRec) : (sumpWritten s r).mem =
    (s.putBytes (sumpAddr s) (sumpBytes (sumpSize s) s.sump.prod s.sump.nextSeq r)).mem := by
  rw [sumpWritten]

theorem sumpWritten_regs (s : State) (r : SRec) : (sumpWritten s r).regs = s.regs := by
  simp only [sumpWritten, putBytes_regs]
theorem sumpWritten_items (s : State) (r : SRec) : (sumpWritten s r).items = s.items := by
  simp only [sumpWritten, putBytes_items]
theorem sumpWritten_queues (s : State) (r : SRec) : (sumpWritten s r).queues = s.queues := by
  simp only [sumpWritten, putBytes_queues]

theorem sumpWritten_evQuiet (r : SRec) (hev : EvQuiet s) : EvQuiet (sumpWritten s r) :=
  evQuiet_of_regs (by simp only [sumpWritten, State.reg, putBytes_regs, putBytes_fuses]) hev

theorem sumpWritten_bytes (s : State) (r : SRec) :
    (sumpWritten s r).bytes (sumpAddr s) 64 = sumpBytes (sumpSize s) s.sump.prod s.sump.nextSeq r := by
  have h := putBytes_bytes s (sumpAddr s) (sumpBytes (sumpSize s) s.sump.prod s.sump.nextSeq r)
  rw [sumpBytes_length] at h
  rw [bytes_congr (sumpWritten_mem s r), h]

theorem sumpWritten_byte_other {b : Nat} (hb : b < sumpAddr s ∨ sumpAddr s + 64 ≤ b) :
    (sumpWritten s r).byte b = s.byte b := by
  have h := putBytes_byte s (sumpBytes (sumpSize s) s.sump.prod s.sump.nextSeq r) (sumpAddr s) b
  rw [sumpBytes_length, if_neg (by omega)] at h
  rw [State.byte, sumpWritten_mem]
  exact h

end

/-! ### SUMP_RECORD_WRITE (R322) -/

/-- An open record of the slot that is neither written nor due. -/
def mergesAt (slot : Nat) (r : SRec) : Bool := r.slot == slot && slot != noSlot && r.seq.isNone && !r.due

/-- The record waits to be written. -/
def madeDue (r : SRec) : SRec := { r with due := true }

/-- The merge window of the slot's record ends. -/
def mergeEnded (s : State) (slot : Nat) : State :=
  { s with sump := { s.sump with recs := updFirst (mergesAt slot) madeDue s.sump.recs } }

section
variable {s : State} {slot : Nat} {r : SRec}

/-- The only record of its slot, open and unwritten, while no record is due. -/
structure Merging (s : State) (slot : Nat) (r : SRec) : Prop where
  isSlot : slot < 4096
  found : s.sump.recs.find? (fun x => x.slot == slot) = some r
  unwritten : r.seq = none
  noneDue : ∀ x ∈ s.sump.recs, x.due = false
  only : ∀ x ∈ s.sump.recs, x.slot = slot → x = r
  slotEq : r.slot = slot

namespace Merging
variable (h : Merging s slot r)
include h

theorem mem : r ∈ s.sump.recs := List.mem_of_find?_eq_some h.found

theorem mergesAt_self : mergesAt slot r = true := by
  have hno : slot ≠ noSlot := Nat.ne_of_lt h.isSlot
  simp [mergesAt, h.slotEq, hno, h.unwritten, h.noneDue r h.mem]

/-- Of the records listed, those of the slot are those whose merge window ends. -/
theorem mergesAt_of_slot {x : SRec} (hx : x ∈ s.sump.recs) (hslot : x.slot = slot) : mergesAt slot x = true :=
  h.only x hx hslot ▸ h.mergesAt_self

theorem find_mergesAt : s.sump.recs.find? (mergesAt slot) = some r := by
  rw [← h.found]
  refine List.find?_congr fun x hx => Bool.eq_iff_iff.mpr ⟨fun hm => ?_, fun hslot => ?_⟩
  · simp only [mergesAt, Bool.and_eq_true] at hm
    obtain ⟨⟨⟨hslot, -⟩, -⟩, -⟩ := hm
    exact hslot
  · exact h.mergesAt_of_slot hx (beq_iff_eq.mp hslot)

theorem mergeEnded_due : (mergeEnded s slot).sump.recs.find? (fun x => x.due) = some (madeDue r) :=
  find?_updFirst h.find_mergesAt (fun y hy hdue => absurd ((h.noneDue y hy).symm.trans hdue) Bool.false_ne_true) rfl

theorem mergeEnded_slot : (mergeEnded s slot).sump.recs.find? (fun x => x.slot == slot) = some (madeDue r) :=
  find?_updFirst h.find_mergesAt (fun _ hy hslot => h.mergesAt_of_slot hy (beq_iff_eq.mp hslot)) (beq_iff_eq.mpr h.slotEq)

theorem mergeEnded_unwritten :
    (mergeEnded s slot).sump.recs.find? (isUnwritten (madeDue r)) = some (madeDue r) := by
  refine find?_updFirst h.find_mergesAt (fun y hy hun => ?_) (by simp [isUnwritten, madeDue, h.unwritten])
  simp only [isUnwritten, Bool.and_eq_true, beq_iff_eq] at hun
  obtain ⟨⟨hslot, -⟩, -⟩ := hun
  exact h.mergesAt_of_slot hy (hslot.trans h.slotEq)

/-- The record, once written, is the slot's, with its sequence number. -/
theorem written_slot : (sumpWritten (mergeEnded s slot) (madeDue r)).sump.recs.find? (fun x => x.slot == slot) =
    some { r with seq := some s.sump.nextSeq } := by
  have hkept : { r with due := false, seq := some s.sump.nextSeq } = { r with seq := some s.sump.nextSeq } := by
    rw [← h.noneDue r h.mem]
  rw [← hkept]
  refine find?_updFirst (x := madeDue r) h.mergeEnded_unwritten (fun y hy hslot => ?_) (beq_iff_eq.mpr h.slotEq)
  rcases mem_updFirst h.find_mergesAt hy with rfl | hy
  · simp [isUnwritten, madeDue, h.unwritten]
  · rw [h.only y hy (beq_iff_eq.mp hslot)]
    simp [isUnwritten, madeDue, h.unwritten]

end Merging

theorem sumpRoom_iff (s : State) :
    sumpRoom s = true ↔ idxSub s.sump.prod s.sump.cons < 2 ^ s.regF pgSump 0x100 19 16 := decide_eq_true_iff

/-- The record that is due is written if there is room. -/
theorem exec_sumpRecordWrite (hlive : live s = true) (h : Merging s slot r) :
    exec (.sumpRecordWrite slot) s = .next (if sumpRoom s then sumpWrite (mergeEnded s slot) (madeDue r)
      else mergeEnded s slot) := by
  have hany : s.sump.recs.any (mergesAt slot) = true := List.any_eq_true.mpr ⟨r, h.mem, h.mergesAt_self⟩
  have hroom : sumpRoom (mergeEnded s slot) = sumpRoom s := rfl
  show Host.Outcome.next (if live s then
    if s.sump.recs.any (mergesAt slot) then sumpDrain 1 (mergeEnded s slot) else s else s) = _
  rw [if_pos hlive, if_pos hany, sumpDrain_one h.mergeEnded_due, hroom]

/-- The ring, once the slot's record is in it and passed. -/
def recordWritten (s : State) (slot : Nat) (r : SRec) : State := sumpWritten (mergeEnded s slot) (madeDue r)

theorem recordWritten_regs (s : State) (slot : Nat) (r : SRec) : (recordWritten s slot r).regs = s.regs :=
  sumpWritten_regs (mergeEnded s slot) (madeDue r)
theorem recordWritten_items (s : State) (slot : Nat) (r : SRec) : (recordWritten s slot r).items = s.items :=
  sumpWritten_items (mergeEnded s slot) (madeDue r)
theorem recordWritten_queues (s : State) (slot : Nat) (r : SRec) : (recordWritten s slot r).queues = s.queues :=
  sumpWritten_queues (mergeEnded s slot) (madeDue r)
theorem recordWritten_prod (s : State) (slot : Nat) (r : SRec) :
    (recordWritten s slot r).sump.prod = (s.sump.prod + 1) % 2 ^ 32 := rfl
theorem recordWritten_evQuiet (slot : Nat) (r : SRec) (hev : EvQuiet s) : EvQuiet (recordWritten s slot r) :=
  sumpWritten_evQuiet (s := mergeEnded s slot) (madeDue r) hev

theorem recordWritten_shows (hslot : r.slot < 4096) (slot : Nat) :
    sumpShows ((recordWritten s slot r).bytes (sumpAddr s) 64) (sumpSize s) s.sump.prod s.sump.nextSeq r := by
  have hbytes := sumpWritten_bytes (mergeEnded s slot) (madeDue r)
  rw [recordWritten, show sumpAddr s = sumpAddr (mergeEnded s slot) from rfl, hbytes]
  exact sumpShows_sumpBytes (r := madeDue r) hslot _ _ _

theorem recordWritten_byte_other (slot : Nat) (r : SRec) {b : Nat} (hb : b < sumpAddr s ∨ sumpAddr s + 64 ≤ b) :
    (recordWritten s slot r).byte b = s.byte b := sumpWritten_byte_other (s := mergeEnded s slot) (r := madeDue r) hb

/-- With room the record is written and its event counted. -/
theorem exec_sumpRecordWrite_room (hlive : live s = true) (h : Merging s slot r)
    (hroom : idxSub s.sump.prod s.sump.cons < 2 ^ s.regF pgSump 0x100 19 16)
    (hmsi : bit 0 (s.reg (regAddr pgSump 0x100)) = false) :
    exec (.sumpRecordWrite slot) s = .next (countEv (recordWritten s slot r) pgSump 1 1) := by
  have hslot : (madeDue r).slot < 4096 := h.slotEq ▸ h.isSlot
  rw [exec_sumpRecordWrite hlive h, if_pos ((sumpRoom_iff s).mpr hroom),
    sumpWrite_of_slot (s := mergeEnded s slot) hslot hmsi, recordWritten]

/-- With room the record stands at its place and is passed. -/
theorem Merging.exec_withRoom (h : Merging s slot r) (hlive : live s = true)
    (hroom : idxSub s.sump.prod s.sump.cons < 2 ^ s.regF pgSump 0x100 19 16)
    (hmsi : bit 0 (s.reg (regAddr pgSump 0x100)) = false) (hev : EvQuiet s) :
    ∃ t, exec (.sumpRecordWrite slot) s = .next t ∧
      sumpShows (t.bytes (sumpAddr s) 64) (s.regF pgSump 0x100 19 16) s.sump.prod s.sump.nextSeq r ∧
      (∀ b, b < sumpAddr s ∨ sumpAddr s + 64 ≤ b → t.byte b = s.byte b) ∧ t.sump.prod = (s.sump.prod + 1) % 2 ^ 32 ∧
      t.sump.recs.find? (fun x => x.slot == slot) = some { r with seq := some s.sump.nextSeq } ∧ t.regs = s.regs ∧
      t.items = s.items ∧ t.queues = s.queues := by
  have hslot : r.slot < 4096 := h.slotEq ▸ h.isSlot
  have hmem := countEv_mem (recordWritten_evQuiet slot r hev) pgSump 1 1
  refine ⟨_, exec_sumpRecordWrite_room hlive h hroom hmsi, ?_, fun b hb => ?_, ?_, ?_, ?_, ?_, ?_⟩
  · rw [bytes_congr hmem]
    exact recordWritten_shows hslot slot
  · rw [State.byte, hmem]
    exact recordWritten_byte_other slot r hb
  · rw [countEv_sump, recordWritten_prod]
  · rw [countEv_sump]
    exact h.written_slot
  · rw [countEv_regs, recordWritten_regs]
  · rw [countEv_items, recordWritten_items]
  · rw [countEv_queues, recordWritten_queues]

/-- Without room it is due. -/
theorem Merging.exec_withoutRoom (h : Merging s slot r) (hlive : live s = true)
    (hfull : 2 ^ s.regF pgSump 0x100 19 16 ≤ idxSub s.sump.prod s.sump.cons) :
    ∃ t, exec (.sumpRecordWrite slot) s = .next t ∧ t.mem = s.mem ∧ t.sump.prod = s.sump.prod ∧
      t.sump.recs.find? (fun x => x.slot == slot) = some (madeDue r) := by
  rw [exec_sumpRecordWrite hlive h, if_neg (fun hroom => Nat.not_lt.mpr hfull ((sumpRoom_iff s).mp hroom))]
  exact ⟨_, rfl, rfl, rfl, h.mergeEnded_slot⟩

end

/-! ### SUMP_CONS (R323, R328) -/

theorem blockAt_pgSump : blockAt pgSump = some (.sump, 0) := rfl

section
variable {s : State} {v : W64}

theorem exec_sumpConsWrite_rejected (hlive : live s = true) (h : 2 ^ sumpSize s < idxSub s.sump.prod (fld 31 0 v)) :
    exec (.sumpConsWrite v) s = .next (reject s pgSump) := by
  show whenLive s (sumpConsWrite s v) = _
  rw [whenLive, if_pos hlive, sumpConsWrite, if_pos h]

theorem exec_sumpConsWrite_moves (hlive : live s = true) (h : idxSub s.sump.prod (fld 31 0 v) ≤ 2 ^ sumpSize s)
    (hdue : ∀ r ∈ s.sump.recs, r.due = false) :
    exec (.sumpConsWrite v) s = .next { s with sump := { s.sump with cons := fld 31 0 v } } := by
  have hnone : s.sump.recs.find? (fun r => r.due) = none :=
    List.find?_eq_none.mpr fun r hr => Bool.eq_false_iff.mp (hdue r hr)
  show whenLive s (sumpConsWrite s v) = _
  rw [whenLive, if_pos hlive, sumpConsWrite, if_neg (Nat.not_lt.mpr h)]
  exact congrArg _ (sumpDrain_of_none _ hnone)

end

/-! ### Translations leave the caches (R316, R318) -/

theorem get_of_unlisted {α : Type} {d : Nat → α} {m : SMap α} {k : Nat} (h : k ∉ m.map Prod.fst) : m.get d k = d k := by
  have hnone : m.find? (fun p => p.1 == k) = none := by
    rw [List.find?_eq_none]
    intro p hp hk
    exact h (List.mem_map.mpr ⟨p, hp, beq_iff_eq.mp hk⟩)
  rw [SMap.get, hnone]

/-- A fold over keys establishes what the step of one key does, if it holds before where that key is not listed. -/
theorem foldl_over_keys {P : State → Prop} {g : State → Nat → State} {l : List Nat} {k : Nat} {s : State}
    (hout : k ∉ l → P s) (hset : ∀ t, P (g t k)) (hkeep : ∀ t b, P t → P (g t b)) : P (l.foldl g s) := by
  by_cases hk : k ∈ l
  · exact foldl_established hk hset hkeep s
  · exact List.foldlRecOn l g (hout hk) fun t ht b _ => hkeep t b ht

/-- What an MMU keeps when the translations of a scope are dropped. -/
def mmuWithout (m : MmuSt) (r : InvReq) : MmuSt :=
  { tlb := m.tlb.filter (fun e => !e.inScope r), walk := m.walk.filter (fun w => !w.inScope r) }

/-- What a queue keeps: its descriptors without the extents of the scope. -/
def queueWithout (c : QueueSt) (r : InvReq) : QueueSt :=
  { c with inflight := c.inflight.map (fun x => { x with exts := x.exts.filter (fun e => !e.inScope r) }) }

/-- What a unit keeps: its TLB without the entries of the scope. -/
def cuWithout (c : CuSt) (r : InvReq) : CuSt := { c with tlb := c.tlb.filter (fun e => !e.inScope r) }

/-- None of an MMU's translations lies in the scope. -/
def MmuClear (m : MmuSt) (r : InvReq) : Prop := (∀ e ∈ m.tlb, e.inScope r = false) ∧ ∀ w ∈ m.walk, w.inScope r = false
/-- None of the extents of a queue's descriptors lies in the scope. -/
def QueueClear (c : QueueSt) (r : InvReq) : Prop := ∀ d ∈ c.inflight, ∀ e ∈ d.exts, e.inScope r = false
/-- None of a unit's translations lies in the scope. -/
def CuClear (c : CuSt) (r : InvReq) : Prop := ∀ e ∈ c.tlb, e.inScope r = false

theorem eq_false_of_mem_filter_not {α : Type} (p : α → Bool) {l : List α} {x : α} (h : x ∈ l.filter (fun y => !p y)) :
    p x = false := by
  simpa using List.of_mem_filter h

theorem inScope_of_mem_filter {r : InvReq} {l : List TlbEntry} {e : TlbEntry} (h : e ∈ l.filter (fun x => !x.inScope r)) :
    e.inScope r = false := eq_false_of_mem_filter_not (fun x : TlbEntry => x.inScope r) h

theorem mmuWithout_clear (m : MmuSt) (r : InvReq) : MmuClear (mmuWithout m r) r :=
  ⟨fun _ he => inScope_of_mem_filter he, fun _ hw => eq_false_of_mem_filter_not (fun w : WalkEntry => w.inScope r) hw⟩

theorem cuWithout_clear (c : CuSt) (r : InvReq) : CuClear (cuWithout c r) r := fun _ he => inScope_of_mem_filter he

theorem queueWithout_clear (c : QueueSt) (r : InvReq) : QueueClear (queueWithout c r) r := by
  intro d hd e he
  obtain ⟨x, -, rfl⟩ := List.mem_map.mp hd
  exact inScope_of_mem_filter he

section
variable (s : State) (r : InvReq)

/-- What dropTranslations does to the MMUs of the dies. -/
def dropMmus (s : State) (r : InvReq) : State :=
  [0, 1, 3, 4].foldl (fun t d => t.setMmu d (mmuWithout (t.mmu d) r)) s

/-- What dropTranslations does to the accepted descriptors. -/
def dropExtents (s : State) (r : InvReq) : State :=
  (s.queues.map Prod.fst).foldl (fun t q => t.setQueue q (queueWithout (t.queue q) r)) s

/-- Each kind of cache in turn. -/
theorem dropScope_eq : dropScope s r = dropUnitTlbs (dropExtents (dropMmus s r) r) r := rfl

/-- The state but for what caches translations. -/
def uncached (s : State) : State := { s with mmus := [], queues := [], units := [] }

theorem dropMmus_uncached : uncached (dropMmus s r) = uncached s := by
  refine foldl_leaves (Q := uncached) (fun t k => ?_) _ s
  rfl
theorem dropExtents_uncached : uncached (dropExtents s r) = uncached s := by
  refine foldl_leaves (Q := uncached) (fun t k => ?_) _ s
  rfl
theorem dropUnitTlbs_uncached : uncached (dropUnitTlbs s r) = uncached s := by
  refine foldl_leaves (Q := uncached) (fun t k => ?_) _ s
  rfl
theorem dropScope_uncached : uncached (dropScope s r) = uncached s := by
  rw [dropScope_eq, dropUnitTlbs_uncached, dropExtents_uncached, dropMmus_uncached]

theorem dropExtents_mmus : (dropExtents s r).mmus = s.mmus := by
  refine foldl_leaves (Q := State.mmus) (fun t k => ?_) _ s
  rfl
theorem dropUnitTlbs_mmus : (dropUnitTlbs s r).mmus = s.mmus := by
  refine foldl_leaves (Q := State.mmus) (fun t k => ?_) _ s
  rfl
theorem dropUnitTlbs_queues : (dropUnitTlbs s r).queues = s.queues := by
  refine foldl_leaves (Q := State.queues) (fun t k => ?_) _ s
  rfl

theorem dropScope_sump : (dropScope s r).sump = s.sump := (congrArg State.sump (dropScope_uncached s r) :)
theorem dropScope_mem : (dropScope s r).mem = s.mem := (congrArg State.mem (dropScope_uncached s r) :)
theorem dropScope_regs : (dropScope s r).regs = s.regs := (congrArg State.regs (dropScope_uncached s r) :)
theorem dropScope_items : (dropScope s r).items = s.items := (congrArg State.items (dropScope_uncached s r) :)

theorem dropMmus_clear {d : Nat} (hd : d ∈ [0, 1, 3, 4]) : MmuClear ((dropMmus s r).mmu d) r := by
  refine foldl_over_keys (P := fun t => MmuClear (t.mmu d) r) (k := d) (absurd hd) (fun t => ?_) (fun t b ht => ?_)
  · rw [setMmu_mmu, if_pos rfl]
    exact mmuWithout_clear _ r
  · rw [setMmu_mmu]
    split
    · exact mmuWithout_clear _ r
    · exact ht

theorem dropExtents_clear (q : Nat) : QueueClear ((dropExtents s r).queue q) r := by
  refine foldl_over_keys (P := fun t => QueueClear (t.queue q) r) (k := q) (fun hq => ?_) (fun t => ?_) (fun t b ht => ?_)
  · rw [State.queue, get_of_unlisted hq]
    exact fun _ hd => absurd hd List.not_mem_nil
  · rw [setQueue_queue, if_pos rfl]
    exact queueWithout_clear _ r
  · rw [setQueue_queue]
    split
    · exact queueWithout_clear _ r
    · exact ht

theorem dropUnitTlbs_clear (u : Nat) : CuClear ((dropUnitTlbs s r).cu u) r := by
  refine foldl_over_keys (P := fun t => CuClear (t.cu u) r) (k := u) (fun hu => ?_) (fun t => ?_) (fun t b ht => ?_)
  · rw [State.cu, get_of_unlisted hu]
    exact fun _ he => absurd he List.not_mem_nil
  · rw [setCu_cu, if_pos rfl]
    exact cuWithout_clear _ r
  · rw [setCu_cu]
    split
    · exact cuWithout_clear _ r
    · exact ht

/-- Nothing caches a translation of a scope that was dropped. -/
theorem dropScope_noneCached : NoneCached (dropScope s r) r := by
  rw [dropScope_eq]
  refine ⟨fun d hd => ?_, dropUnitTlbs_clear _ r, fun q => ?_⟩
  · rw [State.mmu, dropUnitTlbs_mmus, dropExtents_mmus]
    exact dropMmus_clear s r (by simpa using hd)
  · rw [State.queue, dropUnitTlbs_queues]
    exact dropExtents_clear _ r q

end

/-! ### Resumes (R325, R328) -/

/-- What SUMP_RESUME_RETRY (1) and SUMP_RESUME_FAIL (2) write to SUMP_RESUME. -/
def resumeValue (slot seq act : Nat) : W64 := BitVec.ofNat 64 (seq % 2 ^ 32 * 2 ^ 32 + slot % 2 ^ 12 * 2 ^ 16 + act)

section
variable {s : State} {slot seq : Nat}

theorem resumeValue_action (slot seq : Nat) {act : Nat} (h : act < 4) : fld 1 0 (resumeValue slot seq act) = act := by
  rw [resumeValue, fld, BitVec.toNat_ofNat]
  omega

theorem resumeValue_slot (hslot : slot < 4096) (seq : Nat) {act : Nat} (h : act < 4) :
    fld 27 16 (resumeValue slot seq act) = slot := by
  rw [resumeValue, fld, BitVec.toNat_ofNat]
  omega

theorem resumeValue_seq (slot : Nat) (hseq : seq < 2 ^ 32) {act : Nat} (h : act < 4) :
    fld 63 32 (resumeValue slot seq act) = seq := by
  rw [resumeValue, fld, BitVec.toNat_ofNat]
  omega

theorem resumeTarget_resumeValue (s : State) (hslot : slot < 4096) (hseq : seq < 2 ^ 32) {act : Nat} (h : act < 4) :
    resumeTarget s (resumeValue slot seq act) = s.sump.recs.find? (fun x => x.slot == slot && x.seq == some seq) := by
  rw [resumeTarget, resumeValue_slot hslot seq h, resumeValue_seq slot hseq h]

theorem exec_sumpResumeRetry (hlive : live s = true) :
    exec (.sumpResumeRetry slot seq) s = .next (resumeWrite s (resumeValue slot seq 1)) := congrArg _ (if_pos hlive)

theorem exec_sumpResumeFail (hlive : live s = true) :
    exec (.sumpResumeFail slot seq) s = .next (resumeWrite s (resumeValue slot seq 2)) := congrArg _ (if_pos hlive)

/-- Without an open record of that slot and sequence number the write is rejected. -/
theorem resumeWrite_rejected (hslot : slot < 4096) (hseq : seq < 2 ^ 32) {act : Nat} (h : act < 4)
    (hnone : ∀ r ∈ s.sump.recs, ¬(r.slot = slot ∧ r.seq = some seq)) :
    resumeWrite s (resumeValue slot seq act) = reject s pgSump := by
  have htarget : resumeTarget s (resumeValue slot seq act) = none := by
    rw [resumeTarget_resumeValue s hslot hseq h, List.find?_eq_none]
    simpa using hnone
  rw [resumeWrite, htarget]

/-- The record of a slot is closed. -/
def slotClosed (s : State) (n : Nat) : State :=
  { s with sump := { s.sump with recs := s.sump.recs.filter (fun x => x.slot != n) } }

theorem slotClosed_sump {t u : State} (h : t.sump = u.sump) (n : Nat) :
    (slotClosed t n).sump = { u.sump with recs := u.sump.recs.filter (fun x => x.slot != n) } := by
  rw [slotClosed, h]

/-- No fault takes the slot that frees. -/
theorem closeSlot_of_noslot (h : s.sump.noslot = []) (n : Nat) : closeSlot s n = slotClosed s n := by
  unfold closeSlot slotClosed
  dsimp only
  rw [h]
  rfl

section
variable {r : SRec} (hslot : slot < 4096) (hseq : seq < 2 ^ 32)
  (hr : s.sump.recs.find? (fun x => x.slot == slot && x.seq == some seq) = some r) (hno : s.sump.noslot = [])
include hslot hseq hr hno

omit hslot hseq hno in
theorem resumed_slot : r.slot = slot := by
  have hboth : (r.slot == slot && r.seq == some seq) = true :=
    List.find?_some (p := fun x : SRec => x.slot == slot && x.seq == some seq) hr
  exact beq_iff_eq.mp (Bool.and_elim_left hboth)

theorem resumeWrite_retry : resumeWrite s (resumeValue slot seq 1) =
    slotClosed (dropScope s ⟨1, r.first.aspace, r.first.va / 4096 % 2 ^ 45, .reg⟩) slot := by
  have hrslot : r.slot = slot := resumed_slot hr
  unfold resumeWrite
  rw [resumeTarget_resumeValue s hslot hseq (by decide), hr]
  dsimp only
  rw [resumeValue_action slot seq (by decide), if_pos rfl, hrslot,
    closeSlot_of_noslot ((congrArg Sump.noslot (dropScope_sump s _)).trans hno)]

theorem resumeWrite_fail : resumeWrite s (resumeValue slot seq 2) = r.waiters.foldl waiterFails (slotClosed s slot) := by
  have hrslot : r.slot = slot := resumed_slot hr
  unfold resumeWrite
  rw [resumeTarget_resumeValue s hslot hseq (by decide), hr]
  dsimp only
  rw [resumeValue_action slot seq (by decide), if_neg (by decide), if_pos rfl, hrslot, closeSlot_of_noslot hno]

end
end

/-! ### Waiters that fail (R79, R80, R325) -/

/-- An item that ends XLATE; an earlier error of its own stands. -/
def xlateFailed (it : Item) : Item := { it with err := some (it.err.getD (stXlate, 0, 0)), log := [] }

/-- An item of that number ends XLATE. -/
def failItem (s : State) (n : Nat) : State :=
  match s.item n with
  | some it => s.setItem n (some (xlateFailed it))
  | none => s

theorem waiterFails_of_item {s : State} {w : Waiter} (hkind : w.kind ≤ 4) (hitem : w.sub / 64 < 2 ^ 64) :
    waiterFails s w = failItem s (w.sub / 64) := by
  rw [waiterFails, if_neg (fun h => Nat.not_le.mpr hitem h.2), if_pos hkind]
  rfl

/-- A command that is neither a REGEN, nor an FPUT nor an FGET ends XLATE in its record. -/
theorem waiterFails_of_desc {s : State} {w : Waiter} {d : Desc} (hkind : w.kind = 5) (hsub : w.sub < 2 ^ 32)
    (hdesc : descAt s w.unit w.sub = some d) (hregen : d.opc ≠ 0x60) (hput : d.opc ≠ 0x42) (hget : d.opc ≠ 0x43) :
    waiterFails s w = finishDesc s w.unit w.sub stXlate 0 := by
  unfold waiterFails
  rw [if_neg (by omega), if_neg (by omega), if_pos hsub, hdesc]
  dsimp only
  rw [if_neg (fun h => hregen h.1), if_neg (fun h => h.elim hput hget)]

theorem foldl_waiterFails {l : List Waiter} (h : ∀ w ∈ l, w.kind ≤ 4 ∧ w.sub / 64 < 2 ^ 64) (s : State) :
    l.foldl waiterFails s = (l.map (fun w => w.sub / 64)).foldl failItem s := by
  induction l generalizing s with
  | nil => rfl
  | cons w l ih =>
    obtain ⟨hkind, hitem⟩ := h w List.mem_cons_self
    rw [List.foldl_cons, List.map_cons, List.foldl_cons, waiterFails_of_item hkind hitem]
    exact ih (fun x hx => h x (List.mem_cons_of_mem w hx)) _

/-- The state but for the items. -/
def quietItems (s : State) : State := { s with items := [] }

theorem failItem_quietItems (s : State) (n : Nat) : quietItems (failItem s n) = quietItems s := by
  unfold failItem
  split <;> rfl

theorem foldl_failItem_quietItems (l : List Nat) (s : State) : quietItems (l.foldl failItem s) = quietItems s :=
  foldl_leaves failItem_quietItems l s

theorem failItem_item (s : State) (n k : Nat) :
    (failItem s n).item k = if k = n then (s.item k).map xlateFailed else s.item k := by
  unfold failItem
  split
  · next it hit =>
    rw [setItem_item]
    split
    · next hk => rw [hk, hit, Option.map_some]
    · rfl
  · next hnone =>
    split
    · next hk => rw [hk, hnone, Option.map_none]
    · rfl

/-- However many waiters an item has, it fails once. -/
theorem foldl_failItem_item (l : List Nat) (s : State) (k : Nat) :
    (l.foldl failItem s).item k = if k ∈ l then (s.item k).map xlateFailed else s.item k := by
  induction l generalizing s with
  | nil => rfl
  | cons n l ih =>
    have htwice : ((s.item k).map xlateFailed).map xlateFailed = (s.item k).map xlateFailed := by
      rw [Option.map_map]
      rfl
    rw [List.foldl_cons, ih, failItem_item]
    by_cases hn : k = n
    · rw [if_pos hn, htwice, ite_self, if_pos (hn ▸ List.mem_cons_self)]
    · rw [if_neg hn]
      simp only [List.mem_cons, hn, false_or]

/-- FAIL of a record whose waiters are all items ends those items XLATE and no other. -/
theorem exec_sumpResumeFail_items {s : State} {slot seq : Nat} {r : SRec} (hlive : live s = true) (hslot : slot < 4096)
    (hseq : seq < 2 ^ 32) (hr : s.sump.recs.find? (fun x => x.slot == slot && x.seq == some seq) = some r)
    (hno : s.sump.noslot = []) (hitems : ∀ w ∈ r.waiters, w.kind ≤ 4 ∧ w.sub / 64 < 2 ^ 64) :
    ∃ t, exec (.sumpResumeFail slot seq) s = .next t ∧
      t.sump = { s.sump with recs := s.sump.recs.filter (fun x => x.slot != slot) } ∧ t.mem = s.mem ∧ t.regs = s.regs ∧
      t.queues = s.queues ∧
      (∀ w ∈ r.waiters, ∀ it, s.item (w.sub / 64) = some it → it.err = none →
        t.item (w.sub / 64) = some { it with err := some (stXlate, 0, 0), log := [] }) ∧
      (∀ n, (∀ w ∈ r.waiters, w.sub / 64 ≠ n) → t.item n = s.item n) := by
  rw [exec_sumpResumeFail hlive, resumeWrite_fail hslot hseq hr hno, foldl_waiterFails hitems]
  have hquiet := foldl_failItem_quietItems (r.waiters.map (fun w => w.sub / 64)) (slotClosed s slot)
  refine ⟨_, rfl, (congrArg State.sump hquiet :), (congrArg State.mem hquiet :), (congrArg State.regs hquiet :),
    (congrArg State.queues hquiet :), fun w hw it hit herr => ?_, fun n hn => ?_⟩
  · have hitem : (slotClosed s slot).item (w.sub / 64) = some it := hit
    rw [foldl_failItem_item, if_pos (List.mem_map_of_mem hw), hitem, Option.map_some, xlateFailed, herr, Option.getD_none]
  · rw [foldl_failItem_item, if_neg]
    · rfl
    · intro hmem
      obtain ⟨w, hw, hwn⟩ := List.mem_map.mp hmem
      exact hn w hw hwn

/-! ### Invalidations are accepted and complete (R316, R327, R356) -/

theorem blockAt_pgMmu : blockAt (pgMmu 0) = some (.mmu, 0) := rfl

/-- What MMU_INV_PAGE (1), MMU_INV_SPACE (2) and MMU_INV_ALL (3) write to MMU_INVCTL. -/
def invctlValue (aspace scope : Nat) : W64 := BitVec.ofNat 64 (aspace % 16 * 16 + scope)

theorem invctlValue_scope (aspace : Nat) {scope : Nat} (h : scope < 4) : fld 1 0 (invctlValue aspace scope) = scope := by
  rw [invctlValue, fld, BitVec.toNat_ofNat]
  omega

theorem invctlValue_aspace (aspace : Nat) {scope : Nat} (h : scope < 4) :
    fld 7 4 (invctlValue aspace scope) = aspace % 16 := by
  rw [invctlValue, fld, BitVec.toNat_ofNat]
  omega

section
variable {s : State} {c : Instr} {scope : Nat}

/-- The three rows of MMU_INVCTL are its write with their scope. -/
theorem exec_mmuInv {aspace : Nat} (hlive : live s = true)
    (hc : (c, scope) ∈ [(Instr.mmuInvPage aspace, 1), (.mmuInvSpace aspace, 2), (.mmuInvAll aspace, 3)]) :
    exec c s = .next (invctlWrite s (invctlValue aspace scope)) ∧ scope ≠ 0 ∧ scope < 4 := by
  have hwrite (n : Nat) : whenLive s (invctlWrite s (invctlValue aspace n)) = .next (invctlWrite s (invctlValue aspace n)) :=
    congrArg _ (if_pos hlive)
  simp only [List.mem_cons, Prod.mk.injEq, List.not_mem_nil, or_false] at hc
  rcases hc with ⟨rfl, rfl⟩ | ⟨rfl, rfl⟩ | ⟨rfl, rfl⟩ <;> exact ⟨hwrite _, by decide, by decide⟩

theorem invctlWrite_accepted {aspace : Nat} (hpos : scope ≠ 0) (hlt : scope < 4) (hroom : s.invs.length < 8) :
    invctlWrite s (invctlValue aspace scope) =
      { s with invs := s.invs ++ [⟨scope, aspace % 16, s.regF (pgMmu 0) 0x110 56 12, .reg⟩] } := by
  rw [invctlWrite, invctlValue_scope aspace hlt, invctlValue_aspace aspace hlt, if_neg (by omega), invAccept]

theorem invctlWrite_rejected (v : W64) (hfull : 8 ≤ s.invs.length) : invctlWrite s v = reject s (pgMmu 0) :=
  if_pos (.inr hfull)

variable {q idx : Nat} {d : Desc}

/-- An INVAL that starts, on the row of its scope. -/
theorem exec_inval (h : Starts s q idx 0x19 d) (hscope : d.op 32 1 = scope)
    (hc : (c, scope) ∈ [(Instr.invalPage q idx, 1), (.invalSpace q idx, 2), (.invalAll q idx, 3)]) :
    exec c s = .next (invalCmd q idx d s) := by
  obtain ⟨-, hdesc, -⟩ := id h
  have hrow : invalRow q idx scope s = .next (invalCmd q idx d s) := by
    unfold invalRow
    rw [hdesc]
    dsimp only
    rw [if_pos hscope, descRow_of_starts _ h]
  simp only [List.mem_cons, Prod.mk.injEq, List.not_mem_nil, or_false] at hc
  rcases hc with ⟨rfl, rfl⟩ | ⟨rfl, rfl⟩ | ⟨rfl, rfl⟩ <;> exact hrow

theorem startDesc_descAt (hd : descAt s q idx = some d) (waits : Nat) :
    descAt (startDesc s q idx waits) q idx = some { d with stage := .started, waits := waits } := by
  have hidx : (d.idx == idx) = true := List.find?_some (p := fun x : Desc => x.idx == idx) hd
  rw [startDesc, updDesc, descAt, setQueue_queue, if_pos rfl]
  exact find?_updFirst hd (fun _ _ hx => hx) hidx

theorem startDesc_queue_other (waits : Nat) {p : Nat} (hp : p ≠ q) : (startDesc s q idx waits).queue p = s.queue p := by
  rw [startDesc, updDesc, setQueue_queue, if_neg hp]

/-- The scope is dropped, the request is done and counted; its event is counted too. -/
def invCompleted (s : State) (r : InvReq) (rest : List InvReq) : State :=
  countEv { dropScope s r with invs := rest, invDone := (s.invDone + 1) % 2 ^ 32 } (pgMmu 0) 4 1

theorem noneCached_congr {t u : State} {r : InvReq} (hmmu : ∀ n, t.mmu n = u.mmu n) (hcu : ∀ n, t.cu n = u.cu n)
    (hqueue : ∀ n, t.queue n = u.queue n) : NoneCached t r ↔ NoneCached u r := by
  simp only [NoneCached, hmmu, hcu, hqueue]

theorem invCompleted_noneCached (s : State) (r : InvReq) (rest : List InvReq) : NoneCached (invCompleted s r rest) r :=
  (noneCached_congr (countEv_mmu _ _ _ _) (countEv_cu _ _ _ _) (countEv_queue _ _ _ _)).mpr (dropScope_noneCached s r)

/-- An invalidation that a descriptor asked for ends it OK. -/
def sourceEnded (s : State) : InvSrc → State
  | .desc q idx => finishDesc s q idx stOk 0
  | .reg => s

theorem exec_invalidationDone {r : InvReq} {rest : List InvReq} (hlive : live s = true) (hinvs : s.invs = r :: rest)
    (hloads : loadsIn s r = false) (hremote : remoteIn s r = false) :
    exec .invalidationDone s = .next (sourceEnded (invCompleted s r rest) r.src) := by
  show execInvalidationDone s = _
  rw [execInvalidationDone, whenLive, if_pos hlive, hinvs]
  dsimp only
  rw [hloads, hremote, Bool.or_self, if_neg Bool.false_ne_true]
  cases r.src <;> rfl

end

/-- Settles O47, operation by operation: what is written, waits or is rejected at the sump, which items and commands a
resume ends, and that dropping a scope clears every cache of the module. -/
theorem sumpRecordsAndInvalidationsServeTheDriver : Obligations.SumpRecordsAndInvalidationsServeTheDriver := by
  unfold Obligations.SumpRecordsAndInvalidationsServeTheDriver
  refine ⟨fun slot r s hlive hslot hfound hseq hdue honly hr => ?_, fun v s hlive => ⟨fun hout => ?_, fun hin hdue => ?_⟩,
    fun slot seq s hlive hslot hseq => ⟨fun hnone c hc => ?_, fun r hr hno => ⟨?_, fun hitems => ?_, ?_⟩⟩,
    fun aspace scope c s hlive hc => ?_, fun q idx scope c d s hstarts hscope hc => ?_,
    fun r rest s hlive hinvs hloads hremote => ?_⟩
  · have h : Merging s slot r := ⟨hslot, hfound, hseq, hdue, honly, hr⟩
    exact ⟨h.exec_withRoom hlive, h.exec_withoutRoom hlive⟩
  · exact ⟨_, exec_sumpConsWrite_rejected hlive hout, reject_recorded s blockAt_pgSump⟩
  · exact exec_sumpConsWrite_moves hlive hin hdue
  · refine ⟨reject s pgSump, ?_, reject_recorded s blockAt_pgSump⟩
    rcases List.mem_pair.mp hc with rfl | rfl
    · rw [exec_sumpResumeRetry hlive, resumeWrite_rejected hslot hseq (by decide) hnone]
    · rw [exec_sumpResumeFail hlive, resumeWrite_rejected hslot hseq (by decide) hnone]
  · rw [exec_sumpResumeRetry hlive, resumeWrite_retry hslot hseq hr hno]
    exact ⟨_, rfl, slotClosed_sump (dropScope_sump s _) slot,
      (noneCached_congr (fun _ => rfl) (fun _ => rfl) (fun _ => rfl)).mpr (dropScope_noneCached s _),
      dropScope_mem s _, dropScope_regs s _, dropScope_items s _⟩
  · exact exec_sumpResumeFail_items hlive hslot hseq hr hno hitems
  · intro w d hw hkind hsub hdesc hregen hput hget
    rw [exec_sumpResumeFail hlive, resumeWrite_fail hslot hseq hr hno, hw]
    exact congrArg _ (waiterFails_of_desc (s := slotClosed s slot) hkind hsub hdesc hregen hput hget)
  · obtain ⟨hexec, hpos, hlt⟩ := exec_mmuInv hlive hc
    refine ⟨fun hroom => ?_, fun hfull => ?_⟩
    · rw [hexec, invctlWrite_accepted hpos hlt hroom]
    · rw [hexec, invctlWrite_rejected _ hfull]
      exact ⟨_, rfl, reject_recorded s blockAt_pgMmu, reject_invs s _⟩
  · obtain ⟨-, hdesc, -⟩ := id hstarts
    refine ⟨fun hroom => ?_, fun hfull => ?_⟩
    · rw [exec_inval hstarts hscope hc, invalCmd, if_neg (Nat.not_le.mpr hroom), hscope]
      exact ⟨_, rfl, startDesc_descAt hdesc 0, rfl, rfl, rfl, fun p hp => startDesc_queue_other 0 hp⟩
    · rw [exec_inval hstarts hscope hc, invalCmd, if_pos hfull]
  · have hexec := exec_invalidationDone hlive hinvs hloads hremote
    refine ⟨invCompleted s r rest, invCompleted_noneCached s r rest, countEv_invs _ _ _ _, countEv_invDone _ _ _ _,
      (countEv_regs _ _ _ _).trans (dropScope_regs s r), (countEv_items _ _ _ _).trans (dropScope_items s r),
      fun hsrc => ?_, fun q idx hsrc => ?_⟩
    · rw [hexec, hsrc, sourceEnded]
    · rw [hexec, hsrc, sourceEnded]

end Sys2Proof.Proofs
end
